-- ==== Sys2Proof/Word.lean ====
section
/-! DEFINITION. The words of the model: bytes, registers, member addresses, epochs. Bit vectors are used where the
manual treats a value as bits (R6, R58, R59, R73); counts and indexes are natural numbers. -/

namespace Sys2Proof

/-- One byte of the stack, of a frame or of an image (R6). -/
abbrev Byte := BitVec 8

/-- A member address: X, Y, Z and INST (R58). -/
abbrev Addr := BitVec 25

/-- A tenant tag (R94); 0x0000 is no tenant. -/
abbrev Tag := BitVec 16

/-- A membership generation (R232). -/
abbrev Gen := BitVec 32

/-- A 64-bit register word (R381). -/
abbrev Word := BitVec 64

/-- A data line of the ports, 64 bytes (R35). -/
abbrev Line := BitVec 512

/-- A finite map from natural numbers held as plain data: keys strictly rising. -/
abbrev NMap (α : Type) := List (Nat × α)

/-- The INST field of a member address (R58). -/
def Addr.inst (a : Addr) : BitVec 4 := a.extractLsb' 21 4

/-- The X, Y and Z fields of a member address: the chip (R58). -/
def Addr.chip (a : Addr) : BitVec 21 := a.extractLsb' 0 21

/-- The member address of instance `i` of the chip of `a` (R58). -/
def Addr.sibling (a : Addr) (i : BitVec 4) : Addr := i ++ a.chip

end Sys2Proof
end

