-- ==== Sys2Proof/Config.lean ====
section
/-! DEFINITION. What an implementation or its host fixes, the fixed capacities of the manual (R25), and the free
values: opaque constants without a body, so that no proof can see a value of them. -/

namespace Sys2Proof.Config

/-- Bytes of the stack behind the gate: the whole 36-bit address space of NQ_ADDR (R35). DESIGN CHOICE, log entry 3. -/
def stackBytes : Nat := 2 ^ 36

/-- Bytes of a panel (R40). -/
def panelBytes : Nat := 4096

/-- Largest LENP of a region and the live limit, in panels (R84, R25). -/
def liveLimit : Nat := 5242880

/-- Entries of the context table (R85). -/
def ctxEntries : Nat := 65536

/-- Transactions of the hold park (R50). -/
def parkSize : Nat := 256

/-- Records of the Hawk index (R190). -/
def hawkRecords : Nat := 8192

/-- KiB of delta staging (R67, R189). -/
def stagingKiB : Nat := 23488

/-- Frames one engine may have outstanding (R68). -/
def maxOutstanding : Nat := 512

/-- Entries of the request table of BADGER_REQ and AUDIT_REQ (R66). -/
def requestTable : Nat := 512

/-- Accumulator reservation of all rebuild and audit runs of one instance, in 4 KiB units: 384 KiB (R264). -/
def reservationUnits : Nat := 96

/-- Entries of the repair queue (R272). -/
def repairQueue : Nat := 256

/-- Entries of the watch table (R237). -/
def watchEntries : Nat := 640

/-- Multicast groups of the endpoint (R69). -/
def groupLimit : Nat := 1024

/-- Entries of the commit tree over all tables and tenants, and children per table (R218). -/
def treeEntries : Nat := 2048
def treeChildren : Nat := 1120

/-- Entries of the history queue and of the torn list (R321, R334). -/
def historySize : Nat := 32
def tornSize : Nat := 64

/-- Lines the lookaside holds (R42). -/
def lookasideLines : Nat := 128

/-- The optional capabilities 0x05 to 0x0A the implementation has, bit i - 1 for ID i (R356): all of them here.
DESIGN CHOICE, log entry 4: the image's CAPMASK still decides which are present. -/
def implementedCaps : BitVec 10 := 0x3FF

/-- The implementation step IMPL of MNL_ID (R386): a free value, log entry 5. -/
opaque implStep : BitVec 16

/-- Contentions resolved at the arbiters between a reading of MNL_EVC_CONTEND or the reset before it and the reading that
takes the n-th free value (R31, R32, R399): a free value; the queue of commands shows no contention. Log entry 5. -/
opaque contentions : Nat → BitVec 64

/-- Handshakes a unit has completed, at the n-th dump that shows them (R336): a free value, log entry 5. -/
opaque unitHandshakes : Nat → BitVec 64

/-- Host time of a unit's last handshake, at the n-th dump that shows it (R336): a free value, log entry 5. -/
opaque unitHandshakeTime : Nat → BitVec 64

/-- A byte of the Hawk occupancy map of the n-th dump (R336): which blocks a delta lies in is the implementation's, so the
map is a free value. Log entry 5. -/
opaque hawkMapByte : Nat → Nat → BitVec 8

/-- Where in its slot's allocation a staged delta lies, at the n-th free value (R190): the implementation's. Log entry 178. -/
opaque hawkPlace : Nat → BitVec 17

/-- A byte of the persistent page's windows and summary (R334), to which the manual gives no layout: a free value. Log
entry 5. -/
opaque windowsByte : Nat → BitVec 8

/-- The period of CLK_T in ns as measured, 1 to 4 (R374, R380): the integrator fixes it; a free value, log entry 5. -/
opaque clkPeriod : BitVec 3

/-- What the controller's atomic sub-operation leaves in a line (R36, R45): the gate interprets neither NQ_AOP nor the
data, so the line's bytes after the n-th atomic are a free value. Log entry 6. -/
opaque atomicLine : Nat → BitVec 512

/-- Which of the sixteen records of a directory line with an uncorrectable error can still be read, at the n-th free
value, a bit a record (R55): the manual does not say. A free value, log entry 175. -/
opaque readableRecords : Nat → BitVec 16

end Sys2Proof.Config
end

