-- ==== Sys2Proof/Syntax.lean ====
section
/-! DEFINITION. The commands the block takes: one constructor of `Instr` for each row of spec/opcode_table.json, with
the operands the row's event carries (what a request, a frame, a pin or a monitor brings). -/

namespace Sys2Proof

/-- A network-side request (R35). -/
structure NqReq where
  space : BitVec 2
  op    : BitVec 3
  aop   : BitVec 4
  addr  : BitVec 36
  tag   : Tag
  id    : BitVec 10
  be    : BitVec 64
  data  : Line
  deriving DecidableEq, Repr, Inhabited

/-- A register-window write seen by the register it names: who writes, and the transaction to answer (R35, R381). -/
structure Acc where
  tag : Tag
  id  : BitVec 10
  deriving DecidableEq, Repr, Inhabited

/-- A memory-side response (R36): its MQ_ID, MS_ERR and MS_DATA. `addr` names the line when the response answers a read
of the block itself and not a host request. -/
structure MsResp where
  id   : BitVec 12
  err  : BitVec 2
  data : Line
  addr : BitVec 36
  deriving DecidableEq, Repr, Inhabited

/-- A received Holtupel frame as the endpoint takes it (R73): EI_ERR, every header field, the T word, the payload, the
CRC, and the host time last sampled when it arrives (R28). -/
structure Rx where
  eiErr   : Bool
  typ     : Byte
  ver     : BitVec 4
  mark    : Bool
  retx    : Bool
  elided  : Bool
  rsv1    : Bool
  tenant  : Tag
  gen     : Gen
  epoch   : BitVec 48
  src     : Addr
  tr      : BitVec 7
  len     : BitVec 13
  rsv2    : BitVec 3
  t       : BitVec 64
  payload : List Byte
  crc     : BitVec 32
  time    : BitVec 64
  deriving DecidableEq, Repr, Inhabited

/-- GLOBAL section fields (R350); the timers in the units their registers give. -/
structure GlobalSect where
  xe : Nat := 1
  ye : Nat := 1
  ze : Nat := 1
  vcSkim : BitVec 4 := 0
  vcBadger : BitVec 4 := 1
  vcControl : BitVec 4 := 2
  vcIntake : BitVec 4 := 3
  /-- GB/s (R64). -/
  ctrlRate : Nat := 8
  /-- µs (R64). -/
  rtoSkim : Nat := 100
  /-- µs (R64). -/
  drainTimeout : Nat := 20
  /-- ms (R64). -/
  resumeWait : Nat := 10
  /-- µs (R238). -/
  hbPeriod : Nat := 50
  /-- µs (R238). -/
  confirmWait : Nat := 200
  /-- ms (R238). -/
  discWait : Nat := 100
  /-- µs (R227). -/
  voteRepeat : Nat := 50
  /-- BADGER_RTO, µs (R276). -/
  rto : Nat := 1000
  run : Nat := 32
  depth : Nat := 64
  /-- ms (R296). -/
  tagQuiet : Nat := 10
  /-- ms (R296). -/
  moveRto : Nat := 10
  /-- µs (R330). -/
  wdUnit : Nat := 100
  wdBadger : Nat := 1000
  wdSeq : Nat := 1000
  /-- units of 2 µs (R340). -/
  wdMem : Nat := 500
  /-- s (R332). -/
  escWindow : Nat := 600
  escLimit : Nat := 4
  /-- s (R331). -/
  unitWindow : Nat := 60
  unitLimit : Nat := 8
  /-- ms (R327). -/
  scrubPeriod : Nat := 100
  capmask : BitVec 10 := 0
  /-- ms (R360). -/
  switchWait : Nat := 10000
  deriving DecidableEq, Repr, Inhabited

/-- What a membership slot is (R86). -/
inductive SlotKind where
  | unused
  | sett
  | replica
  deriving DecidableEq, Repr, Inhabited

/-- INSTANCE section fields (R350), with the chip's torus coordinate (log entry 7). -/
structure InstSect where
  inst : BitVec 4 := 0
  /-- The INST the image designates chip manager (R12). -/
  manager : BitVec 4 := 0
  chip : BitVec 21 := 0
  place : BitVec 64 := 0
  feed : BitVec 16 := 0
  plane : BitVec 8 := 0
  /-- GiB (R39). -/
  spanBase : Nat := 0
  spanLen : Nat := 0
  /-- Byte address (R302). -/
  dgBase : Nat := 0
  lanes : BitVec 32 := 0
  kinds : List SlotKind := []
  /-- Hawk allocations A_s in 64 KiB units, by slot (R189). -/
  alloc : List Nat := []
  react : BitVec 14 := 0x0816
  /-- Pairs of event code and level (R320). -/
  raise : List (Byte × Nat) := []
  deriving DecidableEq, Repr, Inhabited

/-- One row of a rank table or member list (R102, R352). -/
structure Row where
  addr  : Addr
  mslot : BitVec 4
  dcap  : Nat
  place : BitVec 64
  feed  : BitVec 16
  plane : BitVec 8
  deriving DecidableEq, Repr, Inhabited

/-- A sett descriptor (R102). -/
structure SettDesc where
  settId : BitVec 24 := 0
  k : Nat := 0
  m : Nat := 0
  rank : Nat := 0
  pbase : Nat := 0
  q : Nat := 0
  coef : List Byte := []
  rows : List Row := []
  deriving DecidableEq, Repr, Inhabited

/-- A replica-set descriptor (R352). -/
structure RepDesc where
  setId : BitVec 24 := 0
  dcap : Nat := 0
  index : Nat := 0
  pair : Nat := 0
  rows : List Row := []
  deriving DecidableEq, Repr, Inhabited

/-- The decoded content of the sections whose byte layout the manual does not give (R350, R102, R352; log entry 7). -/
structure Content where
  glob  : GlobalSect := {}
  insts : List InstSect := []
  setts : List (BitVec 4 × Nat × SettDesc) := []
  reps  : List (BitVec 4 × Nat × RepDesc) := []
  /-- SETT sections, by INST and slot, that hold anything beside their descriptor (R105, check 1). -/
  surplus : List (BitVec 4 × Nat) := []
  deriving DecidableEq, Repr, Inhabited

/-- What the bytes of those sections say where a command brings an object and no decoded content beside it: a free value,
one for each object (log entry 7). -/
opaque Config.sectionContent : List Byte → Content

/-- An object read by the loader (R341, R342): whether every read succeeded, its bytes before the trailer, the 256
trailer bytes, and the decoded content. -/
structure ObjRead where
  readOk  : Bool
  /-- Address of the read that failed. -/
  addr    : BitVec 32 := 0
  bytes   : List Byte
  trailer : List Byte
  content : Content
  deriving DecidableEq, Repr, Inhabited

/-- What SFDP discovery finds on the flash (R346). -/
structure Sfdp where
  signature : Bool
  basicTable : Bool
  xspiTable : Bool
  /-- Flash density in bytes. -/
  density : Nat
  /-- Declared maximum frequency, MHz. -/
  maxMHz : Nat
  deriving DecidableEq, Repr, Inhabited

/-- Which rail has left its range (R366). -/
inductive Rail where
  | vsc
  | vscm
  | both
  deriving DecidableEq, Repr, Inhabited

/-- A decision of the job manager as the lath or a frame shows it (R224, R225). -/
inductive Decision where
  | commit (epoch : Nat) (tr : BitVec 7)
  | abort (epoch : Nat) (tr : BitVec 7) (reason : Byte)
  deriving DecidableEq, Repr, Inhabited

/-- A change of membership (R233). -/
structure Update where
  kind    : BitVec 4
  imask   : BitVec 12
  newGen  : Gen
  prevGen : Gen
  subject : Addr
  target  : Addr
  deriving DecidableEq, Repr, Inhabited

/-- What a lath transfer says (R12, R217, R222, R226, R235, R348). The manual gives its CRC, not its layout (R397). -/
inductive LathMsg where
  | vote (inst : BitVec 4) (tidx : Nat) (ready : Bool) (epoch : Nat) (tr : BitVec 7)
  | holdsRank (inst : BitVec 4) (tidx : Nat) (holds : Bool)
  | inService (inst : BitVec 4) (up : Bool)
  | decision (tidx : Nat) (d : Decision)
  /-- A STEP_ABORT request: the sender's level, REASON, and its open epoch and try (R226). -/
  | request (inst : BitVec 4) (tidx : Nat) (level : Nat) (reason : Byte) (epoch : Nat) (tr : BitVec 7)
  /-- The pod manager's count to a job manager of the same chip. -/
  | podVote (inst : BitVec 4) (tidx : Nat) (ready : Nat) (epoch : Nat) (tr : BitVec 7)
  | update (tidx : Nat) (u : Update)
  | distribute (obj : ObjRead)
  | answer (inst : BitVec 4) (accept : Bool)
  | taken (copy : Bool)
  /-- Neither copy is taken. -/
  | noneTaken
  deriving DecidableEq, Repr, Inhabited

/-- A lath transfer: its payload and CRC as first received, those of the repeat, and what it says (R397). -/
structure LathXfer where
  payload1 : List Byte
  crc1 : BitVec 32
  payload2 : List Byte
  crc2 : BitVec 32
  msg : LathMsg
  deriving DecidableEq, Repr, Inhabited

/-- What a ring walk finds (R375, R380, R396, R397): the straps read clockwise from the walker, the round trip in ns,
whether the walk returned, and the two link checks. -/
structure WalkResult where
  straps : List (BitVec 4)
  rtt : BitVec 16
  closed : Bool
  cwUp : Bool
  ccwUp : Bool
  deriving DecidableEq, Repr, Inhabited

/-- A reset unit (R331). -/
inductive ResetUnit where
  | lane (g : Fin 4)
  | gf (i : Fin 2)
  | endpoint
  | badger
  | instance_
  deriving DecidableEq, Repr, Inhabited

/-- A progress watchdog (R330). -/
inductive Watchdog where
  | lane (g : Fin 4)
  /-- The engine, and the sett slot whose accumulation it had in progress (R205). -/
  | gf (i : Fin 2) (busy : Option (Fin 16))
  | endpoint
  | badger
  | sequencer
  /-- The memory path, with the MQ_ID of the overdue request. -/
  | memory (id : BitVec 12)
  deriving DecidableEq, Repr, Inhabited

/-- An SRAM array (R26, R327). -/
inductive SramArray where
  | hawk
  | localStore
  | contextTable
  | dedupe
  | banks
  | crash
  | control
  deriving DecidableEq, Repr, Inhabited

/-- A fault met while a step of the block reads its arrays or the stack (R148, R179, R205, R304, R327). -/
inductive ReadFault where
  | none
  /-- A micro-op fetched with an uncorrectable error (R179). -/
  | microop
  /-- The local store's working area (R148). -/
  | working
  /-- An intake line of the given chunk (R148). -/
  | intake (chunk : Nat)
  /-- A block of the Hawk buffer holding the record of this sequence in its slot (R205). -/
  | hawk
  /-- The stack, at a byte address, with MS_ERR 10 (R55). -/
  | stack (addr : BitVec 36)
  /-- A word of the digest table (R304). -/
  | digestWord
  deriving DecidableEq, Repr, Inhabited

/-- What a scrub pass finds in one word (R327, R328). -/
inductive ScrubFind where
  | corrected (a : SramArray)
  /-- Uncorrectable, with the entry, source-entry or byte index the word belongs to. -/
  | uncorrectable (a : SramArray) (index : Nat)
  /-- A voted word with one copy differing. -/
  | outvoted
  /-- A voted word without a majority: its place, counted over the 8-byte words of the record and after them those of the
  mirror from 0x0C00 on (DESIGN CHOICE, log entry 151). -/
  | noMajority (word : Nat)
  deriving DecidableEq, Repr, Inhabited

/-- What Primer has finished (R278). -/
inductive PrimeTarget where
  | entry (idx : Nat)
  | slot (s : Nat)
  deriving DecidableEq, Repr, Inhabited

/-- Which repeat VOTE_REPEAT drives (R227, R241, R245, R258). -/
inductive RepeatKind where
  | podVote
  | chipVote
  | solicit
  | request
  | targetRequest
  | report (subject : Addr)
  deriving DecidableEq, Repr, Inhabited

/-- What Render or a rebuild run of an engine is asked for: a sett slot, and the first parity panel. -/
structure RunSel where
  slot : Nat
  first : Nat
  deriving DecidableEq, Repr, Inhabited

/-- The injection of a frame: EO_READY of the four channels as it stands, and the host time (R60, R61, R64). -/
structure InjectAt where
  ready : BitVec 4
  now : BitVec 64
  deriving DecidableEq, Repr, Inhabited

/-- A group-setup frame's sending: the group's handle, and EO_READY of the setup channel as it stands (R61, R70). -/
structure SetupAt where
  handle : BitVec 10
  ready : Bool
  deriving DecidableEq, Repr, Inhabited

/-- A write of MNL_IB_CMD with DISARM: its BANK field stands in the register too (R182). -/
structure DisarmW where
  acc : Acc
  bank : Bool
  deriving DecidableEq, Repr, Inhabited

/-- A write of MNL_AU_CTRL with STOP: its SLOT field stands in the register too (R317). -/
structure StopW where
  acc : Acc
  slot : BitVec 4
  deriving DecidableEq, Repr, Inhabited

/-- An attempt of a tenant (R213, R214). -/
structure AttemptId where
  tidx : Fin 64
  epoch : BitVec 48
  tr : BitVec 7
  deriving DecidableEq, Repr, Inhabited

/-- A watchdog that expires, and the host time it does (R29, R330). -/
structure WatchdogAt where
  dog : Watchdog
  now : BitVec 64
  deriving DecidableEq, Repr, Inhabited

/-- The commands of the block, one per row of spec/opcode_table.json. -/
inductive Instr where
  -- power, reset, test
  | mlResetAssert
  | mlResetRelease (owner : BitVec 384) (flash : Bool) (inst : BitVec 4) (testEn : Bool) (sfdp : Sfdp)
  | powerRailLoss (r : Rail)
  | testAccessOpen
  | testEnIgnored
  -- configuration
  | flashCopyLoaded (o : ObjRead)
  | distributionAnswer (inst : BitVec 4) (accept : Bool)
  | distributionTimeout (inst : BitVec 4)
  | lathConfigTimeout
  | feedBegin (a : Acc)
  | cfFeed (a : Acc) (data : Word)
  | feedEnd (a : Acc) (content : Content)
  | cfStage (a : Acc) (readOk : Bool) (content : Content)
  | cfArm (a : Acc)
  | cfDisarm (a : Acc)
  | cfDiscard (a : Acc)
  | configSwitch
  | switchWaitExpiry
  -- time and monitors
  | timeCounterStall
  | timeSampleInvalid (sample : BitVec 64)
  | timeAdvanceHold (now : BitVec 64)
  | marginClassChange (mon : Fin 15) (slack : Byte)
  | monitorNormalHold (mon : Fin 15)
  -- gate
  -- `sramBad`: the context entry consulted holds an uncorrectable error (R55)
  | hostMemoryRead (q : NqReq) (sramBad : Bool)
  | hostMemoryWrite (q : NqReq) (sramBad : Bool)
  | hostMemoryAtomic (q : NqReq) (sramBad : Bool)
  | memoryResponse (r : MsResp)
  | directWriteComplete (id : BitVec 10)
  | foldWalkerPass
  -- endpoint
  | frameInject (x : InjectAt)
  | htLevelChange (level : BitVec 4) (now : BitVec 64)
  | groupSetupWrite (x : SetupAt)
  | groupSetupResend (x : SetupAt)
  | groupSetupRetry (x : SetupAt)
  | groupConfirm (f : Rx)
  | skimRetransmitTimeout (slot : Nat) (seq : BitVec 32) (peer : Addr)
  | routeReq (a : Acc)
  | routeResume (a : Acc)
  | routeDrained
  | routeDrainTimeout
  | resumeWaitExpiry
  -- frames
  | skimDelta (f : Rx) (flt : ReadFault)
  | skimAck (f : Rx)
  | epochMark (f : Rx)
  | commitPrep (f : Rx)
  | commitVote (f : Rx)
  | commitDecide (f : Rx)
  | stepAbortDecision (f : Rx)
  | stepAbortRequest (f : Rx)
  | heartbeat (f : Rx)
  | fence (f : Rx)
  | intake (f : Rx)
  | badgerReq (f : Rx) (flt : ReadFault)
  | badgerReqDigestOnly (f : Rx)
  | badgerPart (f : Rx)
  | auditReq (f : Rx) (flt : ReadFault)
  | auditPart (f : Rx)
  | auditCorrection (f : Rx)
  | auditRelease (f : Rx)
  | digestXLockstep (f : Rx)
  | digestXRebuild (f : Rx)
  | completionRecord (f : Rx)
  | resliceCount (f : Rx)
  | resliceDone (f : Rx)
  | resliceResend (f : Rx)
  | resliceSealed (f : Rx)
  | resliceCancel (f : Rx)
  | resliceMove (f : Rx)
  | render (f : Rx)
  | renderRequest (r : RunSel)
  | discover (f : Rx)
  | discoverReply (f : Rx)
  | membershipQuerySync (f : Rx)
  | membershipQueryWitness (f : Rx)
  | membershipQueryAnswer (f : Rx)
  | membershipQueryReport (f : Rx)
  | membershipUpdate (f : Rx)
  | handoverOffer (f : Rx)
  | handoverTaken (f : Rx)
  | handoverRefused (f : Rx)
  | statusQuery (f : Rx)
  | statusReply (f : Rx)
  -- context window
  | ctxRead (a : Acc)
  | install (a : Acc)
  | modify (a : Acc)
  | retire (a : Acc)
  | find (a : Acc)
  | handoverOut (a : Acc)
  | handoverOfferRepeat (ctx : Nat)
  | primerComplete (p : PrimeTarget)
  -- intake
  | intakeWindowWrite (q : NqReq)
  | chunkAllocate (tidx : Fin 64) (now : BitVec 64)
  | intakeReopen (a : Acc)
  -- sweep
  | attemptOpen (tidx : Fin 64)
  | sweepSectionRun (tidx : Fin 64) (flt : ReadFault)
  | sweepStrip (tidx : Fin 64) (flt : ReadFault)
  | sweepPanelWritten (tidx : Fin 64)
  | retiringPanelZero (tidx : Fin 64)
  -- program banks
  | ibLoad (a : Acc) (bank : Bool) (readOk : Bool)
  | ibLoadComplete
  | ibArm (a : Acc) (bank : Bool)
  | ibDisarm (w : DisarmW)
  -- skim injector
  | skimDeltaSend (now : BitVec 64)
  | epochMarkSend (slot : Fin 16)
  | skimAckSend (slot : Fin 16) (rank : Nat)
  -- commit
  | voteReady (tidx : Fin 64) (now : BitVec 64)
  | voteRepeatExpiry (tidx : Fin 64) (what : RepeatKind)
  | abortWaitExpiry (x : AttemptId)
  | ecAbort (a : Acc) (autoAbort : Bool)
  -- Fox
  | heartbeatSend (tidx : Fin 64) (now : BitVec 64)
  | suspicionDeadline (entry : Nat)
  | confirmWaitExpiry (entry : Nat)
  | discoverSend (slot : Fin 16)
  | discWaitExpiry (entry : Nat)
  | fabricManagerReport (a : Acc) (addr : Addr) (chip : Bool) (now : BitVec 64)
  | evict (a : Acc) (addr : Addr) (chip : Bool)
  | membershipUpdateIssue (tidx : Fin 64) (now : BitVec 64)
  -- Badger
  | badgerStart (tidx : Fin 64)
  | badgerRunRequest (tidx : Fin 64)
  | badgerRtoTarget (tidx : Fin 64) (panel : Nat)
  | badgerRtoHelper (entry : Nat)
  | completionRecordRepeat (tidx : Fin 64) (ctx : Option Nat)
  | bgRetry (a : Acc) (hold : Bool)
  -- reslice, teardown, export
  | rsSeal (a : Acc)
  | rsArm (a : Acc)
  | rsDisarm (a : Acc)
  | teardown (a : Acc)
  | teardownComplete (tidx : Fin 64)
  | export_ (a : Acc)
  | exportComplete (flt : ReadFault)
  | moveRtoExpiry (tidx : Fin 64) (src : Addr)
  | tagQuietExpiry (tidx : Fin 64)
  -- audit and lockstep
  | auditStart (a : Acc) (slot : BitVec 4)
  | auditStop (w : StopW)
  | auditRunRequest
  | lockstepSend (pair : Fin 15)
  | stateRootComplete (tidx : Fin 64)
  -- faults
  | fltDust (a : Acc)
  | dustDrainComplete (drained : List (Nat × Nat × Byte)) (torn : List (Nat × Nat × Byte))
  | crashCaptureComplete
  | fltLift (a : Acc)
  | fltReturn (a : Acc)
  | resetLaneGroup (a : Acc) (g : Fin 4)
  | resetGfEngine (a : Acc) (i : Fin 2) (busy : Option (Fin 16))
  | resetEndpoint (a : Acc)
  | resetBadger (a : Acc)
  | resetInstance (a : Acc)
  | watchdogExpiry (x : WatchdogAt)
  | unitResetComplete (u : ResetUnit)
  | instanceResetComplete (now : BitVec 64)
  | fltSummaryClear (a : Acc) (mask : BitVec 14)
  | cdCapture (a : Acc) (fmt : Bool) (page : BitVec 6)
  | cdRelease (a : Acc) (fmt : Bool) (page : BitVec 6)
  | fltQuery (a : Acc) (addr : Addr) (tenant : Tag)
  | scrubPass (finds : List ScrubFind)
  | statusMirrorWrite (now : BitVec 64)
  -- lath
  | lathTransfer (x : LathXfer)
  | lathRingWalk (w : WalkResult)
  -- register window
  | registerWrite (q : NqReq)
  | rcRead (q : NqReq)
  -- added rows
  | railRestore
  | testEnFall
  | activityRampAdmit
  | resliceCountPoll (tidx : Fin 64) (dest : Addr)
  | auditRunTimeout (s0 : Nat)
  deriving DecidableEq, Repr

end Sys2Proof
end

