-- ==== Sys2Proof/WellFormed.lean ====
section
/-! DEFINITION. Well-formed commands: the operands lie in the ranges the manual gives them. -/

namespace Sys2Proof

/-- A received frame carries at most 4,096 payload bytes (R73). -/
def rxOk (f : Rx) : Bool := decide (f.payload.length ≤ 4096)

/-- A panel the drain names: a physical panel of the 36-bit stack, and a kind of R335. -/
def panelKindOk (p : Nat × Nat × Byte) : Bool :=
  decide (p.1 < 2 ^ 24) && decide (p.2.1 < 2 ^ 16) && decide (1 ≤ p.2.2.toNat) && decide (p.2.2.toNat ≤ 3)

/-- An object is at most 16 MiB with a trailer of 256 bytes (R341, R342). -/
def objOk (o : ObjRead) : Bool := decide (o.bytes.length ≤ 2 ^ 24) && decide (o.trailer.length ≤ 256)

/-- Primer's range is an entry or a slot (R278). -/
def primeOk : PrimeTarget → Bool
  | .entry i => decide (i < Config.ctxEntries)
  | .slot k => decide (k < 16)

/-- Whether a command's operands lie in their ranges. -/
def Instr.wf : Instr → Bool
  | .mlResetAssert => true
  | .mlResetRelease _ _ inst _ _ => decide (inst.toNat < 12)
  | .powerRailLoss _ => true
  | .testAccessOpen => true
  | .testEnIgnored => true
  | .flashCopyLoaded o => objOk o
  | .distributionAnswer inst _ => decide (inst.toNat < 12)
  | .distributionTimeout inst => decide (inst.toNat < 12)
  | .lathConfigTimeout => true
  | .feedBegin _ => true
  | .cfFeed _ _ => true
  | .feedEnd _ _ => true
  | .cfStage _ _ _ => true
  | .cfArm _ => true
  | .cfDisarm _ => true
  | .cfDiscard _ => true
  | .configSwitch => true
  | .switchWaitExpiry => true
  | .timeCounterStall => true
  | .timeSampleInvalid _ => true
  | .timeAdvanceHold _ => true
  | .marginClassChange _ slack => decide (slack.toNat ≤ 100)
  | .monitorNormalHold _ => true
  | .hostMemoryRead _ _ => true
  | .hostMemoryWrite _ _ => true
  | .hostMemoryAtomic _ _ => true
  | .memoryResponse _ => true
  | .directWriteComplete _ => true
  | .foldWalkerPass => true
  | .frameInject .. => true
  | .htLevelChange _ _ => true
  | .groupSetupWrite .. => true
  | .groupSetupResend .. => true
  | .groupSetupRetry .. => true
  | .groupConfirm f => rxOk f
  | .skimRetransmitTimeout _ _ _ => true
  | .routeReq _ => true
  | .routeResume _ => true
  | .routeDrained => true
  | .routeDrainTimeout => true
  | .resumeWaitExpiry => true
  | .skimDelta f _ => rxOk f
  | .skimAck f => rxOk f
  | .epochMark f => rxOk f
  | .commitPrep f => rxOk f
  | .commitVote f => rxOk f
  | .commitDecide f => rxOk f
  | .stepAbortDecision f => rxOk f
  | .stepAbortRequest f => rxOk f
  | .heartbeat f => rxOk f
  | .fence f => rxOk f
  | .intake f => rxOk f
  | .badgerReq f _ => rxOk f
  | .badgerReqDigestOnly f => rxOk f
  | .badgerPart f => rxOk f
  | .auditReq f _ => rxOk f
  | .auditPart f => rxOk f
  | .auditCorrection f => rxOk f
  | .auditRelease f => rxOk f
  | .digestXLockstep f => rxOk f
  | .digestXRebuild f => rxOk f
  | .completionRecord f => rxOk f
  | .resliceCount f => rxOk f
  | .resliceDone f => rxOk f
  | .resliceResend f => rxOk f
  | .resliceSealed f => rxOk f
  | .resliceCancel f => rxOk f
  | .resliceMove f => rxOk f
  | .render f => rxOk f
  | .renderRequest r => decide (r.slot < 16)
  | .discover f => rxOk f
  | .discoverReply f => rxOk f
  | .membershipQuerySync f => rxOk f
  | .membershipQueryWitness f => rxOk f
  | .membershipQueryAnswer f => rxOk f
  | .membershipQueryReport f => rxOk f
  | .membershipUpdate f => rxOk f
  | .handoverOffer f => rxOk f
  | .handoverTaken f => rxOk f
  | .handoverRefused f => rxOk f
  | .statusQuery f => rxOk f
  | .statusReply f => rxOk f
  | .ctxRead _ => true
  | .install _ => true
  | .modify _ => true
  | .retire _ => true
  | .find _ => true
  | .handoverOut _ => true
  | .handoverOfferRepeat ctx => decide (ctx < Config.ctxEntries)
  | .primerComplete p => primeOk p
  | .intakeWindowWrite _ => true
  | .chunkAllocate _ _ => true
  | .intakeReopen _ => true
  | .attemptOpen _ => true
  | .sweepSectionRun _ _ => true
  | .sweepStrip _ _ => true
  | .sweepPanelWritten _ => true
  | .retiringPanelZero _ => true
  | .ibLoad _ _ _ => true
  | .ibLoadComplete => true
  | .ibArm _ _ => true
  | .ibDisarm _ => true
  | .skimDeltaSend _ => true
  | .epochMarkSend _ => true
  | .skimAckSend _ rank => decide (rank < 36)
  | .voteReady _ _ => true
  | .voteRepeatExpiry _ _ => true
  | .abortWaitExpiry .. => true
  | .ecAbort _ _ => true
  | .heartbeatSend _ _ => true
  | .suspicionDeadline entry => decide (entry < Config.watchEntries)
  | .confirmWaitExpiry entry => decide (entry < Config.watchEntries)
  | .discoverSend _ => true
  | .discWaitExpiry entry => decide (entry < Config.watchEntries)
  | .fabricManagerReport _ _ _ _ => true
  | .evict _ _ _ => true
  | .membershipUpdateIssue _ _ => true
  | .badgerStart _ => true
  | .badgerRunRequest _ => true
  | .badgerRtoTarget _ _ => true
  | .badgerRtoHelper entry => decide (entry < Config.requestTable)
  | .completionRecordRepeat _ _ => true
  | .bgRetry _ _ => true
  | .rsSeal _ => true
  | .rsArm _ => true
  | .rsDisarm _ => true
  | .teardown _ => true
  | .teardownComplete _ => true
  | .export_ _ => true
  | .exportComplete _ => true
  | .moveRtoExpiry _ _ => true
  | .tagQuietExpiry _ => true
  | .auditStart _ _ => true
  | .auditStop _ => true
  | .auditRunRequest => true
  | .lockstepSend _ => true
  | .stateRootComplete _ => true
  | .fltDust _ => true
  | .dustDrainComplete drained torn => drained.all panelKindOk && torn.all panelKindOk
  | .crashCaptureComplete => true
  | .fltLift _ => true
  | .fltReturn _ => true
  | .resetLaneGroup _ _ => true
  | .resetGfEngine _ _ _ => true
  | .resetEndpoint _ => true
  | .resetBadger _ => true
  | .resetInstance _ => true
  | .watchdogExpiry .. => true
  | .unitResetComplete _ => true
  | .instanceResetComplete _ => true
  | .fltSummaryClear _ _ => true
  | .cdCapture _ _ _ => true
  | .cdRelease _ _ _ => true
  | .fltQuery _ _ _ => true
  | .scrubPass _ => true
  | .statusMirrorWrite _ => true
  | .lathTransfer _ => true
  | .lathRingWalk w => decide (w.straps.length ≤ 12)
  | .registerWrite _ => true
  | .rcRead _ => true
  | .railRestore => true
  | .testEnFall => true
  | .activityRampAdmit => true
  | .resliceCountPoll _ _ => true
  | .auditRunTimeout _ => true

end Sys2Proof
end

