-- ==== Sys2Proof/Decode.lean ====
section
/-! DEFINITION. The command a word spells. The rows of spec/opcode_table.json give no bits: no command of this block is
spelled by a word, and every word is refused (log entry 18). -/

namespace Sys2Proof

/-- The command that a word of `nbits` bits spells by the table's bits: none, the table gives no row any bits. -/
def decodeTableWord (_nbits _w : Nat) : Option Instr := none

end Sys2Proof
end

