-- ==== Sys2Proof/Machine/State.lean ====
section
/-! DEFINITION. The state of one Moanel instance as the manual gives it, as plain data, and the state after reset.
Every field's docstring gives its width, the rule that names it with the file of spec/, and its reset value. -/

namespace Sys2Proof.Machine

/-- Why the machine stops with a fault. -/
inductive Fault where
  /-- An access outside the stack (R11, R35). No meaning raises it: every stack address of the model is a 36-bit
  value or is kept inside the stack by the check of R303. Safe: it would only stop the machine. -/
  | outsideStack (addr : Nat)
  deriving DecidableEq, Repr

/-- Why a command has no meaning. -/
inductive Refusal where
  /-- The command has no meaning in the model yet. Safe: nothing is claimed of it. -/
  | notModelled (mnemonic : String)
  deriving DecidableEq, Repr

/-! ## Responses and frames -/

/-- NS_STATUS (R35). -/
inductive NsStatus where
  | ok
  | retry
  | busError
  deriving DecidableEq, Repr, Inhabited

/-- A response on the network-side port (R35). -/
structure NsResp where
  id : BitVec 10
  status : NsStatus
  cause : BitVec 4
  data : Line
  deriving DecidableEq, Repr, Inhabited

/-- The virtual channels of the endpoint (R60, R63). -/
inductive Vc where
  | skim
  | badger
  | control
  | setup
  deriving DecidableEq, Repr, Inhabited

/-- Where a frame goes: one member, or a multicast group handle (R60). -/
inductive Dst where
  | member (a : Addr)
  | group (h : Nat)
  deriving DecidableEq, Repr, Inhabited

/-- A frame formed by the block, before its CRC is put on (R73); SRC and VER are the instance's own. -/
structure OutFrame where
  vc : Vc
  dst : Dst
  typ : Byte
  flag : Bool := false
  retx : Bool := false
  elided : Bool := false
  tenant : Tag
  gen : Gen
  epoch : Nat
  tr : BitVec 7
  t : BitVec 64
  payload : List Byte := []
  deriving DecidableEq, Repr, Inhabited

/-- A beat the endpoint offers on the EO port (R60). -/
structure Beat where
  /-- EO_VC. -/
  vc : Vc
  /-- EO_MCAST and EO_DST; the destination is valid on the first beat alone. -/
  mcast : Bool
  dst : Option (BitVec 25)
  /-- EO_FLAG, EO_FIRST and EO_LAST. -/
  flag : Bool
  first : Bool
  last : Bool
  /-- EO_KEEP: the valid 4-byte words. -/
  keep : BitVec 16
  /-- EO_DATA: the bytes of the valid words, least significant first. -/
  data : List Byte
  deriving DecidableEq, Repr, Inhabited

/-! ## Power, pins, time, monitors -/

/-- A margin monitor's level (R33). -/
inductive MonClass where
  | normal
  | warning
  | alarm
  deriving DecidableEq, Repr, Inhabited

/-- One margin monitor (R33, R379, R380). -/
structure Monitor where
  /-- 2; R33 R380 (17); reset 00 Normal. Present slack class. -/
  cls : MonClass := .normal
  /-- 8; R380 (17); reset 0. Present slack in percent of the bound. -/
  slack : Byte := 0
  /-- 8; R380 (17); reset 0x64. Lowest slack since the last memory-and-links reset. -/
  worst : Byte := 0x64
  /-- 16, RC; R380 (17); reset 0. Entries into Warning since the last read. -/
  warns : BitVec 16 := 0
  /-- 1; R33 R322 (02, 15); reset 1. The monitor has stayed in Normal for 1 ms since it last left Alarm. -/
  settled : Bool := true
  deriving DecidableEq, Repr, Inhabited

/-- Rails, reset, straps, test access, flash port ownership and activity ramp. -/
structure PowerS where
  /-- 1; R366 (17); reset 1. Both rails are inside their range. -/
  rails : Bool := true
  /-- 1; R57 R62 R366 (03, 04, 17); reset 0. The host's isolation cells clamp the ports. -/
  isolated : Bool := false
  /-- 1; R371 (17); reset 0. Level of MNL_RST_ML_N: 0 while the memory-and-links reset is asserted. -/
  released : Bool := false
  /-- 1; R378 (17); reset 0. Level of MNL_TEST_EN; the pin, DESIGN CHOICE 0, log entry 8. -/
  testEn : Bool := false
  /-- 1; R378 (17); reset 0. The test wrapper is open. -/
  testOpen : Bool := false
  /-- 384; R345 R363 (16); reset: strap, DESIGN CHOICE 0 before the first sampling, log entry 8. Owner digest sampled. -/
  owner : BitVec 384 := 0
  /-- 1; R345 R380 (16, 17); reset: strap, DESIGN CHOICE 0, log entry 8. MNL_FLASH_ATTACHED as sampled. -/
  flash : Bool := false
  /-- 4; R345 R380 (16, 17); reset: strap, DESIGN CHOICE 0, log entry 8. MNL_INST as sampled. -/
  inst : BitVec 4 := 0
  /-- 1; R373 (17); reset 0. MNL_XSPI_OWN. -/
  xspiOwn : Bool := false
  /-- 1; R368 R380 (17); reset 0. An activity ramp is in progress. -/
  ramp : Bool := false
  /-- 3; R368 R380 (17); reset 0. Lane groups admitted by the ramp. -/
  rampGroups : Nat := 0
  /-- 2; R368 (17); reset 0. GF engines admitted by the ramp. -/
  rampGf : Nat := 0
  /-- 64; R348 (16); reset 0. Host time at the release of the memory-and-links reset. -/
  releasedAt : BitVec 64 := 0
  /-- 4; R380 (17); reset 0. MNL_MGN_SEL.MON. -/
  monSel : BitVec 4 := 0
  deriving DecidableEq, Repr, Inhabited

/-- The sampled host time and its watch (R28, R30, R389). -/
structure TimeS where
  /-- 64; R28 R389 (02, 18); reset 0. Host time last sampled. -/
  now : BitVec 64 := 0
  /-- 1; R380 (17); reset 0. A sample has been taken; TPERIOD reads 0 before the first. -/
  sampled : Bool := false
  /-- 64; R30 R389 (02, 18); reset 0. Host time since which every sample has advanced normally. -/
  since : BitVec 64 := 0
  /-- 1; R389 (18); reset 0. The counter has advanced normally for the last 1 ms. -/
  advancing : Bool := false
  /-- 1; R30 R389 (02, 18); reset 0. A time-source fault is present. -/
  fault : Bool := false
  deriving DecidableEq, Repr, Inhabited

/-! ## Faults -/

/-- MNL_FLT_STATE.MODE (R340). -/
inductive Mode where
  | normal
  | dust
  | outOfService
  | resetting
  deriving DecidableEq, Repr, Inhabited

/-- The stage of an entry into the dust sheet (R324). -/
inductive DustPhase where
  | idle
  | drain
  | capture
  | held
  deriving DecidableEq, Repr, Inhabited

/-- What a reaction covers (R323). -/
inductive Scope where
  | region (ctx : Nat)
  | unit (u : ResetUnit)
  | instance_
  deriving DecidableEq, Repr, Inhabited

/-- A fault being handled (R323). -/
structure Handling where
  code : Byte
  level : Nat
  scope : Scope
  /-- SEQ of its history entry; 0 for none. -/
  entry : BitVec 32
  deriving DecidableEq, Repr, Inhabited

/-- A history entry (R321). -/
structure HistEntry where
  time : BitVec 64
  seq : BitVec 32
  code : Byte
  source : BitVec 4
  level : BitVec 3
  tenant : Tag
  link : BitVec 32
  mcount : BitVec 16
  unit : Byte
  merged : Bool
  detail : BitVec 64
  deriving DecidableEq, Repr, Inhabited

/-- The fault logic (R319 to R340). -/
structure FaultS where
  /-- 14; R340 (15); reset 0. Sticky summary bits. -/
  summary : BitVec 14 := 0
  /-- list; R321 (15); reset empty. Codes, with 256 added for source CORE's 0x7A, entered since their summary bit was cleared. -/
  seen : List Nat := []
  /-- 32 entries of 32 bytes; R321 (15); reset empty. History, oldest first. -/
  history : List HistEntry := []
  /-- 32; R321 R340 (15); reset 0. SEQ of the newest entry. -/
  seq : BitVec 32 := 0
  /-- 32, RC; R340 (15); reset 0. Entries overwritten. -/
  lost : BitVec 32 := 0
  /-- 256 x 64; R31 R398 (02, 19); reset 0. Event counters by code; position 0 counts lane-group resets; absent keys are 0. -/
  counters : NMap (BitVec 64) := []
  /-- list; R323 (15); reset empty. Faults being handled. -/
  handling : List Handling := []
  /-- 2; R340 (15); reset 00. MODE. -/
  mode : Mode := .normal
  /-- enum; R324 (15); reset idle. Stage of the dust sheet's entry. -/
  phase : DustPhase := .idle
  /-- 8; R324 R340 (15); reset 0x00. DCAUSE. -/
  dcause : Byte := 0
  /-- list; R324 R326 (15); reset empty. Panels whose writes the drain of the entry in force let finish: physical panel, CTX or parity slot, kind. -/
  drained : List (Nat × Nat × Byte) := []
  /-- list; R332 (15); reset empty. Host times of counted instance resets in the window. -/
  resets : List (BitVec 64) := []
  /-- list; R331 (15); reset empty. Unit resets and their host times in the window. -/
  unitResets : List (ResetUnit × BitVec 64) := []
  /-- list; R331 (15); reset empty. Units in reset. -/
  inReset : List ResetUnit := []
  /-- 1; R331 R333 (15); reset 0. The instance reset under way began under dust sheet. -/
  resetDust : Bool := false
  /-- 1; R332 (15); reset 0. The instance reset under way is counted. -/
  resetCounted : Bool := false
  /-- 1; R332 (15); reset 0. The instance reset under way is a RETURN. -/
  resetReturn : Bool := false
  /-- 1; R332 (15); reset 0. The instance reset under way began out of service. -/
  resetOut : Bool := false
  /-- 1; R331 (15); reset 0. An instance reset waits for its drain and capture. -/
  resetWanted : Bool := false
  /-- list of 12-bit ids; R322 R330 (15); reset empty. Controller responses overdue; their MQ_IDs stay out of use. -/
  overdue : List (BitVec 12) := []
  /-- 16; R388 (18); reset 0. Critical words without a majority, by their places. -/
  noMajority : List Nat := []
  /-- 32; R388 (18); reset 0. Copies rewritten after being outvoted. -/
  outvoted : BitVec 32 := 0
  /-- 5; R340 (15); reset 0. MNL_FLT_HSEL.IDX. -/
  hsel : BitVec 5 := 0
  /-- 3, 2; R340 (15); reset 0. MNL_FLT_RESET.UNIT and INDEX as last written. -/
  resetSel : BitVec 5 := 0
  /-- 1, 24; R340 (15); reset 0. MNL_FLT_MIRROR.EN and BASE (byte address). -/
  mirrorEn : Bool := false
  mirrorBase : BitVec 36 := 0
  /-- 32; R337 (15); reset 0. SEQ of the mirror page. -/
  mirrorSeq : BitVec 32 := 0
  /-- 25, 16, 1; R340 (15); reset 0. MNL_FLT_QUERY.ADDR, TENANT and DONE. -/
  qAddr : Addr := 0
  qTenant : Tag := 0
  qDone : Bool := false
  /-- 1; R68 R338 (04, 15); reset 0. The reply to the last STATUS_QUERY is awaited. -/
  qAsked : Bool := false
  /-- 256; R338 R340 (15); reset 0. MNL_FLT_QREPLY. -/
  qReply : List Byte := []
  deriving DecidableEq, Repr, Inhabited

/-- The crash area and its registers (R334 to R336, R340, R400). -/
structure CrashS where
  /-- 2 MiB; R334 (15); reset: DESIGN CHOICE zero, log entry 2. Bytes of the crash area, canonical; absent bytes are 0. -/
  area : NMap Byte := []
  /-- 1, 1; R340 (15); reset 0. SLOT0 and SLOT1: the slot holds a dump. -/
  slot0 : Bool := false
  slot1 : Bool := false
  /-- 8, 8; R340 (15); reset 0x00. Trigger codes. -/
  trig0 : Byte := 0
  trig1 : Byte := 0
  /-- 1 + 1 + 8; R334 (15); reset none. The capture in progress: into slot 1 or not, and its trigger code. -/
  capturing : Option (Bool × Byte) := none
  /-- 1; R340 (15); reset 0. DAMAGED. -/
  damaged : Bool := false
  /-- list; R327 R400 (15, 19); reset empty. Word offsets of the crash area with an uncorrectable error. -/
  badWords : List Nat := []
  /-- 1; R340 (15); reset 0. PRIOR. -/
  prior : Bool := false
  /-- 1; R340 (15); reset 0. FMT. -/
  fmt : Bool := false
  /-- 6; R340 (15); reset 0. PAGE. -/
  page : BitVec 6 := 0
  /-- 64 entries; R335 (15); reset empty. Torn list: physical panel, CTX or parity slot, kind. -/
  torn : List (Nat × Nat × Byte) := []
  deriving DecidableEq, Repr, Inhabited

/-! ## Configuration -/

/-- MNL_CF_STATUS.STATE (R363). -/
inductive CfState where
  | loading
  | configured
  | unconfigured
  | staging
  | feeding
  deriving DecidableEq, Repr, Inhabited

/-- MNL_CF_STATUS.SHADOW (R363). -/
inductive ShadowState where
  | empty
  | staged
  | armed
  deriving DecidableEq, Repr, Inhabited

/-- A tenant envelope (R94, R351). -/
structure Envelope where
  tag : Tag
  tidx : Fin 64
  classMask : BitVec 3
  slotMask : BitVec 16
  ishare : Nat
  quota : Nat
  elimit : Nat
  deriving DecidableEq, Repr, Inhabited

/-- The configuration record in force, or a shadow (R353, R354): decoded fields, the record's bytes, the SVN of the object
that brought it. -/
structure Record where
  glob : GlobalSect := {}
  inst : InstSect := {}
  tenants : List Envelope := []
  setts : List (Nat × SettDesc) := []
  reps : List (Nat × RepDesc) := []
  /-- Bundle keys 1 and 2; an invalid key is none (R341). -/
  keys : List (Option (List Byte)) := []
  keysBytes : List Byte := []
  program : List Byte := []
  bytes : List Byte := []
  nsect : Nat := 0
  svn : BitVec 32 := 0
  ninst : Nat := 0
  deriving DecidableEq, Repr, Inhabited

/-- The configuration loader (R341 to R364). -/
structure LoaderS where
  /-- 3; R363 (16); reset 000 LOADING. STATE. -/
  state : CfState := .loading
  /-- 1; R348 (16); reset 0. Configuration has been applied since the last memory-and-links reset. -/
  applied : Bool := false
  /-- 8; R363 (16); reset 0x00. RESULT. -/
  result : Byte := 0
  /-- 1; R363 (16); reset 0. COPY taken. -/
  copy : Bool := false
  /-- 1; R348 (16); reset 0. The flash copy being read: 0 A, 1 B. -/
  reading : Bool := false
  /-- object; R348 (16); reset none. The image distributed and not yet taken. -/
  candidate : Option ObjRead := none
  /-- list; R348 (16); reset empty. Answers on the lath to the distribution. -/
  answers : List (BitVec 4 × Bool) := []
  /-- list; R348 (16); reset empty. Instances left unconfigured for want of an answer. -/
  silent : List (BitVec 4) := []
  /-- 64; R348 (16); reset 0. Host time of the distribution. -/
  distAt : BitVec 64 := 0
  /-- 1; R348 R349 (16); reset 0. The candidate came through the feed. -/
  fed : Bool := false
  /-- at most 16 MiB + 256; R349 (16); reset empty. Fed bytes, staged in the Hawk buffer. -/
  feed : List Byte := []
  /-- record; R354 (16); reset: none, every field reads zero until configured (R384). The active record. -/
  active : Record := {}
  /-- 32; R344 R363 (16); reset 0. The active SVN. -/
  svn : BitVec 32 := 0
  /-- record; R357 (16); reset none. The shadow. -/
  shadow : Option Record := none
  /-- 2; R363 (16); reset 00. SHADOW. -/
  shadowState : ShadowState := .empty
  /-- 64 flags; R360 (16); reset empty. Tenants the armed switch affects. -/
  affected : List (Fin 64) := []
  /-- tenant; R359 (16); reset none. The tenant whose reslice has taken the shadow. -/
  takenBy : Option (Fin 64) := none
  /-- 64; R360 (16); reset 0. Host time of ARM. -/
  armedAt : BitVec 64 := 0
  /-- 4; R363 (16); reset 0x0. OP of MNL_CF_CMD last written. -/
  op : BitVec 4 := 0
  /-- 36; R363 (16); reset 0. MNL_CF_SRC as a byte address. -/
  src : BitVec 36 := 0
  /-- 21; R363 (16); reset 0. MNL_CF_LEN. -/
  len : BitVec 21 := 0
  /-- 32; R363 (16); reset 0. Flash density in 64 KiB units. -/
  density : BitVec 32 := 0
  /-- 8; R363 (16); reset 0. Read frequency, MHz. -/
  mhz : Byte := 0
  /-- 1; R363 (16); reset 0. Discovery succeeded. -/
  sfdpOk : Bool := false
  /-- 1; R345 (16); reset 0. The sampled owner digest is invalid. -/
  ownerBad : Bool := false
  /-- 6; R389 (18); reset 0. MNL_SPM_PAGE. -/
  page : BitVec 6 := 0
  /-- 4, 6; R389 (18); reset 0. MNL_SPM_RSEL. -/
  rselSlot : BitVec 4 := 0
  rselRank : BitVec 6 := 0
  deriving DecidableEq, Repr, Inhabited

/-! ## The gate -/

/-- Why a transaction waits in the hold park (R46 to R51). -/
inductive ParkWhy where
  /-- A read of a panel the sweep has not reached (R46). -/
  | sweep
  /-- A write in the commit window, a replica write during its sweep, or a write with no attempt open (R48, R49). -/
  | window
  /-- A write waiting for Hawk space (R192). -/
  | hawk
  /-- A request behind an earlier one to its line (R51). -/
  | line
  deriving DecidableEq, Repr, Inhabited

/-- A parked transaction (R50). -/
structure Parked where
  q : NqReq
  /-- Its number in order of arrival (R51). -/
  n : Nat
  why : ParkWhy
  /-- The entry of the region addressed; none outside the span. -/
  ctx : Option Nat
  /-- It was parked before the attempt now open opened (R48). -/
  due : Bool := false
  deriving DecidableEq, Repr, Inhabited

/-- What a request outstanding at the controller answers (R36). -/
inductive MqKind where
  | read
  | write
  | atomic
  /-- A read-old write of R47 or R48: its line is written and its delta staged; only the response is owed. -/
  | readOld
  deriving DecidableEq, Repr, Inhabited

/-- A request outstanding at the controller (R36). -/
structure MqReq where
  id : BitVec 12
  nqId : BitVec 10
  kind : MqKind
  /-- MQ_AOP, as NQ_AOP came (R35, R36). -/
  aop : BitVec 4
  /-- Its number in order of arrival, and the line of the host's address (R51). -/
  n : Nat
  line : Nat
  /-- NQ_TAG, as it came. -/
  tag : Tag := 0
  /-- The line's address at the controller. -/
  addr : BitVec 36
  be : BitVec 64
  data : Line
  /-- The entry of the region addressed, and the physical panel, for a protected access. -/
  panel : Option (Nat × Nat)
  /-- A write parked before the attempt now open opened (R48). -/
  due : Bool := false
  /-- The controller's response, held until the earlier requests to the line are answered (R51). -/
  got : Option MsResp := none
  deriving DecidableEq, Repr, Inhabited

/-- The memory gate (R34 to R57). -/
structure GateS where
  /-- 1; R56 R389 (03, 18); reset 0. The span is set. -/
  ready : Bool := false
  /-- 4; R52 R389 (03, 18); reset 8. BLOCK_SHARE. -/
  share : BitVec 4 := 8
  /-- 256; R50 (03); reset empty. The hold park, oldest first. -/
  park : List Parked := []
  /-- 4096; R36 (03); reset empty. Requests outstanding at the controller, oldest first. -/
  mq : List MqReq := []
  /-- 128 lines; R42 (03); reset empty. Directory lines cached, most recent first. -/
  lookaside : List Nat := []
  /-- list; R35 (03); reset empty. Responses given on NS, oldest first. -/
  ns : List NsResp := []
  /-- MODEL's own; counter; R51 (03); reset 0 DESIGN CHOICE, log entry 174. Host requests that have arrived, by which the order of arrival is kept. -/
  arrivals : Nat := 0
  /-- 64; R55 (03); reset 0. Corrected controller errors counted; the manual gives the counter no register. -/
  corrected : BitVec 64 := 0
  deriving DecidableEq, Repr, Inhabited

/-! ## Context table -/

/-- STATE of an entry (R85); FREE entries are absent. -/
inductive CtxState where
  | priming
  | loading
  | active
  | retiring
  | contained
  deriving DecidableEq, Repr, Inhabited

/-- CLASS (R85). -/
inductive Cls where
  | replica
  | skim
  | direct
  deriving DecidableEq, Repr, Inhabited

/-- A staged change of an ACTIVE entry (R88, R93). -/
inductive Staged where
  | modify (cls : Cls) (sparse elide : Bool) (sorder : BitVec 16) (sgrp stream : BitVec 4) (swtag : BitVec 64)
  | retire
  deriving DecidableEq, Repr, Inhabited

/-- A context entry (R85). -/
structure Entry where
  state : CtxState
  cls : Cls
  slot : Fin 16
  sparse : Bool
  elide : Bool
  staged : Option Staged
  sealed : Bool
  tenant : Tag
  sorder : BitVec 16
  sgrp : BitVec 4
  stream : BitVec 4
  basep : Nat
  lenp : Nat
  spanel : Nat
  lfirst : BitVec 40
  tensor : BitVec 24
  epoch : Nat
  droot : BitVec 64
  gen : Gen
  swtag : BitVec 64
  /-- Epoch and digest of the OFFER this entry was taken over by (R99); no word of R85 shows it. -/
  taken : Option (Nat × BitVec 64) := none
  deriving DecidableEq, Repr, Inhabited

/-- A handover offer that waits for its answer (R99). -/
structure Offer where
  /-- CTX as the frame carries it. -/
  ctx : Nat
  /-- The entry is this instance's own; else the job manager offers on a fenced owner's behalf (R269). -/
  own : Bool
  tidx : Fin 64
  dst : Addr
  epoch : Nat
  t : BitVec 64
  payload : List Byte
  sent : Nat
  /-- Host time it was last sent. -/
  since : BitVec 64 := 0
  deriving DecidableEq, Repr, Inhabited

/-- The context window and table (R85, R90). -/
structure CtxS where
  /-- 65,536 x 64 bytes; R85 (05); reset all FREE (absent). -/
  table : NMap Entry := []
  /-- 16; R90 (05); reset 0x0000. IDX. -/
  index : BitVec 16 := 0
  /-- 4; R90 (05); reset 0x0. OP last written. -/
  op : BitVec 4 := 0
  /-- 1; R90 (05); reset 0. BUSY: a command is being checked. Commands are atomic here, so it stays 0. -/
  busy : Bool := false
  /-- 8; R90 (05); reset 0x00. RESULT. -/
  result : Byte := 0
  /-- 25; R90 (05); reset 0. MEMBER. -/
  arg : Addr := 0
  /-- 8 x 64; R90 (05); reset 0. MNL_CTX_DATA0-7. -/
  data : Vector (BitVec 64) 8 := Vector.replicate 8 0
  /-- list; R99 (05); reset empty. Offers awaiting TAKEN or REFUSED. -/
  offers : List Offer := []
  deriving DecidableEq, Repr, Inhabited

/-! ## Endpoint and Hawk buffer -/

/-- What a multicast group serves (R69). -/
inductive GroupKey where
  | holders (slot : Nat) (rotation : Nat)
  | peers (slot : Nat)
  | tree (tidx : Nat) (job : Bool) (part : Nat)
  deriving DecidableEq, Repr, Inhabited

/-- The setup state of a group in the host's table (R70). -/
inductive GroupSetup where
  | wanted
  | outstanding (seq : BitVec 32)
  | failed
  | confirmed
  deriving DecidableEq, Repr, Inhabited

/-- A multicast group (R69, R70). -/
structure Group where
  handle : Nat
  key : GroupKey
  members : List Addr
  setup : GroupSetup
  /-- The group's deletion is what is being set up. -/
  deleting : Bool := false
  /-- Host time of the last setup frame, or of the confirmation that failed it. -/
  since : BitVec 64 := 0
  deriving DecidableEq, Repr, Inhabited

/-- MNL_EP_ROUTE.STATE (R394). -/
inductive RouteState where
  | idle
  | draining
  | drained
  deriving DecidableEq, Repr, Inhabited

/-- The fabric endpoint (R60 to R83, R394, R395). -/
structure EpS where
  /-- frames; R64 (04); reset empty. CONTROL frames waiting. -/
  ctrlQ : List OutFrame := []
  /-- frames; R64 (04); reset empty. SKIM frames waiting. -/
  skimQ : List OutFrame := []
  /-- frames; R83 (04); reset empty. Copies marked in a route change, which go out before normal injection resumes. -/
  resumeQ : List OutFrame := []
  /-- frames; R64 (04); reset empty. BADGER frames waiting. -/
  badgerQ : List OutFrame := []
  /-- beats; R60 R73 (04); reset empty. The beats of the frames injected, oldest first. -/
  eo : List Beat := []
  /-- beats; R70 (04); reset empty. The beats of the group-setup frames offered on EO_VC 11, oldest first. -/
  setupOut : List Beat := []
  /-- 32; R70 (04); reset 0. SEQ of the next setup frame. -/
  setupSeq : BitVec 32 := 0
  /-- 1024; R69 (04); reset empty. Multicast groups. -/
  groups : List Group := []
  /-- 8, 8; R64 R394 (04, 19); reset 192, 64. W_SKIM, W_BADGER. -/
  wSkim : Byte := 192
  wBadger : Byte := 64
  /-- 11, 11; R64 R394 (04, 19); reset 0. RATE_SKIM, RATE_BADGER. -/
  rateSkim : BitVec 11 := 0
  rateBadger : BitVec 11 := 0
  /-- counts; R64 (04); reset 0. Deficits of the round robin in 64-byte units. -/
  defSkim : Nat := 0
  defBadger : Nat := 0
  /-- list; R64 (04); reset empty. Host time and bytes of the CONTROL frames of the last microsecond. -/
  ctrlSent : List (BitVec 64 × Nat) := []
  /-- 64 each; R64 R65 (04); reset 0. Host time before which the caps and the ceiling let no SKIM, no BADGER and no bulk frame begin, in 1/1024 ns. -/
  skimFree : Nat := 0
  badgerFree : Nat := 0
  bulkFree : Nat := 0
  /-- 4; R65 R394 (04, 19); reset 0. HT_LEVEL as last sampled. -/
  ht : BitVec 4 := 0
  /-- 4; R65 (04); reset 0. The level that governed before the changes of `htNext`. -/
  htOld : BitVec 4 := 0
  /-- list; R65 (04); reset empty. Level changes, oldest first, each with the host time from which it governs. -/
  htNext : List (BitVec 4 × BitVec 64) := []
  /-- 2; R394 (19); reset 00. STATE. -/
  route : RouteState := .idle
  /-- 1; R394 (19); reset 0. AUTO. -/
  auto : Bool := false
  /-- 16; R394 (19); reset 0. MARKED. -/
  marked : BitVec 16 := 0
  /-- list; R83 (04); reset empty. Slot, number and addressee of frames marked for retransmission. -/
  markedList : List (Nat × Nat × Addr) := []
  /-- list; R75 (04); reset empty. Host time of the last FENCE returned per source. -/
  fenced : List (Addr × BitVec 64) := []
  /-- list; R338 R235 (15, 11); reset empty. Tenants whose SYNC query must leave before any other frame (R326, R333). -/
  syncOwed : List (Fin 64) := []
  /-- 64, 64; R83 R395 (04, 19); reset 0. Host times from which ROUTE_DRAIN_TIMEOUT and RESUME_WAIT run. -/
  drainFrom : BitVec 64 := 0
  resumeFrom : BitVec 64 := 0
  deriving DecidableEq, Repr, Inhabited

/-- State of a skim frame (R198); RELEASED frames are freed. -/
inductive TxState where
  | staged
  | out
  deriving DecidableEq, Repr, Inhabited

/-- An addressee that has not acknowledged (R80, R190). -/
structure Owed where
  addr : Addr
  /-- Host time of the retransmission deadline. -/
  due : BitVec 64
  /-- Retransmissions so far. -/
  tries : Nat
  deriving DecidableEq, Repr, Inhabited

/-- A record of the Hawk index with its delta or marker (R190, R198). -/
structure HawkRec where
  slot : Fin 16
  mark : Bool
  /-- Its place in the slot's allocation, a block number: a free value (R190). -/
  place : BitVec 17 := 0
  panel : Nat
  blk : Nat
  /-- SIZE: a whole panel. -/
  whole : Bool
  /-- The raw delta. -/
  data : List Byte
  elided : Bool
  seq : Option Nat
  st : TxState
  owed : List Owed
  /-- The entry the delta came from, for a re-formation (R205). -/
  ctx : Nat
  /-- The panel in the region. -/
  idx : Nat
  deriving DecidableEq, Repr, Inhabited

/-- A panel slot reserved for a delta that is being formed (R185). -/
structure FormSlot where
  slot : Fin 16
  ctx : Nat
  panel : Nat
  old : List Byte
  deriving DecidableEq, Repr, Inhabited

/-- The Hawk buffer (R187 to R192, R210). -/
structure HawkS where
  /-- 8192 records; R190 (09); reset empty. Staged and outstanding deltas and markers in order of formation. -/
  recs : List HawkRec := []
  /-- list; R185 (09); reset empty. Panel slots of deltas being formed. -/
  forming : List FormSlot := []
  /-- slot; R195 (09); reset 15, so that slot 0 comes first. The slot whose delta was first sent last. -/
  lastSlot : Fin 16 := 15
  /-- 1; R210 (09); reset 1. ELIDE_EN. -/
  elideEn : Bool := true
  /-- 4, 6; R210 (09); reset 0. MNL_SK_SSEL. -/
  selSlot : BitVec 4 := 0
  selRank : BitVec 6 := 0
  /-- 14, RC; R210 (09); reset 0. Most index records in use since the last read. -/
  peak : Nat := 0
  deriving DecidableEq, Repr, Inhabited

/-! ## Sett slots -/

/-- Status of a rank (R121). -/
inductive RankSt where
  | present
  | lost
  | replacing
  deriving DecidableEq, Repr, Inhabited

/-- State of a sett slot (R122). -/
inductive SlotSt where
  | unused
  | forming
  | complete
  | degraded
  | broken
  deriving DecidableEq, Repr, Inhabited

/-- A source entry of the dedupe window table (R199). -/
structure SrcEntry where
  rank : Nat
  addr : Addr
  epoch : Nat
  tr : BitVec 7
  cum : Nat
  count : Nat
  closed : Bool
  broken : Bool
  applied : Nat
  ring : BitVec 2048
  /-- Highest number applied; what the third line of R200 compares a marker with. -/
  high : Option Nat
  /-- A SKIM_ACK is pending for this source (R201). -/
  ackDue : Bool
  deriving DecidableEq, Repr, Inhabited

/-- A membership slot (R86, R102, R122, R199). -/
structure SlotS where
  /-- 2; R86 (05); reset unused. Kind. -/
  kind : SlotKind := .unused
  /-- descriptor; R102 (06); reset empty. Sett descriptor with live rows (R122, R255). -/
  sett : SettDesc := {}
  /-- descriptor; R352 (16); reset empty. Replica-set descriptor with live rows. -/
  rep : RepDesc := {}
  /-- enum; R122 (06); reset UNUSED. Slot state. -/
  st : SlotSt := .unused
  /-- per rank; R121 (06); reset empty. Rank statuses. -/
  ranks : List RankSt := []
  /-- 9; R189 R210 (09); reset 0, from image. Allocation in 64 KiB units. -/
  alloc : Nat := 0
  /-- 32; R193 R210 (09); reset 0. Next number to assign. -/
  next : Nat := 0
  /-- 32; R196 R210 (09); reset none. COUNT of the formed marker. -/
  markCount : Option Nat := none
  /-- 1; R197 R210 (09); reset 0. Skim complete. -/
  done : Bool := false
  /-- 17, RC; R210 (09); reset 0. Most Hawk blocks in use since the last read. -/
  peak : Nat := 0
  /-- 8192 entries over all slots; R199 (09); reset empty. Source entries. -/
  sources : List SrcEntry := []
  /-- list; R260 (12); reset empty. Parity panels MISSING at this target. -/
  missing : List Nat := []
  /-- 1; R278 (13); reset 0. The parity storage has been primed. -/
  primed : Bool := false
  /-- count, count; R195 (09); reset 0. Column the injector serves, and deltas of its run already sent. -/
  column : Nat := 0
  runSent : Nat := 0
  /-- list; R120 (06); reset empty. Patterns whose coefficients Badger keeps: rotation and unavailable ranks. -/
  kept : List (Nat × List Nat) := []
  /-- descriptor; R286 (13); reset none. Old descriptor kept as a shadow during a reslice. -/
  shadow : Option (SlotKind × SettDesc × RepDesc) := none
  /-- 64; R247 (11); reset 0. Host time at which the slot entered FORMING. -/
  formedAt : BitVec 64 := 0
  deriving DecidableEq, Repr, Inhabited

/-! ## Tenants: intake -/

/-- A manifest record (R138). -/
structure MRec where
  chunk0 : Nat
  ns : Nat
  gfmt : Nat
  comp : Bool
  nc : Nat
  stream : Nat
  tensor : BitVec 24
  e0 : Nat
  ne : Nat
  nt : Nat
  deriving DecidableEq, Repr, Inhabited

/-- An allocated gradient chunk (R140, R142). -/
structure Chunk where
  no : Nat
  /-- The manifest record it belongs to. -/
  mrec : MRec
  /-- Byte range of the ring. -/
  base : Nat
  size : Nat
  /-- Slot length in bytes. -/
  ls : Nat
  /-- Lines present: key slot * 4096 + line. -/
  lines : NMap Line
  /-- An intake line of it is unreadable (R148). -/
  bad : Bool
  deriving DecidableEq, Repr, Inhabited

/-- Judgement of the manifest (R139). -/
inductive ManSt where
  | absent
  | ok
  | bad
  deriving DecidableEq, Repr, Inhabited

/-- A tenant's intake (R137 to R143). -/
structure IntakeS where
  /-- 48; R143 R150 (07); reset 0. Intake epoch. -/
  epoch : Nat := 0
  /-- 1; R143 R150 (07); reset 0. FLUSH. -/
  flush : Bool := false
  /-- 256 KiB at most; R138 (07); reset empty. Manifest lines present. -/
  man : NMap Line := []
  /-- 2; R139 R150 (07); reset 0. MANIFEST_OK, MANIFEST_BAD. -/
  manSt : ManSt := .absent
  /-- 8191; R138 (07); reset empty. Records of the manifest. -/
  recs : List MRec := []
  /-- 24, 24; R150 (07); reset 0. LOW and HIGH. -/
  low : Nat := 0
  high : Nat := 0
  /-- 256; R140 (07); reset empty. Allocated chunks. -/
  chunks : List Chunk := []
  /-- 24; R140 (07); reset 0. Chunks freed so far in the attempt. -/
  freed : Nat := 0
  /-- 64; R140 (07); reset 0. Host time of the last notice line, and whether one is owed. -/
  noticed : BitVec 64 := 0
  noticeDue : Bool := false
  deriving DecidableEq, Repr, Inhabited

/-! ## Tenants: programs and sweep -/

/-- Role of a stream (R151). -/
inductive Role where
  | in_
  | inout
  | out
  | derived
  | scalar
  deriving DecidableEq, Repr, Inhabited

/-- A stream entry (R151, R168). -/
structure Stream where
  no : Nat
  role : Role
  fmt : Nat
  f : Nat
  scale : Nat
  stage : Nat
  deriving DecidableEq, Repr, Inhabited

/-- An operand descriptor (R158). -/
structure Desc where
  addr : Nat
  kind : Nat
  count : Nat
  stride : Int
  lstep1 : Int
  lvl1 : Nat
  lstep2 : Int
  lvl2 : Nat
  deriving DecidableEq, Repr, Inhabited

/-- A program of an image (R168). -/
structure Program where
  streams : List Stream
  drive : Nat
  accs : List Nat
  descs : List Desc
  consts : List (BitVec 32)
  pro : List (BitVec 64)
  red : List (BitVec 64)
  mid : List (BitVec 64)
  body : List (BitVec 64)
  wbase : Nat
  wlen : Nat
  deriving DecidableEq, Repr, Inhabited

/-- A parsed program image: bindings (tenant, group, program) and programs (R167). -/
structure Image where
  binds : List (Tag × Nat × Nat)
  progs : List Program
  deriving DecidableEq, Repr, Inhabited

/-- State of an instruction bank (R175). -/
inductive BankSt where
  | empty
  | valid
  | bad
  deriving DecidableEq, Repr, Inhabited

/-- An instruction bank (R175, R182). -/
structure Bank where
  /-- enum; R175 R182 (08); reset EMPTY. -/
  st : BankSt := .empty
  /-- 1 MiB at most; R167 (08); reset empty. The translated image. -/
  image : Image := ⟨[], []⟩
  /-- 256; R182 (08); reset 0. Image digest, 32 bytes. -/
  digest : List Byte := []
  /-- 15; R182 (08); reset 0. Entries used. -/
  used : Nat := 0
  deriving DecidableEq, Repr, Inhabited

/-- The instruction-bank staging block (R175 to R182). -/
structure IbS where
  /-- 2 banks; R175 (08); reset EMPTY (R180, before configuration). -/
  bank0 : Bank := {}
  bank1 : Bank := {}
  /-- 1 + 1; R176 (08); reset 0. A LOAD is under way, into which bank. -/
  busy : Bool := false
  loading : Bool := false
  /-- bytes; R176 (08); reset empty. The image and trailer read once by the LOAD under way, and whether the read succeeded. -/
  staged : List Byte := []
  stagedOk : Bool := true
  /-- 1; R182 (08); reset 0. ARMED. -/
  armed : Bool := false
  /-- 1; R182 (08); reset 0. TARGET. -/
  target : Bool := false
  /-- 1; R175 (08); reset 0. CURRENT. -/
  current : Bool := false
  /-- 8; R182 (08); reset 0x00. RESULT. -/
  result : Byte := 0
  /-- 4, 1; R182 (08); reset 0. MNL_IB_CMD as last written. -/
  op : BitVec 4 := 0
  opBank : Bool := false
  /-- 36; R182 (08); reset 0. MNL_IB_SRC as a byte address. -/
  src : BitVec 36 := 0
  /-- 21; R182 (08); reset 0. MNL_IB_LEN. -/
  len : BitVec 21 := 0
  /-- 48; R182 (08); reset 0. AT_EPOCH. -/
  at_ : BitVec 48 := 0
  /-- 48; R177 (08); reset 0. AT_EPOCH in force since ARM. -/
  armedAt : BitVec 48 := 0
  /-- 4, 1; R182 (08); reset 0. MNL_IB_PSEL. -/
  psel : BitVec 4 := 0
  pselBank : Bool := false
  /-- 4; R182 (08); reset 0. MNL_IB_DSEL. -/
  dsel : BitVec 4 := 0
  deriving DecidableEq, Repr, Inhabited

/-- A state of the sweep (R184). -/
inductive SwState where
  | idle
  | intake
  | prep
  | body
  | closing
  | done
  | held
  deriving DecidableEq, Repr, Inhabited

/-- A section run that is due in the prologue pass (R156, R183). -/
inductive PrepItem where
  | pro (grp : Nat)
  | red (grp : Nat) (ctx : Nat) (k : Nat)
  | mid (grp : Nat)
  deriving DecidableEq, Repr, Inhabited

/-- A step of the body pass in sweep order (R154, R183). -/
inductive SweepItem where
  /-- `skip`: the manifest covers none of its elements and every region of it is SPARSE (R155). -/
  | strip (grp : Nat) (ctx : Nat) (k : Nat) (skip : Bool)
  | zero (ctx : Nat) (panel : Nat)
  | scalar (grp : Nat)
  deriving DecidableEq, Repr, Inhabited

/-- A sweep group's run (R154, R156, R157, R209). -/
structure GroupRun where
  grp : Nat
  /-- Index of the bound program in the bank. -/
  prog : Nat
  /-- The scalar entry and the scalar page's working bytes. -/
  scalarCtx : Option Nat
  scalar : List Byte
  /-- Accumulator leaves: accumulator element, strip index, FP32 word. -/
  leaves : List (Nat × Nat × BitVec 32)
  /-- Accumulator values once RED has ended. -/
  accs : List (BitVec 32)
  deriving DecidableEq, Repr, Inhabited

/-- A panel whose strips are partly computed: its new bytes so far (R155, R185). -/
structure Build where
  ctx : Nat
  panel : Nat
  bytes : List Byte
  deriving DecidableEq, Repr, Inhabited

/-- A tenant's sweep (R183 to R192, R209). -/
structure SweepS where
  /-- 3; R209 (09); reset 000 IDLE. STATE. -/
  state : SwState := .idle
  /-- 8; R209 (09); reset 0x00. CAUSE. -/
  cause : Byte := 0
  /-- list; R183 (09); reset empty. Section runs due. -/
  prep : List PrepItem := []
  /-- list; R183 (09); reset empty. Strips, zeroed panels and scalar panels due, in sweep order. -/
  todo : List SweepItem := []
  /-- list; R154 (08); reset empty. Group runs. -/
  groups : List GroupRun := []
  /-- 8191; R139 R155 (07, 08); reset empty. Records of the manifest the sweep runs with. -/
  recs : List MRec := []
  /-- 16 x 36; R154 (08); reset 0. Derived bases in force since the sweep opened. -/
  bases : Vector (BitVec 36) 16 := Vector.replicate 16 0
  /-- list; R155 (08); reset empty. Panels partly or wholly computed and not yet written. -/
  builds : List Build := []
  /-- list; R148 R209 (07, 09); reset empty. Strips passed over that are neither written nor skipped: group, entry, strip. -/
  missed : List (Nat × Nat × Nat) := []
  /-- 32, 32; R209 (09); reset 0. WRITTEN and DROPPED. -/
  written : Nat := 0
  dropped : Nat := 0
  /-- 1, 1; R150 (07); reset 0. The sweep waits for intake, for Hawk space. -/
  waitIntake : Bool := false
  waitHawk : Bool := false
  /-- 7; R146 R150 (07); reset 0. Flags of the open attempt. -/
  flags : BitVec 7 := 0
  /-- 7, 1; R146 R150 (07); reset 0. Flags of the last closed attempt, and whether it committed. -/
  flagsLast : BitVec 7 := 0
  lastCommitted : Bool := false
  deriving DecidableEq, Repr, Inhabited

/-! ## Tenants: commit -/

/-- VSTATE (R221, R230). -/
inductive VState where
  | none
  | open_
  | ready
  | withheld
  deriving DecidableEq, Repr, Inhabited

/-- State of a manager (R222, R223). -/
inductive MState where
  | collect
  | sent
  | solicit
  deriving DecidableEq, Repr, Inhabited

/-- An entry of a child table (R218). -/
structure Child where
  idx : Nat
  job : Bool
  addr : Addr
  expect : Nat
  group : Nat
  /-- VALID of MNL_EC_CDATA; an entry written with VALID 0 keeps its fields and is no child (R230). -/
  valid : Bool := true
  deriving DecidableEq, Repr, Inhabited

/-- A candidate as MNL_EC_CAND holds it (R218, R230). -/
structure Cand where
  addr : Addr := 0
  valid : Bool := false
  deriving DecidableEq, Repr, Inhabited

/-- A request a member has sent for a cause in the open try (R226). -/
structure Asked where
  reason : Byte
  /-- Times it was repeated, and the host time it was last sent. -/
  repeats : Nat
  since : BitVec 64
  deriving DecidableEq, Repr, Inhabited

/-- What a manager holds of one child (R222): its latest credit, target votes, and whether it answered a solicitation. -/
structure Credit where
  job : Bool
  group : Nat
  ready : Nat
  /-- Targets of the child's ranks that have voted, and those that have answered a solicitation. -/
  targets : List Addr
  heard : List Addr
  answered : Bool
  deriving DecidableEq, Repr, Inhabited

/-- The late history of a child entry (R249). -/
structure Late where
  job : Bool
  idx : Nat
  hist : BitVec 64
  mark : Bool
  deriving DecidableEq, Repr, Inhabited

/-- What a manager role records of its subtree in the open attempt (R230, R249). -/
structure RoleRec where
  /-- 25 + 11; R230 (10); reset none. The child completed last so far: whose vote completed it, and its GROUP, or its INST at
  a chip manager. -/
  last : Option (Addr × Nat) := none
  /-- 32; R230 (10); reset 0. The ns between it and the completion before. -/
  gap : BitVec 32 := 0
  /-- 64; R230 (10); reset 0. Host time of the last completion. -/
  at_ : BitVec 64 := 0
  /-- 1; R222 (10); reset 0. The child that reports inside the chip was complete when last looked at. -/
  own : Bool := false
  deriving DecidableEq, Repr, Inhabited

/-- The commit tree a tenant's instance holds (R218). -/
structure Tree where
  /-- 24; R218 R230 (10); reset 0. MEMBERS. -/
  members : Nat := 0
  /-- 8 x (25 + 1); R218 R230 (10); reset invalid. Candidates: 0-3 job manager, 4-7 pod manager. -/
  cands : Vector Cand 8 := Vector.replicate 8 {}
  /-- 2048; R218 (10); reset empty. Child entries of both tables. -/
  children : List Child := []
  /-- 24; R250 (11); reset 0. INSTANCES of MNL_FX_QUORUM. -/
  quorum : Nat := 0
  deriving DecidableEq, Repr, Inhabited

/-- A tenant's commit state (R212 to R231). -/
structure CommitS where
  /-- 3; R230 (10); reset 000 NONE. VSTATE. -/
  vstate : VState := .none
  /-- 8; R230 (10); reset 0x00. WCAUSE. -/
  wcause : Byte := 0
  /-- list; R215 (10); reset empty. Withholding causes of the open try. -/
  causes : List Byte := []
  /-- list; R226 (10); reset empty. Causes a request was sent for in the open epoch. -/
  requested : List Byte := []
  /-- list; R226 (10); reset empty. Causes whose request is formed in this step and not yet passed up. -/
  reqDue : List Byte := []
  /-- list; R226 (10); reset empty. Requests sent in the open try. -/
  asked : List Asked := []
  /-- 48, 7; R230 (10); reset 0. Committed epoch and try. -/
  committed : Nat := 0
  committedTry : BitVec 7 := 0
  /-- 48, 7; R230 (10); reset 0. Open epoch and try. -/
  openEpoch : Nat := 0
  openTry : BitVec 7 := 0
  /-- 1; R43 R212 (03, 10); reset 0. An attempt is open. -/
  isOpen : Bool := false
  /-- 1; R44 (03); reset 0. The next attempt's opening is due and has not happened (walker, park or row). -/
  openDue : Bool := false
  /-- 1; R177 (08); reset 0. The opening due follows a commit. -/
  afterCommit : Bool := false
  /-- 8; R43 R230 (03, 10); reset 0x00. Gate attempt number. -/
  att : Byte := 0
  /-- 256; R43 (03); reset 0. Outcome map. -/
  outcomes : BitVec 256 := 0
  /-- 256; R44 (03); reset 0. Attempt numbers closed since the last full pass of the fold walker. -/
  unfolded : BitVec 256 := 0
  /-- 1; R49 (03); reset 0. The commit window is open. -/
  window : Bool := false
  /-- 1; R360 (16); reset 0. The tenant is parked for a switch. -/
  parked : Bool := false
  /-- 1; R230 (10); reset 1. AUTO_ABORT. -/
  autoAbort : Bool := true
  /-- 32; R230 (10); reset 0. ABORT_WAIT in microseconds. -/
  abortWait : BitVec 32 := 0
  /-- 64; R227 (10); reset 0. Host time at which the attempt opened. -/
  openedAt : BitVec 64 := 0
  /-- 64; R230 (10); reset 0. Host time of the own READY, and MNL_EC_LAT. -/
  readyAt : BitVec 64 := 0
  lat : BitVec 32 := 0
  /-- tree; R218 (10); reset empty. -/
  tree : Tree := {}
  /-- tree; R285 R286 (13); reset none. Tree staged for a reslice, and the old tree kept as its shadow. -/
  stagedTree : Option Tree := none
  shadowTree : Option Tree := none
  /-- list; R222 (10); reset empty. Credits by child. -/
  credits : List Credit := []
  /-- 3; R230 (10); reset COLLECT. State as chip, pod and job manager. -/
  chipM : MState := .collect
  podM : MState := .collect
  jobM : MState := .collect
  /-- 1, 1; R217 (10); reset 0. This instance acts as pod manager, as job manager. -/
  podRole : Bool := false
  jobRole : Bool := false
  /-- 1; R217 R222 (10); reset 0. This instance acts as chip manager. -/
  chipRole : Bool := false
  /-- 64 each; R227 (10); reset 0. Host times of the last vote as chip and as pod manager, and of the last COMMIT_PREP. -/
  chipAt : BitVec 64 := 0
  podAt : BitVec 64 := 0
  solicitAt : BitVec 64 := 0
  /-- list; R223 (10); reset empty. Requests, waits and software aborts held during SOLICIT, with their REASON. -/
  held : List Byte := []
  /-- list; R223 (10); reset empty. Echoes seen in SOLICIT. -/
  echoes : List Decision := []
  /-- 1; R214 (10); reset 0. The next try waits for a new generation. -/
  genWait : Bool := false
  /-- 1; R214 (10); reset 0. The generation has been advanced under R214 since the open try opened. -/
  advanced : Bool := false
  /-- list; R220 (10); reset empty. REASONs of the aborted tries of the open epoch, newest first. -/
  reasons : List (BitVec 7 × Byte) := []
  /-- 25, 32; R230 (10); reset 0. MNL_EC_LAST. -/
  lastChild : Addr := 0
  lastGap : BitVec 32 := 0
  /-- 3; R230 R249 (10, 11); reset empty. What the roles of chip, pod and job manager record. -/
  roles : Vector RoleRec 3 := Vector.replicate 3 {}
  /-- list; R249 (11); reset empty. Late histories; an instance of this chip has index 4096 + INST. -/
  late : List Late := []
  /-- 20, 7; R250 (11); reset 2,000 and 16. LATE_GAP and MARK_AT. -/
  lateGap : BitVec 20 := 2000
  markAt : BitVec 7 := 16
  /-- 64; R213 (10); reset 0. The epoch limit has been reached. -/
  atLimit : Bool := false
  deriving DecidableEq, Repr, Inhabited

/-! ## Tenants: Fox -/

/-- SELF of MNL_FX_STATE (R250). -/
inductive SelfSt where
  | none
  | member
  | fenced
  deriving DecidableEq, Repr, Inhabited

/-- A report this instance sends to the leader until it is heeded (R241, R245). -/
structure Report where
  subject : Addr
  imask : BitVec 12
  cause : BitVec 4
  /-- The majority rule holds it at the leader (R234). -/
  held : Bool := false
  /-- Host time at which this instance last sent it. -/
  since : BitVec 64 := 0
  deriving DecidableEq, Repr, Inhabited

/-- Membership of a tenant at this instance (R232 to R245). -/
structure FoxS where
  /-- 32; R232 R250 (11); reset 0. Generation. -/
  gen : Gen := 0
  /-- 2; R250 (11); reset 00. SELF. -/
  self : SelfSt := .none
  /-- 64; R235 (11); reset empty. Log of the last updates, oldest first. -/
  log : List Update := []
  /-- list; R121 R234 (06, 11); reset empty. Instances LOST and not replaced, in order of loss. -/
  lost : List Addr := []
  /-- list; R217 R236 (10, 11); reset empty. Addresses LOST in the current generation and not named a target since. -/
  gone : List Addr := []
  /-- list; R233 R252 (11, 12); reset empty. Instances REPLACING: subject and target. -/
  replacing : List (Addr × Addr) := []
  /-- list; R218 R258 (10, 12); reset empty. Every replacement named since installation: subject and target; kept after KIND 0x5. -/
  targets : List (Addr × Addr) := []
  /-- list; R202 (09); reset empty. Targets that have joined the job at this member. -/
  joined : List Addr := []
  /-- 32; R237 (11); reset 0. HSEQ. -/
  hseq : BitVec 32 := 0
  /-- list; R241 (11); reset empty. Reports repeated until heeded. -/
  reports : List Report := []
  /-- list; R234 (11); reset empty. Reports queued at the leader, in arrival order. -/
  queue : List Report := []
  /-- 64, 1; R234 (11); reset 0. Host time of the last update issued, and whether one was issued. -/
  issuedAt : BitVec 64 := 0
  issuedAny : Bool := false
  /-- list; R254 (12); reset empty. LOST instances for which event 0xD1 was logged. -/
  noTarget : List Addr := []
  /-- list; R254 R270 (12); reset empty. Changes the leader owes: KIND 0x4, 0x5 and 0x6 updates. -/
  owed : List (BitVec 4 × Addr × Addr) := []
  /-- 1; R232 (11); reset 0. The generation limit was reached. -/
  frozen : Bool := false
  /-- 25, 1; R250 (11); reset 0. MNL_FX_EVICT as last written. -/
  evictAddr : Addr := 0
  evictChip : Bool := false
  /-- 64; R235 (11); reset 0. Host time of the last SYNC query. -/
  syncAt : BitVec 64 := 0
  deriving DecidableEq, Repr, Inhabited

/-- STATUS of a watch entry (R250). -/
inductive WStatus where
  | unseen
  | present
  | suspect
  | confirmed
  | lost
  | replacing
  deriving DecidableEq, Repr, Inhabited

/-- A witness round (R239). -/
structure Round where
  asked : List Addr
  missing : List Addr
  /-- Position in the order of witnesses at which the next round starts. -/
  next : Nat
  /-- Host time at which the round began. -/
  since : BitVec 64
  deriving DecidableEq, Repr, Inhabited

/-- A watch entry (R237, R250). -/
structure Watch where
  addr : Addr
  status : WStatus
  tidx : Fin 64
  slot : Nat
  /-- A candidate entry. -/
  cand : Bool
  rank : Nat
  hseq : BitVec 32
  /-- Host time from which the suspicion deadline runs. -/
  time : BitVec 64
  /-- A heartbeat has been accepted, and the host time of the last one (MNL_FX_WTIME). -/
  heard : Bool
  beat : BitVec 64 := 0
  round : Option Round
  /-- Host time at which the entry was made. -/
  made : BitVec 64
  deriving DecidableEq, Repr, Inhabited

/-! ## Badger -/

/-- MNL_BG_STATUS.STATE (R276). -/
inductive BgState where
  | idle
  | setup
  | demand
  | direct
  | background
  | parity
  | complete
  | stalled
  deriving DecidableEq, Repr, Inhabited

/-- What a run of the target, a repair or a Render fills. -/
inductive RunKind where
  | rebuild
  | repair
  | render
  deriving DecidableEq, Repr, Inhabited

/-- One panel of a run: index in the run, the part when it has come, and the helpers' digests by position. -/
structure RunPanel where
  i : Nat
  part : Option (List Byte)
  digs : List (Nat × BitVec 64)
  deriving DecidableEq, Repr, Inhabited

/-- A run outstanding at its requester (R261, R267, R279). -/
structure Run where
  kind : RunKind
  tidx : Fin 64
  slot : Fin 16
  first : Nat
  count : Nat
  /-- Position of the lost panel. -/
  lost : Nat
  /-- A replica-set run (R261). -/
  copy : Bool
  /-- Helper positions and addresses, ascending. -/
  helpers : List (Nat × Addr)
  epoch : Nat
  donly : Bool
  panels : List RunPanel
  /-- Host time its requests were sent; 0 while it waits. -/
  since : BitVec 64 := 0
  deriving DecidableEq, Repr, Inhabited

/-- One accumulator of a helper (R263). -/
structure Acc1 where
  i : Nat
  bytes : List Byte
  cmask : BitVec 36
  /-- Children positions still owed. -/
  owes : List Nat
  deriving DecidableEq, Repr, Inhabited

/-- A request a helper holds (R263, R264, R280). -/
structure HelpRun where
  render : Bool
  tidx : Fin 64
  slot : Fin 16
  requester : Addr
  reqSlot : BitVec 4
  first : Nat
  count : Nat
  lost : Nat
  epoch : Nat
  /-- The parent, its slot field, and the accumulators not yet sent. -/
  parent : Addr
  parentSlot : BitVec 4
  /-- Positions of the requester's helpers, ascending. -/
  helpers : List Nat
  pos : Nat
  accs : List Acc1
  /-- Host time the request was accepted. -/
  since : BitVec 64 := 0
  deriving DecidableEq, Repr, Inhabited

/-- A panel queued for repair (R55, R272). -/
inductive RepairItem where
  | data (ctx : Nat) (panel : Nat)
  | parity (slot : Nat) (e : Nat)
  deriving DecidableEq, Repr, Inhabited

/-- Instance-wide Badger state (R264, R272, R276). -/
structure BadgerS where
  /-- list; R261 (12); reset empty. Runs outstanding as requester. -/
  runs : List Run := []
  /-- list; R261 R264 (12); reset empty. Runs to be asked for again that wait for room under DEPTH or for their PANEL. -/
  wait : List Run := []
  /-- 512; R66 R263 (04, 12); reset empty. Requests held as helper. -/
  helps : List HelpRun := []
  /-- 7, RC; R276 (12); reset 0. Largest reservation since the last read. -/
  peak : Nat := 0
  /-- 256; R272 (12); reset empty. Repair queue. -/
  repairs : List RepairItem := []
  /-- list; R267 (12); reset empty. Panels whose digest mismatched once: slot, parity, panel index. -/
  doubts : List (Nat × Bool × Nat) := []
  /-- list; R267 (12); reset empty. Panels left unresolved after a second mismatch. -/
  unresolved : List (Nat × Bool × Nat) := []
  /-- 23, 1, 4, 1; R276 (12); reset 0. MNL_BG_BAD: panel, PAR, slot. -/
  bad : Option (Nat × Bool × Nat) := none
  /-- 1; R276 (12); reset 0. HOLD. -/
  hold : Bool := false
  /-- 6; R276 (12); reset 0. MNL_BG_TSEL. -/
  tsel : BitVec 6 := 0
  /-- list; R55 (03); reset empty. Regions being repaired whole: CONTAINED entries and verified panels. -/
  verified : List (Nat × Nat × BitVec 64) := []
  deriving DecidableEq, Repr, Inhabited

/-- A target list entry (R253, R276). -/
structure Target where
  addr : Addr
  chip : Bool
  used : BitVec 12
  valid : Bool
  deriving DecidableEq, Repr, Inhabited

/-- A completion record that waits for its offer or its update (R270). -/
structure Completion where
  /-- The entry; none for the rank record. -/
  ctx : Option Nat
  payload : List Byte
  sent : Nat
  /-- Host time it was last sent. -/
  since : BitVec 64 := 0
  deriving DecidableEq, Repr, Inhabited

/-- A tenant's rebuild at this target, and its target list (R252 to R276). -/
structure BgTenS where
  /-- 3; R276 (12); reset 000 IDLE. STATE. -/
  state : BgState := .idle
  /-- 8; R276 (12); reset 0x00. CAUSE. -/
  cause : Byte := 0
  /-- 25 + 1; R276 (12); reset invalid. Subject replaced. -/
  subject : Option Addr := none
  /-- list; R139 R256 (07, 12); reset empty. Entries the rebuild fills for the instance it replaces, from its start. -/
  filling : List Nat := []
  /-- 1; R256 R259 (12); reset 0. The target has applied a decision of the tenant since its naming. -/
  decided : Bool := false
  /-- 1; R258 (12); reset 0. The abort request for the named try is repeated. -/
  asking : Bool := false
  /-- 64; R258 (12); reset 0. Host time the abort request was last sent. -/
  askedAt : BitVec 64 := 0
  /-- list; R265 R267 (12); reset empty. Verified data panels of LOADING entries: entry, panel, expected digest X. -/
  verified : List (Nat × Nat × BitVec 64) := []
  /-- list; R265 (12); reset empty. Verified panels pending a digest check at the new epoch. -/
  pending : List (Nat × Nat × BitVec 64) := []
  /-- 1; R276 (12); reset 0. SWEEP_WAIT. -/
  sweepWait : Bool := false
  /-- list; R270 (12); reset empty. Completion records repeated. -/
  records : List Completion := []
  /-- 64 entries; R253 R276 (12); reset invalid. Target list. -/
  targets : Vector (Option Target) 64 := Vector.replicate 64 none
  deriving DecidableEq, Repr, Inhabited

/-! ## Reslice, teardown, export -/

/-- MNL_RS_STATUS.STATE (R296). -/
inductive RsState where
  | idle
  | armed
  | moving
  | sealing
  | teardown
  | quiet
  deriving DecidableEq, Repr, Inhabited

/-- A source record of a destination (R287, R288). -/
structure RsSource where
  addr : Addr
  count : Nat
  got : Nat
  resends : Nat
  /-- Panels got at the last RESEND. -/
  gotAt : Nat
  /-- Host time of the last new panel, of the last RESEND, or of the record. -/
  since : BitVec 64 := 0
  deriving DecidableEq, Repr, Inhabited

/-- A destination of a source (R287). -/
structure RsDest where
  addr : Addr
  count : Nat
  done : Bool
  /-- Host time of the last COUNT sent to it. -/
  since : BitVec 64 := 0
  deriving DecidableEq, Repr, Inhabited

/-- A tenant's boundary state (R282 to R297). -/
structure RsTenS where
  /-- 3; R296 (13); reset 000 IDLE. STATE. -/
  state : RsState := .idle
  /-- 8; R296 (13); reset 0x00. RESULT. -/
  result : Byte := 0
  /-- 48, 1; R296 (13); reset 0. AT and NEW. -/
  at_ : BitVec 48 := 0
  new_ : Bool := false
  /-- 32; R296 (13); reset 0. Generation expected. -/
  armGen : Gen := 0
  /-- 1; R282 R284 (13); reset 0. The seal under way is the first. -/
  first : Bool := false
  /-- 48; R282 (13); reset 0. Seal epoch B. -/
  boundary : Nat := 0
  /-- 1; R286 (13); reset 0. This member is a joiner. -/
  joiner : Bool := false
  /-- list; R287 (13); reset empty. Source records, destinations. -/
  sources : List RsSource := []
  dests : List RsDest := []
  /-- list; R290 (13); reset empty. Entries that were ACTIVE at the boundary. -/
  oldEntries : List Nat := []
  /-- list; R281 R282 (13); reset empty. Parity panels Render has verified: slot, panel. -/
  rendered : List (Nat × Nat) := []
  /-- 48 + 1; R279 (13); reset none. Last seal epoch applied. -/
  lastSeal : Option Nat := none
  /-- 1; R287 (13); reset 0. The last boundary was cancelled: answers are CANCEL. -/
  cancelled : Bool := false
  /-- list; R292 (13); reset empty. What teardown still primes: entries, slots. -/
  tearEntries : List Nat := []
  tearSlots : List Nat := []
  /-- 64; R293 (13); reset 0. Host time QUIET was entered. -/
  quietAt : BitVec 64 := 0
  deriving DecidableEq, Repr, Inhabited

/-- A move entry (R285, R296). -/
structure Move where
  ctx : BitVec 16 := 0
  first : BitVec 23 := 0
  count : BitVec 23 := 0
  dest : Addr := 0
  valid : Bool := false
  deriving DecidableEq, Repr, Inhabited

/-- The export under way (R295). -/
structure Export where
  tidx : Fin 64
  ctx : Nat
  first : Nat
  count : Nat
  dst : Nat
  epoch : Nat
  deriving DecidableEq, Repr, Inhabited

/-- Instance-wide reslice and export registers (R296). -/
structure RsS where
  /-- 4; R296 (13); reset 0x0. OP last written. -/
  op : BitVec 4 := 0
  /-- 8; R296 (13); reset 0. MSEL. -/
  msel : Byte := 0
  /-- 256; R285 R296 (13); reset 0. Move list. -/
  moves : Vector Move 256 := Vector.replicate 256 {}
  /-- 16, 23, 23; R296 (13); reset 0. MNL_RS_XSRC. -/
  xctx : BitVec 16 := 0
  xfirst : BitVec 23 := 0
  xcount : BitVec 23 := 0
  /-- 36; R296 (13); reset 0. MNL_RS_XDST as a byte address. -/
  xdst : BitVec 36 := 0
  /-- 1; R296 (13); reset 0. XBUSY, with the export under way. -/
  running : Option Export := none
  deriving DecidableEq, Repr, Inhabited

/-! ## Audit, digests, lockstep -/

/-- A part an auditor has for a stripe: run position, tree row, its panel. -/
structure AuPart where
  stripe : Nat
  row : Nat
  bytes : List Byte
  deriving DecidableEq, Repr, Inhabited

/-- A run at the auditor (R308, R311). -/
structure AuRun where
  s0 : Nat
  count : Nat
  epoch : Nat
  /-- Stripes of the run not skipped, and those judged. -/
  stripes : List Nat
  judged : List Nat
  parts : List AuPart
  /-- Corrections sent, by owning member. -/
  fixes : List (Addr × Nat)
  /-- Host time its requests were sent. -/
  since : BitVec 64 := 0
  deriving DecidableEq, Repr, Inhabited

/-- One tree's accumulator at an audit helper (R309). -/
structure AuAcc where
  stripe : Nat
  row : Nat
  bytes : List Byte
  cmask : BitVec 36
  owes : List Nat
  parent : Addr
  parentSlot : BitVec 4
  deriving DecidableEq, Repr, Inhabited

/-- An audit run at a helper (R309, R310). -/
structure AuHelp where
  tidx : Fin 64
  slot : Fin 16
  auditor : Addr
  s0 : Nat
  count : Nat
  epoch : Nat
  accs : List AuAcc
  /-- Corrections the release counts, and corrections applied. -/
  release : Option Nat
  fixed : Nat
  /-- Host time the request was accepted. -/
  since : BitVec 64 := 0
  deriving DecidableEq, Repr, Inhabited

/-- A lockstep pair's role (R314). -/
inductive LsRole where
  | off
  | send
  | compare
  | ring
  deriving DecidableEq, Repr, Inhabited

/-- A lockstep pair (R314, R315, R317). -/
structure LsPair where
  /-- 25; R317 (14); reset 0. PARTNER. -/
  partner : Addr := 0
  /-- 2; R317 (14); reset 00. ROLE. -/
  role : LsRole := .off
  /-- 16; R317 (14); reset 1. PERIOD. -/
  period : BitVec 16 := 1
  /-- 6; R317 (14); reset 0. TIDX. -/
  tidx : Fin 64 := 0
  /-- slot of a RING; R314 (14); reset none. -/
  slot : Option (Fin 16) := none
  /-- 48; R317 (14); reset 0. Last epoch fully compared. -/
  epoch : Nat := 0
  /-- indices; R315 (14); reset empty. Indices compared of the epoch in hand, and whether one mismatched. -/
  arrived : List Nat := []
  inHand : Nat := 0
  missed : Bool := false
  /-- 1; R315 (14); reset 1. The epoch in hand owes nothing: every index of it has arrived, or none was due. -/
  done : Bool := true
  /-- 64 + 48 + 64 + 64; R317 (14); reset none. The recorded mismatch: coordinate, epoch, own digest, partner's, and its pair index. -/
  mismatch : Option (BitVec 64 × Nat × BitVec 64 × BitVec 64 × Nat) := none
  /-- epoch; R315 (14); reset none. A commit whose digests are due. -/
  sendDue : Option Nat := none
  /-- 64; R315 (14); reset 0. Host time of that commit. -/
  dueAt : BitVec 64 := 0
  deriving DecidableEq, Repr, Inhabited

/-- Audit, digest and lockstep block (R300 to R318). -/
structure AuditS where
  /-- 1; R317 (14); reset 0. BUSY. -/
  busy : Bool := false
  /-- 8; R317 (14); reset 0x00. RESULT. -/
  result : Byte := 0
  /-- 48; R317 (14); reset 0. Committed epoch of the last judged stripe. -/
  epoch : Nat := 0
  /-- 4, 4; R317 (14); reset 0. OP and SLOT last written. -/
  op : BitVec 4 := 0
  slot : BitVec 4 := 0
  /-- 24, 24; R317 (14); reset 0. FIRST and COUNT. -/
  first : BitVec 24 := 0
  count : BitVec 24 := 0
  /-- range; R308 (14); reset empty. Stripes of the audit still to be requested. -/
  todo : List Nat := []
  /-- 24 each; R317 (14); reset 0. CHECKED, CLEAN, SKIPPED, CORRECTED, DETECTED. -/
  checked : Nat := 0
  clean : Nat := 0
  skipped : Nat := 0
  corrected : Nat := 0
  detected : Nat := 0
  /-- 24 + 1; R317 (14); reset invalid. First DETECTED stripe. -/
  firstBad : Option Nat := none
  /-- list; R308 (14); reset empty. Runs outstanding. -/
  runs : List AuRun := []
  /-- list; R309 (14); reset empty. Runs held as helper. -/
  helps : List AuHelp := []
  /-- 4; R317 (14); reset 0. MNL_LS_PSEL. -/
  psel : BitVec 4 := 0
  /-- 15; R314 (14); reset off. Lockstep pairs. -/
  pairs : Vector LsPair 15 := Vector.replicate 15 {}
  /-- 1, 16; R317 (14); reset 0. MNL_DG_SRBASE.EN and BASE as a byte address. -/
  srEn : Bool := false
  srBase : BitVec 36 := 0
  deriving DecidableEq, Repr, Inhabited

/-- A step record being formed (R306, R307). -/
structure PendingRec where
  epoch : Nat
  tr : BitVec 7
  flags : BitVec 7
  gen : Gen
  time : BitVec 64
  prog : List Byte
  intake : List Byte
  /-- A joiner's first record. -/
  fresh : Bool
  /-- The leaves' bytes in ascending coordinate, fixed at the commit. -/
  leaves : List (List Byte)
  deriving DecidableEq, Repr, Inhabited

/-- A tenant's step records (R306, R317). -/
structure RecS where
  /-- 32; R317 (14); reset 0. Records formed. -/
  count : BitVec 32 := 0
  /-- 256; R317 (14); reset 0. STATE of the last record; empty reads zero. -/
  root : List Byte := []
  /-- 256; R317 (14); reset 0. SHA-256 of the last record. -/
  last : List Byte := []
  /-- record; R307 (14); reset none. ROOT_BUSY, with the record being formed. -/
  busy : Option PendingRec := none
  /-- digest; R306 (14); reset empty. What the INTAKE digest of the sweep in hand is taken over: the manifest bytes under key 0, the slot digests of each chunk freed under its number. -/
  intake : List (Nat × List Byte) := []
  deriving DecidableEq, Repr, Inhabited

/-! ## Tenants, lath and the whole -/

/-- Everything an instance holds for one tenant index. -/
structure TenantS where
  /-- 16; R94 (05); reset inactive. The envelope present at the instance. -/
  env : Option Envelope := none
  intake : IntakeS := {}
  sweep : SweepS := {}
  commit : CommitS := {}
  fox : FoxS := {}
  bg : BgTenS := {}
  rs : RsTenS := {}
  steprec : RecS := {}
  /-- 1; R175 R182 (08); reset 0. Bank the tenant selects. -/
  bank : Bool := false
  /-- 16 x 36; R182 (08); reset 0. Derived bases by stream, byte addresses. -/
  dbase : Vector (BitVec 36) 16 := Vector.replicate 16 0
  deriving DecidableEq, Repr, Inhabited

/-- A tenant index at reset: the reset value each of its parts gives. -/
def TenantS.reset : TenantS := {}

/-- One sibling on the lath as the ring shows it (R217, R396). -/
structure LathInst where
  /-- 1; R217 (10); reset 0. In service. -/
  up : Bool := false
  /-- per tenant; R217 (10); reset empty. Tenants whose vote state is READY, with epoch and try. -/
  ready : List (Nat × Nat × BitVec 7) := []
  /-- per tenant; R396 (19); reset empty. Tenants of whose job the instance holds a rank. -/
  ranks : List Nat := []
  deriving DecidableEq, Repr, Inhabited

/-- The lath (R12, R217, R376, R396, R397). -/
structure LathS where
  /-- 12 stops; R217 (10); reset 0. -/
  insts : Vector LathInst 12 := Vector.replicate 12 {}
  /-- 1, 1; R396 (19); reset 0. CW_UP, CCW_UP. -/
  cwUp : Bool := false
  ccwUp : Bool := false
  /-- 16; R396 (19); reset 0. RTT. -/
  rtt : BitVec 16 := 0
  /-- 4, 1; R380 (17); reset 0. NINST, CLOSED. -/
  ninst : BitVec 4 := 0
  closed : Bool := false
  /-- 1; R375 (17); reset 1. The straps of the last walk stand in ring order; 1 before a walk. -/
  inOrder : Bool := true
  /-- list; R217 R326 (10, 15); reset empty. Decisions the ring has shown while this stop only forwarded, by tenant index. -/
  decisions : List (Nat × Decision) := []
  /-- 32, RC; R396 (19); reset 0. Transfers repeated. -/
  retry : BitVec 32 := 0
  /-- list; R217 (10); reset empty. Messages this stop has put on the ring, oldest first. -/
  sent : List LathMsg := []
  deriving DecidableEq, Repr, Inhabited

/-- Selectors and instance-wide registers of the remaining blocks. -/
structure RegsS where
  /-- 6; R150 (07); reset 0. MNL_UE_TSEL. -/
  tsel : BitVec 6 := 0
  /-- 1, 36; R150 (07); reset 0. MNL_UE_NOTIFY.EN and BASE as a byte address. -/
  notifyEn : Bool := false
  notifyBase : BitVec 36 := 0
  /-- 10; R250 (11); reset 0. MNL_FX_WSEL. -/
  wsel : BitVec 10 := 0
  /-- 25, 1; R250 (11); reset 0. MNL_FX_FMREP as last written. -/
  fmAddr : Addr := 0
  fmChip : Bool := false
  /-- 25, 32 RC; R250 (11); reset 0. MNL_FX_EXTRA. -/
  extraAddr : Addr := 0
  extraCount : BitVec 32 := 0
  /-- 3; R230 (10); reset 0. MNL_EC_CSEL. -/
  csel : BitVec 3 := 0
  /-- 11, 1; R230 (10); reset 0. MNL_EC_CIDX. -/
  cidx : BitVec 11 := 0
  ctable : Bool := false
  /-- 4; R209 (09); reset 0. MNL_SW_GSEL. -/
  gsel : BitVec 4 := 0
  deriving DecidableEq, Repr, Inhabited

/-- The state of the block: one instance, its stack, and the queue of commands that wait. -/
structure State where
  power : PowerS := {}
  time : TimeS := {}
  /-- 15 monitors; R379 (17). -/
  monitors : Vector Monitor 15 := Vector.replicate 15 {}
  flt : FaultS := {}
  crash : CrashS := {}
  loader : LoaderS := {}
  /-- 64 GiB; R35 R39 R40 R302 (03, 14); reset: DESIGN CHOICE every byte 0x00, log entry 2. The stack, canonical. -/
  mem : NMap Byte := []
  gate : GateS := {}
  ctx : CtxS := {}
  ep : EpS := {}
  hawk : HawkS := {}
  slots : Vector SlotS 16 := Vector.replicate 16 {}
  tenants : Vector TenantS 64 := Vector.replicate 64 TenantS.reset
  ib : IbS := {}
  /-- 4 MiB; R126 (07); reset: DESIGN CHOICE zero, log entry 2. Working area of the local store, canonical. -/
  work : NMap Byte := []
  /-- 640; R237 (11); reset empty. Watch table. -/
  watch : List Watch := []
  badger : BadgerS := {}
  rs : RsS := {}
  audit : AuditS := {}
  lath : LathS := {}
  regs : RegsS := {}
  /-- MODEL's own; counter; reset 0 DESIGN CHOICE, log entry 5. Free values taken so far. -/
  free : Nat := 0
  /-- MODEL's own; queue; reset empty. Commands that wait, first in first out. -/
  pending : List Instr := []
  deriving DecidableEq, Repr

/-- The machine right after reset: the memory-and-links reset still asserted, every field at its reset value. -/
def State.reset : State := {}

end Sys2Proof.Machine
end

