-- ==== Sys2Proof/Machine/Mem.lean ====
section
/-! DEFINITION. The named operations over memory and over finite maps: every byte the block reads or writes in the
stack, in the crash area or in the working area goes through these (R6, R35, R40, R126, R334). -/

namespace Sys2Proof

/-! ## Finite maps -/

/-- The value at key `k`, if the map has one. -/
def NMap.get? {α : Type} : NMap α → Nat → Option α
  | [], _ => none
  | (a, v) :: t, k => if a = k then some v else if k < a then none else NMap.get? t k

/-- The map with key `k` holding `v`. -/
def NMap.insert {α : Type} : NMap α → Nat → α → NMap α
  | [], k, v => [(k, v)]
  | (a, w) :: t, k, v =>
    if a = k then (k, v) :: t else if k < a then (k, v) :: (a, w) :: t else (a, w) :: NMap.insert t k v

/-- The map without key `k`. -/
def NMap.erase {α : Type} : NMap α → Nat → NMap α
  | [], _ => []
  | (a, w) :: t, k => if a = k then t else if k < a then (a, w) :: t else (a, w) :: NMap.erase t k

/-- The map with key `k`, where present, changed by `f`. -/
def NMap.modify {α : Type} (m : NMap α) (k : Nat) (f : α → α) : NMap α :=
  m.map (fun p => if p.1 = k then (p.1, f p.2) else p)

/-- Keys strictly rising, all of them at least `lo`. -/
def NMap.risingFrom {α : Type} : Nat → NMap α → Bool
  | _, [] => true
  | lo, (a, _) :: t => decide (lo ≤ a) && NMap.risingFrom (a + 1) t

/-- Keys strictly rising. -/
def NMap.rising {α : Type} (m : NMap α) : Bool := NMap.risingFrom 0 m

namespace Mem

/-- The canonical form of a memory of `size` bytes: keys strictly rising and below `size`, no listed byte equal to
what an unlisted address reads as. -/
def wf (size : Nat) (m : NMap Byte) : Bool :=
  NMap.rising m && m.all (fun p => decide (p.1 < size) && decide (p.2 ≠ 0))

/-- What an unlisted address reads as: 0x00. DESIGN CHOICE, log entry 2: the manual gives no contents at power-on. -/
def absent : Byte := 0

/-- The byte at address `a`. -/
def read (m : NMap Byte) (a : Nat) : Byte := (NMap.get? m a).getD absent

/-- The memory with byte `b` at address `a`. -/
def write (m : NMap Byte) (a : Nat) (b : Byte) : NMap Byte :=
  if b = absent then NMap.erase m a else NMap.insert m a b

/-- `n` bytes from address `a` on, in a memory of `size` bytes; addresses wrap at its end. -/
def readN (size : Nat) (m : NMap Byte) (a : Nat) : Nat → List Byte
  | 0 => []
  | n + 1 => read m (a % size) :: readN size m (a + 1) n

/-- The memory with `bs` from address `a` on. -/
def writeN (size : Nat) (m : NMap Byte) (a : Nat) : List Byte → NMap Byte
  | [] => m
  | b :: bs => writeN size (write m (a % size) b) (a + 1) bs

/-- The memory with `n` bytes from address `a` on zeroed: what Primer leaves of a range (R278). -/
def zero (m : NMap Byte) (a n : Nat) : NMap Byte := m.filter (fun p => decide (p.1 < a) || decide (a + n ≤ p.1))

end Mem

/-! ## Bytes and words -/

/-- The low `n` bytes of `v`, least significant first (R6). -/
def leBytes : Nat → Nat → List Byte
  | 0, _ => []
  | n + 1, v => BitVec.ofNat 8 v :: leBytes n (v / 256)

/-- The value of bytes, least significant first (R6). -/
def leNat : List Byte → Nat
  | [] => 0
  | b :: bs => b.toNat + 256 * leNat bs

/-- The value of bytes, most significant first (R4: fields of the cited standards). -/
def beNat (bs : List Byte) : Nat := bs.foldl (fun v b => 256 * v + b.toNat) 0

/-- The low `n` bytes of `v`, most significant first (R4). -/
def beBytes (n v : Nat) : List Byte := (leBytes n v).reverse

/-- `n` bytes of `bs` from offset `o` on; absent bytes are zero. -/
def slice (bs : List Byte) (o n : Nat) : List Byte :=
  let t := (bs.drop o).take n
  t ++ List.replicate (n - t.length) 0

/-- The little-endian field of `n` bytes at offset `o`. -/
def leField (bs : List Byte) (o n : Nat) : Nat := leNat (slice bs o n)

/-- `n` bits of `v` from bit `lo` on. -/
def bitsOf (v lo n : Nat) : Nat := v / 2 ^ lo % 2 ^ n

/-- The bytes with those from offset `o` on replaced by `new`. -/
def splice (bs : List Byte) (o : Nat) (new : List Byte) : List Byte :=
  bs.take o ++ new ++ bs.drop (o + new.length)

/-- `bs` padded with zeros to `n` bytes. -/
def padTo (n : Nat) (bs : List Byte) : List Byte := bs ++ List.replicate (n - bs.length) 0

/-- Byte-wise exclusive or of two lists, the shorter read as padded with zeros. -/
def xorBytes : List Byte → List Byte → List Byte
  | [], b => b
  | a, [] => a
  | x :: a, y :: b => (x ^^^ y) :: xorBytes a b

/-- A line of 64 bytes from its bytes (R35). -/
def lineOf (bs : List Byte) : Line := BitVec.ofNat 512 (leNat (bs.take 64))

/-- The 64 bytes of a line (R35). -/
def lineBytes (l : Line) : List Byte := leBytes 64 l.toNat

/-- The line with the bytes of `new` whose byte enables are set (R35). -/
def mergeLine (be : BitVec 64) (old new : Line) : Line :=
  lineOf ((List.range 64).map fun i =>
    if be.getLsbD i then BitVec.ofNat 8 (new.toNat / 256 ^ i) else BitVec.ofNat 8 (old.toNat / 256 ^ i))

/-- The list with `x` in place of element `i`. -/
def listSet {α : Type} (l : List α) (i : Nat) (x : α) : List α := l.set i x

/-- Whether the strict order `lt` rises along the list. -/
def strictlyRising : List Nat → Bool
  | a :: b :: t => decide (a < b) && strictlyRising (b :: t)
  | _ => true

/-- `x` put in front of the list where it holds it not yet. -/
def addOnce {α : Type} [DecidableEq α] (x : α) (l : List α) : List α := if x ∈ l then l else l ++ [x]

/-- A list in the order `le`, equal elements in their old order. -/
def sortBy {α : Type} (le : α → α → Bool) (l : List α) : List α :=
  l.foldr (fun x t => t.takeWhile (fun y => !le x y) ++ x :: t.dropWhile (fun y => !le x y)) []

/-- The list with the element at position `i` changed by `f`. -/
def listModify {α : Type} (l : List α) (i : Nat) (f : α → α) : List α :=
  match l[i]? with
  | some x => l.set i (f x)
  | none => l

end Sys2Proof
end

