-- ==== Sys2Proof/Machine/Crypto.lean ====
section
/-! DEFINITION. The published algorithms the manual cites: CRC-32C (R74), SHA-256 and SHA-384 (FIPS 180-4; R305 to
R307, R341 to R343, R353) and ECDSA over P-384 (FIPS 186-5; R342). -/

namespace Sys2Proof.Machine

/-! ## CRC-32C -/

/-- One bit of the reflected CRC-32C register: polynomial 0x1EDC_6F41 reflected is 0x82F6_3B78 (R74). -/
def crcBit (c : BitVec 32) : BitVec 32 :=
  if c.getLsbD 0 then (c >>> 1) ^^^ 0x82F63B78#32 else c >>> 1

/-- One byte of CRC-32C (R74). -/
def crcByte (c : BitVec 32) (b : Byte) : BitVec 32 :=
  crcBit (crcBit (crcBit (crcBit (crcBit (crcBit (crcBit (crcBit (c ^^^ b.setWidth 32))))))))

/-- CRC-32C of a byte string: initial value and final exclusive-or 0xFFFF_FFFF (R74). -/
def crc32c (bs : List Byte) : BitVec 32 := bs.foldl crcByte 0xFFFFFFFF#32 ^^^ 0xFFFFFFFF#32

/-! ## SHA-2 -/

/-- Largest `x` with `x ^ e ≤ n`, found bit by bit from bit `k - 1` down, `acc` being the bits found. -/
def rootBits (e n : Nat) : Nat → Nat → Nat
  | 0, acc => acc
  | k + 1, acc => if (acc + 2 ^ k) ^ e ≤ n then rootBits e n k (acc + 2 ^ k) else rootBits e n k acc

/-- The first 80 primes, from which FIPS 180-4 takes its constants. -/
def sha2Primes : List Nat := (List.range 410).filter fun n =>
  decide (2 ≤ n) && (List.range n).all fun d => decide (d < 2) || decide (n % d ≠ 0)

/-- The first `w` bits of the fractional part of the `e`-th root of `p` (FIPS 180-4, 4.2 and 5.3). -/
def fracRoot (w e p : Nat) : BitVec w := BitVec.ofNat w (rootBits e (p * 2 ^ (e * w)) (w + 5) 0)

/-- The rotation and shift amounts of one SHA-2 word size (FIPS 180-4, 4.1). -/
structure ShaParams where
  w : Nat
  rounds : Nat
  bigA : Nat × Nat × Nat
  bigE : Nat × Nat × Nat
  smallA : Nat × Nat × Nat
  smallB : Nat × Nat × Nat

/-- SHA-256's word size. -/
def sha256Params : ShaParams := ⟨32, 64, (2, 13, 22), (6, 11, 25), (7, 18, 3), (17, 19, 10)⟩

/-- SHA-512's word size, which SHA-384 uses. -/
def sha512Params : ShaParams := ⟨64, 80, (28, 34, 39), (14, 18, 41), (1, 8, 7), (19, 61, 6)⟩

/-- Three rotations joined by exclusive or. -/
def bigSigma {w : Nat} (r : Nat × Nat × Nat) (x : BitVec w) : BitVec w :=
  x.rotateRight r.1 ^^^ x.rotateRight r.2.1 ^^^ x.rotateRight r.2.2

/-- Two rotations and a shift joined by exclusive or. -/
def smallSigma {w : Nat} (r : Nat × Nat × Nat) (x : BitVec w) : BitVec w :=
  x.rotateRight r.1 ^^^ x.rotateRight r.2.1 ^^^ (x >>> r.2.2)

/-- The message schedule, newest word first, extended by `n` words. -/
def shaSchedule (p : ShaParams) : Nat → List (BitVec p.w) → List (BitVec p.w)
  | 0, ws => ws
  | n + 1, ws =>
    let at_ (i : Nat) : BitVec p.w := ws.getD i 0
    shaSchedule p n ((smallSigma p.smallB (at_ 1) + at_ 6 + smallSigma p.smallA (at_ 14) + at_ 15) :: ws)

/-- One round on the eight working words, given its constant and its schedule word. -/
def shaRound (p : ShaParams) (v : List (BitVec p.w)) (kw : BitVec p.w × BitVec p.w) : List (BitVec p.w) :=
  match v with
  | [a, b, c, d, e, f, g, h] =>
    let t1 := h + bigSigma p.bigE e + ((e &&& f) ^^^ (~~~e &&& g)) + kw.1 + kw.2
    let t2 := bigSigma p.bigA a + ((a &&& b) ^^^ (a &&& c) ^^^ (b &&& c))
    [t1 + t2, a, b, c, d + t1, e, f, g]
  | other => other

/-- The compression of one block of 16 words. -/
def shaBlock (p : ShaParams) (ks : List (BitVec p.w)) (h : List (BitVec p.w)) (m : List (BitVec p.w)) :
    List (BitVec p.w) :=
  let ws := (shaSchedule p (p.rounds - 16) m.reverse).reverse
  List.zipWith (· + ·) h ((ks.zip ws).foldl (shaRound p) h)

/-- `bs` cut into pieces of `k` bytes, `n` pieces at most. -/
def chunksOf {α : Type} (k : Nat) : Nat → List α → List (List α)
  | 0, _ => []
  | n + 1, bs => if bs.isEmpty then [] else bs.take k :: chunksOf k n (bs.drop k)

/-- The padded message: a 1 bit, zeros, and the length in bits in the last two words (FIPS 180-4, 5.1). -/
def shaPad (p : ShaParams) (bs : List Byte) : List Byte :=
  let blk := 2 * p.w
  let len := p.w / 4
  let used := (bs.length + 1 + len) % blk
  let zeros := if used = 0 then 0 else blk - used
  bs ++ [0x80#8] ++ List.replicate zeros 0 ++ beBytes len (8 * bs.length)

/-- The SHA-2 hash from the initial words `h0`, as words. -/
def sha2 (p : ShaParams) (h0 : List (BitVec p.w)) (bs : List Byte) : List (BitVec p.w) :=
  let ks := (sha2Primes.take p.rounds).map (fracRoot p.w 3)
  let padded := shaPad p bs
  let blocks := chunksOf (2 * p.w) padded.length padded
  blocks.foldl (fun h b => shaBlock p ks h
    ((chunksOf (p.w / 8) 16 b).map fun c => BitVec.ofNat p.w (beNat c))) h0

/-- SHA-256: 32 digest bytes in the standard's order (R6, FIPS 180-4). -/
def sha256 (bs : List Byte) : List Byte :=
  (sha2 sha256Params ((sha2Primes.take 8).map (fracRoot 32 2)) bs).flatMap fun w => beBytes 4 w.toNat

/-- SHA-384: 48 digest bytes in the standard's order (R342, FIPS 180-4). -/
def sha384 (bs : List Byte) : List Byte :=
  ((sha2 sha512Params (((sha2Primes.drop 8).take 8).map (fracRoot 64 2)) bs).take 6).flatMap fun w => beBytes 8 w.toNat

/-! ## ECDSA over P-384 -/

/-- The field prime of P-384: 2^384 − 2^128 − 2^96 + 2^32 − 1. -/
def p384p : Nat := 2 ^ 384 - 2 ^ 128 - 2 ^ 96 + 2 ^ 32 - 1

/-- The order of the base point of P-384. -/
def p384n : Nat :=
  0xffffffffffffffffffffffffffffffffffffffffffffffffc7634d81f4372ddf581a0db248b0a77aecec196accc52973

/-- The coefficient b of P-384; a is −3. -/
def p384b : Nat :=
  0xb3312fa7e23ee7e4988e056be3f82d19181d9c6efe8141120314088f5013875ac656398d8a2ed19d2a85c8edd3ec2aef

/-- The base point of P-384. -/
def p384g : Nat × Nat :=
  (0xaa87ca22be8b05378eb1c71ef320ad746e1d3b628ba79b9859f741e082542a385502f25dbf55296c3a545e3872760ab7,
   0x3617de4a96262c6f5d9e98bf9292dc29f8f41dbd289a147ce9da3113b5f0b8c00a60b1ce1d7e819d7a431d7c90ea0e5f)

/-- `x ^ e mod m` by squaring, `k` bits of the exponent from the lowest. -/
def powMod (m : Nat) : Nat → Nat → Nat → Nat
  | 0, _, _ => 1 % m
  | k + 1, x, e =>
    let r := powMod m k (x * x % m) (e / 2)
    if e % 2 = 1 then x * r % m else r

/-- The inverse modulo a prime of at most 384 bits. -/
def invMod (m x : Nat) : Nat := powMod m 384 (x % m) (m - 2)

/-- Addition on P-384 in affine form; none is the point at infinity. -/
def p384add (a b : Option (Nat × Nat)) : Option (Nat × Nat) :=
  match a, b with
  | none, q => q
  | q, none => q
  | some (x1, y1), some (x2, y2) =>
    let p := p384p
    if x1 = x2 ∧ (y1 + y2) % p = 0 then none
    else
      let l := if x1 = x2 then (3 * x1 * x1 + (p - 3)) * invMod p (2 * y1) % p
               else (y2 + p - y1) * invMod p (x2 + p - x1) % p
      let x3 := (l * l + 2 * p - x1 - x2) % p
      some (x3, (l * (x1 + p - x3) + (p - y1)) % p)

/-- `k`-bit scalar multiple of a point. -/
def p384mul : Nat → Nat → Option (Nat × Nat) → Option (Nat × Nat)
  | 0, _, _ => none
  | k + 1, e, q =>
    let r := p384mul k (e / 2) (p384add q q)
    if e % 2 = 1 then p384add q r else r

/-- The 97 key bytes as a point of P-384: SEC1 uncompressed, coordinates in range and on the curve (R342). -/
def p384point (key : List Byte) : Option (Nat × Nat) :=
  let x := beNat ((key.drop 1).take 48)
  let y := beNat ((key.drop 49).take 48)
  if key.length = 97 ∧ key.head? = some 0x04#8 ∧ x < p384p ∧ y < p384p ∧
      y * y % p384p = (x * x * x + (p384p - 3) * x + p384b) % p384p then some (x, y) else none

/-- Whether (r, s) signs `msg` under the key: ECDSA with SHA-384 (R342, FIPS 186-5). -/
def ecdsaVerify (key msg : List Byte) (r s : Nat) : Bool :=
  match p384point key with
  | none => false
  | some q =>
    if 0 < r ∧ r < p384n ∧ 0 < s ∧ s < p384n then
      let z := beNat (sha384 msg)
      let w := invMod p384n s
      match p384add (p384mul 384 (z * w % p384n) (some p384g)) (p384mul 384 (r * w % p384n) (some q)) with
      | none => false
      | some (x, _) => decide (x % p384n = r)
    else false

end Sys2Proof.Machine
end

