-- ==== Sys2Proof/Machine/Gf.lean ====
section
/-! DEFINITION. The field of the code, its generator and decoding coefficients, the stripe geometry of a sett
(R106 to R119), and the panel digests in GF(2^64) (R300, R301). -/

namespace Sys2Proof.Machine

/-! ## GF(2^8) -/

/-- One doubling in GF(2^8): x^8 + x^4 + x^3 + x^2 + 1 (R106). -/
def gfDouble (a : Byte) : Byte := if a.getLsbD 7 then (a <<< 1) ^^^ 0x1D#8 else a <<< 1

/-- The loop of gf_mul over `n` bits of `b` (R106). -/
def gfMulLoop : Nat → Byte → Byte → Byte
  | 0, _, _ => 0
  | n + 1, a, b => (if b.getLsbD 0 then a else 0) ^^^ gfMulLoop n (gfDouble a) (b >>> 1)

/-- Multiplication in GF(2^8) (R106). -/
def gfMul (a b : Byte) : Byte := gfMulLoop 8 a b

/-- `a` to a power of two (R107). -/
def gfPow2 (a : Byte) : Nat → Byte
  | 0 => a
  | n + 1 => let h := gfPow2 a n; gfMul h h

/-- The inverse a^254 of a non-zero element (R107). -/
def gfInv (a : Byte) : Byte := [1, 2, 3, 4, 5, 6, 7].foldl (fun v i => gfMul v (gfPow2 a i)) 1

/-- A panel or block times a coefficient (R106). -/
def gfScale (c : Byte) (bs : List Byte) : List Byte := bs.map (gfMul c)

/-- The Cauchy coefficient c(j, t) of a code with m parity roles (R108). -/
def cauchy (m j t : Nat) : Byte := gfInv (BitVec.ofNat 8 j ^^^ BitVec.ofNat 8 (m + t))

/-- COEF as the descriptor holds it: row-major by j (R102, R108). -/
def coefTable (k m : Nat) : List Byte :=
  (List.range m).flatMap fun j => (List.range k).map fun t => cauchy m j t

/-! ## Stripe geometry -/

/-- (a − b) mod n on ranks. -/
def subMod (a b n : Nat) : Nat := (a + (n - b % n)) % n

/-- The role of a rank in a rotation: parity row, or data column (R110). -/
inductive RoleIn where
  | parity (j : Nat)
  | data (t : Nat)
  deriving DecidableEq, Repr, Inhabited

/-- The role rank `r` holds in rotation `u` (R110). -/
def roleOf (k m r u : Nat) : RoleIn :=
  let w := subMod r u (k + m)
  if w < m then .parity w else .data (w - m)

/-- The rank at a position of a stripe in rotation `u`: positions 0 to k − 1 are data columns, k + j is parity row j
(R109, R110). -/
def rankAt (k m u pos : Nat) : Nat :=
  if pos < k then (u + m + pos) % (k + m) else (u + (pos - k)) % (k + m)

/-- The position rank `r` holds in rotation `u` (R109, R110). -/
def posOf (k m r u : Nat) : Nat :=
  match roleOf k m r u with
  | .parity j => k + j
  | .data t => t

/-- The rotation of data panel `p` of rank `r` (R111). -/
def rotationOf (k m r p : Nat) : Nat := subMod r (m + p % k) (k + m)

/-- The stripe of data panel `p` of rank `r` (R111). -/
def stripeOf (k m r p : Nat) : Nat := (p / k) * (k + m) + rotationOf k m r p

/-- The cycle count C of a sett (R113). -/
def cycles (d : SettDesc) : Nat := d.rows.foldl (fun c r => max c ((r.dcap + d.k - 1) / d.k)) 0

/-- n = k + m. -/
def settN (d : SettDesc) : Nat := d.k + d.m

/-- Whether the panel of data column `t` in stripe `s` is virtual (R112). -/
def virtualCol (d : SettDesc) (s t : Nat) : Bool :=
  let u := s % settN d
  let p := (s / settN d) * d.k + t
  match d.rows[rankAt d.k d.m u t]? with
  | some r => decide (r.dcap ≤ p)
  | none => true

/-- The data panel index, or the parity panel index, that position `pos` of stripe `s` is at its rank (R111). -/
def panelAt (d : SettDesc) (s pos : Nat) : Nat :=
  if pos < d.k then (s / settN d) * d.k + pos else (s / settN d) * d.m + (pos - d.k)

/-- Whether position `pos` of stripe `s` is real (R112). -/
def realPos (d : SettDesc) (s pos : Nat) : Bool :=
  if pos < d.k then !virtualCol d s pos else decide (pos < settN d)

/-! ## Decoding coefficients (R119) -/

/-- A matrix over GF(2^8) by rows. -/
abbrev GfMat := List (List Byte)

/-- Adds `c` times row `r` to row `x`. -/
def rowAdd (c : Byte) (r x : List Byte) : List Byte := List.zipWith (fun a b => gfMul c a ^^^ b) r x

/-- One column of Gauss-Jordan elimination on the rows, the pivot brought to row `i`. -/
def gaussCol (i : Nat) (m : GfMat) : GfMat :=
  match (List.range m.length).find? (fun r => decide (i ≤ r) && decide ((m.getD r []).getD i 0 ≠ 0)) with
  | none => m
  | some r =>
    let swapped := (m.set r (m.getD i [])).set i (m.getD r [])
    let piv := gfScale (gfInv ((m.getD r []).getD i 0)) (m.getD r [])
    (swapped.zipIdx).map fun (row, x) => if x = i then piv else rowAdd (row.getD i 0) piv row

/-- The inverse of a square matrix over GF(2^8); unique, so the order of elimination does not matter (R119). -/
def gfInverse (m : GfMat) : GfMat :=
  let n := m.length
  let aug := m.zipIdx.map fun (r, i) => r ++ (List.range n).map fun c => if c = i then (1 : Byte) else 0
  ((List.range n).foldl (fun a i => gaussCol i a) aug).map (fun r => r.drop n)

/-- Exclusive or of bytes. -/
def xorAll (bs : List Byte) : Byte := bs.foldl (· ^^^ ·) 0

/-- The decoding coefficients of a lost position, by helper position (R119). `real` says which data columns are real,
`lostA` are the unavailable real data columns and `lostL` the unavailable parity rows, both ascending; `c` is COEF. -/
def decodeCoefs (k m : Nat) (c : Nat → Nat → Byte) (real : Nat → Bool) (lostA lostL : List Nat) (lost : Nat) :
    List (Nat × Byte) :=
  let b := ((List.range m).filter (fun j => !lostL.contains j)).take lostA.length
  let w := gfInverse (b.map fun j => lostA.map fun a => c j a)
  let wAt (ai bi : Nat) : Byte := (w.getD ai []).getD bi 0
  let v (ai i : Nat) : Byte := xorAll (b.zipIdx.map fun (j, bi) => gfMul (wAt ai bi) (c j i))
  let cols := (List.range k).filter fun i => real i && !lostA.contains i
  if lost < k then
    match lostA.findIdx? (· == lost) with
    | none => []
    | some ai => cols.map (fun i => (i, v ai i)) ++ b.zipIdx.map (fun (j, bi) => (k + j, wAt ai bi))
  else
    let g := lost - k
    let viaLost (f : Nat → Byte) : Byte := xorAll (lostA.zipIdx.map fun (a, ai) => gfMul (c g a) (f ai))
    cols.map (fun i => (i, c g i ^^^ viaLost (fun ai => v ai i))) ++
      b.zipIdx.map (fun (j, bi) => (k + j, viaLost (fun ai => wAt ai bi)))

/-! ## Panel digests -/

/-- One doubling in GF(2^64): x^64 + x^4 + x^3 + x + 1 (R300). -/
def g64Double (a : Word) : Word := if a.getLsbD 63 then (a <<< 1) ^^^ 0x1B#64 else a <<< 1

/-- The loop of the product over `n` bits of `b`. -/
def g64MulLoop : Nat → Word → Word → Word
  | 0, _, _ => 0
  | n + 1, a, b => (if b.getLsbD 0 then a else 0) ^^^ g64MulLoop n (g64Double a) (b >>> 1)

/-- Multiplication in GF(2^64) (R300). -/
def g64Mul (a b : Word) : Word := g64MulLoop 64 a b

/-- The key κ (R300). -/
def kappa : Word := 0x9E3779B97F4A7C15#64

/-- β: the smallest of the eight roots of y^8 + y^4 + y^3 + y^2 + 1 in GF(2^64) (R300). -/
def beta : Word := 0x033CE8BEDDC8A657#64

/-- β^i. -/
def betaPow : Nat → Word
  | 0 => 1
  | n + 1 => g64Mul (betaPow n) beta

/-- The embedding φ of GF(2^8) (R300). -/
def phi (b : Byte) : Word :=
  (List.range 8).foldl (fun v i => if b.getLsbD i then v ^^^ betaPow i else v) 0

/-- The polynomial digest pd of a byte string (R300). -/
def pd (bs : List Byte) : Word := bs.foldl (fun h b => g64Mul (h ^^^ phi b) kappa) 0

/-- `a` to the power 2^n. -/
def g64Pow2 (a : Word) : Nat → Word
  | 0 => a
  | n + 1 => let h := g64Pow2 a n; g64Mul h h

/-- μ = κ^4096 (R301). -/
def mu : Word := g64Pow2 kappa 12

/-- The combined digest of a run of panel digests, by Horner (R301). -/
def combine (ds : List Word) : Word := ds.foldl (fun h d => g64Mul h mu ^^^ d) 0

/-- κ^n for n at most 4096, which places a block's digest inside a panel (R300). -/
def kappaPow : Nat → Nat → Word
  | 0, _ => 1
  | f + 1, n =>
    let h := kappaPow f (n / 2)
    let q := g64Mul h h
    if n % 2 = 1 then g64Mul q kappa else q

/-- pd of a panel that is zero but for `bs` at byte offset `o` (R300, R302). -/
def pdAt (o : Nat) (bs : List Byte) : Word := g64Mul (pd bs) (kappaPow 13 (4096 - o - bs.length))

end Sys2Proof.Machine
end

