-- ==== Sys2Proof/Machine/Ops.lean ====
section
/-! DEFINITION. The named operations over the state that every family of commands shares: access to tenants, slots and
entries, the span and its directory records, panels and kept digests, responses, frames, and what an instance reads of
its configuration. -/

namespace Sys2Proof.Machine

/-- What a command answers. -/
abbrev Out := Host.Outcome State Fault Refusal

/-! ## Configuration in force -/

/-- The active configuration record (R354). -/
def State.cfg (s : State) : Record := s.loader.active

/-- This instance's member address (R58). -/
def State.self (s : State) : Addr := s.power.inst ++ s.cfg.inst.chip

/-- Configuration has been applied since the last memory-and-links reset (R348). -/
def State.configured (s : State) : Bool := s.loader.applied

/-- Whether capability `id` is present (R356): 0x01 to 0x04 at every configured instance, the others as the
implementation and CAPMASK have them. -/
def State.cap (s : State) (id : Nat) : Bool :=
  if id = 1 then true
  else s.configured && (decide (id ≤ 4) || (Config.implementedCaps.getLsbD (id - 1) && s.cfg.glob.capmask.getLsbD (id - 1)))

/-! ## Tenants, slots, entries -/

/-- The tenant state at an index. -/
def State.ten (s : State) (i : Fin 64) : TenantS := s.tenants.get i

/-- The state with the tenant at an index changed. -/
def State.updTen (s : State) (i : Fin 64) (f : TenantS → TenantS) : State :=
  { s with tenants := s.tenants.set i (f (s.tenants.get i)) }

/-- The sett-membership slot at a number; slots beyond 15 do not exist and read as unused (R86). -/
def State.slot (s : State) (k : Nat) : SlotS := if h : k < 16 then s.slots.get ⟨k, h⟩ else {}

/-- The state with a slot changed. -/
def State.updSlot (s : State) (k : Nat) (f : SlotS → SlotS) : State :=
  if h : k < 16 then { s with slots := s.slots.set k (f (s.slots.get ⟨k, h⟩)) } else s

/-- The tenant indices, ascending. -/
def tenantIdxs : List (Fin 64) := List.finRange 64

/-- The index of the active tenant with a tag; 0x0000 is no tenant (R94), and one in teardown or in QUIET is inactive
(R292, R293). -/
def State.tenantOf (s : State) (tag : Tag) : Option (Fin 64) :=
  if tag = 0 then none
  else tenantIdxs.find? fun i =>
    (match (s.ten i).env with | some e => e.tag == tag | none => false) &&
      (s.ten i).rs.state != .teardown && (s.ten i).rs.state != .quiet

/-- The tag at a tenant index, 0x0000 when none is active. -/
def State.tagOf (s : State) (i : Fin 64) : Tag := match (s.ten i).env with | some e => e.tag | none => 0

/-- The entry at an index; none for FREE (R85). -/
def State.entry (s : State) (c : Nat) : Option Entry := NMap.get? s.ctx.table c

/-- The state with an entry set. -/
def State.setEntry (s : State) (c : Nat) (e : Entry) : State :=
  { s with ctx := { s.ctx with table := NMap.insert s.ctx.table c e } }

/-- The state with an entry FREE (R85). -/
def State.freeEntry (s : State) (c : Nat) : State :=
  { s with ctx := { s.ctx with table := NMap.erase s.ctx.table c } }

/-- The state with an entry, where it is not FREE, changed. -/
def State.updEntry (s : State) (c : Nat) (f : Entry → Entry) : State :=
  match s.entry c with
  | some e => s.setEntry c (f e)
  | none => s

/-- The entries of a tenant, ascending by index. -/
def State.entriesOf (s : State) (tag : Tag) : List (Nat × Entry) := s.ctx.table.filter fun p => p.2.tenant == tag

/-- Whether slot `k` is in the tenant's slot mask (R94). -/
def State.ownsSlot (s : State) (i : Fin 64) (k : Nat) : Bool :=
  match (s.ten i).env with
  | some e => e.slotMask.getLsbD k
  | none => false

/-- The tenant whose mask holds a sett slot: unique by R188. -/
def State.slotTenant (s : State) (k : Nat) : Option (Fin 64) := tenantIdxs.find? fun i => s.ownsSlot i k

/-- The sett slots of a tenant, ascending. -/
def State.settSlots (s : State) (i : Fin 64) : List Nat :=
  (List.range 16).filter fun k => s.ownsSlot i k && decide ((s.slot k).kind = .sett)

/-- Every used slot of a tenant, ascending. -/
def State.usedSlots (s : State) (i : Fin 64) : List Nat :=
  (List.range 16).filter fun k => s.ownsSlot i k && decide ((s.slot k).kind ≠ .unused)

/-- The live rows of a slot, sett or replica set (R102, R352). -/
def SlotS.rows (sl : SlotS) : List Row :=
  match sl.kind with
  | .sett => sl.sett.rows
  | .replica => sl.rep.rows
  | .unused => []

/-- This instance's own rank, or its position in the member list (R102, R352). -/
def SlotS.ownRank (sl : SlotS) : Nat :=
  match sl.kind with
  | .replica => sl.rep.index
  | _ => sl.sett.rank

/-- The planned data capacity D_s (R96). -/
def SlotS.dcap (sl : SlotS) : Nat :=
  match sl.kind with
  | .sett => match sl.sett.rows[sl.sett.rank]? with | some r => r.dcap | none => 0
  | .replica => sl.rep.dcap
  | .unused => 0

/-- The rank whose row holds an address. -/
def SlotS.rankOf (sl : SlotS) (a : Addr) : Option Nat := sl.rows.findIdx? fun r => r.addr == a

/-- The status of a rank (R121). -/
def SlotS.rankSt (sl : SlotS) (r : Nat) : RankSt := sl.ranks.getD r .present

/-- Whether a tenant has a sealed epoch: its vote state is not NONE (R212, R221). -/
def TenantS.sealed (t : TenantS) : Bool := t.commit.vstate != .none && !t.rs.first && !t.rs.joiner

/-- The vote state MNL_EC_STATUS shows (R221): NONE until the member's first seal is applied, its seal vote included. -/
def TenantS.vstateShown (t : TenantS) : VState := if t.rs.first || t.rs.joiner then .none else t.commit.vstate

/-! ## The span, the directory and the digest table (R39, R40, R302) -/

/-- Span base, in bytes. -/
def State.spanBase (s : State) : Nat := s.cfg.inst.spanBase * 2 ^ 30

/-- Span length, in bytes. -/
def State.spanLen (s : State) : Nat := s.cfg.inst.spanLen * 2 ^ 30

/-- The directory follows the span and is 1/1024 of it. -/
def State.dirBase (s : State) : Nat := s.spanBase + s.spanLen

/-- Directory length, in bytes. -/
def State.dirLen (s : State) : Nat := s.spanLen / 1024

/-- Base of the digest table. -/
def State.dgBase (s : State) : Nat := s.cfg.inst.dgBase

/-- Length of the digest table: one 8-byte word for each panel. -/
def State.dgLen (s : State) : Nat := s.spanLen / 512

/-- Whether an address lies in the span. -/
def State.inSpan (s : State) (a : Nat) : Bool := decide (s.spanBase ≤ a) && decide (a < s.spanBase + s.spanLen)

/-- Whether an address lies in the directory. -/
def State.inDir (s : State) (a : Nat) : Bool := decide (s.dirBase ≤ a) && decide (a < s.dirBase + s.dirLen)

/-- Bytes of the stack. -/
def State.bytesAt (s : State) (a n : Nat) : List Byte := Mem.readN Config.stackBytes s.mem a n

/-- The state with bytes written to the stack. -/
def State.putBytes (s : State) (a : Nat) (bs : List Byte) : State :=
  { s with mem := Mem.writeN Config.stackBytes s.mem a bs }

/-- A directory record (R40). -/
structure DirRec where
  ctx : Nat
  v : Bool
  priv : Bool
  c : Bool
  n : Bool
  d : Bool
  att : Byte
  deriving DecidableEq, Repr, Inhabited

/-- The fields of a record word (R40). -/
def dirRecOf (w : Nat) : DirRec :=
  { ctx := w % 65536, v := w.testBit 16, priv := w.testBit 17, c := w.testBit 18, n := w.testBit 19, d := w.testBit 20,
    att := BitVec.ofNat 8 (w / 2 ^ 21) }

/-- One bit of a word. -/
def bit (b : Bool) (i : Nat) : Nat := if b then 2 ^ i else 0

/-- The word of a record (R40). -/
def DirRec.word (r : DirRec) : Nat :=
  r.ctx % 65536 + bit r.v 16 + bit r.priv 17 + bit r.c 18 + bit r.n 19 + bit r.d 20 + r.att.toNat * 2 ^ 21

/-- The address of the record of the panel that holds an address of the span (R40). -/
def State.dirAddr (s : State) (a : Nat) : Nat := s.dirBase + 4 * ((a - s.spanBase) / 4096)

/-- The record of the panel holding an address (R40). -/
def State.dirRec (s : State) (a : Nat) : DirRec := dirRecOf (leNat (s.bytesAt (s.dirAddr a) 4))

/-- The state with a record written: the lookaside is updated in the same operation and never stale (R42). -/
def State.setDir (s : State) (a : Nat) (r : DirRec) : State := s.putBytes (s.dirAddr a) (leBytes 4 r.word)

/-- The tenant a record belongs to: the tenant of the entry its CTX names, or, for a parity copy, of the sett slot its
CTX names (R43, R114). -/
def State.recTenant (s : State) (r : DirRec) : Option (Fin 64) :=
  if r.v then
    match s.entry r.ctx with
    | some e => s.tenantOf e.tenant
    | none => none
  else if r.priv then s.slotTenant r.ctx else none

/-- Whether a record is current: N or D set by its tenant's open attempt (R43). -/
def State.recCurrent (s : State) (r : DirRec) : Bool :=
  match s.recTenant r with
  | some i => (r.n || r.d) && (s.ten i).commit.isOpen && r.att == (s.ten i).commit.att
  | none => false

/-- A record folded by the outcome of its closed attempt (R43). A LOADING entry's D marks a panel that has arrived, and
stays until the seal (R283, R287). A D mark of a closed attempt clears with it (DEDUCED,
log entry 14). -/
def State.fold (s : State) (r : DirRec) : DirRec :=
  let filling : Bool := r.v && (match s.entry r.ctx with | some e => e.state == .loading | none => false)
  if !(r.n || r.d) || filling || s.recCurrent r then r
  else
    match s.recTenant r with
    | none => r
    | some i =>
      let committed := (s.ten i).commit.outcomes.getLsbD r.att.toNat
      { r with c := if r.n && committed then !r.c else r.c, n := false, d := false }

/-- The folded record of the panel holding an address. -/
def State.dirFolded (s : State) (a : Nat) : DirRec := s.fold (s.dirRec a)

/-- The address of panel `i` of a region in bank β (R41, R84). -/
def Entry.panelAddr (e : Entry) (i : Nat) (bank : Bool) : Nat :=
  4096 * (e.basep + i + (if bank then e.lenp else 0))

/-- The folded record that steers panel `i` of a region. -/
def State.panelRec (s : State) (e : Entry) (i : Nat) : DirRec := s.dirFolded (e.panelAddr i false)

/-- The bank a read of panel `i` is steered to (R43). -/
def State.steer (s : State) (e : Entry) (i : Nat) : Bool :=
  let r := s.panelRec e i
  if r.n && s.recCurrent r then !r.c else r.c

/-- The committed bytes of panel `i` of a region: bank C (R43). -/
def State.bankC (s : State) (e : Entry) (i : Nat) : List Byte :=
  s.bytesAt (e.panelAddr i (s.panelRec e i).c) 4096

/-- The address of parity panel `e` of a slot, copy by number (R114). -/
def State.parityAddr (s : State) (d : SettDesc) (e : Nat) (copy : Bool) : Nat :=
  s.spanBase + 4096 * (d.pbase + e + (if copy then d.q else 0))

/-- The folded record that steers the copies of a parity panel (R114). -/
def State.parityRec (s : State) (d : SettDesc) (e : Nat) : DirRec := s.dirFolded (s.parityAddr d e false)

/-- The address of the kept digest of the panel holding an address of the span (R302). -/
def State.dgAddr (s : State) (a : Nat) : Nat := s.dgBase + 8 * ((a - s.spanBase) / 4096)

/-- The kept digest of the panel at an address (R302). -/
def State.kept (s : State) (a : Nat) : Word := BitVec.ofNat 64 (leNat (s.bytesAt (s.dgAddr a) 8))

/-- The state with a kept digest written. -/
def State.setKept (s : State) (a : Nat) (d : Word) : State := s.putBytes (s.dgAddr a) (leBytes 8 d.toNat)

/-- Whether a read of the panel at an address agrees with its kept digest (R304). -/
def State.digestOk (s : State) (a : Nat) : Bool := pd (s.bytesAt a 4096) == s.kept a

/-- Whether a range of the stack lies outside the span, the directory and the digest table (R303). -/
def State.clearOfSpan (s : State) (a n : Nat) : Bool :=
  let apart (b m : Nat) : Bool := decide (a + n ≤ b) || decide (b + m ≤ a) || decide (m = 0)
  decide (a + n ≤ Config.stackBytes) && apart s.spanBase s.spanLen && apart s.dirBase s.dirLen && apart s.dgBase s.dgLen

/-! ## Stripe geometry of a slot (R110 to R113, R118) -/

/-- The tenant's open attempt, as a test. -/
def State.attemptOpen (s : State) (i : Fin 64) : Bool := (s.ten i).commit.isOpen

/-- Whether the position of a stripe is unavailable: its rank is LOST or REPLACING (R121). -/
def unavailable (sl : SlotS) (st pos : Nat) : Bool :=
  let d := sl.sett
  sl.rankSt (rankAt d.k d.m (st % settN d) pos) != .present

/-- Unavailable real positions of a stripe (R118). -/
def lostPositions (sl : SlotS) (st : Nat) : List Nat :=
  (List.range (settN sl.sett)).filter fun p => realPos sl.sett st p && unavailable sl st p

/-- Whether some stripe of the slot has more than m unavailable real positions (R118, R122). Which data columns are
virtual depends on the cycle only through each rank's DCAP, so it is enough to look at the cycles where a DCAP ends,
and at the first. -/
def someStripeLost (sl : SlotS) : Bool :=
  let d := sl.sett
  let c := cycles d
  let probe := (0 :: d.rows.flatMap fun r => [r.dcap / max 1 d.k, r.dcap / max 1 d.k + 1, r.dcap / max 1 d.k - 1]).filter (· < c)
  probe.any fun q => (List.range (settN d)).any fun u => decide (d.m < (lostPositions sl (q * settN d + u)).length)

/-! ## Responses on the network side (R35) -/

/-- The state with a response given. -/
def State.respond (s : State) (id : BitVec 10) (st : NsStatus) (cause : BitVec 4) (data : Line) : State :=
  { s with gate := { s.gate with ns := s.gate.ns ++ [{ id := id, status := st, cause := cause, data := data }] } }

/-- OK without data. -/
def State.ok (s : State) (id : BitVec 10) : State := s.respond id .ok 0 0

/-! ## Frames (R60, R66, R73) -/

/-- Whether the instance may inject anything but STATUS_REPLY: configured, in service, neither its endpoint nor itself
in reset (R62, R324, R349). -/
def State.mayInject (s : State) : Bool := s.configured && decide (s.flt.mode = .normal)

/-- The subtype of a CTRL frame. -/
def OutFrame.subtype (f : OutFrame) : Nat := f.t.toNat % 256

/-- Whether a frame is a STATUS_REPLY (R338). -/
def OutFrame.isStatusReply (f : OutFrame) : Bool := f.typ == 0x70 && f.subtype == 0x07

/-- Whether a frame is a SYNC query (R235). -/
def OutFrame.isSync (f : OutFrame) : Bool := f.typ == 0x70 && f.subtype == 0x03 && f.t.toNat / 256 % 16 == 1

/-- Whether a frame may be formed: nothing in an instance reset, nothing but STATUS_REPLY under dust sheet, nothing but that and SYNC queries for a
tenant this instance is fenced from (R236, R325). -/
def State.mayForm (s : State) (f : OutFrame) : Bool :=
  if f.isStatusReply then s.configured && decide (s.flt.mode ≠ .resetting)
  else
    s.mayInject &&
      (match s.tenantOf f.tenant with
       | some i => (s.ten i).fox.self != .fenced || f.isSync
       | none => true)

/-- The state with a frame formed and waiting on its channel. -/
def State.send (s : State) (f : OutFrame) : State :=
  if !s.mayForm f then s
  else
    match f.vc with
    | .control => { s with ep := { s.ep with ctrlQ := s.ep.ctrlQ ++ [f] } }
    | .skim => { s with ep := { s.ep with skimQ := s.ep.skimQ ++ [f] } }
    | .badger => { s with ep := { s.ep with badgerQ := s.ep.badgerQ ++ [f] } }
    | .setup => s

/-- The state with a frame formed that is not queued again while it waits (R66). -/
def State.sendOnce (s : State) (f : OutFrame) : State :=
  if s.ep.ctrlQ.contains f || s.ep.badgerQ.contains f || s.ep.skimQ.contains f then s else s.send f

/-- The peer and reply kind of a reply: what one pending-reply record holds (R66). -/
def replyKey (f : OutFrame) : Dst × Byte × Tag × Nat :=
  (f.dst, f.typ, f.tenant,
    if f.typ = 0x70 then (if f.subtype = 0x05 then f.t.toNat % 2 ^ 28 else f.t.toNat % 4096)
    else if f.typ = 0x02 then f.t.toNat / 2 ^ 60 else 0)

/-- The state with a reply formed; it overwrites an unsent one of the same peer and kind (R66). -/
def State.sendReply (s : State) (f : OutFrame) : State :=
  if !s.mayForm f then s
  else { s with ep := { s.ep with ctrlQ := (s.ep.ctrlQ.filter fun g => replyKey g != replyKey f) ++ [f] } }

/-- A frame of a tenant with its current generation (R73). -/
def State.frame (s : State) (i : Fin 64) (vc : Vc) (dst : Dst) (typ : Byte) (epoch : Nat) (tr : BitVec 7) (t : Nat)
    (payload : List Byte := []) : OutFrame :=
  { vc := vc, dst := dst, typ := typ, tenant := s.tagOf i, gen := (s.ten i).fox.gen, epoch := epoch, tr := tr,
    t := BitVec.ofNat 64 t, payload := payload }

/-- A CONTROL frame to one member. -/
def State.ctrlTo (s : State) (i : Fin 64) (a : Addr) (typ : Byte) (epoch : Nat) (tr : BitVec 7) (t : Nat)
    (payload : List Byte := []) : OutFrame := s.frame i .control (.member a) typ epoch tr t payload

/-- The state with a message put on the lath (R217). -/
def State.lathSend (s : State) (m : LathMsg) : State := { s with lath := { s.lath with sent := s.lath.sent ++ [m] } }

/-! ## Roles (R217, R232) -/

/-- Whether an instance of the chip is in service as the ring shows it, this one by its own state (R217). -/
def State.instUp (s : State) (k : Fin 12) : Bool :=
  if k.val = s.power.inst.toNat then s.configured && decide (s.flt.mode = .normal)
  else (s.lath.insts.get k).up

/-- The acting chip manager: the designated one while in service, else the first in service after it in clockwise
order (R217). -/
def State.chipManager (s : State) : Nat :=
  let d := s.cfg.inst.manager.toNat
  match ((List.range 12).map fun j => (d + j) % 12).find? fun k => if h : k < 12 then s.instUp ⟨k, h⟩ else false with
  | some k => k
  | none => d

/-- Whether this instance acts as chip manager. -/
def State.isChipManager (s : State) : Bool := s.chipManager == s.power.inst.toNat

/-- Whether an address is LOST for a tenant in its current generation (R217, R233, R236). -/
def FoxS.isLost (f : FoxS) (a : Addr) : Bool := f.gone.contains a

/-- The candidate listed at a place: 0 to 3 for the job manager, 4 to 7 for the pod manager (R218, R230). -/
def Tree.cand (t : Tree) (j : Nat) : Option Addr :=
  match t.cands[j]? with
  | some c => if c.valid then some c.addr else none
  | none => none

/-- The first listed candidate that is not LOST; `base` is 0 for the job manager, 4 for the pod manager (R217). -/
def TenantS.actingFrom (t : TenantS) (base : Nat) : Option Addr :=
  ((List.range 4).filterMap fun j =>
    match t.commit.tree.cand (base + j) with
    | some a => if t.fox.isLost a then none else some a
    | none => none).head?

/-- The acting job manager, which is the leader (R217, R232). -/
def TenantS.jobManager (t : TenantS) : Option Addr := t.actingFrom 0

/-- The acting pod manager of this instance's pod (R217). -/
def TenantS.podManager (t : TenantS) : Option Addr := t.actingFrom 4

/-- Whether this instance acts as job manager of a tenant. -/
def State.isJobManager (s : State) (i : Fin 64) : Bool := (s.ten i).jobManager == some s.self

/-- Whether this instance acts as pod manager of a tenant. -/
def State.isPodManager (s : State) (i : Fin 64) : Bool := (s.ten i).podManager == some s.self

/-- Child entries of a table. -/
def TenantS.children (t : TenantS) (job : Bool) : List Child := t.commit.tree.children.filter fun c => c.valid && c.job == job

/-- Whether a child entry names an address: a pod entry matches any instance of its chip (R218). -/
def Child.names (c : Child) (a : Addr) : Bool := if c.job then c.addr == a else c.addr.chip == a.chip

end Sys2Proof.Machine
end

