-- ==== Sys2Proof/Machine/Faults.lean ====
section
/-! DEFINITION. The fault logic every family raises its events through (R319 to R325): counters, summary bits, the
history, merging, containment, the hold of the dust sheet, unit resets, and the withholding of votes (R215, R221). -/

namespace Sys2Proof.Machine

/-- The state with the fault logic changed. -/
def State.updFlt (s : State) (f : FaultS → FaultS) : State := { s with flt := f s.flt }

/-- The state with a tenant's commit state changed. -/
def State.updCommit (s : State) (i : Fin 64) (f : CommitS → CommitS) : State :=
  s.updTen i fun t => { t with commit := f t.commit }

/-- The state with a tenant's sweep changed. -/
def State.updSweep (s : State) (i : Fin 64) (f : SweepS → SweepS) : State :=
  s.updTen i fun t => { t with sweep := f t.sweep }

/-- The state with a tenant's membership changed. -/
def State.updFox (s : State) (i : Fin 64) (f : FoxS → FoxS) : State :=
  s.updTen i fun t => { t with fox := f t.fox }

/-! ## Events (R319, R320) -/

/-- An event as a unit reports it. `level` is the outcome its own chapter gives it (R320), `ru` the reset unit it names. -/
structure Ev where
  code : Nat
  core : Bool := false
  level : Nat := 1
  tenant : Tag := 0
  unit : Nat := 0xFF
  detail : Nat := 0
  ru : Option ResetUnit := none
  deriving DecidableEq, Repr, Inhabited

/-- The source of an event (R319): 0x7A of source CORE is the one exception to the ranges. -/
def Ev.source (e : Ev) : Nat :=
  if e.core ∨ e.code < 0x20 then 0
  else if e.code < 0x80 then e.code / 16 - 1
  else if e.code < 0xA0 then 7
  else e.code / 16 - 2

/-- The position of an event's counter: lane-group resets count at 0x00 (R398). -/
def Ev.counter (e : Ev) : Nat := if e.core ∧ e.code = 0x7A then 0 else e.code

/-- A counter increased by `n`, modulo 2^64 (R31, R398). -/
def State.countN (s : State) (k n : Nat) : State :=
  s.updFlt fun f => { f with counters := NMap.insert f.counters k ((NMap.get? f.counters k).getD 0 + BitVec.ofNat 64 n) }

/-- A code marked "counter" counted once (R319). -/
def State.count (s : State) (k : Nat) : State := s.countN k 1

/-- The default level of a core event (R320). -/
def coreLevel (c : Nat) : Nat :=
  if c ∈ [0x02, 0x03, 0x08, 0x0E, 0x10] then 3
  else if c ∈ [0x06, 0x0D, 0x1A] then 4
  else 1

/-- The entry whose host view or bank holds an address (R320, R84). -/
def State.regionAt (s : State) (a : Nat) : Option Nat :=
  match s.ctx.table.find? (fun p => decide (p.2.basep ≤ a / 4096) && decide (a / 4096 < p.2.basep + 2 * p.2.lenp)) with
  | some p => some p.1
  | none => none

/-- The tenant tag of a table entry, and of the region that holds an address; 0x0000 where there is none. -/
def State.tagAtEntry (s : State) (c : Nat) : Tag := match s.entry c with | some e => e.tenant | none => 0

def State.tagAt (s : State) (a : Nat) : Tag := match s.regionAt a with | some c => s.tagAtEntry c | none => 0

/-- The region an event names by its DETAIL; none where it locates no non-FREE entry (R320). -/
def State.eventRegion (s : State) (e : Ev) : Option Nat :=
  if e.code ∈ [0x31, 0x32, 0x34, 0x35, 0x39, 0x3A] then s.regionAt e.detail
  else if (0x53 ≤ e.code ∧ e.code ≤ 0x5B) ∨ e.code = 0x5E ∨ e.code = 0xDA then
    match s.entry e.detail with | some _ => some e.detail | none => none
  else if e.code = 0xF0 then s.regionAt (4096 * e.detail)
  else none

/-- The level an event is applied at, before any merge: its default, raised by the raise table; a level 2 that locates
no region is taken as level 1 (R320). -/
def State.levelFor (s : State) (e : Ev) : Nat :=
  let d := if e.source = 0 then coreLevel e.code else e.level
  let l := s.cfg.inst.raise.foldl (fun m p => if p.1.toNat = e.code then max m p.2 else m) d
  if l = 2 ∧ s.eventRegion e = none then 1 else l

/-- Whether the handling of a fault covers a new one (R323). -/
def Handling.covers (h : Handling) (level : Nat) (ru : Option ResetUnit) (region : Option Nat) : Bool :=
  match h.scope with
  | .instance_ => true
  | .region c => level == 2 && region == some c
  | .unit u => decide (level ≤ 1) && ru == some u

/-! ## History (R321) -/

/-- An entry put into the history queue; the oldest of 33 is overwritten and counted under 0x18. -/
def State.pushHistory (s : State) (h : HistEntry) : State :=
  let s := s.updFlt fun f => { f with history := f.history ++ [h], seq := h.seq }
  if Config.historySize < s.flt.history.length then
    (s.updFlt fun f => { f with history := f.history.drop 1, lost := f.lost + 1 }).count 0x18
  else s

/-- The history with the entry of a SEQ changed. -/
def updHistory (l : List HistEntry) (seq : BitVec 32) (f : HistEntry → HistEntry) : List HistEntry :=
  l.map fun h => if h.seq = seq then f h else h

/-- What an event leads to once it is recorded: the level applied, whether it was merged, and the region it names. -/
structure Raised where
  level : Nat
  merged : Bool
  region : Option Nat
  deriving DecidableEq, Repr

/-- An event recorded (R321, R323): its counter, its source's summary bit, the merge, and, for the first occurrence of
its code since the bit was cleared, its history entry. A merge that asks for the instance reset raises the first fault
to level 4. -/
def State.enter (s : State) (e : Ev) : State × Raised :=
  let level := s.levelFor e
  let region := s.eventRegion e
  let first := if 2 ≤ level ∨ e.ru.isSome then s.flt.handling.find? (fun h => h.covers level e.ru region) else none
  let key := if e.core ∧ e.code = 0x7A then e.code + 256 else e.code
  let isNew := !s.flt.seen.contains key
  let s := s.count e.counter
  let s := s.updFlt fun f => { f with summary := f.summary ||| (1 <<< e.source), seen := addOnce key f.seen }
  let up : Bool := match first with | some h => decide (level = 4) && decide (h.level = 3) | none => false
  let applied := match first with | some h => if h.level < level then level else h.level | none => level
  let s := match first with
    | some h =>
      s.updFlt fun f => { f with
        history := updHistory f.history h.entry fun x =>
          { x with mcount := if x.mcount = 0xFFFF then x.mcount else x.mcount + 1
                   level := if up then 4 else x.level }
        handling := f.handling.map fun x => if x = h ∧ up then { x with level := 4 } else x
        resetWanted := f.resetWanted || up
        resetCounted := f.resetCounted || up }
    | none => s
  let seq := s.flt.seq + 1
  let s := if isNew then
      s.pushHistory {
        time := s.time.now, seq := seq, code := BitVec.ofNat 8 e.code, source := BitVec.ofNat 4 e.source
        level := BitVec.ofNat 3 applied, tenant := e.tenant
        link := match first with | some h => h.entry | none => 0
        mcount := 0, unit := BitVec.ofNat 8 e.unit, merged := first.isSome, detail := BitVec.ofNat 64 e.detail }
    else s
  let s := if first.isNone ∧ (2 ≤ level ∨ e.ru.isSome) then
      s.updFlt fun f => { f with handling := f.handling ++ [{
        code := BitVec.ofNat 8 e.code, level := level, entry := if isNew then seq else 0
        scope := if 3 ≤ level then .instance_ else if level = 2 then .region (region.getD 0)
                 else match e.ru with | some u => .unit u | none => .instance_ }] }
    else s
  (s, { level := level, merged := first.isSome, region := region })

/-! ## Votes withheld (R215, R216, R221, R226) -/

/-- A withholding cause of a tenant's open attempt arises. Once the vote is given it is only logged (R216). A request
is due for a cause that arises for the first time in the open epoch (R226). -/
def State.withhold (s : State) (i : Fin 64) (reason : Nat) : State :=
  let r := BitVec.ofNat 8 reason
  s.updCommit i fun c =>
    match c.vstate with
    | .none => c
    | .ready => c
    | .open_ => { c with vstate := .withheld, wcause := r, causes := [r]
                         reqDue := if r ∈ c.requested then c.reqDue else addOnce r c.reqDue
                         requested := addOnce r c.requested }
    | .withheld => { c with causes := addOnce r c.causes
                            reqDue := if r ∈ c.requested then c.reqDue else addOnce r c.reqDue
                            requested := addOnce r c.requested }

/-! ## The dust sheet's hold (R324, R325) -/

/-- A sweep moved to HELD (R184): from any state but IDLE; nothing waits any more. -/
def State.holdSweep (s : State) (i : Fin 64) (cause : Nat) : State :=
  s.updSweep i fun w =>
    if w.state = .idle then w
    else { w with state := .held, cause := BitVec.ofNat 8 cause, waitIntake := false, waitHawk := false }

/-- Every sweep of the instance moved to HELD. -/
def State.holdSweeps (s : State) (cause : Nat) : State := tenantIdxs.foldl (fun s i => s.holdSweep i cause) s

/-- An event raised while a hold is being applied: its reaction is at most the reset the hold leads to. -/
def State.raiseHeld (s : State) (e : Ev) : State :=
  let (s, r) := s.enter e
  if !r.merged ∧ r.level = 4 then s.updFlt fun f => { f with resetWanted := true, resetCounted := true } else s

/-- The parked accesses that `p` selects answered with a bus error, each an event of its cause (R46, R53, R56). -/
def State.releaseParked (s : State) (p : Parked → Bool) (cause : BitVec 4) (raise : State → Ev → State) (code : Nat) :
    State :=
  let out := s.gate.park.filter p
  let s := { s with gate := { s.gate with park := s.gate.park.filter fun x => !p x } }
  out.foldl (fun s x =>
    raise (s.respond x.q.id .busError cause 0) { code := code, tenant := x.q.tag, detail := x.q.addr.toNat }) s

/-- An armed switch abandoned by dust sheet or instance reset: the shadow persists, STAGED (R360). -/
def State.dropSwitch (s : State) (raise : State → Ev → State) : State :=
  if s.loader.shadowState ≠ .armed then s
  else
    let s := { s with loader := { s.loader with shadowState := .staged, affected := [] }
                      tenants := s.tenants.map fun t => { t with commit := { t.commit with parked := false } } }
    raise s { code := 0x2D }

/-- Stage 1 of an entry into the dust sheet: everything of R325 takes effect but the ban on memory writes. A parked access
to unprotected memory stays, and passes in its turn (R56). An entry
during an instance reset makes the reset complete under dust sheet (R339); one already in force keeps its cause. -/
def State.hold (s : State) (code : Nat) : State :=
  match s.flt.mode with
  | .normal =>
    let s := s.updFlt fun f => { f with mode := .dust, phase := .drain, dcause := BitVec.ofNat 8 code }
    let s := (s.holdSweeps code).dropSwitch State.raiseHeld
    s.releaseParked (fun x => x.ctx.isSome) 0x6 State.raiseHeld 0x36
  | .resetting =>
    s.updFlt fun f =>
      if f.resetDust then f else { f with resetDust := true, dcause := BitVec.ofNat 8 code }
  | .dust => s
  | .outOfService => s

/-- An event raised inside the containment of a region. -/
def State.raise0 (s : State) (e : Ev) : State :=
  let (s, r) := s.enter e
  if r.merged ∨ r.level < 3 then s
  else
    let s := s.hold e.code
    if r.level = 4 then s.updFlt fun f => { f with resetWanted := true, resetCounted := true } else s

/-! ## Containment (R88, R98) -/

/-- A region goes under dust sheet: PEND and every staged change discarded, its parked accesses answered, and its
tenant's vote withheld. -/
def State.contain (s : State) (c : Nat) : State :=
  match s.entry c with
  | none => s
  | some e =>
    if e.state = .contained then s
    else
      let s := s.setEntry c { e with state := .contained, staged := none }
      let s := s.releaseParked (fun x => x.ctx == some c) 0x5 State.raise0 0x35
      match s.tenantOf e.tenant with
      | some i => s.withhold i 0x0A
      | none => s

/-! ## Unit resets (R331) -/

/-- The frames of the skim path outstanding at an endpoint reset treated as unacknowledged: due again at once (R62). -/
def State.resendAll (s : State) : State :=
  { s with hawk := { s.hawk with
      recs := s.hawk.recs.map fun r => { r with owed := r.owed.map fun o => { o with due := s.time.now } } } }

/-- A reset unit enters its reset: what R331 says is lost is lost. A unit already in reset stays in it. -/
def State.beginUnit (s : State) (u : ResetUnit) (busy : Option (Fin 16) := none) : State :=
  if s.flt.inReset.contains u then s
  else
    let s := s.updFlt fun f => { f with inReset := f.inReset ++ [u], unitResets := f.unitResets ++ [(u, s.time.now)] }
    match u with
    | .lane _ => s
    | .gf _ =>
      match busy with
      | none => s
      | some k =>
        let s := s.raise0 { code := 0xA5, unit := k.val, tenant := match s.slotTenant k.val with
                                                               | some i => s.tagOf i | none => 0 }
        match s.slotTenant k.val with
        | some i => s.withhold i 0x08
        | none => s
    | .endpoint => s.resendAll
    | .badger =>
      { s with badger := { s.badger with runs := [], helps := [] }, audit := { s.audit with helps := [] } }
    | .instance_ => s

/-! ## An event with its reaction (R320, R323) -/

/-- An event raised, with its reaction: at level 1 the reset of the unit it names, at level 2 the containment of the
region it names, at level 3 the hold of the dust sheet, at level 4 that and the wish for an instance reset. `busy` is
the sett slot whose accumulation a GF engine had in progress. -/
def State.raise (s : State) (e : Ev) (busy : Option (Fin 16) := none) : State :=
  let (s, r) := s.enter e
  if r.merged then s
  else
    let s := match e.ru with | some u => s.beginUnit u busy | none => s
    if r.level ≤ 1 then s
    else if r.level = 2 then
      let s := match r.region with | some c => s.contain c | none => s
      s.updFlt fun f => { f with handling := f.handling.filter fun h => h.scope != .region (r.region.getD 0) }
    else
      let s := s.hold e.code
      if r.level = 4 then s.updFlt fun f => { f with resetWanted := true, resetCounted := true } else s

/-- An event of a tenant. -/
def State.raiseT (s : State) (i : Fin 64) (code : Nat) (detail : Nat := 0) : State :=
  s.raise { code := code, tenant := s.tagOf i, detail := detail }

/-- ARMED clears, and CURRENT becomes the target, when every active tenant selects the target (R175, R177). -/
def State.checkArmed (s : State) : State :=
  if s.ib.armed && tenantIdxs.all (fun i => (s.ten i).env.isNone || (s.ten i).bank == s.ib.target) then
    { s with ib := { s.ib with armed := false, current := s.ib.target } }
  else s

/-- A tenant with no sealed epoch moved to the target at once while ARMED: event 0x94 (R177). -/
def State.moveNow (s : State) (i : Fin 64) : State :=
  if s.ib.armed && (s.ten i).env.isSome && !(s.ten i).sealed && (s.ten i).bank != s.ib.target then
    (s.updTen i fun t => { t with bank := s.ib.target }).raiseT i 0x94
  else s

/-- A register-window access refused under R9: a bus error with cause ENCODING and event 0x0F with its offset (R329). -/
def State.refuse (s : State) (id : BitVec 10) (offset : Nat) : State :=
  (s.respond id .busError 0xC 0).raise { code := 0x0F, detail := offset }

/-! ## Lasting causes and pins (R322, R337) -/

/-- The lasting causes present, a bit per source (R322). MNL_TEST_EN high while the reset is released holds the CORE
cause bit (R378). -/
def State.causes (s : State) : BitVec 14 :=
  let core := s.monitors.toList.any (fun m => m.cls == .alarm || !m.settled) || s.time.fault
    || !s.flt.noMajority.isEmpty || !s.flt.overdue.isEmpty || decide (s.flt.mode = .outOfService)
    || (s.power.testEn && s.power.released)
  let contained := s.ctx.table.any fun p => p.2.state == .contained
  let broken := s.slots.toList.any fun x => x.st == .broken
  let bankBad := decide (s.ib.bank0.st = .bad) || decide (s.ib.bank1.st = .bad)
  let audit := s.audit.firstBad.isSome || s.audit.pairs.toList.any fun p => p.mismatch.isSome
  BitVec.ofNat 14 (bit core 0 + bit contained 4 + bit broken 5 + bit bankBad 7 + bit s.badger.bad.isSome 11 + bit audit 13)

/-- MNL_EVT_FAULT: high while a summary bit is set, under dust sheet, and while unconfigured (R322, R325, R349); the
isolation cells clamp it high without the rails or in the memory-and-links reset (R337). -/
def State.pinFault (s : State) : Bool :=
  !s.power.released || s.power.isolated || decide (s.flt.summary ≠ 0) || decide (s.flt.mode = .dust)
    || decide (s.flt.mode = .outOfService) || decide (s.loader.state = .unconfigured)

/-- MNL_EVT_DUST: high while protected accesses are refused instance-wide (R337). -/
def State.pinDust (s : State) : Bool :=
  !s.power.released || s.power.isolated || decide (s.flt.mode ≠ .normal) || !s.gate.ready

end Sys2Proof.Machine
end

