-- ==== Sys2Proof/Machine/Skim.lean ====
section
/-! DEFINITION. The skim path's shared operations: zero-word elision, the Hawk buffer and its index, delta formation,
markers, addressees and release (R69, R79, R185 to R198, R204). -/

namespace Sys2Proof.Machine

/-! ## Zero-word elision (R79) -/

/-- Whether a word of four bytes is not zero. -/
def wordLive (w : List Byte) : Bool := w.any fun b => b != 0

/-- The mask of one 64-byte group: bit j is set when word j is not zero. -/
def elideMask (g : List Byte) : Nat :=
  (chunksOf 4 16 g).zipIdx.foldl (fun m p => m + bit (wordLive p.1) p.2) 0

/-- The elided form of a raw extent: the masks, then every non-zero word. -/
def elide (raw : List Byte) : List Byte :=
  let groups := chunksOf 64 (raw.length / 64) raw
  groups.flatMap (fun g => leBytes 2 (elideMask g)) ++ (chunksOf 4 (raw.length / 4) raw).flatMap fun w =>
    if wordLive w then w else []

/-- The words an elided payload gives for a list of mask bits, in order; `ws` are the words that follow the masks. -/
def expandWords : List Bool → List Byte → List Byte
  | [], _ => []
  | true :: t, ws => ws.take 4 ++ expandWords t (ws.drop 4)
  | false :: t, ws => [0, 0, 0, 0] ++ expandWords t ws

/-- The mask bits of an elided payload of a raw extent of `r` bytes. -/
def elidedBits (r : Nat) (payload : List Byte) : List Bool :=
  (List.range (r / 64)).flatMap fun g => (List.range 16).map fun j => (leField payload (2 * g) 2).testBit j

/-- The payload bytes the masks imply (R79). -/
def elidedLen (r : Nat) (payload : List Byte) : Nat :=
  2 * (r / 64) + 4 * ((elidedBits r payload).filter fun b => b).length

/-- The raw extent of an elided payload. -/
def expand (r : Nat) (payload : List Byte) : List Byte :=
  expandWords (elidedBits r payload) (payload.drop (2 * (r / 64)))

/-! ## The Hawk buffer (R189, R190) -/

/-- Raw extent of a record. -/
def HawkRec.rawLen (r : HawkRec) : Nat := if r.whole then 4096 else 256

/-- The payload a record's frame carries. -/
def HawkRec.payload (r : HawkRec) : List Byte := if r.mark then [] else if r.elided then elide r.data else r.data

/-- Blocks of 256 bytes a record keeps (R187, R190); a marker keeps none. -/
def HawkRec.blocks (r : HawkRec) : Nat := if r.mark then 0 else (r.payload.length + 255) / 256

/-- Blocks in use of a slot's allocation: deltas not released and panel slots being formed (R189). -/
def State.hawkUsed (s : State) (k : Nat) : Nat :=
  (s.hawk.recs.filter fun r => r.slot.val == k).foldl (fun n r => n + r.blocks) 0
    + 16 * (s.hawk.forming.filter fun f => f.slot.val == k).length

/-- Index records in use (R190). -/
def State.indexUsed (s : State) : Nat := (s.hawk.recs.filter fun r => !r.mark).length

/-- Whether `n` blocks and `recs` index records are free for slot `k` (R192). No delta of a slot in FORMING is formed
(R122), so it has no room. -/
def State.hawkRoom (s : State) (k n recs : Nat) : Bool :=
  (s.slot k).st != .forming && decide (s.hawkUsed k + n ≤ 256 * (s.slot k).alloc) &&
    decide (s.indexUsed + s.hawk.forming.length + recs ≤ Config.hawkRecords)

/-- The peaks of R210 brought up to date after a change of slot `k`. -/
def State.notePeaks (s : State) (k : Nat) : State :=
  let s := s.updSlot k fun x => { x with peak := max x.peak (s.hawkUsed k) }
  { s with hawk := { s.hawk with peak := max s.hawk.peak s.indexUsed } }

/-- Whether a delta of an entry may be held in the elided form (R187). -/
def State.mayElide (s : State) (ctx : Nat) : Bool :=
  s.cap 8 && s.hawk.elideEn && (match s.entry ctx with | some e => e.elide | none => false)

/-- A delta formed and staged (R186, R187): `idx` is its panel in the region, `blk` the block of a 256-byte delta. -/
def State.stage (s : State) (k : Fin 16) (ctx panel idx blk : Nat) (whole : Bool) (data : List Byte) : State :=
  let el := s.mayElide ctx && decide ((elide data).length < data.length)
  let r : HawkRec := { slot := k, mark := false, place := Config.hawkPlace s.free, panel := panel, blk := blk, whole := whole, data := data
                       elided := el, seq := none, st := .staged, owed := [], ctx := ctx, idx := idx }
  let s := { s with hawk := { s.hawk with recs := s.hawk.recs ++ [r] }, free := s.free + 1 }
  let s := s.notePeaks k.val
  if el then s.count 0xAB else s

/-- A panel slot reserved with the panel's old bytes (R185). -/
def State.reserve (s : State) (k : Fin 16) (ctx panel : Nat) (old : List Byte) : State :=
  let f : FormSlot := { slot := k, ctx := ctx, panel := panel, old := old }
  State.notePeaks { s with hawk := { s.hawk with forming := s.hawk.forming ++ [f] } } k.val

/-- Whether a panel of an entry holds a reserved slot. -/
def State.reserved (s : State) (ctx panel : Nat) : Bool := s.hawk.forming.any fun f => f.ctx == ctx && f.panel == panel

/-- A 4 KiB delta formed from the reserved slot of a panel and its new bytes (R185, R186): an all-zero delta drops out.
`dpanel` is the data panel index in the sett. -/
def State.formPanel (s : State) (i : Fin 64) (ctx panel dpanel : Nat) (new : List Byte) : State :=
  match s.hawk.forming.find? fun f => f.ctx == ctx && f.panel == panel with
  | none => s
  | some f =>
    let s := { s with hawk := { s.hawk with forming := s.hawk.forming.filter fun g => !(g.ctx == ctx && g.panel == panel) } }
    let d := xorBytes f.old new
    if d.all (· == 0) then (s.count 0xA9).updSweep i fun w => { w with dropped := w.dropped + 1 }
    else s.stage f.slot ctx dpanel panel 0 true d

/-! ## Addressees (R69, R202) -/

/-- Whether a rank of a slot is sent to: PRESENT, or REPLACING with its target joined to the job at this member
(R202; DEDUCED for the sender, log entry 15). -/
def State.sendsTo (s : State) (k r : Nat) : Bool :=
  let sl := s.slot k
  match sl.rankSt r with
  | .present => true
  | .lost => false
  | .replacing =>
    match s.slotTenant k, sl.sett.rows[r]? with
    | some i, some row => (s.ten i).fox.joined.contains row.addr
    | _, _ => false

/-- The addresses of ranks of a slot, those that are sent to. -/
def State.rankAddrs (s : State) (k : Nat) (rs : List Nat) : List Addr :=
  rs.filterMap fun r =>
    match (s.slot k).sett.rows[r]? with
    | some row => if s.sendsTo k r && r != (s.slot k).sett.rank then some row.addr else none
    | none => none

/-- The holder group of a rotation: the m parity ranks of its stripes (R69, R193). -/
def State.holders (s : State) (k u : Nat) : List Addr :=
  let d := (s.slot k).sett
  s.rankAddrs k ((List.range d.m).map fun j => rankAt d.k d.m u (d.k + j))

/-- The all-peers group of a slot (R69). -/
def State.peers (s : State) (k : Nat) : List Addr := s.rankAddrs k (List.range (settN (s.slot k).sett))

/-- The rotation a delta of the slot lies in (R193). -/
def rotationFor (d : SettDesc) (panel : Nat) : Nat := rotationOf d.k d.m d.rank panel

/-! ## Markers and release (R196 to R198) -/

/-- The marker of a slot formed: COUNT is the next number plus every delta formed and not yet numbered (R196). -/
def State.formMarker (s : State) (k : Fin 16) : State :=
  let unsent := (s.hawk.recs.filter fun r => r.slot == k && !r.mark && r.seq == none).length
  let count := (s.slot k.val).next + unsent
  let r : HawkRec := { slot := k, mark := true, panel := 0, blk := 0, whole := false, data := [], elided := false
                       seq := none, st := .staged, owed := [], ctx := 0, idx := 0 }
  let s := s.updSlot k.val fun x => { x with markCount := some count }
  { s with hawk := { s.hawk with recs := s.hawk.recs ++ [r] } }

/-- Whether a tenant's skim is complete as sender: every sett slot of it (R197, R202). -/
def State.skimDone (s : State) (i : Fin 64) : Bool := (s.settSlots i).all fun k => (s.slot k).done

/-- CLOSING becomes DONE once every delta and marker is released (R184). -/
def State.closeSweep (s : State) (i : Fin 64) : State :=
  if (s.ten i).sweep.state = .closing && s.skimDone i then s.updSweep i fun w => { w with state := .done } else s

/-- Records without an addressee left are freed; a released marker completes its slot's skim (R197, R198). -/
def State.freeReleased (s : State) : State :=
  let gone (r : HawkRec) : Bool := r.st == .out && r.owed.isEmpty
  let marks := (s.hawk.recs.filter fun r => gone r && r.mark).map (·.slot)
  let s := { s with hawk := { s.hawk with recs := s.hawk.recs.filter fun r => !gone r } }
  let s := marks.foldl (fun s k => s.updSlot k.val fun x => { x with done := true }) s
  tenantIdxs.foldl (fun s i => s.closeSweep i) s

/-- The frames that `p` selects released for an address (R197, R198). -/
def State.releaseFor (s : State) (a : Addr) (p : HawkRec → Bool) : State :=
  let recs := s.hawk.recs.map fun r => if p r then { r with owed := r.owed.filter fun o => o.addr != a } else r
  State.freeReleased { s with hawk := { s.hawk with recs := recs } }

/-- Frames of a tenant's slots released for a fenced address; each release counts under 0x4E (R80, R198). -/
def State.releaseFenced (s : State) (i : Fin 64) (a : Addr) : State :=
  let mine (r : HawkRec) : Bool := s.ownsSlot i r.slot.val
  let n := (s.hawk.recs.filter fun r => mine r && r.owed.any fun o => o.addr == a).length
  (s.countN 0x4E n).releaseFor a mine

/-- The waiting SKIM frames that `p` selects taken out of the channel: none of them is ever sent (R198, R203). -/
def State.dropCopies (s : State) (p : OutFrame → Bool) : State :=
  { s with ep := { s.ep with skimQ := s.ep.skimQ.filter fun f => !p f, resumeQ := s.ep.resumeQ.filter fun f => !p f } }

/-- Every delta and marker of a tenant's slots freed, and every copy that still waits to be sent (R198, R204). -/
def State.dropSkim (s : State) (i : Fin 64) : State :=
  let mine (k : Fin 16) : Bool := s.ownsSlot i k.val
  let s := s.dropCopies fun f => f.tenant == s.tagOf i
  let s := { s with hawk := { s.hawk with recs := s.hawk.recs.filter fun r => !mine r.slot
                                          forming := s.hawk.forming.filter fun f => !mine f.slot } }
  (s.settSlots i).foldl (fun s k => s.updSlot k fun x => { x with markCount := none, done := false }) s

/-- A source entry at the opening of its slot's next attempt (R199). -/
def SrcEntry.reset (e : SrcEntry) (epoch : Nat) (tr : BitVec 7) : SrcEntry :=
  { e with epoch := epoch, tr := tr, cum := 0, count := 0, closed := false, broken := false, applied := 0, ring := 0
           high := none, ackDue := false }

end Sys2Proof.Machine
end

