-- ==== Sys2Proof/Machine/Gate.lean ====
section
/-! DEFINITION. The memory gate (R34 to R57): the judgement of host accesses, the hold park, the requests outstanding at
the controller, the read-old path, and the repair queue the gate feeds (R55, R272). The park is judged again, in order,
at the end of every command (`State.unpark`): that is how each release of R46, R48, R49, R51 and R192 takes place. -/

namespace Sys2Proof.Machine

/-! ## Repair queue (R55, R272, R304) -/

/-- A panel queued for single-panel repair. A second error of a data panel before its repair completes contains its
region; so does a full queue, with event 0xDA. -/
def State.queueRepair (s : State) (x : RepairItem) : State :=
  if s.badger.repairs.contains x then
    match x with
    | .data c _ => s.contain c
    | .parity _ _ => s
  else if Config.repairQueue ≤ s.badger.repairs.length then
    match x with
    | .data c _ => (s.raise { code := 0xDA, level := 2, tenant := s.tagAtEntry c, detail := c }).contain c
    | .parity k _ => s.raise { code := 0xDA, unit := k, detail := Config.ctxEntries }
  else State.count { s with badger := { s.badger with repairs := s.badger.repairs ++ [x] } } 0xD9

/-- The panel at an address as a repair item: a data panel of a region by its host view or bank, or a parity panel. -/
def State.repairItemAt (s : State) (a : Nat) : Option RepairItem :=
  match s.regionAt a with
  | some c =>
    match s.entry c with
    | some e => some (.data c ((a / 4096 - e.basep) % max 1 e.lenp))
    | none => none
  | none =>
    if !s.inSpan a then none
    else
      let p := (a - s.spanBase) / 4096
      match (List.range 16).find? fun k =>
          decide ((s.slot k).kind = .sett) && decide ((s.slot k).sett.pbase ≤ p) &&
            decide (p < (s.slot k).sett.pbase + 2 * (s.slot k).sett.q) with
      | some k => some (.parity k ((p - (s.slot k).sett.pbase) % max 1 (s.slot k).sett.q))
      | none => none

/-- The panel at an address queued for repair, where it is one. -/
def State.queueRepairAt (s : State) (a : Nat) : State :=
  match s.repairItemAt a with
  | some x => s.queueRepair x
  | none => s

/-- A committed panel's read found to disagree with its kept digest (R304): event 0xF0 with the physical panel index,
and the panel is queued for repair. -/
def State.digestFail (s : State) (a : Nat) : State :=
  (s.raise { code := 0xF0, tenant := s.tagAt a, detail := a / 4096 }).queueRepairAt a

/-! ## Requests outstanding at the controller (R36, R51) -/

/-- The lowest MQ_ID not in use; the id of an overdue response stays out of use (R330). -/
def State.freeMqId (s : State) : Option (BitVec 12) :=
  ((List.range 4096).map (BitVec.ofNat 12)).find? fun x => !(s.gate.mq.any fun m => m.id == x) && !s.flt.overdue.contains x

/-- The line an address lies in. -/
def lineNo (a : BitVec 36) : Nat := a.toNat / 64

/-- Whether a request must wait for one to its line that is outstanding, since either is a write (R51). -/
def State.lineBusy (s : State) (line : Nat) (isRead : Bool) : Bool :=
  s.gate.mq.any fun m => m.line == line && !(isRead && m.kind == .read)

/-- Whether any request to a line is outstanding at the controller. -/
def State.lineOut (s : State) (line : Nat) : Bool := s.gate.mq.any fun m => m.line == line

/-! ## The hold park (R50) -/

/-- A request put among the parked ones in order of arrival (R49, R51). -/
def parkInsert (x : Parked) : List Parked → List Parked
  | [] => [x]
  | y :: l => if x.n < y.n then x :: y :: l else y :: parkInsert x l

/-- A request parked; RETRY and counter 0x3C where the park is full. A request outside the span that waits for its line
takes one of the 256 places too (DEDUCED, log entry 173). -/
def State.parkIt (s : State) (x : Parked) : State :=
  if Config.parkSize ≤ s.gate.park.length then (s.respond x.q.id .retry 0 0).count 0x3C
  else { s with gate := { s.gate with park := parkInsert x s.gate.park } }

/-- A request sent to the controller, or held behind a request to its line. Where no MQ_ID is free it is answered RETRY
and counted under 0x3C (DESIGN CHOICE, log entry 173). -/
def State.toController (s : State) (x : Parked) (kind : MqKind) (phys : BitVec 36) (panel : Option (Nat × Nat)) : State :=
  if s.lineBusy (lineNo x.q.addr) (kind == .read) then s.parkIt { x with why := .line }
  else
    match s.freeMqId with
    | none => (s.respond x.q.id .retry 0 0).count 0x3C
    | some id =>
      let m : MqReq := { id := id, nqId := x.q.id, kind := kind, aop := x.q.aop, n := x.n, line := lineNo x.q.addr, tag := x.q.tag
                         addr := phys, be := x.q.be, data := x.q.data, panel := panel, due := x.due }
      { s with gate := { s.gate with mq := s.gate.mq ++ [m] } }

/-- A bus error with its event (R53). -/
def State.busError (s : State) (q : NqReq) (cause : BitVec 4) : State :=
  let code := if cause = 0xC then 0x3E else 0x30 + cause.toNat
  (s.respond q.id .busError cause 0).raise { code := code, tenant := q.tag, detail := q.addr.toNat }

/-! ## Judgement of an access (R45 to R49, R56, R89) -/

/-- What the gate does with an access. -/
inductive Verdict where
  | fail (cause : BitVec 4)
  | park (why : ParkWhy)
  | send (kind : MqKind) (phys : Nat)
  deriving DecidableEq, Repr

/-- Whether a tenant's sweep is running in the sense of R46. -/
def SweepS.running (w : SweepS) : Bool := w.state == .intake || w.state == .prep || w.state == .body

/-- Whether a host read of panel `p` of an entry is held (R46). -/
def State.holdsRead (s : State) (i : Fin 64) (e : Entry) (p : Nat) : Bool :=
  let r := s.panelRec e p
  e.cls == .skim && (s.ten i).sweep.running && e.sgrp != 0 && !((r.n || r.d) && s.recCurrent r)

/-- Whether a parked write stays parked until the next attempt opens (R48, R49). -/
def Parked.waits (x : Parked) : Bool := x.why == .window && !x.due

/-- The verdict on a host write of an ACTIVE direct-coded or replica panel (R47 to R49, R192); a write that finds no
attempt open waits for the next as in the commit window. A replica write parked for the sweep of one attempt is applied
in the attempt that opens next, whose sweep does not hold it again (R48). -/
def State.judgeWrite (s : State) (x : Parked) (i : Fin 64) (e : Entry) (phys : Nat) : Verdict :=
  let t := s.ten i
  if !t.commit.isOpen || t.commit.window || x.waits then .park .window
  else
    match e.cls with
    | .skim => .fail 0x1
    | .direct => if s.hawkRoom e.slot.val 1 1 then .send .readOld phys else .park .hawk
    | .replica =>
      if e.sgrp ≠ 0 ∧ t.sweep.state ≠ .idle ∧ t.sweep.state ≠ .held ∧ x.due = false then .park .window
      else .send .readOld phys

/-- The verdict on an access to the host view of a region, once its context entry has been read (R45, R89). -/
def State.judgeRegion (s : State) (x : Parked) (c : Nat) (e : Entry) : Verdict :=
  let a := x.q.addr.toNat
  let p := a / 4096 - e.basep
  let inBank (b : Bool) : Nat := e.panelAddr p b + a % 4096
  if x.q.tag ≠ e.tenant then .fail 0x2
  else
    match e.state with
    | .contained => .fail 0x5
    | .priming => .fail 0x3
    | .retiring => .fail 0x3
    | .loading =>
      if x.q.op = 0 then .send .read (inBank (s.panelRec e p).c)
      else if x.q.op = 1 then .send .write (inBank (s.panelRec e p).c)
      else .fail 0x4
    | .active =>
      if x.q.op = 2 then .fail 0x4
      else
        match s.tenantOf e.tenant with
        | none => .fail 0x2
        | some i =>
          if x.q.op = 0 then
            if s.badger.repairs.contains (.data c p) then .fail 0x9
            else if s.holdsRead i e p then .park .sweep
            else .send .read (inBank (s.steer e p))
          else if e.cls = .skim then .fail 0x1
          else s.judgeWrite x i e (inBank (s.steer e p))

/-- The region whose host view an address of the span lies in: the one its record names, or, before its records are
written, the one the context table names (R40, R45, R89); none for a gate-private panel and for free span. -/
def State.hostView (s : State) (a : Nat) : Option (Nat × Entry) :=
  let r := s.dirRec a
  if r.priv then none
  else if r.v then (s.entry r.ctx).map fun e => (r.ctx, e)
  else s.ctx.table.find? fun p => decide (p.2.basep ≤ a / 4096) && decide (a / 4096 < p.2.basep + p.2.lenp)

/-- A host access to a region's host view, answered, parked or sent on in its order of arrival at its line (R51): one
that is refused waits too while an earlier request to the line is parked or outstanding. -/
def State.accessRegion (s : State) (x : Parked) (c : Nat) (e : Entry) : State :=
  let behind := s.gate.park.any fun y => lineNo y.q.addr == lineNo x.q.addr
  match s.judgeRegion x c e with
  | .fail cause =>
    if behind || s.lineOut (lineNo x.q.addr) then s.parkIt { x with why := .line, ctx := some c } else s.busError x.q cause
  | .park w => s.parkIt { x with why := if behind && !x.waits then .line else w, ctx := some c }
  | .send k phys =>
    if behind then s.parkIt { x with why := .line, ctx := some c }
    else s.toController { x with ctx := some c } k (BitVec.ofNat 36 phys) (some (c, x.q.addr.toNat / 4096 - e.basep))

/-- A host access to the stack, judged and answered, parked or sent on (R39, R45, R51, R56). -/
def State.access (s : State) (x : Parked) (sramBad : Bool) : State :=
  let a := x.q.addr.toNat
  if !s.gate.ready then s.busError x.q 0x8
  else if !s.inSpan a && !s.inDir a then
    if s.gate.park.any fun y => lineNo y.q.addr == lineNo x.q.addr then s.parkIt { x with why := .line, ctx := none }
    else s.toController { x with ctx := none } (if x.q.op = 0 then .read else if x.q.op = 1 then .write else .atomic) x.q.addr none
  else if s.flt.mode = .resetting then s.busError x.q 0x7
  else if s.flt.mode ≠ .normal then s.busError x.q 0x6
  else if s.inDir a then s.busError x.q 0x3
  else
    match s.hostView a with
    | none => s.busError x.q 0x3
    | some (c, e) => if sramBad then (s.contain c).busError x.q 0xA else s.accessRegion x c e

/-- Every parked transaction judged again, in arrival order. -/
def State.unpark (s : State) : State :=
  s.gate.park.foldl (fun s x => s.access x false) { s with gate := { s.gate with park := [] } }

/-- The writes parked at a tenant's regions are due in the attempt that opens (R48, R49). -/
def State.parkDue (s : State) (i : Fin 64) : State :=
  let mine (x : Parked) : Bool :=
    match x.ctx with
    | some c => (match s.entry c with | some e => e.tenant == s.tagOf i | none => false)
    | none => false
  { s with gate := { s.gate with park := s.gate.park.map fun x => if mine x then { x with due := true } else x } }

/-- Whether the ports move anything: the reset released, the rails in range (R56, R57). -/
def State.portsUp (s : State) : Bool := s.power.released && !s.power.isolated

/-- The lookaside after a lookup of the directory line of an address (R42): most recent first. -/
def State.touchLookaside (s : State) (a : Nat) : State :=
  if s.gate.ready && s.inSpan a then
    let l := s.dirAddr a / 64
    { s with gate := { s.gate with lookaside := (l :: s.gate.lookaside.filter (· != l)).take Config.lookasideLines } }
  else s

/-- A memory request of the network side. `op` is the code of its row; a request whose NQ_SPACE or NQ_OP is another code
is answered as a reserved one (R53). -/
def State.hostMemory (s : State) (q : NqReq) (op : BitVec 3) (sramBad : Bool) : State :=
  if !s.portsUp then s
  else if q.space ≠ 0 ∨ q.op ≠ op then s.busError q 0xC
  else
    let s := s.touchLookaside q.addr.toNat
    State.access { s with gate := { s.gate with arrivals := s.gate.arrivals + 1 } }
      { q := q, n := s.gate.arrivals, why := .line, ctx := none } sramBad

/-! ## The read-old path (R47, R48) -/

/-- A host write merged: the first touch copies the panel from bank C to bank 1 − C, the line is merged, and for a
direct-coded region the 256-byte delta is staged. The host receives OK. -/
def State.mergeWrite (s : State) (id : BitVec 10) (line : Nat) (be : BitVec 64) (data : Line) (c p : Nat) (e : Entry)
    (i : Fin 64) : State :=
  let r := s.panelRec e p
  let cur := r.n && s.recCurrent r
  let from_ := s.bytesAt (e.panelAddr p (if cur then !r.c else r.c)) 4096
  let old := slice from_ (line * 64) 64
  let new := lineBytes (mergeLine be (lineOf old) data)
  let bank := e.panelAddr p (!r.c)
  let s := if cur then s.putBytes (bank + line * 64) new
    else (s.putBytes bank (splice from_ (line * 64) new)).setDir (e.panelAddr p false)
      { r with n := true, d := false, att := (s.ten i).commit.att }
  let src := e.panelAddr p (if cur then !r.c else r.c)
  let s := s.setKept bank (s.kept src ^^^ pdAt (line * 64) (xorBytes old new))
  let blk := line / 4
  let delta := List.replicate (64 * (line % 4)) 0 ++ xorBytes old new ++ List.replicate (64 * (3 - line % 4)) 0
  let s := if e.cls = .direct then s.stage e.slot c (e.spanel + p) p blk false delta else s
  s.ok id

/-- A read-old write whose old line has come: it is judged once more, so that a window that opened meanwhile parks it
(R49, R196), in its place in the order of arrival, and is merged where it still may be. -/
def State.completeWrite (s : State) (m : MqReq) : State :=
  let s := { s with gate := { s.gate with mq := s.gate.mq.filter fun x => x.id != m.id } }
  match m.panel with
  | none => s
  | some (c, p) =>
    let q : NqReq := { space := 0, op := 1, aop := m.aop, addr := BitVec.ofNat 36 (64 * m.line), tag := m.tag, id := m.nqId
                       be := m.be, data := m.data }
    let x : Parked := { q := q, n := m.n, why := .line, ctx := some c, due := m.due }
    match s.entry c with
    | none => s.busError q 0x3
    | some e =>
      if s.flt.mode = .resetting then s.busError q 0x7
      else if s.flt.mode ≠ .normal then s.busError q 0x6
      else
        match s.judgeRegion x c e, s.tenantOf e.tenant with
        | .fail cause, _ => s.busError q cause
        | .park w, _ => s.parkIt { x with why := w }
        | .send .readOld _, some i => s.mergeWrite m.nqId (m.line % 64) m.be m.data c p e i
        | .send _ _, _ => s.access x false

/-! ## Responses of the controller (R36, R55) -/

/-- An uncorrectable directory line (R55): every region whose CTX the gate can read from another record of the line is
contained; where no record of it is readable the instance goes under dust sheet. Which records can be read is a free
value (DESIGN CHOICE, log entry 175). -/
def State.dirLineBad (s : State) (a : Nat) : State :=
  let base := a - a % 64
  let readable := Config.readableRecords s.free
  let others := (List.range 16).filter fun j => readable.getLsbD j && j != a % 64 / 4
  let ctxs := others.filterMap fun j =>
    let r := dirRecOf (leNat (s.bytesAt (base + 4 * j) 4))
    if r.v then some r.ctx else none
  let s : State := { s with free := s.free + 1 }
  ctxs.foldl (fun s c => s.contain c) (s.raise { code := 0x3B, level := if readable = 0 then 3 else 1, detail := a })

/-- A corrected error only increments a counter (R55). -/
def State.noteCorrected (s : State) (err : BitVec 2) : State :=
  if err = 1 then { s with gate := { s.gate with corrected := s.gate.corrected + 1 } } else s

/-- An uncorrectable error on a line that a host request needed (R53, R55). -/
def State.lineBad (s : State) (m : MqReq) : State :=
  (s.respond m.nqId .busError 0x9 0).raise { code := 0x39, tenant := m.tag, detail := m.addr.toNat }

/-- A request outstanding at the controller completed by its response. A read-old write whose line came goes on waiting
for its merge. -/
def State.answerMq (s : State) (m : MqReq) (r : MsResp) : State :=
  let bad := decide (2 ≤ r.err.toNat)
  let done : State := { s with gate := { s.gate with mq := s.gate.mq.filter fun x => x.id != m.id } }
  if bad && s.inDir r.addr.toNat && m.panel.isSome then
    (done.respond m.nqId .busError 0xB 0).dirLineBad r.addr.toNat
  else
    match m.kind with
    | .write =>
      let a := 64 * lineNo m.addr
      (done.putBytes a (lineBytes (mergeLine m.be (lineOf (done.bytesAt a 64)) m.data))).ok m.nqId
    | .readOld => if bad then (done.lineBad m).queueRepairAt m.addr.toNat else s
    | .read => if bad then (done.lineBad m).queueRepairAt m.addr.toNat else done.respond m.nqId .ok 0 r.data
    | .atomic =>
      if bad then done.lineBad m
      else
        let v := Config.atomicLine done.free
        let done : State := { done with free := done.free + 1 }
        (done.putBytes (64 * lineNo m.addr) (lineBytes v)).respond m.nqId .ok 0 r.data

/-- The requests of a line answered in order of arrival, as far as their responses have come (R51). -/
def State.answerInOrder (s : State) : List MqReq → State
  | [] => s
  | m :: rest =>
    match m.got with
    | some r => (s.answerMq m r).answerInOrder rest
    | none => s

/-- The requests of a line whose responses have come. -/
def State.answerLine (s : State) (line : Nat) : State := s.answerInOrder (s.gate.mq.filter fun m => m.line == line)

/-- A response of the controller: for a host request it completes it in its line's order, for a read of the block itself
its MS_ERR is judged. A response that was overdue is discarded and frees its MQ_ID (R330). -/
def State.memResponse (s : State) (r : MsResp) : State :=
  let s := s.noteCorrected r.err
  if s.flt.overdue.contains r.id then s.updFlt fun f => { f with overdue := f.overdue.filter (· != r.id) }
  else
    match s.gate.mq.find? fun m => m.id == r.id with
    | none =>
      if r.err.toNat < 2 then s
      else if s.inDir r.addr.toNat then s.dirLineBad r.addr.toNat
      else if s.inSpan r.addr.toNat then
        (s.raise { code := 0x39, tenant := s.tagAt r.addr.toNat, detail := r.addr.toNat }).queueRepairAt r.addr.toNat
      else s
    | some m =>
      if m.kind = .readOld then s.answerMq m r
      else State.answerLine { s with gate := { s.gate with
        mq := s.gate.mq.map fun x => if x.id = r.id then { x with got := some r } else x } } m.line

/-- An overdue response of the controller (R330): the host request that waits for it fails with its bus error, and its
MQ_ID stays out of use. -/
def State.overdue (s : State) (id : BitVec 12) : State :=
  let s := match s.gate.mq.find? fun m => m.id == id && m.got.isNone with
    | some m =>
      (State.lineBad { s with gate := { s.gate with mq := s.gate.mq.filter fun x => x.id != id } } m).answerLine m.line
    | none => s
  (s.updFlt fun f => { f with overdue := addOnce id f.overdue }).raise { code := 0x0E, core := true }

end Sys2Proof.Machine
end

