-- ==== Sys2Proof/Machine/Flags.lean ====
section
/-! DEFINITION. The arithmetic of the update engine: formats, the one rounding of an exact result, the seven flags,
and every operation of R131, each written once (R127 to R136, R146). -/

namespace Sys2Proof.Machine

/-! ## Flags (R146) -/

/-- The seven flags of an attempt, in the bit order of R146. -/
abbrev Flags := BitVec 7

def flagNV : Flags := 0x01
def flagDZ : Flags := 0x02
def flagOF : Flags := 0x04
def flagUF : Flags := 0x08
def flagNX : Flags := 0x10
def flagNANIN : Flags := 0x20
def flagSAT : Flags := 0x40

/-- A flag where the condition holds. -/
def flagIf (c : Bool) (f : Flags) : Flags := if c then f else 0

/-! ## Formats (R127) -/

/-- What an all-ones exponent means in a format. -/
inductive TopExp where
  /-- Infinities and NaNs, as in IEEE 754. -/
  | ieee
  /-- Finite but for S.1111.111, which is NaN: E4M3. -/
  | e4m3
  /-- Finite throughout: the element formats narrower than 8 bits. -/
  | finite
  deriving DecidableEq, Repr, Inhabited

/-- A binary floating-point format: exponent and mantissa bits, bias, and the meaning of the top exponent. -/
structure Fmt where
  ebits : Nat
  mbits : Nat
  bias : Nat
  top : TopExp
  /-- Results past the largest finite value saturate to it: the MX element formats (R130). -/
  elem : Bool := false
  deriving DecidableEq, Repr, Inhabited

/-- The formats by code; MXINT8 (0xD) has its own conversion (R127, R130). -/
def fmtOf : Nat → Option Fmt
  | 0x0 => some ⟨8, 23, 127, .ieee, false⟩
  | 0x1 => some ⟨5, 10, 15, .ieee, false⟩
  | 0x2 => some ⟨8, 7, 127, .ieee, false⟩
  | 0x3 => some ⟨4, 3, 7, .e4m3, false⟩
  | 0x4 => some ⟨5, 2, 15, .ieee, false⟩
  | 0x8 => some ⟨4, 3, 7, .e4m3, true⟩
  | 0x9 => some ⟨5, 2, 15, .ieee, true⟩
  | 0xA => some ⟨2, 3, 1, .finite, true⟩
  | 0xB => some ⟨3, 2, 3, .finite, true⟩
  | 0xC => some ⟨2, 1, 1, .finite, true⟩
  | _ => none

/-- FP32. -/
def fp32 : Fmt := ⟨8, 23, 127, .ieee, false⟩

/-- Whether a code is an MX storage format (R127). -/
def isMx (c : Nat) : Bool := decide (0x8 ≤ c) && decide (c ≤ 0xD)

/-- Whether a code is one of the five arithmetic formats (R127). -/
def isArith (c : Nat) : Bool := decide (c ≤ 0x4)

/-- Bytes of an element of an arithmetic format, or of a byte-sized MX element (R127). -/
def fmtBytes : Nat → Nat
  | 0x0 => 4
  | 0x1 => 2
  | 0x2 => 2
  | _ => 1

/-- Width of a format in bits. -/
def Fmt.width (f : Fmt) : Nat := 1 + f.ebits + f.mbits

/-- Exponent of the smallest normal number. -/
def Fmt.emin (f : Fmt) : Int := 1 - (f.bias : Int)

/-- Exponent of the largest finite number. -/
def Fmt.emax (f : Fmt) : Int :=
  match f.top with
  | .ieee => (2 ^ f.ebits - 2 : Nat) - (f.bias : Int)
  | _ => (2 ^ f.ebits - 1 : Nat) - (f.bias : Int)

/-- Significand of the largest finite number, with `mbits` fraction bits. -/
def Fmt.maxSig (f : Fmt) : Nat :=
  match f.top with
  | .e4m3 => 2 ^ (f.mbits + 1) - 2
  | _ => 2 ^ (f.mbits + 1) - 1

/-- A value of a format, exactly: NaN (signalling or not), infinity, or (−1)^neg × m × 2^e. -/
inductive FVal where
  | nan (sig : Bool)
  | inf (neg : Bool)
  | fin (neg : Bool) (m : Nat) (e : Int)
  deriving DecidableEq, Repr, Inhabited

/-- The value of a bit pattern (R127, R128). -/
def Fmt.decode (f : Fmt) (bits : Nat) : FVal :=
  let man := bits % 2 ^ f.mbits
  let ex := bits / 2 ^ f.mbits % 2 ^ f.ebits
  let neg := decide (bits / 2 ^ (f.mbits + f.ebits) % 2 = 1)
  let special : Option FVal :=
    if ex = 2 ^ f.ebits - 1 then
      match f.top with
      | .ieee => some (if man = 0 then .inf neg else .nan (decide (man < 2 ^ (f.mbits - 1))))
      | .e4m3 => if man = 2 ^ f.mbits - 1 then some (.nan false) else none
      | .finite => none
    else none
  match special with
  | some v => v
  | none =>
    if ex = 0 then .fin neg man (f.emin - f.mbits)
    else .fin neg (2 ^ f.mbits + man) ((ex : Int) - f.bias - f.mbits)

/-- The sign bit of a pattern. -/
def Fmt.signBit (f : Fmt) (neg : Bool) : Nat := if neg then 2 ^ (f.mbits + f.ebits) else 0

/-- The canonical NaN, positive in sign (R127, R128). -/
def Fmt.nanBits (f : Fmt) : Nat :=
  match f.top with
  | .ieee => (2 ^ f.ebits - 1) * 2 ^ f.mbits + 2 ^ (f.mbits - 1)
  | _ => 2 ^ (f.mbits + f.ebits) - 1

/-- Infinity. -/
def Fmt.infBits (f : Fmt) (neg : Bool) : Nat := f.signBit neg + (2 ^ f.ebits - 1) * 2 ^ f.mbits

/-- The largest finite value. -/
def Fmt.maxBits (f : Fmt) (neg : Bool) : Nat :=
  f.signBit neg + ((f.emax + f.bias).toNat) * 2 ^ f.mbits + (f.maxSig - 2 ^ f.mbits)

/-! ## Rounding (R128, R133, R134) -/

/-- A rounding mode, stochastic rounding with its draw U (R133, R134). -/
inductive Rm where
  | rne
  | rtz
  | sr (u : Nat)
  deriving DecidableEq, Repr, Inhabited

/-- Bits of a natural number. -/
def bitLen (m : Nat) : Nat := if m = 0 then 0 else Nat.log2 m + 1

/-- Rounds a magnitude m × 2^e, or a value strictly between it and (m + 1) × 2^e where `sticky`, to a multiple of
2^q: the multiple, and whether the value was not one (R133, R134). -/
def roundTo (rm : Rm) (m : Nat) (e : Int) (sticky : Bool) (q : Int) : Nat × Bool :=
  if q ≤ e then (m * 2 ^ (e - q).toNat, sticky)
  else
    let sh := (q - e).toNat
    -- Past 64 bits below the last place nothing but the fact of a residual matters (F of R134 is then 0).
    if bitLen m + 64 < sh then (0, decide (m ≠ 0) || sticky)
    else
      let t := m / 2 ^ sh
      let r := m % 2 ^ sh
      let half := 2 ^ (sh - 1)
      let inexact := decide (r ≠ 0) || sticky
      let up : Bool :=
        match rm with
        | .rne => decide (half < r) || (decide (r = half) && (sticky || decide (t % 2 = 1)))
        | .rtz => false
        | .sr u => decide (u < r * 2 ^ 32 / 2 ^ sh)
      (if up then t + 1 else t, inexact)

/-- What an overflowing finite result becomes, with its flags (R128). -/
def Fmt.overflow (f : Fmt) (rm : Rm) (sat neg : Bool) : Nat × Flags :=
  if sat || f.elem then (f.maxBits neg, flagSAT ||| flagNX)
  else
    match rm, f.top with
    | .rtz, _ => (f.maxBits neg, flagOF ||| flagNX)
    | _, .ieee => (f.infBits neg, flagOF ||| flagNX)
    | _, _ => (f.nanBits, flagOF ||| flagNX)

/-- An infinite exact result in a format (R128). -/
def Fmt.infinite (f : Fmt) (sat neg : Bool) : Nat × Flags :=
  match f.top with
  | .ieee => (f.infBits neg, 0)
  | _ => if sat then (f.maxBits neg, flagSAT) else (f.nanBits, flagOF)

/-- The pattern of a magnitude t × 2^q that the format holds, q its quantum or above. -/
def Fmt.encode (f : Fmt) (neg : Bool) (t : Nat) (q : Int) : Nat :=
  let l := bitLen t
  let ex := q + l - 1
  if ex < f.emin then f.signBit neg + t * 2 ^ ((q - (f.emin - f.mbits)).toNat)
  else
    let sig := if l ≤ f.mbits + 1 then t * 2 ^ (f.mbits + 1 - l) else t / 2 ^ (l - f.mbits - 1)
    f.signBit neg + (ex + f.bias).toNat * 2 ^ f.mbits + (sig - 2 ^ f.mbits)

/-- The one rounding of an exact finite result: pattern and flags (R128, R131, R134). Tininess is judged after
rounding: with an unbounded exponent under RNE and RTZ, on the delivered magnitude under SR, whose own truncation uses
the subnormal spacing (DEDUCED, log entry 10). -/
def Fmt.round (f : Fmt) (rm : Rm) (sat neg : Bool) (m : Nat) (e : Int) (sticky : Bool) : Nat × Flags :=
  if m = 0 && !sticky then (f.signBit neg, 0)
  else
    let top := e + bitLen m - 1
    let qn := top - f.mbits
    let q := max qn (f.emin - f.mbits)
    let (t, inexact) := roundTo rm m e sticky q
    let ex := q + bitLen t - 1
    let sig := if bitLen t ≤ f.mbits + 1 then t * 2 ^ (f.mbits + 1 - bitLen t) else t / 2 ^ (bitLen t - f.mbits - 1)
    if t ≠ 0 && (decide (f.emax < ex) || (decide (ex = f.emax) && decide (f.maxSig < sig))) then
      f.overflow rm sat neg
    else
      let tiny : Bool :=
        match rm with
        | .sr _ => decide (t = 0) || decide (ex < f.emin)
        | _ =>
          let (t', _) := roundTo rm m e sticky qn
          decide (qn + bitLen t' - 1 < f.emin)
      (if t = 0 then f.signBit neg else f.encode neg t q,
        flagIf inexact flagNX ||| flagIf (inexact && tiny) flagUF)

/-! ## Operations (R131) -/

/-- The invalid flag of a signalling NaN operand (R128). -/
def sigFlag : FVal → Flags
  | .nan true => flagNV
  | _ => 0

/-- Whether a value is NaN. -/
def FVal.isNan : FVal → Bool
  | .nan _ => true
  | _ => false

/-- The sign of a value. -/
def FVal.neg : FVal → Bool
  | .nan _ => false
  | .inf n => n
  | .fin n _ _ => n

/-- A result before its rounding. -/
inductive Exact where
  | nan (fl : Flags)
  | inf (neg : Bool) (fl : Flags)
  | fin (neg : Bool) (m : Nat) (e : Int) (sticky : Bool)
  deriving DecidableEq, Repr, Inhabited

/-- Finishes an operation: the one rounding of its exact result (R131). -/
def Fmt.finish (f : Fmt) (rm : Rm) (sat : Bool) (pre : Flags) : Exact → Nat × Flags
  | .nan fl => (f.nanBits, pre ||| fl)
  | .inf n fl => let r := f.infinite sat n; (r.1, pre ||| fl ||| r.2)
  | .fin n m e st => let r := f.round rm sat n m e st; (r.1, pre ||| r.2)

/-- The exact sum of two signed magnitudes; an exact zero sum of opposite signs is +0 (R128). -/
def exactSum (n1 : Bool) (m1 : Nat) (e1 : Int) (n2 : Bool) (m2 : Nat) (e2 : Int) : Exact :=
  if m1 = 0 && m2 = 0 then .fin (n1 && n2) 0 0 false
  else if m1 = 0 then .fin n2 m2 e2 false
  else if m2 = 0 then .fin n1 m1 e1 false
  else
    let e := min e1 e2
    let a := m1 * 2 ^ (e1 - e).toNat
    let b := m2 * 2 ^ (e2 - e).toNat
    if n1 = n2 then .fin n1 (a + b) e false
    else if a = b then .fin false 0 0 false
    else if b < a then .fin n1 (a - b) e false else .fin n2 (b - a) e false

/-- The exact sum of two values (ADD). -/
def exactAdd (a b : FVal) : Exact :=
  match a, b with
  | .nan _, _ => .nan 0
  | _, .nan _ => .nan 0
  | .inf x, .inf y => if x = y then .inf x 0 else .nan flagNV
  | .inf x, _ => .inf x 0
  | _, .inf y => .inf y 0
  | .fin n1 m1 e1, .fin n2 m2 e2 => exactSum n1 m1 e1 n2 m2 e2

/-- The value with its sign turned. -/
def FVal.negate : FVal → FVal
  | .nan s => .nan s
  | .inf n => .inf (!n)
  | .fin n m e => .fin (!n) m e

/-- The exact product of two values (MUL). -/
def exactMul (a b : FVal) : Exact :=
  match a, b with
  | .nan _, _ => .nan 0
  | _, .nan _ => .nan 0
  | .inf x, .inf y => .inf (x != y) 0
  | .inf x, .fin y m _ => if m = 0 then .nan flagNV else .inf (x != y) 0
  | .fin x m _, .inf y => if m = 0 then .nan flagNV else .inf (x != y) 0
  | .fin x m1 e1, .fin y m2 e2 => .fin (x != y) (m1 * m2) (e1 + e2) false

/-- a × b + c, exactly; 0 × ∞ + c is invalid whatever c is (FMA). -/
def exactFma (a b c : FVal) : Exact :=
  match exactMul a b, c with
  | .nan fl, _ => .nan fl
  | .inf _ _, .nan _ => .nan 0
  | .fin _ _ _ _, .nan _ => .nan 0
  | .inf x _, .inf y => if x = y then .inf x 0 else .nan flagNV
  | .inf x _, .fin _ _ _ => .inf x 0
  | .fin _ _ _ _, .inf y => .inf y 0
  | .fin n1 m1 e1 _, .fin n2 m2 e2 => exactSum n1 m1 e1 n2 m2 e2

/-- The quotient of two values, to 80 bits and a sticky bit (DIV). -/
def exactDiv (a b : FVal) : Exact :=
  match a, b with
  | .nan _, _ => .nan 0
  | _, .nan _ => .nan 0
  | .inf _, .inf _ => .nan flagNV
  | .inf x, .fin y _ _ => .inf (x != y) 0
  | .fin x _ _, .inf y => .fin (x != y) 0 0 false
  | .fin x m1 e1, .fin y m2 e2 =>
    if m2 = 0 then (if m1 = 0 then .nan flagNV else .inf (x != y) flagDZ)
    else
      let k := bitLen m2 + 80
      .fin (x != y) (m1 * 2 ^ k / m2) (e1 - e2 - k) (decide (m1 * 2 ^ k % m2 ≠ 0))

/-- The square root, to at least 80 bits and a sticky bit (SQRT). -/
def exactSqrt : FVal → Exact
  | .nan _ => .nan 0
  | .inf n => if n then .nan flagNV else .inf false 0
  | .fin n m e =>
    if m = 0 then .fin n 0 0 false
    else if n then .nan flagNV
    else
      let odd := (e % 2).toNat
      let x := m * 2 ^ (160 + odd)
      .fin false (Nat.sqrt x) ((e - odd) / 2 - 80) (decide (Nat.sqrt x * Nat.sqrt x ≠ x))

/-- The reciprocal square root, to at least 80 bits and a sticky bit (RSQRT). -/
def exactRsqrt : FVal → Exact
  | .nan _ => .nan 0
  | .inf n => if n then .nan flagNV else .fin false 0 0 false
  | .fin n m e =>
    if m = 0 then .inf n flagDZ
    else if n then .nan flagNV
    else
      let odd := (e % 2).toNat
      let d := m * 2 ^ odd
      let k := bitLen d + 80
      let t := Nat.sqrt (2 ^ (2 * k) / d)
      .fin false t (-((e - odd) / 2) - k) (decide (t * t * d ≠ 2 ^ (2 * k)))

/-- The reciprocal (RCP). -/
def exactRcp : FVal → Exact
  | .inf n => .fin n 0 0 false
  | .fin n 0 _ => .inf n flagDZ
  | v => exactDiv (.fin false 1 0) v

/-- a × 2^n (SCALE). -/
def exactScale (a : FVal) (n : Int) : Exact :=
  match a with
  | .nan _ => .nan 0
  | .inf x => .inf x 0
  | .fin x m e => .fin x m (e + n) false

/-- A value unchanged (CVT). -/
def exactOf : FVal → Exact
  | .nan _ => .nan 0
  | .inf x => .inf x 0
  | .fin x m e => .fin x m e false

/-- ADD. -/
def opAdd (f : Fmt) (rm : Rm) (sat : Bool) (a b : Nat) : Nat × Flags :=
  let x := f.decode a
  let y := f.decode b
  f.finish rm sat (sigFlag x ||| sigFlag y) (exactAdd x y)

/-- SUB. -/
def opSub (f : Fmt) (rm : Rm) (sat : Bool) (a b : Nat) : Nat × Flags :=
  let x := f.decode a
  let y := f.decode b
  f.finish rm sat (sigFlag x ||| sigFlag y) (exactAdd x y.negate)

/-- MUL. -/
def opMul (f : Fmt) (rm : Rm) (sat : Bool) (a b : Nat) : Nat × Flags :=
  let x := f.decode a
  let y := f.decode b
  f.finish rm sat (sigFlag x ||| sigFlag y) (exactMul x y)

/-- FMA. -/
def opFma (f : Fmt) (rm : Rm) (sat : Bool) (a b c : Nat) : Nat × Flags :=
  let x := f.decode a
  let y := f.decode b
  let z := f.decode c
  f.finish rm sat (sigFlag x ||| sigFlag y ||| sigFlag z) (exactFma x y z)

/-- DIV. -/
def opDiv (f : Fmt) (rm : Rm) (sat : Bool) (a b : Nat) : Nat × Flags :=
  let x := f.decode a
  let y := f.decode b
  f.finish rm sat (sigFlag x ||| sigFlag y) (exactDiv x y)

/-- SQRT. -/
def opSqrt (f : Fmt) (rm : Rm) (sat : Bool) (a : Nat) : Nat × Flags :=
  f.finish rm sat (sigFlag (f.decode a)) (exactSqrt (f.decode a))

/-- RSQRT. -/
def opRsqrt (f : Fmt) (rm : Rm) (sat : Bool) (a : Nat) : Nat × Flags :=
  f.finish rm sat (sigFlag (f.decode a)) (exactRsqrt (f.decode a))

/-- RCP. -/
def opRcp (f : Fmt) (rm : Rm) (sat : Bool) (a : Nat) : Nat × Flags :=
  f.finish rm sat (sigFlag (f.decode a)) (exactRcp (f.decode a))

/-- SCALE. -/
def opScale (f : Fmt) (rm : Rm) (sat : Bool) (a : Nat) (n : Int) : Nat × Flags :=
  f.finish rm sat (sigFlag (f.decode a)) (exactScale (f.decode a) n)

/-- Whether a < b, −0 below +0 where `zeros` (R131). -/
def ltVal (zeros : Bool) (a b : FVal) : Bool :=
  match a, b with
  | .nan _, _ => false
  | _, .nan _ => false
  | .inf x, .inf y => x && !y
  | .inf x, _ => x
  | _, .inf y => !y
  | .fin n1 m1 e1, .fin n2 m2 e2 =>
    if m1 = 0 && m2 = 0 then zeros && n1 && !n2
    else if n1 != n2 then (if m1 = 0 then !n2 else if m2 = 0 then n1 else n1)
    else
      let e := min e1 e2
      let x := m1 * 2 ^ (e1 - e).toNat
      let y := m2 * 2 ^ (e2 - e).toNat
      if n1 then decide (y < x) else decide (x < y)

/-- MIN: IEEE 754-2019 minimum. -/
def opMin (f : Fmt) (a b : Nat) : Nat × Flags :=
  let x := f.decode a
  let y := f.decode b
  let fl := sigFlag x ||| sigFlag y
  if x.isNan || y.isNan then (f.nanBits, fl) else (if ltVal true y x then b else a, fl)

/-- MAX: IEEE 754-2019 maximum. -/
def opMax (f : Fmt) (a b : Nat) : Nat × Flags :=
  let x := f.decode a
  let y := f.decode b
  let fl := sigFlag x ||| sigFlag y
  if x.isNan || y.isNan then (f.nanBits, fl) else (if ltVal true x y then b else a, fl)

/-- The magnitude of a pattern. -/
def Fmt.magBits (f : Fmt) (a : Nat) : Nat := a % 2 ^ (f.mbits + f.ebits)

/-- ABS. -/
def opAbs (f : Fmt) (a : Nat) : Nat := if (f.decode a).isNan then f.nanBits else f.magBits a

/-- NEG. -/
def opNeg (f : Fmt) (a : Nat) : Nat :=
  if (f.decode a).isNan then f.nanBits
  else f.magBits a + f.signBit (decide (a / 2 ^ (f.mbits + f.ebits) % 2 = 0))

/-- COPYSIGN: a NaN operand gives the canonical NaN. -/
def opCopysign (f : Fmt) (a b : Nat) : Nat :=
  if (f.decode a).isNan || (f.decode b).isNan then f.nanBits
  else f.magBits a + f.signBit (decide (b / 2 ^ (f.mbits + f.ebits) % 2 = 1))

/-- A compare's mask. -/
def Fmt.mask (f : Fmt) (c : Bool) : Nat := if c then 2 ^ f.width - 1 else 0

/-- CMPEQ. -/
def opCmpEq (f : Fmt) (a b : Nat) : Nat × Flags :=
  let x := f.decode a
  let y := f.decode b
  (f.mask (!x.isNan && !y.isNan && !ltVal false x y && !ltVal false y x), sigFlag x ||| sigFlag y)

/-- CMPLT. -/
def opCmpLt (f : Fmt) (a b : Nat) : Nat × Flags :=
  let x := f.decode a
  let y := f.decode b
  (f.mask (ltVal false x y), sigFlag x ||| sigFlag y)

/-- CMPLE. -/
def opCmpLe (f : Fmt) (a b : Nat) : Nat × Flags :=
  let x := f.decode a
  let y := f.decode b
  (f.mask (!x.isNan && !y.isNan && !ltVal false y x), sigFlag x ||| sigFlag y)

/-- SELECT: a where any bit of the mask element is set. -/
def opSelect (f : Fmt) (a b mask : Nat) : Nat :=
  let v := if mask % 2 ^ f.width ≠ 0 then a else b
  if (f.decode v).isNan then f.nanBits else v

/-- CVT between two arithmetic formats; the same format copies every non-NaN value bit for bit. -/
def opCvt (src dst : Fmt) (rm : Rm) (sat : Bool) (a : Nat) : Nat × Flags :=
  let x := src.decode a
  if src = dst then (if x.isNan then (dst.nanBits, sigFlag x) else (a, 0))
  else dst.finish rm sat (sigFlag x) (exactOf x)

/-! ## The aligned pairwise tree (R132) -/

/-- The value of the node covering `2 ^ j` leaves from index `base` on, over the present leaves; none where no leaf is
present. -/
def treeNode {α : Type} (add : α → α → α) (leaves : List (Nat × α)) : Nat → Nat → Option α
  | 0, base => (leaves.find? (fun p => p.1 == base)).map (·.2)
  | j + 1, base =>
    match treeNode add (leaves.filter fun p => p.1 < base + 2 ^ j) j base,
          treeNode add (leaves.filter fun p => base + 2 ^ j ≤ p.1) j (base + 2 ^ j) with
    | some l, some r => some (add l r)
    | some l, none => some l
    | none, r => r

/-- The sum of a range: the smallest node of the tree aligned to index 0 that covers it (R132). -/
def treeSum {α : Type} (add : α → α → α) (leaves : List (Nat × α)) : Option α :=
  let last := leaves.foldl (fun m p => max m p.1) 0
  treeNode add leaves (bitLen last) 0

/-- ADD lifted to values with the flags raised so far. -/
def addF (f : Fmt) (rm : Rm) (sat : Bool) (a b : Nat × Flags) : Nat × Flags :=
  let r := opAdd f rm sat a.1 b.1
  (r.1, a.2 ||| b.2 ||| r.2)

/-- SUM over numbered leaves; a NaN that no ADD met is made canonical (R128; DEDUCED, log entry 11). -/
def opSum (f : Fmt) (rm : Rm) (sat : Bool) (leaves : List (Nat × Nat)) : Nat × Flags :=
  match treeSum (addF f rm sat) (leaves.map fun p => (p.1, (p.2, (0 : Flags)))) with
  | none => (0, 0)
  | some (v, fl) =>
    let x := f.decode v
    if x.isNan then (f.nanBits, fl ||| sigFlag x) else (v, fl)

/-- A compensated pair (s, e) with the flags raised so far (R136). -/
abbrev CPair := (Nat × Nat) × Flags

/-- Two compensated pairs combined, every step in FP32 under RNE (R136). -/
def compNode (x y : CPair) : CPair :=
  let s := opAdd fp32 .rne false x.1.1 y.1.1
  let bb := opSub fp32 .rne false s.1 x.1.1
  let a := opSub fp32 .rne false s.1 bb.1
  let b := opSub fp32 .rne false x.1.1 a.1
  let c := opSub fp32 .rne false y.1.1 bb.1
  let t := opAdd fp32 .rne false b.1 c.1
  let d := opAdd fp32 .rne false x.1.2 y.1.2
  let e := opAdd fp32 .rne false d.1 t.1
  ((s.1, e.1), x.2 ||| y.2 ||| s.2 ||| bb.2 ||| a.2 ||| b.2 ||| c.2 ||| t.2 ||| d.2 ||| e.2)

/-- KADD: s', c' and the flags (R136). -/
def opKadd (f : Fmt) (rm : Rm) (sat : Bool) (s a c : Nat) : Nat × Nat × Flags :=
  let y := opSub f rm sat a c
  let t := opAdd f rm sat s y.1
  let d := opSub f rm sat t.1 s
  let c' := opSub f rm sat d.1 y.1
  (t.1, c'.1, y.2 ||| t.2 ||| d.2 ||| c'.2)

/-! ## Microscaling (R129, R130) -/

/-- Exponent of the largest element magnitude, by code (R130). -/
def mxEmax : Nat → Int
  | 0x8 => 8
  | 0x9 => 15
  | 0xA => 2
  | 0xB => 4
  | 0xC => 2
  | _ => 0

/-- An MXINT8 element: the value times 2^6 rounded to an integer, saturating to ±127 (R130). -/
def mxIntElem (rm : Rm) (neg : Bool) (m : Nat) (e : Int) : Nat × Flags :=
  let (t, inexact) := roundTo rm m (e + 6) false 0
  let mag := min t 127
  ((if neg then 256 - mag else mag) % 256,
    flagIf (inexact || decide (127 < t)) flagNX ||| flagIf (decide (127 < t)) flagSAT)

/-- A store of one block of FP32 values to an MX format: the scale byte, the elements and the flags; `draws` are the
draws of the elements where the mode is stochastic (R130). -/
def mxStore (code : Nat) (rm : Nat → Rm) (vs : List Nat) : Nat × List Nat × Flags :=
  let xs := vs.map fp32.decode
  let bad := xs.any fun x => match x with | .fin _ _ _ => false | _ => true
  if bad then (0xFF, xs.map fun _ => 0, flagNV)
  else if xs.all (fun x => match x with | .fin _ 0 _ => true | _ => false) then (0, xs.map fun _ => 0, 0)
  else
    let top := xs.foldl (fun (t : Int) x => match x with
      | .fin _ (m + 1) e => max t (e + bitLen (m + 1) - 1)
      | _ => t) (-200)
    let x := max (-127) (min 127 (top - mxEmax code))
    let res := xs.zipIdx.map fun (v, i) => match v with
      | .fin n m e =>
        match fmtOf code with
        | some f => f.round (rm i) true n m (e - x) false
        | none => mxIntElem (rm i) n m (e - x)
      | _ => (0, 0)
    ((x + 127).toNat, res.map (·.1), res.foldl (fun fl r => fl ||| r.2) 0)

/-- A load of one MX element under its scale byte, to FP32 (R130). -/
def mxLoad (code scale el : Nat) : Nat × Flags :=
  if scale = 0xFF then (fp32.nanBits, 0)
  else
    let v : FVal :=
      match fmtOf code with
      | some f => f.decode el
      | none =>
        let neg := decide (128 ≤ el % 256)
        .fin neg (if neg then 256 - el % 256 else el % 256) (-6)
    match v with
    | .nan _ => (fp32.nanBits, 0)
    | .inf n => (fp32.infBits n, 0)
    | .fin n m e => fp32.round .rne false n m (e + scale - 127) false

/-! ## The stochastic-rounding generator (R135) -/

/-- One round of the generator. -/
def srRound (k0 k1 : BitVec 32) (x : BitVec 32 × BitVec 32 × BitVec 32 × BitVec 32) :
    BitVec 32 × BitVec 32 × BitVec 32 × BitVec 32 :=
  let p : BitVec 64 := (0xE817FB2D#64) * x.1.setWidth 64
  let q : BitVec 64 := (0xC873D3A5#64) * x.2.2.1.setWidth 64
  (q.extractLsb' 32 32 ^^^ x.2.1.rotateLeft 11 ^^^ k0,
   q.extractLsb' 0 32 + x.2.2.2,
   p.extractLsb' 32 32 ^^^ x.2.2.2.rotateLeft 5 ^^^ k1,
   p.extractLsb' 0 32 + x.2.1)

/-- `n` rounds, the keys advancing. -/
def srRounds : Nat → BitVec 32 → BitVec 32 → BitVec 32 × BitVec 32 × BitVec 32 × BitVec 32 →
    BitVec 32 × BitVec 32 × BitVec 32 × BitVec 32
  | 0, _, _, x => x
  | n + 1, k0, k1, x => srRounds n (k0 + 0x6A09E667#32) (k1 + 0x3C6EF372#32) (srRound k0 k1 x)

/-- The 32-bit draw of an element (R135). -/
def srDraw (tenant epoch tensor lpanel elem salt : Nat) : BitVec 32 :=
  let r := srRounds 8
    (BitVec.ofNat 32 (epoch % 65536 * 65536 + tenant)) (BitVec.ofNat 32 (epoch / 65536))
    (BitVec.ofNat 32 lpanel, BitVec.ofNat 32 (tensor * 256 + lpanel / 2 ^ 32 % 256),
     BitVec.ofNat 32 (salt * 2 ^ 24 + elem / 4), 0x4D4E3331#32)
  match elem % 4 with
  | 0 => r.1
  | 1 => r.2.1
  | 2 => r.2.2.1
  | _ => r.2.2.2

end Sys2Proof.Machine
end

