-- ==== Sys2Proof/Machine/Operands.lean ====
section
/-! DEFINITION. Update programs at run time: instruction words, operand descriptors, the sequencer with its hardware
loops, and the effect of one instruction on the working area (R156 to R166). -/

namespace Sys2Proof.Machine

/-! ## Instruction words (R161) -/

/-- The fields of an instruction word; arithmetic and control instructions read different ones (R161). -/
structure Ins where
  op : Nat
  fmt : Nat
  fmt2 : Nat
  rm : Nat
  sat : Bool
  salt : Nat
  d : Nat
  a : Nat
  b : Nat
  c : Nat
  level : Nat
  src : Bool
  creg : Nat
  imm : Nat
  deriving DecidableEq, Repr, Inhabited

/-- The fields of a word (R161). -/
def insOf (w : BitVec 64) : Ins :=
  let f (lo n : Nat) : Nat := bitsOf w.toNat lo n
  { op := f 0 8, fmt := f 8 4, fmt2 := f 12 4, rm := f 16 2, sat := w.getLsbD 18, salt := f 24 8,
    d := f 32 8, a := f 40 8, b := f 48 8, c := f 56 8,
    level := f 8 3, src := w.getLsbD 11, creg := f 12 2, imm := f 16 16 }

/-- Opcodes of the control instructions (R162). -/
def opLOOP : Nat := 0x40
def opEND : Nat := 0x41
def opSETC : Nat := 0x42

/-- Descriptor kinds (R158). -/
def kWORK : Nat := 0
def kINTAKE : Nat := 1
def kCONST : Nat := 2
def kEPOCH : Nat := 3
def kACC : Nat := 4

/-- The rounding mode of an instruction, an SR draw given (R133). -/
def rmOf (rm : Nat) (draw : Nat) : Rm :=
  match rm with
  | 0 => .rne
  | 1 => .rtz
  | _ => .sr draw

/-! ## Streams and stage areas (R151 to R153, R129) -/

/-- Elements per panel of an MX code (R129). -/
def mxPerPanel : Nat → Nat
  | 0xA => 5440
  | 0xB => 5440
  | 0xC => 8192
  | _ => 4096

/-- Bytes of a block of 32 elements of an MX code (R129). -/
def mxBlockBytes : Nat → Nat
  | 0xA => 24
  | 0xB => 24
  | 0xC => 16
  | _ => 32

/-- The record size RB of a stream in bytes; an MX stream's elements are packed and have none (R151). -/
def recBytes (st : Stream) : Nat := st.f * fmtBytes st.fmt

/-- Elements per panel of a stream (R152, R171). -/
def perPanel (st : Stream) : Nat := if isMx st.fmt then mxPerPanel st.fmt else 4096 / max 1 (recBytes st)

/-- The strip length N of a driving format (R152). -/
def stripLen : Nat → Nat
  | 0x0 => 1024
  | 0x1 => 2048
  | 0x2 => 2048
  | 0x3 => 4096
  | 0x4 => 4096
  | c => mxPerPanel c

/-- The driving stream of a program (R152). -/
def drivingStream (p : Program) : Option Stream := p.streams.find? fun s => s.no == p.drive

/-- N of a program (R152). -/
def progN (p : Program) : Nat := match drivingStream p with | some s => stripLen s.fmt | none => 1024

/-- The MX stream whose scales the stream holds, if it is a scale stream (R129, R168). -/
def scaledBy (p : Program) (st : Stream) : Option Stream :=
  p.streams.find? fun m => isMx m.fmt && m.scale == st.no && m.no != st.no

/-- Bytes of the stage area of a stream for one strip: N records, or the packed blocks of an MX stream, or one byte
per block of a scale stream (R129, R151; DEDUCED for the last two, log entry 12). The scalar page is one panel. -/
def stageLen (p : Program) (st : Stream) : Nat :=
  let n := progN p
  if st.role = .scalar then 4096
  else if isMx st.fmt then
    if n % mxPerPanel st.fmt = 0 then n / mxPerPanel st.fmt * 4096 else n / 32 * mxBlockBytes st.fmt
  else if (scaledBy p st).isSome then n / 32
  else n * recBytes st

/-- Total accumulator elements of a program (R157). -/
def accElems (p : Program) : Nat := p.accs.foldl (· + ·) 0

/-- What a byte of the program window is (R156, R159). -/
inductive ByteClass where
  | stage (no : Nat) (role : Role)
  | odd
  | scalar
  | accTree
  | temp
  | outside
  deriving DecidableEq, Repr, Inhabited

/-- The class of a local-store address for a program (R156, R157, R159). -/
def classOf (p : Program) (a : Nat) : ByteClass :=
  if a < p.wbase ∨ p.wbase + p.wlen ≤ a then .outside
  else
    let inArea (s : Stream) : Bool := decide (s.stage ≤ a) && decide (a < s.stage + stageLen p s)
    let inOdd (s : Stream) : Bool :=
      s.role != .scalar && decide (s.stage + stageLen p s ≤ a) && decide (a < s.stage + 2 * stageLen p s)
    match p.streams.find? inArea with
    | some s => if s.role = .scalar then .scalar else .stage s.no s.role
    | none =>
      if p.streams.any inOdd then .odd
      else if p.wbase + p.wlen - 128 * accElems p ≤ a then .accTree
      else .temp

/-! ## Descriptors (R158, R159) -/

/-- The index of a loop level, 0 when it is not active; `loops` holds the open loops, innermost first, as level,
first instruction, latched count and index. -/
abbrev Loops := List (Nat × Nat × Nat × Nat)

/-- idx(v) of R159. -/
def loopIdx (ls : Loops) (v : Nat) : Nat := match ls.find? (fun l => l.1 == v) with | some l => l.2.2.2 | none => 0

/-- The latched count of a level, 1 when it is not active. -/
def loopCount (ls : Loops) (v : Nat) : Nat := match ls.find? (fun l => l.1 == v) with | some l => l.2.2.1 | none => 1

/-- The address, or the gradient offset, of element `i` with the given indices (R159). -/
def elemAddr (d : Desc) (i i1 i2 : Nat) : Int :=
  d.addr + i * d.stride + (if d.lvl1 = 0 then 0 else i1 * d.lstep1) + (if d.lvl2 = 0 then 0 else i2 * d.lstep2)

/-- The addresses of all elements over every iteration of the loops the descriptor is bound to (R160). -/
def elemAddrs (d : Desc) (n1 n2 : Nat) : List Int :=
  (List.range d.count).flatMap fun i => (List.range (if d.lvl1 = 0 then 1 else n1)).flatMap fun j =>
    (List.range (if d.lvl2 = 0 then 1 else n2)).map fun k => elemAddr d i j k

/-- The lowest and highest element address over the loops, from the signs of the steps. -/
def addrBounds (d : Desc) (n1 n2 : Nat) : Int × Int :=
  let part (k : Nat) (st : Int) : Int × Int := let v := ((k - 1 : Nat) : Int) * st; (min 0 v, max 0 v)
  let a := part d.count d.stride
  let b := if d.lvl1 = 0 then (0, 0) else part n1 d.lstep1
  let c := if d.lvl2 = 0 then (0, 0) else part n2 d.lstep2
  (d.addr + a.1 + b.1 + c.1, d.addr + a.2 + b.2 + c.2)

/-- What a section run or a strip sees (R156, R159, R163). -/
structure RunCtx where
  prog : Program
  /-- Where the program's constants lie in the local store (R169). -/
  pool : Nat
  odd : Bool
  /-- The summed gradient at an element of the strip, as FP32 (R142). -/
  grad : Nat → Nat
  /-- The epoch the sweep produces (R159). -/
  epoch : Nat
  /-- The values of the accumulators by element identity, for MID and BODY (R157). -/
  acc : Nat → Nat
  /-- Tenant, tensor, logical driving panel of the strip (R135, R163). -/
  tenant : Nat
  tensor : Nat
  lpanel : Nat
  /-- The lane slots an instruction issues (R172). -/
  slots : Ins → Nat

/-- The moving part of a run: the working area, the accumulator leaves of the strip, and the flags raised. -/
structure RunSt where
  work : NMap Byte
  leaves : List (Nat × BitVec 32)
  flags : Flags
  /-- Lane slots issued so far (R31, R172). -/
  issued : Nat := 0
  deriving DecidableEq, Repr

/-- The shift of an odd strip: a WORK operand whose whole range lies in one stage area moves up by its length
(R159). -/
def oddShift (c : RunCtx) (ls : Loops) (d : Desc) (size : Nat) : Nat :=
  if !c.odd then 0
  else
    let b := addrBounds d (loopCount ls d.lvl1) (loopCount ls d.lvl2)
    match c.prog.streams.find? fun s => s.role != .scalar && decide ((s.stage : Int) ≤ b.1) &&
        decide (b.2 + size ≤ (s.stage + stageLen c.prog s : Nat)) with
    | some s => stageLen c.prog s
    | none => 0

/-- The local-store address of element `i` of a WORK operand in the run (R159). -/
def workAddr (c : RunCtx) (ls : Loops) (d : Desc) (size i : Nat) : Nat :=
  (elemAddr d i (loopIdx ls d.lvl1) (loopIdx ls d.lvl2)).toNat + oddShift c ls d size

/-- EPOCH rounded to FP32 under RNE, with its flags (R159). -/
def epochWord (e : Nat) : Nat × Flags := fp32.round .rne false false e 0 false

/-- Element `i` of an operand, read at `size` bytes (R159). A COUNT-1 source gives its one element for every i (R160). A
gradient offset that is no multiple of 4 reads the element it lies in (DESIGN CHOICE, log entry 191). -/
def readElem (c : RunCtx) (s : RunSt) (ls : Loops) (d : Desc) (size i : Nat) : Nat × Flags :=
  let i := if d.count = 1 then 0 else i
  if d.kind = kWORK then (leNat (Mem.readN (2 ^ 23) s.work (workAddr c ls d size i) size), 0)
  else if d.kind = kINTAKE then
    (c.grad ((elemAddr d i (loopIdx ls d.lvl1) (loopIdx ls d.lvl2)).toNat / 4) % 2 ^ (8 * size), 0)
  else if d.kind = kCONST then (leNat (Mem.readN (2 ^ 23) s.work (c.pool + 4 * d.addr) size), 0)
  else if d.kind = kEPOCH then let r := epochWord c.epoch; (r.1 % 2 ^ (8 * size), r.2)
  else (c.acc (d.addr + i) % 2 ^ (8 * size), 0)

/-- Writes element `i` of a destination: the working area, or the strip's accumulator leaf (R157, R159). A narrower format
leaves its pattern in the low bits of the leaf (DESIGN CHOICE, log entry 190). -/
def writeElem (c : RunCtx) (s : RunSt) (ls : Loops) (d : Desc) (size i v : Nat) : RunSt :=
  if d.kind = kACC then
    { s with leaves := (s.leaves.filter fun p => p.1 != d.addr + i) ++ [(d.addr + i, BitVec.ofNat 32 v)] }
  else { s with work := Mem.writeN (2 ^ 23) s.work (workAddr c ls d size i) (leBytes size v) }

/-- Packed element `i` of an MX operand (R129): byte, 6-bit or 4-bit elements from its block-aligned address. MXFP6
panels end in 16 padding bytes, which a load skips. -/
def mxElemPos (code base i : Nat) : Nat × Nat :=
  if code = 0xA ∨ code = 0xB then
    let panel := i / 5440
    let j := i % 5440
    (base + panel * 4096 + j / 32 * 24, 6 * (j % 32))
  else if code = 0xC then (base, 4 * i)
  else (base, 8 * i)

/-- Bits of an MX element. -/
def mxBits (code : Nat) : Nat := if code = 0xA ∨ code = 0xB then 6 else if code = 0xC then 4 else 8

/-- Reads packed element `i`. -/
def mxRead (w : NMap Byte) (code base i : Nat) : Nat :=
  let (a, bit) := mxElemPos code base i
  bitsOf (leNat (Mem.readN (2 ^ 23) w (a + bit / 8) 2)) (bit % 8) (mxBits code)

/-- Writes packed element `i`. -/
def mxWrite (w : NMap Byte) (code base i v : Nat) : NMap Byte :=
  let (a, bit) := mxElemPos code base i
  let old := leNat (Mem.readN (2 ^ 23) w (a + bit / 8) 2)
  let field := bitsOf old (bit % 8) (mxBits code)
  Mem.writeN (2 ^ 23) w (a + bit / 8) (leBytes 2 (old - field * 2 ^ (bit % 8) + v % 2 ^ mxBits code * 2 ^ (bit % 8)))

/-- The element index of an SR draw: the destination element's position in its strip (R163). `addr` is the element's
address; for an MX destination it is the address of its first block. -/
def drawPos (c : RunCtx) (d : Desc) (fmt i : Nat) (addr : Nat) : Nat :=
  match c.prog.streams.find? fun s => s.role != .scalar && decide (s.stage ≤ d.addr) &&
      decide (d.addr < s.stage + stageLen c.prog s) with
  | none => i
  | some s =>
    let base := s.stage + (if c.odd then stageLen c.prog s else 0)
    if isMx fmt then (addr - base) / mxBlockBytes fmt * 32 + i else (addr - base) / max 1 (recBytes s)

/-- The draw of a destination element (R135, R163). -/
def drawOf (c : RunCtx) (salt pos : Nat) : Nat :=
  (srDraw c.tenant c.epoch c.tensor c.lpanel pos salt).toNat

/-- One element of an arithmetic instruction with one result (R131, R162). -/
def aluElem (f : Fmt) (op : Nat) (rm : Rm) (sat : Bool) (a b c : Nat) : Nat × Flags :=
  match op with
  | 0x01 => opAdd f rm sat a b
  | 0x02 => opSub f rm sat a b
  | 0x03 => opMul f rm sat a b
  | 0x04 => opFma f rm sat a b c
  | 0x05 => opDiv f rm sat a b
  | 0x06 => opSqrt f rm sat a
  | 0x07 => opRsqrt f rm sat a
  | 0x08 => opRcp f rm sat a
  | 0x09 => opScale f rm sat a (BitVec.ofNat 32 b).toInt
  | 0x0A => opMin f a b
  | 0x0B => opMax f a b
  | 0x0C => (opAbs f a, 0)
  | 0x0D => (opNeg f a, 0)
  | 0x0E => (opCopysign f a b, 0)
  | 0x0F => opCmpEq f a b
  | 0x10 => opCmpLt f a b
  | 0x11 => opCmpLe f a b
  | _ => (opSelect f a b c, 0)

/-- The results written back in order, after every source element was read (R160). -/
def writeAll (c : RunCtx) (s : RunSt) (ls : Loops) (d : Desc) (size : Nat) (vs : List (Nat × Flags)) : RunSt :=
  vs.zipIdx.foldl (fun s p =>
    let s := writeElem c s ls d size p.2 p.1.1
    { s with flags := s.flags ||| p.1.2 }) s

/-- One arithmetic instruction (R131, R160, R162). -/
def execArith (c : RunCtx) (s : RunSt) (ls : Loops) (x : Ins) : RunSt :=
  let ds := c.prog.descs
  let dd := ds.getD x.d default
  let da := ds.getD x.a default
  let db := ds.getD x.b default
  let dc := ds.getD x.c default
  let f := (fmtOf x.fmt).getD fp32
  let sz := fmtBytes x.fmt
  let src (d : Desc) (size i : Nat) : Nat × Flags := readElem c s ls d size i
  if x.op = 0x13 then
    if isMx x.fmt2 then
      -- An MX load: B holds the scales.
      let base := workAddr c ls da 1 0
      writeAll c s ls dd 4 ((List.range dd.count).map fun i =>
        mxLoad x.fmt2 (src db 1 (i / 32)).1 (mxRead s.work x.fmt2 base i))
    else if isMx x.fmt then
      -- An MX store: C takes the scales.
      let base := workAddr c ls dd 1 0
      (List.range (dd.count / 32)).foldl (fun t b =>
        let vs := (List.range 32).map fun i => (src da 4 (32 * b + i)).1
        let fl := (List.range 32).foldl (fun (g : Flags) i => g ||| (src da 4 (32 * b + i)).2) 0
        let r := mxStore x.fmt (fun i => rmOf x.rm (drawOf c x.salt (drawPos c dd x.fmt (32 * b + i) base))) vs
        let w := r.2.1.zipIdx.foldl (fun w p => mxWrite w x.fmt base (32 * b + p.2) p.1) t.work
        let t : RunSt := { t with work := w, flags := t.flags ||| fl ||| r.2.2 }
        writeElem c t ls dc 1 b r.1) s
    else
      let g := (fmtOf x.fmt2).getD fp32
      writeAll c s ls dd sz ((List.range dd.count).map fun i =>
        let a := src da (fmtBytes x.fmt2) i
        let r := opCvt g f (rmOf x.rm (drawOf c x.salt (drawPos c dd x.fmt i (workAddr c ls dd sz i)))) x.sat a.1
        (r.1, a.2 ||| r.2))
  else if x.op = 0x14 then
    let es := (List.range da.count).map fun i => src da sz i
    let r := opSum f (rmOf x.rm 0) x.sat (es.zipIdx.map fun p => (p.2, p.1.1))
    writeAll c s ls dd sz [(r.1, es.foldl (fun g e => g ||| e.2) r.2)]
  else if x.op = 0x15 then
    let rs := (List.range dd.count).map fun i =>
      opKadd f (rmOf x.rm 0) x.sat (src dd sz i).1 (src da sz i).1 (src db sz i).1
    let fl := (List.range dd.count).foldl (fun (g : Flags) i => g ||| (src da sz i).2) 0
    let s := writeAll c s ls dd sz (rs.map fun r => (r.1, r.2.2 ||| fl))
    writeAll c s ls db sz (rs.map fun r => (r.2.1, 0))
  else
    writeAll c s ls dd sz ((List.range dd.count).map fun i =>
      let a := src da sz i
      let b := if x.op = 0x09 then src db 4 i else src db sz i
      let k := src dc sz i
      let r := aluElem f x.op (rmOf x.rm 0) x.sat a.1 b.1 k.1
      let used : Flags := a.2 ||| (if x.op ∈ [0x01, 0x02, 0x03, 0x04, 0x05, 0x09, 0x0A, 0x0B, 0x0E, 0x0F, 0x10, 0x11, 0x12]
        then b.2 else 0) ||| (if x.op = 0x04 ∨ x.op = 0x12 then k.2 else 0)
      (r.1, r.2 ||| used))

/-! ## The sequencer (R164, R166) -/

/-- The position of the END matching the LOOP whose body begins at `pc`. -/
def matchEnd (is : List (BitVec 64)) : Nat → Nat → Nat → Nat
  | 0, pc, _ => pc
  | n + 1, pc, depth =>
    match is[pc]? with
    | none => pc
    | some w =>
      let x := insOf w
      if x.op = opLOOP then matchEnd is n (pc + 1) (depth + 1)
      else if x.op = opEND then (if depth = 0 then pc else matchEnd is n (pc + 1) (depth - 1))
      else matchEnd is n (pc + 1) depth

/-- The sequencer of one section run: position, open loops, count registers and the run's own state. -/
structure Seq where
  pc : Nat
  loops : Loops
  cregs : List Nat
  st : RunSt

/-- How a section run ends. -/
inductive RunEnd where
  | done (s : RunSt)
  /-- R166: event 0x93, after what the run had issued and raised. -/
  | stopped (s : RunSt)
  deriving DecidableEq, Repr

/-- The operand fields an instruction uses, as (D, A, B, C). -/
def usesOf (x : Ins) : Bool × Bool × Bool × Bool :=
  if x.op ∈ [0x01, 0x02, 0x03, 0x05, 0x09, 0x0A, 0x0B, 0x0E, 0x0F, 0x10, 0x11, 0x15] then (true, true, true, false)
  else if x.op = 0x04 ∨ x.op = 0x12 then (true, true, true, true)
  else if x.op = 0x13 then (true, true, isMx x.fmt2, isMx x.fmt)
  else if x.op = opLOOP ∨ x.op = opEND then (false, false, false, false)
  else if x.op = opSETC then (false, x.src, false, false)
  else (true, true, false, false)

/-- Where the constant pool of a bank lies in the local store (R169). -/
def poolBase (bank : Bool) : Nat := if bank then 0x7FF000 else 0x7FE000

/-- The constants of an image in program order (R169). -/
def Image.poolBytes (i : Image) : List Byte := i.progs.flatMap fun p => p.consts.flatMap fun w => leBytes 4 w.toNat

/-- A working area with the constant pool of a bank placed (R169). -/
def placePool (w : NMap Byte) (bank : Bool) (i : Image) : NMap Byte :=
  Mem.writeN (2 ^ 23) (Mem.zero w (poolBase bank) 4096) (poolBase bank) (i.poolBytes.take 4096)

/-- The descriptors an instruction names. -/
def usedDescs (x : Ins) : List Nat :=
  let u := usesOf x
  (if u.1 then [x.d] else []) ++ (if u.2.1 then [x.a] else []) ++ (if u.2.2.1 then [x.b] else []) ++
    (if u.2.2.2 then [x.c] else [])

/-- Bytes of a packed MX operand of `n` elements (R129). -/
def mxSpan (code n : Nat) : Nat :=
  let per := mxPerPanel code
  if n = 0 then 0 else (n - 1) / per * 4096 + ((n - 1) % per / 32 + 1) * mxBlockBytes code

/-- Whether an operand of an instruction leaves, at the present loop indices, the window (WORK) or the strip's gradient
(INTAKE): a loop whose count came from an operand has carried it there (R166; DEDUCED, log entry 170). Aligned elements
that begin inside end inside; a packed MX operand has its own extent. -/
def leavesRange (c : RunCtx) (ls : Loops) (x : Ins) : Bool :=
  (usedDescs x).any fun k =>
    let d := c.prog.descs.getD k default
    let first := elemAddr d 0 (loopIdx ls d.lvl1) (loopIdx ls d.lvl2)
    let last := elemAddr d (d.count - 1) (loopIdx ls d.lvl1) (loopIdx ls d.lvl2)
    let extent : Nat := if x.op = 0x13 ∧ k = x.a ∧ isMx x.fmt2 then mxSpan x.fmt2 d.count
      else if x.op = 0x13 ∧ k = x.d ∧ isMx x.fmt then mxSpan x.fmt d.count else 1
    let lo := min first last
    let hi := max first last + extent
    if d.kind = kWORK then decide (lo < c.prog.wbase) || decide (((c.prog.wbase + c.prog.wlen : Nat) : Int) < hi)
    else if d.kind = kINTAKE then decide (lo < 0) || decide (((4 * progN c.prog : Nat) : Int) < hi)
    else false

/-- The loops and instructions of a section, one at a time, with fuel (R164). -/
def runSeq (c : RunCtx) (is : List (BitVec 64)) : Nat → Seq → RunEnd
  | 0, q => .done q.st
  | n + 1, q =>
    match is[q.pc]? with
    | none => .done q.st
    | some w =>
      let x := insOf w
      if x.op = opLOOP then
        let count := if x.src then q.cregs.getD x.creg 0 else x.imm
        if count = 0 then runSeq c is n { q with pc := matchEnd is is.length (q.pc + 1) 0 + 1 }
        else runSeq c is n { q with pc := q.pc + 1, loops := (x.level, q.pc + 1, count, 0) :: q.loops }
      else if x.op = opEND then
        match q.loops with
        | [] => runSeq c is n { q with pc := q.pc + 1 }
        | (lv, first, count, i) :: rest =>
          if i + 1 < count then runSeq c is n { q with pc := first, loops := (lv, first, count, i + 1) :: rest }
          else runSeq c is n { q with pc := q.pc + 1, loops := rest }
      else if leavesRange c q.loops x then .stopped q.st
      else if x.op = opSETC then
        let v := if x.src then (readElem c q.st q.loops (c.prog.descs.getD x.a default) 4 0).1 else x.imm
        if 65535 < v then .stopped q.st
        else runSeq c is n { q with pc := q.pc + 1, cregs := q.cregs.set x.creg v }
      else
        let st := execArith c q.st q.loops x
        runSeq c is n { q with pc := q.pc + 1, st := { st with issued := st.issued + c.slots x } }

/-- More steps than any section of R174 can take: four nested loops of 65,535 over 4,096 instructions. -/
def sectionFuel : Nat := 2 ^ 80

/-- One section run or one strip from its first instruction, count registers zero (R156, R164). -/
def runSection (c : RunCtx) (is : List (BitVec 64)) (s : RunSt) : RunEnd :=
  runSeq c is sectionFuel { pc := 0, loops := [], cregs := [0, 0, 0, 0], st := s }

end Sys2Proof.Machine
end

