-- ==== Sys2Proof/Machine/Program.lean ====
section
/-! DEFINITION. Program images: their layout, the checks of the translation in their order, and the counts it reports
(R167 to R174). -/

namespace Sys2Proof.Machine

/-! ## Layout (R167, R168) -/

/-- The next 8-byte boundary. -/
def align8 (o : Nat) : Nat := (o + 7) / 8 * 8

/-- A signed field of `n` bits. -/
def signedOf (n v : Nat) : Int := if v < 2 ^ (n - 1) then v else (v : Int) - (2 ^ n : Nat)

/-- A program as it lies in an image: its header offset and its tables (R168). -/
structure RawProg where
  off : Nat
  nstream : Nat
  nacc : Nat
  ndesc : Nat
  nconst : Nat
  npro : Nat
  nred : Nat
  nmid : Nat
  nbody : Nat
  oStream : Nat
  oAcc : Nat
  oDesc : Nat
  oConst : Nat
  oPro : Nat
  oRed : Nat
  oMid : Nat
  oBody : Nat
  fin : Nat
  deriving DecidableEq, Repr, Inhabited

/-- The tables of the program whose header lies at `o` (R168). -/
def rawProg (bs : List Byte) (o : Nat) : RawProg :=
  let ns := leField bs o 1
  let na := leField bs (o + 2) 1
  let nd := leField bs (o + 4) 2
  let nc := leField bs (o + 6) 2
  let np := leField bs (o + 8) 2
  let nr := leField bs (o + 10) 2
  let nm := leField bs (o + 12) 2
  let nb := leField bs (o + 14) 2
  let oS := align8 (o + 64)
  let oA := align8 (oS + 16 * ns)
  let oD := align8 (oA + 2 * na)
  let oC := align8 (oD + 16 * nd)
  let oP := align8 (oC + 4 * nc)
  let oR := oP + 8 * np
  let oM := oR + 8 * nr
  let oB := oM + 8 * nm
  { off := o, nstream := ns, nacc := na, ndesc := nd, nconst := nc, npro := np, nred := nr, nmid := nm, nbody := nb,
    oStream := oS, oAcc := oA, oDesc := oD, oConst := oC, oPro := oP, oRed := oR, oMid := oM, oBody := oB,
    fin := oB + 8 * nb }

/-- The programs of an image, each starting on the next 8-byte boundary (R167). -/
def rawProgs (bs : List Byte) : Nat → Nat → List RawProg
  | 0, _ => []
  | n + 1, o => let p := rawProg bs (align8 o); p :: rawProgs bs n p.fin

/-- The raw programs of an image (R167). -/
def imageRaw (bs : List Byte) : List RawProg := rawProgs bs (leField bs 6 2) (64 + 4 * leField bs 8 2)

/-- Words of eight bytes from an offset. -/
def wordsAt (bs : List Byte) (o n : Nat) : List (BitVec 64) :=
  (List.range n).map fun i => BitVec.ofNat 64 (leField bs (o + 8 * i) 8)

/-- A stream entry (R168). -/
def streamAt (bs : List Byte) (o : Nat) : Stream :=
  let b0 := leField bs o 1
  let b1 := leField bs (o + 1) 1
  { no := b0 % 16,
    role := match b0 / 16 with | 0 => .in_ | 1 => .inout | 2 => .out | 3 => .derived | _ => .scalar,
    fmt := b1 % 16, f := bitsOf b1 4 3, scale := leField bs (o + 2) 1 % 16, stage := leField bs (o + 4) 4 % 2 ^ 23 }

/-- A descriptor (R158). -/
def descAt (bs : List Byte) (o : Nat) : Desc :=
  let w0 := leField bs o 4
  { addr := w0 % 2 ^ 23, kind := bitsOf w0 23 3, count := leField bs (o + 4) 2 % 2 ^ 15,
    stride := signedOf 16 (leField bs (o + 6) 2),
    lstep1 := signedOf 24 (leField bs (o + 8) 3), lvl1 := leField bs (o + 11) 1 % 8,
    lstep2 := signedOf 24 (leField bs (o + 12) 3), lvl2 := leField bs (o + 15) 1 % 8 }

/-- A program's tables read (R168). -/
def programOf (bs : List Byte) (r : RawProg) : Program :=
  { streams := (List.range r.nstream).map fun i => streamAt bs (r.oStream + 16 * i),
    drive := leField bs (r.off + 1) 1,
    accs := (List.range r.nacc).map fun i => leField bs (r.oAcc + 2 * i) 2,
    descs := (List.range r.ndesc).map fun i => descAt bs (r.oDesc + 16 * i),
    consts := (List.range r.nconst).map fun i => BitVec.ofNat 32 (leField bs (r.oConst + 4 * i) 4),
    pro := wordsAt bs r.oPro r.npro, red := wordsAt bs r.oRed r.nred,
    mid := wordsAt bs r.oMid r.nmid, body := wordsAt bs r.oBody r.nbody,
    wbase := leField bs (r.off + 16) 4 % 2 ^ 23, wlen := leField bs (r.off + 20) 4 % 2 ^ 23 }

/-- The binding entries: tenant, group, program (R167). -/
def bindsOf (bs : List Byte) : List (Tag × Nat × Nat) :=
  (List.range (leField bs 8 2)).map fun i =>
    let w := leField bs (64 + 4 * i) 4
    (BitVec.ofNat 16 w, bitsOf w 16 4, bitsOf w 20 4)

/-- The image as data (R167). -/
def imageOf (bs : List Byte) : Image := { binds := bindsOf bs, progs := (imageRaw bs).map (programOf bs) }

/-! ## Loop counts and nesting (R160, R164, R165, R172) -/

/-- The sections of a program by number: 0 PRO, 1 RED, 2 MID, 3 BODY (R156). -/
def sectionOf (p : Program) : Nat → List (BitVec 64)
  | 0 => p.pro
  | 1 => p.red
  | 2 => p.mid
  | _ => p.body

/-- What the sequencer's counting finds: the largest latched count of each LOOP by position, none for a count that
comes from an operand, and the lane slots issued. -/
structure Counted where
  info : List (Nat × Option Nat)
  slots : Nat
  dyn : Bool
  deriving DecidableEq, Repr, Inhabited

/-- The larger count of a LOOP, none winning. -/
def noteLoop (info : List (Nat × Option Nat)) (pc : Nat) (c : Option Nat) : List (Nat × Option Nat) :=
  match info.find? (fun e => e.1 == pc) with
  | none => info ++ [(pc, c)]
  | some (_, o) =>
    let v := match o, c with | some a, some b => some (max a b) | _, _ => none
    info.map fun e => if e.1 = pc then (pc, v) else e

/-- The count registers after a stretch of code that runs an unknown number of times: those it writes have no static
value. -/
def unsettled (is : List (BitVec 64)) (first n : Nat) (cregs : List (Option Nat)) : List (Option Nat) :=
  ((is.drop first).take n).foldl (fun cs w => let x := insOf w; if x.op = opSETC then cs.set x.creg none else cs) cregs

/-- The sequencer with its immediate counts, adding up lane slots (R172). A count that comes from an operand is noted
and its body counted once; the registers its body writes have no static value in it or after it. -/
def countSeq (slotsOf : Ins → Nat) (is : List (BitVec 64)) :
    Nat → Nat → List (Nat × Nat × Nat) → List (Option Nat) → Counted → Counted
  | 0, _, _, _, k => k
  | n + 1, pc, loops, cregs, k =>
    match is[pc]? with
    | none => k
    | some w =>
      let x := insOf w
      if x.op = opLOOP then
        let count : Option Nat := if x.src then cregs.getD x.creg (some 0) else some x.imm
        let k := { k with info := noteLoop k.info pc count, dyn := k.dyn || count.isNone }
        let fin := matchEnd is is.length (pc + 1) 0
        let cregs := if count.isNone then unsettled is (pc + 1) (fin - (pc + 1)) cregs else cregs
        if count = some 0 then countSeq slotsOf is n (fin + 1) loops cregs k
        else countSeq slotsOf is n (pc + 1) ((pc + 1, count.getD 1, 0) :: loops) cregs k
      else if x.op = opEND then
        match loops with
        | [] => countSeq slotsOf is n (pc + 1) [] cregs k
        | (first, count, i) :: rest =>
          if i + 1 < count then countSeq slotsOf is n first ((first, count, i + 1) :: rest) cregs k
          else
            let dyn := k.info.any fun e => decide (e.1 + 1 = first) && e.2.isNone
            countSeq slotsOf is n (pc + 1) rest (if dyn then unsettled is first (pc - first) cregs else cregs) k
      else if x.op = opSETC then
        countSeq slotsOf is n (pc + 1) loops (cregs.set x.creg (if x.src then none else some x.imm)) k
      else countSeq slotsOf is n (pc + 1) loops cregs { k with slots := k.slots + slotsOf x }

/-- The count of a section (R172). -/
def countSection (slotsOf : Ins → Nat) (is : List (BitVec 64)) : Counted :=
  countSeq slotsOf is sectionFuel 0 [] (List.replicate 4 (some 0)) ⟨[], 0, false⟩

/-- Every instruction of a section with the loops open around it: level and position of the LOOP. -/
def withLoops : List (BitVec 64) → Nat → List (Nat × Nat) → List (Ins × List (Nat × Nat))
  | [], _, _ => []
  | w :: ws, pc, open_ =>
    let x := insOf w
    if x.op = opLOOP then (x, open_) :: withLoops ws (pc + 1) ((x.level, pc) :: open_)
    else if x.op = opEND then (x, open_) :: withLoops ws (pc + 1) (open_.drop 1)
    else (x, open_) :: withLoops ws (pc + 1) open_

/-- The iterations of a level around an instruction: its static count, none when it comes from an operand. -/
def iters (info : List (Nat × Option Nat)) (open_ : List (Nat × Nat)) (lvl : Nat) : Option Nat :=
  match open_.find? (fun l => l.1 == lvl) with
  | none => some 1
  | some (_, pc) => match info.find? (fun e => e.1 == pc) with | some (_, c) => c | none => some 1

/-- R165: nesting of one section. -/
def nestOk (ds : List Desc) (used : Ins → List Nat) : List (BitVec 64) → List Nat → Bool
  | [], open_ => open_.isEmpty
  | w :: ws, open_ =>
    let x := insOf w
    if x.op = opLOOP then
      decide (x.level = open_.length + 1) && decide (x.level ≤ 4) && nestOk ds used ws (x.level :: open_)
    else if x.op = opEND then
      match open_ with
      | [] => false
      | l :: rest => decide (x.level = l) && nestOk ds used ws rest
    else
      (used x).all (fun k =>
        let d := ds.getD k default
        (d.lvl1 == 0 || open_.contains d.lvl1) && (d.lvl2 == 0 || open_.contains d.lvl2)) && nestOk ds used ws open_

/-! ## Instruction shapes (R162, R163) -/

/-- Whether a word's codes, unused fields and reserved bits are as R161 to R163 give them; `mx` is capability 0x09. -/
def insEncOk (mx : Bool) (w : BitVec 64) : Bool :=
  let x := insOf w
  let v := w.toNat
  let u := usesOf x
  let zero (lo n : Nat) : Bool := decide (bitsOf v lo n = 0)
  let fields := (u.1 || zero 32 8) && (u.2.1 || zero 40 8) && (u.2.2.1 || zero 48 8) && (u.2.2.2 || zero 56 8)
  let fmtOk (c : Nat) : Bool := isArith c || (mx && isMx c)
  if x.op = opLOOP ∨ x.op = opEND ∨ x.op = opSETC then
    let lvl := if x.op = opSETC then zero 8 3 else decide (1 ≤ x.level) && decide (x.level ≤ 4)
    let rest :=
      if x.op = opEND then zero 11 1 && zero 12 2 && zero 16 16
      else if x.op = opLOOP then (if x.src then zero 16 16 else zero 12 2)
      else (if x.src then zero 16 16 else true)
    lvl && rest && zero 14 2 && fields
  else if 1 ≤ x.op ∧ x.op ≤ 0x15 then
    decide (x.rm ≤ 2) && zero 19 5 && (decide (x.rm = 2) || zero 24 8) && fields &&
      (if x.op = 0x13 then fmtOk x.fmt && fmtOk x.fmt2 else isArith x.fmt && decide (x.fmt2 = 0))
  else false

/-- Whether a CVT loses nothing: a widening, an MX load, or a copy (R133). -/
def cvtLossless (x : Ins) : Bool :=
  decide (x.fmt = x.fmt2) || isMx x.fmt2 ||
    (decide (x.fmt2 = 3 ∨ x.fmt2 = 4) && decide (x.fmt ≤ 2)) ||
    (decide (x.fmt2 = 1 ∨ x.fmt2 = 2) && decide (x.fmt = 0))

/-- One operand of an instruction as the translator judges it. -/
structure Use where
  d : Desc
  /-- Bytes of an element; for an MX operand of a CVT its code is given beside. -/
  size : Nat
  mx : Option Nat
  dest : Bool
  n1 : Option Nat
  n2 : Option Nat
  deriving DecidableEq, Repr, Inhabited

/-- The operands of an instruction with their element sizes and iterations (R158 to R162). A field that names a descriptor
at or beyond NDESC has none; check 8 refuses it (R163). -/
def usesAt (p : Program) (info : List (Nat × Option Nat)) (x : Ins) (open_ : List (Nat × Nat)) : List Use :=
  let mk (k size : Nat) (mx : Option Nat) (dest : Bool) : List Use :=
    match p.descs[k]? with
    | some d => [{ d := d, size := size, mx := mx, dest := dest, n1 := iters info open_ d.lvl1, n2 := iters info open_ d.lvl2 }]
    | none => []
  let u := usesOf x
  let sz := fmtBytes x.fmt
  let mxOf (c : Nat) : Option Nat := if isMx c then some c else none
  let isCvt := decide (x.op = 0x13)
  (if u.1 then mk x.d (if isCvt && isMx x.fmt then 1 else sz) (if isCvt then mxOf x.fmt else none) true else []) ++
  (if u.2.1 then mk x.a (if x.op = opSETC then 4 else if isCvt then (if isMx x.fmt2 then 1 else fmtBytes x.fmt2) else sz)
      (if isCvt then mxOf x.fmt2 else none) false else []) ++
  (if u.2.2.1 then mk x.b (if isCvt then 1 else if x.op = 0x09 then 4 else sz) none (decide (x.op = 0x15)) else []) ++
  (if u.2.2.2 then mk x.c (if isCvt then 1 else sz) none isCvt else [])

/-- The set of bytes a use occupies over every iteration of its loops, a count from an operand taken as 65,535
(R160). -/
def useBytes (u : Use) : List Nat :=
  let n1 := u.n1.getD 65535
  let n2 := u.n2.getD 65535
  match u.mx with
  | some c => (elemAddrs { u.d with count := 1 } n1 n2).flatMap fun a =>
      (List.range (mxSpan c u.d.count)).map (a.toNat + ·)
  | none => (elemAddrs u.d n1 n2).flatMap fun a => (List.range u.size).map (a.toNat + ·)

/-- The span of a use: lowest byte and the byte after the highest. -/
def useSpan (u : Use) : Int × Int :=
  let b := addrBounds (match u.mx with | some _ => { u.d with count := 1 } | none => u.d) (u.n1.getD 65535) (u.n2.getD 65535)
  (b.1, b.2 + (match u.mx with | some c => mxSpan c u.d.count | none => u.size : Nat))

/-- Whether two uses of the working area meet in a byte (R160). -/
def usesMeet (a b : Use) : Bool :=
  a.d.kind == kWORK && b.d.kind == kWORK &&
    (let x := useSpan a
     let y := useSpan b
     decide (x.1 < y.2) && decide (y.1 < x.2) &&
      (let ys := useBytes b; (useBytes a).any fun k => ys.contains k))

/-! ## The checks, one function for each RESULT (R171) -/

/-- The roles an MX code, a role code or a descriptor's kind may have, and every reserved bit: RESULT ENCODING. -/
def encodingOk (mx : Bool) (bs : List Byte) : Bool :=
  let z (o n : Nat) : Bool := (slice bs o n).all (· == 0)
  z 10 2 && z 16 48 &&
  (List.range (leField bs 8 2)).all (fun i =>
    let w := leField bs (64 + 4 * i) 4
    decide (w / 2 ^ 24 = 0) && decide (bitsOf w 16 4 ≠ 0)) &&
  (imageRaw bs).all fun r =>
    z (r.off + 3) 1 && z (r.off + 40) 24 && decide (leField bs (r.off + 1) 1 < 16) &&
    decide (leField bs (r.off + 16) 4 < 2 ^ 23) && decide (leField bs (r.off + 20) 4 < 2 ^ 23) &&
    (List.range r.nstream).all (fun i =>
      let o := r.oStream + 16 * i
      let b1 := leField bs (o + 1) 1
      decide (leField bs o 1 / 16 ≤ 4) && (isArith (b1 % 16) || (mx && isMx (b1 % 16))) && decide (b1 < 128) &&
        decide (leField bs (o + 2) 1 < 16) && z (o + 3) 1 && decide (leField bs (o + 4) 4 < 2 ^ 23) && z (o + 8) 8) &&
    (List.range r.ndesc).all (fun i =>
      let o := r.oDesc + 16 * i
      let w0 := leField bs o 4
      decide (bitsOf w0 23 3 ≤ 4) && decide (w0 / 2 ^ 26 = 0) && decide (leField bs (o + 4) 2 < 2 ^ 15) &&
        decide (leField bs (o + 11) 1 ≤ 4) && decide (leField bs (o + 15) 1 ≤ 4)) &&
    (wordsAt bs r.oPro (r.npro + r.nred + r.nmid + r.nbody)).all (insEncOk mx)

/-- Counts inside their ranges: RESULT LIMIT (R167, R168, R174). -/
def limitOk (bs : List Byte) : Bool :=
  let btw (lo v hi : Nat) : Bool := decide (lo ≤ v) && decide (v ≤ hi)
  let raws := imageRaw bs
  btw 1 (leField bs 6 2) 16 && btw 0 (leField bs 8 2) 960 && decide (leField bs 12 4 ≤ 2 ^ 20) &&
  decide (raws.foldl (fun n r => n + r.nconst) 0 ≤ 1024) &&
  raws.all fun r =>
    btw 1 r.nstream 16 && btw 0 r.nacc 16 && btw 1 r.ndesc 256 && btw 0 r.nconst 256 && btw 0 r.npro 256 &&
    btw 0 r.nred 4096 && btw 0 r.nmid 256 && btw 1 r.nbody 4096 &&
    (let p := programOf bs r
     p.streams.all (fun s => btw 1 s.f 4) && p.accs.all (fun a => btw 1 a 1024) && decide (accElems p ≤ 1024) &&
     p.descs.all fun d => btw 1 d.count 16384)

/-- Streams as R151, R152 and the strip rule of R171 give them: RESULT STREAM. -/
def streamOk (p : Program) : Bool :=
  let distinct := (p.streams.map (·.no)).Nodup
  decide distinct &&
  p.streams.all (fun s => !isMx s.fmt || decide (s.f = 1)) &&
  (match drivingStream p with
   | some s => decide (s.role = .in_ ∨ s.role = .inout)
   | none => false) &&
  decide ((p.streams.filter fun s => s.role == .scalar).length ≤ 1) &&
  p.streams.all fun s =>
    if s.no = p.drive ∨ s.role = .scalar ∨ s.role = .derived then true
    else
      let e := perPanel s
      let n := progN p
      decide (e ≠ 0) && (decide (e % n = 0) || decide (n % e = 0))

/-- One use as R158 and R159 judge its descriptor (RESULT OPERAND). -/
def useOk (p : Program) (u : Use) : Bool :=
  let static := u.n1.isSome && u.n2.isSome
  let once (n : Option Nat) : Bool := match n with | some k => decide (k ≤ 1) | none => false
  let span := useSpan u
  let stageBase : Nat := match p.streams.find? fun s => decide (s.stage ≤ u.d.addr) &&
      decide (u.d.addr < s.stage + stageLen p s) with | some s => s.stage | none => p.wbase
  let mxShape := match u.mx with
    | none => true
    | some c => decide (u.d.stride = 0) && decide (u.d.count % 32 = 0) && decide ((u.d.addr - stageBase) % mxBlockBytes c = 0)
  if u.d.kind = kWORK then
    mxShape && decide (u.d.addr % u.size = 0) &&
    (decide (u.d.count ≤ 1) || decide (u.d.stride % u.size = 0)) &&
    (decide (u.d.lvl1 = 0) || once u.n1 || decide (u.d.lstep1 % u.size = 0)) &&
    (decide (u.d.lvl2 = 0) || once u.n2 || decide (u.d.lstep2 % u.size = 0)) &&
    (!static || (decide ((p.wbase : Int) ≤ span.1) && decide (span.2 ≤ (p.wbase + p.wlen : Nat)) &&
      (useBytes u).all fun a => classOf p a != .odd))
  else if u.d.kind = kINTAKE then
    u.mx.isNone && decide (u.d.addr % 4 = 0) && decide (u.d.stride % 4 = 0) &&
    (!static || (decide (0 ≤ span.1) && decide (span.2 ≤ (4 * progN p : Nat))))
  else u.mx.isNone

/-- A descriptor by itself, its loop indices 0, whether an instruction names it or not (R158, R159): RESULT OPERAND. -/
def descOk (p : Program) (d : Desc) : Bool :=
  if d.kind = kCONST then decide (d.count = 1) && decide (d.addr < p.consts.length)
  else if d.kind = kEPOCH then decide (d.count = 1)
  else if d.kind = kACC then
    decide (d.addr / 1024 < p.accs.length) && decide (d.addr % 1024 + d.count ≤ p.accs.getD (d.addr / 1024) 0)
  else
    let last := elemAddr d (d.count - 1) 0 0
    let lo := min (d.addr : Int) last
    let hi := max (d.addr : Int) last
    if d.kind = kINTAKE then
      decide (d.addr % 4 = 0) && decide (d.stride % 4 = 0) && decide (0 ≤ lo) && decide (hi + 4 ≤ (4 * progN p : Nat))
    else
      decide ((p.wbase : Int) ≤ lo) && decide (hi < (p.wbase + p.wlen : Nat)) &&
        (List.range d.count).all fun i => classOf p (elemAddr d i 0 0).toNat != .odd

/-- Every section's instructions with their open loops and their loop counts. -/
def sectionUses (p : Program) (k : Nat) : List (Ins × List Use) :=
  let is := sectionOf p k
  let info := (countSection (fun _ => 0) is).info
  (withLoops is 0 []).map fun (x, o) => (x, usesAt p info x o)

/-- RESULT OPERAND. -/
def operandOk (p : Program) : Bool :=
  p.descs.all (descOk p) && [0, 1, 2, 3].all fun k => (sectionUses p k).all fun (_, us) => us.all (useOk p)

/-- What a section may read of the window (R156). -/
def mayRead (sec : Nat) : ByteClass → Bool
  | .scalar => true
  | .temp => true
  | .stage _ r => if sec = 3 then true else decide (sec = 1) && decide (r = .in_ ∨ r = .inout)
  | _ => false

/-- What a section may write of the window (R156). -/
def mayWrite (sec : Nat) : ByteClass → Bool
  | .temp => true
  | .scalar => decide (sec = 0 ∨ sec = 2)
  | .stage _ r => decide (sec = 3) && decide (r = .inout ∨ r = .out ∨ r = .derived)
  | _ => false

/-- Which kinds a section may read (R156). -/
def mayReadKind (sec : Nat) (k : Nat) : Bool :=
  if k = kINTAKE then decide (sec = 1 ∨ sec = 3)
  else if k = kEPOCH then decide (sec = 0 ∨ sec = 2)
  else if k = kACC then decide (sec = 2 ∨ sec = 3)
  else true

/-- The bytes of an area as bits of the window. -/
def areaMask (p : Program) (base len : Nat) : Nat := (2 ^ len - 1) * 2 ^ (base - p.wbase) % 2 ^ p.wlen

/-- The bytes of the window that are no temporaries (R156). -/
def fixedMask (p : Program) : Nat :=
  p.streams.foldl (fun m s => m ||| areaMask p s.stage (if s.role = .scalar then 4096 else 2 * stageLen p s))
    (areaMask p (p.wbase + p.wlen - 128 * accElems p) (128 * accElems p))

/-- The bytes of the window an operand occupies at the present loop indices, as bits: elements at a stride of their size
or more, or one packed MX stretch (R159). -/
def useMask (p : Program) (ls : Loops) (u : Use) : Nat :=
  if u.d.kind ≠ kWORK then 0
  else
    let n := if u.mx.isSome then 1 else u.d.count
    let size := match u.mx with | some c => mxSpan c u.d.count | none => u.size
    let st := u.d.stride.natAbs
    let ones := 2 ^ size - 1
    let pattern := if st = 0 ∨ n ≤ 1 then ones else ones * ((2 ^ (st * n) - 1) / (2 ^ st - 1))
    let at_ (i : Nat) : Int := elemAddr u.d i (loopIdx ls u.d.lvl1) (loopIdx ls u.d.lvl2)
    let off := min (at_ 0) (at_ (n - 1)) - p.wbase
    (if 0 ≤ off then pattern * 2 ^ off.toNat else pattern / 2 ^ (-off).toNat) % 2 ^ p.wlen

/-- The operands an instruction reads: KADD reads its destinations too (R162). -/
def readsOf (x : Ins) (us : List Use) : List Use := if x.op = 0x15 then us else us.filter (!·.dest)

/-- Whether every iteration of a loop's body is the same: no count register is set and no operand is bound to the
level. -/
def sameEachTime (p : Program) (is : List (BitVec 64)) (first n level : Nat) : Bool :=
  ((is.drop first).take n).all fun w =>
    let x := insOf w
    decide (x.op ≠ opSETC) && (usedDescs x).all fun k =>
      let d := p.descs.getD k default
      decide (d.lvl1 ≠ level) && decide (d.lvl2 ≠ level)

/-- The section as the sequencer runs it, `m` the bytes written so far: no instruction reads a temporary byte that none
before it has written (R156). A loop whose count comes from an operand is judged for every count: its reads over 65,535
iterations, and none of its writes is counted on behind it (log entry 13). -/
def tempSeq (p : Program) (is : List (BitVec 64)) :
    Nat → Nat → List ((Nat × Nat × Nat × Nat) × Option Nat) → List (Option Nat) → Nat → Bool
  | 0, _, _, _, _ => true
  | n + 1, pc, loops, cregs, m =>
    match is[pc]? with
    | none => true
    | some w =>
      let x := insOf w
      let us := usesAt p [] x []
      let ls := loops.map (·.1)
      if x.op = opLOOP then
        let latched : Option Nat := if x.src then cregs.getD x.creg (some 0) else some x.imm
        let fin := matchEnd is is.length (pc + 1) 0
        let count := latched.getD 65535
        if count = 0 then tempSeq p is n (fin + 1) loops cregs m
        else
          let runs := if sameEachTime p is (pc + 1) (fin - (pc + 1)) x.level then 1 else count
          tempSeq p is n (pc + 1)
            (((x.level, pc + 1, runs, 0), if latched.isNone then some m else none) :: loops) cregs m
      else if x.op = opEND then
        match loops with
        | [] => tempSeq p is n (pc + 1) [] cregs m
        | ((lv, first, count, i), before) :: rest =>
          if i + 1 < count then tempSeq p is n first (((lv, first, count, i + 1), before) :: rest) cregs m
          else tempSeq p is n (pc + 1) rest (if before.isSome then unsettled is first (pc - first) cregs else cregs)
            (before.getD m)
      else
        (readsOf x us).all (fun u => m ||| useMask p ls u == m) &&
          tempSeq p is n (pc + 1) loops
            (if x.op = opSETC then cregs.set x.creg (if x.src then none else some x.imm) else cregs)
            ((us.filter (·.dest)).foldl (fun m u => m ||| useMask p ls u) m)

/-- The temporaries of one section run or strip (R156). -/
def tempsOk (p : Program) (k : Nat) : Bool :=
  tempSeq p (sectionOf p k) sectionFuel 0 [] (List.replicate 4 (some 0)) (fixedMask p)

/-- One instruction as R156, R160 and R163 judge it: RESULT INSTR. -/
def insOk (p : Program) (sec : Nat) (x : Ins) (us : List Use) : Bool :=
  let ctrl := decide (x.op = opLOOP ∨ x.op = opEND)
  if ctrl then true
  else
    let inRange := (usedDescs x).all fun k => decide (k < p.descs.length)
    let dests := us.filter (·.dest)
    let srcs := readsOf x us
    let n := match us.head? with | some u => u.d.count | none => 1
    -- A count that is not static may carry an operand out of the window: R166 judges that at run time.
    let within (u : Use) (ok : ByteClass → Bool) : Bool := (useBytes u).all fun a =>
      ok (classOf p a) || ((u.n1.isNone || u.n2.isNone) && classOf p a == .outside)
    let counts :=
      if x.op = opSETC then true
      else if x.op = 0x14 then decide (n = 1)
      else if x.op = 0x13 ∧ (isMx x.fmt ∨ isMx x.fmt2) then
        us.zipIdx.all fun (u, i) => if i = 2 then decide (32 * u.d.count = n) else (decide (u.d.count = n) || (decide (i = 1) && decide (u.d.count = 1)))
      else us.all fun u => decide (u.d.count = n) || (!u.dest && decide (u.d.count = 1))
    let sr := if x.op < 0x40 ∧ x.rm = 2 then
        decide (x.op = 0x13) && !cvtLossless x && decide (sec = 3) &&
          (match us.head? with
           | some u => within u fun b => match b with | .stage _ _ => true | _ => false
           | none => false)
      else true
    let mxPair := decide (x.op ≠ 0x13) || ((!isMx x.fmt2 || decide (x.fmt = 0)) && (!isMx x.fmt || decide (x.fmt2 = 0)))
    let floats := us.zipIdx.all fun (u, i) =>
      if u.d.kind = kINTAKE ∨ u.d.kind = kEPOCH then
        if x.op = opSETC then false
        else if x.op = 0x13 then decide (i = 1) && decide (x.fmt2 = 0)
        else decide (x.fmt = 0)
      else true
    let access :=
      srcs.all (fun u => mayReadKind sec u.d.kind &&
        (decide (u.d.kind ≠ kWORK) || within u (mayRead sec))) &&
      dests.all (fun u =>
        (decide (u.d.kind = kWORK) && within u (mayWrite sec)) ||
        (decide (u.d.kind = kACC) && decide (sec = 1)))
    let overlap := dests.all fun w => srcs.all fun r => decide (w.d = r.d) || !usesMeet w r
    let twoDests := match dests with | [a, b] => !usesMeet a b | _ => true
    inRange && counts && sr && mxPair && floats && access && overlap && twoDests

/-- RESULT INSTR. -/
def instrOk (p : Program) : Bool :=
  [0, 1, 2, 3].all fun k => (sectionUses p k).all (fun (x, us) => insOk p k x us) && tempsOk p k

/-- RESULT LOOP. -/
def loopOk (p : Program) : Bool := [0, 1, 2, 3].all fun k => nestOk p.descs usedDescs (sectionOf p k) []

/-- Whether ranges of start and length are pairwise disjoint. -/
def rangesDisjoint : List (Nat × Nat) → Bool
  | [] => true
  | (a, n) :: t => t.all (fun (b, m) => decide (a + n ≤ b) || decide (b + m ≤ a) || decide (n = 0) || decide (m = 0)) &&
      rangesDisjoint t

/-- The windows of all programs: RESULT WINDOW (R169, R171). -/
def windowOk (ps : List Program) : Bool :=
  ps.all (fun p =>
    decide (p.wbase % 4096 = 0) && decide (p.wlen % 4096 = 0) && decide (4096 ≤ p.wlen) &&
    decide (p.wlen ≤ 2 ^ 22 - 8192) && decide (0x400000 ≤ p.wbase) && decide (p.wbase + p.wlen ≤ 0x7FE000) &&
    (let areas := p.streams.map (fun s => (s.stage, if s.role = .scalar then 4096 else 2 * stageLen p s)) ++
        [(p.wbase + p.wlen - 128 * accElems p, 128 * accElems p)]
     areas.all (fun a => decide (p.wbase ≤ a.1) && decide (a.1 + a.2 ≤ p.wbase + p.wlen)) && rangesDisjoint areas)) &&
  rangesDisjoint (ps.map fun p => (p.wbase, p.wlen))

/-- RESULT BIND. -/
def bindOk (i : Image) : Bool :=
  decide ((i.binds.map fun b => (b.1, b.2.1)).Nodup) && i.binds.all fun b => decide (b.2.2 < i.progs.length)

/-! ## Counts (R172, R173) -/

/-- Elements a lane slot covers in a format: V_f (R172). -/
def slotWidth (fmt : Nat) : Nat :=
  1024 * (match fmt with | 0x0 => 1 | 0x1 => 2 | 0x2 => 2 | 0x3 => 4 | 0x4 => 4 | _ => 1)

/-- ⌈a / b⌉. -/
def ceilDiv (a b : Nat) : Nat := (a + b - 1) / b

/-- Lane slots of one arithmetic instruction; its bank entries are the same number (R172). -/
def slotsOf (p : Program) (x : Ins) : Nat :=
  let d (k : Nat) : Desc := p.descs.getD k default
  let ks := usedDescs x
  if ks.all (fun k => (d k).count = 1) then 1
  else
    let n := if x.op = 0x14 then (d x.a).count else (d x.d).count
    let v := slotWidth x.fmt
    let base :=
      if x.op = 0x14 then ceilDiv n v + 10
      else if x.op = 0x15 then 4 * ceilDiv n v
      else if x.op = 0x13 then ceilDiv n 1024
      else ceilDiv n v
    let gathers := (usesAt p [] x []).filter fun u =>
      decide (1 < u.d.count) &&
        !(decide (1 ≤ u.d.stride) && decide (u.d.stride ≤ 64) && decide (u.d.stride % (u.size : Int) = 0))
    base + gathers.length * ceilDiv n v

/-- Bank entries of a program (R172). -/
def bankEntries (p : Program) : Nat :=
  (p.pro ++ p.red ++ p.mid ++ p.body).foldl (fun n w =>
    let x := insOf w
    n + (if x.op ∈ [opLOOP, opEND, opSETC] then 1 else slotsOf p x)) 0

/-- Bank entries of an image; RESULT CAPACITY beyond 16,384 (R171). -/
def imageEntries (i : Image) : Nat := i.progs.foldl (fun n p => n + bankEntries p) 0

/-- S of MNL_IB_PINFO: the slot count s in units of 1/256, or 0xFF_FFFF when it is not static (R173). -/
def pinfoS (p : Program) : Nat :=
  let red := countSection (slotsOf p) p.red
  let body := countSection (slotsOf p) p.body
  if red.dyn || body.dyn then 0xFFFFFF
  else
    let wd := match drivingStream p with | some s => slotWidth s.fmt / 1024 | none => 1
    1024 * wd * (red.slots + body.slots) * 256 / progN p

/-- Whether a section reads the stage area of a stream. -/
def readsStream (p : Program) (k : Nat) (s : Stream) : Bool :=
  (sectionUses p k).any fun (x, us) => (readsOf x us).any fun u =>
    u.d.kind == kWORK && decide (s.stage ≤ u.d.addr) && decide (u.d.addr < s.stage + stageLen p s)

/-- B of MNL_IB_PINFO: stack bytes per driving element in units of 1/64 byte (R173). -/
def pinfoB (p : Program) : Nat :=
  p.streams.foldl (fun n s =>
    let rb := if isMx s.fmt then 8 * mxBits s.fmt else if (scaledBy p s).isSome then 2 else 64 * recBytes s
    let times :=
      if s.role = .in_ ∨ s.role = .inout then
        (if readsStream p 1 s then 1 else 0) + (if readsStream p 3 s then 1 else 0) + (if s.role = .inout then 1 else 0)
      else if s.role = .out ∨ s.role = .derived then 1 else 0
    n + rb * times) 0

/-- Whether one program repeats a SALT among its SR operations: event 0x7E, no refusal (R171). -/
def saltRepeats (p : Program) : Bool :=
  let salts := (p.pro ++ p.red ++ p.mid ++ p.body).filterMap fun w =>
    let x := insOf w
    if x.op < 0x40 ∧ x.rm = 2 then some x.salt else none
  !decide salts.Nodup

/-! ## The order of R171 -/

/-- Checks 1 and 2: MOANEL2 and FORMAT; `len` is the length the path gives (R167, R342). -/
def imageHeadResult (bs : List Byte) (len : Nat) : Nat :=
  if leField bs 0 4 = 0x32435554 then 0x01
  else if leField bs 0 4 ≠ 0x33435554 ∨ leField bs 4 1 ≠ 3 then 0x02
  else
    let fin := match (imageRaw bs).getLast? with | some r => r.fin | none => 64 + 4 * leField bs 8 2
    if leField bs 12 4 ≠ len ∨ bs.length ≠ len ∨ len < fin then 0x02 else 0x00

/-- Checks 4 to 12, in order; the first that fails decides RESULT (R171). `mx` is capability 0x09. -/
def imageBodyResult (mx : Bool) (bs : List Byte) : Nat :=
  let i := imageOf bs
  if !limitOk bs then 0x04
  else if !encodingOk mx bs then 0x05
  else if !i.progs.all streamOk then 0x06
  else if !i.progs.all operandOk then 0x07
  else if !i.progs.all instrOk then 0x08
  else if !i.progs.all loopOk then 0x09
  else if !windowOk i.progs then 0x0A
  else if !bindOk i then 0x0B
  else if 16384 < imageEntries i then 0x0C
  else 0x00

/-! ## The constant pools (R169) -/

/-- The state with the constant pool of a bank's image placed in the working area. -/
def State.putPool (s : State) (bank : Bool) (i : Image) : State := { s with work := placePool s.work bank i }

end Sys2Proof.Machine
end

