-- ==== Sys2Proof/Machine/Intake.lean ====
section
/-! DEFINITION. The intake's shared operations: manifest, gradient ring, chunks and the intake sum (R137 to R143). -/

namespace Sys2Proof.Machine

/-- The state with a tenant's intake changed. -/
def State.updIntake (s : State) (i : Fin 64) (f : IntakeS → IntakeS) : State :=
  s.updTen i fun t => { t with intake := f t.intake }

/-- A tenant's intake share in bytes (R140). -/
def State.shareBytes (s : State) (i : Fin 64) : Nat :=
  match (s.ten i).env with | some e => e.ishare * 65536 | none => 0

/-- Where a tenant's intake share begins in the local store: shares follow one another in ascending tenant index (R126). -/
def State.shareBase (s : State) (i : Fin 64) : Nat := ((tenantIdxs.filter fun j => decide (j < i)).map s.shareBytes).sum

/-- Room of the manifest slot: 256 KiB, or the tenant's share if that is smaller (R138). -/
def State.manRoom (s : State) (i : Fin 64) : Nat := min 262144 (s.shareBytes i)

/-! ## Programs and groups (R154, R167, R175) -/

/-- The bank a tenant selects. -/
def State.bankOf (s : State) (i : Fin 64) : Bank := if (s.ten i).bank then s.ib.bank1 else s.ib.bank0

/-- The index of the program bound to a sweep group of a tenant in the bank it selects. -/
def State.boundIdx (s : State) (i : Fin 64) (g : Nat) : Option Nat :=
  match (s.bankOf i).image.binds.find? fun b => b.1 == s.tagOf i && b.2.1 == g with
  | some b => some b.2.2
  | none => none

/-- The program bound to a sweep group. -/
def State.boundProg (s : State) (i : Fin 64) (g : Nat) : Option Program :=
  match s.boundIdx i g with
  | some n => (s.bankOf i).image.progs[n]?
  | none => none

/-- Whether a rebuild target fills an entry for the instance it replaces: one that is LOADING, and was when the rebuild
started (R139, R256; DEDUCED, log entry 188). -/
def State.fills (s : State) (i : Fin 64) (p : Nat × Entry) : Bool :=
  let b := (s.ten i).bg
  p.2.state == .loading && b.subject.isSome && (b.state == .setup || b.filling.contains p.1)

/-- Whether an entry is a region of its sweep group: ACTIVE with that SGRP, or, at a rebuild target, a LOADING entry it
fills (R154). -/
def State.inSweep (s : State) (i : Fin 64) (p : Nat × Entry) : Bool :=
  p.2.sgrp != 0 && (p.2.state == .active || s.fills i p)

/-- Whether one entry comes before another in sweep order: ascending SORDER, then index (R154). -/
def sweepBefore (a b : Nat × Entry) : Bool :=
  decide (a.2.sorder.toNat < b.2.sorder.toNat) || (a.2.sorder == b.2.sorder && decide (a.1 ≤ b.1))

/-- Entries in sweep order. -/
def inSweepOrder (l : List (Nat × Entry)) : List (Nat × Entry) := sortBy sweepBefore l

/-- The regions of a group, in sweep order. -/
def State.groupRegions (s : State) (i : Fin 64) (g : Nat) : List (Nat × Entry) :=
  inSweepOrder ((s.entriesOf (s.tagOf i)).filter fun p => s.inSweep i p && p.2.sgrp.toNat == g)

/-- The regions of a stream of a group, in sweep order. -/
def State.streamRegions (s : State) (i : Fin 64) (g : Nat) (no : Nat) : List (Nat × Entry) :=
  (s.groupRegions i g).filter fun p => p.2.stream.toNat == no

/-- The elements a region of a stream holds (R152). -/
def regionElems (st : Stream) (lenp : Nat) : Nat :=
  if isMx st.fmt then lenp * mxPerPanel st.fmt else lenp * 4096 / max 1 (recBytes st)

/-- The first logical element of a region of a stream (R152). -/
def firstElem (st : Stream) (e : Entry) : Nat :=
  if isMx st.fmt then e.lfirst.toNat * mxPerPanel st.fmt else e.lfirst.toNat * 4096 / max 1 (recBytes st)

/-! ## Manifest records (R138) -/

/-- The manifest's bytes as far as they are present. -/
def IntakeS.manBytes (t : IntakeS) (o n : Nat) : List Byte :=
  (List.range n).map fun j =>
    match NMap.get? t.man ((o + j) / 64) with
    | some l => BitVec.ofNat 8 (l.toNat / 256 ^ ((o + j) % 64))
    | none => 0

/-- The record count R, once its line is present. -/
def IntakeS.recCount (t : IntakeS) : Option Nat :=
  match NMap.get? t.man 0 with
  | some l => some (l.toNat % 2 ^ 32)
  | none => none

/-- A record's fields (R138). -/
def mrecOf (bs : List Byte) : MRec :=
  let w0 := leField bs 0 4
  { chunk0 := bitsOf w0 0 24, ns := bitsOf w0 24 4 + 1, gfmt := bitsOf w0 28 3, comp := w0.testBit 31
    nc := bitsOf (leField bs 4 4) 0 24, stream := bitsOf (leField bs 4 4) 24 4, tensor := BitVec.ofNat 24 (leField bs 8 4)
    e0 := bitsOf (leField bs 12 8) 0 52, ne := leField bs 20 4, nt := bitsOf (leField bs 24 8) 0 48 }

/-- Reserved bits of a record zero. -/
def mrecReserved (bs : List Byte) : Bool :=
  decide (bitsOf (leField bs 4 4) 28 4 = 0) && decide (bitsOf (leField bs 8 4) 24 8 = 0) &&
    decide (bitsOf (leField bs 12 8) 52 12 = 0) && decide (bitsOf (leField bs 24 8) 48 16 = 0)

/-- Chunks of a record list. -/
def totalChunks (rs : List MRec) : Nat := rs.foldl (fun n r => n + r.nc) 0

/-- The record a chunk belongs to. -/
def recOfChunk (rs : List MRec) (c : Nat) : Option MRec :=
  rs.find? fun r => decide (r.chunk0 ≤ c) && decide (c < r.chunk0 + r.nc)

/-- The element range of a chunk of a record: first element and count (R138). -/
def chunkElems (r : MRec) (c : Nat) : Nat × Nat :=
  let j := c - r.chunk0
  (r.e0 + j * r.ne, min ((j + 1) * r.ne) r.nt - j * r.ne)

/-- Slot length LS of a chunk: its elements in GFMT, rounded up to a whole line (R138). -/
def chunkLs (r : MRec) (c : Nat) : Nat := ((chunkElems r c).2 * fmtBytes r.gfmt + 63) / 64 * 64

/-- Bytes of a share the manifest of `n` records takes, before the gradient ring (R140). -/
def manArea (n : Nat) : Nat := (32 + 32 * n + 4095) / 4096 * 4096

/-- Bytes of the gradient ring under a manifest of `n` records (R140). -/
def State.ringBytes (s : State) (i : Fin 64) (n : Nat) : Nat := s.shareBytes i - manArea n

/-- Where chunk `c` lies in a ring of `ring` bytes: each chunk follows the one before it, or starts at the ring's
beginning where it does not fit before its end (R140). -/
def ringBase (rs : List MRec) (ring c : Nat) : Nat :=
  ((List.range c).foldl (fun (p : Nat × Nat) j =>
      let size (x : Nat) : Nat := match recOfChunk rs x with | some r => r.ns * chunkLs r x | none => 0
      let start := if p.1 + size (j + 1) ≤ ring then p.1 else 0
      (start + size (j + 1), start)) (0, 0)).2

/-! ## Validity of a manifest (R139, R155) -/

/-- The pieces of an element range in the tenant's swept driving regions, from element `e` up to `fin`: sweep position
and first element of each, or none where an element lies in no such region (R139, R155). -/
def State.rangePieces (s : State) (i : Fin 64) (r : MRec) : Nat → Nat → Nat → Option (List (Nat × Nat × Nat))
  | 0, _, _ => none
  | n + 1, e, fin =>
    if fin ≤ e then some []
    else
      let hit := (s.entriesOf (s.tagOf i)).findSome? fun p =>
        if s.inSweep i p && p.2.tensor == r.tensor && p.2.stream.toNat == r.stream then
          match s.boundProg i p.2.sgrp.toNat with
          | some pr =>
            match drivingStream pr with
            | some st =>
              let f := firstElem st p.2
              if pr.drive = r.stream ∧ f ≤ e ∧ e < f + regionElems st p.2.lenp then
                some (p.2.sorder.toNat, p.1, f + regionElems st p.2.lenp)
              else none
            | none => none
          | none => none
        else none
      match hit with
      | none => none
      | some (so, c, stop) =>
        match rangePieces s i r n stop fin with
        | some t => some ((so, c, e) :: t)
        | none => none

/-- Whether pieces rise in sweep order. -/
def piecesRise : List (Nat × Nat × Nat) → Bool
  | a :: b :: t =>
    (decide (a.1 < b.1) || (decide (a.1 = b.1) && (decide (a.2.1 < b.2.1) || (decide (a.2.1 = b.2.1) && decide (a.2.2 < b.2.2)))))
      && piecesRise (b :: t)
  | _ => true

/-- Whether chunk numbers run from `c` on without gaps, and each record's own fields fit together. -/
def chunksRun : Nat → List MRec → Bool
  | _, [] => true
  | c, r :: t =>
    decide (r.chunk0 = c) && decide (1 ≤ r.nc) && decide (1 ≤ r.ne) && decide (r.gfmt ≤ 4) &&
      decide (r.nc = (r.nt + r.ne - 1) / r.ne) && chunksRun (c + r.nc) t

/-- Room of a contributor slot in bytes (R25, R137). -/
def slotRoom : Nat := 262144

/-- Whether a complete manifest is valid (R25, R139, R155). -/
def State.manifestValid (s : State) (i : Fin 64) (raw : List (List Byte)) (head : List Byte) : Bool :=
  let rs := raw.map mrecOf
  let ring := s.ringBytes i rs.length
  let apart (a b : MRec) : Bool := a.tensor != b.tensor || decide (a.e0 + a.nt ≤ b.e0) || decide (b.e0 + b.nt ≤ a.e0)
  let pairsOk := (List.range rs.length).all fun x => (List.range x).all fun y => apart (rs.getD x default) (rs.getD y default)
  let pieces := rs.map fun r => s.rangePieces i r (s.ctx.table.length + 1) r.e0 (r.e0 + r.nt)
  chunksRun 1 rs && pairsOk && pieces.all (·.isSome) && piecesRise (pieces.flatMap fun p => p.getD []) &&
    (rs.all fun r => decide (chunkLs r r.chunk0 ≤ slotRoom) && decide (r.ns * chunkLs r r.chunk0 ≤ ring) &&
      decide (r.ns * chunkLs r (r.chunk0 + r.nc - 1) ≤ ring)) &&
    raw.all mrecReserved && (head.drop 4).all (· == 0)

/-- The manifest judged when its count or its last line has come (R138, R139): valid, invalid with event 0x71, or not
complete yet. -/
def State.judgeManifest (s : State) (i : Fin 64) : State :=
  let t := (s.ten i).intake
  if t.manSt ≠ .absent then s
  else
    match t.recCount with
    | none => s
    | some n =>
      let bad := (s.updIntake i fun x => { x with manSt := .bad }).raiseT i 0x71
      if 8191 < n ∨ s.manRoom i < 32 + 32 * n then bad
      else if (List.range ((32 + 32 * n + 63) / 64)).any fun l => (NMap.get? t.man l).isNone then s
      else
        let raw := (List.range n).map fun j => t.manBytes (32 + 32 * j) 32
        if s.manifestValid i raw (t.manBytes 0 32) then
          s.updIntake i fun x => { x with manSt := .ok, recs := raw.map mrecOf, low := 1, high := 0 }
        else bad

/-! ## Chunks (R140, R142) -/

/-- Whether every line of every slot of a chunk is present (R142). -/
def Chunk.complete (c : Chunk) : Bool :=
  (List.range c.mrec.ns).all fun sl => (List.range (c.ls / 64)).all fun l => (NMap.get? c.lines (sl * 4096 + l)).isSome

/-- The next chunk allocated, where the ring, the 256 chunks and the manifest allow (R140). -/
def State.allocChunk (s : State) (i : Fin 64) : Option State :=
  let t := (s.ten i).intake
  let c := t.high + 1
  let ring := s.ringBytes i t.recs.length
  match t.manSt, recOfChunk t.recs c with
  | .ok, some r =>
    let size := r.ns * chunkLs r c
    let base := ringBase t.recs ring c
    let free := t.chunks.all fun x => decide (base + size ≤ x.base) || decide (x.base + x.size ≤ base)
    if free && decide (t.chunks.length < 256) then
      some (s.updIntake i fun x => { x with
        high := c
        chunks := x.chunks ++ [{ no := c, mrec := r, base := base, size := size, ls := chunkLs r c, lines := [], bad := false }]
        noticeDue := true })
    else none
  | _, _ => none

/-- The intake of a tenant advanced to the next epoch (R143): the next manifest may come. -/
def State.nextIntake (s : State) (i : Fin 64) : State :=
  s.updIntake i fun t => { t with
    epoch := t.epoch + 1, man := [], manSt := .absent, recs := [], low := 0, high := 0, chunks := [], freed := 0 }

/-- The bytes of a slot of a chunk. -/
def Chunk.slotBytes (c : Chunk) (slot : Nat) : List Byte :=
  (List.range (c.ls / 64)).flatMap fun l =>
    match NMap.get? c.lines (slot * 4096 + l) with | some x => lineBytes x | none => List.replicate 64 0

/-- What a chunk gives to the INTAKE digest: pd of each slot's LS bytes (R306). -/
def Chunk.digests (c : Chunk) : List Byte :=
  (List.range c.mrec.ns).flatMap fun sl => leBytes 8 (pd (c.slotBytes sl)).toNat

/-- Chunks that `p` selects freed; the last one of the manifest advances the intake epoch (R142, R143). -/
def State.freeChunks (s : State) (i : Fin 64) (p : Chunk → Bool) : State :=
  let t := (s.ten i).intake
  let gone := (t.chunks.filter p).length
  if gone = 0 then s
  else
    let left := t.chunks.filter fun c => !p c
    let s := s.updTen i fun x => { x with steprec := { x.steprec with
      intake := x.steprec.intake ++ (t.chunks.filter p).map fun c => (c.no, c.digests) } }
    let s := s.updIntake i fun x => { x with
      chunks := left, freed := x.freed + gone
      low := left.foldl (fun m c => min m c.no) (x.high + 1) }
    if t.freed + gone = totalChunks t.recs then s.nextIntake i else s

/-- A tenant's intake flushed by the abort of an epoch (R143). -/
def State.flushIntake (s : State) (i : Fin 64) (epoch : Nat) : State :=
  s.updIntake i fun t => { t with
    epoch := epoch, flush := true, man := [], manSt := .absent, recs := [], low := 0, high := 0, chunks := [], freed := 0 }

/-! ## The intake sum (R142) -/

/-- A slot value widened exactly to FP32, with NANIN alone for a NaN or an infinity. -/
def widen (gfmt v : Nat) : Nat × Flags :=
  match fmtOf gfmt with
  | none => (0, 0)
  | some f =>
    let x := f.decode v
    let special := match x with | .fin .. => false | _ => true
    (if x.isNan then fp32.nanBits else (opCvt f fp32 .rne false v).1, flagIf special flagNANIN)

/-- The bytes of an element in a slot of a chunk. -/
def Chunk.elemAt (c : Chunk) (slot pos : Nat) : Nat :=
  let w := fmtBytes c.mrec.gfmt
  match NMap.get? c.lines (slot * 4096 + pos * w / 64) with
  | some l => l.toNat / 256 ^ (pos * w % 64) % 256 ^ w
  | none => 0

/-- The summed gradient of an element of a complete chunk, with its flags (R132, R136, R142). -/
def Chunk.sumAt (c : Chunk) (pos : Nat) : Nat × Flags :=
  let vs := (List.range c.mrec.ns).map fun sl => (sl, widen c.mrec.gfmt (c.elemAt sl pos))
  let pre := vs.foldl (fun f p => f ||| p.2.2) 0
  if c.mrec.comp ∧ 1 < c.mrec.ns then
    match treeSum compNode (vs.map fun p => (p.1, (((p.2.1, 0), (0 : Flags)) : CPair))) with
    | none => (0, pre)
    | some x =>
      let r := opAdd fp32 .rne false x.1.1 x.1.2
      (r.1, pre ||| x.2 ||| r.2)
  else
    match treeSum (addF fp32 .rne false) (vs.map fun p => (p.1, (p.2.1, (0 : Flags)))) with
    | none => (0, pre)
    | some x => (x.1, pre ||| x.2)

/-- The chunk number of a manifest that holds an element of a tensor, with the element's position in it. -/
def chunkOfElem (rs : List MRec) (tensor : BitVec 24) (e : Nat) : Option (Nat × Nat) :=
  match rs.find? fun r => r.tensor == tensor && decide (r.e0 ≤ e) && decide (e < r.e0 + r.nt) with
  | some r => some (r.chunk0 + (e - r.e0) / max 1 r.ne, (e - r.e0) % max 1 r.ne)
  | none => none

end Sys2Proof.Machine
end

