-- ==== Sys2Proof/Machine/Sweep.lean ====
section
/-! DEFINITION. The sweep: its checks and order, the pieces of a strip in its streams' regions, staging, section runs,
panels built, written, passed and zeroed, and its states up to CLOSING (R151 to R157, R183 to R187, R191, R192). -/

namespace Sys2Proof.Machine

/-! ## Ranges of host memory (R303) -/

/-- The driving elements E_d of a group (R154). -/
def State.drivingCount (s : State) (i : Fin 64) (g : Nat) (p : Program) : Nat :=
  match drivingStream p with
  | some st => (s.streamRegions i g p.drive).foldl (fun n r => n + regionElems st r.2.lenp) 0
  | none => 0

/-- ⌈a / b⌉ bytes that `n` elements of a DERIVED stream take from its base: RB each, packed for an MX stream, one for each
block of 32 for a scale stream (R154, R127). -/
def derivedLen (p : Program) (st : Stream) (n : Nat) : Nat :=
  if isMx st.fmt then ceilDiv (n * mxBits st.fmt) 8 else if (scaledBy p st).isSome then ceilDiv n 32 else n * recBytes st

/-- The ranges of host memory in use: an owner number, base and length. The notice page, the step-record ring and the
mirror page while their EN is 1, the derived streams of the groups a sweep runs, the image of a LOAD and the stream of
an EXPORT under way. -/
def State.hostRanges (s : State) : List (Nat × Nat × Nat) :=
  (if s.regs.notifyEn then [(1, s.regs.notifyBase.toNat, 4096)] else []) ++
  (if s.audit.srEn then [(2, s.audit.srBase.toNat, 2 ^ 20)] else []) ++
  (if s.flt.mirrorEn then [(3, s.flt.mirrorBase.toNat, 4096)] else []) ++
  (if s.ib.busy then [(4, s.ib.src.toNat, s.ib.len.toNat + 256)] else []) ++
  (match s.rs.running with | some x => [(5, x.dst, 64 + 4104 * x.count)] | none => []) ++
  (tenantIdxs.flatMap fun i =>
    (s.ten i).sweep.groups.flatMap fun r =>
      match (s.bankOf i).image.progs[r.prog]? with
      | some p => p.streams.filterMap fun st =>
          if st.role = .derived then
            some (16 + 16 * i.val + st.no, ((s.ten i).sweep.bases.toList.getD st.no 0).toNat, derivedLen p st (s.drivingCount i r.grp p))
          else none
      | none => [])

/-- Whether a range keeps the rule of R303: outside the span, the directory and the digest table and apart from every
other range in use. -/
def State.rangeOk (s : State) (owner base len : Nat) : Bool :=
  s.clearOfSpan base len &&
    s.hostRanges.all fun r => r.1 == owner || decide (base + len ≤ r.2.1) || decide (r.2.1 + r.2.2 ≤ base)

/-! ## Pieces of a strip -/

/-- A run of bits of a region that belongs to a strip: the entry, its offset in the region's view, its offset in the stage
area, its length. -/
structure Piece where
  ctx : Nat
  off : Nat
  stage : Nat
  len : Nat
  deriving DecidableEq, Repr

/-- The bit at which element `u` of a stream lies, in a view or a stage area: records one after another, MX elements packed
panel by panel (R129, R151). -/
def elemBit (st : Stream) (u : Nat) : Nat :=
  if isMx st.fmt then u / mxPerPanel st.fmt * 32768 + u % mxPerPanel st.fmt * mxBits st.fmt else 8 * u * recBytes st

/-- Bits of an element of a stream. -/
def elemBits (st : Stream) : Nat := if isMx st.fmt then mxBits st.fmt else 8 * recBytes st

/-- A run of `n` elements from `u` in a region and from `j` in the stage area, cut where one of them leaves a panel. -/
def cutRun (per : Nat) : Nat → Nat → Nat → Nat → List (Nat × Nat × Nat)
  | 0, _, _, _ => []
  | f + 1, u, j, n =>
    if n = 0 then []
    else
      let k := min n (min (per - u % per) (per - j % per))
      (u, j, k) :: cutRun per f (u + k) (j + k) (n - k)

/-- The pieces of elements `a` to `b` of a stream over its regions, which the strip's stage area holds from its first element
on; `base` counts the elements of the regions passed (R153, R154). -/
def piecesIn (st : Stream) (a b : Nat) : List (Nat × Entry) → Nat → List Piece
  | [], _ => []
  | (c, e) :: t, base =>
    let len := regionElems st e.lenp
    let lo := max a base
    let n := min b (base + len) - lo
    let runs := if isMx st.fmt then cutRun (mxPerPanel st.fmt) (2 * n / mxPerPanel st.fmt + 3) (lo - base) (lo - a) n
      else if n = 0 then [] else [(lo - base, lo - a, n)]
    runs.map (fun r => { ctx := c, off := elemBit st r.1, stage := elemBit st r.2.1, len := r.2.2 * elemBits st }) ++
      piecesIn st a b t (base + len)

/-- The region and the element in it at ordinal `o` of a stream. -/
def atOrdinal (st : Stream) : List (Nat × Entry) → Nat → Option (Entry × Nat)
  | [], _ => none
  | (_, e) :: t, o =>
    let len := regionElems st e.lenp
    if o < len then some (e, o) else atOrdinal st t (o - len)

/-- The scale of the block at ordinal `o` of an MX stream: block b of the element panel of logical index q has scale-stream
element q × (blocks per panel) + b (R129), in the scale region that holds it, of the element region's tensor where one of
that tensor does. -/
def scalePiece (m : Stream) (es ss : List (Nat × Entry)) (o stage : Nat) : Option Piece :=
  match atOrdinal m es o with
  | none => none
  | some (e, u) =>
    let per := mxPerPanel m.fmt
    let q := (e.lfirst.toNat + u / per) * (per / 32) + u % per / 32
    let holds (r : Nat × Entry) : Bool := decide (4096 * r.2.lfirst.toNat ≤ q) && decide (q < 4096 * (r.2.lfirst.toNat + r.2.lenp))
    match (ss.find? fun r => holds r && r.2.tensor == e.tensor) <|> ss.find? holds with
    | none => none
    | some (c, r) => some { ctx := c, off := 8 * (q - 4096 * r.lfirst.toNat), stage := 8 * stage, len := 8 }

/-- A driving strip: its region, its first ordinal, its elements, its first logical element, its parity. -/
structure StripAt where
  ctx : Nat
  ord : Nat
  n : Nat
  le : Nat
  odd : Bool
  tensor : BitVec 24
  deriving DecidableEq, Repr

/-- Strip `k` of a driving region of a group (R153, R154). -/
def State.stripAt (s : State) (i : Fin 64) (g : Nat) (p : Program) (ctx k : Nat) : Option StripAt :=
  match drivingStream p with
  | none => none
  | some st =>
    let regs := s.streamRegions i g p.drive
    let before := (regs.takeWhile fun r => r.1 != ctx).foldl (fun n r => n + regionElems st r.2.lenp) 0
    match regs.find? fun r => r.1 == ctx with
    | none => none
    | some (_, e) =>
      let n := progN p
      let all := regionElems st e.lenp
      some { ctx := ctx, ord := before + k * n, n := min n (all - k * n), le := firstElem st e + k * n
             odd := k % 2 == 1, tensor := e.tensor }

/-- The pieces of a strip in a stream with regions. -/
def State.stripPieces (s : State) (i : Fin 64) (g : Nat) (p : Program) (x : StripAt) (st : Stream) : List Piece :=
  let regs := s.streamRegions i g st.no
  match scaledBy p st with
  | none => piecesIn st x.ord (x.ord + x.n) regs 0
  | some m =>
    if m.role = .derived then piecesIn st (x.ord / 32) (ceilDiv (x.ord + x.n) 32) regs 0
    else (List.range (ceilDiv x.n 32)).filterMap fun u => scalePiece m (s.streamRegions i g m.no) regs (x.ord + 32 * u) u

/-- The panels a piece touches: entry and panel. -/
def Piece.panels (x : Piece) : List (Nat × Nat) :=
  (List.range ((x.off + x.len - 1) / 32768 + 1 - x.off / 32768)).map fun j => (x.ctx, x.off / 32768 + j)

/-- The streams of a program that have regions and take part strip by strip. -/
def stripStreams (p : Program) : List Stream := p.streams.filter fun st => st.role != .scalar && st.role != .derived

/-- The panels a strip touches, in any stream. -/
def State.stripPanels (s : State) (i : Fin 64) (g : Nat) (p : Program) (x : StripAt) : List (Nat × Nat) :=
  ((stripStreams p).flatMap fun st => (s.stripPieces i g p x st).flatMap Piece.panels).dedup

/-- The panels of the streams a strip writes. -/
def State.stripWrites (s : State) (i : Fin 64) (g : Nat) (p : Program) (x : StripAt) : List (Nat × Nat) :=
  (((stripStreams p).filter fun st => st.role != .in_).flatMap fun st =>
    (s.stripPieces i g p x st).flatMap Piece.panels).dedup

/-- `n` committed bytes of a region's view from offset `o` on (bank C, R43). -/
def State.viewBytes (s : State) (e : Entry) (o n : Nat) : List Byte :=
  let first := o / 4096
  let panels := (List.range ((o + n + 4095) / 4096 - first)).flatMap fun j => s.bankC e (first + j)
  slice panels (o - 4096 * first) n

/-- `old` with `n` bits from bit `o` on taken from `new` from bit `k` on. -/
def mergeBits (old : List Byte) (o n : Nat) (new : List Byte) (k : Nat) : List Byte :=
  if o = 0 ∧ k = 0 ∧ n = 8 * old.length ∧ old.length = new.length then new
  else
    let x := leNat old
    leBytes old.length (x / 2 ^ (o + n) * 2 ^ (o + n) + leNat new / 2 ^ k % 2 ^ n * 2 ^ o + x % 2 ^ o)

/-- Bytes that `n` bits from bit `o` on touch: the first, and how many. -/
def bitSpan (o n : Nat) : Nat × Nat := (o / 8, (o % 8 + n + 7) / 8)

/-! ## Staging and running (R151, R153, R156) -/

/-- Where a stream's stage area lies in the working area for a strip (R159). -/
def stageBase (p : Program) (st : Stream) (odd : Bool) : Nat := st.stage + (if odd then stageLen p st else 0)

/-- The working area with a strip staged: IN and INOUT from bank C, everything else zero, the scalar page in place. -/
def State.stageStrip (s : State) (i : Fin 64) (r : GroupRun) (p : Program) (x : StripAt) : NMap Byte :=
  p.streams.foldl (fun w st =>
    if st.role = .scalar then Mem.writeN (2 ^ 23) w st.stage r.scalar
    else
      let b := stageBase p st x.odd
      let w := Mem.zero w b (stageLen p st)
      if st.role = .in_ ∨ st.role = .inout then
        (s.stripPieces i r.grp p x st).foldl (fun w q =>
          match s.entry q.ctx with
          | some e =>
            let v := bitSpan q.off q.len
            let t := bitSpan q.stage q.len
            Mem.writeN (2 ^ 23) w (b + t.1) (mergeBits (Mem.readN (2 ^ 23) w (b + t.1) t.2) (q.stage % 8) q.len
              (s.viewBytes e v.1 v.2) (q.off % 8))
          | none => w) w
      else w) s.work

/-- The summed gradient of a strip's elements with its flags: +0 where no record covers the element (R139, R142). -/
def State.stripGrad (s : State) (i : Fin 64) (x : StripAt) : List (Nat × Flags) :=
  let t := s.ten i
  (List.range x.n).map fun j =>
    match chunkOfElem t.sweep.recs x.tensor (x.le + j) with
    | none => (0, 0)
    | some (c, pos) =>
      match t.intake.chunks.find? fun y => y.no == c with
      | some y => y.sumAt pos
      | none => (0, 0)

/-- Chunks a strip needs. -/
def State.stripChunks (s : State) (i : Fin 64) (x : StripAt) : List Nat :=
  ((List.range x.n).filterMap fun j => (chunkOfElem (s.ten i).sweep.recs x.tensor (x.le + j)).map (·.1)).dedup

/-- Whether a chunk can be read: allocated in this manifest and complete. -/
def State.chunkReady (s : State) (i : Fin 64) (c : Nat) : Bool :=
  (s.ten i).intake.chunks.any fun y => y.no == c && y.complete

/-- What a section run is given (R156). `x` is the strip of RED and BODY. -/
def State.runCtx (s : State) (i : Fin 64) (r : GroupRun) (p : Program) (x : Option StripAt) : RunCtx :=
  let grads := match x with | some y => s.stripGrad i y | none => []
  let bank := (s.ten i).bank
  { prog := p
    pool := poolBase bank + 4 * (((s.bankOf i).image.progs.take r.prog).map fun q => q.consts.length).sum
    odd := match x with | some y => y.odd | none => false
    grad := fun j => (grads.getD j (0, 0)).1
    epoch := (s.ten i).commit.openEpoch
    acc := fun a =>
      let base := (p.accs.take (a / 1024)).foldl (· + ·) 0
      ((r.accs.getD (base + a % 1024) 0)).toNat
    tenant := (s.tagOf i).toNat
    tensor := match x with | some y => y.tensor.toNat | none => 0
    lpanel := match x with | some y => y.le / max 1 (progN p) | none => 0
    slots := slotsOf p }

/-! ## Flags (R146, R147) -/

/-- Flags raised in a tenant's attempt: the first raising of each counts, is logged or withholds the vote as
MNL_UE_REACT says. -/
def State.raiseFlags (s : State) (i : Fin 64) (fl : Flags) : State :=
  (List.range 7).foldl (fun s b =>
    if fl.getLsbD b && !(s.ten i).sweep.flags.getLsbD b then
      let s := s.updSweep i fun w => { w with flags := w.flags ||| (1 <<< b) }
      let react := bitsOf s.cfg.inst.react.toNat (2 * b) 2
      if react = 0 then s.count (0x77 + b)
      else
        let s := s.raiseT i (0x77 + b)
        if react = 2 then s.withhold i 0x03 else s
    else s) s

/-- A sweep stopped: HELD with the event's code as its cause, and the vote withheld (R166, R179, R184). -/
def State.stopSweep (s : State) (i : Fin 64) (code reason : Nat) : State := (s.holdSweep i code).withhold i reason

/-! ## Opening a sweep (R154, R191) -/

/-- Groups with a region of the tenant, ascending. -/
def State.sweepGroups (s : State) (i : Fin 64) : List Nat :=
  (List.range 16).filter fun g => g != 0 && (s.entriesOf (s.tagOf i)).any fun p => s.inSweep i p && p.2.sgrp.toNat == g

/-- The conditions of R154 on a group, but the binding. -/
def State.groupOk (s : State) (i : Fin 64) (g : Nat) (p : Program) : Bool :=
  let regs := s.groupRegions i g
  let n := progN p
  let ed := s.drivingCount i g p
  let dregs := s.streamRegions i g p.drive
  let dst := (drivingStream p).getD default
  let strips := dregs.map fun r => (firstElem dst r.2 / n, ceilDiv (regionElems dst r.2.lenp) n)
  (regs.all fun r => p.streams.any fun st => st.no == r.2.stream.toNat && st.role != .derived) &&
  ((stripStreams p).all fun st => !(s.streamRegions i g st.no).isEmpty) &&
  (dregs.all fun r => firstElem dst r.2 % n == 0) &&
  ((stripStreams p).all fun st =>
    let have_ := (s.streamRegions i g st.no).foldl (fun m r => m + regionElems st r.2.lenp) 0
    let want := if (scaledBy p st).isSome then ceilDiv ed 32 else ed
    st.no == p.drive || (decide (want ≤ have_) && decide (have_ < want + ceilDiv 32768 (max 1 (elemBits st))))) &&
  (p.streams.all fun st => st.role != .scalar ||
    (match s.streamRegions i g st.no with | [r] => r.2.lenp == 1 | _ => false)) &&
  (p.red.isEmpty || rangesDisjoint strips) &&
  (p.streams.all fun st => st.role != .derived ||
    s.rangeOk (16 + 16 * i.val + st.no) ((s.ten i).sweep.bases.toList.getD st.no 0).toNat (derivedLen p st ed))

/-- The strip need P(g, s) of a group in a slot, in panels (R191). -/
def State.stripNeed (s : State) (i : Fin 64) (g k : Nat) (p : Program) : Nat :=
  p.streams.foldl (fun n st =>
    let here := (s.streamRegions i g st.no).any fun r => r.2.slot.val == k
    if !here then n
    else if st.role = .inout ∨ st.role = .out then n + ceilDiv (stageLen p st) 4096 + 1
    else if st.role = .scalar then n + 1
    else n) 0

/-- The event code and REASON with which a group fails its checks; none where it passes (R154, R191). -/
def State.groupFault (s : State) (i : Fin 64) (g : Nat) : Option (Nat × Nat) :=
  match s.boundProg i g with
  | none => some (0x91, 0x05)
  | some p =>
    if !s.groupOk i g p then some (0x92, 0x05)
    else if (s.settSlots i).any fun k => decide (65536 * (s.slot k).alloc < 4096 * s.stripNeed i g k p) then some (0xA1, 0x0C)
    else none

/-- The run of a group at the opening of a sweep: its scalar panel staged (R156). -/
def State.openGroup (s : State) (i : Fin 64) (g : Nat) : Option GroupRun :=
  match s.boundIdx i g, s.boundProg i g with
  | some n, some p =>
    let sc := match p.streams.find? fun st => st.role == .scalar with
      | some st => (s.streamRegions i g st.no).head?
      | none => none
    some { grp := g, prog := n, scalarCtx := sc.map (·.1)
           scalar := match sc with | some r => s.bankC r.2 0 | none => []
           leaves := [], accs := [] }
  | _, _ => none

/-- Whether the manifest covers some element of a range (R155). -/
def covers (rs : List MRec) (tensor : BitVec 24) (e n : Nat) : Bool :=
  rs.any fun r => r.tensor == tensor && decide (r.e0 < e + n) && decide (e < r.e0 + r.nt)

/-- Strips of a driving region. -/
def stripCount (p : Program) (e : Entry) : Nat :=
  match drivingStream p with | some st => ceilDiv (regionElems st e.lenp) (progN p) | none => 0

/-- The strips of a driving region, with the skip of R155 decided. -/
def State.regionStrips (s : State) (i : Fin 64) (g : Nat) (p : Program) (rs : List MRec) (c : Nat) (e : Entry) :
    List SweepItem :=
  (List.range (stripCount p e)).filterMap fun k =>
    match s.stripAt i g p c k with
    | none => none
    | some x =>
      let sparse := (s.stripPanels i g p x).all fun q => match s.entry q.1 with | some y => y.sparse | none => true
      some (.strip g c k (!covers rs x.tensor x.le x.n && sparse))

/-- An activity ramp begins when activity rises from idle: no sweep of the instance is in PREP or BODY (R368). -/
def State.startRamp (s : State) : State :=
  if tenantIdxs.any fun i => (s.ten i).sweep.state == .prep || (s.ten i).sweep.state == .body then s
  else { s with power := { s.power with ramp := true, rampGroups := 0, rampGf := 0 } }

/-- The sweep enters PREP (R184): every group checked, the section runs and the steps of the body and scalar passes laid
out in sweep order (R154, R183). -/
def State.enterPrep (s : State) (i : Fin 64) : State :=
  let groups := s.sweepGroups i
  let faults := groups.filterMap fun g => (s.groupFault i g).map fun f => (g, f)
  let recs := (s.ten i).intake.recs
  match faults with
  | (_, code, reason) :: rest =>
    let s := s.updSweep i fun w => { w with state := .prep }
    let s := rest.foldl (fun s f => (s.raiseT i f.2.1 f.1).withhold i f.2.2) (s.raiseT i code)
    s.stopSweep i code reason
  | [] =>
    let runs := groups.filterMap fun g => s.openGroup i g
    let prep := groups.flatMap fun g =>
      match s.boundProg i g with
      | none => []
      | some p =>
        (if p.pro.isEmpty then [] else [PrepItem.pro g]) ++
        (if p.red.isEmpty then [] else
          (s.streamRegions i g p.drive).flatMap fun r => (List.range (stripCount p r.2)).map fun k => PrepItem.red g r.1 k) ++
        (if p.mid.isEmpty then [] else [PrepItem.mid g])
    let mine := inSweepOrder ((s.entriesOf (s.tagOf i)).filter fun p => s.inSweep i p || p.2.state == .retiring)
    let body := mine.flatMap fun (c, e) =>
      if e.state = .retiring then (List.range e.lenp).map fun q => SweepItem.zero c q
      else
        match s.boundProg i e.sgrp.toNat with
        | none => []
        | some p => if p.drive = e.stream.toNat then s.regionStrips i e.sgrp.toNat p recs c e else []
    let scalars := runs.filterMap fun r => r.scalarCtx.map fun _ => SweepItem.scalar r.grp
    let man := (s.ten i).intake.manBytes 0 (32 + 32 * recs.length)
    let s := s.startRamp.updTen i fun x => { x with steprec := { x.steprec with intake := [(0, man)] } }
    s.updSweep i fun w => { w with state := .prep, groups := runs, prep := prep, todo := body ++ scalars, recs := recs }

/-! ## Panels (R155, R185, R186) -/

/-- Whether a panel of an entry is coded: it takes a Hawk slot and forms a delta (R185, R186). -/
def Entry.coded (e : Entry) : Bool := e.cls == .skim || (e.cls == .direct && e.state == .retiring)

/-- The strips still due that touch a panel; `computed` restricts to those not skipped. -/
def State.stillTouched (s : State) (i : Fin 64) (computed : Bool) (q : Nat × Nat) : Bool :=
  (s.ten i).sweep.todo.any fun it =>
    match it with
    | .strip g c k skip =>
      if computed && skip then false
      else
        match s.boundProg i g with
        | none => false
        | some p => match s.stripAt i g p c k with | some x => (s.stripPanels i g p x).contains q | none => false
    | _ => false

/-- A panel passed as untouched: D set with the open attempt (R97), counter 0xAA. -/
def State.passPanel (s : State) (i : Fin 64) (q : Nat × Nat) : State :=
  match s.entry q.1 with
  | none => s
  | some e =>
    let r := s.panelRec e q.2
    if (r.n || r.d) && s.recCurrent r then s
    else
      let s := s.setDir (e.panelAddr q.2 false) { r with d := true, att := (s.ten i).commit.att }
      (s.count 0xAA).updSweep i fun w => { w with dropped := w.dropped + 1 }

/-- The panels that no strip due touches any more and that were not computed, passed. -/
def State.passDone (s : State) (i : Fin 64) (qs : List (Nat × Nat)) : State :=
  qs.foldl (fun s q =>
    if s.stillTouched i false q || ((s.ten i).sweep.builds.any fun b => b.ctx == q.1 && b.panel == q.2) then s
    else s.passPanel i q) s

/-- The new bytes of a panel as far as they are computed: bank C before the first strip of it. -/
def State.buildOf (s : State) (i : Fin 64) (c p : Nat) : List Byte :=
  match (s.ten i).sweep.builds.find? fun b => b.ctx == c && b.panel == p with
  | some b => b.bytes
  | none => match s.entry c with | some e => s.bankC e p | none => []

/-- New bytes put into the builds of the panels of a region's view from offset `o` on. -/
def State.buildWrite (s : State) (i : Fin 64) (c o : Nat) (bs : List Byte) : State :=
  (List.range ((o + bs.length + 4095) / 4096 - o / 4096)).foldl (fun s j =>
    let p := o / 4096 + j
    let lo := max o (4096 * p)
    let part := slice bs (lo - o) (min (o + bs.length) (4096 * (p + 1)) - lo)
    let new := splice (s.buildOf i c p) (lo - 4096 * p) part
    s.updSweep i fun w => { w with
      builds := (w.builds.filter fun b => !(b.ctx == c && b.panel == p)) ++ [{ ctx := c, panel := p, bytes := new }] }) s

/-- A panel written to bank 1 − C: its record takes N, its delta is formed or dropped (R155, R185, R186). -/
def State.writePanel (s : State) (i : Fin 64) (c p : Nat) (new : List Byte) : State :=
  match s.entry c with
  | none => s
  | some e =>
    let r := s.panelRec e p
    let s := (s.putBytes (e.panelAddr p (!r.c)) new).setKept (e.panelAddr p (!r.c)) (pd new)
    let s := s.setDir (e.panelAddr p false) { r with n := true, d := false, att := (s.ten i).commit.att }
    let s := (s.count 0x1E).updSweep i fun w => { w with written := w.written + 1 }
    if e.coded then s.formPanel i c p (e.spanel + p) new else s

/-- Hawk slots reserved for the coded panels among `qs` that hold none yet; none where the room is short (R192). -/
def State.reserveAll (s : State) (qs : List (Nat × Nat)) : Option State :=
  qs.foldl (fun acc q =>
    match acc with
    | none => none
    | some s =>
      match s.entry q.1 with
      | none => some s
      | some e =>
        if !e.coded || s.reserved q.1 q.2 then some s
        else if s.hawkRoom e.slot.val 16 1 then some (s.reserve e.slot q.1 q.2 (s.bankC e q.2))
        else none) (some s)

/-- The first panel of `qs` whose committed bytes disagree with the kept digest, of a region that has one (R304). -/
def State.badPanel (s : State) (qs : List (Nat × Nat)) : Option Nat :=
  qs.findSome? fun q =>
    match s.entry q.1 with
    | some e =>
      let a := e.panelAddr q.2 (s.panelRec e q.2).c
      if e.sealed && !s.digestOk a then some a else none
    | none => none

/-- Whether one of the panels waits for its repair (R272). -/
def State.anyInRepair (s : State) (qs : List (Nat × Nat)) : Bool :=
  qs.any fun q => s.badger.repairs.contains (.data q.1 q.2)

/-- A fault met while a strip is staged or run (R148, R179, R304). The sweep waits at the strip, but for a micro-op
fault, which stops it. -/
def State.stripFault (s : State) (i : Fin 64) (flt : ReadFault) (qs : List (Nat × Nat)) : Option State :=
  match flt with
  | .microop =>
    let b : Bank → Bank := fun x => { x with st := .bad }
    let s := if (s.ten i).bank then { s with ib := { s.ib with bank1 := b s.ib.bank1 } }
      else { s with ib := { s.ib with bank0 := b s.ib.bank0 } }
    some ((s.raiseT i 0x90).stopSweep i 0x90 0x05)
  | .working => some s
  | .intake c =>
    let s := s.updIntake i fun t => { t with chunks := t.chunks.map fun y => if y.no = c then { y with bad := true } else y }
    some ((s.raiseT i 0x7F c).withhold i 0x06)
  | .stack a => some ((s.raise { code := 0x39, tenant := s.tagOf i, detail := a.toNat }).queueRepairAt a.toNat)
  | .digestWord =>
    match qs.head? with
    | some q =>
      match s.entry q.1 with
      | some e => some ((s.raiseT i 0xF1).digestFail (e.panelAddr q.2 (s.panelRec e q.2).c))
      | none => some s
    | none => some s
  | .hawk => none
  | .none => none

/-- Every strip of a group, in the order of the driving ordinals: entry, number, place. -/
def State.groupStrips (s : State) (i : Fin 64) (g : Nat) (p : Program) : List (Nat × Nat × StripAt) :=
  (s.streamRegions i g p.drive).flatMap fun r =>
    (List.range (stripCount p r.2)).filterMap fun k => (s.stripAt i g p r.1 k).map fun x => (r.1, k, x)

/-- ORD of a group (R209): the first ordinal of the strips due or passed over, and of the last strip of a panel computed
whole and not written yet. -/
def State.groupOrd (s : State) (i : Fin 64) (g : Nat) (p : Program) : Nat :=
  let w := (s.ten i).sweep
  let all := s.groupStrips i g p
  let left := all.filter fun y =>
    w.missed.contains (g, y.1, y.2.1) || w.todo.any fun it => match it with | .strip h c k _ => (h, c, k) == (g, y.1, y.2.1) | _ => false
  let unwritten := (w.builds.filter fun b => !s.stillTouched i true (b.ctx, b.panel)).filterMap fun b =>
    (all.filter fun y => (s.stripPanels i g p y.2.2).contains (b.ctx, b.panel)).getLast?
  ((left ++ unwritten).map fun y => y.2.2.ord).foldl min (s.drivingCount i g p)

/-- Whether the body pass of a group is complete (R209). -/
def State.groupDone (s : State) (i : Fin 64) (g : Nat) : Bool :=
  let w := (s.ten i).sweep
  !(w.todo.any fun it => match it with | .strip h _ _ _ => h == g | _ => false) &&
    !(w.builds.any fun b => match s.entry b.ctx with | some e => e.sgrp.toNat == g | none => false)

/-- Chunks whose elements no strip due and no panel unwritten needs any more, freed (R142). A panel of any stream holds the
chunks of every strip with an element in it. -/
def State.freeDoneChunks (s : State) (i : Fin 64) : State :=
  let t := s.ten i
  let needed : List Nat := t.sweep.todo.flatMap fun it =>
    match it with
    | .strip g c k skip =>
      if skip then []
      else
        match s.boundProg i g with
        | none => []
        | some p => match s.stripAt i g p c k with | some x => s.stripChunks i x | none => []
    | _ => []
  let held : List Nat := t.sweep.builds.flatMap fun b =>
    match s.entry b.ctx with
    | none => []
    | some e =>
      match s.boundProg i e.sgrp.toNat with
      | none => []
      | some p =>
        let g := e.sgrp.toNat
        ((s.groupStrips i g p).filter fun y => (s.stripPanels i g p y.2.2).contains (b.ctx, b.panel)).flatMap fun y =>
          s.stripChunks i y.2.2
  if t.intake.epoch = t.commit.openEpoch then
    s.freeChunks i fun c => !needed.contains c.no && !held.contains c.no && c.complete
  else s

/-- The sweep's own transitions, as far as they can go (R184): INTAKE to PREP or HELD by the manifest, PREP to BODY
when the prologue pass is done, BODY to CLOSING when nothing is due and no step record is being formed (R307), CLOSING
to DONE. -/
def State.advanceSweep1 (s : State) (i : Fin 64) : State :=
  let t := s.ten i
  if s.flt.mode ≠ .normal then s
  else
    match t.sweep.state with
    | .intake =>
      if t.intake.epoch ≠ t.commit.openEpoch then s
      else
        match t.intake.manSt with
        | .ok => s.enterPrep i
        | .bad => s.stopSweep i 0x71 0x04
        | .absent => s
    | .prep => if t.sweep.prep.isEmpty then s.updSweep i fun w => { w with state := .body } else s
    | .body =>
      if t.sweep.todo.isEmpty && t.sweep.builds.isEmpty && t.steprec.busy.isNone then
        let s := s.updSweep i fun w => { w with state := .closing, waitIntake := false, waitHawk := false }
        let s := s.updCommit i fun c => { c with window := true }
        let s := (s.settSlots i).foldl (fun s k => if h : k < 16 then s.formMarker ⟨k, h⟩ else s) s
        if t.sweep.recs.isEmpty && t.intake.epoch == t.commit.openEpoch && t.intake.manSt == .ok then s.nextIntake i else s
      else s
    | .closing => s.closeSweep i
    | _ => s

/-- The transitions of one tenant's sweep run to their end. -/
def State.advanceSweep (s : State) (i : Fin 64) : State :=
  (List.range 5).foldl (fun s _ => s.advanceSweep1 i) s

end Sys2Proof.Machine
end

