-- ==== Sys2Proof/Machine/Attempt.lean ====
section
/-! DEFINITION. Step attempts: their opening, the commit and the abort of an attempt at a member (R43, R44, R212 to R216,
R224, R225), the state root and the step record (R305, R306). -/

namespace Sys2Proof.Machine

/-! ## State root and step record (R301, R305, R306) -/

/-- The kept digest of bank C of a panel of a region. -/
def State.keptC (s : State) (e : Entry) (p : Nat) : Word := s.kept (e.panelAddr p (s.panelRec e p).c)

/-- DROOT of a region: its panels' digests combined (R301). -/
def State.droot (s : State) (e : Entry) : Word := combine ((List.range e.lenp).map fun p => s.keptC e p)

/-- The code of a class (R85). -/
def Cls.code : Cls → Nat
  | .replica => 1
  | .skim => 2
  | .direct => 3

/-- The logical coordinate of a panel of a region. -/
def Entry.coord (e : Entry) (p : Nat) : Nat := e.tensor.toNat * 2 ^ 40 + (e.lfirst.toNat + p) % 2 ^ 40

/-- The bytes of a region leaf (R305). -/
def State.leafBytes (s : State) (e : Entry) : List Byte :=
  leBytes 2 e.tenant.toNat ++ leBytes 1 e.cls.code ++ leBytes 1 (bit e.sparse 0) ++ leBytes 1 e.sgrp.toNat ++
    leBytes 1 e.stream.toNat ++ leBytes 2 e.sorder.toNat ++ leBytes 8 (e.coord 0) ++ leBytes 4 e.lenp ++
    leBytes 8 e.droot.toNat ++ List.replicate 36 0 ++
    (List.range e.lenp).flatMap fun p => leBytes 8 (s.keptC e p).toNat

/-- One level of the Merkle tree: an odd last node is carried up unchanged (R305). -/
def merkleLevel : List (List Byte) → List (List Byte)
  | a :: b :: t => sha256 (a ++ b) :: merkleLevel t
  | l => l

/-- The state root over the leaves' digests (R305). -/
def merkleRoot : Nat → List (List Byte) → List Byte
  | _, [] => List.replicate 32 0
  | _, [a] => a
  | 0, a :: _ => a
  | n + 1, l => merkleRoot n (merkleLevel l)

/-- The root engine's work on a step record of epoch `e` begun: the leaves and the fields as they stand (R306). -/
def State.beginRecord (s : State) (i : Fin 64) (e : Nat) (tr : BitVec 7) (flags : BitVec 7) (intake : List Byte) : State :=
  let act := sortBy (fun a b => decide (a.2.coord 0 ≤ b.2.coord 0))
    ((s.entriesOf (s.tagOf i)).filter fun p => p.2.state == .active)
  let r : PendingRec := { epoch := e, tr := tr, flags := flags, gen := (s.ten i).fox.gen, time := s.time.now
                          prog := (s.bankOf i).digest, intake := intake
                          fresh := tr == 127 && (s.ten i).rs.joiner, leaves := act.map fun p => s.leafBytes p.2 }
  s.updTen i fun t => { t with steprec := { t.steprec with busy := some r } }

/-- The INTAKE field of a commit's record (R306). -/
def RecS.intakeDigest (r : RecS) : List Byte :=
  sha256 ((sortBy (fun a b => decide (a.1 ≤ b.1)) r.intake).flatMap (·.2))

/-! ## Opening an attempt (R43, R88, R93, R177, R199) -/

/-- A staged change of an ACTIVE entry taking place at an opening (R88, R93). -/
def Entry.applyStaged (e : Entry) : Entry :=
  match e.staged with
  | none => e
  | some .retire => { e with state := .retiring, staged := none }
  | some (.modify cls sparse elide sorder sgrp stream swtag) =>
    { e with cls := cls, sparse := sparse, elide := elide, sorder := sorder, sgrp := sgrp, stream := stream, swtag := swtag
             staged := none }

/-- Entries of a tenant changed. -/
def State.mapEntries (s : State) (tag : Tag) (f : Entry → Entry) : State :=
  { s with ctx := { s.ctx with table := s.ctx.table.map fun p => if p.2.tenant = tag then (p.1, f p.2) else p } }

/-- Whether a tenant has a sealed epoch and is not fenced, so that its banks move only at an opening. -/
def State.sealedTen (s : State) (i : Fin 64) : Bool := (s.ten i).sealed

/-- The program bank a tenant moves to at an opening: the armed target after a commit of an epoch from AT_EPOCH on
(R177), or the other bank when its own is BAD and the other VALID (R179). Each move logs event 0x94. -/
def State.moveBank (s : State) (i : Fin 64) (afterCommit : Bool) : State :=
  let t := s.ten i
  let other := if t.bank then s.ib.bank0 else s.ib.bank1
  let armedMove := s.ib.armed && afterCommit && t.bank != s.ib.target && decide (s.ib.armedAt.toNat ≤ t.commit.openEpoch)
  let badMove := decide ((s.bankOf i).st = .bad) && decide (other.st = .valid)
  if armedMove || badMove then (s.updTen i fun t => { t with bank := !t.bank }).raiseT i 0x94 else s

/-- What withholds the vote of a new attempt from its start: a CONTAINED region, a BROKEN slot (R98, R123, R216). -/
def State.standingCauses (s : State) (i : Fin 64) : State :=
  let s := if (s.entriesOf (s.tagOf i)).any fun p => p.2.state == .contained then s.withhold i 0x0A else s
  if (s.settSlots i).any fun k => (s.slot k).st == .broken then s.withhold i 0x0B else s

/-- A tenant's attempt opens for the open epoch and try (R43): counter, staged changes, program move, source entries and
numbers reset, flags cleared, the sweep in INTAKE. One still HELD stays so until a step abort and withholds this attempt's
vote (R184, R326; DEDUCED, log entry 56). -/
def State.openAttempt (s : State) (i : Fin 64) : State :=
  let c := (s.ten i).commit
  let s := s.updCommit i fun c => { c with
    isOpen := true, openDue := false, window := false, att := c.att + 1, vstate := .open_, wcause := 0, causes := []
    openedAt := s.time.now, advanced := false, roles := Vector.replicate 3 {} }
  let s := s.mapEntries (s.tagOf i) fun e => if e.state = .active then e.applyStaged else e
  let s := (s.moveBank i c.afterCommit).checkArmed
  let s := s.updFox i fun f => { f with joined := f.replacing.map (·.2) }
  let s := (s.settSlots i).foldl (fun s k => s.updSlot k fun x => { x with
    next := 0, markCount := none, done := false, runSent := 0
    sources := x.sources.map fun e => e.reset c.openEpoch c.openTry }) s
  let s := s.updSweep i fun w => { w with
    state := if w.state = .held then .held else .intake, cause := if w.state = .held then w.cause else 0, prep := [], todo := [], groups := [], recs := [], builds := [], missed := [], written := 0, dropped := 0
    waitIntake := false, waitHawk := false, flags := 0, bases := (s.ten i).dbase }
  let s := (s.parkDue i).standingCauses i
  if (s.ten i).sweep.state = .held then s.withhold i 0x10 else s

/-- Whether an opening that is due may take place: the tenant is neither parked for a switch nor held at a boundary nor
waiting for a generation, the instance runs, the member is not fenced, and the attempt number has been folded since it
was last closed (R44). -/
def State.mayOpen (s : State) (i : Fin 64) : Bool :=
  let t := s.ten i
  t.commit.openDue && !t.commit.isOpen && !t.commit.parked && !t.commit.genWait && !t.commit.atLimit &&
    decide (t.fox.self ≠ .fenced) && decide (s.flt.mode = .normal) && decide (t.rs.state = .idle ∨ t.rs.state = .armed) &&
    !t.commit.unfolded.getLsbD (t.commit.att + 1).toNat

/-- The opening that is due, where nothing holds it. -/
def State.tryOpen (s : State) (i : Fin 64) : State := if s.mayOpen i then s.openAttempt i else s

/-- An opening becomes due; one held by the fold walker alone counts under 0x3D (R44). -/
def State.dueOpen (s : State) (i : Fin 64) (afterCommit : Bool) : State :=
  let s := s.updCommit i fun c => { c with openDue := true, afterCommit := afterCommit }
  let c := (s.ten i).commit
  if c.unfolded.getLsbD (c.att + 1).toNat then s.count 0x3D else s.tryOpen i

/-! ## Commit and abort at a member (R224, R225) -/

/-- The attempt that closes recorded in the outcome map (R43). -/
def CommitS.close (c : CommitS) (committed : Bool) : CommitS :=
  let m : BitVec 256 := 1 <<< c.att.toNat
  { c with isOpen := false, outcomes := if committed then c.outcomes ||| m else c.outcomes &&& ~~~m
           unfolded := c.unfolded ||| m, window := false, reqDue := [], causes := [], asked := [] }

/-- MNL_EC_LAT at a decision: the ns from the own READY, where the member had given it (R230). -/
def CommitS.latAt (c : CommitS) (now : BitVec 64) : BitVec 32 :=
  if c.vstate = .ready then BitVec.ofNat 32 (now - c.readyAt).toNat else c.lat

/-- The directory lines that hold a region's records leave the lookaside (R42). -/
def State.dropLines (s : State) (e : Entry) : State :=
  let first := s.dirAddr (e.panelAddr 0 false) / 64
  let last := s.dirAddr (e.panelAddr (e.lenp - 1) true) / 64
  { s with gate := { s.gate with lookaside := s.gate.lookaside.filter fun l => decide (l < first) || decide (last < l) } }

/-- The directory records of every panel of a region cleared (R40, R42, R88). -/
def State.clearRecords (s : State) (e : Entry) : State :=
  let a := s.dirAddr (e.panelAddr 0 false)
  State.dropLines { s with mem := Mem.zero s.mem a (8 * e.lenp) } e

/-- An entry FREE with its records cleared (R88). -/
def State.freeRegion (s : State) (c : Nat) : State :=
  match s.entry c with
  | some e => (s.clearRecords e).freeEntry c
  | none => s

/-- The tenant's regions at a commit: RETIRING ones become FREE, ACTIVE ones take the epoch and their DROOT (R88,
R224). -/
def State.commitRegions (s : State) (i : Fin 64) (epoch : Nat) : State :=
  let mine := s.entriesOf (s.tagOf i)
  let s := (mine.filter fun p => p.2.state == .retiring).foldl (fun s p => s.freeRegion p.1) s
  (mine.filter fun p => p.2.state == .active).foldl (fun s p =>
    s.updEntry p.1 fun e => { e with epoch := epoch, droot := s.droot e }) s

/-- A lockstep pair at a commit of its tenant: digests are due where it sends and the epoch is a multiple of PERIOD, and
where it compares the new epoch is in hand (R315). -/
def LsPair.atCommit (p : LsPair) (epoch : Nat) (now : BitVec 64) : LsPair :=
  let due := epoch % max 1 p.period.toNat == 0
  let p : LsPair := if (p.role = .send ∨ p.role = .ring) ∧ due then { p with sendDue := some epoch, dueAt := now } else p
  if p.role = .compare ∨ p.role = .ring then { p with inHand := epoch, arrived := [], missed := false, done := !due } else p

/-- The lockstep pairs of a tenant at a commit; an epoch not fully compared by then counts under 0xF8 (R315). -/
def State.lockstepDue (s : State) (i : Fin 64) (epoch : Nat) : State :=
  let late := (s.audit.pairs.toList.filter fun p => (p.role == .compare || p.role == .ring) && p.tidx == i && !p.done).length
  let s : State := { s with audit := { s.audit with
    pairs := s.audit.pairs.map fun p => if p.tidx = i then p.atCommit epoch s.time.now else p } }
  if late = 0 then s else s.countN 0xF8 late

/-- A member applies the commit of its open attempt (R224): outcome, regions, step record, window, next attempt; HELD is not
left (R184). A tenant
that an armed switch affects parks (R360); one armed for a reslice at this epoch stops at the boundary (R286). -/
def State.applyCommit (s : State) (i : Fin 64) : State :=
  let t := s.ten i
  let e := t.commit.openEpoch
  let tr := t.commit.openTry
  let s := s.updCommit i fun c => { c.close true with
    committed := e, committedTry := tr, openEpoch := e + 1, openTry := 0, vstate := .open_, wcause := 0
    requested := [], reasons := [], lat := c.latAt s.time.now
    atLimit := decide (e + 1 = 2 ^ 48 - 1)
    parked := s.loader.shadowState == .armed && s.loader.affected.contains i }
  let s := s.commitRegions i e
  let s := s.beginRecord i e tr t.sweep.flags t.steprec.intakeDigest
  let s := s.dropSkim i
  let s := s.updSweep i fun w => { w with
    state := if w.state = .held then .held else .idle, builds := [], todo := [], prep := []
    flagsLast := w.flags, lastCommitted := true }
  let s := (s.count 0xB3).lockstepDue i e
  let s := if t.rs.state = .armed ∧ t.rs.at_.toNat ≤ e ∧ tr ≠ 127 then
      s.updTen i fun t => { t with rs := { t.rs with state := .moving, boundary := e } } else s
  s.dueOpen i true

/-- A member applies the abort of try `tr` of its open epoch (R225): the sweep ends, the intake is flushed, RETIRING
regions are ACTIVE again with their retire staged, reads held by the sweep are released with bank C (R46), and try
tr + 1 opens. The try count passes a multiple of 128 only under a new generation; where the member has that generation
already, it does not wait (R214). -/
def State.applyAbort (s : State) (i : Fin 64) (tr : BitVec 7) (reason : Byte) : State :=
  let t := s.ten i
  let s := s.updCommit i fun c => { (if c.isOpen then c.close false else c) with
    openTry := tr + 1, vstate := .open_, wcause := 0, reasons := (tr, reason) :: c.reasons
    genWait := tr == 127 && !c.advanced, reqDue := [], causes := [], asked := [], lat := c.latAt s.time.now }
  let s := s.dropSkim i
  let s := s.updSweep i fun w => { w with state := .idle, cause := 0, builds := [], todo := [], prep := []
                                          flagsLast := w.flags, lastCommitted := false
                                          waitIntake := false, waitHawk := false }
  let s := s.flushIntake i t.commit.openEpoch
  let s := s.mapEntries (s.tagOf i) fun e =>
    if e.state = .retiring then { e with state := .active, staged := some .retire } else e
  ((s.count 0xB4).unpark).dueOpen i false

end Sys2Proof.Machine
end

