-- ==== Sys2Proof/Machine/Slots.lean ====
section
/-! DEFINITION. Membership slots: what a record says of them, their forming, their state after a change of rank status
(R104, R121 to R123, R237, R247, R352, R359). -/

namespace Sys2Proof.Machine

/-! ## A record's slots -/

/-- The kind of a slot in a record. -/
def Record.kindOf (r : Record) (k : Nat) : SlotKind := r.inst.kinds.getD k .unused

/-- What of a slot's descriptor may not change under a non-FREE entry: the shared part, RANK, PBASE and Q. -/
def Record.slotFixed (r : Record) (k : Nat) : SlotKind × Option SettDesc × Option RepDesc :=
  (r.kindOf k, (r.setts.find? fun p => p.1 == k).map (·.2), (r.reps.find? fun p => p.1 == k).map (·.2))

/-- The envelope a record gives a tenant index. -/
def Record.envOf (r : Record) (i : Fin 64) : Option Envelope := r.tenants.find? fun e => e.tidx == i

/-- The tenant, by index and tag, whose mask holds a slot in a record. -/
def Record.ownerOf (r : Record) (k : Nat) : Option (Fin 64 × Tag) :=
  (r.tenants.find? fun e => e.slotMask.getLsbD k).map fun e => (e.tidx, e.tag)

/-- A slot's descriptor and allocation. -/
def Record.slotView (r : Record) (k : Nat) : (SlotKind × Option SettDesc × Option RepDesc) × Nat :=
  (r.slotFixed k, r.inst.alloc.getD k 0)

/-- Whether two records agree but for one tenant's envelope and its slots (R359). -/
def onlyTenant (a b : Record) (i : Fin 64) : Bool :=
  let mask (r : Record) (k : Nat) : Bool := match r.envOf i with | some e => e.slotMask.getLsbD k | none => false
  let strip (r : Record) : InstSect := { r.inst with kinds := [], alloc := [] }
  decide (a.glob = b.glob) && decide (strip a = strip b) && a.keysBytes == b.keysBytes &&
    (tenantIdxs.all fun j => j == i || decide (a.envOf j = b.envOf j)) &&
    (List.range 16).all fun k => mask a k || mask b k || decide (a.slotView k = b.slotView k)

/-! ## Forming a slot (R122) -/

/-- A descriptor's rows as the tenant's membership has them: a replaced address gives way to its target (R122, R252). -/
def liveRows (f : FoxS) (rows : List Row) : List Row :=
  rows.map fun r => { r with addr := (List.range f.targets.length).foldl (fun a _ =>
    match f.targets.find? fun p => p.1 == a && p.2 != a with | some p => p.2 | none => a) r.addr }

/-- Rank statuses of rows under a tenant's membership (R121). -/
def rowStatus (f : FoxS) (rows : List Row) : List RankSt :=
  rows.map fun r => if f.isLost r.addr then .lost else if f.replacing.any fun p => p.2 == r.addr then .replacing else .present

/-- The watch entries of a slot: one for every peer rank (R237, R247). -/
def State.slotWatch (s : State) (i : Fin 64) (k : Nat) (rows : List Row) (own : Nat) (sts : List RankSt) : List Watch :=
  rows.zipIdx.filterMap fun p =>
    if p.2 = own then none
    else some { addr := p.1.addr, tidx := i, slot := k, cand := false, rank := p.2, hseq := 0, time := 0, heard := false
                round := none, made := s.time.now
                status := match sts.getD p.2 .present with | .lost => .lost | .replacing => .unseen | .present => .unseen }

/-- The RING pair of a slot gone (R314). -/
def State.dropRing (s : State) (k : Nat) : State :=
  { s with audit := { s.audit with pairs := s.audit.pairs.map fun p =>
      match p.role, p.slot with
      | .ring, some q => if q.val = k then {} else p
      | _, _ => p } }

/-- The RING pair of a replica-set slot, from the PAIR its descriptor carries (R314). -/
def State.setRing (s : State) (i : Fin 64) (k : Nat) (d : RepDesc) : State :=
  let next := match d.rows[(d.index + 1) % max 1 d.rows.length]? with | some r => r.addr | none => 0
  if h : d.pair < 15 ∧ k < 16 then
    { s with audit := { s.audit with
        pairs := s.audit.pairs.set d.pair { partner := next, role := .ring, tidx := i, slot := some ⟨k, h.2⟩ } h.1 } }
  else s

/-- A sett slot enters FORMING under a descriptor (R122, R199, R247): own rank PRESENT, the others unconfirmed, source
entries for every other rank, watch entries made. A slot in no tenant's mask has none to watch for. -/
def State.formSett (s : State) (o : Option (Fin 64)) (k : Nat) (d : SettDesc) (alloc : Nat) : State :=
  let f : FoxS := match o with | some i => (s.ten i).fox | none => {}
  let c : CommitS := match o with | some i => (s.ten i).commit | none => {}
  let rows := liveRows f d.rows
  let sts := rowStatus f rows
  let s := s.dropRing k
  let srcs : List SrcEntry := (rows.zipIdx.filter fun p => p.2 != d.rank).map fun p =>
    { rank := p.2, addr := p.1.addr, epoch := c.openEpoch, tr := c.openTry, cum := 0, count := 0, closed := false
      broken := false, applied := 0, ring := 0, high := none, ackDue := false }
  let s := s.updSlot k fun _ => { kind := .sett, sett := { d with rows := rows }, st := .forming, ranks := sts, alloc := alloc
                                  sources := srcs, formedAt := s.time.now }
  let s : State := { s with watch := s.watch.filter fun w => w.cand || w.slot != k }
  match o with
  | none => s
  | some i =>
    ({ s with watch := s.watch ++ s.slotWatch i k rows d.rank sts } : State).updFox i fun f =>
      { f with self := if f.self = .none then .member else f.self }

/-- A replica-set slot under a descriptor. -/
def State.formReplica (s : State) (o : Option (Fin 64)) (k : Nat) (d : RepDesc) : State :=
  let f : FoxS := match o with | some i => (s.ten i).fox | none => {}
  let rows := liveRows f d.rows
  let s := s.dropRing k
  let s := match o with | some i => s.setRing i k { d with rows := rows } | none => s
  let s := s.updSlot k fun _ => { kind := .replica, rep := { d with rows := rows }, st := .complete, ranks := rowStatus f rows
                                  formedAt := s.time.now }
  let s : State := { s with watch := s.watch.filter fun w => w.cand || w.slot != k }
  match o with
  | none => s
  | some i => s.updFox i fun f => { f with self := if f.self = .none then .member else f.self }

/-- A slot unused. -/
def State.dropSlot (s : State) (k : Nat) : State :=
  let s := (s.dropRing k).updSlot k fun _ => {}
  { s with watch := s.watch.filter fun (w : Watch) => w.cand || w.slot != k }

/-- A slot formed under a record: the kind, descriptor and allocation the record gives it. -/
def State.formSlot (s : State) (o : Option (Fin 64)) (r : Record) (k : Nat) : State :=
  match r.kindOf k with
  | .sett =>
    match r.setts.find? fun (p : Nat × SettDesc) => p.1 == k with
    | some p => s.formSett o k p.2 (r.inst.alloc.getD k 0)
    | none => s.dropSlot k
  | .replica =>
    match r.reps.find? fun (p : Nat × RepDesc) => p.1 == k with
    | some p => s.formReplica o k p.2
    | none => s.dropSlot k
  | .unused => s.dropSlot k

/-- Parity storage of a descriptor released: its records cleared (R122). -/
def State.clearParity (s : State) (d : SettDesc) : State :=
  { s with mem := Mem.zero s.mem (s.dirAddr (s.parityAddr d 0 false)) (8 * d.q) }

/-- Whether two address ranges are apart. -/
def apart (a n b m : Nat) : Bool := decide (a + n ≤ b) || decide (b + m ≤ a) || decide (n = 0) || decide (m = 0)

/-- The parity storage of the sett slots of a record, in panels of the span. -/
def Record.parity (r : Record) : List (Nat × Nat) := r.setts.map fun p => (p.2.pbase, 2 * p.2.q)

/-! ## Checks of a bundle against the running record (R95, R344, R358) -/

/-- FIXED: a field that stands until the next memory-and-links reset changes. -/
def fixedChanged (a b : Record) : Bool :=
  !(a.glob.xe == b.glob.xe && a.glob.ye == b.glob.ye && a.glob.ze == b.glob.ze && a.glob.vcSkim == b.glob.vcSkim &&
    a.glob.vcBadger == b.glob.vcBadger && a.glob.vcControl == b.glob.vcControl && a.glob.vcIntake == b.glob.vcIntake &&
    a.inst.inst == b.inst.inst && a.inst.manager == b.inst.manager && a.inst.chip == b.inst.chip &&
    a.inst.place == b.inst.place && a.inst.feed == b.inst.feed && a.inst.plane == b.inst.plane &&
    a.inst.spanBase == b.inst.spanBase && a.inst.spanLen == b.inst.spanLen && a.inst.dgBase == b.inst.dgBase &&
    a.inst.lanes == b.inst.lanes)

/-- Whether a slot holds a non-FREE entry. -/
def State.slotInUse (s : State) (k : Nat) : Bool := s.ctx.table.any fun p => p.2.slot.val == k

/-- Whether the parity storage a record gives a slot keeps clear of the slot's current one, as a reslice asks (R285). -/
def State.parityMoves (s : State) (r : Record) (k : Nat) : Bool :=
  let d := (s.slot k).sett
  (s.slot k).kind != .sett || (s.cfg.slotFixed k == r.slotFixed k) ||
    r.setts.all fun p => p.1 != k || apart d.pbase (2 * d.q) p.2.pbase (2 * p.2.q)

/-- SLOT: a slot with a non-FREE entry changes. A slot of a tenant whose reslice may take the bundle is let through while
`staging` (DEDUCED, log entry 20). -/
def State.slotClash (s : State) (r : Record) (staging : Bool) : Bool :=
  (List.range 16).any fun k =>
    s.slotInUse k && decide (s.cfg.slotFixed k ≠ r.slotFixed k) &&
      !(staging && (match s.slotTenant k with | some i => onlyTenant s.cfg r i && s.parityMoves r k | none => false))

/-- Whether a bank holds a program that uses an MX code. -/
def bankUsesMx (b : Bank) : Bool := b.st == .valid && b.image.progs.any fun p => p.streams.any fun st => isMx st.fmt

/-- CAPABILITY: a CAPMASK bit in use is cleared. -/
def State.capClash (s : State) (r : Record) : Bool :=
  let cleared (id : Nat) : Bool := s.cap id && !r.glob.capmask.getLsbD (id - 1)
  (cleared 9 && (bankUsesMx s.ib.bank0 || bankUsesMx s.ib.bank1)) ||
  (cleared 6 && s.audit.pairs.toList.any fun p => p.role != .off) ||
  (cleared 7 && (s.rs.running.isSome || tenantIdxs.any fun i => (s.ten i).rs.state == .armed || (s.ten i).rs.state == .moving ||
    (s.ten i).rs.state == .sealing)) ||
  (cleared 5 && s.audit.busy)

/-- ENVELOPE: every non-FREE entry, and the class a staged MODIFY gives it, lies inside the new record's envelopes (R95). -/
def State.envelopeOk (s : State) (r : Record) : Bool :=
  (s.ctx.table.all fun p =>
    match r.tenants.find? fun e => e.tag == p.2.tenant with
    | none => false
    | some e =>
      let allowed (c : Cls) : Bool := e.classMask.getLsbD (match c with | .replica => 0 | .skim => 1 | .direct => 2)
      allowed p.2.cls && (match p.2.staged with | some (.modify c _ _ _ _ _ _) => allowed c | _ => true) &&
        e.slotMask.getLsbD p.2.slot.val && r.kindOf p.2.slot.val == (if p.2.cls = .replica then .replica else .sett) &&
        r.parity.all fun q => apart (4096 * p.2.basep) (8192 * p.2.lenp) (r.inst.spanBase * 2 ^ 30 + 4096 * q.1) (4096 * q.2)) &&
  r.tenants.all fun e =>
    let mine := s.entriesOf e.tag
    decide ((mine.map fun p => p.2.lenp).sum ≤ e.quota) && decide (mine.length ≤ e.elimit)

/-- Checks 9 and 10 of R343: RESULT, 0 for none. -/
def State.bundleResult (s : State) (r : Record) (staging : Bool) : Nat :=
  if fixedChanged s.cfg r then 0x0D
  else if s.slotClash r staging then 0x09
  else if s.capClash r then 0x0A
  else if !s.envelopeOk r then 0x08
  else 0

/-! ## Candidates (R217, R237) -/

/-- The other candidates of every role this instance is a candidate for. -/
def State.fellowCands (s : State) (i : Fin 64) : List Addr :=
  ([0, 4].flatMap fun base =>
    let cs := (List.range 4).filterMap fun j => (s.ten i).commit.tree.cand (base + j)
    if cs.contains s.self then cs.filter (· != s.self) else []).dedup

/-- The candidate entries of the watch table brought to a tenant's tree: one for each fellow candidate, UNSEEN when it is
made (R237). -/
def State.syncCands (s : State) (i : Fin 64) : State :=
  let want := s.fellowCands i
  let keep := s.watch.filter fun w => !(w.cand && w.tidx == i) || want.contains w.addr
  let new := (want.filter fun a => !(keep.any fun w => w.cand && w.tidx == i && w.addr == a)).map fun a =>
    ({ addr := a, status := .unseen, tidx := i, slot := 0, cand := true, rank := 0, hseq := 0, time := 0, heard := false
       round := none, made := s.time.now } : Watch)
  { s with watch := keep ++ new }

/-! ## Rank events (R122, R123) -/

/-- A slot enters BROKEN (R123): event 0x68, its regions contained, its tenant's vote withheld. -/
def State.breakSlot (s : State) (k : Nat) : State :=
  let s := s.updSlot k fun x => { x with st := .broken }
  let s : State := { s with badger := { s.badger with
    runs := s.badger.runs.filter fun (r : Run) => r.slot.val != k
    wait := s.badger.wait.filter fun (r : Run) => r.slot.val != k } }
  let tag := match s.slotTenant k with | some i => s.tagOf i | none => 0
  let s := s.raise { code := 0x68, tenant := tag, unit := k }
  let s := (s.ctx.table.filter fun p => p.2.slot.val == k).foldl (fun s p => s.contain p.1) s
  match s.slotTenant k with
  | some i => s.withhold i 0x0B
  | none => s

/-- The state of a slot that has left FORMING judged by its ranks' statuses (R122). A change of the unavailable ranks
discards the kept coefficients (R120). -/
def State.judgeSlot (s : State) (k : Nat) : State :=
  let sl := s.slot k
  match sl.st with
  | .complete | .degraded =>
    if someStripeLost sl then s.breakSlot k
    else s.updSlot k fun x => { x with
      kept := [], st := if x.ranks.all fun r => r == .present then .complete else .degraded }
  | _ => s

/-- The ranks of a tenant's slots brought to its membership, and each slot judged (R121, R122). -/
def State.syncRanks (s : State) (i : Fin 64) : State :=
  (s.usedSlots i).foldl (fun s k =>
    let f := (s.ten i).fox
    let d := s.slot k
    let rows := liveRows f d.rows
    let sts := rowStatus f rows
    if rows = d.rows ∧ sts = d.ranks then s
    else
      let s := s.updSlot k fun x => { x with
        sett := if x.kind = .sett then { x.sett with rows := rows } else x.sett
        rep := if x.kind = .replica then { x.rep with rows := rows } else x.rep
        ranks := sts
        sources := x.sources.map fun e =>
          match rows[e.rank]? with
          | some r => if r.addr = e.addr then e else
              { (e.reset (s.ten i).commit.openEpoch (s.ten i).commit.openTry) with addr := r.addr }
          | none => e }
      if (s.slot k).kind = .sett then s.judgeSlot k else s) s

end Sys2Proof.Machine
end

