-- ==== Sys2Proof/Machine/Seal.lean ====
section
/-! DEFINITION. Seals, reslice boundaries and teardown as state changes: the seal attempt (B, 0x7F), moved panels, what a
seal, its abort and a teardown do (R282 to R292, R359). -/

namespace Sys2Proof.Machine

/-- The state with a tenant's boundary state changed. -/
def State.updRs (s : State) (i : Fin 64) (f : RsTenS → RsTenS) : State := s.updTen i fun t => { t with rs := f t.rs }

/-- Whether a tenant is between its boundary, or SEAL, and its seal. -/
def RsTenS.sealing (r : RsTenS) : Bool := r.state == .moving || r.state == .sealing

/-! ## The seal attempt (R282) -/

/-- The attempt (B, 0x7F) opens for voting: no sweep runs and no gate attempt is open. What withholds a vote from its start
withholds this one too (R98, R282). -/
def State.enterSeal (s : State) (i : Fin 64) : State :=
  (s.updCommit i fun c => { c with
    openEpoch := (s.ten i).rs.boundary, openTry := 127, isOpen := false, openDue := false, window := false, vstate := .open_
    wcause := 0, causes := [], requested := [], reqDue := [], asked := [], reasons := [], credits := [], advanced := false
    chipM := .collect, podM := .collect, jobM := .collect, held := [], echoes := [], openedAt := s.time.now
    roles := Vector.replicate 3 {} }).standingCauses i

/-- LOADING entries of a tenant. -/
def State.loadingOf (s : State) (i : Fin 64) : List (Nat × Entry) :=
  (s.entriesOf (s.tagOf i)).filter fun p => p.2.state == .loading

/-- EXPECT of MNL_RS_RX: the LENP sum of the tenant's LOADING entries. -/
def State.expectPanels (s : State) (i : Fin 64) : Nat := ((s.loadingOf i).map fun p => p.2.lenp).sum

/-- Whether a panel of a LOADING entry has arrived (R287). -/
def State.panelPresent (s : State) (e : Entry) (p : Nat) : Bool := (s.dirRec (e.panelAddr p false)).d

/-- GOT of MNL_RS_RX: panels present. -/
def State.gotPanels (s : State) (i : Fin 64) : Nat :=
  ((s.loadingOf i).map fun p => ((List.range p.2.lenp).filter fun q => s.panelPresent p.2 q).length).sum

/-- Whether a destination is filled (R287): announced COUNTs equal the LENP sum and every source's count has come. -/
def State.filled (s : State) (i : Fin 64) : Bool :=
  let r := (s.ten i).rs
  decide ((r.sources.map (·.count)).sum = s.expectPanels i) && r.sources.all fun x => x.got == x.count

/-- MOVING becomes SEALING when every announced panel has come and every destination has answered DONE. -/
def State.syncBoundary (s : State) (i : Fin 64) : State :=
  let r := (s.ten i).rs
  if r.state == .moving && s.filled i && r.dests.all fun d => d.done then s.updRs i fun r => { r with state := .sealing } else s

/-! ## Counts and panels (R287, R288) -/

/-- The T word and TRY of a RESLICE_COUNT. -/
def State.countFrame (s : State) (i : Fin 64) (a : Addr) (phase : BitVec 7) (n : Nat) : OutFrame :=
  s.ctrlTo i a 0x60 (s.ten i).rs.boundary phase (n % 2 ^ 32)

/-- A withholding cause of the reslice, with its event. -/
def State.resliceFault (s : State) (i : Fin 64) (code detail : Nat) : State := (s.raiseT i code detail).withhold i 0x0E

/-- A source's record made or its COUNT taken (R287, R288): a 257th source, or a sum beyond the LENP sum, is event 0xE1. -/
def State.noteSource (s : State) (i : Fin 64) (a : Addr) (n : Nat) : State :=
  let r := (s.ten i).rs
  let known := r.sources.any fun x => x.addr == a
  if !known && decide (256 ≤ r.sources.length) then s.resliceFault i 0xE1 a.toNat
  else if r.sources.any fun x => x.addr == a && x.count == n then s
  else
    let set (y : RsSource) : RsSource := if y.addr = a then { y with count := n } else y
    let new : RsSource := { addr := a, count := n, got := 0, resends := 0, gotAt := 0, since := s.time.now }
    let s := s.updRs i fun r => { r with sources := if known then r.sources.map set else r.sources ++ [new] }
    if s.expectPanels i < ((s.ten i).rs.sources.map (·.count)).sum then s.resliceFault i 0xE1 a.toNat else s

/-- A panel of the moved state arrives at a destination (R287): written to bank C of the LOADING entry that holds its
coordinate, its digest kept, and marked present. -/
def State.arrive (s : State) (i : Fin 64) (src : Addr) (coord : Nat) (bytes : List Byte) : State :=
  match (s.loadingOf i).find? fun p => p.2.tensor.toNat == coord / 2 ^ 40 && decide (p.2.lfirst.toNat ≤ coord % 2 ^ 40) &&
      decide (coord % 2 ^ 40 < p.2.lfirst.toNat + p.2.lenp) with
  | none => s.raiseT i 0xE2 coord
  | some (_, e) =>
    let p := coord % 2 ^ 40 - e.lfirst.toNat
    let host := e.panelAddr p false
    let r := s.dirRec host
    if r.d then s.count 0xE4
    else
      let a := e.panelAddr p r.c
      let s := (((s.putBytes a bytes).setKept a (pd bytes)).setDir host { r with d := true })
      s.updRs i fun x => { x with sources := x.sources.map fun y => if y.addr = src then { y with got := y.got + 1, since := s.time.now } else y }

/-- The panels the move list sends to a destination, in its order: entry and panel. -/
def State.movesTo (s : State) (i : Fin 64) (dest : Addr) : List (Entry × Nat) :=
  s.rs.moves.toList.flatMap fun m =>
    if m.valid && m.dest == dest then
      match s.entry m.ctx.toNat with
      | some e =>
        if e.tenant == s.tagOf i && e.state == .active then
          (List.range m.count.toNat).map fun q => (e, m.first.toNat + q)
        else []
      | none => []
    else []

/-- The destinations of a tenant's move list, each once. -/
def State.moveDests (s : State) (i : Fin 64) : List Addr :=
  ((s.rs.moves.toList.filter fun m =>
    m.valid && (match s.entry m.ctx.toNat with | some e => e.tenant == s.tagOf i && e.state == .active | none => false)).map
      (·.dest)).dedup

/-- Every panel of a destination sent: frames to another member, copies at this one. -/
def State.sendMoves (s : State) (i : Fin 64) (dest : Addr) : State :=
  (s.movesTo i dest).foldl (fun s x =>
    let bytes := s.bankC x.1 x.2
    if dest = s.self then s.arrive i dest (x.1.coord x.2) bytes
    else s.send (s.frame i .badger (.member dest) 0x61 (s.ten i).rs.boundary 0 (x.1.coord x.2) bytes)) s

/-- Sending begins at the boundary: COUNT to every destination, then its panels. -/
def State.beginMoves (s : State) (i : Fin 64) : State :=
  let dests := s.moveDests i
  let s := s.updRs i fun r => { r with dests := dests.map fun a =>
    { addr := a, count := (s.movesTo i a).length, done := a == s.self, since := s.time.now } }
  dests.foldl (fun s a =>
    let n := (s.movesTo i a).length
    if a = s.self then (s.noteSource i a n).sendMoves i a
    else (s.send (s.countFrame i a 0 n)).sendMoves i a) s

/-! ## The boundary (R286, R359) -/

/-- The staged bundle taken by a reslice: the tenant's envelope and slots under it, the old descriptors kept as shadows. What
was installed since STAGE is judged again; a record it breaks is not taken (R95, R285; DESIGN CHOICE, log entry 187). -/
def State.takeShadow (s : State) (i : Fin 64) : State :=
  match s.loader.shadow, s.loader.shadowState with
  | some r, .staged =>
    if !onlyTenant s.cfg r i || s.loader.takenBy.isSome || s.bundleResult r true != 0 ||
        !((List.range 16).all fun k => s.parityMoves r k) then s
    else
      let old := s.cfg
      let s : State := { s with loader := { s.loader with active := r, shadow := some old, takenBy := some i } }
      let changed := (List.range 16).filter fun k => decide (old.slotView k ≠ r.slotView k)
      let s := s.updTen i fun t => { t with env := r.envOf i <|> t.env }
      changed.foldl (fun s k =>
        let sl := s.slot k
        let s := s.formSlot (some i) r k
        s.updSlot k fun x => { x with shadow := some (sl.kind, sl.sett, sl.rep) }) s
  | _, _ => s

/-- The staged tree in place of the current one, which stays as a shadow. -/
def CommitS.swapTree (c : CommitS) : CommitS :=
  match c.stagedTree with
  | some t => { c with tree := t, shadowTree := some c.tree, stagedTree := none }
  | none => { c with shadowTree := some c.tree }

/-- What a member does at the boundary (R286), or a joiner when it accepts the first COUNT. -/
def State.enterBoundary (s : State) (i : Fin 64) : State :=
  let b := (s.ten i).rs.boundary
  let old := (s.entriesOf (s.tagOf i)).filterMap fun p => if p.2.state == .active then some p.1 else none
  let s := ((s.flushIntake i (b + 1)).updCommit i CommitS.swapTree).syncCands i
  let s := (s.takeShadow i).updRs i fun r => { r with state := .moving, oldEntries := old, rendered := [], cancelled := false }
  let s := s.enterSeal i
  let s := if (s.ten i).fox.gen ≠ (s.ten i).rs.armGen then s.withhold i 0x0E else s
  (s.beginMoves i).syncBoundary i

/-! ## Seal and cancel (R283, R284, R289, R290) -/

/-- A LOADING entry sealed: the digest of every panel of bank C kept, D cleared, DROOT written (R283, R302). -/
def State.sealEntry (s : State) (c : Nat) (b : Nat) : State :=
  match s.entry c with
  | none => s
  | some e =>
    let s := (List.range e.lenp).foldl (fun s p =>
      let r := s.dirRec (e.panelAddr p false)
      let a := e.panelAddr p r.c
      (s.setKept a (pd (s.bytesAt a 4096))).setDir (e.panelAddr p false) { r with d := false }) s
    let e1 : Entry := { e with state := .active, sealed := true, epoch := b }
    s.setEntry c { e1 with droot := s.droot e1 }

/-- A seal of epoch B applied (R283, R290). -/
def State.applySeal (s : State) (i : Fin 64) : State :=
  let r := (s.ten i).rs
  let b := r.boundary
  let s := (s.loadingOf i).foldl (fun s p => s.sealEntry p.1 b) s
  let s := s.updIntake i fun t => if b = 0 ∧ r.first then { t with epoch := 1 } else { t with epoch := b + 1 }
  let s := r.oldEntries.foldl (fun s c => s.updEntry c fun e => if r.first then e else { e with state := .priming, staged := none }) s
  let s := s.beginRecord i b 127 0 (List.replicate 32 0)
  let s : State := if s.loader.takenBy = some i then
      { s with loader := { s.loader with shadow := none, shadowState := .empty, takenBy := none } } else s
  let s := s.updRs i fun x => { x with
    state := .idle, first := false, joiner := false, sources := [], dests := [], rendered := [], lastSeal := some b
    tearEntries := if r.first then [] else r.oldEntries, oldEntries := [], cancelled := false }
  let s := s.updCommit i fun c => { c with
    committed := b, committedTry := 127, openEpoch := b + 1, openTry := 0, vstate := .open_, wcause := 0, causes := []
    requested := [], reasons := [], shadowTree := none, lat := c.latAt s.time.now }
  ((s.raiseT i 0xE0 b).lockstepDue i b).dueOpen i true

/-- Frames of a tenant that wait at the endpoint dropped. -/
def State.dropFrames (s : State) (tag : Tag) : State :=
  let keep (l : List OutFrame) : List OutFrame := l.filter fun f => f.tenant != tag
  { s with ep := { s.ep with ctrlQ := keep s.ep.ctrlQ, skimQ := keep s.ep.skimQ, resumeQ := keep s.ep.resumeQ, badgerQ := keep s.ep.badgerQ } }

/-- Teardown of a tenant begun (R292, steps 1 to 3): inactive for frames, its work, its intake, its votes and its
membership gone; its entries and parity storage wait for Primer. -/
def State.tearDown (s : State) (i : Fin 64) : State :=
  let tag := s.tagOf i
  let entries := (s.entriesOf tag).map (·.1)
  let slots := s.settSlots i
  let s := (s.dropSkim i).dropFrames tag
  let s := slots.foldl (fun s k => s.updSlot k fun x => { x with sources := [], missing := [], shadow := none }) s
  let s := s.releaseParked (fun x => match x.ctx with | some c => entries.contains c | none => false) 0x3 State.raise0 0x33
  let s := s.mapEntries tag fun e => { e with state := .priming, staged := none }
  let s : State := { s with
    watch := s.watch.filter fun (w : Watch) => w.tidx != i
    ctx := { s.ctx with offers := s.ctx.offers.filter fun (o : Offer) => o.tidx != i }
    badger := { s.badger with
      runs := s.badger.runs.filter fun (r : Run) => r.tidx != i
      wait := s.badger.wait.filter fun (r : Run) => r.tidx != i
      helps := s.badger.helps.filter fun (h : HelpRun) => h.tidx != i
      repairs := s.badger.repairs.filter fun (x : RepairItem) => match x with
        | .data c _ => !entries.contains c
        | .parity k _ => !slots.contains k }
    audit := { s.audit with
      helps := s.audit.helps.filter fun (h : AuHelp) => h.tidx != i
      pairs := s.audit.pairs.map fun (p : LsPair) => if p.tidx = i then { p with sendDue := none } else p
      busy := s.audit.busy && !s.ownsSlot i s.audit.slot.toNat
      todo := if s.ownsSlot i s.audit.slot.toNat then [] else s.audit.todo
      runs := if s.ownsSlot i s.audit.slot.toNat then [] else s.audit.runs } }
  ((s.updTen i fun t => { t with
    intake := { epoch := t.intake.epoch, flush := true }, sweep := {}, commit := {}, fox := {}
    bg := { targets := t.bg.targets }
    rs := { state := .teardown, tearEntries := entries, tearSlots := slots } }).moveNow i).checkArmed

/-- A slot back under the descriptor its shadow keeps: it forms anew, its old parity storage primed already, and the new
descriptor's storage is released (R289). -/
def State.unshadow (s : State) (i : Fin 64) (k : Nat) : State :=
  let sl := s.slot k
  let alloc := match s.loader.shadow with | some o => o.inst.alloc.getD k 0 | none => 0
  let free (s : State) (old : SettDesc) : State :=
    if sl.kind = .sett ∧ sl.sett.pbase ≠ old.pbase then s.clearParity sl.sett else s
  match sl.shadow with
  | some (.sett, d, _) => ((free s d).formSett (some i) k d alloc).updSlot k fun x => { x with primed := true }
  | some (.replica, _, d) => ((if sl.kind = .sett then s.clearParity sl.sett else s).formReplica (some i) k d)
  | some (.unused, _, _) => ((if sl.kind = .sett then s.clearParity sl.sett else s).dropSlot k)
  | none => s

/-- A reslice cancelled by the abort of its seal (R289). -/
def State.cancelReslice (s : State) (i : Fin 64) : State :=
  let r := (s.ten i).rs
  let s := s.raiseT i 0xE6
  let s := (s.loadingOf i).foldl (fun s p => s.freeRegion p.1) s
  let s := if s.loader.takenBy = some i then (List.range 16).foldl (fun s k => s.unshadow i k) s else s
  let s : State := if s.loader.takenBy = some i then
      match s.loader.shadow with
      | some o =>
        let new := s.loader.active
        let s := s.updTen i fun t => { t with env := o.envOf i <|> t.env }
        { s with loader := { s.loader with active := o, shadow := some new, takenBy := none } }
      | none => s
    else s
  let s := s.updCommit i fun c => match c.shadowTree with
    | some t => { c with tree := t, shadowTree := none }
    | none => c
  let s := s.syncCands i
  if r.joiner then s.tearDown i
  else
    let s := s.updRs i fun x => { x with
      state := .idle, sources := [], dests := [], rendered := [], oldEntries := [], cancelled := true }
    let s := s.updCommit i fun c => { c with
      openEpoch := r.boundary + 1, openTry := 0, vstate := .open_, wcause := 0, causes := [], requested := [], reasons := []
      lat := c.latAt s.time.now }
    s.dueOpen i true

/-- The abort of a seal (R284): a first seal returns to IDLE without a vote state, a reslice is cancelled. -/
def State.abortSeal (s : State) (i : Fin 64) : State :=
  let s := s.count 0xB4
  if (s.ten i).rs.first then
    (s.updRs i fun r => { r with state := .idle, first := false, rendered := [] }).updCommit i fun c => { c with
      vstate := .none, wcause := 0, causes := [], requested := [], reqDue := [], asked := [], openEpoch := 0, openTry := 0
      lat := c.latAt s.time.now }
  else s.cancelReslice i

/-! ## Readiness for a seal (R282) -/

/-- Whether Render has verified every parity panel this member holds of its sett slots. -/
def State.renderDone (s : State) (i : Fin 64) : Bool :=
  (s.settSlots i).all fun k => (List.range (s.slot k).sett.q).all fun e => (s.ten i).rs.rendered.contains (k, e)

/-- Whether a member is ready to seal. -/
def State.sealReady (s : State) (i : Fin 64) : Bool :=
  let t := s.ten i
  t.rs.state == .sealing && t.commit.vstate == .open_ &&
    ((s.settSlots i).all fun k =>
      (s.slot k).st != .forming && (s.slot k).ranks.all fun r => r != .lost) &&
    (t.rs.first || (s.filled i && t.rs.dests.all fun d => d.done)) && s.renderDone i && decide (s.flt.mode = .normal)

end Sys2Proof.Machine
end

