-- ==== Sys2Proof/Machine/BadgerOps.lean ====
section
/-! DEFINITION. Badger's shared operations: the pattern of a stripe, runs and their requests, accumulators, verification,
the phases of a rebuild and the completion records (R257 to R273, R279 to R281). -/

namespace Sys2Proof.Machine

/-- The state with Badger changed. -/
def State.updBadger (s : State) (f : BadgerS → BadgerS) : State := { s with badger := f s.badger }

/-- The state with a tenant's rebuild changed. -/
def State.updBg (s : State) (i : Fin 64) (f : BgTenS → BgTenS) : State := s.updTen i fun t => { t with bg := f t.bg }

/-! ## Patterns (R118, R119, R257, R262, R263, R279) -/

/-- Cycles between two panels of a run: k data panels, m parity panels. -/
def stepOf (d : SettDesc) (lost : Nat) : Nat := if lost < d.k then d.k else d.m

/-- The stripe of a lost panel of rank `r` (R111, R262). -/
def lostStripe (d : SettDesc) (r lost panel : Nat) : Nat :=
  if lost < d.k then stripeOf d.k d.m r panel else panel / max 1 d.m * settN d + subMod r (lost - d.k) (settN d)

/-- Whether the rank at a position belongs to the pattern: LOST, REPLACING, or the requester's own rank. Render's pattern
holds the requester's row alone. -/
def SlotS.inPattern (sl : SlotS) (r : Nat) (render : Bool) (st pos : Nat) : Bool :=
  let rk := rankAt sl.sett.k sl.sett.m (st % max 1 (settN sl.sett)) pos
  rk == r || (!render && sl.rankSt rk != .present)

/-- What decodes one lost panel: its helpers' positions, ascending, and the coefficients of those that are real. -/
structure Pattern where
  helpers : List Nat
  coefs : List (Nat × Byte)
  deriving DecidableEq, Repr

/-- The pattern of a lost panel; none where it is virtual, beyond the last cycle, or not decodable. A virtual column of
an available rank is a helper that forwards a zero accumulator (R263). -/
def SlotS.pattern (sl : SlotS) (r lost panel : Nat) (render : Bool) : Option Pattern :=
  let d := sl.sett
  let st := lostStripe d r lost panel
  let gone := (List.range (settN d)).filter fun p => realPos d st p && sl.inPattern r render st p
  let a := gone.filter (· < d.k)
  let cols := (List.range d.k).filter fun t => !sl.inPattern r render st t
  let rows := ((List.range d.m).filter fun j => !sl.inPattern r render st (d.k + j)).take a.length
  if lost < settN d ∧ gone.contains lost ∧ st / max 1 (settN d) < cycles d ∧ gone.length ≤ d.m then
    some { helpers := cols ++ rows.map (d.k + ·)
           coefs := decodeCoefs d.k d.m (fun j t => d.coef.getD (j * d.k + t) 0) (fun t => realPos d st t) a
             ((gone.filter (d.k ≤ ·)).map (· - d.k)) lost }
  else none

/-- The coefficient of a helper position; 0 for a virtual column. -/
def Pattern.coef (p : Pattern) (pos : Nat) : Byte := match p.coefs.find? fun x => x.1 == pos with | some x => x.2 | none => 0

/-- The lowest set bit of an index. -/
def lowBit (i : Nat) : Nat := ((List.range 6).map (2 ^ ·)).find? (fun b => i % (2 * b) == b) |>.getD 0

/-- The index of the parent of helper `i` in the tree (R263); helper 0 has the requester. -/
def parentOf (i : Nat) : Option Nat := if i = 0 then none else some (i - lowBit i)

/-- The children of helper `i` among `n` helpers. -/
def childrenOf (i n : Nat) : List Nat := (List.range n).filter fun j => parentOf j == some i

/-! ## Panels (R89, R114, R257) -/

/-- The entry of a slot that holds a position, and the panel in it. -/
def State.holderOf (s : State) (k p : Nat) : Option (Nat × Entry × Nat) :=
  (s.ctx.table.find? fun q => q.2.slot.val == k && decide (q.2.spanel ≤ p) && decide (p < q.2.spanel + q.2.lenp)).map
    fun q => (q.1, q.2, p - q.2.spanel)

/-- The address of bank C of the panel at a position of a slot, or of copy C of a parity panel. -/
def State.ownAddr (s : State) (k : Nat) (parity : Bool) (p : Nat) : Option Nat :=
  if parity then some (s.parityAddr (s.slot k).sett p (s.parityRec (s.slot k).sett p).c)
  else (s.holderOf k p).map fun x => x.2.1.panelAddr x.2.2 (s.panelRec x.2.1 x.2.2).c

/-- The committed bytes an instance has at a position of a slot; a position no region holds is zero (R101). -/
def State.ownPanel (s : State) (k : Nat) (parity : Bool) (p : Nat) : List Byte :=
  match s.ownAddr k parity p with
  | some a => s.bytesAt a 4096
  | none => List.replicate 4096 0

/-- The digest an instance keeps of the panel at a position (R266, R302); an unsealed region's is taken of its bytes. -/
def State.ownDigest (s : State) (k : Nat) (parity : Bool) (p : Nat) : Word :=
  match s.ownAddr k parity p with
  | none => 0
  | some a =>
    let unsealed : Bool := !parity && (match s.holderOf k p with | some x => !x.2.1.sealed | none => false)
    if unsealed then pd (s.bytesAt a 4096) else s.kept a

/-! ## Runs at the requester (R261, R264, R268, R279) -/

/-- The panel at an index of a run. -/
def State.runPanel (s : State) (r : Run) (j : Nat) : Nat :=
  if r.copy then r.first + j else r.first + j * stepOf (s.slot r.slot.val).sett r.lost

/-- Whether a run rebuilds parity. -/
def State.runParity (s : State) (r : Run) : Bool := !r.copy && decide ((s.slot r.slot.val).sett.k ≤ r.lost)

/-- The helpers of a pattern with their addresses, for a lost panel. -/
def SlotS.helperAddrs (sl : SlotS) (st : Nat) (hs : List Nat) : List (Nat × Addr) :=
  hs.filterMap fun p => (sl.sett.rows[rankAt sl.sett.k sl.sett.m (st % max 1 (settN sl.sett)) p]?).map fun row => (p, row.addr)

/-- Runs over `count` panels of a sett slot from `first` on, cut where the helpers change; panels that cannot be decoded
are left out. -/
def State.mkRuns (s : State) (i : Fin 64) (kind : RunKind) (k : Fin 16) (lost : Nat) (epoch : Nat) (donly : Bool) :
    Nat → Nat → Nat → List Run
  | 0, _, _ => []
  | fuel + 1, first, count =>
    let sl := s.slot k.val
    let r := sl.ownRank
    let step := stepOf sl.sett lost
    let pat (j : Nat) : Option (List Nat) := (sl.pattern r lost (first + j * step) (kind == .render)).map (·.helpers)
    if count = 0 then []
    else
      match pat 0 with
      | none => s.mkRuns i kind k lost epoch donly fuel (first + step) (count - 1)
      | some hs =>
        let n := ((List.range count).takeWhile fun j => pat j == some hs).length
        { kind := kind, tidx := i, slot := k, first := first, count := n, lost := lost, copy := false
          helpers := sl.helperAddrs (lostStripe sl.sett r lost first) hs, epoch := epoch, donly := donly
          panels := (List.range n).map fun j => { i := j, part := none, digs := [] } } ::
        s.mkRuns i kind k lost epoch donly fuel (first + n * step) (count - n)

/-- The source of a replica-set slot's copies: its first member neither LOST nor REPLACING, nor this one (R261). -/
def SlotS.source (sl : SlotS) : Option Addr :=
  (sl.rep.rows.zipIdx.find? fun p => sl.rankSt p.2 == .present && p.2 != sl.rep.index).map (·.1.addr)

/-- A run of copies. -/
def State.copyRun (s : State) (i : Fin 64) (kind : RunKind) (k : Fin 16) (first count epoch : Nat) (donly : Bool) : List Run :=
  match (s.slot k.val).source with
  | none => []
  | some a =>
    [{ kind := kind, tidx := i, slot := k, first := first, count := count, lost := 0, copy := true, helpers := [(0, a)]
       epoch := epoch, donly := donly, panels := (List.range count).map fun j => { i := j, part := none, digs := [] } }]

/-- The TRY of a run's frames. -/
def runTry (render : Bool) : BitVec 7 := if render then 127 else 0

/-- The request of a run to one helper. -/
def State.reqFrame (s : State) (r : Run) (a : Addr) : OutFrame :=
  let mslot := match (s.slot r.slot.val).rows.find? fun x => x.addr == a with | some row => row.mslot.toNat | none => 0
  s.frame r.tidx .badger (.member a) 0x40 r.epoch (runTry (r.kind == .render))
    (r.first % 2 ^ 23 + r.count % 2 ^ 16 * 2 ^ 23 + r.lost % 64 * 2 ^ 39 + mslot * 2 ^ 45 + bit r.donly 49)

/-- A run outstanding from now on, and its requests to every helper. -/
def State.startRun (s : State) (r : Run) : State :=
  let s := s.updBadger fun b => { b with runs := b.runs ++ [{ r with since := s.time.now }], wait := b.wait.filter (· != r) }
  r.helpers.foldl (fun s h => s.send (s.reqFrame r h.2)) s

/-- Whether a run may start: DEPTH leaves room (R264), and no run outstanding has its PANEL (R261). -/
def State.mayStart (s : State) (r : Run) : Bool :=
  decide (s.badger.runs.length < s.cfg.glob.depth) && !s.badger.runs.any fun x => x.first == r.first

/-- A run asked for: outstanding at once where it may start, else it waits for that. -/
def State.sendRun (s : State) (r : Run) : State :=
  if s.mayStart r then s.startRun r else s.updBadger fun b => { b with wait := b.wait ++ [r] }

/-- Ascending indices cut into stretches: start and length. -/
def stretches : List Nat → List (Nat × Nat)
  | [] => []
  | a :: t =>
    match stretches t with
    | (b, n) :: r => if b = a + 1 then (a, n + 1) :: r else (a, 1) :: (b, n) :: r
    | [] => [(a, 1)]

/-- The unverified panels of a run asked for again in new runs, at an epoch and under the generation in force. -/
def State.rerequest (s : State) (r : Run) (epoch : Nat) : State :=
  let s := s.updBadger fun b => { b with runs := b.runs.filter (· != r), wait := b.wait.filter (· != r) }
  (stretches (r.panels.map (·.i))).foldl (fun s x =>
    let first := s.runPanel r x.1
    let rs := if r.copy then s.copyRun r.tidx r.kind r.slot first x.2 epoch r.donly
      else s.mkRuns r.tidx r.kind r.slot r.lost epoch r.donly x.2 first x.2
    rs.foldl State.sendRun s) s

/-! ## What is left to do (R265, R267, R268, R272) -/

/-- Whether a panel of a slot is part of a run that is outstanding or waits to start. -/
def State.inRun (s : State) (k : Nat) (parity : Bool) (p : Nat) : Bool :=
  (s.badger.runs ++ s.badger.wait).any fun r => r.slot.val == k && s.runParity r == parity && r.panels.any fun x => s.runPanel r x.i == p

/-- Whether a run may begin at a panel: its slot is not BROKEN (R123, R273), no run outstanding has that PANEL (R261), and
the panel is neither outstanding nor unresolved. -/
def State.mayBegin (s : State) (k : Nat) (parity : Bool) (p : Nat) : Bool :=
  (s.slot k).st != .broken && !s.inRun k parity p && !s.badger.unresolved.contains (k, parity, p) && !s.badger.runs.any fun r => r.first == p

/-- Whether a panel of a LOADING entry is verified, at this epoch or pending. -/
def TenantS.verifiedAt (t : TenantS) (c q : Nat) : Bool :=
  (t.bg.verified.any fun x => x.1 == c && x.2.1 == q) || t.bg.pending.any fun x => x.1 == c && x.2.1 == q

/-- Runs over panels of a region that `want` selects, from the lowest on, up to RUN. -/
def State.regionRun (s : State) (i : Fin 64) (kind : RunKind) (e : Entry) (donly : Bool) (want : Nat → Bool) : List Run :=
  let k := e.slot.val
  let sl := s.slot k
  let run := max 1 s.cfg.glob.run
  let ok (q : Nat) : Bool := decide (q < e.lenp) && want q && !s.inRun k false (e.spanel + q) &&
    !s.badger.unresolved.contains (k, false, e.spanel + q)
  match (List.range e.lenp).find? fun q => ok q && s.mayBegin k false (e.spanel + q) with
  | none => []
  | some q =>
    let epoch := (s.ten i).commit.committed
    let step := if sl.kind = .replica then 1 else max 1 sl.sett.k
    let n := ((List.range run).takeWhile fun j => ok (q + j * step)).length
    if sl.kind = .replica then s.copyRun i kind e.slot (e.spanel + q) n epoch donly
    else (s.mkRuns i kind e.slot ((e.spanel + q) % step) epoch donly n (e.spanel + q) n).take 1

/-- The next repair of a tenant: a queued panel, else a panel of a CONTAINED region that was sealed (R272). -/
def State.nextRepair (s : State) (i : Fin 64) : List Run :=
  let tag := s.tagOf i
  let queued := s.badger.repairs.findSome? fun x =>
    match x with
    | .data c q =>
      match s.entry c with
      | some e =>
        if e.tenant == tag && !(e.state == .contained && e.sealed) then
          (match s.regionRun i .repair e false (fun p => p == q) with | [] => none | l => some (l.take 1))
        else none
      | none => none
    | .parity k p =>
      if h : k < 16 then
        if s.ownsSlot i k && s.mayBegin k true p then
          let d := (s.slot k).sett
          (match s.mkRuns i .repair ⟨k, h⟩ (d.k + p % max 1 d.m) (s.ten i).commit.committed false 1 p 1 with
           | [] => none
           | l => some l)
        else none
      else none
  match queued with
  | some l => l
  | none =>
    ((s.entriesOf tag).findSome? fun p =>
      if p.2.state == .contained && p.2.sealed then
        (match s.regionRun i .repair p.2 false (fun q => !s.badger.verified.any fun x => x.1 == p.1 && x.2.1 == q) with
         | [] => none
         | l => some l)
      else none).getD []

/-- The LOADING entries a target fills, in the order of their phases (R268). -/
def State.phaseEntries (s : State) (i : Fin 64) (phase : BgState) : List (Nat × Entry) :=
  let loading := (s.entriesOf (s.tagOf i)).filter (s.fills i)
  match phase with
  | .demand => inSweepOrder (loading.filter fun p => decide (p.2.sgrp ≠ 0))
  | .direct => loading.filter fun p => decide (p.2.sgrp = 0) && p.2.cls == .direct
  | .background => loading.filter fun p => decide (p.2.sgrp = 0) && p.2.cls != .direct
  | _ => []

/-- The parity run a target starts next. -/
def State.parityRun (s : State) (i : Fin 64) : List Run :=
  ((s.settSlots i).findSome? fun k =>
    let d := (s.slot k).sett
    let ok (e : Nat) : Bool := (s.slot k).missing.contains e && !s.inRun k true e && !s.badger.unresolved.contains (k, true, e)
    match (List.range d.q).find? fun e => ok e && s.mayBegin k true e with
    | none => none
    | some e =>
      let n := ((List.range (max 1 s.cfg.glob.run)).takeWhile fun j => ok (e + j * max 1 d.m)).length
      if h : k < 16 then
        (match s.mkRuns i .rebuild ⟨k, h⟩ (d.k + e % max 1 d.m) (s.ten i).commit.committed false n e n with
         | [] => none
         | r :: _ => some [r])
      else none).getD []

/-- The run a target's rebuild starts next, phase by phase in order; in a phase the digests of its pending panels come before
its panels (R265, R268). -/
def State.nextRebuild (s : State) (i : Fin 64) : List Run :=
  let t := s.ten i
  let first (l : List (Nat × Entry)) (donly : Bool) (want : Nat → Nat → Bool) : Option (List Run) :=
    l.findSome? fun p => match s.regionRun i .rebuild p.2 donly (want p.1) with | [] => none | r => some r
  let full (c q : Nat) : Bool := !t.verifiedAt c q
  let pend (c q : Nat) : Bool := t.bg.pending.any fun x => x.1 == c && x.2.1 == q
  let data (ph : BgState) : Option (List Run) := first (s.phaseEntries i ph) true pend <|> first (s.phaseEntries i ph) false full
  (data .demand <|> data .direct <|>
    (if s.badger.hold then none else data .background) <|>
    (if s.badger.hold then none else match s.parityRun i with | [] => none | l => some l)).getD []

/-- The order in which runs start: repairs, Render, then the phases of a rebuild (R268). -/
def State.runOrder (s : State) (r : Run) : Nat :=
  match r.kind with
  | .repair => 0
  | .render => 1
  | .rebuild =>
    if s.runParity r then 5
    else
      match s.holderOf r.slot.val r.first with
      | some (_, e, _) => if e.sgrp ≠ 0 then 2 else if e.cls = .direct then 3 else 4
      | none => 4

/-- Whether HOLD keeps a run from starting (R268). -/
def State.heldRun (s : State) (r : Run) : Bool := s.badger.hold && decide (4 ≤ s.runOrder r)

/-- The run of a list that starts first. -/
def State.firstRun (s : State) (rs : List Run) : Option Run :=
  rs.foldl (fun m r => match m with
    | some x => if s.runOrder r < s.runOrder x then some r else m
    | none => some r) none

/-- The data panels and the parity panels a target has not verified (MNL_BG_LEFT). -/
def State.dataLeft (s : State) (i : Fin 64) : Nat :=
  (((s.entriesOf (s.tagOf i)).filter (s.fills i)).map fun p => p.2.lenp - ((s.ten i).bg.verified.filter fun x => x.1 == p.1).length).sum

def State.parityLeft (s : State) (i : Fin 64) : Nat := ((s.settSlots i).map fun k => (s.slot k).missing.length).sum

/-! ## Completion records and the rebuild's state (R269, R270, R276) -/

/-- A completion record's payload. -/
def recordPayload (coord epoch ctx : Nat) (droot : Word) (lenp : Nat) (rank : Bool) (spanel cls : Nat) : List Byte :=
  leBytes 8 coord ++ leBytes 8 (epoch % 2 ^ 48 + ctx * 2 ^ 48) ++ leBytes 8 droot.toNat ++
    leBytes 4 (lenp % 2 ^ 24 + bit rank 24) ++ leBytes 4 (spanel % 2 ^ 23 + cls * 2 ^ 23)

/-- A completion record sent to the acting job manager. -/
def State.sendRecord (s : State) (i : Fin 64) (c : Completion) : State :=
  match (s.ten i).jobManager with
  | none => s
  | some a => s.send (s.frame i .badger (.member a) 0x52 (s.ten i).commit.committed 0
      (0x7FFFFF + 4 * 2 ^ 23 + 15 * 2 ^ 33) c.payload)

/-- A record begun: sent once, repeated until it is answered. -/
def State.beginRecordOf (s : State) (i : Fin 64) (c : Completion) : State :=
  (s.updBg i fun b => { b with records := b.records ++ [{ c with sent := 1, since := s.time.now }] }).sendRecord i c

/-- The regions whose every panel is verified reported, the state of the rebuild brought up to date, and the rank record
sent at its end (R268 to R270). -/
def State.bgSettle (s : State) (i : Fin 64) : State :=
  let running (x : BgState) : Bool := x == .demand || x == .direct || x == .background || x == .parity || x == .stalled
  if !running (s.ten i).bg.state then s
  else
    let s := ((s.entriesOf (s.tagOf i)).filter (s.fills i)).foldl (fun s p =>
      let b := (s.ten i).bg
      let mine := b.verified.filter fun x => x.1 == p.1
      if mine.length < p.2.lenp || b.records.any fun r => r.ctx == some p.1 then s
      else
        let xs := (List.range p.2.lenp).map fun q => match mine.find? fun x => x.2.1 == q with | some x => x.2.2 | none => 0
        s.beginRecordOf i { ctx := some p.1, sent := 0
                            payload := recordPayload (p.2.coord 0) (s.ten i).commit.committed p.1 (combine xs) p.2.lenp false
                              p.2.spanel p.2.cls.code }) s
    let left (ph : BgState) : Bool := (s.phaseEntries i ph).any fun p => (List.range p.2.lenp).any fun q => !(s.ten i).verifiedAt p.1 q
    let broken := (s.settSlots i).any fun k => (s.slot k).st == .broken
    let stuck := !s.badger.unresolved.isEmpty && (s.nextRebuild i).isEmpty &&
      !(s.badger.runs ++ s.badger.wait).any fun r => r.tidx == i
    if broken then s.updBg i fun b => { b with state := .stalled, cause := 0x68 }
    else if ((s.entriesOf (s.tagOf i)).all fun p => p.2.state == .active || !(s.ten i).bg.filling.contains p.1) && s.parityLeft i == 0 then
      let s := (s.updBg i fun b => { b with state := .complete, cause := 0 }).raiseT i 0xD2
      s.beginRecordOf i { ctx := none, sent := 0, payload := recordPayload 0 (s.ten i).commit.committed 0 0 0 true 0 0 }
    else if stuck then s.updBg i fun b => { b with state := .stalled, cause := 0xD4 }
    else s.updBg i fun b => { b with
      cause := 0
      state := if left .demand then .demand else if left .direct then .direct else if left .background then .background
        else .parity }

/-! ## Verification (R260, R267, R281) -/

/-- The expected digest of a run's panel from its helpers' digests (R267). -/
def State.expectX (s : State) (r : Run) (p : RunPanel) : Word :=
  if r.copy then (match p.digs with | x :: _ => x.2 | [] => 0)
  else
    let sl := s.slot r.slot.val
    match sl.pattern sl.ownRank r.lost (s.runPanel r p.i) (r.kind == .render) with
    | none => 0
    | some pat => p.digs.foldl (fun x d => x ^^^ g64Mul (phi (pat.coef d.1)) d.2) 0

/-- A panel taken out of its run; an empty run ends. -/
def State.dropPanel (s : State) (r : Run) (j : Nat) : State :=
  s.updBadger fun b => { b with
    runs := (b.runs.map fun x => if x = r then { x with panels := x.panels.filter fun y => y.i != j } else x).filter
      fun x => !x.panels.isEmpty }

/-- A region whose repair is complete becomes ACTIVE again, with the tenant's committed epoch (R88, R272). -/
def State.repairDone (s : State) (c : Nat) : State :=
  match s.entry c with
  | some e =>
    let n := (s.badger.verified.filter fun x => x.1 == c).length
    if e.state == .contained && e.sealed && decide (e.lenp ≤ n) then
      let epoch := match s.tenantOf e.tenant with | some i => (s.ten i).commit.committed | none => e.epoch
      let e1 : Entry := { e with state := .active, epoch := epoch, droot := s.droot e }
      (s.setEntry c e1).updBadger fun b => { b with verified := b.verified.filter fun x => x.1 != c }
    else s
  | none => s

/-- A verified panel counted where it belongs (R260, R265, R272, R281). -/
def State.countVerified (s : State) (r : Run) (panel : Nat) (x : Word) : State :=
  let k := r.slot.val
  let par := s.runParity r
  let s := (s.count 0xDD).updBadger fun b => { b with doubts := b.doubts.filter (· != (k, par, panel)) }
  match r.kind, par with
  | .render, _ =>
    (s.updRs r.tidx fun t => { t with rendered := addOnce (k, panel) t.rendered }).updSlot k fun t => { t with
      missing := t.missing.filter (· != panel) }
  | .rebuild, true =>
    let d := (s.slot k).sett
    let rec_ := s.parityRec d panel
    let s := if rec_.n && s.recCurrent rec_ then
        let from_ := s.parityAddr d panel rec_.c
        let to_ := s.parityAddr d panel (!rec_.c)
        (s.putBytes to_ (xorBytes (s.bytesAt to_ 4096) (s.bytesAt from_ 4096))).setKept to_ (s.kept to_ ^^^ x)
      else s
    s.updSlot k fun t => { t with missing := t.missing.filter (· != panel) }
  | .rebuild, false =>
    match s.holderOf k panel with
    | some (c, _, q) => s.updBg r.tidx fun b => { b with verified := b.verified ++ [(c, q, x)] }
    | none => s
  | .repair, true => s.updBadger fun b => { b with repairs := b.repairs.filter (· != .parity k panel) }
  | .repair, false =>
    match s.holderOf k panel with
    | some (c, _, q) =>
      (s.updBadger fun b => { b with repairs := b.repairs.filter (· != .data c q), verified := b.verified ++ [(c, q, x)] }).repairDone c
    | none => s

/-- A mismatch: the panel is asked for once more, alone; after a second one it stays unresolved (R267, R281). -/
def State.doubt (s : State) (r : Run) (panel : Nat) : State :=
  let k := r.slot.val
  let key := (k, s.runParity r, panel)
  if s.badger.doubts.contains key then
    let s := s.updBadger fun b => { b with
      doubts := b.doubts.filter (· != key), unresolved := addOnce key b.unresolved, bad := some (panel, s.runParity r, k) }
    let s := s.raiseT r.tidx 0xD4 panel
    if r.kind = .render then s.withhold r.tidx 0x0E else s
  else
    let s := (s.updBadger fun b => { b with doubts := addOnce key b.doubts }).raiseT r.tidx 0xD3 panel
    let rs := if r.copy then s.copyRun r.tidx r.kind r.slot panel 1 r.epoch false
      else s.mkRuns r.tidx r.kind r.slot r.lost r.epoch false 1 panel 1
    rs.foldl State.sendRun s

/-- A run's panel judged once its part and all its digests are there (R265, R267). -/
def State.judgePanel (s : State) (r : Run) (j : Nat) : State :=
  match r.panels.find? fun p => p.i == j with
  | none => s
  | some p =>
    if p.digs.length < r.helpers.length then s
    else
      let panel := s.runPanel r j
      let x := s.expectX r p
      match s.ownAddr r.slot.val (s.runParity r) panel with
      | none => s
      | some a =>
        if r.donly then
          let s := s.dropPanel r j
          match s.holderOf r.slot.val panel with
          | none => s
          | some (c, _, q) =>
            let s := s.updBg r.tidx fun b => { b with
              pending := b.pending.filter fun y => !(y.1 == c && y.2.1 == q)
              verified := if x = s.kept a then b.verified ++ [(c, q, x)] else b.verified }
            s.bgSettle r.tidx
        else
          match p.part with
          | none => s
          | some bytes =>
            let s := (s.dropPanel r j).putBytes a bytes
            let s := s.setKept a (pd bytes)
            let s := if pd bytes = x then s.countVerified r panel x else s.doubt r panel
            s.bgSettle r.tidx

/-- The run with a panel changed, and the panel judged. -/
def State.updRunPanel (s : State) (r : Run) (j : Nat) (f : RunPanel → RunPanel) : State :=
  let r' : Run := { r with panels := r.panels.map fun p => if p.i = j then f p else p }
  let s := s.updBadger fun b => { b with runs := b.runs.map fun x => if x = r then r' else x }
  s.judgePanel r' j

/-! ## Helpers (R262 to R266, R280) -/

/-- Units of accumulator reservation held: rebuild and audit runs together (R264). -/
def State.reserved4k (s : State) : Nat :=
  (s.badger.helps.map fun h => h.accs.length).sum + (s.audit.helps.map fun h => h.accs.length).sum

/-- Entries of the request table in use (R66). -/
def State.requestsHeld (s : State) : Nat := s.badger.helps.length + s.audit.helps.length

/-- A part's frame to the parent. -/
def State.partFrame (s : State) (h : HelpRun) (a : Acc1) : OutFrame :=
  let d := (s.slot h.slot.val).sett
  let panel := if (s.slot h.slot.val).kind = .replica then h.first + a.i else h.first + a.i * stepOf d h.lost
  s.frame h.tidx .badger (.member h.parent) (if h.render then 0x62 else 0x41) h.epoch (runTry h.render)
    (panel % 2 ^ 23 + a.cmask.toNat * 2 ^ 23 + h.parentSlot.toNat * 2 ^ 59) a.bytes

/-- The accumulators of a run that owe nothing sent to the parent; a run with none left is freed. -/
def State.sendParts (s : State) (h : HelpRun) : State :=
  let ready := h.accs.filter fun a => a.owes.isEmpty
  let h' : HelpRun := { h with accs := h.accs.filter fun a => !a.owes.isEmpty }
  let s := s.updBadger fun b => { b with
    helps := (b.helps.map fun x => if x = h then h' else x).filter fun x => !x.accs.isEmpty }
  ready.foldl (fun s a => s.send (s.partFrame h a)) s

/-- The panels a helper reads for a run: its own panel index at each of the run's stripes, and whether it is virtual. -/
def State.helperPanels (s : State) (h : HelpRun) (r : Nat) : List (Nat × Bool) :=
  let d := (s.slot h.slot.val).sett
  (List.range h.count).map fun j =>
    let st := lostStripe d r h.lost (h.first + j * stepOf d h.lost)
    (panelAt d st h.pos, decide (h.pos < d.k) && virtualCol d st h.pos)

/-- The digests of a run sent to its requester (R266). -/
def State.sendDigests (s : State) (h : HelpRun) (ds : List Word) : State :=
  s.send (s.frame h.tidx .badger (.member h.requester) 0x52 h.epoch (runTry h.render)
    (h.first % 2 ^ 23 + h.count % 2 ^ 10 * 2 ^ 23 + 15 * 2 ^ 33) (ds.flatMap fun x => leBytes 8 x.toNat))

/-- The digests a helper keeps of its own panels of a run. -/
def State.helperDigests (s : State) (h : HelpRun) (r : Nat) : List Word :=
  let par := decide ((s.slot h.slot.val).sett.k ≤ h.pos)
  (s.helperPanels h r).map fun p => if p.2 then 0 else s.ownDigest h.slot.val par p.1

/-- Whether every panel a Render helper needs has arrived (R280). -/
def State.helperReady (s : State) (h : HelpRun) (r : Nat) : Bool :=
  !h.render || decide ((s.slot h.slot.val).sett.k ≤ h.pos) || (s.helperPanels h r).all fun p =>
    p.2 || match s.holderOf h.slot.val p.1 with
      | some (_, e, q) => e.state != .loading || (s.ten h.tidx).rs.first || s.panelPresent e q
      | none => true

/-- GF-engine handshakes of so many products of a panel: 256 bytes each (R31, R398; log entry 184). -/
def State.gfPanels (s : State) (n : Nat) : State := if n = 0 then s else s.countN 0x1D (16 * n)

/-- A held run's own products added, its digests sent, and the finished parts with them (R263, R266). -/
def State.fillRun (s : State) (h : HelpRun) (r : Nat) : State :=
  let sl := s.slot h.slot.val
  let par := decide (sl.sett.k ≤ h.pos)
  let ps := s.helperPanels h r
  let h' : HelpRun := { h with accs := h.accs.map fun a =>
    let p := ps.getD a.i (0, true)
    let c := match sl.pattern r h.lost (h.first + a.i * stepOf sl.sett h.lost) h.render with | some x => x.coef h.pos | none => 0
    let own := if p.2 then List.replicate 4096 0 else gfScale c (s.ownPanel h.slot.val par p.1)
    { a with bytes := xorBytes a.bytes own, owes := a.owes.filter (· != h.pos) } }
  let ds := s.helperDigests h r
  let s := (s.gfPanels (ps.filter fun p => !p.2).length).updBadger fun b => { b with
    helps := b.helps.map fun x => if x = h then h' else x }
  (s.sendDigests h ds).sendParts h'

/-- Whether a helper's own product is still owed. -/
def HelpRun.waits (h : HelpRun) : Bool := h.accs.any fun a => a.owes.contains h.pos

/-- Held Render requests whose panels have arrived served (R280). -/
def State.fillHeld (s : State) (i : Fin 64) : State :=
  (s.badger.helps.filter fun h => h.tidx == i && h.waits).foldl (fun s h =>
    match (s.slot h.slot.val).rankOf h.requester with
    | some r => if s.helperReady h r then s.fillRun h r else s
    | none => s) s

/-! ## What a commit, a generation and a reset do to runs (R265, R273) -/

/-- A commit at a tenant: helpers abandon runs of the old epoch; a target asks again for what is unverified, and its
verified data panels become pending. -/
def State.badgerCommit (s : State) (i : Fin 64) : State :=
  let e := (s.ten i).commit.committed
  let s := s.updBadger fun b => { b with
    helps := b.helps.filter fun h => h.tidx != i || h.render || h.epoch == e
    verified := b.verified.filter fun x => match s.entry x.1 with | some y => y.tenant != s.tagOf i | none => false }
  let s := s.updBg i fun b => { b with
    pending := b.pending ++ b.verified, verified := [], records := b.records.filter fun r => r.ctx.isNone }
  let mine := (s.badger.runs ++ s.badger.wait).filter fun r => r.tidx == i && r.kind != .render && r.epoch != e
  let drop (s : State) (r : Run) : State := s.updBadger fun b => { b with
    runs := b.runs.filter (· != r), wait := b.wait.filter (· != r) }
  (mine.foldl (fun s r => if r.donly then drop s r else s.rerequest r e) s).bgSettle i

/-- A REPLACING rank's target at the first seal: the seal stands for its first decision, and its rank record goes out once
its regions are ACTIVE and its parity, which Render has verified, is there (R281, R283). -/
def State.targetSealed (s : State) (i : Fin 64) : State :=
  let b := (s.ten i).bg
  if b.subject.isSome && b.state == .setup then
    (s.updBg i fun b => { b with state := .demand, decided := true, asking := false }).bgSettle i
  else s

/-- Render's runs and requests ended with the seal or its abort. The tenant's parity is rebuilt from the start, so none of
its panels stays doubted, unresolved or recorded as bad (R284). -/
def State.endRender (s : State) (i : Fin 64) : State :=
  let slots := s.settSlots i
  let mine (x : Nat × Bool × Nat) : Bool := x.2.1 && slots.contains x.1
  s.updBadger fun b => { b with
    runs := b.runs.filter fun r => r.tidx != i || r.kind != .render
    wait := b.wait.filter fun r => r.tidx != i || r.kind != .render
    helps := b.helps.filter fun h => h.tidx != i || !h.render
    doubts := b.doubts.filter fun x => !mine x
    unresolved := b.unresolved.filter fun x => !mine x
    bad := b.bad.filter fun (x : Nat × Bool × Nat) => !mine (x.2.2, x.2.1, x.1) }

/-- Whether a panel of a slot can be decoded, or copied, under a repair's pattern (R272). -/
def SlotS.reparable (sl : SlotS) (parity : Bool) (p : Nat) : Bool :=
  if sl.kind = .replica then sl.source.isSome
  else if parity then (sl.pattern sl.ownRank (sl.sett.k + p % max 1 sl.sett.m) p false).isSome
  else (sl.pattern sl.ownRank (p % max 1 sl.sett.k) p false).isSome

/-- The panels of a tenant that wait because their stripe cannot be decoded (R272). -/
def State.hopeless (s : State) (i : Fin 64) : List (Nat × Bool × Nat) :=
  s.badger.unresolved.filter fun x => s.ownsSlot i x.1 && !(s.slot x.1).reparable x.2.1 x.2.2

/-- Repairs that waited for a decodable stripe tried again (R272). -/
def State.retryRepairs (s : State) (waits : List (Nat × Bool × Nat)) : State :=
  s.updBadger fun b => { b with unresolved := b.unresolved.filter fun x => !waits.contains x }

/-- A generation at a tenant: requests held under the old one are dropped, and the runs outstanding are asked for again
with the helpers of the new one. -/
def State.badgerGeneration (s : State) (i : Fin 64) : State :=
  let s := s.updBadger fun b => { b with helps := b.helps.filter fun h => h.tidx != i }
  let mine := (s.badger.runs ++ s.badger.wait).filter fun r => r.tidx == i
  (mine.foldl (fun s r => s.rerequest r r.epoch) s).bgSettle i

end Sys2Proof.Machine
end

