-- ==== Sys2Proof/Machine/Commit.lean ====
section
/-! DEFINITION. The commit hierarchy's shared operations: the chip's view over the lath, credits, aggregation, decisions
and their relay, requests, solicitation (R215 to R230, R249, R258, R259). -/

namespace Sys2Proof.Machine

/-! ## Chip view over the lath (R217) -/

/-- The member address of an instance of this chip. -/
def State.mate (s : State) (k : Fin 12) : Addr := s.self.sibling (BitVec.ofNat 4 k.val)

/-- Whether an address is a target that holds a replaced rank (R218, R252). -/
def FoxS.isTarget (f : FoxS) (a : Addr) : Bool := (f.targets.any fun p => p.2 == a) && !f.isLost a

/-- The planned instance whose rank an address holds, through every replacement (R218, R252). -/
def FoxS.root (f : FoxS) : Nat → Addr → Addr
  | 0, a => a
  | n + 1, a => match f.targets.find? fun p => p.2 == a && p.1 != a with
    | some p => f.root n p.1
    | none => a

/-- The planned instance of an address. -/
def FoxS.rootOf (f : FoxS) (a : Addr) : Addr := f.root f.targets.length a

/-- Whether this instance is past a reslice boundary without a place in the new layout: it is no rank of the job whose seal is
voted on, and waits for SEALED or CANCEL (R286, R290; DEDUCED, log entry 195). -/
def State.leaver (s : State) (i : Fin 64) : Bool :=
  let r := (s.ten i).rs
  r.sealing && !r.first && !r.new_

/-- Whether an instance of this chip holds a rank of a tenant's job, as this instance or the lath shows it. -/
def State.mateHolds (s : State) (i : Fin 64) (k : Fin 12) : Bool :=
  if k.val = s.power.inst.toNat then !(s.usedSlots i).isEmpty && !s.leaver i else (s.lath.insts.get k).ranks.contains i.val

/-- Whether this instance holds no rank of a tenant it knows: it votes nowhere, but in a manager's role it follows the
attempts the chip's instances vote on (R217, R218; DEDUCED, log entry 22). -/
def State.follower (s : State) (i : Fin 64) : Bool := (s.ten i).env.isSome && (s.usedSlots i).isEmpty

/-- Whether an instance of this chip is READY for the open attempt. The vote of one that is not in service reads as not
ready until it is again (R325); one that is LOST since it voted stands (R216, R229). -/
def State.mateReady (s : State) (i : Fin 64) (k : Fin 12) : Bool :=
  let c := (s.ten i).commit
  if k.val = s.power.inst.toNat then c.vstate == .ready
  else ((s.lath.insts.get k).up || (s.ten i).fox.isLost (s.mate k)) &&
    (s.lath.insts.get k).ready.contains (i.val, c.openEpoch, c.openTry)

/-- The chip manager's children of a tenant: ranks of the chip that are not LOST; a target's vote goes to the child of
the rank it replaces (R218). -/
def State.chipKids (s : State) (i : Fin 64) : List (Fin 12) :=
  (List.finRange 12).filter fun k =>
    s.mateHolds i k && !(s.ten i).fox.isLost (s.mate k) && !(s.ten i).fox.isTarget (s.mate k)

/-- READY ranks of the chip. The vote of a rank LOST since it voted stands (R216, R229). -/
def State.chipCount (s : State) (i : Fin 64) : Nat :=
  ((List.finRange 12).filter fun k => s.mateHolds i k && !(s.ten i).fox.isTarget (s.mate k) && s.mateReady i k).length

/-- Whether every child of the chip manager that is not LOST is complete (R222). -/
def State.chipFull (s : State) (i : Fin 64) : Bool :=
  (!(s.chipKids i).isEmpty || decide (0 < s.chipCount i)) && (s.chipKids i).all fun k => s.mateReady i k

/-! ## Children and credits (R218, R222) -/

/-- GROUP numbers of a table, each once, in table order. -/
def TenantS.groupsOf (t : TenantS) (job : Bool) : List Nat := ((t.children job).map (·.group)).dedup

/-- Entries of one child. -/
def TenantS.entriesOf (t : TenantS) (job : Bool) (g : Nat) : List Child := (t.children job).filter fun c => c.group == g

/-- EXPECT of a child. -/
def TenantS.expect (t : TenantS) (job : Bool) (g : Nat) : Nat :=
  match t.entriesOf job g with | c :: _ => c.expect | [] => 0

/-- What a manager holds of a child. -/
def TenantS.creditOf (t : TenantS) (job : Bool) (g : Nat) : Credit :=
  (t.commit.credits.find? fun c => c.job == job && c.group == g).getD
    { job := job, group := g, ready := 0, targets := [], heard := [], answered := false }

/-- The state with a child's credit set. -/
def State.setCredit (s : State) (i : Fin 64) (c : Credit) : State :=
  s.updCommit i fun x => { x with credits := (x.credits.filter fun y => !(y.job == c.job && y.group == c.group)) ++ [c] }

/-- Targets whose rank belongs to a child of the pod table. -/
def TenantS.targetsIn (t : TenantS) (g : Nat) : List Addr :=
  ((t.fox.targets.map (·.2)).filter fun a =>
    !t.fox.isLost a && (t.entriesOf false g).any fun c => c.names (t.fox.rootOf a)).dedup

/-- Ranks of a child of the pod table that are LOST without a target. -/
def TenantS.lostIn (t : TenantS) (g : Nat) : Nat :=
  (t.fox.lost.filter fun a => (t.entriesOf false g).any fun c => c.names (t.fox.rootOf a)).length

/-- Whether a child is LOST: all its ranks in a pod table, every candidate of the pod in a job table (R222, R223). -/
def TenantS.childLost (t : TenantS) (job : Bool) (g : Nat) : Bool :=
  if job then (t.entriesOf true g).all fun c => t.fox.isLost c.addr else decide (t.expect false g ≤ t.lostIn g)

/-- Whether a child of the pod table is this chip. -/
def State.ownChip (s : State) (i : Fin 64) (g : Nat) : Bool :=
  ((s.ten i).entriesOf false g).any fun c => c.addr.chip == s.self.chip

/-- Whether a target has voted for the open attempt: by frame, or over the lath on this chip. -/
def State.targetReady (s : State) (i : Fin 64) (g : Nat) (a : Addr) : Bool :=
  if a.chip = s.self.chip then
    (List.finRange 12).any fun k => s.mate k == a && s.mateReady i k
  else ((s.ten i).creditOf false g).targets.contains a

/-- CREDIT of a child of the pod table. -/
def State.podCredit (s : State) (i : Fin 64) (g : Nat) : Nat :=
  let t := s.ten i
  (if s.ownChip i g then s.chipCount i else (t.creditOf false g).ready) +
    ((t.targetsIn g).filter fun a => s.targetReady i g a).length

/-- Σ CREDIT of the pod manager. -/
def State.podSum (s : State) (i : Fin 64) : Nat := (((s.ten i).groupsOf false).map fun g => s.podCredit i g).sum

/-- Whether every child of the pod not LOST is complete. -/
def State.podFull (s : State) (i : Fin 64) : Bool :=
  let t := s.ten i
  !(t.groupsOf false).isEmpty && (t.groupsOf false).all fun g => t.childLost false g || s.podCredit i g == t.expect false g

/-- Whether a child of the job table is the pod this instance manages. -/
def State.ownPod (s : State) (i : Fin 64) (g : Nat) : Bool :=
  s.isPodManager i && ((s.ten i).entriesOf true g).any fun c => c.addr == s.self

/-- CREDIT of a child of the job table. -/
def State.jobCredit (s : State) (i : Fin 64) (g : Nat) : Nat :=
  if s.ownPod i g then (if (s.ten i).commit.podM = .solicit then 0 else s.podSum i) else ((s.ten i).creditOf true g).ready

/-- Σ CREDIT of the job manager. -/
def State.jobSum (s : State) (i : Fin 64) : Nat := (((s.ten i).groupsOf true).map fun g => s.jobCredit i g).sum

/-- Whether every pod is complete and Σ CREDIT = MEMBERS (R223). -/
def State.jobFull (s : State) (i : Fin 64) : Bool :=
  let t := s.ten i
  !(t.groupsOf true).isEmpty && ((t.groupsOf true).all fun g => s.jobCredit i g == t.expect true g) &&
    s.jobSum i == t.commit.tree.members

/-- The highest role this instance acts in for a tenant: 3 job, 2 pod, 1 chip manager, 0 none (R230). -/
def State.topRole (s : State) (i : Fin 64) : Nat :=
  if s.isJobManager i then 3 else if s.isPodManager i then 2 else if s.isChipManager then 1 else 0

/-- A child's completion noted by a role (0 chip, 1 pod, 2 job manager), for MNL_EC_LAST and the histories (R230, R249):
whose vote completed it, which child it is, and the ns since the completion before it. -/
def State.noteChild (s : State) (i : Fin 64) (role : Fin 3) (a : Addr) (child : Nat) : State :=
  s.updCommit i fun c =>
    let r := c.roles.get role
    { c with roles := c.roles.set role { r with
        gap := if r.last.isSome then BitVec.ofNat 32 (s.time.now - r.at_).toNat else 0
        last := some (a, child), at_ := s.time.now } }

/-- The subtree of a role complete: MNL_EC_LAST takes the last child and the gap; where one instance holds several roles the
one completed last shows (R230; log entry 66). -/
def State.noteSubtree (s : State) (i : Fin 64) (role : Fin 3) : State :=
  s.updCommit i fun c =>
    let r := c.roles.get role
    match r.last with
    | some (a, _) => { c with lastChild := a, lastGap := r.gap }
    | none => c

/-- The child of a role that reports inside the chip, complete or not: its completion is noted as it comes (R217, R222). -/
def State.noteOwn (s : State) (i : Fin 64) (role : Fin 3) (a : Addr) (child : Option Nat) (full : Bool) : State :=
  let was := ((s.ten i).commit.roles.get role).own
  let s := s.updCommit i fun c => { c with roles := c.roles.set role { c.roles.get role with own := full } }
  match child with
  | some g => if full && !was then s.noteChild i role a g else s
  | none => s

/-! ## Late histories (R249) -/

/-- A 64-bit history's set bits. -/
def popcount64 (h : BitVec 64) : Nat := ((List.range 64).filter fun b => h.getLsbD b).length

/-- The history of a child shifted by one commit; it marks and logs event 0xCA when MARK_AT is reached. -/
def State.noteLate (s : State) (i : Fin 64) (job : Bool) (idx : Nat) (a : Addr) (late : Bool) : State :=
  let c := (s.ten i).commit
  let old := (c.late.find? fun l => l.job == job && l.idx == idx).getD { job := job, idx := idx, hist := 0, mark := false }
  let h := old.hist <<< 1 ||| (if late then 1 else 0)
  let hit := decide (c.markAt.toNat ≤ popcount64 h) && decide (c.markAt ≠ 0)
  let s := s.updCommit i fun c => { c with
    late := (c.late.filter fun l => !(l.job == job && l.idx == idx)) ++ [{ old with hist := h, mark := old.mark || hit }] }
  if hit && !old.mark then s.raiseT i 0xCA a.toNat else s

/-- Whether a child of a role completed last, LATE_GAP or more behind the one before it. -/
def CommitS.lateIn (c : CommitS) (role : Fin 3) (child : Nat) : Bool :=
  let r := c.roles.get role
  (match r.last with | some (_, g) => g == child | none => false) && decide (c.lateGap.toNat ≤ r.gap.toNat)

/-- The histories of the children of every role held, after a commit. A chip manager's children have no entry that
MNL_EC_CIDX selects; each has index 4096 + INST here. -/
def State.noteLates (s : State) (i : Fin 64) : State :=
  let c := (s.ten i).commit
  let table (s : State) (job : Bool) (role : Fin 3) : State :=
    ((s.ten i).children job).foldl (fun s x => s.noteLate i job x.idx x.addr (c.lateIn role x.group)) s
  let s := if s.isChipManager then
      (s.chipKids i).foldl (fun s k => s.noteLate i false (4096 + k.val) (s.mate k) (c.lateIn 0 k.val)) s
    else s
  let s := if s.isPodManager i then table s false 1 else s
  if s.isJobManager i then table s true 2 else s

/-! ## Frames to the children (R219, R222) -/

/-- The addresses a role's groups hold: the entry of each child chip, the first candidate not LOST of each child pod. A
child reached inside the instance or over the lath has none. -/
def State.treeMembers (s : State) (i : Fin 64) (job : Bool) : List Addr :=
  let t := s.ten i
  (t.groupsOf job).filterMap fun g =>
    if job then
      if s.ownPod i g then none
      else match (t.entriesOf true g).find? fun c => !t.fox.isLost c.addr with
        | some c => if c.addr.chip = s.self.chip then none else some c.addr
        | none => none
    else if s.ownChip i g then none
    else match t.entriesOf false g with | c :: _ => some c.addr | [] => none

/-- Groups of 35 members a role needs (R69, R218). -/
def treeParts (n : Nat) : Nat := (n + 34) / 35

/-- A frame formed for every group of a role. -/
def State.toTree (s : State) (i : Fin 64) (job : Bool) (typ : Byte) (epoch : Nat) (tr : BitVec 7) (t : Nat) : State :=
  (List.range (treeParts (s.treeMembers i job).length)).foldl (fun s part =>
    match s.ep.groups.find? fun g => g.key == .tree i.val job part && !g.deleting with
    | some g => s.send (s.frame i .control (.group g.handle) typ epoch tr t)
    | none => s) s

/-- A frame sent by unicast to every target a pod manager credits, but those of its own chip (R258). -/
def State.toTargets (s : State) (i : Fin 64) (typ : Byte) (epoch : Nat) (tr : BitVec 7) (t : Nat) : State :=
  let xs := (((s.ten i).groupsOf false).flatMap fun g => (s.ten i).targetsIn g).filter fun a => a.chip != s.self.chip
  xs.foldl (fun s a => s.send (s.ctrlTo i a typ epoch tr t)) s

/-- The T word and type of a decision at a level (R76, R219). -/
def decisionFrame (d : Decision) (members level : Nat) : Byte × Nat × BitVec 7 × Nat :=
  match d with
  | .commit e tr => (0x12, e, tr, members % 2 ^ 24 + level * 2 ^ 24)
  | .abort e tr r => (0x13, e, tr, r.toNat + level * 256 + 4096)

/-- A decision sent to the children of the roles held: the job groups when it is decided here, the pod groups and the
credited targets of a pod manager, and the chip over the lath (R217, R222, R223, R258). -/
def State.relay (s : State) (i : Fin 64) (d : Decision) (decided : Bool) : State :=
  let m := (s.ten i).commit.tree.members
  let f3 := decisionFrame d m 3
  let f2 := decisionFrame d m 2
  let s := if decided then s.toTree i true f3.1 f3.2.1 f3.2.2.1 f3.2.2.2 else s
  let s := if s.isPodManager i then
      (s.toTree i false f2.1 f2.2.1 f2.2.2.1 f2.2.2.2).toTargets i f2.1 f2.2.1 f2.2.2.1 f2.2.2.2
    else s
  s.lathSend (.decision i.val d)

/-- Credits cleared and every manager back in COLLECT after a decision (R222, R223). -/
def CommitS.cleared (c : CommitS) : CommitS :=
  { c with credits := [], chipM := .collect, podM := .collect, jobM := .collect, echoes := [], held := [] }

/-- The job manager at the epoch limit: event 0xB8 (R213). -/
def State.noteLimit (s : State) (i : Fin 64) : State :=
  if s.isJobManager i && (s.ten i).commit.atLimit then s.raiseT i 0xB8 else s

/-- The acting job manager whose next try waits for a new generation owes its ADVANCE (R214). -/
def State.oweAdvance (s : State) (i : Fin 64) : State :=
  if s.isJobManager i && (s.ten i).commit.genWait then
    s.updFox i fun f => { f with owed := addOnce (6, s.self, s.self) f.owed }
  else s

/-- A decision of the open attempt taken here: relayed first, then applied by the member as R221 gives. A commit of an
attempt for which the member is not READY is not applied and is event 0xB2 with the dust sheet. Requests held during
SOLICIT concerned the attempt that has ended. -/
def State.takeDecision (s : State) (i : Fin 64) (d : Decision) (decided : Bool) : State :=
  let s := s.relay i d decided
  match d with
  | .commit _ _ =>
    let s := s.noteLates i
    let v := (s.ten i).commit.vstate
    let s := s.updCommit i CommitS.cleared
    if s.leaver i then s
    else if s.follower i then
      (s.updCommit i fun c => { c with
        committed := c.openEpoch, committedTry := c.openTry, openEpoch := c.openEpoch + 1, openTry := 0, reasons := []
        openedAt := s.time.now, advanced := false, atLimit := decide (c.openEpoch + 1 = 2 ^ 48 - 1) }).noteLimit i
    else if v = .ready then
      if (s.ten i).rs.sealing then (((s.applySeal i).endRender i).badgerCommit i).targetSealed i
      else
        let s := ((s.applyCommit i).noteLimit i).badgerCommit i
        if (s.ten i).rs.state = .moving then s.enterBoundary i else s
    else s.raise { code := 0xB2, level := 3, tenant := s.tagOf i }
  | .abort _ tr r =>
    let s := s.updCommit i CommitS.cleared
    let s := if s.follower i then s.updCommit i fun c => { c with
          openTry := tr + 1, reasons := (tr, r) :: c.reasons, openedAt := s.time.now, advanced := false
          genWait := tr == 127 && !c.advanced }
      else if (s.ten i).rs.sealing then (s.abortSeal i).endRender i
      else s.applyAbort i tr r
    s.oweAdvance i

/-- The job manager's commit of its open attempt (R223, R224). -/
def State.decideCommit (s : State) (i : Fin 64) : State :=
  let c := (s.ten i).commit
  s.takeDecision i (.commit c.openEpoch c.openTry) true

/-- The job manager's abort of a try at or after its open one (R220, R223, R225). -/
def State.decideAbortAt (s : State) (i : Fin 64) (tr : BitVec 7) (reason : Byte) : State :=
  s.takeDecision i (.abort (s.ten i).commit.openEpoch tr reason) true

/-- The job manager's abort of its open try (R223, R225). -/
def State.decideAbort (s : State) (i : Fin 64) (reason : Byte) : State :=
  s.decideAbortAt i (s.ten i).commit.openTry reason

/-- Whether an attempt is open here for a member or a manager: a gate attempt, a seal attempt, or, where the instance only
manages, the attempt it follows, once its generation has come (R213, R214, R227). -/
def State.attemptStands (s : State) (i : Fin 64) : Bool :=
  let t := s.ten i
  t.commit.isOpen || t.rs.sealing || (s.follower i && !t.commit.genWait && !t.commit.atLimit)

/-! ## Requests (R219, R223, R226) -/

/-- A request taken by the acting job manager. -/
def State.jobRequest (s : State) (i : Fin 64) (reason : Byte) : State :=
  let c := (s.ten i).commit
  if c.jobM = .solicit then s.updCommit i fun c => { c with held := c.held ++ [reason] }
  else if reason = 0x0B ∨ reason = 0x0E ∨ c.autoAbort then s.decideAbort i reason
  else s.raiseT i 0xB0 reason.toNat

/-- A request's T word (R76). -/
def requestT (reason : Byte) (level : Nat) : Nat := reason.toNat + level * 256

/-- A request of a level put on the lath, with the open attempt (R226); a fenced member takes no commit action (R221). -/
def State.lathRequest (s : State) (i : Fin 64) (level : Nat) (reason : Byte) : State :=
  let c := (s.ten i).commit
  if (s.ten i).fox.self = .fenced then s
  else s.lathSend (.request s.power.inst i.val level reason c.openEpoch c.openTry)

/-- A request passed up from the pod manager's level. -/
def State.requestPod (s : State) (i : Fin 64) (reason : Byte) : State :=
  if s.isJobManager i then s.jobRequest i reason
  else
    match (s.ten i).jobManager with
    | none => s
    | some a =>
      let c := (s.ten i).commit
      if a.chip = s.self.chip then s.lathRequest i 2 reason
      else s.send (s.ctrlTo i a 0x13 c.openEpoch c.openTry (requestT reason 2))

/-- A request passed up from the chip manager's level. -/
def State.requestChip (s : State) (i : Fin 64) (reason : Byte) : State :=
  if s.isPodManager i then s.requestPod i reason
  else
    match (s.ten i).podManager with
    | none => s
    | some a =>
      let c := (s.ten i).commit
      if a.chip = s.self.chip then s.lathRequest i 1 reason
      else s.send (s.ctrlTo i a 0x13 c.openEpoch c.openTry (requestT reason 1))

/-- A member's own request: over the lath to its chip manager; a target's goes to the manager that credits its rank
(R226, R258). -/
def State.requestOwn (s : State) (i : Fin 64) (reason : Byte) : State :=
  let t := s.ten i
  if t.fox.isTarget s.self then
    if s.isPodManager i then s.requestPod i reason
    else
      match t.podManager with
      | none => s
      | some a =>
        if a.chip = s.self.chip then s.lathRequest i 0 reason
        else s.send (s.ctrlTo i a 0x13 t.commit.openEpoch t.commit.openTry (requestT reason 0))
  else if s.isChipManager then s.requestChip i reason
  else s.lathRequest i 0 reason

/-- The requests formed for new causes passed up (R221, R226), as far as the attempt they concern is still undecided. -/
def State.passRequests (s : State) (i : Fin 64) : State :=
  let e := (s.ten i).commit.openEpoch
  let tr := (s.ten i).commit.openTry
  let due := if (s.ten i).fox.self = .fenced then [] else (s.ten i).commit.reqDue
  let s := s.updCommit i fun c => { c with
    asked := c.asked ++ due.map fun r => { reason := r, repeats := 0, since := s.time.now }, reqDue := [] }
  due.foldl (fun s r =>
    if (s.ten i).commit.openEpoch = e ∧ (s.ten i).commit.openTry = tr then s.requestOwn i r else s) s

/-! ## Aggregation (R222, R223) -/

/-- The chip manager's COMMIT_VOTE; inside the chip the lath carries it. -/
def State.chipVote (s : State) (i : Fin 64) : State :=
  let c := (s.ten i).commit
  let s := s.updCommit i fun c => { c with chipAt := s.time.now }
  match (s.ten i).podManager with
  | some a =>
    if a.chip = s.self.chip then s
    else s.send (s.ctrlTo i a 0x11 c.openEpoch c.openTry (s.chipCount i % 2 ^ 24 + 2 ^ 24))
  | none => s

/-- The pod manager's COMMIT_VOTE, over the lath to a job manager of its chip. -/
def State.podVote (s : State) (i : Fin 64) : State :=
  let c := (s.ten i).commit
  let s := s.updCommit i fun c => { c with podAt := s.time.now }
  match (s.ten i).jobManager with
  | some a =>
    if a = s.self then s
    else if a.chip = s.self.chip then s.lathSend (.podVote s.power.inst i.val (s.podSum i) c.openEpoch c.openTry)
    else s.send (s.ctrlTo i a 0x11 c.openEpoch c.openTry (s.podSum i % 2 ^ 24 + 2 * 2 ^ 24))
  | none => s

/-- The chip manager's vote, once its subtree is complete. -/
def State.aggChip (s : State) (i : Fin 64) : State :=
  let t := s.ten i
  if s.isChipManager && t.commit.chipM == .collect && s.chipFull i then
    ((s.noteSubtree i 0).updCommit i fun c => { c with chipM := .sent }).chipVote i
  else s

/-- The pod manager's vote, once its subtree is complete. -/
def State.aggPod (s : State) (i : Fin 64) : State :=
  let g := ((s.ten i).groupsOf false).find? fun g => s.ownChip i g
  let s := if s.isPodManager i then
      s.noteOwn i 1 (s.self.sibling (BitVec.ofNat 4 s.chipManager)) g (match g with | some g => s.podCredit i g == (s.ten i).expect false g | none => false)
    else s
  if s.isPodManager i && (s.ten i).commit.podM == .collect && s.podFull i then
    let s := (s.noteSubtree i 1).updCommit i fun c => { c with podM := .sent }
    s.podVote i
  else s

/-- The job manager's decision, once every pod is complete. -/
def State.aggJob (s : State) (i : Fin 64) : State :=
  let g := ((s.ten i).groupsOf true).find? fun g => s.ownPod i g
  let s := if s.isJobManager i then
      s.noteOwn i 2 s.self g (match g with | some g => s.jobCredit i g == (s.ten i).expect true g | none => false)
    else s
  if s.isJobManager i && (s.ten i).commit.jobM == .collect && s.jobFull i then (s.noteSubtree i 2).decideCommit i else s

/-- Whether a tenant takes commit actions here: an attempt to vote on, and the member not fenced (R221). -/
def State.commits (s : State) (i : Fin 64) : Bool :=
  ((s.ten i).commit.vstate != .none || s.follower i) && (s.ten i).fox.self != .fenced

/-- A tenant's aggregation at the roles this instance holds. -/
def State.aggregate (s : State) (i : Fin 64) : State :=
  if s.commits i then ((s.aggChip i).aggPod i).aggJob i else s

/-! ## Solicitation (R222, R223) -/

/-- Whether a child of the pod table has no rank of its own left: every one is LOST or replaced. -/
def TenantS.noneLeft (t : TenantS) (g : Nat) : Bool :=
  decide (t.expect false g ≤ t.lostIn g + (t.targetsIn g).length)

/-- Whether a child has answered a solicitation: the lath answers for this chip. -/
def State.childAnswered (s : State) (i : Fin 64) (job : Bool) (g : Nat) : Bool :=
  let t := s.ten i
  let c := t.creditOf job g
  if job then s.ownPod i g || c.answered
  else (s.ownChip i g || c.answered || t.noneLeft g) &&
    (t.targetsIn g).all fun a => a.chip == s.self.chip || c.heard.contains a

/-- A role starts to solicit: COMMIT_PREP to its groups and credited targets. A job manager of the same chip has a pod
manager's count over the lath at once, in place of the answer to a COMMIT_PREP (R217). -/
def State.solicit (s : State) (i : Fin 64) (job : Bool) : State :=
  let c := (s.ten i).commit
  let s := s.updCommit i fun c => { c with
    credits := c.credits.map fun x => if x.job = job then { x with answered := false, heard := [] } else x
    podM := if job then c.podM else .solicit
    jobM := if job then .solicit else c.jobM, solicitAt := s.time.now }
  if job then s.toTree i true 0x10 c.openEpoch c.openTry 3
  else
    let s := (s.toTree i false 0x10 c.openEpoch c.openTry 2).toTargets i 0x10 c.openEpoch c.openTry 2
    match (s.ten i).jobManager with
    | some a => if a.chip = s.self.chip then s.podVote i else s
    | none => s

/-- SOLICIT ends once every child not LOST has answered. At the job manager an abort echoed by an answer is taken then,
and the requests held take effect in arrival order (R223; DEDUCED, log entry 16). -/
def State.endSolicit (s : State) (i : Fin 64) : State :=
  let t := s.ten i
  let all (job : Bool) : Bool := (t.groupsOf job).all fun g => t.childLost job g || s.childAnswered i job g
  let s := if t.commit.podM = .solicit && all false then s.updCommit i fun c => { c with podM := .collect } else s
  if t.commit.jobM = .solicit && all true then
    let echoes := t.commit.echoes
    let held := t.commit.held
    let e := t.commit.openEpoch
    let tr := t.commit.openTry
    let s := s.updCommit i fun c => { c with jobM := .collect, echoes := [], held := [] }
    match echoes with
    | .abort _ tr r :: _ => s.decideAbortAt i tr r
    | _ =>
      held.foldl (fun s r =>
        if (s.ten i).commit.openEpoch = e ∧ (s.ten i).commit.openTry = tr then
          if r = 0x01 then s.decideAbort i r
          else if r = 0x02 then (s.decideAbort i r).raiseT i 0xB5
          else s.jobRequest i r
        else s) s
  else s

/-- The roles this instance acts in brought up to date (R217, R222, R223, R243). `took`: a role newly held was another's
before, as a change of the membership makes it, and not given with the tree; it logs events 0xB7 and 0xCD. A pod or job
manager that takes its role solicits where there is an attempt to vote on; a chip manager has its children's answers on the
lath, and votes again. -/
def State.syncRoles (s : State) (i : Fin 64) (took : Bool) : State :=
  let c := (s.ten i).commit
  let p := s.isPodManager i
  let j := s.isJobManager i
  let k := s.isChipManager
  let s := s.updCommit i fun c => { c with
    podRole := p, jobRole := j, chipRole := k, chipM := if k && !c.chipRole then .collect else c.chipM }
  let take (s : State) (job : Bool) : State :=
    let s := if took then (s.raiseT i 0xB7).raiseT i 0xCD else s
    if c.vstate = .none ∧ !s.follower i then s else s.solicit i job
  let s := if p && !c.podRole then take s false else s
  let s := if j && !c.jobRole then take s true else s
  s.oweAdvance i

/-! ## Decisions as a member and a manager receive them (R220 to R223, R259) -/

/-- Whether a try lies at or after another (R214). -/
def tryAtOrAfter (t u : BitVec 7) : Bool := decide ((t - u).toNat < 64)

/-- The REASON an earlier try of the open epoch is answered with: the one that ended it, or, for a try passed over here,
that of the last abort (R220). -/
def CommitS.reasonOf (c : CommitS) (tr : BitVec 7) : Option Byte :=
  if tryAtOrAfter tr c.openTry then none
  else (((c.reasons.find? fun p => p.1 == tr) <|> c.reasons.head?)).map (·.2)

/-- A target takes its committed epoch and its open try from a decision of its named job (R259). -/
def State.targetJoins (s : State) (i : Fin 64) (d : Decision) : State :=
  let s := match d with
    | .commit e tr => s.updCommit i fun c => { c with
        committed := e, committedTry := tr, openEpoch := e + 1, openTry := 0, vstate := .open_ }
    | .abort e tr r => s.updCommit i fun c => { c with
        committed := e - 1, openEpoch := e, openTry := tr + 1, vstate := .open_, reasons := [(tr, r)]
        genWait := tr == 127 && !c.advanced }
  let s := s.updTen i fun t => { t with bg := { t.bg with decided := true, asking := false } }
  (s.lathSend (.decision i.val d)).dueOpen i (match d with | .commit .. => true | .abort .. => false)

/-- Whether a target waits for its first decision (R258, R259). -/
def TenantS.awaits (t : TenantS) : Bool := t.bg.subject.isSome && t.commit.vstate == .none && !t.bg.decided

/-- The children of the job table for which an answer has come that echoes an abort, marked as answered (R223). -/
def State.heardPods (s : State) (i : Fin 64) (p : Addr → Bool) : State :=
  ((s.ten i).groupsOf true).foldl (fun s g =>
    if ((s.ten i).entriesOf true g).any fun c => p c.addr then
      s.setCredit i { (s.ten i).creditOf true g with answered := true }
    else s) s

/-- An echo passed up by a pod manager in SOLICIT (R222): by frame, or over the lath, which holds every decision, to a job
manager of its chip (R217). -/
def State.echoUp (s : State) (i : Fin 64) (d : Decision) : State :=
  let t := s.ten i
  match t.jobManager with
  | some a =>
    if a.chip = s.self.chip then s
    else
      let f := decisionFrame d t.commit.tree.members 2
      s.send (s.ctrlTo i a f.1 f.2.1 f.2.2.1 f.2.2.2)
  | none => s

/-- A decision that has come from above, from a child's answer, or over the lath. `child`: it answers a solicitation. -/
def State.decision (s : State) (i : Fin 64) (d : Decision) (child : Bool) : State :=
  let t := s.ten i
  let c := t.commit
  if t.fox.self = .fenced then s
  else if t.awaits then s.targetJoins i d
  else if c.vstate = .none ∧ !s.follower i then s.raiseT i 0x47
  else
    match d with
    | .commit e tr =>
      if e = c.openEpoch ∧ tr = c.openTry then
        let clash := s.isJobManager i && c.echoes.any fun x => match x with | .abort .. => true | _ => false
        let s := if child && !s.isJobManager i && c.podM == .solicit then s.echoUp i d else s
        let s := if clash then s.raiseT i 0xB2 else s
        s.takeDecision i d (s.isJobManager i)
      else if e = c.committed ∧ tr = c.committedTry then s
      else s.raiseT i 0x47
    | .abort e tr r =>
      if e = c.openEpoch then
        if tryAtOrAfter tr c.openTry then
          if child && s.isJobManager i then
            if c.jobM = .solicit then s.updCommit i fun c => { c with echoes := c.echoes ++ [d] }
            else s.decideAbortAt i tr r
          else
            let s := if child && c.podM == .solicit then s.echoUp i d else s
            s.takeDecision i d false
        else s
      else if e ≤ c.committed then s.raiseT i 0xB9
      else s.raiseT i 0x47

/-! ## Readiness (R215, R221) -/

/-- Whether, as holder, a member has every source of its slots closed (R202, R215). -/
def State.sourcesClosed (s : State) (i : Fin 64) : Bool :=
  (s.settSlots i).all fun k =>
    let sl := s.slot k
    (List.range sl.sett.rows.length).all fun r =>
      r == sl.sett.rank || !s.sendsTo k r ||
        sl.sources.any fun e => e.rank == r && e.closed && !e.broken

/-- What makes a vote late without withholding it: an EXPORT of the tenant under way (R295), an audit run held as
helper (R309). -/
def State.voteHeld (s : State) (i : Fin 64) : Bool :=
  (match s.rs.running with | some x => decide (x.tidx = i) | none => false) ||
    s.audit.helps.any fun h => h.tidx == i

/-- Every condition of R215. -/
def State.readyNow (s : State) (i : Fin 64) : Bool :=
  let t := s.ten i
  if t.rs.sealing then s.sealReady i && !s.leaver i
  else t.commit.isOpen && t.commit.vstate == .open_ && t.sweep.state == .done && s.skimDone i && s.sourcesClosed i &&
    !((s.entriesOf (s.tagOf i)).any fun p => p.2.state == .contained) &&
    !((s.settSlots i).any fun k => (s.slot k).st == .broken || (s.slot k).st == .forming) && !s.voteHeld i && decide (s.flt.mode = .normal)

/-- The own vote given: READY on the lath, a target's to the manager that credits its rank (R218, R221). -/
def State.giveVote (s : State) (i : Fin 64) : State :=
  let c := (s.ten i).commit
  let s := s.updCommit i fun c => { c with vstate := .ready, readyAt := s.time.now }
  let s := s.lathSend (.vote s.power.inst i.val true c.openEpoch c.openTry)
  let s := if s.isChipManager && !(s.ten i).fox.isTarget s.self then s.noteChild i 0 s.self s.power.inst.toNat else s
  if (s.ten i).fox.isTarget s.self then
    match (s.ten i).podManager with
    | some a => if a.chip = s.self.chip then s else s.send (s.ctrlTo i a 0x11 c.openEpoch c.openTry 1)
    | none => s
  else s

/-- What follows a change of a tenant's commit, sweep or membership state: its sweep goes on, its requests go up, votes
are aggregated, an opening that is due takes place, and what was parked is judged again. Under dust sheet an instance
decides nothing (R324). -/
def State.follow (s : State) (i : Fin 64) : State :=
  if s.flt.mode ≠ .normal then s
  else (((((s.syncBoundary i).advanceSweep i).passRequests i).endSolicit i).aggregate i).tryOpen i |>.advanceSweep i |>.unpark

end Sys2Proof.Machine
end

