-- ==== Sys2Proof/Machine/Frames.lean ====
section
/-! DEFINITION. Received frames: their bytes, their CRC and the checks of R75 in order, the FENCE and the membership
query that two of them cause, the multicast groups an instance needs (R69 to R76, R235, R236). -/

namespace Sys2Proof.Machine

/-! ## Frames as bytes (R73, R74) -/

/-- Header bytes 0 to 27. -/
def headBytes (f : Rx) : List Byte :=
  [f.typ, BitVec.ofNat 8 (f.ver.toNat + bit f.mark 4 + bit f.retx 5 + bit f.elided 6 + bit f.rsv1 7)] ++
    leBytes 2 f.tenant.toNat ++ leBytes 4 f.gen.toNat ++ leBytes 6 f.epoch.toNat ++
    leBytes 4 (f.src.toNat + f.tr.toNat * 2 ^ 25) ++ leBytes 2 (f.len.toNat + f.rsv2.toNat * 2 ^ 13) ++ leBytes 8 f.t.toNat

/-- Header bytes 0 to 27 of a frame this instance sends: VER 3, MARK by the TYPE, SRC its own address (R73). -/
def OutFrame.head (f : OutFrame) (src : Addr) : List Byte :=
  [f.typ, BitVec.ofNat 8 (3 + bit (f.typ == 0x03) 4 + bit f.retx 5 + bit f.elided 6)] ++
    leBytes 2 f.tenant.toNat ++ leBytes 4 f.gen.toNat ++ leBytes 6 f.epoch ++
    leBytes 4 (src.toNat + f.tr.toNat * 2 ^ 25) ++ leBytes 2 f.payload.length ++ leBytes 8 f.t.toNat

/-- A sent frame as its bytes: the header with its CRC, then the payload. Every frame sent gets its CRC here, a forwarded
reduction part too (R73, R74). -/
def OutFrame.wire (f : OutFrame) (src : Addr) : List Byte :=
  f.head src ++ leBytes 4 (crc32c (f.head src ++ f.payload)).toNat ++ f.payload

/-- The beats of a frame of bytes: 64 bytes a beat, EO_KEEP a bit for each 4-byte word, the destination on the first
(R60). -/
def beatsOf (vc : Vc) (mcast : Bool) (dst : BitVec 25) (flag : Bool) (bs : List Byte) : List Beat :=
  let n := (bs.length + 63) / 64
  (chunksOf 64 n bs).zipIdx.map fun p =>
    { vc := vc, mcast := mcast, dst := if p.2 = 0 then some dst else none, flag := flag, first := p.2 == 0
      last := p.2 + 1 == n, keep := BitVec.ofNat 16 (2 ^ ((p.1.length + 3) / 4) - 1), data := p.1 }

/-- The beats of a frame this instance sends (R60, R71). -/
def OutFrame.beats (f : OutFrame) (src : Addr) : List Beat :=
  match f.dst with
  | .member a => beatsOf f.vc false a f.flag (f.wire src)
  | .group h => beatsOf f.vc true (BitVec.ofNat 25 h) f.flag (f.wire src)

/-- CRC-32C of bytes 0 to 27 and the payload (R74). -/
def frameCrc (f : Rx) : BitVec 32 := crc32c (headBytes f ++ f.payload)

/-- The defined frame codes (R76). -/
def definedTypes : List Byte :=
  [0x01, 0x02, 0x03, 0x10, 0x11, 0x12, 0x13, 0x20, 0x21, 0x30, 0x40, 0x41, 0x50, 0x51, 0x52, 0x60, 0x61, 0x62, 0x70]

/-- A field of a frame's T word. -/
def tField (f : Rx) (lo n : Nat) : Nat := bitsOf f.t.toNat lo n

/-! ## The register window (R35, R329) -/

/-- Whether a window write carries NQ_TAG 0x0000, which system software alone uses. -/
def fromSystem (a : Acc) : Bool := a.tag == 0

/-- Whether the window takes writes at an offset (R384): everywhere while configured and out of an instance reset, and
always in the fault block. -/
def State.windowOpen (s : State) (offset : Nat) : Bool :=
  (s.configured && decide (s.flt.mode ≠ .resetting)) || (decide (0x1800 ≤ offset) && decide (offset < 0x1900))

/-- A window write of a register with a row of its own (R9, R329, R384): nothing moves while the ports are down; a write
the state or, under `sys`, the NQ_TAG does not allow is refused; else it completes with OK and takes effect. -/
def State.window (s : State) (a : Acc) (offset : Nat) (sys : Bool) (f : State → State) : State :=
  if !s.portsUp then s
  else if !s.windowOpen offset || (sys && !fromSystem a) then s.refuse a.id offset
  else f (s.ok a.id)

/-! ## Time (R28) -/

/-- The host time last sampled brought up to `t`; a sample that lies behind it changes nothing here (R30 judges it). -/
def State.at_ (s : State) (t : BitVec 64) : State :=
  if s.time.now < t then
    { s with time := { s.time with now := t, sampled := true, since := if s.time.sampled then s.time.since else t } }
  else s

/-- The deadline of a timer that began at `since` and runs for `ns` is reached: the sampled counter stands there at least
(R29). Before the first sample no timer runs. -/
def State.reach (s : State) (since : BitVec 64) (ns : Nat) : State :=
  if s.time.sampled then s.at_ (since + BitVec.ofNat 64 ns) else s

/-- VOTE_REPEAT in ns. -/
def State.repeatNs (s : State) : Nat := s.cfg.glob.voteRepeat * 1000

/-! ## Membership queries and fences (R75, R235, R236) -/

/-- Whether a span of microseconds has passed between two host times. -/
def passed (since now : BitVec 64) (us : Nat) : Bool := decide (us * 1000 ≤ (now - since).toNat)

/-- The T word and payload of a MEMBERSHIP_QUERY (R246). -/
def queryFrame (qkind cause imask : Nat) (subject : Addr) (hseq : Nat) : Nat × List Byte :=
  (3 + qkind * 256 + cause * 4096 + imask * 65536, leBytes 4 subject.toNat ++ leBytes 4 hseq)

/-- A SYNC query of `asker`, at its generation, passed one manager up: chip manager, pod manager, leader (R235). Its
SUBJECT names the asker (DESIGN CHOICE, log entry 17). -/
def State.syncUp (s : State) (i : Fin 64) (asker : Addr) (gen : Gen) : State :=
  let t := s.ten i
  let chip := s.self.sibling (BitVec.ofNat 4 s.chipManager)
  let up := if s.isJobManager i then none
    else if s.isPodManager i then t.jobManager
    else if s.isChipManager then t.podManager
    else some chip
  match up with
  | none => s
  | some a =>
    if a = s.self then s
    else
      let q := queryFrame 1 0 0 asker 0
      s.send { s.ctrlTo i a 0x70 0 0 q.1 q.2 with gen := gen }

/-- The receiver queries for membership, at most once per VOTE_REPEAT (R235). -/
def State.querySync (s : State) (i : Fin 64) : State :=
  let f := (s.ten i).fox
  if f.syncAt ≠ 0 ∧ !passed f.syncAt s.time.now s.cfg.glob.voteRepeat then s
  else (s.updFox i fun f => { f with syncAt := s.time.now }).syncUp i s.self f.gen

/-- One FENCE returned to the source of an old frame, at most one per source per ms (R75). -/
def State.returnFence (s : State) (i : Fin 64) (src : Addr) : State :=
  let old : Option (Addr × BitVec 64) := s.ep.fenced.find? fun p => p.1 == src
  let wait : Bool := match old with | some p => !passed p.2 s.time.now 1000 | none => false
  if wait then s
  else
    let s := { s with ep := { s.ep with fenced := (s.ep.fenced.filter fun (p : Addr × BitVec 64) => p.1 != src) ++ [(src, s.time.now)] } }
    s.sendReply (s.ctrlTo i src 0x21 0 0 ((s.ten i).fox.gen.toNat + src.toNat * 2 ^ 32))

/-! ## The checks of R75 -/

/-- What a row asks of a frame: its TYPE; whether its fields hold defined encodings and zeros (check 2); whether its LEN
fits (check 3); whether checks 5 and 6 are skipped; and checks 7 and 8. -/
structure Check where
  typ : Byte
  ok2 : Bool
  ok3 : Bool
  skipGen : Bool := false
  ok7 : State → Fin 64 → Bool := fun _ _ => true
  /-- The counter that a failure of check 7 increments beside its event. -/
  count7 : Option Nat := none
  ok8 : State → Fin 64 → Bool := fun _ _ => true

/-- A frame the endpoint discards without an event: counter 0x4D (R62). -/
def State.discard (s : State) : State := s.count 0x4D

/-- An endpoint event of a frame. -/
def State.frameEvent (s : State) (f : Rx) (code : Nat) : State :=
  s.raise { code := code, tenant := f.tenant, detail := f.src.toNat }

/-- Whether the instance's state lets a frame in at all (R62): nothing in an endpoint or instance reset or before
configuration, and under dust sheet only FENCE, membership updates and STATUS_QUERY. -/
def State.takesFrame (s : State) (f : Rx) : Bool :=
  s.configured && !s.flt.inReset.contains .endpoint && s.flt.mode != .resetting &&
    (s.flt.mode == .normal || f.typ == 0x21 || (f.typ == 0x70 && (tField f 0 8 == 4 || tField f 0 8 == 6)))

/-- Whether a frame comes from an address LOST in the tenant's generation (R236). -/
def State.srcLost (s : State) (i : Fin 64) (f : Rx) : Bool := (s.ten i).fox.isLost f.src

/-- A received frame judged by the checks of R75, the first failure deciding; one that passes them all and whose source
is not LOST is handled by `k`. Only a SYNC query of a LOST member is still answered. -/
def State.receive (s : State) (f : Rx) (c : Check) (k : State → Fin 64 → State) : State :=
  if !s.portsUp then s
  else
    let s := s.at_ f.time
    if !s.takesFrame f then s.discard
    else if f.eiErr || f.crc ≠ frameCrc f then s.frameEvent f 0x41
    else if f.ver ≠ 3 || f.typ ≠ c.typ || f.mark != (f.typ == 0x03) || (f.elided && f.typ != 0x01) || f.rsv1 ||
        f.rsv2 ≠ 0 || !c.ok2 then s.frameEvent f 0x42
    else if f.len.toNat ≠ f.payload.length || !c.ok3 then s.frameEvent f 0x43
    else
      match s.tenantOf f.tenant with
      | none => s.frameEvent f 0x44
      | some i =>
        let gen := (s.ten i).fox.gen
        if !c.skipGen && f.gen < gen then (s.frameEvent f 0x45).returnFence i f.src
        else if !c.skipGen && gen < f.gen then (s.frameEvent f 0x46).querySync i
        else if !c.ok7 s i then
          match c.count7 with
          | some n => (s.frameEvent f 0x47).count n
          | none => s.frameEvent f 0x47
        else if !c.ok8 s i then s.frameEvent f 0x48
        else if s.srcLost i f && !(f.typ == 0x70 && tField f 0 12 == 0x103) then s
        else k s i

/-- The slot of the receiver in which a source holds a rank whose own slot number is `mslot` (check 8 of R75, for the
types that carry the sender's slot). -/
def State.slotBySender (s : State) (i : Fin 64) (src : Addr) (mslot : Nat) : Option Nat :=
  (s.settSlots i).find? fun k => (s.slot k).sett.rows.any fun r => r.addr == src && r.mslot.toNat == mslot

/-- Whether a source holds a row of the receiver's own slot `k` of the tenant (check 8 of R75). -/
def State.knownIn (s : State) (i : Fin 64) (k : Nat) (src : Addr) : Bool :=
  (s.usedSlots i).contains k && ((s.slot k).rankOf src).isSome

/-! ## Groups (R69, R70, R218) -/

/-- The addresses of a holder group (R69): the m parity ranks of the stripes of a rotation. -/
def holderRows (d : SettDesc) (u : Nat) : List Addr :=
  (List.range d.m).filterMap fun j => (d.rows[rankAt d.k d.m u (d.k + j)]?).map (·.addr)

/-- Cut into lists of 35. -/
def parts35 : Nat → List Addr → List (List Addr)
  | 0, _ => []
  | n + 1, l => if l.isEmpty then [] else l.take 35 :: parts35 n (l.drop 35)

/-- Groups a sett slot needs (R69): k + m holder groups and the all-peers group. -/
def State.slotGroups (s : State) (k : Nat) : List (GroupKey × List Addr) :=
  let d := (s.slot k).sett
  if (s.slot k).kind = .sett ∧ (s.slot k).st ≠ .unused then
    (List.range (settN d)).map (fun u => (GroupKey.holders k u, holderRows d u)) ++
      [(GroupKey.peers k, (d.rows.map (·.addr)).filter (· != s.self))]
  else []

/-- Groups a tenant's child tables need. -/
def State.tenGroups (s : State) (i : Fin 64) : List (GroupKey × List Addr) :=
  if !(s.ten i).commit.tree.children.any (·.valid) then []
  else
    [false, true].flatMap fun job =>
      let m := s.treeMembers i job
      (parts35 (m.length + 1) m).zipIdx.map fun p => (GroupKey.tree i.val job p.2, p.1)

/-- Every group the instance needs. -/
def State.wantedGroups (s : State) : List (GroupKey × List Addr) :=
  (List.range 16).flatMap s.slotGroups ++ tenantIdxs.flatMap s.tenGroups

/-- The lowest handle not in use. -/
def freeHandle (gs : List Group) : Nat :=
  ((List.range Config.groupLimit).find? fun h => !(gs.any fun g => g.handle == h)).getD Config.groupLimit

/-- The group table brought to what is needed: a new group takes the lowest free handle, a changed one is written again
under its handle, one no longer needed is deleted (R69, R70, R252). -/
def State.syncGroups (s : State) : State :=
  let want := s.wantedGroups.filter fun p => !p.2.isEmpty
  let kept := s.ep.groups.map fun g =>
    if g.deleting then g
    else
      match want.find? fun p => p.1 == g.key with
      | some p => if p.2 = g.members then g else { g with members := p.2, setup := .wanted }
      | none => { g with deleting := true, setup := .wanted }
  let groups := want.foldl (fun gs p =>
    if gs.any fun g => g.key == p.1 && !g.deleting then gs
    else gs ++ [{ handle := freeHandle gs, key := p.1, members := p.2, setup := .wanted }]) kept
  { s with ep := { s.ep with groups := groups } }

/-- The confirmed group of a key, which alone a frame may use (R69, R70). -/
def State.confirmedGroup (s : State) (k : GroupKey) : Option Group :=
  s.ep.groups.find? fun g => g.key == k && g.setup == .confirmed && !g.deleting

/-- A HEARTBEAT or DISCOVER to a slot's peers: to the group, or, while its setup is unconfirmed, to each member by
unicast (R70). -/
def State.toPeers (s : State) (i : Fin 64) (k : Nat) (typ : Byte) (epoch : Nat) (t : Nat) (payload : List Byte) : State :=
  match s.confirmedGroup (.peers k) with
  | some g => s.send (s.frame i .control (.group g.handle) typ epoch 0 t payload)
  | none =>
    let xs := ((s.slot k).sett.rows.map (·.addr)).filter (· != s.self)
    xs.foldl (fun s a => s.send (s.ctrlTo i a typ epoch 0 t payload)) s

end Sys2Proof.Machine
end

