-- ==== Sys2Proof/Machine/GateRows.lean ====
section
/-! DEFINITION. The gate's commands: host accesses, controller responses, read-old completions and the fold walker
(R36, R43 to R56). -/

namespace Sys2Proof.Machine

/-- HOST_MEMORY_READ (R43, R45, R46, R50, R51, R53, R56). -/
def execHostMemoryRead (q : NqReq) (sramBad : Bool) (s : State) : Out := .next (s.hostMemory q 0 sramBad)

/-- HOST_MEMORY_WRITE (R45, R47 to R49, R53, R56). -/
def execHostMemoryWrite (q : NqReq) (sramBad : Bool) (s : State) : Out := .next (s.hostMemory q 1 sramBad)

/-- HOST_MEMORY_ATOMIC (R45, R53, R56). -/
def execHostMemoryAtomic (q : NqReq) (sramBad : Bool) (s : State) : Out := .next (s.hostMemory q 2 sramBad)

/-- MEMORY_RESPONSE (R36, R55, R330): what waited behind the line goes on. -/
def execMemoryResponse (r : MsResp) (s : State) : Out := .next (if s.portsUp then (s.memResponse r).unpark else s)

/-- DIRECT_WRITE_COMPLETE (R47, R48): the oldest read-old write with this NQ_ID. -/
def execDirectWriteComplete (id : BitVec 10) (s : State) : Out :=
  if !s.portsUp then .next s
  else
    match s.gate.mq.find? fun m => m.kind == .readOld && m.nqId == id with
    | some m => .next (s.completeWrite m).unpark
    | none => .next s

/-- The record words of the directory that are not zero. -/
def State.liveRecords (s : State) : List Nat := ((s.mem.filter fun p => s.inDir p.1).map fun p => p.1 / 4 * 4).dedup

/-- A record word folded in place (R43). -/
def State.foldWord (s : State) (w : Nat) : State :=
  s.putBytes w (leBytes 4 (s.fold (dirRecOf (leNat (s.bytesAt w 4)))).word)

/-- A full pass of the fold walker (R44), which writes nothing under dust sheet (R325): every record folded, every closed
attempt number free again, and the openings
that waited for it take place. -/
def execFoldWalkerPass (s : State) : Out :=
  if !s.gate.ready || s.flt.mode != .normal then .next s
  else
    let s := s.liveRecords.foldl (fun s w => s.foldWord w) s
    let s := tenantIdxs.foldl (fun s i => s.updCommit i fun c => { c with unfolded := 0 }) s
    .next (tenantIdxs.foldl (fun s i => if (s.ten i).commit.openDue then (s.tryOpen i).follow i else s) s)

end Sys2Proof.Machine
end

