-- ==== Sys2Proof/Machine/Object.lean ====
section
/-! DEFINITION. Signed objects: header, section table, trailer, the checks of R343 and R347, the envelope, slot and
capability checks of bundles, and the record an accepted object gives (R341 to R347, R350 to R358). -/

namespace Sys2Proof.Machine

/-! ## Layout (R341, R342) -/

/-- A section table entry. -/
structure Sect where
  typ : Nat
  inst : Nat
  slot : Nat
  off : Nat
  size : Nat
  raw : List Byte
  deriving DecidableEq, Repr

/-- The section table of an object. -/
def sectTable (bs : List Byte) : List Sect :=
  (List.range (leField bs 7 1)).map fun j =>
    let o := 64 + 16 * j
    { typ := leField bs o 1, inst := leField bs (o + 1) 1 % 16, slot := leField bs (o + 1) 1 / 16, off := leField bs (o + 4) 4
      size := leField bs (o + 8) 4, raw := slice bs o 16 }

/-- Bytes of a section. -/
def Sect.bytes (x : Sect) (bs : List Byte) : List Byte := slice bs x.off x.size

/-- The first section of a type and INST. -/
def findSect (bs : List Byte) (typ : Nat) (inst : Option Nat) : Option Sect :=
  (sectTable bs).find? fun x => x.typ == typ && (match inst with | some i => x.inst == i | none => true)

/-- Header and section table well formed, KIND as the path requires, `maxLen` the largest LENGTH; the trailer's
reserved fields zero (R341 to R343, check 3). -/
def formatOk (o : ObjRead) (kind maxLen : Nat) : Bool :=
  let b := o.bytes
  let n := leField b 7 1
  let secs := sectTable b
  let zero (l : List Byte) : Bool := l.all (· == 0)
  let insts (t : Nat) : List Nat := (secs.filter fun x => x.typ == t).map (·.inst)
  decide (leField b 0 4 = 0x3346434D) && decide (leField b 4 1 = 3) && decide (leField b 5 1 = 1) &&
    decide (leField b 6 1 = kind) && decide (2 ≤ n) && decide (n ≤ 64) && decide (leField b 8 4 = b.length) &&
    decide (b.length ≤ maxLen) && (decide (kind ≠ 1) || decide (leField b 12 4 = 0)) && decide (leField b 12 4 < 2 ^ 25) &&
    zero (slice b 32 32) && decide (64 + 16 * n ≤ b.length) &&
    secs.all (fun x => decide (1 ≤ x.typ) && decide (x.typ ≤ 7) && zero (slice x.raw 2 2) && zero (slice x.raw 12 4) &&
      decide (x.off % 8 = 0) && decide (64 + 16 * n ≤ x.off) && decide (x.off + x.size ≤ b.length)) &&
    rangesDisjoint (secs.map fun x => (x.off, x.size)) &&
    decide ((secs.filter fun x => x.typ == 1).length = 1) && decide ((secs.filter fun x => x.typ == 7).length = 1) &&
    decide ((secs.filter fun x => x.typ == 6).length = if kind = 1 then 1 else 0) &&
    decide (1 ≤ (insts 2).length) && decide ((insts 2).Nodup) && (decide (kind = 1) || decide ((insts 2).length = 1)) &&
    decide ((insts 3).Nodup) && (insts 2).all (fun i => (insts 3).contains i) &&
    decide ((secs.map fun x => (x.typ, x.inst, x.slot)).Nodup) &&
    (match findSect b 7 none with | some x => decide (x.size = 196) | none => false) &&
    decide (o.trailer.length = 256) && decide (leField o.trailer 0 4 = 0x33474953) && decide (leField o.trailer 4 1 ≤ 2) &&
    zero (slice o.trailer 5 3) && zero (slice o.trailer 12 4) && zero (slice o.trailer 113 15) && zero (slice o.trailer 224 32)

/-- The public key of a trailer. -/
def trailerKey (t : List Byte) : List Byte := slice t 16 97

/-- SVN of a trailer. -/
def trailerSvn (t : List Byte) : Nat := leField t 8 4

/-- Checks 4 to 6 on a signed message and its trailer: 0, or RESULT 0x03, 0x04 or 0x05 (R343, R344). `chip` refuses the
bundle keys. The owner digest's first byte is strap bits 7 to 0 (DEDUCED, log entry 19). -/
def State.signatureResult (s : State) (chip : Bool) (msg trailer : List Byte) : Nat :=
  let key := trailerKey trailer
  let id := leField trailer 4 1
  let keyOk : Bool :=
    if id = 0 then !s.loader.ownerBad && decide (leNat (sha384 key) = s.power.owner.toNat)
    else !chip && (match s.cfg.keys[id - 1]? with | some (some k) => k == key | _ => false)
  if !keyOk then 0x03
  else if !ecdsaVerify key (msg ++ trailer.take 16) (beNat (slice trailer 128 48)) (beNat (slice trailer 176 48)) then 0x04
  else if trailerSvn trailer < s.loader.svn.toNat then 0x05
  else 0

/-- Checks 1 to 6 of R343: RESULT, 0 for none. -/
def State.objectResult (s : State) (o : ObjRead) (kind maxLen : Nat) : Nat :=
  if !o.readOk then 0x0C
  else if leField o.bytes 0 4 = 0x3246434D then 0x01
  else if !formatOk o kind maxLen then 0x02
  else s.signatureResult (decide (kind = 1)) o.bytes o.trailer

/-- The event of a RESULT of checks 1 to 7 (R343). -/
def resultEvent (r : Nat) : Nat :=
  if r = 0x0C then 0x21 else if r = 0x01 then 0x22 else if r = 0x02 then 0x23 else if r = 0x03 then 0x24
  else if r = 0x04 then 0x25 else if r = 0x05 then 0x26 else if r = 0x07 then 0x27 else 0x2B

/-! ## Sections with a byte layout (R341, R351) -/

/-- Envelope records of a TENANT section. -/
def envelopesOf (bs : List Byte) : List Envelope :=
  (List.range (bs.length / 32)).map fun j =>
    let o := 32 * j
    { tag := BitVec.ofNat 16 (leField bs o 2), tidx := Fin.ofNat 64 (leField bs (o + 2) 1)
      classMask := BitVec.ofNat 3 (leField bs (o + 3) 1), slotMask := BitVec.ofNat 16 (leField bs (o + 4) 2)
      ishare := leField bs (o + 6) 1, quota := leField bs (o + 8) 4, elimit := leField bs (o + 12) 4 }

/-- Whether a TENANT section's records keep their fields' widths and reserved bits (R351). -/
def envelopeBytesOk (bs : List Byte) : Bool :=
  decide (bs.length % 32 = 0) && decide (bs.length ≤ 2048) &&
    (List.range (bs.length / 32)).all fun j =>
      let o := 32 * j
      decide (leField bs (o + 2) 1 < 64) && decide (leField bs (o + 3) 1 < 8) && decide (leField bs (o + 6) 1 < 128) &&
        decide (leField bs (o + 7) 1 = 0) && (slice bs (o + 16) 16).all (· == 0)

/-- Bundle keys of a KEYS section. -/
def keysOf (bs : List Byte) : List (Option (List Byte)) :=
  [if leField bs 194 1 = 1 then some (slice bs 0 97) else none, if leField bs 195 1 = 1 then some (slice bs 97 97) else none]

/-! ## The record of an instance (R353) -/

/-- The sections an instance takes, in the order of the record. -/
def takenSects (bs : List Byte) (inst : Nat) : List Sect :=
  sortBy (fun a b => decide (a.typ < b.typ) || (a.typ == b.typ && decide (a.slot ≤ b.slot)))
    ((sectTable bs).filter fun x => x.typ == 1 || x.typ == 7 || (x.typ != 6 && x.inst == inst))

/-- The record an object gives an instance. -/
def recordOf (o : ObjRead) (inst : BitVec 4) : Record :=
  let b := o.bytes
  let part (t : Nat) : List Byte := match findSect b t (some inst.toNat) with | some x => x.bytes b | none => []
  let keys := match findSect b 7 none with | some x => x.bytes b | none => []
  let mine := takenSects b inst.toNat
  { glob := o.content.glob
    inst := (o.content.insts.find? fun x => x.inst == inst).getD {}
    tenants := envelopesOf (part 3)
    setts := (o.content.setts.filter fun x => x.1 == inst).map (·.2)
    reps := (o.content.reps.filter fun x => x.1 == inst).map (·.2)
    keys := keysOf keys, keysBytes := keys
    program := match findSect b 6 none with | some x => x.bytes b | none => []
    bytes := mine.flatMap fun x => x.raw ++ x.bytes b
    nsect := mine.length, svn := BitVec.ofNat 32 (trailerSvn o.trailer)
    ninst := ((sectTable b).filter fun x => x.typ == 2).length }

/-! ## Content checks (R347) -/

/-- Whether a number lies in a range. -/
def between (lo x hi : Nat) : Bool := decide (lo ≤ x) && decide (x ≤ hi)

/-- Check 2: GLOBAL. -/
def globalOk (g : GlobalSect) : Bool :=
  between 1 g.xe 128 && between 1 g.ye 128 && between 1 g.ze 128 && decide (g.xe * g.ye * g.ze ≤ 131072) &&
    decide ([g.vcSkim, g.vcBadger, g.vcControl, g.vcIntake].Nodup) && between 1 g.ctrlRate 32 && between 10 g.rtoSkim 10000 &&
    between 5 g.drainTimeout 1000 && between 1 g.resumeWait 1000 && between 10 g.hbPeriod 10000 &&
    between 20 g.confirmWait 10000 && between 1 g.discWait 10000 && between 5 g.voteRepeat 10000 && between 100 g.rto 100000 &&
    between 1 g.run 32 && between 1 g.depth 255 && between 1 g.tagQuiet 1000 && between 1 g.moveRto 1000 &&
    between 10 g.wdUnit 10000 && between 100 g.wdBadger 100000 && between 100 g.wdSeq 100000 && between 50 g.wdMem 50000 &&
    decide (g.escWindow < 2 ^ 16) && between 1 g.escLimit 15 && decide (g.unitWindow < 2 ^ 16) && between 1 g.unitLimit 255 &&
    decide (g.scrubPeriod < 2 ^ 16) && between 1 g.switchWait 600000

/-- The lowest level the raise table may give an event (R320): a core event's minimum, else its default. -/
def minLevel (c : Nat) : Nat := if c = 0x06 then 3 else coreLevel c

/-- Whether an event's DETAIL can name a region (R320). -/
def namesRegion (c : Nat) : Bool :=
  decide (c ∈ [0x31, 0x32, 0x34, 0x35, 0x39, 0x3A, 0x5E, 0xDA, 0xF0]) || between 0x53 c 0x5B

/-- The raise table: at most 64 pairs, none below an event's minimum, level 2 only where a region is named (R320). -/
def raiseOk (t : List (Byte × Nat)) : Bool :=
  decide (t.length ≤ 64) && t.all fun p =>
    between 1 p.2 4 && decide (minLevel p.1.toNat ≤ p.2) && (decide (p.2 ≠ 2) || namesRegion p.1.toNat)

/-- Check 3: INSTANCE (R12, R25, R39, R86, R125, R146, R302, R317, R375). `ranges` are host ranges the digest table must not
meet. -/
def instanceOk (x : InstSect) (inst : BitVec 4) (ringOk : Bool) (ranges : List (Nat × Nat)) : Bool :=
  let base := x.spanBase * 2 ^ 30
  let len := x.spanLen * 2 ^ 30
  x.inst == inst && ringOk && decide (x.spanLen ≤ 50) && decide (base + len + len / 1024 ≤ Config.stackBytes) &&
    decide (x.dgBase + len / 512 ≤ Config.stackBytes) && decide (x.dgBase % 512 = 0) && apart x.dgBase (len / 512) base len &&
    apart x.dgBase (len / 512) (base + len) (len / 1024) && (ranges.all fun r => apart x.dgBase (len / 512) r.1 r.2) &&
    decide (x.lanes ≠ 0) && decide (x.kinds.length ≤ 16) && decide (x.place.toNat < 2 ^ 38) &&
    decide (x.place.toNat / 2 ^ 34 = x.inst.toNat) && ((List.range 7).all fun b => decide (bitsOf x.react.toNat (2 * b) 2 ≤ 2)) &&
    raiseOk x.raise

/-- Check 4: TENANT (R140, R188, R351). -/
def Record.tenantsOk (r : Record) : Bool :=
  decide (r.tenants.length ≤ 64) && decide ((r.tenants.map (·.tag)).Nodup) && decide ((r.tenants.map (·.tidx)).Nodup) &&
    (r.tenants.all fun e => e.tag != 0 && decide (e.quota ≤ Config.liveLimit) && between 1 e.elimit Config.ctxEntries &&
      decide (e.ishare ≤ 64) && (List.range 16).all fun k => !e.slotMask.getLsbD k || r.kindOf k != .unused) &&
    decide ((r.tenants.map (·.ishare)).sum ≤ 64) &&
    (List.range 16).all fun k => r.kindOf k != .sett || decide ((r.tenants.filter fun e => e.slotMask.getLsbD k).length ≤ 1)

/-- Whether two places share a failure domain (R104). -/
def sameDomain (a b : Row) : Bool :=
  a.addr.chip == b.addr.chip || a.place.toNat % 2 ^ 28 == b.place.toNat % 2 ^ 28 || a.feed == b.feed || a.plane == b.plane

/-- Whether every pair of rows obeys R104. -/
def rowsApart : List Row → Bool
  | [] => true
  | a :: t => t.all (fun b => !sameDomain a b) && rowsApart t

/-- The first check of R105 that a descriptor fails, as its event. `self` is this instance's address. -/
def Record.settFault (r : Record) (self : Addr) (k : Nat) (d : SettDesc) : Option Nat :=
  let n := settN d
  let others := r.setts.filter fun p => p.1 != k
  if !(between 2 d.k 32 && between 1 d.m 4 && decide (n ≤ 36) && d.settId != 0 && decide (d.rows.length = n) &&
      decide (d.coef.length = d.m * d.k)) then some 0x61
  else if !(match d.rows[d.rank]? with | some row => row.addr == self && row.mslot.toNat == k | none => false) then some 0x62
  else if !rowsApart d.rows then some 0x63
  else if d.rows.any fun row => decide (Config.liveLimit < row.dcap) then some 0x64
  else if d.coef ≠ coefTable d.k d.m then some 0x65
  else if !(decide (d.q = cycles d * d.m) && decide (d.pbase + 2 * d.q ≤ r.inst.spanLen * 2 ^ 18) &&
      others.all fun p => apart d.pbase (2 * d.q) p.2.pbase (2 * p.2.q)) then some 0x66
  else if others.any fun p => p.2.settId == d.settId then some 0x67
  else none

/-- Whether a replica-set descriptor keeps R352 and R104. -/
def repOk (self : Addr) (k : Nat) (d : RepDesc) : Bool :=
  d.setId != 0 && between 2 d.rows.length 36 && decide (d.dcap ≤ Config.liveLimit) && decide (d.pair ≤ 14) && rowsApart d.rows &&
    (match d.rows[d.index]? with | some row => row.addr == self && row.mslot.toNat == k | none => false)

/-- Groups of R69 the sett slots of a record need. -/
def Record.settGroups (r : Record) : Nat := (r.setts.map fun p => settN p.2 + 1).sum

/-- Whether the groups of a record's setts and of the commit trees in use fit (R69, R347 check 6). -/
def State.groupsFit (s : State) (r : Record) : Bool :=
  decide (r.settGroups + (tenantIdxs.flatMap fun i => s.tenGroups i).length ≤ Config.groupLimit)

/-- The content checks of R347 on the record an instance would take: none, or the event with its DETAIL: the check
number, and the section index above it (DESIGN CHOICE on their places, log entry 21). -/
def State.contentFault (s : State) (o : ObjRead) (chip : Bool) : Option (Nat × Nat) :=
  let inst := s.power.inst
  let r := recordOf o inst
  let self : Addr := inst ++ r.inst.chip
  let insts := ((sectTable o.bytes).filter fun x => x.typ == 2).map (·.inst)
  let top := insts.foldl max 0
  let sectIdx (t : Nat) : Nat := (sectTable o.bytes).findIdx fun x => x.typ == t && (t == 1 || x.inst == inst.toNat)
  let bad (n t : Nat) : Option (Nat × Nat) := some (0x27, n + 256 * sectIdx t)
  let ringOk : Bool := !chip || (s.lath.inOrder && (decide (s.lath.ninst = 0) || decide (s.lath.ninst.toNat = r.ninst)))
  let ranges := s.hostRanges.map fun x => (x.2.1, x.2.2)
  if chip && !(decide (insts.length = top + 1) && ((List.range (top + 1)).all fun i => insts.contains i) && decide (top < 12) &&
      ((r.inst.manager == inst) == s.power.flash)) then bad 1 2
  else if !globalOk r.glob then bad 2 1
  else if !instanceOk r.inst inst ringOk ranges then bad 3 2
  else if !((match findSect o.bytes 3 (some inst.toNat) with | some x => envelopeBytesOk (x.bytes o.bytes) | none => true) &&
      r.tenantsOk) then bad 4 3
  else
    match (List.range 16).findSome? fun k =>
        match r.kindOf k with
        | .sett =>
          match r.setts.find? fun p => p.1 == k with
          | some p =>
            if o.content.surplus.contains (inst, k) then some (0x61, k) else (r.settFault self k p.2).map fun e => (e, k)
          | none => some (0x61, k)
        | .replica =>
          match r.reps.find? fun p => p.1 == k with
          | some p => if repOk self k p.2 then none else bad 5 5
          | none => bad 5 5
        | .unused => if (r.setts.any fun p => p.1 == k) || r.reps.any fun p => p.1 == k then bad 5 4 else none with
    | some f => some f
    | none =>
      let alloc (k : Nat) : Nat := r.inst.alloc.getD k 0
      let allocOk := (List.range 16).all fun k => if r.kindOf k = .sett then decide (4 ≤ alloc k) else decide (alloc k = 0)
      let total := ((List.range 16).map alloc).sum
      let paritySum := (r.parity.map (·.2)).sum
      let depthOk := r.setts.all fun p => decide (r.glob.depth * p.2.k ≤ 512)
      if !(allocOk && decide (64 * total ≤ Config.stagingKiB) && decide (paritySum ≤ r.inst.spanLen * 2 ^ 18) && depthOk &&
          s.groupsFit r) then bad 6 2
      else if chip then
        let h := imageHeadResult r.program (leField r.program 12 4)
        let mx := Config.implementedCaps.getLsbD 8 && r.glob.capmask.getLsbD 8
        let b := if h ≠ 0 then h else imageBodyResult mx r.program
        if b ≠ 0 then some (0x80 + b, 7) else none
      else none

/-! ## A record in force (R122, R247, R348, R360) -/

/-- A slot brought to a record (R122): an unchanged descriptor under the same tenant keeps the slot's state and takes the new
allocation. Any other forms the slot anew, the parity storage it had released; but a BROKEN slot does not become unused
(DEDUCED, log entry 186). -/
def State.takeSlot (s : State) (old r : Record) (k : Nat) : State :=
  let sl := s.slot k
  if old.slotFixed k = r.slotFixed k ∧ old.ownerOf k = r.ownerOf k then
    s.updSlot k fun x => { x with alloc := if x.kind = .sett then r.inst.alloc.getD k 0 else 0 }
  else if sl.st = .broken ∧ r.kindOf k = .unused then s
  else (if sl.kind = .sett then s.clearParity sl.sett else s).formSlot (s.slotTenant k) r k

/-- The bank a tenant that becomes active selects: the target while ARMED, else the current bank, but never the one being
loaded (R175, R178). -/
def IbS.joinBank (b : IbS) : Bool :=
  let pick := if b.armed then b.target else b.current
  if b.busy && b.loading == pick then !pick else pick

/-- A tenant index brought to a record: absent ones are deactivated, new ones select the target bank while ARMED and the
current bank otherwise (R175, R360). -/
def State.takeTenant (s : State) (r : Record) (i : Fin 64) : State :=
  let same : Bool := match (s.ten i).env, r.envOf i with | some a, some b => a.tag == b.tag | none, none => true | _, _ => false
  match r.envOf i with
  | none => if same then s else (s.updTen i fun _ => TenantS.reset).syncCands i
  | some e =>
    if same then s.updTen i fun t => { t with env := some e }
    else (s.updTen i fun _ => { TenantS.reset with env := some e, bank := s.ib.joinBank }).syncCands i

/-- A record made active (R348, R360): span, tenants, slots and groups follow it; every critical word is written anew, so
none is without a majority (R354). -/
def State.activate (s : State) (r : Record) : State :=
  let old := s.cfg
  let s := { s with loader := { s.loader with active := r, applied := true, state := .configured }
                    gate := { s.gate with ready := true }, flt := { s.flt with noMajority := [] } }
  let s := (tenantIdxs.foldl (fun s i => s.takeTenant r i) s).checkArmed
  let s := (List.range 16).foldl (fun s k => s.takeSlot old r k) s
  s.syncGroups

end Sys2Proof.Machine
end

