-- ==== Sys2Proof/Machine/Context.lean ====
section
/-! DEFINITION. The context window: READ, INSTALL, MODIFY, RETIRE, FIND and HANDOVER_OUT with the checks of R91, and the
repeat of an offer (R85 to R99). -/

namespace Sys2Proof.Machine

/-! ## Entry images (R85) -/

/-- The code of a state. -/
def CtxState.code : CtxState → Nat
  | .priming => 1
  | .loading => 2
  | .active => 3
  | .retiring => 4
  | .contained => 5

/-- The class of a code. -/
def clsOf : Nat → Option Cls
  | 1 => some .replica
  | 2 => some .skim
  | 3 => some .direct
  | _ => none

/-- The eight words of an entry. -/
def Entry.words (e : Entry) : List Nat :=
  [e.state.code + e.cls.code * 2 ^ 3 + e.slot.val * 2 ^ 5 + bit e.sparse 9 + bit e.elide 10 + bit e.staged.isSome 11 +
      bit e.sealed 12 + e.tenant.toNat * 2 ^ 16 + e.sorder.toNat * 2 ^ 32 + e.sgrp.toNat * 2 ^ 48 + e.stream.toNat * 2 ^ 52,
    e.basep % 2 ^ 24 + e.lenp % 2 ^ 24 * 2 ^ 24, e.spanel % 2 ^ 23, e.lfirst.toNat + e.tensor.toNat * 2 ^ 40, e.epoch,
    e.droot.toNat, e.gen.toNat, e.swtag.toNat]

/-- Word `w` of MNL_CTX_DATA. -/
def CtxS.word (c : CtxS) (w : Nat) : Nat := (c.data.toList.getD w 0).toNat

/-- The state with the context window changed. -/
def State.updCtx (s : State) (f : CtxS → CtxS) : State := { s with ctx := f s.ctx }

/-- A command's RESULT posted (R90, R91): a refusal logs event 0x50 plus RESULT with the entry index; NOT_FOUND is no
error. -/
def State.ctxResult (s : State) (r : Nat) : State :=
  let idx := s.ctx.index.toNat
  let s := s.updCtx fun c => { c with result := BitVec.ofNat 8 r }
  if r = 0 ∨ r = 0x0C then s
  else s.raise { code := 0x50 + r, tenant := match s.entry idx with | some e => e.tenant | none => 0, detail := idx }

/-- Whether a command from a tag may act on a tenant's entries (R94). -/
def mayAct (a : Acc) (t : Tag) : Bool := a.tag == 0 || a.tag == t

/-- Check 3 on a tag that an entry or the DATA image names. -/
def State.tenantAllowed (s : State) (a : Acc) (t : Tag) : Bool := (s.tenantOf t).isSome && mayAct a t

/-- A write of MNL_CTX_CMD: the operation is kept, the command runs on the entry index. -/
def State.ctxCmd (s : State) (a : Acc) (op : BitVec 4) (f : State → Nat → State) : Out :=
  .next (s.window a 0x4008 false fun s => f (s.updCtx fun c => { c with op := op }) s.ctx.index.toNat)

/-! ## READ and FIND -/

/-- CTX_READ (R88, R90, R94). -/
def execCtxRead (a : Acc) (s : State) : Out :=
  s.ctxCmd a 1 fun s c =>
    match s.entry c with
    | none => (s.updCtx fun x => { x with data := Vector.replicate 8 0 }).ctxResult 0
    | some e =>
      if !s.tenantAllowed a e.tenant then s.ctxResult 0x03
      else (s.updCtx fun x => { x with data := Vector.ofFn fun w => BitVec.ofNat 64 (e.words.getD w.val 0) }).ctxResult 0

/-- FIND (R90, R91). -/
def execFind (a : Acc) (s : State) : Out :=
  s.ctxCmd a 5 fun s _ =>
    let tag : Tag := BitVec.ofNat 16 (bitsOf (s.ctx.word 0) 16 16)
    let coord := s.ctx.word 3
    if !s.tenantAllowed a tag then s.ctxResult 0x03
    else
      match (s.entriesOf tag).find? fun p => p.2.tensor.toNat == coord / 2 ^ 40 &&
          decide (p.2.lfirst.toNat ≤ coord % 2 ^ 40) && decide (coord % 2 ^ 40 < p.2.lfirst.toNat + p.2.lenp) with
      | some p => (s.updCtx fun x => { x with index := BitVec.ofNat 16 p.1 }).ctxResult 0
      | none => s.ctxResult 0x0C

/-! ## INSTALL (R84 to R87, R91, R94, R96) -/

/-- The kind of slot a class needs (R86). -/
def Cls.slotKind : Cls → SlotKind
  | .replica => .replica
  | _ => .sett

/-- The bit of a class in a class mask: replica, skim-coded, direct-coded (R351). -/
def Cls.maskBit (c : Cls) : Nat := c.code - 1

/-- Check 8 but for a class change: the class mask, and SGRP 0 of a direct-coded region (R86). -/
def State.classOk (s : State) (i : Fin 64) (cls : Cls) (sgrp : Nat) : Bool :=
  (match (s.ten i).env with | some v => v.classMask.getLsbD cls.maskBit | none => false) &&
    (cls != .direct || decide (sgrp = 0))

/-- Panels of all non-FREE entries (R96). -/
def State.liveSum (s : State) : Nat := (s.ctx.table.map fun p => p.2.lenp).sum

/-- The descriptors whose parity storage a slot holds: its own, and an old layout's until it is released (R278, R290). -/
def SlotS.parityHeld (x : SlotS) : List SettDesc :=
  (if x.kind = .sett then [x.sett] else []) ++ (match x.shadow with | some (.sett, d, _) => [d] | _ => [])

/-- Whether [b, b + 2L) in panels meets a non-FREE entry or parity storage (R91, check 5). -/
def State.extentClash (s : State) (basep lenp : Nat) : Bool :=
  (s.ctx.table.any fun p => !apart basep (2 * lenp) p.2.basep (2 * p.2.lenp)) ||
    (List.range 16).any fun k => (s.slot k).parityHeld.any fun d =>
      !apart (4096 * basep) (8192 * lenp) (s.spanBase + 4096 * d.pbase) (8192 * d.q)

/-- Check 6: the slot, its kind, the slot mask, the positions. -/
def State.slotFits (s : State) (i : Fin 64) (cls : Cls) (k : Fin 16) (spanel lenp : Nat) : Bool :=
  decide ((s.slot k.val).kind = cls.slotKind) && s.ownsSlot i k.val && decide (spanel + lenp ≤ (s.slot k.val).dcap) &&
    !(s.ctx.table.any fun p => p.2.slot == k && !apart spanel lenp p.2.spanel p.2.lenp)

/-- Check 7: the coordinate range is free of the tenant's other entries (R87). -/
def State.coordClash (s : State) (tag : Tag) (tensor : BitVec 24) (lfirst lenp : Nat) : Bool :=
  (s.entriesOf tag).any fun p => p.2.tensor == tensor && !apart lfirst lenp p.2.lfirst.toNat p.2.lenp

/-- Check 9: the live sum, the tenant's quota and its entry limit (R96). -/
def State.quotaOk (s : State) (i : Fin 64) (tag : Tag) (lenp : Nat) : Bool :=
  let mine := s.entriesOf tag
  decide (s.liveSum + lenp ≤ Config.liveLimit) &&
    match (s.ten i).env with
    | some v => decide ((mine.map fun p => p.2.lenp).sum + lenp ≤ v.quota) && decide (mine.length + 1 ≤ v.elimit)
    | none => false

/-- The entry a DATA image installs, PRIMING. -/
def CtxS.image (c : CtxS) (cls : Cls) (gen : Gen) : Entry :=
  let w := c.word 0
  { state := .priming, cls := cls, slot := Fin.ofNat 16 (bitsOf w 5 4), sparse := w.testBit 9, elide := w.testBit 10
    staged := none, sealed := false, tenant := BitVec.ofNat 16 (bitsOf w 16 16), sorder := BitVec.ofNat 16 (bitsOf w 32 16)
    sgrp := BitVec.ofNat 4 (bitsOf w 48 4), stream := BitVec.ofNat 4 (bitsOf w 52 4), basep := bitsOf (c.word 1) 0 24
    lenp := bitsOf (c.word 1) 24 24, spanel := bitsOf (c.word 2) 0 23, lfirst := BitVec.ofNat 40 (c.word 3)
    tensor := BitVec.ofNat 24 (c.word 3 / 2 ^ 40), epoch := 0, droot := 0, gen := gen, swtag := BitVec.ofNat 64 (c.word 7) }

/-- The reserved bits of the words INSTALL takes are zero. -/
def CtxS.reservedOk (c : CtxS) : Bool :=
  decide (bitsOf (c.word 0) 13 3 = 0) && decide (bitsOf (c.word 0) 56 8 = 0) && decide (bitsOf (c.word 1) 48 16 = 0) &&
    decide (bitsOf (c.word 2) 23 41 = 0)

/-- The RESULT of INSTALL and, where it is OK, the entry. -/
def State.installCheck (s : State) (a : Acc) (idx : Nat) : Nat × Option Entry :=
  let c := s.ctx
  if (s.entry idx).isSome then (0x0B, none)
  else
    match clsOf (bitsOf (c.word 0) 3 2) with
    | none => (0x04, none)
    | some cls =>
      let e := c.image cls 0
      if !c.reservedOk then (0x04, none)
      else
        match s.tenantOf e.tenant with
        | none => (0x03, none)
        | some i =>
          if !mayAct a e.tenant then (0x03, none)
          else if !(between 1 e.lenp Config.liveLimit && decide (s.spanBase ≤ 4096 * e.basep) &&
              decide (4096 * (e.basep + 2 * e.lenp) ≤ s.spanBase + s.spanLen)) then (0x05, none)
          else if s.extentClash e.basep e.lenp then (0x06, none)
          else if !s.slotFits i cls e.slot e.spanel e.lenp then (0x07, none)
          else if s.coordClash e.tenant e.tensor e.lfirst.toNat e.lenp then (0x08, none)
          else if !s.classOk i cls e.sgrp.toNat then (0x0A, none)
          else if !s.quotaOk i e.tenant e.lenp then (0x09, none)
          else (0, some { e with gen := (s.ten i).fox.gen })

/-- INSTALL (R88, R91). -/
def execInstall (a : Acc) (s : State) : Out :=
  s.ctxCmd a 2 fun s idx =>
    let r := s.installCheck a idx
    match r.2 with
    | some e => (s.setEntry idx e).ctxResult 0
    | none => s.ctxResult r.1

/-! ## MODIFY and RETIRE (R88, R91, R93) -/

/-- Whether MODIFY is admitted: LOADING, or ACTIVE without a staged RETIRE. -/
def Entry.admitsModify (e : Entry) : Bool := e.state == .loading || (e.state == .active && e.staged != some .retire)

/-- The fields MODIFY takes, applied to an entry. -/
def CtxS.modified (c : CtxS) (cls : Cls) (e : Entry) : Entry :=
  let n := c.image cls e.gen
  let m : Staged := .modify cls n.sparse n.elide n.sorder n.sgrp n.stream n.swtag
  if e.state = .loading then
    { e with cls := cls, sparse := n.sparse, elide := n.elide, sorder := n.sorder, sgrp := n.sgrp, stream := n.stream
             swtag := n.swtag }
  else { e with staged := some m }

/-- MODIFY (R88, R91, R93): at once while LOADING, staged while ACTIVE. -/
def execModify (a : Acc) (s : State) : Out :=
  s.ctxCmd a 3 fun s idx =>
    match s.entry idx with
    | none => s.ctxResult 0x0B
    | some e =>
      if !e.admitsModify then s.ctxResult 0x0B
      else
        match clsOf (bitsOf (s.ctx.word 0) 3 2) with
        | none => s.ctxResult 0x04
        | some cls =>
          match s.tenantOf e.tenant with
          | none => s.ctxResult 0x03
          | some i =>
            if !mayAct a e.tenant then s.ctxResult 0x03
            else if !s.classOk i cls (bitsOf (s.ctx.word 0) 48 4) || decide (cls.slotKind ≠ e.cls.slotKind) then
              s.ctxResult 0x0A
            else (s.setEntry idx (s.ctx.modified cls e)).ctxResult 0

/-- RETIRE (R88): a LOADING entry, or an unsealed CONTAINED one, is FREE at once; an ACTIVE one is staged. -/
def execRetire (a : Acc) (s : State) : Out :=
  s.ctxCmd a 4 fun s idx =>
    match s.entry idx with
    | none => s.ctxResult 0x0B
    | some e =>
      if !(e.state == .loading || e.state == .active || (e.state == .contained && !e.sealed)) then s.ctxResult 0x0B
      else if !s.tenantAllowed a e.tenant then s.ctxResult 0x03
      else if e.state = .active then (s.setEntry idx { e with staged := some .retire }).ctxResult 0
      else (s.freeRegion idx).ctxResult 0

/-! ## HANDOVER_OUT (R99) -/

/-- The T word of a HANDOVER frame. -/
def handoverT (phase ctx lenp : Nat) : Nat := 5 + phase * 2 ^ 8 + ctx % 2 ^ 16 * 2 ^ 12 + lenp % 2 ^ 24 * 2 ^ 28

/-- The payload of a HANDOVER frame. -/
def handoverPayload (coord epoch : Nat) (droot : Word) (new_ : Addr) (spanel cls : Nat) : List Byte :=
  leBytes 8 coord ++ leBytes 8 (epoch % 2 ^ 48) ++ leBytes 8 droot.toNat ++ leBytes 4 new_.toNat ++
    leBytes 4 (spanel % 2 ^ 23 + cls * 2 ^ 23)

/-- An offer's frame formed. -/
def State.sendOffer (s : State) (o : Offer) : State := s.send (s.ctrlTo o.tidx o.dst 0x70 o.epoch 0 o.t.toNat o.payload)

/-- An offer begun: its first frame, and the repeats to come. -/
def State.beginOffer (s : State) (o : Offer) : State :=
  (s.updCtx fun c => { c with offers := (c.offers.filter fun x => !(x.ctx == o.ctx && x.own == o.own && x.tidx == o.tidx && x.dst == o.dst)) ++
    [{ o with sent := 1, since := s.time.now }] }).sendOffer o

/-- HANDOVER_OUT (R90, R91, R99): an ACTIVE entry offered to MEMBER. -/
def execHandoverOut (a : Acc) (s : State) : Out :=
  s.ctxCmd a 6 fun s idx =>
    match s.entry idx with
    | none => s.ctxResult 0x0B
    | some e =>
      if e.state ≠ .active then s.ctxResult 0x0B
      else
        match s.tenantOf e.tenant with
        | none => s.ctxResult 0x03
        | some i =>
          if !mayAct a e.tenant then s.ctxResult 0x03
          else
            let o : Offer := {
              ctx := idx, own := true, tidx := i, dst := s.ctx.arg, epoch := e.epoch
              t := BitVec.ofNat 64 (handoverT 1 idx e.lenp)
              payload := handoverPayload (e.coord 0) e.epoch e.droot s.ctx.arg e.spanel e.cls.code, sent := 0 }
            (s.beginOffer o).ctxResult 0

/-- HANDOVER_OFFER_REPEAT (R29, R99): an unanswered offer of the entry goes out again 100 µs after the last time, 64 times in
all; then event 0x5E. -/
def execHandoverOfferRepeat (ctx : Nat) (s : State) : Out :=
  .next ((s.ctx.offers.filter fun o => o.ctx == ctx).foldl (fun s o =>
    let s := s.reach o.since 100000
    if o.sent < 64 then
      (s.updCtx fun c => { c with offers := c.offers.map fun x =>
        if x = o then { o with sent := o.sent + 1, since := s.time.now } else x }).sendOffer o
    else
      (s.updCtx fun c => { c with offers := c.offers.filter fun x => x != o }).raise
        { code := 0x5E, tenant := s.tagOf o.tidx, detail := o.ctx }) s)

end Sys2Proof.Machine
end

