-- ==== Sys2Proof/Machine/SkimPath.lean ====
section
/-! DEFINITION. The skim path: the injector's first sends, markers and copies, acknowledgements, and the holder's
accumulation (R80, R114, R115, R193 to R205, R260). -/

namespace Sys2Proof.Machine

/-! ## Frames of the Hawk buffer (R76, R78, R80) -/

/-- The T word of a delta's or a marker's frame. -/
def HawkRec.tword (r : HawkRec) : Nat :=
  let seq := (r.seq.getD 0) % 2 ^ 32
  if r.mark then seq + r.slot.val * 2 ^ 60
  else seq + r.panel % 2 ^ 23 * 2 ^ 32 + r.blk % 16 * 2 ^ 55 + bit r.whole 59 + r.slot.val * 2 ^ 60

/-- The frame of a record, of the tenant's open attempt. -/
def State.hawkFrame (s : State) (i : Fin 64) (r : HawkRec) (dst : Dst) (retx : Bool) : OutFrame :=
  let c := (s.ten i).commit
  { s.frame i .skim dst (if r.mark then 0x03 else 0x01) c.openEpoch c.openTry r.tword r.payload with
    flag := r.mark, retx := retx, elided := r.elided && !r.mark }

/-- A unicast copy with RETX set (R80). -/
def State.sendCopy (s : State) (i : Fin 64) (r : HawkRec) (a : Addr) : State := s.send (s.hawkFrame i r (.member a) true)

/-- RTO_SKIM in ns. -/
def State.rtoNs (s : State) : Nat := s.cfg.glob.rtoSkim * 1000

/-- Frames of the skim injector outstanding (R68). -/
def State.skimOut (s : State) : Nat := (s.hawk.recs.filter fun r => r.st == .out).length

/-- Every frame in OUT of a tenant reissued to each addressee that owes its acknowledgement, after its generation
advanced (R203): RETX as it was. The copies under the old generation that still wait are never sent. -/
def State.reissue (s : State) (i : Fin 64) : State :=
  let s := s.dropCopies fun f => f.tenant == s.tagOf i && f.gen != (s.ten i).fox.gen
  (s.hawk.recs.filter fun r => r.st == .out && s.ownsSlot i r.slot.val).foldl (fun s r =>
    r.owed.foldl (fun s o => (s.send (s.hawkFrame i r (.member o.addr) (decide (0 < o.tries)))).count 0xAE) s) s

/-! ## First sends (R193 to R196, R198) -/

/-- RUN(m) of the injector. -/
def runOf (m : Nat) : Nat := 29 / max 1 m

/-- Whether the span rule lets number `y` go to the holders `hs` (R194). -/
def State.spanOk (s : State) (k : Nat) (hs : List Addr) (y : Nat) : Bool :=
  s.hawk.recs.all fun r =>
    !(r.slot.val == k && r.st == .out && r.owed.any fun o => hs.contains o.addr) ||
      (match r.seq with | some x => decide (y < x + 29) | none => true)

/-- The first staged delta of a column, in order of formation. -/
def State.stagedIn (s : State) (k : Nat) (col : Nat) : Option HawkRec :=
  s.hawk.recs.find? fun r => r.slot.val == k && !r.mark && r.st == .staged && r.panel % max 1 (s.slot k).sett.k == col

/-- The columns in the order the injector serves them: the one it is in while its run lasts, then ascending (R195). -/
def SlotS.columns (sl : SlotS) : List Nat :=
  let k := max 1 sl.sett.k
  let start := if sl.runSent < runOf sl.sett.m then sl.column else sl.column + 1
  (List.range k).map fun j => (start + j) % k

/-- A record's place in the buffer taken by another. -/
def State.replaceRec (s : State) (old new : HawkRec) : State :=
  { s with hawk := { s.hawk with recs := s.hawk.recs.map fun r => if r = old then new else r } }

/-- Addressees with their first deadline. -/
def State.owedBy (s : State) (hs : List Addr) : List Owed :=
  hs.map fun a => { addr := a, due := s.time.now + BitVec.ofNat 64 s.rtoNs, tries := 0 }

/-- Whether the injector may first-send anything: 512 frames at most outstanding, no route change (R68, R83). -/
def State.injectorFree (s : State) : Bool :=
  decide (s.skimOut < Config.maxOutstanding) && s.ep.route == .idle && s.mayInject && !s.flt.inReset.contains .endpoint

/-- A delta first sent: its number, its addressees, the frame to the holder group (R198). -/
def State.firstSend (s : State) (i : Fin 64) (k col : Nat) (r : HawkRec) (h : Nat) (hs : List Addr) : State :=
  let y := (s.slot k).next
  let r' : HawkRec := { r with seq := some y, st := .out, owed := s.owedBy hs }
  let s := (s.replaceRec r r').updSlot k fun x => { x with
    next := y + 1, column := col
    runSent := if x.column = col ∧ x.runSent < runOf x.sett.m then x.runSent + 1 else 1 }
  (s.send (s.hawkFrame i r' (.group h) false)).freeReleased

/-- What the injector first-sends of a slot: the delta its run order and the span rule allow, where there is one; a column
held by the span rule counts under 0xAD and is passed over (R193 to R195). -/
def State.sendFrom (s : State) (i : Fin 64) (slot : Fin 16) : State × Bool :=
  let k := slot.val
  let sl := s.slot k
  if !s.attemptOpen i || sl.kind ≠ .sett then (s, false)
  else
    sl.columns.foldl (fun (acc : State × Bool) col =>
      if acc.2 then acc
      else
        let s := acc.1
        match s.stagedIn k col with
        | none => acc
        | some r =>
          let u := rotationFor sl.sett r.panel
          let hs := s.holders k u
          match s.confirmedGroup (.holders k u) with
          | none => acc
          | some g =>
            if s.spanOk k hs sl.next then
              let s := s.firstSend i k col r g.handle hs
              ({ s with hawk := { s.hawk with lastSlot := slot } }, true)
            else (s.count 0xAD, false)) (s, false)

/-- The slots in the order they are served: frame by frame in ascending slot number, from the one after the slot served
last (R195). -/
def State.slotOrder (s : State) : List (Fin 16) := (List.range 16).map fun j => Fin.ofNat 16 (s.hawk.lastSlot.val + 1 + j)

/-- SKIM_DELTA_SEND (R193 to R195, R198): the next delta in the injector's order, at the host time it brings. -/
def execSkimDeltaSend (now : BitVec 64) (s : State) : Out :=
  if !s.injectorFree then .next s
  else
    .next (s.slotOrder.foldl (fun (acc : State × Bool) slot =>
      if acc.2 then acc
      else
        match acc.1.slotTenant slot.val with
        | none => acc
        | some i =>
          let go := acc.1.sendFrom i slot
          if go.2 then (go.1.follow i, true) else (go.1, false)) (s.at_ now, false)).1

/-- EPOCH_MARK_SEND (R71, R196): the formed marker, once every delta of the slot is released. -/
def execEpochMarkSend (slot : Fin 16) (s : State) : Out :=
  let k := slot.val
  match s.slotTenant k, s.hawk.recs.find? fun r => r.slot == slot && r.mark && r.st == .staged, s.confirmedGroup (.peers k) with
  | some i, some r, some g =>
    if !s.injectorFree || s.hawk.recs.any fun x => x.slot == slot && !x.mark then .next s
    else
      let y := (s.slot k).next
      let r' : HawkRec := { r with seq := some y, st := .out, owed := s.owedBy (s.peers k) }
      let s := (s.replaceRec r r').updSlot k fun x => { x with next := y + 1 }
      .next ((s.send (s.hawkFrame i r' (.group g.handle) false)).freeReleased.follow i)
  | _, _, _ => .next s

/-! ## Acknowledgements (R78, R197, R201) -/

/-- The T word of a SKIM_ACK. -/
def SrcEntry.ackT (e : SrcEntry) (slot : Nat) : Nat :=
  let sack := (List.range 28).foldl (fun v b => v + bit (e.ring.getLsbD ((e.cum + 1 + b) % 2048)) b) 0
  e.cum % 2 ^ 32 + sack * 2 ^ 32 + slot % 16 * 2 ^ 60

/-- SKIM_ACK_SEND (R66, R201): the pending acknowledgement of a source. -/
def execSkimAckSend (slot : Fin 16) (rank : Nat) (s : State) : Out :=
  let k := slot.val
  match s.slotTenant k, (s.slot k).sources.find? fun e => e.rank == rank && e.ackDue with
  | some i, some e =>
    let mslot := match (s.slot k).sett.rows[rank]? with | some r => r.mslot.toNat | none => 0
    let s' := s.updSlot k fun x => { x with
      sources := x.sources.map fun y => if y.rank = rank then { y with ackDue := false } else y }
    let f := s.ctrlTo i e.addr 0x02 e.epoch e.tr (e.ackT mslot)
    .next (if s.mayForm f then s'.sendReply f else s)
  | _, _ => .next s

/-- Whether a frame serves the tenant's open attempt (R75, check 7). -/
def State.inOpenAttempt (s : State) (i : Fin 64) (f : Rx) : Bool :=
  let c := (s.ten i).commit
  c.isOpen && decide (f.epoch.toNat = c.openEpoch) && f.tr == c.openTry

/-- Whether an acknowledgement names a number the slot has not sent (R197). -/
def ackBeyond (next cum : Nat) (sack : Nat) : Bool :=
  decide (next < cum) || (List.range 28).any fun b => sack.testBit b && decide (next ≤ cum + 1 + b)

/-- SKIM_ACK (R75, R197): frames released for the holder. -/
def execSkimAck (f : Rx) (s : State) : Out :=
  let k := tField f 60 4
  let cum := tField f 0 32
  let sack := tField f 32 28
  .next (s.receive f { typ := 0x02, ok2 := true, ok3 := f.len == 0, ok7 := fun s i => s.inOpenAttempt i f
                       ok8 := fun s i => (s.slot k).kind == .sett && s.knownIn i k f.src } fun s i =>
    if ackBeyond (s.slot k).next cum sack then s.frameEvent f 0xA2
    else
      let s := s.releaseFor f.src fun r =>
        r.slot.val == k && r.st == .out &&
          match r.seq with
          | some n => decide (n < cum) || (decide (cum < n) && sack.testBit (n - cum - 1))
          | none => false
      s.follow i)

/-! ## The holder (R114, R115, R199, R200, R260) -/

/-- A ring bit. -/
def ringBit (x : Nat) : BitVec 2048 := 1 <<< (x % 2048)

/-- CUM moved past every number applied. -/
def SrcEntry.advance : Nat → SrcEntry → SrcEntry
  | 0, e => e
  | n + 1, e =>
    if e.ring.getLsbD (e.cum % 2048) then
      SrcEntry.advance n { e with ring := e.ring &&& ~~~ringBit e.cum, cum := e.cum + 1 }
    else e

/-- Numbers below `t` settled; bits of numbers passed are cleared. -/
def SrcEntry.settle (e : SrcEntry) (t : Nat) : SrcEntry :=
  if t ≤ e.cum then e.advance 2048
  else
    let ring := if e.cum + 2048 ≤ t then 0 else (List.range (t - e.cum)).foldl (fun r j => r &&& ~~~ringBit (e.cum + j)) e.ring
    { e with cum := t, ring := ring }.advance 2048

/-- Where a delta goes at its holder (R115). -/
structure HoldAt where
  slot : Nat
  rank : Nat
  row : Nat
  col : Nat
  e : Nat
  deriving DecidableEq, Repr

/-- The holder's place of a delta, where this instance is one (R115, check 8). -/
def State.holdAt (s : State) (i : Fin 64) (src : Addr) (mslot p : Nat) : Option HoldAt :=
  match s.slotBySender i src mslot with
  | none => none
  | some k =>
    let d := (s.slot k).sett
    match (s.slot k).rankOf src with
    | none => none
    | some r =>
      match d.rows[r]? with
      | none => none
      | some row =>
        let j := subMod d.rank (rotationOf d.k d.m r p) (settN d)
        if p < row.dcap ∧ j < d.m then some { slot := k, rank := r, row := j, col := p % d.k, e := p / d.k * d.m + j } else none

/-- The product of a delta placed in a parity panel: its offset and bytes. -/
def HoldAt.product (h : HoldAt) (d : SettDesc) (blk : Nat) (whole : Bool) (delta : List Byte) : Nat × List Byte :=
  (if whole then 0 else 256 * blk, gfScale (d.coef.getD (h.row * d.k + h.col) 0) delta)

/-- The accumulate step (R115, R260, R302, R304, R205): a first touch of a MISSING panel takes the product alone; a first
touch whose read of copy C is bad withholds the vote. -/
def State.accumulate (s : State) (i : Fin 64) (k e : Nat) (o : Nat) (bytes : List Byte) (flt : ReadFault) : State :=
  let d := (s.slot k).sett
  let r := s.parityRec d e
  let att := (s.ten i).commit.att
  let to_ := s.parityAddr d e (!r.c)
  let missing := (s.slot k).missing.contains e
  if r.n && s.recCurrent r then
    let old := s.bytesAt (to_ + o) bytes.length
    (s.putBytes (to_ + o) (xorBytes old bytes)).setKept to_ (s.kept to_ ^^^ pdAt o bytes)
  else
    let from_ := s.parityAddr d e r.c
    let base := if missing then List.replicate 4096 0 else s.bytesAt from_ 4096
    let word := if missing then 0 else s.kept from_
    let new := splice base o (xorBytes (slice base o bytes.length) bytes)
    let unread : Bool := match flt with | .stack _ | .digestWord => true | _ => false
    let bad := !missing && (unread || !s.digestOk from_)
    let s := (s.putBytes to_ new).setKept to_ (word ^^^ pdAt o bytes)
    let s := s.setDir (s.parityAddr d e false) { r with n := true, d := false, att := att }
    if !bad then s
    else
      let s := match flt with
        | .stack _ => s
        | .digestWord => (s.raiseT i 0xF1).raise { code := 0xF0, tenant := s.tagOf i, detail := from_ / 4096 }
        | _ => s.raise { code := 0xF0, tenant := s.tagOf i, detail := from_ / 4096 }
      ((s.queueRepair (.parity k e)).raise { code := 0xA4, tenant := s.tagOf i, unit := k, detail := e }).withhold i 0x08

/-- The state with a slot's source entry of a rank changed. -/
def State.updSource (s : State) (k r : Nat) (f : SrcEntry → SrcEntry) : State :=
  s.updSlot k fun x => { x with sources := x.sources.map fun e => if e.rank = r then f e else e }

/-- The source entry of a rank. -/
def State.source (s : State) (k r : Nat) : Option SrcEntry := (s.slot k).sources.find? fun e => e.rank == r

/-- A protocol violation at a holder (R200). -/
def State.protocolFault (s : State) (f : Rx) : State := s.frameEvent f 0xA2

/-- The raw extent of a delta frame, once LEN is consistent (R78, R79). -/
def deltaLenOk (f : Rx) : Bool :=
  let r := if f.t.getLsbD 59 then 4096 else 256
  if f.elided then decide (2 * (r / 64) ≤ f.payload.length) && decide (f.payload.length = elidedLen r f.payload)
  else decide (f.payload.length = r)

/-- SKIM_DELTA (R75, R115, R200). -/
def execSkimDelta (f : Rx) (flt : ReadFault) (s : State) : Out :=
  let n := tField f 0 32
  let p := tField f 32 23
  let blk := tField f 55 4
  let whole := f.t.getLsbD 59
  .next (s.receive f { typ := 0x01, ok2 := !whole || blk == 0, ok3 := deltaLenOk f, ok7 := fun s i => s.inOpenAttempt i f
                       ok8 := fun s i => (s.holdAt i f.src (tField f 60 4) p).isSome } fun s i =>
    match s.holdAt i f.src (tField f 60 4) p with
    | none => s
    | some h =>
      match s.source h.slot h.rank with
      | none => s
      | some e =>
        if e.broken then s
        else if e.closed ∧ e.count < n then s.protocolFault f
        else
          let e := e.settle (n - 28)
          if n < e.cum ∨ e.ring.getLsbD (n % 2048) then
            (s.count 0xAC).updSource h.slot h.rank fun _ => { e with ackDue := true }
          else
            let raw := if f.elided then expand (if whole then 4096 else 256) f.payload else f.payload
            let q := h.product (s.slot h.slot).sett blk whole raw
            let s := s.accumulate i h.slot h.e q.1 q.2 flt
            let e := { e with ring := e.ring ||| ringBit n, applied := e.applied + 1
                              high := some (max n (e.high.getD 0)) }.advance 2048
            ((s.updSource h.slot h.rank fun _ => { e with ackDue := true }).countN 0x1D (q.2.length / 256)).follow i)

/-- EPOCH_MARK (R71, R75, R200). -/
def execEpochMark (f : Rx) (s : State) : Out :=
  let n := tField f 0 32
  .next (s.receive f { typ := 0x03, ok2 := tField f 32 28 == 0, ok3 := f.len == 0, ok7 := fun s i => s.inOpenAttempt i f
                       ok8 := fun s i => (s.slotBySender i f.src (tField f 60 4)).isSome } fun s i =>
    match s.slotBySender i f.src (tField f 60 4) with
    | none => s
    | some k =>
      match (s.slot k).rankOf f.src with
      | none => s
      | some r =>
        match s.source k r with
        | none => s
        | some e =>
          if e.broken then s
          else if e.closed ∧ e.count < n then s.protocolFault f
          else if (match e.high with | some x => decide (n < x) | none => false) then
            ((s.protocolFault f).withhold i 0x0D).follow i
          else
            let e := e.settle n
            if n < e.cum ∨ e.ring.getLsbD (n % 2048) then
              (s.count 0xAC).updSource k r fun _ => { e with ackDue := true }
            else
              let e := { e with ring := e.ring ||| ringBit n }.advance 2048
              (s.updSource k r fun _ => { e with ackDue := true, count := n, closed := true }).follow i)

end Sys2Proof.Machine
end

