-- ==== Sys2Proof/Machine/Fox.lean ====
section
/-! DEFINITION. Membership and Fox: reports, the leader's queue and target naming, updates applied and relayed, the watch
table, suspicion and witness rounds, discovery (R232 to R248, R252 to R255). -/

namespace Sys2Proof.Machine

/-- The addresses an instance mask names on the chip of a subject, the subject always among them, lowest INST first. -/
def maskAddrs (subject : Addr) (imask : BitVec 12) : List Addr :=
  ((List.range 12).filter fun k => imask.getLsbD k || k == subject.inst.toNat).map fun k => subject.sibling (BitVec.ofNat 4 k)

/-- The instances a change names (R233). -/
def updNamed (u : Update) : List Addr :=
  if 1 ≤ u.kind.toNat ∧ u.kind.toNat ≤ 3 then maskAddrs u.subject u.imask else [u.subject]

/-- Whether a change makes its instances LOST. -/
def updLoses (u : Update) : Bool := decide (1 ≤ u.kind.toNat) && decide (u.kind.toNat ≤ 3)

/-- One instance's own bit of an instance mask. -/
def instBit (a : Addr) : BitVec 12 := 1 <<< a.inst.toNat

/-! ## The watch table (R237, R239) -/

/-- The watch table changed where `p` holds. -/
def State.mapWatch (s : State) (p : Watch → Bool) (f : Watch → Watch) : State :=
  { s with watch := s.watch.map fun w => if p w then f w else w }

/-- Whether an entry of a tenant watches an address. -/
def Watch.of (w : Watch) (i : Fin 64) (a : Addr) : Bool := w.tidx == i && w.addr == a

/-- The candidates of a role but this instance and one address. -/
def State.otherCands (s : State) (i : Fin 64) (base : Nat) (a : Addr) : List Addr :=
  let t := s.ten i
  let cs := (List.range 4).filterMap fun j => t.commit.tree.cand (base + j)
  if cs.contains s.self && cs.contains a then cs.filter fun x => x != s.self && x != a && !t.fox.isLost x else []

/-- The witnesses of a watched peer in their order (R239). -/
def State.witnesses (s : State) (w : Watch) : List Addr :=
  if w.cand then (s.otherCands w.tidx 0 w.addr ++ s.otherCands w.tidx 4 w.addr).dedup
  else
    let sl := s.slot w.slot
    let own := sl.sett.rank
    let rs := (List.range sl.sett.rows.length).filter fun r => r != own && r != w.rank && sl.rankSt r == .present
    let plane (r : Nat) : Bool := match sl.sett.rows[r]? with | some row => row.plane != s.cfg.inst.plane | none => false
    (rs.filter plane ++ rs.filter fun r => !plane r).filterMap fun r => (sl.sett.rows[r]?).map (·.addr)

/-- The query that asks a witness for a watched peer (R239, R246). -/
def State.witnessQuery (s : State) (w : Watch) (a : Addr) : OutFrame :=
  let q := queryFrame 2 0 0 w.addr (if w.heard then w.hseq.toNat else 2 ^ 32 - 1)
  s.ctrlTo w.tidx a 0x70 0 0 q.1 q.2

/-- A witness round begun at a place in the order: two witnesses are asked; none exists leaves the peer SUSPECT. -/
def State.startRound (s : State) (idx : Nat) (start : Nat) : State :=
  match s.watch[idx]? with
  | none => s
  | some w =>
    let ws := s.witnesses w
    let n := ws.length
    let asked := ((List.range (min 2 n)).map fun j => ws.getD ((start + j) % max 1 n) 0).dedup
    let round : Option Round := if n = 0 then none else some { asked := asked, missing := [], next := (start + 2) % n, since := s.time.now }
    let s : State := { s with watch := listModify s.watch idx fun w => { w with round := round } }
    asked.foldl (fun s a => s.send (s.witnessQuery w a)) s

/-- An entry becomes SUSPECT: counter 0xC0 and a first round (R239). -/
def State.suspect (s : State) (idx : Nat) : State :=
  let s : State := { s with watch := listModify s.watch idx fun w => { w with status := .suspect } }
  (s.count 0xC0).startRound idx 0

/-- A PRESENT peer that the endpoint reports unreachable (R80, R239). -/
def State.unreachable (s : State) (i : Fin 64) (a : Addr) : State :=
  (List.range s.watch.length).foldl (fun s j =>
    match s.watch[j]? with
    | some w => if w.of i a && w.status == .present then s.suspect j else s
    | none => s) s

/-! ## The leader (R232, R234, R243) -/

/-- Position of this instance in the job manager's candidate list: its ISSUER. -/
def State.issuer (s : State) (i : Fin 64) : Option Nat :=
  (List.range 4).find? fun j => (s.ten i).commit.tree.cand j == some s.self

/-- Whether this instance issues generations: the acting job manager, or a candidate that has confirmed every earlier one
dead (R243). -/
def State.leads (s : State) (i : Fin 64) : Bool :=
  (s.ten i).fox.self != .fenced &&
    match s.issuer i with
    | none => false
    | some n => (List.range n).all fun j =>
        match (s.ten i).commit.tree.cand j with
        | some a => (s.ten i).fox.isLost a || s.watch.any fun w => w.of i a && w.status == .confirmed
        | none => true

/-- The instances a report names that are not yet LOST. -/
def FoxS.fresh (f : FoxS) (r : Report) : List Addr := (maskAddrs r.subject r.imask).filter fun a => !f.isLost a

/-- What makes two reports the same. -/
def Report.key (r : Report) : Addr × BitVec 12 × BitVec 4 := (r.subject, r.imask, r.cause)

/-- A report taken by the leader: queued once, unless every instance it names is LOST. An eviction of those issues nothing
and is logged, as 0xCB (R241, R245; log entry 95). -/
def State.takeReport (s : State) (i : Fin 64) (r : Report) : State :=
  let f := (s.ten i).fox
  if (f.fresh r).isEmpty then (if r.cause = 3 then s.raiseT i 0xCB r.subject.toNat else s)
  else if f.queue.any fun q => q.key == r.key then s
  else s.updFox i fun f => { f with queue := f.queue ++ [{ r with held := false }] }

/-- A report sent to the leader. -/
def State.sendReport (s : State) (i : Fin 64) (r : Report) : State :=
  let s := s.updFox i fun f => { f with
    reports := f.reports.map fun x => if x.key = r.key then { x with since := s.time.now } else x }
  if s.leads i then s.takeReport i r
  else
    match (s.ten i).jobManager with
    | none => s
    | some a =>
      let q := queryFrame 4 r.cause.toNat r.imask.toNat r.subject 0
      s.send (s.ctrlTo i a 0x70 0 0 q.1 q.2)

/-- A report begun: it is repeated until a generation lists what it names as LOST. Where one already does, an eviction is
still sent once, for the leader to log (R245). -/
def State.report (s : State) (i : Fin 64) (subject : Addr) (imask : BitVec 12) (cause : BitVec 4) : State :=
  let r : Report := { subject := subject, imask := imask ||| instBit subject, cause := cause, since := s.time.now }
  let f := (s.ten i).fox
  if (f.fresh r).isEmpty then (if cause = 3 then s.sendReport i r else s)
  else (s.updFox i fun f => { f with
    reports := if f.reports.any fun x => x.key == r.key then f.reports else f.reports ++ [r] }).sendReport i r

/-- A peer confirmed dead: final at this watcher, and reported (R239 to R241). -/
def State.confirm (s : State) (idx : Nat) (event : Nat) (cause : BitVec 4) : State :=
  match s.watch[idx]? with
  | none => s
  | some w =>
    let s := s.mapWatch (fun x => x.of w.tidx w.addr && x.status != .lost && x.status != .replacing) fun x =>
      { x with status := .confirmed, round := none }
    (s.raiseT w.tidx event w.addr.toNat).report w.tidx w.addr 0 cause

/-- A wrong identity: event 0xC9 and a report (R247, R248). -/
def State.wrongIdentity (s : State) (i : Fin 64) (a : Addr) : State := (s.raiseT i 0xC9 a.toNat).report i a 0 4

/-! ## Targets (R253, R254) -/

/-- The target a list entry offers a lost instance. -/
def Target.offer (t : Target) (lost : Addr) : Addr := if t.chip then lost.inst ++ t.addr.chip else t.addr

/-- Whether an entry is USED for an INST; a foster instance serves once. -/
def Target.usedFor (t : Target) (inst : BitVec 4) : Bool := if t.chip then t.used.getLsbD inst.toNat else decide (t.used ≠ 0)

/-- The first eligible target of a LOST instance. -/
def State.eligible (s : State) (i : Fin 64) (lost : Addr) : Option Addr :=
  let t := s.ten i
  t.bg.targets.toList.findSome? fun x =>
    match x with
    | some e =>
      let a := e.offer lost
      let owed := t.fox.owed.any fun o => o.1 == 4 && o.2.2 == a
      if e.valid && !e.usedFor lost.inst && !owed && (!t.fox.isLost a || a == lost) then some a else none
    | none => none

/-- The naming procedure of the leader: one KIND 0x4 owed for every LOST instance that has an eligible target; event 0xD1
once for one that has none (R254). -/
def State.nameTargets (s : State) (i : Fin 64) : State :=
  if !s.isJobManager i then s
  else
    (s.ten i).fox.lost.foldl (fun s a =>
      let f := (s.ten i).fox
      if f.owed.any fun o => o.1 == 4 && o.2.1 == a then s
      else
        match s.eligible i a with
        | some t => s.updFox i fun f => { f with owed := f.owed ++ [(4, a, t)], noTarget := f.noTarget.filter (· != a) }
        | none =>
          if f.noTarget.contains a then s
          else (s.updFox i fun f => { f with noTarget := f.noTarget ++ [a] }).raiseT i 0xD1 a.toNat) s

/-- The entry that names a target marked USED for the INST of the subject (R254). -/
def markUsed (ts : Vector (Option Target) 64) (subject target : Addr) : Vector (Option Target) 64 :=
  match ts.toList.findIdx? fun x => match x with
      | some e => e.valid && e.offer subject == target && !e.usedFor subject.inst
      | none => false with
  | some n => if h : n < 64 then ts.set n ((ts.get ⟨n, h⟩).map fun e => { e with used := e.used ||| instBit subject }) else ts
  | none => ts

/-! ## Updates (R233 to R236) -/

/-- The T word and payload of an update. -/
def updFrame (u : Update) : Nat × List Byte :=
  (4 + u.kind.toNat * 2 ^ 8 + u.imask.toNat * 2 ^ 12,
    leBytes 4 u.newGen.toNat ++ leBytes 4 u.prevGen.toNat ++ leBytes 4 u.subject.toNat ++ leBytes 4 u.target.toNat)

/-- The frame of an update: its header GEN is PREVGEN. -/
def State.updateFrame (s : State) (i : Fin 64) (u : Update) (dst : Dst) : OutFrame :=
  { s.frame i .control dst 0x70 0 0 (updFrame u).1 (updFrame u).2 with gen := u.prevGen }

/-- An update sent. -/
def State.sendUpdate (s : State) (i : Fin 64) (u : Update) (dst : Dst) : State := s.send (s.updateFrame i u dst)

/-- An update sent to every group of a role. -/
def State.updateTree (s : State) (i : Fin 64) (job : Bool) (u : Update) : State :=
  (List.range (treeParts (s.treeMembers i job).length)).foldl (fun s part =>
    match s.ep.groups.find? fun g => g.key == .tree i.val job part && !g.deleting with
    | some g => s.sendUpdate i u (.group g.handle)
    | none => s) s

/-- The relay of an update: the leader to the pods, a pod manager to its chips and to the targets it credits, the chip
over the lath (R235; the targets: DEDUCED, log entry 23). -/
def State.relayUpdate (s : State) (i : Fin 64) (u : Update) (issued lath : Bool) : State :=
  let s := if issued then s.updateTree i true u else s
  let s := if s.isPodManager i then
      let xs := (((s.ten i).groupsOf false).flatMap fun g => (s.ten i).targetsIn g).filter fun a => a.chip != s.self.chip
      xs.foldl (fun s a => s.sendUpdate i u (.member a)) (s.updateTree i false u)
    else s
  if lath then s else s.lathSend (.update i.val u)

/-- What a change makes of a tenant's membership (R233, R254, R257). A target that is LOST before its KIND 0x4 update is
issued is owed no longer, and the naming procedure runs again. -/
def FoxS.apply (f : FoxS) (u : Update) : FoxS :=
  let f := { f with gen := u.newGen, log := (f.log ++ [u]).drop (f.log.length + 1 - 64) }
  if updLoses u then
    let fresh := (updNamed u).filter fun a => !f.lost.contains a
    { f with
      lost := f.lost ++ fresh, gone := f.gone ++ (updNamed u).filter fun a => !f.gone.contains a
      replacing := f.replacing.filter fun p => !(updNamed u).contains p.2
      owed := f.owed.filter fun o => !(o.1 == 4 && o.2.1 != o.2.2 && (updNamed u).contains o.2.2)
      reports := f.reports.filter fun r => !(maskAddrs r.subject r.imask).all fun a => f.gone.contains a || (updNamed u).contains a
      queue := f.queue.filter fun r => !(maskAddrs r.subject r.imask).all fun a => f.gone.contains a || (updNamed u).contains a }
  else if u.kind = 4 then
    { f with
      lost := f.lost.filter (· != u.subject), gone := f.gone.filter (· != u.target)
      replacing := f.replacing.filter (fun p => p.1 != u.subject) ++ [(u.subject, u.target)]
      targets := f.targets ++ [(u.subject, u.target)]
      queue := f.queue.map fun r => { r with held := false }
      owed := f.owed.filter fun o => !(o.1 == 4 && o.2.1 == u.subject) }
  else if u.kind = 5 then
    { f with replacing := f.replacing.filter (fun p => p.2 != u.subject)
             owed := f.owed.filter fun o => !(o.1 == 5 && o.2.1 == u.subject) }
  else { f with owed := f.owed.filter fun o => o.1 != 6 }

/-- This instance fenced for a tenant (R236): event 0xC6, the sweep HELD, the regions contained, nothing reported or
issued any more. -/
def State.fenceSelf (s : State) (i : Fin 64) : State :=
  let s := (s.raiseT i 0xC6).updFox i fun f => { f with self := .fenced, reports := [], queue := [], owed := [] }
  let s := s.holdSweep i 0xC6
  (s.entriesOf (s.tagOf i)).foldl (fun s p => s.contain p.1) s

/-- A fenced member that was named a target is a member again once none of the state it held is left (R236). -/
def State.unfence (s : State) (i : Fin 64) : State :=
  let f := (s.ten i).fox
  if f.self = .fenced && (f.replacing.any fun p => p.2 == s.self) &&
      !(s.entriesOf (s.tagOf i)).any fun p => p.2.state == .contained || p.2.state == .priming then
    s.updFox i fun f => { f with self := .member }
  else s

/-- This instance named a target (R256, R258): event 0xD0, the rebuild in SETUP, the abort request for the open try. -/
def State.becomeTarget (s : State) (i : Fin 64) (subject : Addr) : State :=
  let s := (s.raiseT i 0xD0 subject.toNat).updBg i fun b => { b with
    state := .setup, cause := 0, subject := some subject, decided := false, asking := true, askedAt := s.time.now
    verified := [], pending := [], records := [] }
  (s.unfence i).requestOwn i 0x08

/-- The watch entries after a change (R250). -/
def State.watchUpdate (s : State) (i : Fin 64) (u : Update) : State :=
  if updLoses u then
    s.mapWatch (fun w => w.tidx == i && (updNamed u).contains w.addr) fun w => { w with status := .lost, round := none }
  else if u.kind = 4 then
    s.mapWatch (fun w => w.of i u.subject && !w.cand) fun w =>
      { w with addr := u.target, status := .replacing, hseq := 0, heard := false, beat := 0, round := none, made := s.time.now }
  else if u.kind = 5 then
    s.mapWatch (fun w => w.of i u.subject && (w.status == .replacing || w.status == .unseen)) fun w => { w with status := .present }
  else s

/-- The managers after a generation advance (R222, R223): each role collects anew through SOLICIT. -/
def State.resolicit (s : State) (i : Fin 64) : State :=
  let c := (s.ten i).commit
  let s := (s.syncRoles i true).updCommit i fun c => { c with chipM := .collect }
  if !s.commits i then s
  else
    let s := if s.isPodManager i && c.podRole then s.solicit i false else s
    if s.isJobManager i && c.jobRole then s.solicit i true else s

/-- Whether a slot's discovery has found every rank: PRESENT in the watch table, or LOST in the generation (R248). -/
def State.discovered (s : State) (i : Fin 64) (k : Nat) : Bool :=
  let sl := s.slot k
  (List.range sl.sett.rows.length).all fun r =>
    r == sl.sett.rank || sl.rankSt r == .lost ||
      s.watch.any fun w => w.tidx == i && !w.cand && w.slot == k && w.rank == r && w.status == .present

/-- A slot leaves FORMING once every rank is found and its parity storage is primed (R122, R248, R278). At a target every
parity panel of it is MISSING from then on (R260). -/
def State.tryForm (s : State) (i : Fin 64) (k : Nat) : State :=
  let sl := s.slot k
  if sl.kind == .sett && sl.st == .forming && sl.primed && s.discovered i k then
    let s := s.updSlot k fun x => { x with
      st := .complete, missing := if x.rankSt x.sett.rank = .replacing then List.range x.sett.q else x.missing }
    s.judgeSlot k
  else s

/-- Every slot of a tenant that can leave FORMING does. -/
def State.tryForms (s : State) (i : Fin 64) : State := (s.settSlots i).foldl (fun s k => s.tryForm i k) s

/-- The ADVANCE of R214 at a tenant: a next try that waited for it opens, and one that is still to be aborted will not
wait. -/
def State.advanceGen (s : State) (i : Fin 64) : State :=
  s.updCommit i fun c => { c with
    genWait := false, advanced := true, openedAt := if c.genWait && s.follower i then s.time.now else c.openedAt }

/-- An update that follows the generation in force applied at a member (R235, R236): membership, relay, then everything
that depends on it. `issued`: it is this leader's own; `lath`: it has come over the lath. The leader logs event 0xDB for a
target LOST before its KIND 0x5 (R273). -/
def State.applyUpdate (s : State) (i : Fin 64) (u : Update) (issued lath : Bool) : State :=
  let waits := if u.kind = 5 then s.hopeless i else []
  let failed := if updLoses u then ((s.ten i).fox.replacing.map (·.2)).filter (updNamed u).contains else []
  let s := s.updFox i fun f => f.apply u
  let s := s.updTen i fun t => { t with bg := { t.bg with
    targets := if u.kind = 4 then markUsed t.bg.targets u.subject u.target else t.bg.targets
    records := if u.kind = 5 ∧ u.subject = s.self then t.bg.records.filter fun r => r.ctx.isSome else t.bg.records } }
  let s := s.relayUpdate i u issued lath
  let s := if updLoses u then (updNamed u).foldl (fun s a => s.releaseFenced i a) s else s
  let s := (s.watchUpdate i u).syncRanks i
  let s := if updLoses u && (updNamed u).contains s.self then s.fenceSelf i else s
  let s := if u.kind = 4 ∧ u.target = s.self then s.becomeTarget i u.subject else s
  let s := if u.kind = 6 then s.advanceGen i else s
  let s := if updLoses u && (s.ten i).rs.sealing && !(s.ten i).rs.first then s.resliceFault i 0xE5 u.subject.toNat else s
  let s := (((s.retryRepairs waits).reissue i).badgerGeneration i).resolicit i
  let s := s.nameTargets i
  let s := if s.isJobManager i then failed.foldl (fun s a => s.raiseT i 0xDB a.toNat) s else s
  ((s.tryForms i).syncGroups).follow i

/-! ## Issuing (R232, R234) -/

/-- The KIND a report leads to. -/
def Report.kind (r : Report) : BitVec 4 := if r.cause = 3 then 2 else if r.cause = 4 then 3 else 1

/-- The next generation of an issuer: COUNT one up. -/
def nextGen (g : Gen) (issuer : Nat) : Gen := BitVec.ofNat 32 ((g.toNat / 4 + 1) * 4 + issuer % 4)

/-- The change a leader forms of its queue: the first report the majority rule lets through, those of its chip and kind
merged into it. -/
def FoxS.ofQueue (f : FoxS) (quorum : Nat) : Option (Report × List Addr) :=
  f.queue.findSome? fun r =>
    let same := f.queue.filter fun q => q.kind == r.kind && q.subject.chip == r.subject.chip
    let named := ((same.flatMap fun q => f.fresh q).dedup)
    if named.isEmpty then none
    else if r.kind = 2 ∨ 2 * (f.lost.length + named.length) < quorum then some (r, named) else none

/-- A change issued: the leader applies it as every member does, and fences whom it names LOST. -/
def State.issueUpdate (s : State) (i : Fin 64) (n : Nat) (kind : BitVec 4) (named : List Addr) (subject target : Addr) :
    State :=
  let f := (s.ten i).fox
  if 0x3FFFFFFF ≤ f.gen.toNat / 4 then
    if f.frozen then s else (s.updFox i fun f => { f with frozen := true }).raiseT i 0xC7
  else
    let u : Update := { kind := kind, imask := named.foldl (fun m a => m ||| instBit a) (instBit subject)
                        newGen := nextGen f.gen n, prevGen := f.gen, subject := subject, target := target }
    let s := s.updFox i fun f => { f with issuedAt := s.time.now, issuedAny := true }
    let s := if kind = 2 then s.raiseT i 0xCB subject.toNat else s
    let s := s.applyUpdate i u true false
    if updLoses u then named.foldl (fun s a => s.send (s.ctrlTo i a 0x21 0 0 (u.newGen.toNat + a.toNat * 2 ^ 32))) s else s

/-- The reports the majority rule holds, each logged once as event 0xC5. -/
def State.holdReports (s : State) (i : Fin 64) : State :=
  let n := ((s.ten i).fox.queue.filter fun r => !r.held && r.kind != 2).length
  let s := s.updFox i fun f => { f with queue := f.queue.map fun r => if r.kind = 2 then r else { r with held := true } }
  (List.range n).foldl (fun s _ => s.raiseT i 0xC5) s

/-- The earlier job-manager candidates that no generation lists LOST yet: a taker names them first (R243). -/
def State.earlierCands (s : State) (i : Fin 64) (n : Nat) : List Addr :=
  (List.range n).filterMap fun j =>
    match (s.ten i).commit.tree.cand j with
    | some a => if (s.ten i).fox.isLost a then none else some a
    | none => none

/-- The next change of a leader issued: from its reports, else one it owes (R214, R254, R270). A taker of the role issues
nothing before the KIND 0x1 updates that name the earlier candidates, under the majority rule (R243). -/
def State.issueNext (s : State) (i : Fin 64) : State :=
  match s.issuer i with
  | none => s
  | some n =>
    let s := ((s.ten i).fox.reports).foldl (fun s r => s.takeReport i r) s
    let f := (s.ten i).fox
    match s.earlierCands i n with
    | a :: rest =>
      let named := a :: rest.filter fun b => b.chip == a.chip
      if 2 * (f.lost.length + named.length) < (s.ten i).commit.tree.quorum then s.issueUpdate i n 1 named a 0
      else s.holdReports i
    | [] =>
    match f.ofQueue (s.ten i).commit.tree.quorum with
    | some (r, named) => s.issueUpdate i n r.kind named (named.headD r.subject) 0
    | none =>
      let s := s.holdReports i
      match f.owed with
      | (kind, subject, target) :: _ =>
        s.issueUpdate i n kind [subject] subject (if kind = 4 then target else 0)
      | [] => s

end Sys2Proof.Machine
end

