-- ==== Sys2Proof/Machine/FoxRows.lean ====
section
/-! DEFINITION. The commands of membership and Fox: heartbeats, fences, suspicion, witness queries, discovery, reports,
evictions and updates (R232 to R248). -/

namespace Sys2Proof.Machine

/-! ## Heartbeats (R237) -/

/-- Whether this instance is a listed candidate of a tenant (R218). -/
def State.isCand (s : State) (i : Fin 64) : Bool := (List.range 8).any fun j => (s.ten i).commit.tree.cand j == some s.self

/-- Whether a tenant's heartbeats and watching go on here: a member, or a manager candidate that owns no slot of the tenant,
that is neither fenced nor, without a place in the new layout, past a reslice boundary (R236, R237, R286). -/
def State.beats (s : State) (i : Fin 64) : Bool :=
  let t := s.ten i
  (t.fox.self == .member || (t.fox.self == .none && t.env.isSome && s.isCand i)) && decide (s.flt.mode = .normal) && !s.leaver i

/-- HEARTBEAT_SEND (R237). -/
def execHeartbeatSend (tidx : Fin 64) (now : BitVec 64) (s : State) : Out :=
  if !s.configured || !s.beats tidx then .next s
  else
    let s := (s.at_ now).updFox tidx fun f => { f with hseq := f.hseq + 1 }
    let h := (s.ten tidx).fox.hseq.toNat
    let e := (s.ten tidx).commit.committed
    let place := leBytes 8 s.cfg.inst.place.toNat
    let s := ((s.settSlots tidx).filter fun k => (s.slot k).st != .unused).foldl (fun s k => s.toPeers tidx k 0x20 e h place) s
    .next ((s.fellowCands tidx).foldl (fun s a => s.send (s.ctrlTo tidx a 0x20 e 0 h place)) s)

/-- Whether a heartbeat sequence number is newer than another, modulo 2^32 (R237). -/
def hseqNewer (a b : BitVec 32) : Bool := a != b && decide ((a - b).toNat < 2 ^ 31)

/-- Whether a heartbeat's place word differs from the row its source occupies; a target not yet discovered has no place
to compare (R237, R255). -/
def State.placeDiffers (s : State) (w : Watch) (place : BitVec 64) : Bool :=
  !w.cand && w.status != .replacing &&
    match (s.slot w.slot).sett.rows[w.rank]? with | some row => row.place != place | none => false

/-- An entry that takes a heartbeat (R237, R239, R241, R247). -/
def Watch.hear (w : Watch) (h : BitVec 32) (now : BitVec 64) : Watch :=
  match w.status with
  | .confirmed | .lost => w
  | .replacing => { w with hseq := h, time := now, heard := true, beat := now }
  | _ => { w with hseq := h, time := now, heard := true, beat := now, status := .present, round := none }

/-- HEARTBEAT (R59, R237, R239, R247): the place word's bits 63 to 38 are reserved. -/
def execHeartbeat (f : Rx) (s : State) : Out :=
  .next (s.receive f { typ := 0x20, ok2 := tField f 32 32 == 0 && decide (leNat f.payload < 2 ^ 38), ok3 := f.len == 8 } fun s i =>
    let h := BitVec.ofNat 32 (tField f 0 32)
    let place := BitVec.ofNat 64 (leNat f.payload)
    let mine (w : Watch) : Bool := w.of i f.src && (!w.heard || hseqNewer h w.hseq)
    if s.watch.any fun w => mine w && s.placeDiffers w place then s.wrongIdentity i f.src
    else ((s.mapWatch mine fun w => w.hear h s.time.now).tryForms i).follow i)

/-- FENCE (R75, R236): its receiver learns that NEWGEN exists, and queries when that is newer. -/
def execFence (f : Rx) (s : State) : Out :=
  .next (s.receive f { typ := 0x21, ok2 := tField f 57 7 == 0, ok3 := f.len == 0, ok7 := fun _ _ => f.epoch == 0 } fun s i =>
    if (s.ten i).fox.gen.toNat < tField f 0 32 then s.querySync i else s)

/-! ## Suspicion (R238 to R240) -/

/-- SUSPICION_DEADLINE (R238, R239): 3.5 HB_PERIOD after the last accepted heartbeat. -/
def execSuspicionDeadline (entry : Nat) (s : State) : Out :=
  match s.watch[entry]? with
  | none => .next s
  | some w =>
    if w.status != .present || !s.beats w.tidx then .next s
    else .next ((s.reach w.time (3500 * s.cfg.glob.hbPeriod)).suspect entry)

/-- CONFIRM_WAIT_EXPIRY (R239): one witness MISSING and the other silent confirms; no answer starts the next round. -/
def execConfirmWaitExpiry (entry : Nat) (s : State) : Out :=
  match s.watch[entry]? with
  | none => .next s
  | some w =>
    if w.status ≠ .suspect || !s.beats w.tidx then .next s
    else
      match w.round with
      | none => .next (s.startRound entry 0)
      | some r =>
        let s := s.reach r.since (1000 * s.cfg.glob.confirmWait)
        .next (if r.missing.isEmpty then s.startRound entry r.next else (s.confirm entry 0xC1 1).follow w.tidx)

/-- DISC_WAIT_EXPIRY (R237, R247): an entry still UNSEEN becomes SUSPECT. -/
def execDiscWaitExpiry (entry : Nat) (s : State) : Out :=
  match s.watch[entry]? with
  | none => .next s
  | some w =>
    .next (if w.status = .unseen && s.beats w.tidx then (s.reach w.made (1000000 * s.cfg.glob.discWait)).suspect entry else s)

/-- Whether a fabric manager's report names a watched peer, itself or by its chip (R240). -/
def Watch.named (w : Watch) (addr : Addr) (chip : Bool) : Bool := if chip then w.addr.chip == addr.chip else w.addr == addr

/-- A fabric manager's report at one entry of the watch table: confirmed, or turned away by a heartbeat accepted within the
last HB_PERIOD (R240). -/
def State.reportAt (s : State) (addr : Addr) (chip : Bool) (j : Nat) : State :=
  match s.watch[j]? with
  | none => s
  | some w =>
    if !w.named addr chip then s
    else
      match w.status with
      | .confirmed | .lost | .replacing => s
      | _ =>
        if w.status != .suspect && w.heard && decide ((s.time.now - w.beat).toNat ≤ 1000 * s.cfg.glob.hbPeriod) then
          s.raiseT w.tidx 0xC4 w.addr.toNat
        else (s.confirm j 0xC2 2).follow w.tidx

/-- FABRIC_MANAGER_REPORT (R240): refused under R9 where nothing watches the address. -/
def execFabricManagerReport (a : Acc) (addr : Addr) (chip : Bool) (now : BitVec 64) (s : State) : Out :=
  if !s.portsUp then .next s
  else if !s.windowOpen 0x2040 || !fromSystem a || !s.watch.any (·.named addr chip) then .next (s.refuse a.id 0x2040)
  else
    let s := (State.at_ { s with regs := { s.regs with fmAddr := addr, fmChip := chip } } now).ok a.id
    .next ((List.range s.watch.length).foldl (fun s j => s.reportAt addr chip j) s)

/-! ## Queries (R235, R239, R241, R246) -/

/-- Check 2 of a MEMBERSHIP_QUERY of a kind: its CAUSE is one that kind has, reserved bits zero. -/
def queryOk (f : Rx) (kind : Nat) (causes : List Nat) : Bool :=
  tField f 0 12 == 3 + kind * 256 && causes.contains (tField f 12 4) && tField f 28 36 == 0 &&
    (f.payload.length != 8 || decide (leField f.payload 0 4 < 2 ^ 25))

/-- SUBJECT of a MEMBERSHIP_QUERY. -/
def querySubject (f : Rx) : Addr := BitVec.ofNat 25 (leField f.payload 0 4)

/-- HSEQ of a MEMBERSHIP_QUERY. -/
def queryHseq (f : Rx) : BitVec 32 := BitVec.ofNat 32 (leField f.payload 4 4)

/-- The updates of a log that follow a generation, in order. -/
def updatesAfter (log : List Update) (g : Gen) : List Update := log.dropWhile fun u => u.prevGen != g

/-- MEMBERSHIP_QUERY_SYNC (R66, R235): answered with every update after the asker's generation, or passed up. An asker that
the log no longer reaches is reported STALE. An update that still waits to be sent to the asker is not queued twice. The
query's SUBJECT names the asker (log entry 17). -/
def execMembershipQuerySync (f : Rx) (s : State) : Out :=
  .next (s.receive f { typ := 0x70, ok2 := queryOk f 1 [0], ok3 := f.len == 8, skipGen := true } fun s i =>
    let asker := querySubject f
    let x := (s.ten i).fox
    if f.gen < x.gen then
      let us := updatesAfter x.log f.gen
      if us.isEmpty then (s.raiseT i 0xCC asker.toNat).report i asker 0 5
      else us.foldl (fun s u => s.sendOnce (s.updateFrame i u (.member asker))) s
    else s.syncUp i asker f.gen)

/-- MEMBERSHIP_QUERY_WITNESS (R239, R247): answered at once from the own watch entry. -/
def execMembershipQueryWitness (f : Rx) (s : State) : Out :=
  .next (s.receive f { typ := 0x70, ok2 := queryOk f 2 [0], ok3 := f.len == 8 } fun s i =>
    let p := querySubject f
    let h := queryHseq f
    let seen := s.watch.filter fun w => w.of i p && w.heard
    let best := seen.foldl (fun (b : Option (BitVec 32)) w => match b with
      | some x => if hseqNewer w.hseq x then some w.hseq else b
      | none => some w.hseq) none
    let known := s.watch.any fun w => w.of i p && w.status == .present
    let alive := match best with
      | some x => decide (h = 0xFFFFFFFF) || hseqNewer x h
      | none => known && decide (h = 0xFFFFFFFF)
    let q := queryFrame 3 (if alive then 1 else 2) 0 p (match best with | some x => x.toNat | none => 0)
    s.sendReply (s.ctrlTo i f.src 0x70 0 0 q.1 q.2))

/-- A witness's answer at one entry of the watch table: it counts where the entry is the suspect's and asked that witness
(R239). -/
def State.answerAt (s : State) (i : Fin 64) (f : Rx) (j : Nat) : State :=
  let p := querySubject f
  match s.watch[j]? with
  | none => s
  | some w =>
    match w.round with
    | none => s
    | some r =>
      if !(w.of i p && w.status == .suspect && r.asked.contains f.src) then s
      else if tField f 12 4 = 1 then
        let s : State := { s with watch := listModify s.watch j fun w =>
          { w with status := .present, hseq := queryHseq f, heard := true, beat := s.time.now, time := s.time.now, round := none } }
        (s.raiseT i 0xC3 p.toNat).tryForms i
      else
        let missing := addOnce f.src r.missing
        let s : State := { s with watch := listModify s.watch j fun w => { w with round := some { r with missing := missing } } }
        if r.asked.all fun a => missing.contains a then (s.confirm j 0xC1 1).follow i else s

/-- MEMBERSHIP_QUERY_ANSWER (R239): ALIVE returns the suspect to PRESENT; MISSING of every witness confirms it. -/
def execMembershipQueryAnswer (f : Rx) (s : State) : Out :=
  .next (s.receive f { typ := 0x70, ok2 := queryOk f 3 [1, 2], ok3 := f.len == 8 } fun s i =>
    (List.range s.watch.length).foldl (fun s j => s.answerAt i f j) s)

/-- MEMBERSHIP_QUERY_REPORT (R234, R241, R245): taken by the leader in arrival order. -/
def execMembershipQueryReport (f : Rx) (s : State) : Out :=
  .next (s.receive f { typ := 0x70, ok2 := queryOk f 4 [1, 2, 3, 4, 5], ok3 := f.len == 8 } fun s i =>
    if s.leads i then s.takeReport i { subject := querySubject f, since := s.time.now, imask := BitVec.ofNat 12 (tField f 16 12)
                                       cause := BitVec.ofNat 4 (tField f 12 4) }
    else s)

/-! ## Discovery (R103, R104, R246, R247, R255) -/

/-- The sett fingerprint (R103). -/
def fingerprint (d : SettDesc) : Nat :=
  leNat ((sha256 (leBytes 4 d.settId.toNat ++ leBytes 1 d.k ++ leBytes 1 d.m ++
    (d.rows.flatMap fun r => leBytes 4 r.addr.toNat ++ leBytes 1 r.mslot.toNat ++ leBytes 4 r.dcap ++ leBytes 8 r.place.toNat ++
      leBytes 2 r.feed.toNat ++ leBytes 1 r.plane.toNat) ++ d.coef)).take 8)

/-- The T word and payload of a DISCOVER or DISCOVER_REPLY of a slot (R246). -/
def State.discoverFrame (s : State) (k subtype : Nat) : Nat × List Byte :=
  let d := (s.slot k).sett
  (subtype + d.settId.toNat * 2 ^ 8 + d.rank % 64 * 2 ^ 32,
    leBytes 8 (fingerprint d) ++ leBytes 8 s.cfg.inst.place.toNat ++ leBytes 2 s.cfg.inst.feed.toNat ++
      leBytes 1 s.cfg.inst.plane.toNat ++ List.replicate 13 0)

/-- DISCOVER_SEND (R247): to the peers of a FORMING slot until every rank is PRESENT or LOST. -/
def execDiscoverSend (slot : Fin 16) (s : State) : Out :=
  let k := slot.val
  match s.slotTenant k with
  | none => .next s
  | some i =>
    if (s.slot k).kind ≠ .sett ∨ (s.slot k).st ≠ .forming ∨ s.discovered i k then .next s
    else
      let q := s.discoverFrame k 1
      .next (s.toPeers i k 0x70 0 q.1 q.2)

/-- Check 2 of DISCOVER and DISCOVER_REPLY. -/
def discoverOk (f : Rx) (subtype : Nat) : Bool :=
  tField f 0 8 == subtype && tField f 38 26 == 0 &&
    (f.payload.length != 32 || ((slice f.payload 19 13).all (· == 0) && decide (leField f.payload 8 8 < 2 ^ 38)))

/-- The row a target's discovery gives it, once its placement keeps R104 (R255); none where it does not. -/
def placedRow (rows : List Row) (r : Nat) (f : Rx) : Option Row :=
  match rows[r]? with
  | none => none
  | some row =>
    let new : Row := { row with place := BitVec.ofNat 64 (leField f.payload 8 8), feed := BitVec.ofNat 16 (leField f.payload 16 2)
                                plane := BitVec.ofNat 8 (leField f.payload 18 1) }
    if rows.zipIdx.all fun p => p.2 == r || !sameDomain new p.1 then some new else none

/-- The judgement of a DISCOVER or its reply at a slot (R247, R255). -/
def State.judgeDiscover (s : State) (i : Fin 64) (f : Rx) (reply : Bool) : State :=
  match (s.settSlots i).find? fun k => (s.slot k).sett.settId.toNat == tField f 8 24 with
  | none => s
  | some k =>
    let r := tField f 32 6
    match (s.slot k).rankOf f.src with
    | none =>
      State.raiseT { s with regs := { s.regs with extraAddr := f.src, extraCount := s.regs.extraCount + 1 } } i 0xC8 f.src.toNat
    | some own =>
      if own ≠ r then s.wrongIdentity i f.src
      else
        let rows := (s.slot k).sett.rows
        let fresh := (s.slot k).rankSt r == .replacing
        match if fresh then placedRow rows r f else rows[r]? with
        | none => s.wrongIdentity i f.src
        | some row =>
          let s := if fresh then s.updSlot k fun x => { x with sett := { x.sett with rows := x.sett.rows.set r row } } else s
          if !(leField f.payload 0 8 == fingerprint (s.slot k).sett && leField f.payload 8 8 == row.place.toNat &&
              leField f.payload 16 2 == row.feed.toNat && leField f.payload 18 1 == row.plane.toNat) then s.wrongIdentity i f.src
          else
            let s := s.mapWatch (fun w => w.of i f.src && !w.cand && w.slot == k &&
                (w.status == .unseen || w.status == .suspect || w.status == .replacing)) fun w =>
              { w with status := .present, time := s.time.now, round := none }
            let s := if reply then s
              else
                let q := s.discoverFrame k 2
                s.sendReply (s.ctrlTo i f.src 0x70 0 0 q.1 q.2)
            (s.tryForm i k).follow i

/-- DISCOVER (R247, R255). -/
def execDiscover (f : Rx) (s : State) : Out :=
  .next (s.receive f { typ := 0x70, ok2 := discoverOk f 1, ok3 := f.len == 32, ok7 := fun _ _ => f.epoch == 0 } fun s i =>
    s.judgeDiscover i f false)

/-- DISCOVER_REPLY (R247, R255). -/
def execDiscoverReply (f : Rx) (s : State) : Out :=
  .next (s.receive f { typ := 0x70, ok2 := discoverOk f 2, ok3 := f.len == 32, ok7 := fun _ _ => f.epoch == 0 } fun s i =>
    s.judgeDiscover i f true)

/-! ## Evictions and updates (R233 to R235, R245) -/

/-- Every instance of a chip: as many as this chip has (R250; the number, DESIGN CHOICE, log entry 95). -/
def State.chipMask (s : State) (a : Addr) : BitVec 12 :=
  (List.range (min 12 s.cfg.ninst)).foldl (fun m k => m ||| (1 <<< k)) (instBit a)

/-- EVICT (R245): MNL_FX_EVICT.GO at any instance, with NQ_TAG 0x0000 or the tenant's tag. -/
def execEvict (a : Acc) (addr : Addr) (chip : Bool) (s : State) : Out :=
  let i := Fin.ofNat 64 s.regs.tsel.toNat
  if !s.portsUp then .next s
  else if !s.windowOpen 0x2048 || (s.tenantOf (s.tagOf i)).isNone || !(fromSystem a || a.tag == s.tagOf i) then
    .next (s.refuse a.id 0x2048)
  else
    let s := (s.updFox i fun f => { f with evictAddr := addr, evictChip := chip }).ok a.id
    .next (s.report i addr (if chip then s.chipMask addr else 0) 3)

/-- MEMBERSHIP_UPDATE_ISSUE (R232, R234): at the leader, 5 µs after the last one. -/
def execMembershipUpdateIssue (tidx : Fin 64) (now : BitVec 64) (s : State) : Out :=
  let s := if s.configured then s.at_ now else s
  let f := (s.ten tidx).fox
  .next (if !s.configured || (s.ten tidx).env.isNone || !s.leads tidx || !s.mayInject ||
      (f.issuedAny && !passed f.issuedAt s.time.now 5) then s
    else s.issueNext tidx)

/-- The update a frame carries. -/
def updateOf (f : Rx) : Update :=
  { kind := BitVec.ofNat 4 (tField f 8 4), imask := BitVec.ofNat 12 (tField f 12 12)
    newGen := BitVec.ofNat 32 (leField f.payload 0 4), prevGen := BitVec.ofNat 32 (leField f.payload 4 4)
    subject := BitVec.ofNat 25 (leField f.payload 8 4), target := BitVec.ofNat 25 (leField f.payload 12 4) }

/-- Check 2 of an update (R233). -/
def updateOk (f : Rx) : Bool :=
  let u := updateOf f
  tField f 0 8 == 4 && decide (1 ≤ u.kind.toNat) && decide (u.kind.toNat ≤ 6) && tField f 24 40 == 0 &&
    (f.payload.length != 16 ||
      (decide (leField f.payload 8 4 < 2 ^ 25) && decide (leField f.payload 12 4 < 2 ^ 25) && u.prevGen == f.gen &&
        u.imask.getLsbD u.subject.inst.toNat && (updLoses u || u.imask == instBit u.subject) && (u.kind == 4 || u.target == 0)))

/-- MEMBERSHIP_UPDATE (R235): one that passes checks 5 and 6 follows the generation in force and is applied. -/
def execMembershipUpdate (f : Rx) (s : State) : Out :=
  .next (s.receive f { typ := 0x70, ok2 := updateOk f, ok3 := f.len == 16 } fun s i =>
    let u := updateOf f
    if (s.ten i).fox.gen < u.newGen then s.applyUpdate i u false false else s)

end Sys2Proof.Machine
end

