-- ==== Sys2Proof/Machine/Badger.lean ====
section
/-! DEFINITION. The commands of Badger: requests, parts, digests, completion records and the handover frames, and the
timers and starts of a rebuild (R99, R256 to R281). -/

namespace Sys2Proof.Machine

/-! ## Checks (R75, R261, R279) -/

/-- Check 7 of a rebuild or Render frame. -/
def State.runEpochOk (s : State) (i : Fin 64) (f : Rx) : Bool :=
  let t := s.ten i
  if f.tr = 127 then
    (t.rs.sealing && decide (f.epoch.toNat = t.rs.boundary)) || t.rs.lastSeal == some f.epoch.toNat
  else f.tr == 0 && t.commit.vstate != .none && decide (f.epoch.toNat = t.commit.committed)

/-- Whether a Render frame belongs to a seal already applied: discarded without reply (R279). -/
def State.sealOver (s : State) (i : Fin 64) (f : Rx) : Bool :=
  f.tr == 127 && !((s.ten i).rs.sealing && decide (f.epoch.toNat = (s.ten i).rs.boundary))

/-! ## Requests at a helper (R262 to R266, R280, R304) -/

/-- The fault of a helper's own read: true where the request must be discarded (R55, R304). -/
def State.helperRead (s : State) (i : Fin 64) (flt : ReadFault) (addrs : List (Nat × Bool)) : State × Bool :=
  match flt with
  | .stack a => ((s.raise { code := 0x39, tenant := s.tagOf i, detail := a.toNat }).queueRepairAt a.toNat, true)
  | .digestWord =>
    match addrs.head? with
    | some a => ((s.raiseT i 0xF1).digestFail a.1, true)
    | none => (s, true)
  | _ =>
    match addrs.find? fun a => a.2 && !s.digestOk a.1 with
    | some a => (s.digestFail a.1, true)
    | none => (s, false)

/-- The addresses a helper reads, with whether each has a kept digest to agree with. -/
def State.readAddrs (s : State) (k : Nat) (parity : Bool) (ps : List Nat) : List (Nat × Bool) :=
  ps.filterMap fun p => (s.ownAddr k parity p).map fun a =>
    (a, parity || match s.holderOf k p with | some x => x.2.1.sealed | none => false)

/-- A request not servable under R262: event 0xD6. -/
def State.notServable (s : State) (f : Rx) : State := s.frameEvent f 0xD6

/-- A run accepted, served as far as its panels are there, its reservation noted (R264). -/
def State.acceptRun (s : State) (h : HelpRun) (r : Nat) : State :=
  let s := s.updBadger fun b => { b with helps := b.helps ++ [h] }
  let s := s.updBadger fun b => { b with peak := max b.peak s.reserved4k }
  if s.helperReady h r then s.fillRun h r else s

/-- A request on a replica-set slot: the source sends copies (R261). -/
def State.copyRequest (s : State) (i : Fin 64) (f : Rx) (k : Fin 16) (first count lost : Nat) (donly : Bool) (flt : ReadFault) :
    State :=
  let sl := s.slot k.val
  if lost ≠ 0 ∨ sl.dcap < first + count ∨ count = 0 then s.notServable f
  else
    let ps := (List.range count).map (first + ·)
    let rd := s.helperRead i flt (s.readAddrs k.val false ps)
    if rd.2 then rd.1
    else if !donly && Config.reservationUnits < s.reserved4k + count then s.count 0xD5
    else
      let mslot : BitVec 4 := match sl.rep.rows.find? fun r => r.addr == f.src with | some r => r.mslot | none => 0
      let h : HelpRun := {
        render := false, tidx := i, slot := k, requester := f.src, reqSlot := mslot, first := first, count := count, lost := 0
        epoch := f.epoch.toNat, parent := f.src, parentSlot := mslot, helpers := [0], pos := 0
        accs := ps.zipIdx.map fun p => { i := p.2, bytes := s.ownPanel k.val false p.1, cmask := 1, owes := [] } }
      let s := s.sendDigests h (ps.map fun p => s.ownDigest k.val false p)
      if donly then s
      else
        let s := s.updBadger fun b => { b with peak := max b.peak (s.reserved4k + count) }
        h.accs.foldl (fun s a => s.send (s.partFrame h a)) s

/-- The run a request asks this helper for (R262, R263); none where it is not servable. -/
def State.helpRunOf (s : State) (i : Fin 64) (f : Rx) (k : Fin 16) (first count lost : Nat) : Option (HelpRun × Nat) :=
  let sl := s.slot k.val
  let d := sl.sett
  let render := f.tr == 127
  match sl.rankOf f.src with
  | none => none
  | some r =>
    let step := stepOf d lost
    let pats := (List.range count).map fun j => sl.pattern r lost (first + j * step) render
    let st := lostStripe d r lost first
    let pos := posOf d.k d.m d.rank (st % max 1 (settN d))
    match pats with
    | some p :: _ =>
      let hs := sl.helperAddrs st p.helpers
      let aligned := if lost < d.k then first % max 1 d.k == lost else first % max 1 d.m == lost - d.k
      if !(aligned && pats.all fun q => match q with | some x => x.helpers == p.helpers | none => false) then none
      else
        match p.helpers.findIdx? (· == pos) with
        | none => none
        | some ix =>
          let up := match parentOf ix with
            | some j => (match hs[j]? with | some x => x.2 | none => f.src)
            | none => f.src
          let upSlot : BitVec 4 := match d.rows.find? fun x => x.addr == up with | some row => row.mslot | none => 0
          let kids := (childrenOf ix p.helpers.length).filterMap fun j => p.helpers[j]?
          let mask : BitVec 36 := (1 <<< pos) ||| (1 <<< lost)
          some ({ render := render, tidx := i, slot := k, requester := f.src, reqSlot := 0, first := first, count := count
                  lost := lost, epoch := f.epoch.toNat, parent := up, parentSlot := upSlot, helpers := p.helpers, pos := pos
                  accs := (List.range count).map fun j =>
                    { i := j, bytes := List.replicate 4096 0, cmask := mask, owes := pos :: kids }, since := s.time.now }, r)
    | _ => none

/-- A rebuild, repair or Render request judged (R262, R264, R265). -/
def State.badgerRequest (s : State) (i : Fin 64) (f : Rx) (donly : Bool) (flt : ReadFault) : State :=
  let k : Fin 16 := Fin.ofNat 16 (tField f 45 4)
  let first := tField f 0 23
  let count := tField f 23 16
  let lost := tField f 39 6
  if s.sealOver i f || s.flt.inReset.contains .badger then s
  else if Config.requestTable ≤ s.requestsHeld then s.count 0x49
  else if (s.slot k.val).kind = .replica then s.copyRequest i f k first count lost donly flt
  else
    match s.helpRunOf i f k first count lost with
    | none => s.notServable f
    | some (h, r) =>
      let par := decide ((s.slot k.val).sett.k ≤ h.pos)
      let ps := ((s.helperPanels h r).filter fun p => !p.2).map (·.1)
      let rd := s.helperRead i flt (s.readAddrs k.val par ps)
      if rd.2 then rd.1
      else if donly then s.sendDigests h (s.helperDigests h r)
      else if Config.reservationUnits < s.reserved4k + count then s.count 0xD5
      else s.acceptRun h r

/-- The checks of a BADGER_REQ with a value of DONLY. -/
def reqCheck (f : Rx) (donly : Bool) : Check :=
  { typ := 0x40, ok2 := tField f 50 14 == 0 && f.t.getLsbD 49 == donly, ok3 := f.len == 0, ok7 := fun s i => s.runEpochOk i f
    ok8 := fun s i => s.knownIn i (tField f 45 4) f.src }

/-- BADGER_REQ (R262 to R266, R280). -/
def execBadgerReq (f : Rx) (flt : ReadFault) (s : State) : Out :=
  .next (s.receive f (reqCheck f false) fun s i => s.badgerRequest i f false flt)

/-- BADGER_REQ_DIGEST_ONLY (R265): answered with the digests alone. -/
def execBadgerReqDigestOnly (f : Rx) (s : State) : Out :=
  .next (s.receive f (reqCheck f true) fun s i => s.badgerRequest i f true .none)

/-! ## Parts and digests (R263, R266, R267, R281) -/

/-- The position of a frame's source in the stripe of a helper's run that loses `panel`. -/
def State.srcPos (s : State) (h : HelpRun) (src : Addr) (panel : Nat) : Option Nat :=
  let sl := s.slot h.slot.val
  let d := sl.sett
  match sl.rankOf h.requester, sl.rankOf src with
  | some r, some x => some (posOf d.k d.m x (lostStripe d r h.lost panel % max 1 (settN d)))
  | _, _ => none

/-- The helper's run and accumulator a part belongs to. -/
def State.partFor (s : State) (i : Fin 64) (f : Rx) (k panel : Nat) (cmask : BitVec 36) (render : Bool) :
    Option (HelpRun × Nat × Nat) :=
  s.badger.helps.findSome? fun h =>
    let step := stepOf (s.slot k).sett h.lost
    if h.tidx == i && h.slot.val == k && h.render == render && decide (h.epoch = f.epoch.toNat) && cmask.getLsbD h.lost then
      match s.srcPos h f.src panel with
      | none => none
      | some pos =>
        match h.accs.find? fun a => h.first + a.i * step == panel && a.owes.contains pos with
        | some a => some (h, a.i, pos)
        | none => none
    else none

/-- Whether a part at its requester comes whole from the first helper (R263). -/
def Run.partOk (r : Run) (src : Addr) (cmask : BitVec 36) : Bool :=
  let full : BitVec 36 := if r.copy then 1 else r.helpers.foldl (fun (m : BitVec 36) h => m ||| (1 <<< h.1)) (1 <<< r.lost)
  (match r.helpers.head? with | some h => h.2 == src | none => false) && cmask == full

/-- A part taken: by a helper's accumulator, or by the requester of the run; any other counts under 0xD7. -/
def State.takePart (s : State) (i : Fin 64) (f : Rx) (render : Bool) : State :=
  let panel := tField f 0 23
  let cmask : BitVec 36 := BitVec.ofNat 36 (tField f 23 36)
  let k := tField f 59 4
  if s.sealOver i f then s
  else
    match s.partFor i f k panel cmask render with
    | some (h, j, pos) =>
      let h' : HelpRun := { h with accs := h.accs.map fun a =>
        if a.i = j then { a with bytes := xorBytes a.bytes f.payload, cmask := a.cmask ||| cmask, owes := a.owes.filter (· != pos) }
        else a }
      (s.updBadger fun b => { b with helps := b.helps.map fun x => if x = h then h' else x }).sendParts h'
    | none =>
      let found := s.badger.runs.findSome? fun r =>
        if r.tidx == i && r.slot.val == k && (r.kind == .render) == render && decide (r.epoch = f.epoch.toNat) && !r.donly &&
            r.partOk f.src cmask then
          (r.panels.find? fun p => s.runPanel r p.i == panel && p.part.isNone).map fun p => (r, p.i)
        else none
      match found with
      | some (r, j) => s.updRunPanel r j fun p => { p with part := some f.payload }
      | none => s.count 0xD7

/-- The checks of a part: one of another epoch also counts under 0xD7 (R265). -/
def partCheck (f : Rx) (typ : Byte) (ok7 : State → Fin 64 → Bool) : Check :=
  { typ := typ, ok2 := !f.t.getLsbD 63, ok3 := f.len == 4096, ok7 := ok7, count7 := some 0xD7, ok8 := fun s i => s.knownIn i (tField f 59 4) f.src }

/-- BADGER_PART (R263, R265, R267). -/
def execBadgerPart (f : Rx) (s : State) : Out :=
  .next (s.receive f (partCheck f 0x41 fun s i => f.tr == 0 && s.runEpochOk i f) fun s i => (s.takePart i f false).follow i)

/-- RENDER (R279, R281). -/
def execRender (f : Rx) (s : State) : Out :=
  .next (s.receive f (partCheck f 0x62 fun s i => f.tr == 127 && s.runEpochOk i f) fun s i => (s.takePart i f true).follow i)

/-- The run outstanding of a tenant with a PANEL value. -/
def State.runAt (s : State) (i : Fin 64) (first : Nat) (epoch : Nat) : Option Run :=
  s.badger.runs.find? fun r => r.tidx == i && r.first == first && r.epoch == epoch

/-- A helper's digests taken by the run they belong to, and its panels judged; any other counts under 0xD7. -/
def State.takeDigests (s : State) (i : Fin 64) (f : Rx) : State :=
  let first := tField f 0 23
  let count := tField f 23 10
  let e := f.epoch.toNat
  if s.sealOver i f then s
  else
    match s.runAt i first e with
    | none => s.count 0xD7
    | some r =>
      match r.helpers.find? fun h => h.2 == f.src with
      | none => s.count 0xD7
      | some h =>
        if r.count ≠ count || r.panels.all fun p => p.digs.any fun d => d.1 == h.1 then s.count 0xD7
        else
          let add (p : RunPanel) : RunPanel :=
            if (p.digs.any fun d => d.1 == h.1) then p
            else { p with digs := p.digs ++ [(h.1, BitVec.ofNat 64 (leField f.payload (8 * p.i) 8))] }
          let r' : Run := { r with panels := r.panels.map add }
          let s := s.updBadger fun b => { b with runs := b.runs.map fun x => if x = r then r' else x }
          (r'.panels.map (·.i)).foldl (fun s j => match s.runAt i first e with | some x => s.judgePanel x j | none => s) s

/-- Whether a DIGEST_X frame's T word is well formed, and its LEN fits its COUNT. -/
def digestOk2 (f : Rx) : Bool := tField f 37 27 == 0 && between 1 (tField f 23 10) 512

/-- DIGEST_X_REBUILD (R266, R267). -/
def execDigestXRebuild (f : Rx) (s : State) : Out :=
  .next (s.receive f
    { typ := 0x52, ok2 := digestOk2 f && tField f 33 4 == 15 && tField f 0 23 != 0x7FFFFF
      ok3 := decide (f.payload.length = 8 * tField f 23 10), ok7 := fun s i => s.runEpochOk i f, count7 := some 0xD7 }
    fun s i => (s.takeDigests i f).follow i)

/-- COMPLETION_RECORD (R269, R270): the job manager offers the region on the subject's behalf, or owes KIND 0x5. -/
def execCompletionRecord (f : Rx) (s : State) : Out :=
  .next (s.receive f
    { typ := 0x52, ok2 := digestOk2 f && tField f 33 4 == 15 && tField f 0 23 == 0x7FFFFF && tField f 23 10 == 4 &&
        (f.payload.length != 32 || (leField f.payload 24 4 < 2 ^ 25 && leField f.payload 28 4 < 2 ^ 25))
      ok3 := f.len == 32, ok7 := fun s i => f.tr == 0 && s.runEpochOk i f }
    fun s i =>
      if !s.isJobManager i then s
      else
        let w := leField f.payload 24 4
        if w.testBit 24 then
          if (s.ten i).fox.replacing.any fun p => p.2 == f.src then
            s.updFox i fun x => { x with owed := addOnce (5, f.src, 0) x.owed }
          else s
        else
          let ctx := leField f.payload 14 2
          let pos := leField f.payload 28 4
          s.beginOffer {
            ctx := ctx, own := false, tidx := i, dst := f.src, epoch := leField f.payload 8 6
            t := BitVec.ofNat 64 (handoverT 1 ctx (w % 2 ^ 24)), sent := 0
            payload := handoverPayload (leField f.payload 0 8) (leField f.payload 8 6)
              (BitVec.ofNat 64 (leField f.payload 16 8)) f.src (pos % 2 ^ 23) (pos / 2 ^ 23 % 4) })

/-! ## Handover frames (R99, R269) -/

/-- Check 2 of a HANDOVER frame of a phase. -/
def handoverOk (f : Rx) (phase : Nat) : Bool :=
  tField f 0 12 == 5 + phase * 2 ^ 8 && tField f 52 12 == 0 &&
    (f.payload.length != 32 || (leField f.payload 14 2 == 0 && leField f.payload 24 4 < 2 ^ 25 && leField f.payload 28 4 < 2 ^ 25 &&
      between 1 (leField f.payload 28 4 / 2 ^ 23) 3))

/-- The entry of a tenant an OFFER describes: coordinate, length, class and SPANEL. -/
def State.offered (s : State) (i : Fin 64) (f : Rx) : Option (Nat × Entry) :=
  (s.entriesOf (s.tagOf i)).find? fun p =>
    p.2.coord 0 == leField f.payload 0 8 && p.2.lenp == tField f 28 24 && p.2.cls.code == leField f.payload 28 4 / 2 ^ 23 &&
      p.2.spanel == leField f.payload 28 4 % 2 ^ 23

/-- Whether a LOADING entry's data is complete: every panel verified by Badger at this epoch, or every panel moved in. -/
def State.dataComplete (s : State) (i : Fin 64) (c : Nat) (e : Entry) : Bool :=
  let b := (s.ten i).bg
  (List.range e.lenp).all fun q =>
    ((b.verified.any fun x => x.1 == c && x.2.1 == q) && !b.pending.any fun x => x.1 == c && x.2.1 == q) || s.panelPresent e q

/-- The answer to an OFFER. -/
def State.answerOffer (s : State) (i : Fin 64) (f : Rx) (phase : Nat) : State :=
  s.sendReply (s.ctrlTo i f.src 0x70 f.epoch.toNat 0 (handoverT phase (tField f 12 16) (tField f 28 24)) f.payload)

/-- A LOADING entry handed over: ACTIVE and sealed at its epoch (R88). -/
def State.takeOver (s : State) (i : Fin 64) (c : Nat) (e : Entry) (epoch : Nat) (droot : Word) : State :=
  let s := (List.range e.lenp).foldl (fun s p =>
    let r := s.dirRec (e.panelAddr p false)
    if r.d then s.setDir (e.panelAddr p false) { r with d := false } else s) s
  let s := s.setEntry c { e with state := .active, sealed := true, epoch := epoch, droot := droot, gen := (s.ten i).fox.gen, taken := some (epoch, droot) }
  (s.updBg i fun b => { b with
    records := b.records.filter fun r => r.ctx != some c, verified := b.verified.filter fun x => x.1 != c
    pending := b.pending.filter fun x => x.1 != c }).bgSettle i

/-- HANDOVER_OFFER (R99, R269): TAKEN where the entry, its data and its digest agree, and to a repeat of the OFFER that took it;
REFUSED otherwise. A target whose region is refused fills it again, with event 0xDC. -/
def execHandoverOffer (f : Rx) (s : State) : Out :=
  .next (s.receive f { typ := 0x70, ok2 := handoverOk f 1, ok3 := f.len == 32 } fun s i =>
    let epoch := leField f.payload 8 6
    let droot : Word := BitVec.ofNat 64 (leField f.payload 16 8)
    match s.offered i f with
    | none => s.answerOffer i f 3
    | some (c, e) =>
      if e.state ≠ .loading ∧ e.taken = some (epoch, droot) then s.answerOffer i f 2
      else if e.state == .loading && s.dataComplete i c e && epoch == (s.ten i).commit.committed && s.droot e == droot then
        ((s.takeOver i c e epoch droot).answerOffer i f 2).follow i
      else
        let rebuilt := (s.ten i).bg.subject.isSome && e.state == .loading
        let s := if rebuilt then
            (s.updBg i fun b => { b with
              records := b.records.filter fun r => r.ctx != some c, verified := b.verified.filter fun x => x.1 != c
              pending := b.pending.filter fun x => x.1 != c }).raiseT i 0xDC c
          else s
        s.answerOffer i f 3)

/-- Offers of an entry to an address ended. -/
def State.endOffer (s : State) (i : Fin 64) (ctx : Nat) (a : Addr) : State :=
  s.updCtx fun c => { c with offers := c.offers.filter fun o => !(o.tidx == i && o.ctx == ctx && o.dst == a) }

/-- HANDOVER_TAKEN (R88, R99): the old owner's entry becomes FREE. -/
def execHandoverTaken (f : Rx) (s : State) : Out :=
  .next (s.receive f { typ := 0x70, ok2 := handoverOk f 2, ok3 := f.len == 32 } fun s i =>
    let c := tField f 12 16
    let own := s.ctx.offers.any fun o => o.own && o.tidx == i && o.ctx == c && o.dst == f.src
    let s := s.endOffer i c f.src
    match s.entry c with
    | some e =>
      if own && e.state == .active && e.tenant == s.tagOf i && e.coord 0 == leField f.payload 0 8 && e.lenp == tField f 28 24 then
        (s.freeRegion c).follow i
      else s
    | none => s)

/-- HANDOVER_REFUSED (R99): the offer ends, the old entry unchanged. -/
def execHandoverRefused (f : Rx) (s : State) : Out :=
  .next (s.receive f { typ := 0x70, ok2 := handoverOk f 3, ok3 := f.len == 32 } fun s i => s.endOffer i (tField f 12 16) f.src)

/-! ## Starts and timers (R256, R261, R268, R270 to R272, R279) -/

/-- Whether the regions of a target are there for its Badger (R256, R273): each is LOADING, or was handed over before, and a
slot with planned data has one (log entry 185). -/
def State.regionsStand (s : State) (i : Fin 64) : Bool :=
  let es := s.entriesOf (s.tagOf i)
  (es.all fun p => p.2.state == .loading || p.2.state == .active) &&
    (!es.isEmpty || (s.usedSlots i).all fun k => (s.slot k).dcap == 0)

/-- BADGER_START (R256): every slot has left FORMING, every region is LOADING, a decision has been applied. -/
def execBadgerStart (tidx : Fin 64) (s : State) : Out :=
  let t := s.ten tidx
  .next (if t.env.isSome && t.bg.state == .setup && t.bg.decided && t.fox.self == .member && decide (s.flt.mode = .normal) &&
      !(s.usedSlots tidx).isEmpty && ((s.settSlots tidx).all fun k => (s.slot k).st != .forming) && s.regionsStand tidx then
    let es := (s.entriesOf (s.tagOf tidx)).map (·.1)
    ((s.updBg tidx fun b => { b with state := .demand, filling := es }).bgSettle tidx).follow tidx
  else s)

/-- Queued repairs that cannot proceed, with event 0xDA: the region of a data panel is contained, and the repair is tried
again after a KIND 0x5 update, of the panel, or, where the region was sealed, with the whole region (R272). -/
def State.dropRepairs (s : State) (i : Fin 64) : State :=
  s.badger.repairs.foldl (fun s x =>
    match x with
    | .data c q =>
      match s.entry c with
      | some e =>
        let key := (e.slot.val, false, e.spanel + q)
        if e.tenant == s.tagOf i && !(s.slot e.slot.val).reparable false (e.spanel + q) && !s.badger.unresolved.contains key then
          let s := s.updBadger fun b =>
            if e.sealed then { b with repairs := b.repairs.filter (· != x) } else { b with unresolved := addOnce key b.unresolved }
          (s.raise { code := 0xDA, level := 2, tenant := s.tagOf i, detail := c }).contain c
        else s
      | none => s.updBadger fun b => { b with repairs := b.repairs.filter (· != x) }
    | .parity k p =>
      if s.ownsSlot i k && !s.badger.unresolved.contains (k, true, p) && !(s.slot k).reparable true p then
        (s.updBadger fun b => { b with unresolved := addOnce (k, true, p) b.unresolved }).raiseT i 0xDA Config.ctxEntries
      else s) s

/-- Whether Badger works: it is not in reset, and the instance runs. -/
def State.badgerWorks (s : State) : Bool := decide (s.flt.mode = .normal) && !s.flt.inReset.contains .badger

/-- Whether Badger may start a run: it works, and DEPTH leaves room (R264). -/
def State.badgerFree (s : State) : Bool := s.badgerWorks && decide (s.badger.runs.length < s.cfg.glob.depth)

/-- BADGER_RUN_REQUEST (R261, R264, R268, R272): of the runs that wait and the next new ones, the first in order; a repair
goes before every phase, and HOLD keeps the later two back. -/
def execBadgerRunRequest (tidx : Fin 64) (s : State) : Out :=
  let t := s.ten tidx
  if t.env.isNone || !s.badgerFree || t.commit.vstate == .none || t.fox.self == .fenced then .next s
  else
    let s := s.dropRepairs tidx
    let going := t.bg.state != .idle && t.bg.state != .setup && t.bg.state != .complete
    let rs := (s.badger.wait.filter fun r => r.tidx == tidx && !s.heldRun r) ++ (s.nextRepair tidx).take 1 ++
      if going then (s.nextRebuild tidx).take 1 else []
    .next (match s.firstRun (rs.filter s.mayStart) with
      | some r => s.startRun r
      | none => s)

/-- BADGER_RTO in ns. -/
def State.rtoBadger (s : State) : Nat := s.cfg.glob.rto * 1000

/-- BADGER_RTO_TARGET (R29, R271): BADGER_RTO after a run's requests, its unverified panels are asked for in a new one, counter
0xD8. -/
def execBadgerRtoTarget (tidx : Fin 64) (panel : Nat) (s : State) : Out :=
  .next (match s.badger.runs.find? fun r => r.tidx == tidx && r.first == panel with
    | some r => if s.badgerWorks then ((s.reach r.since s.rtoBadger).rerequest r r.epoch).count 0xD8 else s
    | none => s)

/-- BADGER_RTO_HELPER (R29, R66, R271, R310): BADGER_RTO after a request was accepted, its entry of the request table and its
reservation are freed; the table holds rebuild and Render requests first, then audit runs, whose end lets a vote held late
go. -/
def execBadgerRtoHelper (entry : Nat) (s : State) : Out :=
  let n := s.badger.helps.length
  match s.badger.helps[entry]?, s.audit.helps[entry - n]? with
  | some h, _ => .next ((s.reach h.since s.rtoBadger).updBadger fun b => { b with helps := b.helps.eraseIdx entry })
  | none, some h =>
    let s := s.reach h.since s.rtoBadger
    .next (({ s with audit := { s.audit with helps := s.audit.helps.eraseIdx (entry - n) } } : State).follow h.tidx)
  | none, none => .next s

/-- COMPLETION_RECORD_REPEAT (R29, R270): sent again 100 µs after the last time; event 0xDE once after 64 repeats. -/
def execCompletionRecordRepeat (tidx : Fin 64) (ctx : Option Nat) (s : State) : Out :=
  .next (((s.ten tidx).bg.records.filter fun r => r.ctx == ctx).foldl (fun s r =>
    let s := s.reach r.since 100000
    let s := s.updBg tidx fun b => { b with records := b.records.map fun x =>
      if x = r then { x with sent := x.sent + 1, since := s.time.now } else x }
    (if r.sent = 64 then s.raiseT tidx 0xDE else s).sendRecord tidx r) s)

/-- BG_RETRY (R267, R276): every unresolved panel is asked for again; HOLD takes the value written. -/
def execBgRetry (a : Acc) (hold : Bool) (s : State) : Out :=
  .next (s.window a 0x5820 true fun s =>
    let s := s.updBadger fun b => { b with hold := hold, unresolved := [] }
    tenantIdxs.foldl (fun s i => s.bgSettle i) s)

/-- RENDER_REQUEST (R279, R280, R281): the holder of a parity row starts a Render run from a parity panel on, over panels
that are neither asked for nor verified. -/
def execRenderRequest (r : RunSel) (s : State) : Out :=
  match s.slotTenant r.slot with
  | none => .next s
  | some i =>
    if h : r.slot < 16 then
      let d := (s.slot r.slot).sett
      let open_ (p : Nat) : Bool := decide (p < d.q) && !s.inRun r.slot true p && !(s.ten i).rs.rendered.contains (r.slot, p)
      if !(s.ten i).rs.sealing || !s.badgerFree || (s.slot r.slot).kind ≠ .sett || !open_ r.first ||
          !s.mayBegin r.slot true r.first then .next s
      else
        let n := ((List.range (max 1 s.cfg.glob.run)).takeWhile fun j => open_ (r.first + j * max 1 d.m)).length
        let rs := s.mkRuns i .render ⟨r.slot, h⟩ (d.k + r.first % max 1 d.m) (s.ten i).rs.boundary false n r.first n
        .next ((rs.take 1).foldl State.sendRun s)
    else .next s

end Sys2Proof.Machine
end

