-- ==== Sys2Proof/Machine/Loader.lean ====
section
/-! DEFINITION. The configuration loader: the image at reset, its distribution over the lath, the feed, bundles and the
switch (R345, R348, R349, R357, R359, R360). -/

namespace Sys2Proof.Machine

/-- The state with the loader changed. -/
def State.updLoader (s : State) (f : LoaderS → LoaderS) : State := { s with loader := f s.loader }

/-- The port to the flash given back (R373). -/
def State.releaseFlash (s : State) : State := { s with power := { s.power with xspiOwn := false } }

/-- The instance left UNCONFIGURED (R348, R349). -/
def State.unconfigured (s : State) : State :=
  (s.releaseFlash).updLoader fun l => { l with state := .unconfigured, candidate := none, answers := [] }

/-- No copy taken: event 0x29 (R348). -/
def State.noCopy (s : State) : State := s.unconfigured.raise { code := 0x29 }

/-- The candidate applied at this instance (R348): partition written, span set, PROGRAM in bank 0, event 0x2E. -/
def State.applyCandidate (s : State) (copy : Bool) : State :=
  match s.loader.candidate with
  | none => s
  | some o =>
    let r := recordOf o s.power.inst
    let b : Bank := { st := .valid, image := imageOf r.program, digest := sha256 r.program
                      used := imageEntries (imageOf r.program) }
    let s : State := { s with ib := { s.ib with bank0 := b, bank1 := {}, current := false } }
    let s := ((s.putPool false b.image).activate r).releaseFlash.updLoader fun l => { l with
      candidate := none, answers := [], feed := [], copy := copy, result := 0, svn := r.svn }
    let s := if b.image.progs.any saltRepeats then s.raise { code := 0x7E } else s
    s.raise { code := 0x2E }

/-- The other INSTs of the candidate's image. -/
def State.awaited (s : State) : List Nat :=
  match s.loader.candidate with
  | some o => (((sectTable o.bytes).filter fun x => x.typ == 2).map (·.inst)).filter (· != s.power.inst.toNat)
  | none => []

/-- Distribution given up for this copy: copy B is next; after it, or with a fed image in place of the copies, no copy is
left (R348, R349). -/
def State.nextCopy (s : State) (result : Nat) : State :=
  let s := s.updLoader fun l => { l with candidate := none, answers := [], silent := [], result := BitVec.ofNat 8 result }
  if s.loader.fed || s.loader.reading then (s.lathSend .noneTaken).noCopy
  else s.updLoader fun l => { l with reading := true }

/-- The chip takes the copy once every awaited instance has accepted or been left out; one refusal moves on (R348). -/
def State.concludeCopy (s : State) : State :=
  match s.loader.candidate with
  | none => s
  | some _ =>
    if s.loader.answers.any fun p => !p.2 then s.nextCopy 0x07
    else if s.awaited.all fun i =>
        (s.loader.answers.any fun p => p.1.toNat == i) || s.loader.silent.contains (BitVec.ofNat 4 i) then
      let copy := s.loader.reading || s.loader.fed
      let s := if s.loader.reading && !s.loader.fed then s.raise { code := 0x28 } else s
      (s.lathSend (.taken copy)).applyCandidate copy
    else s

/-- An object judged by the chip manager and, where it passes, distributed (R343, R347, R348). -/
def State.judgeCopy (s : State) (o : ObjRead) : State :=
  let half := if s.loader.density = 0 then 2 ^ 24 else s.loader.density.toNat * 32768
  let r := s.objectResult o 1 (min (2 ^ 24) half)
  if r ≠ 0 then
    let detail := if r = 0x0C then o.addr.toNat + bit s.loader.reading 32 else 0
    (s.raise { code := resultEvent r, detail := detail }).nextCopy r
  else
    match s.contentFault o true with
    | some (code, detail) => (s.raise { code := code, detail := detail }).nextCopy 0x07
    | none =>
      let s := s.updLoader fun l => { l with candidate := some o, answers := [], silent := [], distAt := s.time.now }
      (s.lathSend (.distribute o)).concludeCopy

/-- ML_RESET_RELEASE (R345, R346, R371, R378): straps sampled, the loader started; without SFDP discovery (0x20) or with
an invalid owner strap (0x2F) as the rules give. In test mode with MNL_TEST_EN high nothing loads. -/
def execMlResetRelease (owner : BitVec 384) (flash : Bool) (inst : BitVec 4) (testEn : Bool) (sfdp : Sfdp) (s : State) :
    Out :=
  if s.power.released || !s.power.rails then .next s
  else
    let s : State := { s with power := { s.power with
      released := true, releasedAt := s.time.now, isolated := false, testEn := testEn, testOpen := s.power.testOpen && testEn, owner := owner
      flash := flash, inst := inst, xspiOwn := flash } }
    if s.power.testOpen then .next s
    else
      let bad := decide (owner = 0) || decide (owner = ~~~(0 : BitVec 384))
      let found := sfdp.signature && sfdp.basicTable && sfdp.xspiTable
      let s := s.updLoader fun l => { l with
        ownerBad := bad, state := .loading, sfdpOk := flash && found
        density := if flash ∧ sfdp.basicTable then BitVec.ofNat 32 (sfdp.density / 65536) else 0
        mhz := if flash ∧ found then BitVec.ofNat 8 (min 200 sfdp.maxMHz) else 0 }
      let s := if bad then s.raise { code := 0x2F } else s
      .next (if flash && !found then (s.raise { code := 0x20 }).unconfigured else s)

/-- FLASH_COPY_LOADED (R348): the chip manager judges the copy read. -/
def execFlashCopyLoaded (o : ObjRead) (s : State) : Out :=
  .next (if s.power.released && s.power.flash && s.loader.state == .loading && s.loader.candidate.isNone && !s.loader.applied
    then s.judgeCopy o else s)

/-- An answer to the distribution taken. -/
def State.takeAnswer (s : State) (inst : BitVec 4) (accept : Bool) : State :=
  if s.loader.candidate.isNone || s.loader.applied || !s.power.flash then s
  else (s.updLoader fun l => { l with answers := l.answers.filter (fun p => p.1 != inst) ++ [(inst, accept)] }).concludeCopy

/-- DISTRIBUTION_ANSWER (R348). -/
def execDistributionAnswer (inst : BitVec 4) (accept : Bool) (s : State) : Out := .next (s.takeAnswer inst accept)

/-- DISTRIBUTION_TIMEOUT (R348): an instance without an answer is left UNCONFIGURED, event 0x2A. -/
def execDistributionTimeout (inst : BitVec 4) (s : State) : Out :=
  .next (if s.loader.candidate.isNone || s.loader.applied || !s.power.flash || (s.loader.answers.any fun p => p.1 == inst)
    then s
    else (((s.reach s.loader.distAt 100000000).updLoader fun l => { l with silent := addOnce inst l.silent }).raise
      { code := 0x2A, unit := inst.toNat }).concludeCopy)

/-- LATH_CONFIG_TIMEOUT (R348): nothing has come over the lath within 2 s of the release. -/
def execLathConfigTimeout (s : State) : Out :=
  .next (if s.power.released && !s.power.flash && s.loader.state == .loading && s.loader.candidate.isNone
    then (s.reach s.power.releasedAt 2000000000).unconfigured else s)

/-- The distributed image reaches another instance: it is checked and answered (R348). -/
def State.receiveImage (s : State) (o : ObjRead) : State :=
  if s.loader.applied || s.power.flash then s
  else
    match s.contentFault o true with
    | some (code, detail) =>
      (s.raise { code := code, detail := detail }).lathSend (.answer s.power.inst false)
    | none => (s.updLoader fun l => { l with candidate := some o, state := .loading }).lathSend (.answer s.power.inst true)

/-! ## The feed (R349) -/

/-- FEED_BEGIN (R349): at an unconfigured chip manager only; refused elsewhere under R329. -/
def execFeedBegin (a : Acc) (s : State) : Out :=
  if !s.portsUp then .next s
  else if !fromSystem a || s.configured || s.flt.mode == .resetting || !s.power.flash || s.loader.state == .loading then .next (s.refuse a.id 0x7008)
  else .next ((s.updLoader fun l => { l with op := 5, state := .feeding, feed := [], fed := true, result := 0 }).ok a.id)

/-- The feed ended with a RESULT; the instance is UNCONFIGURED again. -/
def State.failFeed (s : State) (result : Nat) : State :=
  (s.updLoader fun l => { l with state := .unconfigured, feed := [], result := BitVec.ofNat 8 result }).raise
    { code := resultEvent result }

/-- CF_FEED (R349): the next 8 bytes; beyond 16 MiB and 256 bytes the feed ends with FORMAT. -/
def execCfFeed (a : Acc) (data : Word) (s : State) : Out :=
  if !s.portsUp then .next s
  else if !fromSystem a || s.configured || s.flt.mode == .resetting || !s.power.flash then .next (s.refuse a.id 0x7020)
  else if s.loader.state ≠ .feeding then .next ((s.updLoader fun l => { l with result := 0x0B }).ok a.id)
  else
    let s := (s.updLoader fun l => { l with feed := l.feed ++ leBytes 8 data.toNat }).ok a.id
    .next (if 2 ^ 24 + 256 < s.loader.feed.length then s.failFeed 0x02 else s)

/-- FEED_END (R343, R349): the fed object judged and distributed in place of the copies; bytes beyond the trailer's last
group of 8 make its LENGTH wrong. -/
def execFeedEnd (a : Acc) (content : Content) (s : State) : Out :=
  if !s.portsUp then .next s
  else if !fromSystem a || s.configured || s.flt.mode == .resetting || !s.power.flash then .next (s.refuse a.id 0x7008)
  else if s.loader.state ≠ .feeding then .next (s.updLoader (fun l => { l with op := 6, result := 0x0B }) |>.ok a.id)
  else
    let s := (s.updLoader fun l => { l with op := 6 }).ok a.id
    let len := leField s.loader.feed 8 4
    let bytes := if s.loader.feed.length < len + 264 then s.loader.feed.take len else s.loader.feed
    let o : ObjRead := { readOk := true, bytes := bytes, trailer := slice s.loader.feed len 256, content := content }
    .next ((s.updLoader fun l => { l with state := .loading }).judgeCopy o)

/-! ## Bundles (R357 to R359) -/

/-- A loader command answered with a RESULT and nothing else. -/
def State.cfResult (s : State) (a : Acc) (op : BitVec 4) (r : Nat) : State :=
  (s.ok a.id).updLoader fun l => { l with op := op, result := BitVec.ofNat 8 r }

/-- The RESULT, event and DETAIL of a bundle at STAGE: checks 1 to 10 of R343 (R344: a bundle-signed object may not
change KEYS). -/
def State.stageResult (s : State) (o : ObjRead) : Nat × Nat × Nat :=
  let r := s.objectResult o 2 (2 ^ 20)
  if r ≠ 0 then (r, resultEvent r, if r = 0x0C then o.addr.toNat else 0)
  else
    let rec_ := recordOf o s.power.inst
    if leField o.trailer 4 1 ≠ 0 ∧ rec_.keysBytes ≠ s.cfg.keysBytes then (0x03, 0x24, 0)
    else if leField o.bytes 12 4 ≠ s.self.toNat then (0x06, 0x2B, 0)
    else
      match s.contentFault o false with
      | some (code, detail) => (0x07, code, detail)
      | none =>
        let b := s.bundleResult rec_ true
        if b ≠ 0 then (b, 0x2B, 0) else (0, 0, 0)

/-- CF_STAGE (R303, R357): the bundle at MNL_CF_SRC read once, verified and checked into the shadow; a refused one leaves
the shadow as it was. Refused under R9 at an unconfigured instance, without NQ_TAG 0x0000 or where its range breaks
R303. -/
def execCfStage (a : Acc) (readOk : Bool) (content : Content) (s : State) : Out :=
  if !s.portsUp then .next s
  else if !fromSystem a || !s.windowOpen 0x7008 || !s.rangeOk 6 s.loader.src.toNat (s.loader.len.toNat + 256) then
    .next (s.refuse a.id 0x7008)
  else if s.loader.shadowState = .armed ∨ s.loader.takenBy.isSome then .next (s.cfResult a 1 0x0B)
  else
    let len := s.loader.len.toNat
    let o : ObjRead := { readOk := readOk, bytes := s.bytesAt s.loader.src.toNat len
                         trailer := s.bytesAt (s.loader.src.toNat + len) 256, content := content }
    let r := s.stageResult o
    let s := s.cfResult a 1 r.1
    if r.1 ≠ 0 then .next (s.raise { code := r.2.1, detail := r.2.2 })
    else
      let rec_ := { recordOf o s.power.inst with ninst := s.cfg.ninst, program := s.cfg.program }
      .next (s.updLoader fun l => { l with
        shadow := some rec_, shadowState := .staged, svn := rec_.svn })

/-- The tenants an armed switch affects (R360). -/
def State.affectedBy (s : State) (r : Record) : List (Fin 64) :=
  let a := s.cfg
  let strip (x : Record) : InstSect := { x.inst with kinds := [], alloc := [] }
  let all := !(decide (a.glob = r.glob) && decide (strip a = strip r))
  tenantIdxs.filter fun i =>
    match a.envOf i, r.envOf i with
    | none, none => false
    | some x, some y =>
      all || decide (x ≠ y) || (List.range 16).any fun k => x.slotMask.getLsbD k && decide (a.slotView k ≠ r.slotView k)
    | _, _ => true

/-- CF_ARM (R359, R360). -/
def execCfArm (a : Acc) (s : State) : Out :=
  if !s.portsUp then .next s
  else if !fromSystem a || !s.windowOpen 0x7008 then .next (s.refuse a.id 0x7008)
  else
    match s.loader.shadow, s.loader.shadowState with
    | some r, .staged =>
      if tenantIdxs.any fun i => (s.ten i).rs.state == .armed || (s.ten i).rs.state == .moving || (s.ten i).rs.state == .sealing
      then .next (s.cfResult a 2 0x0B)
      else .next ((s.cfResult a 2 0).updLoader fun l => { l with
        shadowState := .armed, affected := s.affectedBy r, armedAt := s.time.now })
    | _, _ => .next (s.cfResult a 2 0x0B)

/-- Tenants parked at the switch take the step they hold (R224, R360). -/
def State.unparkTenants (s : State) : State :=
  tenantIdxs.foldl (fun s i =>
    if (s.ten i).commit.parked then ((s.updCommit i fun c => { c with parked := false }).tryOpen i).unpark else s) s

/-- The switch abandoned: event 0x2D, the shadow STAGED again with RESULT set (R360). -/
def State.abandonSwitch (s : State) (result : Nat) : State :=
  let s := s.updLoader fun l => { l with shadowState := .staged, affected := [], result := BitVec.ofNat 8 result }
  (s.raise { code := 0x2D }).unparkTenants

/-- CF_DISARM (R360). -/
def execCfDisarm (a : Acc) (s : State) : Out :=
  if !s.portsUp then .next s
  else if !fromSystem a || !s.windowOpen 0x7008 then .next (s.refuse a.id 0x7008)
  else if s.loader.shadowState ≠ .armed then .next (s.cfResult a 3 0x0B)
  else .next ((s.cfResult a 3 0).abandonSwitch 0)

/-- CF_DISCARD (R357). -/
def execCfDiscard (a : Acc) (s : State) : Out :=
  if !s.portsUp then .next s
  else if !fromSystem a || !s.windowOpen 0x7008 then .next (s.refuse a.id 0x7008)
  else if s.loader.shadowState ≠ .staged ∨ s.loader.takenBy.isSome then .next (s.cfResult a 4 0x0B)
  else .next ((s.cfResult a 4 0).updLoader fun l => { l with shadow := none, shadowState := .empty })

/-- Checks 8 to 10 of R343 again, against what runs at the switch: RESULT, 0 for none. Of check 8 only the groups that the
commit trees hold may have changed since STAGE. -/
def State.switchResult (s : State) (r : Record) : Nat :=
  if s.groupsFit r then s.bundleResult r false else 0x07

/-- CONFIG_SWITCH (R360): with every affected tenant that has a sealed epoch parked, checks 8 to 10 again, then the two
records change places in one step and the parked tenants go on. -/
def execConfigSwitch (s : State) : Out :=
  match s.loader.shadow, s.loader.shadowState with
  | some r, .armed =>
    if !(s.loader.affected.all fun i => !(s.ten i).sealed || (s.ten i).commit.parked) then .next s
    else
      let b := s.switchResult r
      if b ≠ 0 then .next (s.abandonSwitch b)
      else
        let old := s.cfg
        let s := (s.activate r).updLoader fun l => { l with
          shadow := some old, shadowState := .staged, affected := [], result := 0 }
        .next ((s.raise { code := 0x2C }).unparkTenants)
  | _, _ => .next s

/-- SWITCH_WAIT_EXPIRY (R360). -/
def execSwitchWaitExpiry (s : State) : Out :=
  .next (if s.loader.shadowState = .armed then
      (s.reach s.loader.armedAt (s.cfg.glob.switchWait * 1000000)).abandonSwitch 0x0B
    else s)

end Sys2Proof.Machine
end

