-- ==== Sys2Proof/Machine/Endpoint.lean ====
section
/-! DEFINITION. The fabric endpoint's commands: injection, throttle, group setup, retransmission and the route control
(R62, R64, R65, R68 to R72, R80 to R83, R395). -/

namespace Sys2Proof.Machine

/-- The state with the endpoint changed. -/
def State.updEp (s : State) (f : EpS → EpS) : State := { s with ep := f s.ep }

/-- EI_READY[3:0] (R60, R62, R67): held high while the isolation cells clamp it and while the endpoint is in use or in
reset; no transfer in the memory-and-links reset. A command takes its frame whole, so no ingress staging is ever full at
its end (log entry 176). -/
def State.eiReady (s : State) : BitVec 4 := if s.power.isolated || s.power.released then 0xF else 0

/-- Whether the endpoint offers frames at all (R62). -/
def State.endpointUp (s : State) : Bool :=
  s.portsUp && s.configured && s.flt.mode != .resetting && !s.flt.inReset.contains .endpoint

/-! ## Injection (R64, R65) -/

/-- Bytes of a frame on the wire. -/
def OutFrame.bytes (f : OutFrame) : Nat := 32 + f.payload.length

/-- Whether a waiting frame is the update by which a leader gave up its own place: it still leaves, as what it was issued
for (R243). -/
def State.ownEviction (s : State) (f : OutFrame) : Bool :=
  f.typ == 0x70 && f.subtype == 0x04 && s.mayInject &&
    match s.tenantOf f.tenant with
    | some i => s.issuer i == some (leField f.payload 0 4 % 4) && leField f.payload 0 4 == (s.ten i).fox.gen.toNat
    | none => false

/-! ## Frames outstanding (R68) -/

/-- The engines of R68 that send requests; the skim injector's limit is `injectorFree`'s. -/
inductive Engine where
  | badger
  | audit
  | render
  | control
  deriving DecidableEq, Repr

/-- The engine whose request a frame is; none where it awaits no response. -/
def OutFrame.engine (f : OutFrame) : Option Engine :=
  if f.typ = 0x40 then some (if f.tr = 127 then .render else .badger)
  else if f.typ = 0x50 then some .audit
  else if f.typ = 0x60 then some .render
  else if f.typ = 0x52 ∧ f.t.toNat / 2 ^ 33 % 16 = 15 ∧ f.t.toNat % 2 ^ 23 = 0x7FFFFF then some .control
  else if f.typ = 0x10 then some .control
  else if f.typ = 0x70 ∧ ((f.subtype = 5 ∧ f.t.toNat / 2 ^ 8 % 16 = 1) ∨ f.subtype = 6 ∨ (f.subtype = 3 ∧ f.t.toNat / 2 ^ 8 % 16 = 2)) then
    some .control
  else none

/-- The requests of an engine that await their responses, sent or not: the runs at their helpers, the offers, records,
witness queries, status query and solicitations that nobody has answered. -/
def State.engineAwaited (s : State) (e : Engine) : Nat :=
  let runs (p : RunKind → Bool) : Nat := ((s.badger.runs.filter fun r => p r.kind).map fun r => r.helpers.length).sum
  match e with
  | .badger => runs (· != .render)
  | .render => runs (· == .render) + (tenantIdxs.map fun i => ((s.ten i).rs.dests.filter fun d => !d.done).length).sum
  | .audit => s.audit.runs.length * ((s.slot s.audit.slot.toNat).sett.rows.length - 1)
  | .control =>
    s.ctx.offers.length + (tenantIdxs.map fun i => (s.ten i).bg.records.length).sum +
      (s.watch.map fun w => match w.round with | some r => r.asked.length - r.missing.length | none => 0).sum +
      (if s.flt.qAsked then 1 else 0) +
      (tenantIdxs.map fun i =>
        (if (s.ten i).commit.podM = .solicit then treeParts (s.treeMembers i false).length else 0) +
          if (s.ten i).commit.jobM = .solicit then treeParts (s.treeMembers i true).length else 0).sum

/-- The frames of an engine outstanding: awaited, and no longer waiting to be injected (R68). -/
def State.engineOut (s : State) (e : Engine) : Nat :=
  s.engineAwaited e - ((s.ep.ctrlQ ++ s.ep.badgerQ).filter fun f => f.engine == some e).length

/-- Whether the limit of R68 lets a frame go: one that would exceed it waits in its engine. -/
def State.engineFree (s : State) (f : OutFrame) : Bool :=
  match f.engine with
  | none => true
  | some e => decide (s.engineOut e < Config.maxOutstanding)

/-- Whether a frame may leave now: formed under a state that still lets it out, to a group the host has confirmed
(R69), inside its engine's limit (R68), and after the SYNC query its tenant owes (R326). -/
def State.eligibleFrame (s : State) (f : OutFrame) : Bool :=
  (s.mayForm f || s.ownEviction f) && s.engineFree f &&
    (match f.dst with
     | .member _ => true
     | .group h => s.ep.groups.any fun g => g.handle == h && g.setup == .confirmed && !g.deleting) &&
    (f.isSync || !(s.ep.syncOwed.any fun i => s.tagOf i == f.tenant))

/-- The first frame of a channel that may leave. -/
def State.headOf (s : State) (q : List OutFrame) : Option OutFrame := q.find? s.eligibleFrame

/-- CONTROL bytes of the last microsecond. -/
def State.ctrlRecent (s : State) : Nat :=
  ((s.ep.ctrlSent.filter fun p => decide ((s.time.now - p.1).toNat < 1000)).map (·.2)).sum

/-- The throttle level that governs a frame begun now: that of the last change 100 ns back or more (R65). -/
def State.throttle (s : State) : Nat :=
  (s.ep.htNext.foldl (fun l p => if p.2 ≤ s.time.now then p.1 else l) s.ep.htOld).toNat

/-- Host time in 1/1024 ns. -/
def State.fineNow (s : State) : Nat := s.time.now.toNat * 1024

/-- What a frame of `n` bytes costs at `r` bytes per ns, in 1/1024 ns. -/
def costAt (n r : Nat) : Nat := (n * 1024 + r - 1) / max 1 r

/-- What a frame of `n` bytes costs under a cap of `r` units of 0.25 GB/s; no cap costs nothing. -/
def capCost (n r : Nat) : Nat := if r = 0 then 0 else (n * 4096 + r - 1) / r

/-- A queue without the first occurrence of a frame. -/
def dropFrame (q : List OutFrame) (f : OutFrame) : List OutFrame := q.erase f

/-- Whether a waiting SKIM frame is a record's, for one addressee or for all. -/
def State.copyOf (s : State) (r : HawkRec) (f : OutFrame) : Bool :=
  (match s.slotTenant r.slot.val with | some i => f.tenant == s.tagOf i | none => false) && f.t == BitVec.ofNat 64 r.tword

/-- Whether a copy of a record still waits to be sent to an addressee: its deadline does not run yet (R80). -/
def State.copyWaits (s : State) (r : HawkRec) (a : Addr) : Bool :=
  (s.ep.resumeQ ++ s.ep.skimQ).any fun f =>
    s.copyOf r f && (match f.dst with | .member b => b == a | .group _ => true)

/-- What an addressee's wait is after so many retransmissions: it doubles up to 8 × RTO_SKIM (R80). -/
def State.waitNs (s : State) (tries : Nat) : Nat := s.rtoNs * min 8 (2 ^ min 3 tries)

/-- The deadlines of a SKIM frame's addressees, which run from its sending (R80). -/
def State.startDeadlines (s : State) (f : OutFrame) : State :=
  let hit (o : Owed) : Bool := match f.dst with | .member a => o.addr == a | .group _ => true
  { s with hawk := { s.hawk with recs := s.hawk.recs.map fun r =>
      if r.st == .out && s.copyOf r f then
        { r with owed := r.owed.map fun o =>
            if hit o then { o with due := s.time.now + BitVec.ofNat 64 (s.waitNs o.tries) } else o }
      else r } }

/-- A CONTROL frame injected. -/
def State.injectCtrl (s : State) (f : OutFrame) : State :=
  let owed := s.ep.syncOwed.filter fun i => !(f.isSync && s.tagOf i == f.tenant)
  s.updEp fun e => { e with
    ctrlQ := dropFrame e.ctrlQ f, eo := e.eo ++ f.beats s.self, syncOwed := owed
    ctrlSent := (e.ctrlSent.filter fun p => decide ((s.time.now - p.1).toNat < 1000)) ++ [(s.time.now, f.bytes)]
    bulkFree := max e.bulkFree s.fineNow + costAt f.bytes 448 }

/-- A SKIM or BADGER frame injected: the ceiling of R23 under the throttle, and its channel's cap. A marked copy is taken
from its own queue. -/
def State.injectBulk (s : State) (skim : Bool) (f : OutFrame) : State :=
  let t := s.fineNow
  let s := if skim then s.startDeadlines f else s
  s.updEp fun e =>
    let e := { e with eo := e.eo ++ f.beats s.self, bulkFree := t + costAt f.bytes (28 * (16 - s.throttle)) }
    if skim then
      { e with skimQ := if e.resumeQ.contains f then e.skimQ else dropFrame e.skimQ f
               resumeQ := dropFrame e.resumeQ f, skimFree := t + capCost f.bytes e.rateSkim.toNat }
    else { e with badgerQ := dropFrame e.badgerQ f, badgerFree := t + capCost f.bytes e.rateBadger.toNat }

/-- Cost of a frame in the round robin, in 64-byte units. -/
def OutFrame.units (f : OutFrame) : Nat := (f.bytes + 63) / 64

/-- Rounds a channel waits until its deficit covers a cost. -/
def roundsFor (need deficit weight : Nat) : Nat := (need - deficit + max 1 weight - 1) / max 1 weight

/-- The deficit round robin between a SKIM and a BADGER frame that both wait (R64): the one covered first goes, SKIM
where both are. -/
def State.roundRobin (s : State) (a b : OutFrame) : State :=
  let ws := s.ep.wSkim.toNat
  let wb := s.ep.wBadger.toNat
  let rs := roundsFor a.units s.ep.defSkim ws
  let rb := roundsFor b.units s.ep.defBadger wb
  let n := min rs rb
  let skim := decide (rs ≤ rb)
  let s := s.updEp fun e => { e with
    defSkim := e.defSkim + n * ws - (if skim then a.units else 0)
    defBadger := e.defBadger + n * wb - (if skim then 0 else b.units) }
  if skim then s.injectBulk true a else s.injectBulk false b

/-- Whether marked copies wait that may leave: normal injection has not resumed yet (R83). -/
def State.resuming (s : State) : Bool := (s.headOf s.ep.resumeQ).isSome

/-- FRAME_INJECT (R61, R64, R65, R83): on the channels whose EO_READY bit is high, CONTROL within its budget first, then,
once the copies marked in a route change are out, SKIM and BADGER in the ratio of their weights, under their caps and the
ceiling. -/
def execFrameInject (x : InjectAt) (s : State) : Out :=
  let s := if s.power.released then s.at_ x.now else s
  if !s.endpointUp then .next s
  else
    match s.headOf s.ep.ctrlQ, x.ready.getLsbD 2 && decide (s.ctrlRecent < s.cfg.glob.ctrlRate * 1000) with
    | some f, true => .next (s.injectCtrl f)
    | _, _ =>
      let bulk := s.ep.route == .idle && decide (s.ep.bulkFree ≤ s.fineNow)
      let a := if bulk && x.ready.getLsbD 0 && decide (s.ep.skimFree ≤ s.fineNow) then
          s.headOf (if s.resuming then s.ep.resumeQ else s.ep.skimQ)
        else none
      let b := if bulk && x.ready.getLsbD 1 && !s.resuming && decide (s.ep.badgerFree ≤ s.fineNow) then s.headOf s.ep.badgerQ
        else none
      let s := s.updEp fun e => { e with
        defSkim := if e.skimQ.isEmpty then 0 else e.defSkim, defBadger := if e.badgerQ.isEmpty then 0 else e.defBadger }
      match a, b with
      | some f, some g => .next (s.roundRobin f g)
      | some f, none => .next (s.injectBulk true f)
      | none, some g => .next (s.injectBulk false g)
      | none, none => .next s

/-- HT_LEVEL_CHANGE (R65): the level governs frames begun 100 ns or more after it. -/
def execHtLevelChange (level : BitVec 4) (now : BitVec 64) (s : State) : Out :=
  if !s.portsUp then .next s
  else
    let s := s.at_ now
    .next (s.updEp fun e => { e with
      ht := level, htOld := BitVec.ofNat 4 s.throttle
      htNext := (e.htNext.filter fun p => decide (s.time.now < p.2)) ++ [(level, s.time.now + 100)] })

/-! ## Outstanding frames (R68, R80) -/

/-- Whether a skim frame has been injected: some addressee's copy no longer waits on its channel. -/
def State.injected (s : State) (r : HawkRec) : Bool := r.owed.any fun o => 0 < o.tries || !s.copyWaits r o.addr

/-- Skim frames outstanding: injected and not acknowledged by every addressee. -/
def State.skimOutstanding (s : State) : List HawkRec :=
  s.hawk.recs.filter fun r => r.st == .out && !r.owed.isEmpty && s.injected r

/-- BADGER frames outstanding: the requests of rebuild, Render and audit runs not answered yet. -/
def State.badgerOutstanding (s : State) : Bool := !s.badger.runs.isEmpty || !s.audit.runs.isEmpty

/-- A deadline of an addressee that has passed: a unicast copy goes out with RETX set; the addressee that has left 16
retransmissions without acknowledgement is reported unreachable (R80). -/
def State.retransmit (s : State) (i : Fin 64) (r : HawkRec) (a : Addr) : State :=
  match r.owed.find? fun o => o.addr == a with
  | none => s
  | some o =>
    let o' : Owed := { o with tries := o.tries + 1 }
    let s := (s.replaceRec r { r with owed := r.owed.map fun x => if x.addr = a then o' else x }).sendCopy i r a
    if o.tries = 16 then (s.raiseT i 0x4A a.toNat).unreachable i a else s

/-- SKIM_RETRANSMIT_TIMEOUT (R80, R81): the deadline runs from the last sending, so none runs while a copy waits. -/
def execSkimRetransmitTimeout (slot : Nat) (seq : BitVec 32) (peer : Addr) (s : State) : Out :=
  let hit := s.hawk.recs.find? fun r =>
    r.slot.val == slot && r.st == .out && r.seq == some seq.toNat && r.owed.any fun o => o.addr == peer
  match s.slotTenant slot, hit with
  | some i, some r =>
    if !s.endpointUp || !s.mayInject || s.copyWaits r peer then .next s
    else
      let due := match r.owed.find? fun o => o.addr == peer with | some o => o.due | none => 0
      .next ((s.at_ due).retransmit i r peer)
  | _, _ => .next s

/-! ## Group setup (R69, R70, R72) -/

/-- The state with a group changed. -/
def State.updGroup (s : State) (h : Nat) (f : Group → Group) : State :=
  s.updEp fun e => { e with groups := e.groups.map fun g => if g.handle = h then f g else g }

/-- The bytes of a group-setup frame: GROUP, OP, COUNT, SEQ, eight reserved zeros, the destinations (R70). -/
def Group.setupBytes (g : Group) (seq : BitVec 32) : List Byte :=
  let ds := if g.deleting then [] else g.members
  leBytes 2 (g.handle % 1024) ++ [if g.deleting then 2 else 1] ++ leBytes 1 (ds.length % 64) ++ leBytes 4 seq.toNat ++
    List.replicate 8 0 ++ ds.flatMap fun a => leBytes 4 a.toNat

/-- A setup frame offered on EO_VC 11, with EO_DST and EO_MCAST zero and EO_FLAG low: every frame takes the next SEQ
(R70). -/
def State.setupFrame (s : State) (g : Group) : State :=
  let q := s.ep.setupSeq
  let s := s.updGroup g.handle fun x => { x with setup := .outstanding q, since := s.time.now }
  s.updEp fun e => { e with setupSeq := q + 1, setupOut := e.setupOut ++ beatsOf .setup false 0 false (g.setupBytes q) }

/-- Whether a setup frame may be offered: EO_READY[3] is high and the endpoint offers frames (R61, R62). -/
def State.setupGo (s : State) (ready : Bool) : Bool := ready && s.endpointUp && s.mayInject

/-- Whether the channels a group serves have drained: no frame of its slot is outstanding (R72, R80). -/
def State.groupDrained (s : State) (g : Group) : Bool :=
  match g.key with
  | .holders k _ => !(s.skimOutstanding.any fun r => r.slot.val == k)
  | .peers k => !(s.skimOutstanding.any fun r => r.slot.val == k)
  | .tree .. => true

/-- The group of a handle in a setup state. -/
def State.groupIn (s : State) (h : Nat) (p : GroupSetup → Bool) : Option Group :=
  s.ep.groups.find? fun g => g.handle == h && p g.setup

/-- GROUP_SETUP_WRITE (R69, R70, R72). -/
def execGroupSetupWrite (x : SetupAt) (s : State) : Out :=
  match s.groupIn x.handle.toNat fun x => x == .wanted with
  | some g => .next (if s.setupGo x.ready && s.groupDrained g then s.setupFrame g else s)
  | none => .next s

/-- Whether a setup awaits its confirmation. -/
def GroupSetup.waits : GroupSetup → Bool
  | .outstanding _ => true
  | _ => false

/-- GROUP_SETUP_RESEND (R70): no confirmation within 100 µs. -/
def execGroupSetupResend (x : SetupAt) (s : State) : Out :=
  match s.groupIn x.handle.toNat GroupSetup.waits with
  | some g => .next (if s.setupGo x.ready then (s.reach g.since 100000).setupFrame g else s)
  | none => .next s

/-- GROUP_SETUP_RETRY (R70): 1 ms after FULL or REFUSED. -/
def execGroupSetupRetry (x : SetupAt) (s : State) : Out :=
  match s.groupIn x.handle.toNat fun x => x == .failed with
  | some g => .next (if s.setupGo x.ready then (s.reach g.since 1000000).setupFrame g else s)
  | none => .next s

/-- A confirmed setup: the group may be used, or is gone where its deletion was set up. -/
def State.groupConfirmed (s : State) (g : Group) : State :=
  if g.deleting then s.updEp fun e => { e with groups := e.groups.filter fun x => x.handle != g.handle }
  else s.updGroup g.handle fun x => { x with setup := .confirmed }

/-- GROUP_CONFIRM (R70): checks 1 and 2 of R75 alone; one that is not for this instance or matches no setup counts under
0x4D. -/
def execGroupConfirm (f : Rx) (s : State) : Out :=
  if !s.portsUp then .next s
  else
    let s := s.at_ f.time
    if !s.takesFrame f then .next s.discard
    else if f.eiErr || f.crc ≠ frameCrc f then .next (s.frameEvent f 0x41)
    else if f.ver ≠ 3 || f.typ ≠ 0x70 || tField f 0 8 ≠ 8 || f.mark || f.elided || f.rsv1 || f.rsv2 ≠ 0 ||
        tField f 18 2 == 3 || tField f 52 12 ≠ 0 then .next (s.frameEvent f 0x42)
    else
      match s.groupIn (tField f 8 10) fun x => x == .outstanding (BitVec.ofNat 32 (tField f 20 32)) with
      | none => .next s.discard
      | some g =>
        if f.src ≠ s.self then .next s.discard
        else if tField f 18 2 = 0 then .next (s.groupConfirmed g)
        else .next ((s.updGroup g.handle fun x => { x with setup := .failed, since := s.time.now }).raise { code := 0x4C, detail := g.handle })

/-! ## Route control (R83, R395) -/

/-- DRAINED is entered: SKIM frames still unacknowledged are marked (R83). -/
def State.routeDrain (s : State) : State :=
  let out := s.skimOutstanding
  let s := s.updEp fun e => { e with
    route := .drained, resumeFrom := s.time.now, marked := BitVec.ofNat 16 out.length
    markedList := out.flatMap fun r => r.owed.map fun o => (r.slot.val, r.seq.getD 0, o.addr) }
  s.count 0x4F

/-- IDLE again: the marked frames, as far as they still owe an acknowledgement, go out before normal injection resumes
(R83). -/
def State.routeIdle (s : State) (auto : Bool) : State :=
  let list := s.ep.markedList
  let wait := s.ep.skimQ
  let s := s.updEp fun e => { e with route := .idle, auto := auto, markedList := [], skimQ := [] }
  let s := list.foldl (fun s m =>
    match s.slotTenant m.1, s.hawk.recs.find? fun r => r.slot.val == m.1 && r.st == .out && r.seq == some m.2.1 with
    | some i, some r => s.retransmit i r m.2.2
    | _, _ => s) s
  s.updEp fun e => { e with resumeQ := e.resumeQ ++ e.skimQ, skimQ := wait }

/-- ROUTE_REQ (R83, R395). -/
def execRouteReq (a : Acc) (s : State) : Out :=
  .next (s.window a 0x5028 true fun s =>
    match s.ep.route with
    | .idle => s.updEp fun e => { e with route := .draining, auto := false, drainFrom := s.time.now }
    | .draining => s
    | .drained => s.updEp fun e => { e with resumeFrom := s.time.now })

/-- ROUTE_RESUME (R395): refused while the drain is under way. -/
def execRouteResume (a : Acc) (s : State) : Out :=
  if s.ep.route = .draining ∧ s.portsUp ∧ s.windowOpen 0x5028 ∧ fromSystem a then .next (s.refuse a.id 0x5028)
  else
    .next (s.window a 0x5028 true fun s => if s.ep.route = .drained then s.routeIdle false else s)

/-- ROUTE_DRAINED (R83, R395): every outstanding SKIM and BADGER frame has been answered. -/
def execRouteDrained (s : State) : Out :=
  .next (if s.ep.route = .draining ∧ s.skimOutstanding.isEmpty ∧ !s.badgerOutstanding then s.routeDrain else s)

/-- ROUTE_DRAIN_TIMEOUT (R81, R83). -/
def execRouteDrainTimeout (s : State) : Out :=
  .next (if s.ep.route = .draining then (s.reach s.ep.drainFrom (s.cfg.glob.drainTimeout * 1000)).routeDrain else s)

/-- RESUME_WAIT_EXPIRY (R83, R395). -/
def execResumeWaitExpiry (s : State) : Out :=
  .next (if s.ep.route = .drained then
      ((s.reach s.ep.resumeFrom (s.cfg.glob.resumeWait * 1000000)).routeIdle true).raise { code := 0x4B }
    else s)

end Sys2Proof.Machine
end

