-- ==== Sys2Proof/Machine/IntakeRows.lean ====
section
/-! DEFINITION. The intake's commands: frames, window writes, chunk allocation with its notice line, and the end of a
flush (R137 to R143). -/

namespace Sys2Proof.Machine

/-! ## Arrivals (R141) -/

/-- Where a run of lines goes. -/
inductive Arrival where
  | flush
  /-- Chunk HIGH + 1, not yet allocated. -/
  | next
  /-- Beyond it, or no share. -/
  | beyond
  /-- Below LOW, beyond LS, or no such slot. -/
  | outside
  | manifest
  | chunk (no : Nat)
  deriving DecidableEq, Repr

/-- The judgement of `n` lines at line `off` of slot `cslot` of chunk `c` (R138, R141). Before the first seal a tenant's
intake has nothing to take (R143; DEDUCED, log entry 26). -/
def State.judgeArrival (s : State) (i : Fin 64) (c cslot off n : Nat) : Arrival :=
  let t := (s.ten i).intake
  if t.flush then .flush
  else if s.shareBytes i = 0 ∨ t.epoch = 0 then .beyond
  else if c < t.low then .outside
  else if c = 0 then if cslot = 0 ∧ (off + n) * 64 ≤ s.manRoom i then .manifest else .outside
  else
    match t.chunks.find? fun x => x.no == c with
    | some x => if cslot < x.mrec.ns ∧ (off + n) * 64 ≤ x.ls then .chunk c else .outside
    | none => if c = t.high + 1 then .next else if t.high < c then .beyond else .outside

/-- Lines put into a map where they are absent; whether one of them was present. -/
def putLines (m : NMap Line) (key : Nat) : List Line → NMap Line × Bool
  | [] => (m, false)
  | l :: t =>
    let old := (NMap.get? m key).isSome
    let r := putLines (if old then m else NMap.insert m key l) (key + 1) t
    (r.1, old || r.2)

/-- An intake event, first of its code logged, later ones counted. -/
def State.intakeEvent (s : State) (i : Fin 64) (code chunk : Nat) : State := s.raiseT i code chunk

/-- Lines written to the manifest or a chunk: 0x73 once where one was present; the manifest is judged, the sweep goes
on. -/
def State.writeLines (s : State) (i : Fin 64) (c cslot off : Nat) (ls : List Line) : State :=
  let t := (s.ten i).intake
  let (s, dup) :=
    if c = 0 then
      let r := putLines t.man off ls
      (s.updIntake i fun x => { x with man := r.1 }, r.2)
    else
      let cur := match t.chunks.find? fun x => x.no == c with | some x => x.lines | none => []
      let r := putLines cur (cslot * 4096 + off) ls
      (s.updIntake i fun x => { x with chunks := x.chunks.map fun y => if y.no = c then { y with lines := r.1 } else y }, r.2)
  let s := if dup then s.intakeEvent i 0x73 c else s
  (s.judgeManifest i).follow i

/-- An arrival with its outcome and event (R141). -/
def State.arriveLines (s : State) (i : Fin 64) (c cslot off : Nat) (ls : List Line) (v : Arrival) : State :=
  match v with
  | .flush => s.intakeEvent i 0x76 c
  | .next => s.intakeEvent i 0x72 c
  | .beyond => s.intakeEvent i 0x72 c
  | .outside => s.intakeEvent i 0x75 c
  | .manifest => s.writeLines i c cslot off ls
  | .chunk _ => s.writeLines i c cslot off ls

/-- INTAKE (R75, R76, R137, R141): GEN is not checked; EPOCH is the intake epoch, TRY zero. -/
def execIntake (f : Rx) (s : State) : Out :=
  let c := tField f 0 24
  let cslot := tField f 24 4
  let off := tField f 28 12
  let n := f.payload.length / 64
  .next (s.receive f { typ := 0x30, ok2 := tField f 40 24 == 0
                       ok3 := f.payload.length % 64 == 0 && decide (64 ≤ f.payload.length) && decide (f.payload.length ≤ 4096)
                       skipGen := true
                       ok7 := fun s i => decide ((s.ten i).intake.epoch = f.epoch.toNat) && f.epoch != 0 && f.tr == 0 }
    fun s i => s.arriveLines i c cslot off ((chunksOf 64 n f.payload).map lineOf) (s.judgeArrival i c cslot off n))

/-- The chunk a window address names: the manifest, an allocated chunk of that number modulo 2^14, the next one, or the
number of that residue nearest above or below HIGH (R137; DEDUCED, log entry 27). -/
def IntakeS.windowChunk (t : IntakeS) (field : Nat) : Nat :=
  if field = 0 ∧ t.low = 0 then 0
  else
    match t.chunks.find? fun x => x.no % 16384 == field with
    | some x => x.no
    | none =>
      let d := (field + 16384 - t.high % 16384) % 16384
      if d < 8192 ∨ t.high + d < 16384 then t.high + d else t.high + d - 16384

/-- INTAKE_WINDOW_WRITE (R53, R137, R141). A write without all byte enables is judged so before its chunk is (DESIGN CHOICE, log
entry 189). -/
def execIntakeWindowWrite (q : NqReq) (s : State) : Out :=
  if !s.portsUp then .next s
  else if q.space ≠ 2 ∨ 1 < q.op.toNat then .next (s.busError q 0xC)
  else if q.op = 0 then .next (s.ok q.id)
  else
    match s.tenantOf q.tag with
    | none => .next (s.busError q 0x2)
    | some i =>
      let a := q.addr.toNat
      let c := (s.ten i).intake.windowChunk (bitsOf a 22 14)
      let cslot := bitsOf a 18 4
      let off := bitsOf a 6 12
      if ~~~q.be ≠ 0 then .next ((s.ok q.id).intakeEvent i 0x74 c)
      else
        match s.judgeArrival i c cslot off 1 with
        | .next => .next ((s.respond q.id .retry 0 0).count 0x3C)
        | v => .next ((s.ok q.id).arriveLines i c cslot off [q.data] v)

/-! ## Allocation and notices (R140) -/

/-- The notice line of a tenant (R140). -/
def State.noticeLine (s : State) (i : Fin 64) : List Byte :=
  let t := (s.ten i).intake
  padTo 64 (leBytes 8 t.epoch ++ leBytes 4 t.low ++ leBytes 4 t.high ++ leBytes 8 s.time.now.toNat)

/-- A notice that is owed, where one is enabled and the last lies a microsecond back. -/
def State.writeNotice (s : State) (i : Fin 64) : State :=
  let t := (s.ten i).intake
  if !t.noticeDue then s
  else if !s.regs.notifyEn then s.updIntake i fun x => { x with noticeDue := false }
  else if t.noticed ≠ 0 ∧ !passed t.noticed s.time.now 1 then s
  else
    (s.putBytes (s.regs.notifyBase.toNat + 64 * i.val) (s.noticeLine i)).updIntake i fun x =>
      { x with noticeDue := false, noticed := s.time.now }

/-- CHUNK_ALLOCATE (R140): the next chunk where it fits, and the notice line. -/
def execChunkAllocate (tidx : Fin 64) (now : BitVec 64) (s : State) : Out :=
  if !s.portsUp || s.flt.mode != .normal || (s.ten tidx).env.isNone then .next s
  else
    let s := s.at_ now
    .next (((s.allocChunk tidx).getD s).writeNotice tidx)

/-- INTAKE_REOPEN (R143, R150, R393): the flush of the selected tenant ends. -/
def execIntakeReopen (a : Acc) (s : State) : Out :=
  if !s.portsUp then .next s
  else
    let i : Fin 64 := s.regs.tsel.toFin
    if !s.windowOpen 0x3048 || !(a.tag == 0 || s.tenantOf a.tag == some i) then .next (s.refuse a.id 0x3048)
    else .next (((s.ok a.id).updIntake i fun t => { t with flush := false }).follow i)

end Sys2Proof.Machine
end

