-- ==== Sys2Proof/Machine/SweepRows.lean ====
section
/-! DEFINITION. The sweep's commands: section runs, strips, panels written, RETIRING panels zeroed, and the opening of an
attempt (R43, R44, R153 to R157, R166, R179, R183 to R186, R191, R192, R269). -/

namespace Sys2Proof.Machine

/-! ## What a strip waits for -/

/-- Whether a section's instructions read the intake. -/
def readsIntake (p : Program) (is : List (BitVec 64)) : Bool :=
  is.any fun w => (usedDescs (insOf w)).any fun n => match p.descs[n]? with | some d => d.kind == kINTAKE | none => false

/-- The waiting bits of a tenant's sweep; a sweep that starts to wait for Hawk space counts under 0xA8 (R192). -/
def State.setWait (s : State) (i : Fin 64) (intake hawk : Bool) : State :=
  let s := if hawk && !(s.ten i).sweep.waitHawk then s.count 0xA8 else s
  s.updSweep i fun w => { w with waitIntake := intake, waitHawk := hawk }

/-- SWEEP_WAIT of MNL_BG_STATUS (R269, R276). -/
def State.setSweepWait (s : State) (i : Fin 64) (b : Bool) : State := s.updBg i fun x => { x with sweepWait := b }

/-- Whether a strip can be staged: its chunks that are wanted are complete, its panels read true, none of its regions is
LOADING, none waits for repair. -/
inductive Ready where
  | go
  | wait (s : State)
  /-- A chunk of it is unusable (R148). -/
  | drop

/-- The readiness of a strip (R142, R148, R269, R272, R304). -/
def State.stripReady (s : State) (i : Fin 64) (x : StripAt) (qs : List (Nat × Nat)) (grads : Bool) : Ready :=
  let t := s.ten i
  let cs := if grads then s.stripChunks i x else []
  let loading := qs.any fun q => match s.entry q.1 with | some e => e.state == .loading | none => false
  if cs.any fun c => t.intake.chunks.any fun y => y.no == c && y.bad then .drop
  else if loading then .wait ((s.setWait i false false).setSweepWait i true)
  else if s.anyInRepair qs then .wait (s.setWait i false false)
  else
    match s.badPanel qs with
    | some a => .wait (s.digestFail a)
    | none => if cs.all fun c => s.chunkReady i c then .go else .wait ((s.setWait i true false).setSweepWait i false)

/-- The flags of a strip's summed gradient. -/
def State.gradFlags (s : State) (i : Fin 64) (x : StripAt) : Flags := (s.stripGrad i x).foldl (fun f p => f ||| p.2) 0

/-- Whether a region of a group has been contained since the sweep opened: what is left of the group is not computed,
the vote being withheld (R98; DEDUCED, log entry 28). -/
def State.groupContained (s : State) (i : Fin 64) (g : Nat) : Bool :=
  (s.entriesOf (s.tagOf i)).any fun p => p.2.state == .contained && p.2.sgrp.toNat == g

/-! ## Section runs (R156, R157, R166, R179) -/

/-- A group's run changed. -/
def State.updGroupRun (s : State) (i : Fin 64) (g : Nat) (f : GroupRun → GroupRun) : State :=
  s.updSweep i fun w => { w with groups := w.groups.map fun r => if r.grp = g then f r else r }

/-- The next section run done with. -/
def State.popPrep (s : State) (i : Fin 64) : State := s.updSweep i fun w => { w with prep := w.prep.drop 1 }

/-- The accumulators of a group when RED has ended: each the tree sum of its leaves, +0 without one (R157). -/
def State.endRed (s : State) (i : Fin 64) (g : Nat) (p : Program) : State :=
  match (s.ten i).sweep.groups.find? fun r => r.grp == g with
  | none => s
  | some r =>
    let ids := p.accs.zipIdx.flatMap fun a => (List.range a.1).map fun x => 1024 * a.2 + x
    let sums := ids.map fun id =>
      opSum fp32 .rne false ((r.leaves.filter fun l => l.1 == id).map fun l => (l.2.1, l.2.2.toNat))
    let s := s.updGroupRun i g fun r => { r with accs := sums.map fun v => BitVec.ofNat 32 v.1, leaves := [] }
    s.raiseFlags i (sums.foldl (fun f v => f ||| v.2) 0)

/-- The RED pass ends with its last strip. -/
def State.afterRed (s : State) (i : Fin 64) (g : Nat) (p : Program) : State :=
  let more := (s.ten i).sweep.prep.any fun it => match it with | .red h _ _ => h == g | _ => false
  if more then s else s.endRed i g p

/-- A section run stopped by R166: what it had issued and raised counts (R31, R146). -/
def State.stopRun (s : State) (i : Fin 64) (t : RunSt) : State :=
  (((s.countN 0x1C t.issued).raiseFlags i t.flags).raiseT i 0x93).stopSweep i 0x93 0x05

/-- PRO or MID of a group: the scalar page's working bytes change. -/
def State.runScalarSection (s : State) (i : Fin 64) (r : GroupRun) (p : Program) (is : List (BitVec 64)) : State :=
  let sc := p.streams.find? fun st => st.role == .scalar
  let work := match sc with | some st => Mem.writeN (2 ^ 23) s.work st.stage r.scalar | none => s.work
  match runSection (s.runCtx i r p none) is { work := work, leaves := [], flags := 0 } with
  | .stopped t => s.stopRun i t
  | .done t =>
    let s : State := { s with work := t.work }
    let s := s.updGroupRun i r.grp fun r => { r with
      scalar := match sc with | some st => Mem.readN (2 ^ 23) t.work st.stage 4096 | none => r.scalar }
    ((s.countN 0x1C t.issued).raiseFlags i t.flags).popPrep i

/-- One strip of RED: its leaves are kept under its logical driving panel. -/
def State.runRed (s : State) (i : Fin 64) (r : GroupRun) (p : Program) (x : StripAt) : State :=
  let c := s.runCtx i r p (some x)
  match runSection c p.red { work := s.stageStrip i r p x, leaves := [], flags := 0 } with
  | .stopped t => s.stopRun i t
  | .done t =>
    let g := if readsIntake p p.red then s.gradFlags i x else 0
    let s : State := { s with work := t.work }
    let s := s.updGroupRun i r.grp fun r => { r with leaves := r.leaves ++ t.leaves.map fun l => (l.1, c.lpanel, l.2) }
    (((s.countN 0x1C t.issued).raiseFlags i (t.flags ||| g)).popPrep i).afterRed i r.grp p

/-- The group and program of a run in the bank the tenant selects. -/
def State.groupRun (s : State) (i : Fin 64) (g : Nat) : Option (GroupRun × Program) :=
  match (s.ten i).sweep.groups.find? fun r => r.grp == g with
  | some r => match (s.bankOf i).image.progs[r.prog]? with | some p => some (r, p) | none => none
  | none => none

/-- Whether a tenant's sweep is in a state and may work: the instance runs. -/
def State.sweepIn (s : State) (i : Fin 64) (st : SwState) : Bool :=
  (s.ten i).env.isSome && s.flt.mode == .normal && (s.ten i).sweep.state == st

/-- Whether the bank a tenant fetches from is BAD: it withholds its vote at its next strip (R179). -/
def State.bankBad (s : State) (i : Fin 64) : Bool := (s.bankOf i).st == .bad

/-- SWEEP_SECTION_RUN (R156, R157, R166, R179, R183): the next section run of the prologue pass. -/
def execSweepSectionRun (tidx : Fin 64) (flt : ReadFault) (s : State) : Out :=
  let i := tidx
  if !s.sweepIn i .prep then .next s
  else if s.bankBad i then .next ((s.stopSweep i 0x90 0x05).follow i)
  else
    match (s.ten i).sweep.prep with
    | [] => .next s
    | .pro g :: _ =>
      match s.groupRun i g, flt with
      | some _, .microop => .next (((s.stripFault i flt []).getD s).follow i)
      | some _, .working => .next s
      | some (r, p), _ => .next ((s.runScalarSection i r p p.pro).follow i)
      | none, _ => .next s
    | .mid g :: _ =>
      match s.groupRun i g, flt with
      | some _, .microop => .next (((s.stripFault i flt []).getD s).follow i)
      | some _, .working => .next s
      | some (r, p), _ => .next ((s.runScalarSection i r p p.mid).follow i)
      | none, _ => .next s
    | .red g c k :: _ =>
      match s.groupRun i g with
      | none => .next s
      | some (r, p) =>
        match s.stripAt i g p c k with
        | none => .next (((s.popPrep i).afterRed i g p).follow i)
        | some x =>
          if s.groupContained i g then .next (((s.popPrep i).afterRed i g p).follow i)
          else
            let qs := s.stripPanels i g p x
            match s.stripFault i flt qs with
            | some s => .next (s.follow i)
            | none =>
              match s.stripReady i x qs (readsIntake p p.red) with
              | .drop => .next (((s.popPrep i).afterRed i g p).follow i)
              | .wait s => .next s
              | .go => .next ((((s.setWait i false false).setSweepWait i false).runRed i r p x).follow i)

/-! ## Strips (R153, R155, R185, R192) -/

/-- The next step of the sweep done with. -/
def State.popItem (s : State) (i : Fin 64) : State := s.updSweep i fun w => { w with todo := w.todo.drop 1 }

/-- A strip passed over: neither written nor skipped. -/
def State.missStrip (s : State) (i : Fin 64) (g c k : Nat) : State :=
  (s.popItem i).updSweep i fun w => { w with missed := w.missed ++ [(g, c, k)] }

/-- The padding of an MXFP6 panel written as zero (R129). -/
def State.padMx (s : State) (i : Fin 64) (st : Stream) (q : Piece) : State :=
  if st.fmt = 0xA ∨ st.fmt = 0xB then s.buildWrite i q.ctx (q.off / 32768 * 4096 + 4080) (List.replicate 16 0) else s

/-- A piece of a written stream put into its panel's build. -/
def State.writePiece (s : State) (i : Fin 64) (st : Stream) (base : Nat) (q : Piece) : State :=
  let v := bitSpan q.off q.len
  let t := bitSpan q.stage q.len
  let new := Mem.readN (2 ^ 23) s.work (base + t.1) t.2
  let old := if isMx st.fmt then slice (s.buildOf i q.ctx (v.1 / 4096)) (v.1 % 4096) v.2 else new
  (s.buildWrite i q.ctx v.1 (mergeBits old (q.off % 8) q.len new (q.stage % 8))).padMx i st q

/-- What a strip leaves in the stage area of a DERIVED stream, as one number: its elements one after another, without the
padding of MX panels (R154). -/
def derivedBits (w : NMap Byte) (p : Program) (st : Stream) (base n : Nat) : Nat × Nat :=
  if isMx st.fmt then
    ((List.range (ceilDiv n 32)).foldl (fun x u =>
        x + leNat (Mem.readN (2 ^ 23) w (base + elemBit st (32 * u) / 8) (mxBlockBytes st.fmt)) * 2 ^ (32 * u * mxBits st.fmt)) 0
      % 2 ^ (n * mxBits st.fmt), n * mxBits st.fmt)
  else if (scaledBy p st).isSome then (leNat (Mem.readN (2 ^ 23) w base (ceilDiv n 32)), 8 * ceilDiv n 32)
  else (leNat (Mem.readN (2 ^ 23) w base (n * recBytes st)), 8 * n * recBytes st)

/-- A strip of a DERIVED stream written at its ordinal (R151, R154). -/
def State.writeDerived (s : State) (i : Fin 64) (p : Program) (x : StripAt) (st : Stream) : State :=
  let b := derivedBits s.work p st (stageBase p st x.odd) x.n
  let at_ := if isMx st.fmt then x.ord * mxBits st.fmt
    else if (scaledBy p st).isSome then 8 * (x.ord / 32) else 8 * x.ord * recBytes st
  let v := bitSpan at_ b.2
  let a := ((s.ten i).sweep.bases.toList.getD st.no 0).toNat + v.1
  s.putBytes a (mergeBits (s.bytesAt a v.2) (at_ % 8) b.2 (leBytes ((b.2 + 7) / 8) b.1) 0)

/-- What a strip's BODY has left in the stage areas written out: INOUT and OUT to their panels' builds, DERIVED to the
derived base (R151, R154). -/
def State.writeStrip (s : State) (i : Fin 64) (g : Nat) (p : Program) (x : StripAt) : State :=
  p.streams.foldl (fun s st =>
    let base := stageBase p st x.odd
    match st.role with
    | .in_ => s
    | .scalar => s
    | .derived => s.writeDerived i p x st
    | .inout => (s.stripPieces i g p x st).foldl (fun s q => s.writePiece i st base q) s
    | .out => (s.stripPieces i g p x st).foldl (fun s q => s.writePiece i st base q) s) s

/-- A strip computed: BODY runs, and its results are written out. -/
def State.runBody (s : State) (i : Fin 64) (r : GroupRun) (p : Program) (x : StripAt) : State :=
  match runSection (s.runCtx i r p (some x)) p.body { work := s.stageStrip i r p x, leaves := [], flags := 0 } with
  | .stopped t => s.stopRun i t
  | .done t =>
    let g := s.gradFlags i x
    let s := State.writeStrip { s with work := t.work } i r.grp p x
    let s := (s.countN 0x1C t.issued).raiseFlags i (t.flags ||| g)
    ((s.popItem i).passDone i (s.stripPanels i r.grp p x)).freeDoneChunks i

/-- A strip passed without computing it. -/
def State.skipStrip (s : State) (i : Fin 64) (g : Nat) (p : Program) (x : StripAt) : State :=
  let qs := s.stripPanels i g p x
  ((s.popItem i).passDone i qs).freeDoneChunks i

/-- SWEEP_STRIP (R153 to R156, R166, R179, R183, R185, R192, R269): the next strip of the body pass. -/
def execSweepStrip (tidx : Fin 64) (flt : ReadFault) (s : State) : Out :=
  let i := tidx
  if !s.sweepIn i .body then .next s
  else
    match (s.ten i).sweep.todo with
    | .strip g c k skip :: _ =>
      match s.groupRun i g with
      | none => .next s
      | some (r, p) =>
        match s.stripAt i g p c k with
        | none => .next ((s.popItem i).follow i)
        | some x =>
          if s.groupContained i g then .next ((s.missStrip i g c k).follow i)
          else if skip then .next ((s.skipStrip i g p x).follow i)
          else if s.bankBad i then .next ((s.stopSweep i 0x90 0x05).follow i)
          else
            let qs := s.stripPanels i g p x
            match s.stripFault i flt qs with
            | some s => .next (s.follow i)
            | none =>
              match s.stripReady i x qs true with
              | .drop => .next ((s.missStrip i g c k).follow i)
              | .wait s => .next s
              | .go =>
                match s.reserveAll (s.stripWrites i g p x) with
                | none => .next (s.setWait i false true)
                | some s => .next ((((s.setWait i false false).setSweepWait i false).runBody i r p x).follow i)
    | _ => .next s

/-! ## Panels written and zeroed (R88, R155, R183, R185, R186) -/

/-- A build gone, with the slot reserved for its panel. -/
def State.dropBuild (s : State) (i : Fin 64) (b : Build) : State :=
  s.updSweep i fun w => { w with builds := w.builds.filter fun y => !(y.ctx == b.ctx && y.panel == b.panel) }

/-- Whether nothing may be written to an entry's region: it is gone or contained (R56). -/
def State.noWrite (s : State) (c : Nat) : Bool := match s.entry c with | some e => e.state == .contained | none => true

/-- A finished panel written, or dropped where its region is contained. -/
def State.finishBuild (s : State) (i : Fin 64) (b : Build) : State :=
  let s := if s.noWrite b.ctx then s else s.writePanel i b.ctx b.panel b.bytes
  (s.dropBuild i b).freeDoneChunks i

/-- The scalar panel of a group written, once its slot is there (R156, R183, R186). -/
def State.writeScalar (s : State) (i : Fin 64) (g : Nat) : State :=
  match (s.ten i).sweep.groups.find? fun r => r.grp == g with
  | none => s.popItem i
  | some r =>
    match r.scalarCtx with
    | none => s.popItem i
    | some c =>
      if s.noWrite c then s.popItem i
      else
        match s.reserveAll [(c, 0)] with
        | none => s.setWait i false true
        | some s => ((s.setWait i false false).writePanel i c 0 r.scalar).popItem i

/-- SWEEP_PANEL_WRITTEN (R155, R185, R186): the first panel whose last computed strip is done is written, and its delta
formed or dropped; in the scalar pass the next scalar panel. -/
def execSweepPanelWritten (tidx : Fin 64) (s : State) : Out :=
  let i := tidx
  if !s.sweepIn i .body then .next s
  else
    match (s.ten i).sweep.builds.find? fun b => !s.stillTouched i true (b.ctx, b.panel) with
    | some b => .next ((s.finishBuild i b).follow i)
    | none =>
      match (s.ten i).sweep.todo with
      | .scalar g :: _ => .next ((s.writeScalar i g).follow i)
      | _ => .next s

/-- A RETIRING panel zeroed: its old value is its delta (R88, R183, R186). -/
def State.zeroPanel (s : State) (i : Fin 64) (c p : Nat) : State :=
  if s.noWrite c then s.popItem i
  else
    match s.reserveAll [(c, p)] with
    | none => s.setWait i false true
    | some s => ((s.setWait i false false).writePanel i c p (List.replicate 4096 0)).popItem i

/-- RETIRING_PANEL_ZERO (R88, R183). -/
def execRetiringPanelZero (tidx : Fin 64) (s : State) : Out :=
  let i := tidx
  if !s.sweepIn i .body then .next s
  else
    match (s.ten i).sweep.todo with
    | .zero c p :: _ =>
      let bad := match s.entry c with
        | some e => if e.coded then s.badPanel [(c, p)] else none
        | none => none
      if s.anyInRepair [(c, p)] then .next s
      else
        match bad with
        | some a => .next (s.digestFail a)
        | none => .next ((s.zeroPanel i c p).follow i)
    | _ => .next s

/-- ATTEMPT_OPEN (R43, R44, R183, R212): an opening that is due and that nothing holds. -/
def execAttemptOpen (tidx : Fin 64) (s : State) : Out :=
  .next (if (s.ten tidx).env.isSome && s.mayOpen tidx then (s.openAttempt tidx).follow tidx else s)

end Sys2Proof.Machine
end

