-- ==== Sys2Proof/Machine/Banks.lean ====
section
/-! DEFINITION. The instruction banks' commands: LOAD and its end, ARM, DISARM (R170, R171, R175 to R178, R342, R343). -/

namespace Sys2Proof.Machine

/-- The state with the banks' block changed. -/
def State.updIb (s : State) (f : IbS → IbS) : State := { s with ib := f s.ib }

/-- Bank by number. -/
def IbS.bank (b : IbS) (n : Bool) : Bank := if n then b.bank1 else b.bank0

/-- A bank set. -/
def IbS.setBank (b : IbS) (n : Bool) (x : Bank) : IbS := if n then { b with bank1 := x } else { b with bank0 := x }

/-- Tenants that select a bank. -/
def State.bankUsers (s : State) (n : Bool) : Nat :=
  (tenantIdxs.filter fun i => (s.ten i).env.isSome && (s.ten i).bank == n).length

/-- A command of MNL_IB_CMD, written under NQ_TAG 0x0000; one refused under R9 leaves the register as it was. -/
def State.ibCmd (s : State) (a : Acc) (op : BitVec 4) (bank ok : Bool) (f : State → State) : Out :=
  if !s.portsUp then .next s
  else if !fromSystem a || !s.windowOpen 0x3808 || !ok then .next (s.refuse a.id 0x3808)
  else .next (f ((s.ok a.id).updIb fun b => { b with op := op, opBank := bank }))

/-- RESULT of the last command set; a refusal is logged as event 0x80 + RESULT (R171). -/
def State.ibResult (s : State) (r detail : Nat) : State :=
  let s := s.updIb fun b => { b with result := BitVec.ofNat 8 r }
  if r = 0 then s else s.raise { code := 0x80 + r, detail := detail }

/-- IB_LOAD (R176, R303): INUSE, STATE, or the image and its trailer read once, the bank EMPTY until they are judged. -/
def execIbLoad (a : Acc) (bank readOk : Bool) (s : State) : Out :=
  let len := s.ib.len.toNat
  s.ibCmd a 1 bank (s.rangeOk 4 s.ib.src.toNat (len + 256)) fun s =>
    if s.bankUsers bank ≠ 0 then s.ibResult 0x0D 0
    else if s.ib.busy || s.ib.armed then s.ibResult 0x0E 0
    else
      s.updIb fun b =>
        { b.setBank bank {} with
          busy := true, loading := bank, staged := s.bytesAt s.ib.src.toNat (len + 256), stagedOk := readOk }

/-- Check 3 of R171, with the code the same failure carries for a configuration object (R343): the wrapper well formed,
its key, signature and SVN. -/
def State.imageWrapper (s : State) (img trailer : List Byte) : Nat :=
  let zero (l : List Byte) : Bool := l.all (· == 0)
  let formed := decide (leField trailer 0 4 = 0x33474953) && decide (leField trailer 4 1 ≤ 2) && zero (slice trailer 5 3) &&
    zero (slice trailer 12 4) && zero (slice trailer 113 15) && zero (slice trailer 224 32)
  if !formed then 0x23
  else
    match s.signatureResult false img trailer with
    | 0 => 0
    | 3 => 0x24
    | 4 => 0x25
    | _ => 0x26

/-- RESULT and DETAIL of the image a LOAD has read (R171). -/
def State.imageResult (s : State) : Nat × Nat :=
  let len := s.ib.staged.length - 256
  let img := s.ib.staged.take len
  if !s.ib.stagedOk then (0x0F, 0)
  else
    let h := imageHeadResult img len
    if h ≠ 0 then (h, 0)
    else
      let w := s.imageWrapper img (s.ib.staged.drop len)
      if w ≠ 0 then (0x03, w) else (imageBodyResult (s.cap 9) img, 0)

/-- IB_LOAD_COMPLETE (R171, R176, R343, R344): the bank VALID with its digest, or EMPTY with RESULT; a repeated SALT is
event 0x7E and no refusal. -/
def execIbLoadComplete (s : State) : Out :=
  if !s.ib.busy || s.flt.mode == .resetting then .next s
  else
    let r := s.imageResult
    let len := s.ib.staged.length - 256
    let img := s.ib.staged.take len
    let svn := trailerSvn (s.ib.staged.drop len)
    let s := s.updIb fun b => { b with busy := false, staged := [], stagedOk := true }
    if r.1 ≠ 0 then .next (s.ibResult r.1 r.2)
    else
      let i := imageOf img
      let s := s.updIb fun b =>
        b.setBank b.loading { st := .valid, image := i, digest := sha256 img, used := imageEntries i }
      let s := (s.putPool s.ib.loading i).updLoader fun l => { l with svn := BitVec.ofNat 32 svn }
      let s := s.ibResult 0 0
      .next (if i.progs.any saltRepeats then s.raise { code := 0x7E } else s)

/-- IB_ARM (R177, R178): a VALID target; tenants without a sealed epoch move at once. -/
def execIbArm (a : Acc) (bank : Bool) (s : State) : Out :=
  s.ibCmd a 2 bank ((s.ib.bank bank).st == .valid) fun s =>
    let s := (s.ibResult 0 0).updIb fun b => { b with armed := true, target := bank, armedAt := b.at_ }
    (tenantIdxs.foldl (fun s i => s.moveNow i) s).checkArmed

/-- IB_DISARM (R177); BANK is what the write carries in that field. -/
def execIbDisarm (w : DisarmW) (s : State) : Out :=
  s.ibCmd w.acc 3 w.bank true fun s => (s.ibResult 0 0).updIb fun b => { b with armed := false }

end Sys2Proof.Machine
end

