-- ==== Sys2Proof/Machine/CommitRows.lean ====
section
/-! DEFINITION. The commands of the commit path: its frames, the own vote, repeats, ABORT_WAIT and the software abort
(R215 to R228, R258, R259). -/

namespace Sys2Proof.Machine

/-! ## Checks (R75, R76, R219, R220) -/

/-- The REASON codes the manual gives (R215, R219). -/
def reasonOk (r : Nat) : Bool := decide (1 ≤ r) && decide (r ≤ 0x10)

/-- What a frame's EPOCH and TRY are to the receiver (R220). -/
inductive AtOf where
  | opened
  | committed
  /-- An earlier try of the open epoch, with the REASON that ended it. -/
  | aborted (reason : Byte)
  | other
  deriving DecidableEq, Repr

/-- Whether a tenant has an attempt to vote on here, as member or manager. -/
def State.hasAttempt (s : State) (i : Fin 64) : Bool := (s.ten i).commit.vstate != .none || s.follower i

/-- The attempt a frame names, as this instance keeps it. -/
def State.attemptOf (s : State) (i : Fin 64) (f : Rx) : AtOf :=
  let c := (s.ten i).commit
  if !s.hasAttempt i then .other
  else if f.epoch.toNat = c.openEpoch ∧ f.tr = c.openTry then .opened
  else if f.epoch.toNat = c.committed ∧ f.tr = c.committedTry then .committed
  else if f.epoch.toNat = c.openEpoch then
    match c.reasonOf f.tr with | some r => .aborted r | none => .other
  else .other

/-- The boundary's share of check 7 (R282, R286): between the boundary and the seal only the seal attempt's frames. -/
def State.sealTryOk (s : State) (i : Fin 64) (f : Rx) : Bool := !(s.ten i).rs.sealing || f.tr == 127

/-- Whether a manager or a member holds what answers a frame of an attempt. -/
def State.voteOk (s : State) (i : Fin 64) (f : Rx) : Bool := s.attemptOf i f != .other && s.sealTryOk i f

/-- Whether check 7 passes a COMMIT_DECIDE. -/
def State.decideOk (s : State) (i : Fin 64) (f : Rx) : Bool :=
  (s.ten i).awaits || ((s.attemptOf i f == .opened || s.attemptOf i f == .committed) && s.sealTryOk i f)

/-- Whether check 7 passes a STEP_ABORT decision; one for an attempt already committed is event 0xB9 instead. -/
def State.abortOk (s : State) (i : Fin 64) (f : Rx) : Bool :=
  let c := (s.ten i).commit
  (s.ten i).awaits ||
    (s.hasAttempt i && s.sealTryOk i f && (decide (f.epoch.toNat = c.openEpoch) || decide (f.epoch.toNat ≤ c.committed)))

/-- The answer from state to a frame of an attempt that is decided (R219, R220). -/
def State.answerDecided (s : State) (i : Fin 64) (f : Rx) (level : Nat) : State :=
  match s.attemptOf i f with
  | .committed =>
    s.sendReply (s.ctrlTo i f.src 0x12 f.epoch.toNat f.tr ((s.ten i).commit.tree.members % 2 ^ 24 + level * 2 ^ 24))
  | .aborted r => s.sendReply (s.ctrlTo i f.src 0x13 f.epoch.toNat f.tr (r.toNat + level * 256 + 4096))
  | _ => s

/-! ## Votes (R220, R222, R258) -/

/-- The child of a table that names an address. -/
def TenantS.childOf (t : TenantS) (job : Bool) (a : Addr) : Option Nat :=
  ((t.children job).find? fun c => c.names a).map (·.group)

/-- The child of the pod table that a current target is credited to. -/
def TenantS.targetChild (t : TenantS) (a : Addr) : Option Nat := (t.groupsOf false).find? fun g => (t.targetsIn g).contains a

/-- A vote from no child, or above EXPECT (R222). -/
def State.badVote (s : State) (f : Rx) : State := s.frameEvent f 0xB1

/-- A credit taken for a child, and its completion noted by the role (R222, R230). -/
def State.credit (s : State) (i : Fin 64) (f : Rx) (job : Bool) (g : Nat) (new : Credit) : State :=
  let full (s : State) : Bool :=
    if job then s.jobCredit i g == (s.ten i).expect true g else s.podCredit i g == (s.ten i).expect false g
  let s' := s.setCredit i new
  let value := if job then s'.jobCredit i g else s'.podCredit i g
  if (s.ten i).expect job g < value then s.badVote f
  else if full s' && !full s then s'.noteChild i (if job then 2 else 1) f.src g
  else s'

/-- A COMMIT_VOTE of the open attempt credited by its LEVEL. -/
def State.takeVote (s : State) (i : Fin 64) (f : Rx) : State :=
  let t := s.ten i
  let n := tField f 0 24
  match tField f 24 4 with
  | 0 =>
    match t.targetChild f.src with
    | some g =>
      let c := t.creditOf false g
      let heard := addOnce f.src c.heard
      if !s.isPodManager i || 1 < n then s.badVote f
      else if n = 1 then s.credit i f false g { c with targets := addOnce f.src c.targets, heard := heard }
      else s.credit i f false g { c with targets := c.targets.filter (· != f.src), heard := heard }
    | none => s.badVote f
  | 1 =>
    match t.childOf false f.src with
    | some g =>
      if !s.isPodManager i then s.badVote f
      else s.credit i f false g { t.creditOf false g with ready := n, answered := true }
    | none => s.badVote f
  | 2 =>
    match t.childOf true f.src with
    | some g =>
      if !s.isJobManager i then s.badVote f
      else s.credit i f true g { t.creditOf true g with ready := n, answered := true }
    | none => s.badVote f
  | _ => s.badVote f

/-- COMMIT_VOTE (R219, R220, R222, R223). -/
def execCommitVote (f : Rx) (s : State) : Out :=
  .next (s.receive f { typ := 0x11, ok2 := decide (tField f 24 4 ≤ 3) && tField f 28 36 == 0, ok3 := f.len == 0
                       ok7 := fun s i => s.voteOk i f } fun s i =>
    if (s.ten i).fox.self = .fenced then s
    else if s.attemptOf i f = .opened then (s.takeVote i f).follow i
    else (s.answerDecided i f (if tField f 24 4 = 2 then 3 else 2)).count 0xBA)

/-! ## Solicitations (R219, R220, R222, R258) -/

/-- The current count of a level, as an answer to a COMMIT_PREP. Inside the chip the lath carries it (R217). -/
def State.answerCountVote (s : State) (i : Fin 64) (f : Rx) (level n : Nat) : State :=
  if f.src.chip = s.self.chip then
    if level = 2 then s.lathSend (.podVote s.power.inst i.val n f.epoch.toNat f.tr) else s
  else s.sendReply (s.ctrlTo i f.src 0x11 f.epoch.toNat f.tr (n % 2 ^ 24 + level * 2 ^ 24))

/-- The answer to a COMMIT_PREP of the open attempt: a pod manager's to level 3, the chip's and a target's to level
2. -/
def State.answerPrep (s : State) (i : Fin 64) (f : Rx) : State :=
  let target := (s.ten i).fox.isTarget s.self
  if tField f 0 4 = 3 then if s.isPodManager i then s.answerCountVote i f 2 (s.podSum i) else s
  else
    let s := if target then s.answerCountVote i f 0 (if (s.ten i).commit.vstate = .ready then 1 else 0) else s
    if target && (s.chipKids i).isEmpty then s else s.answerCountVote i f 1 (s.chipCount i)

/-- COMMIT_PREP (R219, R220, R222). A target without its first decision answers with no vote (DEDUCED, log entry 29). A
LEVEL below a pod manager's does not fit. -/
def execCommitPrep (f : Rx) (s : State) : Out :=
  .next (s.receive f { typ := 0x10, ok2 := decide (tField f 0 4 ≤ 3) && tField f 4 60 == 0, ok3 := f.len == 0
                       ok7 := fun s i => ((s.ten i).awaits || s.voteOk i f) && decide (2 ≤ tField f 0 4) } fun s i =>
    if (s.ten i).fox.self = .fenced then s
    else if (s.ten i).awaits then s.answerCountVote i f 0 0
    else if s.attemptOf i f = .opened then s.answerPrep i f
    else s.answerDecided i f (tField f 0 4 - 1))

/-! ## Decisions (R219 to R225, R259) -/

/-- Whether a decision's LEVEL and source make it an answer of a child of this instance. -/
def State.fromChild (s : State) (i : Fin 64) (f : Rx) (level : Nat) : Bool :=
  let t := s.ten i
  (s.isJobManager i && level == 2 && (t.childOf true f.src).isSome) ||
    (s.isPodManager i && decide (level < 2) && ((t.childOf false f.src).isSome || (t.targetChild f.src).isSome))

/-- COMMIT_DECIDE (R219, R220, R224, R259): another member count is event 0xB6, and the decision stands. -/
def execCommitDecide (f : Rx) (s : State) : Out :=
  .next (s.receive f { typ := 0x12, ok2 := decide (tField f 24 4 ≤ 3) && tField f 28 36 == 0, ok3 := f.len == 0
                       ok7 := fun s i => s.decideOk i f } fun s i =>
    let mine := (s.ten i).awaits || s.attemptOf i f == .opened
    let s := if mine && decide (tField f 0 24 ≠ (s.ten i).commit.tree.members) then s.frameEvent f 0xB6 else s
    (s.decision i (.commit f.epoch.toNat f.tr) (s.fromChild i f (tField f 24 4))).follow i)

/-- STEP_ABORT, decision (R219, R220, R225, R259). -/
def execStepAbortDecision (f : Rx) (s : State) : Out :=
  .next (s.receive f { typ := 0x13
                       ok2 := reasonOk (tField f 0 8) && decide (tField f 8 4 ≤ 3) && tField f 12 1 == 1 && tField f 13 51 == 0
                       ok3 := f.len == 0, ok7 := fun s i => s.abortOk i f } fun s i =>
    let echo := s.fromChild i f (tField f 8 4)
    let s := if echo && (s.ten i).commit.jobM == .solicit then s.heardPods i (· == f.src) else s
    (s.decision i (.abort f.epoch.toNat f.tr (BitVec.ofNat 8 (tField f 0 8))) echo).follow i)

/-! ## Requests (R219, R220, R223, R226, R258) -/

/-- A request taken in the role the sender is a child of; a target's for its named try is dropped once its rank's child
is fully credited (R258). -/
def State.takeRequest (s : State) (i : Fin 64) (f : Rx) (reason : Byte) : State :=
  let t := s.ten i
  let opened := s.attemptOf i f == .opened
  let target := t.targetChild f.src
  let named := tField f 8 4 == 0 && reason == 0x08 && s.hasAttempt i
  match s.isPodManager i, target with
  | true, some g =>
    if named && s.podCredit i g == t.expect false g then s
    else if named || opened then s.requestPod i reason
    else s
  | true, none =>
    if (t.childOf false f.src).isSome && opened then s.requestPod i reason
    else if s.isJobManager i && (t.childOf true f.src).isSome && opened then s.jobRequest i reason
    else s
  | false, _ => if s.isJobManager i && (t.childOf true f.src).isSome && opened then s.jobRequest i reason else s

/-- STEP_ABORT, request (R219, R220, R226, R258): of another attempt, or from no child, it is ignored without event. -/
def execStepAbortRequest (f : Rx) (s : State) : Out :=
  .next (s.receive f { typ := 0x13
                       ok2 := reasonOk (tField f 0 8) && decide (tField f 8 4 ≤ 3) && tField f 12 1 == 0 && tField f 13 51 == 0
                       ok3 := f.len == 0 } fun s i =>
    if (s.ten i).fox.self = .fenced then s else (s.takeRequest i f (BitVec.ofNat 8 (tField f 0 8))).follow i)

/-! ## The own vote, repeats and waits (R215, R221, R226, R227) -/

/-- VOTE_READY (R215, R221). -/
def execVoteReady (tidx : Fin 64) (now : BitVec 64) (s : State) : Out :=
  if !s.portsUp || (s.ten tidx).env.isNone || !s.readyNow tidx || !s.commits tidx then .next s
  else .next (((s.at_ now).giveVote tidx).follow tidx)

/-- COMMIT_PREP sent again to the children of a role that have not answered (R222). -/
def State.solicitAgain (s : State) (i : Fin 64) (job : Bool) : State :=
  let t := s.ten i
  let c := t.commit
  let level := if job then 3 else 2
  let late := (t.groupsOf job).filter fun g => !t.childLost job g && !s.childAnswered i job g
  let children := (late.filterMap fun g =>
    if (if job then s.ownPod i g else s.ownChip i g) || (t.creditOf job g).answered then none
    else ((t.entriesOf job g).find? fun x => !job || !t.fox.isLost x.addr).map (·.addr)).filter fun a => a.chip != s.self.chip
  let targets := if job then [] else late.flatMap fun g =>
    (t.targetsIn g).filter fun a => a.chip != s.self.chip && !(t.creditOf false g).heard.contains a
  (children ++ targets).foldl (fun s a => s.send (s.ctrlTo i a 0x10 c.openEpoch c.openTry level)) s

/-- The request of a WITHHELD member whose repeat is due next: each is repeated eight times at most (R226). -/
def CommitS.nextAsked (c : CommitS) : Option Asked :=
  (c.asked.filter fun r => r.repeats < 8).foldl (fun m r => match m with
    | some x => if r.since < x.since then some r else m
    | none => some r) none

/-- The request whose repeat is due next, sent again VOTE_REPEAT after its last sending (R226, R227). -/
def State.repeatRequest (s : State) (i : Fin 64) : State :=
  match (s.ten i).commit.vstate, (s.ten i).commit.nextAsked with
  | .withheld, some r =>
    let s := s.reach r.since s.repeatNs
    (s.updCommit i fun c => { c with
      asked := c.asked.map fun x => if x = r then { r with repeats := r.repeats + 1, since := s.time.now } else x }).requestOwn i r.reason
  | _, _ => s

/-- VOTE_REPEAT_EXPIRY (R222, R226, R227, R241, R245, R258): VOTE_REPEAT after the last sending of what is repeated. -/
def execVoteRepeatExpiry (tidx : Fin 64) (what : RepeatKind) (s : State) : Out :=
  let i := tidx
  let c := (s.ten i).commit
  if !s.portsUp || (s.ten i).env.isNone || (s.ten i).fox.self == .fenced || !s.mayInject then .next s
  else
    match what with
    | .podVote => .next (if s.isPodManager i && c.podM == .sent then (s.reach c.podAt s.repeatNs).podVote i else s)
    | .chipVote => .next (if s.isChipManager && c.chipM == .sent then (s.reach c.chipAt s.repeatNs).chipVote i else s)
    | .solicit =>
      if c.podM ≠ .solicit ∧ c.jobM ≠ .solicit then .next s
      else
        let s := s.reach c.solicitAt s.repeatNs
        let s := s.updCommit i fun c => { c with solicitAt := s.time.now }
        let s := if c.podM = .solicit then s.solicitAgain i false else s
        let s := if c.jobM = .solicit then s.solicitAgain i true else s
        .next (s.follow i)
    | .request => .next ((s.repeatRequest i).follow i)
    | .targetRequest =>
      .next (if (s.ten i).bg.asking then
          let s := s.reach (s.ten i).bg.askedAt s.repeatNs
          ((s.updBg i fun b => { b with askedAt := s.time.now }).requestOwn i 0x08).follow i
        else s)
    | .report a =>
      .next (((s.ten i).fox.reports.filter fun r => r.subject == a).foldl (fun s r =>
        (s.reach r.since s.repeatNs).sendReport i r) s)

/-- A software abort, ABORT_WAIT's expiry or a request that meets SOLICIT is held (R223). -/
def State.orHold (s : State) (i : Fin 64) (reason : Byte) (f : State → State) : State :=
  if (s.ten i).commit.jobM = .solicit then s.updCommit i fun c => { c with held := c.held ++ [reason] } else f s

/-- ABORT_WAIT_EXPIRY (R223, R227, R228): at the acting job manager, ABORT_WAIT after the opening of the attempt it names.
One that finds a new attempt leaves that to its own wait, which runs from its opening. -/
def execAbortWaitExpiry (x : AttemptId) (s : State) : Out :=
  let i := x.tidx
  let c := (s.ten i).commit
  if !s.isJobManager i || !s.commits i || !s.attemptStands i || c.abortWait == 0 || !s.mayInject ||
      x.epoch.toNat != c.openEpoch || x.tr != c.openTry then .next s
  else
    let s := s.reach c.openedAt (c.abortWait.toNat * 1000)
    .next ((s.orHold i 0x02 fun s => (s.decideAbort i 0x02).raiseT i 0xB5).follow i)

/-- The tenant MNL_UE_TSEL selects. -/
def State.selected (s : State) : Fin 64 := s.regs.tsel.toFin

/-- Whether a write carries NQ_TAG 0x0000 or the selected tenant's tag. -/
def State.ownTag (s : State) (a : Acc) : Bool := fromSystem a || (s.tenantOf a.tag == some s.selected)

/-- EC_ABORT (R223, R230): refused unless this instance is the acting job manager; AUTO_ABORT takes the value written, and
the open attempt is aborted where there is one (R214). -/
def execEcAbort (a : Acc) (autoAbort : Bool) (s : State) : Out :=
  let i := s.selected
  if !s.portsUp then .next s
  else if !s.windowOpen 0x2818 || !s.ownTag a || !s.isJobManager i then .next (s.refuse a.id 0x2818)
  else
    let s := (s.ok a.id).updCommit i fun c => { c with autoAbort := autoAbort }
    .next (if s.commits i && s.attemptStands i then (s.orHold i 0x01 fun s => s.decideAbort i 0x01).follow i else s)

end Sys2Proof.Machine
end

