-- ==== Sys2Proof/Machine/Audit.lean ====
section
/-! DEFINITION. Audit, the step record and lockstep: the commands of the auditor, its helpers and the corrections, the
root engine's end, and the digests two runs compare (R305 to R315). -/

namespace Sys2Proof.Machine

/-- The state with the audit block changed. -/
def State.updAudit (s : State) (f : AuditS → AuditS) : State := { s with audit := f s.audit }

/-! ## Trees (R263, R309) -/

/-- The positions of tree `j`: the k data columns and parity position k + j, ascending. -/
def treePositions (d : SettDesc) (j : Nat) : List Nat := List.range d.k ++ [d.k + j]

/-- The row of the member at a position of a stripe. -/
def rowAt (d : SettDesc) (st pos : Nat) : Option Row := d.rows[rankAt d.k d.m (st % max 1 (settN d)) pos]?

/-- This member's position in a stripe. -/
def ownPos (d : SettDesc) (st : Nat) : Nat := posOf d.k d.m d.rank (st % max 1 (settN d))

/-- Whether the stripes of a slot take part in an audit: every rank holds a position of each, so none may be in U (R257,
R308). -/
def SlotS.audits (sl : SlotS) : Bool := (List.range (settN sl.sett)).all fun r => sl.rankSt r == .present

/-- The stripes of the slot. -/
def settStripes (d : SettDesc) : Nat := settN d * cycles d

/-- The CMASK of a whole tree: the data columns and the parity position that names it. -/
def fullMask (d : SettDesc) (j : Nat) : BitVec 36 :=
  (treePositions d j).foldl (fun (m : BitVec 36) p => m ||| (1 <<< p)) 0

/-- The tree a CMASK names: the parity position in it. -/
def treeOf (d : SettDesc) (cmask : BitVec 36) : Option Nat := (List.range d.m).find? fun j => cmask.getLsbD (d.k + j)

/-- An AUDIT_PART to a member. -/
def State.auditFrame (s : State) (i : Fin 64) (a : Addr) (slot : Nat) (epoch panel : Nat) (cmask : BitVec 36) (payload : List Byte) :
    OutFrame :=
  s.frame i .badger (.member a) 0x51 epoch 0 (panel % 2 ^ 23 + cmask.toNat * 2 ^ 23 + slot % 16 * 2 ^ 59) payload

/-! ## Corrections and releases at a member (R310, R312) -/

/-- A helper's run over: the vote it held may go. -/
def State.closeHelp (s : State) (h : AuHelp) : State :=
  s.updAudit fun a => { a with helps := a.helps.filter (· != h) }

/-- The run a member holds for an auditor, by the slot and a test of its stripes. -/
def State.helpFor (s : State) (i : Fin 64) (k : Nat) (auditor : Addr) (epoch : Nat) (p : AuHelp → Bool) : Option AuHelp :=
  s.audit.helps.find? fun h => h.tidx == i && h.slot.val == k && h.auditor == auditor && h.epoch == epoch && p h

/-- Whether a stripe belongs to a helper's run of a slot. -/
def AuHelp.holds (h : AuHelp) (d : SettDesc) (st : Nat) : Bool :=
  decide (h.s0 ≤ st) && (st - h.s0) % max 1 (settN d) == 0 && decide ((st - h.s0) / max 1 (settN d) < h.count)

/-- A run whose release has come and whose counted corrections are applied closes. -/
def State.tryClose (s : State) (h : AuHelp) : State :=
  match h.release with
  | some n => if n ≤ h.fixed then s.closeHelp h else s
  | none => s

/-- A helper's run changed, and closed where nothing more is due. -/
def State.setHelp (s : State) (old new : AuHelp) : State :=
  (s.updAudit fun a => { a with helps := a.helps.map fun x => if x = old then new else x }).tryClose new

/-- Whether the sweep of the open attempt has started a strip that covers a panel: a computed strip of it, a RED strip, its
zeroing as RETIRING, or the staging of its scalar panel. -/
def State.stripStarted (s : State) (i : Fin 64) (c q : Nat) : Bool :=
  let w := (s.ten i).sweep
  match s.entry c with
  | none => false
  | some e =>
    let running := w.state != .idle && w.state != .intake
    let begun (it : SweepItem) : Bool := match it with
      | .strip g c2 k skip => !skip && !(w.todo.contains (.strip g c2 k skip)) && w.state != .prep &&
          (match s.boundProg i g with
           | some p => (match s.stripAt i g p c2 k with | some x => (s.stripPanels i g p x).contains (c, q) | none => false)
           | none => false)
      | _ => false
    let strips := match s.boundProg i e.sgrp.toNat with
      | some p => (s.streamRegions i e.sgrp.toNat p.drive).flatMap fun (r : Nat × Entry) => s.regionStrips i e.sgrp.toNat p w.recs r.1 r.2
      | none => []
    let reds := match s.boundProg i e.sgrp.toNat with
      | some p => !p.red.isEmpty && (s.streamRegions i e.sgrp.toNat p.drive).any fun r => (List.range (stripCount p r.2)).any fun k =>
          !(w.prep.contains (.red e.sgrp.toNat r.1 k)) &&
            (match s.stripAt i e.sgrp.toNat p r.1 k with
             | some x => (s.stripPanels i e.sgrp.toNat p x).contains (c, q)
             | none => false)
      | none => false
    running && (strips.any begun || reds || (w.groups.any fun g => g.scalarCtx == some c) ||
      (e.state == .retiring && !w.todo.contains (.zero c q)))

/-- A correction put into a parity panel: copy C, and the accumulating copy where it is current. -/
def State.fixParity (s : State) (k e : Nat) (x : List Byte) : State :=
  let d := (s.slot k).sett
  let r := s.parityRec d e
  let put (s : State) (a : Nat) : State := (s.putBytes a (xorBytes (s.bytesAt a 4096) x)).setKept a (s.kept a ^^^ pd x)
  let s := put s (s.parityAddr d e r.c)
  if r.n && s.recCurrent r then put s (s.parityAddr d e (!r.c)) else s

/-- A correction applied to the panel at this member's position of a stripe; none where it must be discarded: the panel is
in the repair queue, or no region holds it. -/
def State.fixPanel (s : State) (i : Fin 64) (k st : Nat) (x : List Byte) : Option State :=
  let d := (s.slot k).sett
  let pos := ownPos d st
  let p := panelAt d st pos
  if d.k ≤ pos then if s.badger.repairs.contains (.parity k p) then none else some (s.fixParity k p x)
  else
    match s.holderOf k p with
    | none => none
    | some (c, e, q) =>
      if s.badger.repairs.contains (.data c q) then none
      else
        let a := e.panelAddr q (s.panelRec e q).c
        let s := (s.putBytes a (xorBytes (s.bytesAt a 4096) x)).setKept a (s.kept a ^^^ pd x)
        some (if s.stripStarted i c q then s.withhold i 0x0F else s)

/-- Check 7 of the audit's frames (R309). -/
def State.auditOk (s : State) (i : Fin 64) (epoch : Nat) (tr : BitVec 7) : Bool :=
  let c := (s.ten i).commit
  tr == 0 && c.vstate != .none && c.vstate != .ready && epoch == c.committed

/-- A correction judged (R312): applied under the run it belongs to, or discarded with event 0xF6. -/
def State.correction (s : State) (i : Fin 64) (k : Nat) (auditor : Addr) (epoch : Nat) (tr : BitVec 7) (st : Nat) (cmask : BitVec 36)
    (x : List Byte) : State :=
  let d := (s.slot k).sett
  if !s.auditOk i epoch tr || cmask ≠ 1 <<< ownPos d st then s.raiseT i 0xF6 st
  else
    match s.helpFor i k auditor epoch fun h => h.holds d st with
    | none => s.raiseT i 0xF6 st
    | some h =>
      match s.fixPanel i k st x with
      | none => s.raiseT i 0xF6 st
      | some s => s.setHelp h { h with fixed := h.fixed + 1 }

/-- A release judged (R310): the run closes, or waits for the corrections the release counts. -/
def State.releaseRun (s : State) (i : Fin 64) (k : Nat) (auditor : Addr) (epoch s0 n : Nat) : State :=
  match s.helpFor i k auditor epoch fun h => h.s0 == s0 with
  | some h => s.setHelp h { h with release := some n }
  | none => s

/-! ## Judging at the auditor (R311, R313) -/

/-- g(j, x) of R311. -/
def audG (d : SettDesc) (j x : Nat) : Byte := if x < d.k then d.coef.getD (j * d.k + x) 0 else if x = d.k + j then 1 else 0

/-- The panel e that a position would have to be off by for the syndromes, where it explains all of them. -/
def explains (d : SettDesc) (syn : List (List Byte)) (x : Nat) : Option (List Byte) :=
  let e := if x < d.k then gfScale (gfInv (audG d 0 x)) (syn.getD 0 []) else syn.getD (x - d.k) []
  if (e.any (· != 0)) && (List.range d.m).all fun j => gfScale (audG d j x) e == syn.getD j [] then some e else none

/-- What the syndromes of a stripe say. -/
inductive AuVerdict where
  | clean
  | located (x : Nat) (e : List Byte)
  | detected
  deriving DecidableEq, Repr

/-- The verdict on a stripe. -/
def verdict (d : SettDesc) (st : Nat) (syn : List (List Byte)) : AuVerdict :=
  if syn.all fun s => s.all (· == 0) then .clean
  else if d.m < 2 then .detected
  else
    match ((List.range (settN d)).filter (realPos d st ·)).filterMap fun x => (explains d syn x).map fun e => (x, e) with
    | [(x, e)] => .located x e
    | _ => .detected

/-- The slot being audited. -/
def State.auSlot (s : State) : Nat := s.audit.slot.toNat

/-- The audit ends when no stripe is left to request and no run is outstanding: event 0xF3. -/
def State.auditEnd (s : State) : State :=
  if s.audit.busy && s.audit.todo.isEmpty && s.audit.runs.isEmpty then
    (s.updAudit fun a => { a with busy := false }).raise {
      code := 0xF3, unit := s.auSlot, tenant := match s.slotTenant s.auSlot with | some i => s.tagOf i | none => 0 }
  else s

/-- The release of a run sent to every helper, this member's own taken here, and the run ended. -/
def State.releaseHelpers (s : State) (i : Fin 64) (r : AuRun) : State :=
  let k := s.auSlot
  let rows := (s.slot k).sett.rows
  let s := s.updAudit fun a => { a with runs := a.runs.filter fun x => x.s0 != r.s0 }
  let s := rows.foldl (fun s row =>
    let n := match r.fixes.find? fun x => x.1 == row.addr with | some x => x.2 | none => 0
    if row.addr = s.self then s.releaseRun i k s.self r.epoch r.s0 n
    else s.send (s.auditFrame i row.addr row.mslot.toNat r.epoch r.s0 0 (padTo 4096 (leBytes 4 n)))) s
  s.auditEnd

/-- A stripe judged: counted, corrected or reported, and the run released once every stripe of it is judged. -/
def State.judgeStripe (s : State) (i : Fin 64) (r : AuRun) (st : Nat) : State :=
  let k := s.auSlot
  let d := (s.slot k).sett
  let syn := (List.range d.m).map fun j => match r.parts.find? fun p => p.stripe == st && p.row == j with | some p => p.bytes | none => []
  let r : AuRun := { r with judged := r.judged ++ [st] }
  let s := s.updAudit fun a => { a with checked := a.checked + 1, epoch := r.epoch }
  let add (l : List (Addr × Nat)) (x : Addr) : List (Addr × Nat) :=
    if l.any fun y => y.1 == x then l.map fun y => if y.1 = x then (y.1, y.2 + 1) else y else l ++ [(x, 1)]
  let (s, r) : State × AuRun := match verdict d st syn with
    | .clean => (s.updAudit fun a => { a with clean := a.clean + 1 }, r)
    | .located x e =>
      let s := (s.updAudit fun a => { a with corrected := a.corrected + 1 }).raiseT i 0xF4 st
      match rowAt d st x with
      | none => (s, r)
      | some row =>
        let s := if row.addr = s.self then s.correction i k s.self r.epoch 0 st (1 <<< x) e
          else s.send (s.auditFrame i row.addr row.mslot.toNat r.epoch st (1 <<< x) e)
        (s, { r with fixes := add r.fixes row.addr })
    | .detected =>
      ((s.updAudit fun a => { a with
        detected := a.detected + 1, firstBad := match a.firstBad with | some x => some x | none => some st }).raiseT i 0xF5 st, r)
  let s := s.updAudit fun a => { a with runs := a.runs.map fun x => if x.s0 = r.s0 then r else x }
  if r.stripes.all fun x => r.judged.contains x then s.releaseHelpers i r else s

/-- A tree's sum that has come to the auditor from the tree's first position; any other part counts under 0xD7. -/
def State.auditorPart (s : State) (i : Fin 64) (src : Addr) (epoch st : Nat) (cmask : BitVec 36) (bytes : List Byte) : State :=
  let d := (s.slot s.auSlot).sett
  match treeOf d cmask, s.audit.runs.find? fun r => r.stripes.contains st && !r.judged.contains st && r.epoch == epoch with
  | some j, some r =>
    let first : Bool := match rowAt d st ((treePositions d j).headD 0) with | some row => row.addr == src | none => false
    if !first || cmask ≠ fullMask d j || (r.parts.any fun p => p.stripe == st && p.row == j) then s.count 0xD7
    else
      let r' : AuRun := { r with parts := r.parts ++ [{ stripe := st, row := j, bytes := bytes }] }
      let s := s.updAudit fun a => { a with runs := a.runs.map fun x => if x.s0 = r.s0 then r' else x }
      if (r'.parts.filter fun p => p.stripe == st).length = d.m then s.judgeStripe i r' st else s
  | _, _ => s.count 0xD7

/-! ## Helpers (R309) -/

/-- The accumulators of a helper's run that owe nothing sent to their parents; a part to this member itself is taken here. -/
def State.sendTrees (s : State) (i : Fin 64) (h : AuHelp) : State :=
  let ready := h.accs.filter fun a => a.owes.isEmpty
  let h' : AuHelp := { h with accs := h.accs.filter fun a => !a.owes.isEmpty }
  let s := s.updAudit fun a => { a with helps := a.helps.map fun x => if x = h then h' else x }
  ready.foldl (fun s a =>
    if a.parent = s.self then s.auditorPart i s.self h.epoch a.stripe a.cmask a.bytes
    else s.send (s.auditFrame i a.parent a.parentSlot.toNat h.epoch a.stripe a.cmask a.bytes)) s

/-- This helper's accumulator of tree `j` of a stripe, with its own contribution in it (R263, R309). -/
def State.auditAcc (s : State) (k : Nat) (auditor : Addr) (st j : Nat) : AuAcc :=
  let d := (s.slot k).sett
  let pos := ownPos d st
  let ps := treePositions d j
  let ix := (ps.findIdx? (· == pos)).getD 0
  let up := match parentOf ix with
    | some x => (match rowAt d st (ps.getD x 0) with | some row => row.addr | none => auditor)
    | none => auditor
  let upSlot : BitVec 4 := match d.rows.find? fun x => x.addr == up with | some row => row.mslot | none => 0
  let p := panelAt d st pos
  let own := if d.k ≤ pos then s.ownPanel k true p
    else if virtualCol d st pos then List.replicate 4096 0 else gfScale (audG d j pos) (s.ownPanel k false p)
  { stripe := st, row := j, bytes := own, cmask := (1 <<< pos) ||| (1 <<< (d.k + j))
    owes := (childrenOf ix ps.length).filterMap fun c => ps[c]?, parent := up, parentSlot := upSlot }

/-- The trees of a stripe this member is in: every one for a data column, its own for a parity position. -/
def ownTrees (d : SettDesc) (st : Nat) : List Nat :=
  let pos := ownPos d st
  if d.k ≤ pos then [pos - d.k] else List.range d.m

/-- A run a helper is asked for (R309): accepted, its panels read and checked, its trees begun; discarded without a reply
where the request table, the reservation or a read fails it. A request for a run it holds replaces that run. -/
def State.auditRequest (s : State) (i : Fin 64) (k : Fin 16) (auditor : Addr) (epoch s0 count : Nat) (flt : ReadFault) : State :=
  let d := (s.slot k.val).sett
  let n := settN d
  let sts := (List.range count).map fun j => s0 + j * n
  let old := s.helpFor i k.val auditor epoch fun h => h.s0 == s0
  let s := match old with | some h => s.closeHelp h | none => s
  if s.flt.inReset.contains .badger then s
  else if Config.requestTable ≤ s.requestsHeld then s.count 0x49
  else if (s.slot k.val).kind ≠ .sett ∨ count = 0 ∨ settStripes d < s0 + (count - 1) * n + 1 then s.raiseT i 0xD6 s0
  else
    let par := decide (d.k ≤ ownPos d s0)
    let real := sts.filter fun st => par || !virtualCol d st (ownPos d st)
    let rd := s.helperRead i flt (s.readAddrs k.val par (real.map fun st => panelAt d st (ownPos d st)))
    if rd.2 then rd.1
    else
      let pairs := sts.flatMap fun st => (ownTrees d st).map fun j => (st, j)
      if Config.reservationUnits < s.reserved4k + pairs.length then s.count 0xD5
      else
        let h : AuHelp := {
          tidx := i, slot := k, auditor := auditor, s0 := s0, count := count, epoch := epoch
          accs := pairs.map fun x => s.auditAcc k.val auditor x.1 x.2, release := none, fixed := 0, since := s.time.now }
        let s := s.gfPanels (if par then 0 else (pairs.filter fun x => !virtualCol d x.1 (ownPos d x.1)).length)
        let s := s.updAudit fun a => { a with helps := a.helps ++ [h] }
        let s := s.updBadger fun b => { b with peak := max b.peak s.reserved4k }
        s.sendTrees i h

/-- AUDIT_REQ (R66, R304, R308, R309). -/
def execAuditReq (f : Rx) (flt : ReadFault) (s : State) : Out :=
  let k := tField f 39 4
  .next (s.receive f
    { typ := 0x50, ok2 := tField f 43 21 == 0, ok3 := f.len == 0, ok8 := fun s i => s.knownIn i k f.src } fun s i =>
    if !s.auditOk i f.epoch.toNat f.tr then s.count 0xF9
    else (s.auditRequest i (Fin.ofNat 16 k) f.src f.epoch.toNat (tField f 0 23) (tField f 23 16) flt).follow i)

/-- The checks of an AUDIT_PART. -/
def auditPartCheck (f : Rx) (form : Bool) (ok7 : State → Fin 64 → Bool) : Check :=
  { typ := 0x51, ok2 := !f.t.getLsbD 63 && form, ok3 := f.len == 4096, ok7 := ok7, ok8 := fun s i => s.knownIn i (tField f 59 4) f.src }

/-- CMASK of an AUDIT_PART. -/
def auditMask (f : Rx) : BitVec 36 := BitVec.ofNat 36 (tField f 23 36)

/-- The position of a source in a stripe of a slot. -/
def SlotS.posOfAddr (sl : SlotS) (a : Addr) (st : Nat) : Option Nat :=
  (sl.rankOf a).map fun r => posOf sl.sett.k sl.sett.m r (st % max 1 (settN sl.sett))

/-- A part taken by the helper's tree it belongs to, or by the auditor. -/
def State.takeAuditPart (s : State) (i : Fin 64) (k : Nat) (f : Rx) : State :=
  let st := tField f 0 23
  let m := auditMask f
  let sl := s.slot k
  let found := s.audit.helps.findSome? fun h =>
    if h.tidx == i && h.slot.val == k && decide (h.epoch = f.epoch.toNat) then
      match sl.posOfAddr f.src st, treeOf sl.sett m with
      | some pos, some j => (h.accs.find? fun a => a.stripe == st && a.row == j && a.owes.contains pos).map fun a => (h, a, pos)
      | _, _ => none
    else none
  match found with
  | some (h, a, pos) =>
    let a' : AuAcc := { a with bytes := xorBytes a.bytes f.payload, cmask := a.cmask ||| m, owes := a.owes.filter (· != pos) }
    let h' : AuHelp := { h with accs := h.accs.map fun x => if x = a then a' else x }
    (s.updAudit fun z => { z with helps := z.helps.map fun x => if x = h then h' else x }).sendTrees i h'
  | none => if k = s.auSlot then s.auditorPart i f.src f.epoch.toNat st m f.payload else s.count 0xD7

/-- AUDIT_PART (R309, R311). -/
def execAuditPart (f : Rx) (s : State) : Out :=
  .next (s.receive f (auditPartCheck f (auditMask f != 0) fun s i => s.auditOk i f.epoch.toNat f.tr) fun s i =>
    (s.takeAuditPart i (tField f 59 4) f).follow i)

/-- AUDIT_CORRECTION (R309, R312). -/
def execAuditCorrection (f : Rx) (s : State) : Out :=
  let one := ((List.range 36).filter fun b => (auditMask f).getLsbD b).length == 1
  .next (s.receive f (auditPartCheck f one fun _ _ => true) fun s i =>
    (s.correction i (tField f 59 4) f.src f.epoch.toNat f.tr (tField f 0 23) (auditMask f) f.payload).follow i)

/-- AUDIT_RELEASE (R309, R310): its payload beyond the count is zero. -/
def execAuditRelease (f : Rx) (s : State) : Out :=
  .next (s.receive f (auditPartCheck f (auditMask f == 0 && (f.payload.drop 4).all (· == 0)) fun s i => s.auditOk i f.epoch.toNat f.tr)
    fun s i => (s.releaseRun i (tField f 59 4) f.src f.epoch.toNat (tField f 0 23) (leField f.payload 0 4)).follow i)

/-! ## The auditor's commands (R308, R313) -/

/-- RESULT of a START (R308). -/
def State.auditResult (s : State) (k : Nat) : Nat :=
  let d := (s.slot k).sett
  let n := s.audit.count.toNat
  if s.audit.busy then 1
  else if (s.slot k).kind ≠ .sett ∨ !s.cap 5 then 3
  else if n = 0 ∨ settStripes d < s.audit.first.toNat + n ∨ 8388608 < settStripes d then 4
  else 0

/-- The stripes of a range, one rotation after the other. -/
def rotationOrder (d : SettDesc) (first count : Nat) : List Nat :=
  let n := max 1 (settN d)
  (List.range (min n count)).flatMap fun u => (List.range ((count - u + n - 1) / n)).map fun j => first + u + j * n

/-- AUDIT_START (R308, R329). -/
def execAuditStart (a : Acc) (slot : BitVec 4) (s : State) : Out :=
  if !s.portsUp then .next s
  else if !fromSystem a || !s.windowOpen 0x6100 then .next (s.refuse a.id 0x6100)
  else
    let r := s.auditResult slot.toNat
    if r ≠ 0 then .next ((s.updAudit fun x => { x with result := BitVec.ofNat 8 r }).refuse a.id 0x6100)
    else
      let todo := rotationOrder (s.slot slot.toNat).sett s.audit.first.toNat s.audit.count.toNat
      .next ((s.ok a.id).updAudit fun x => { x with
        op := 1, slot := slot, result := 0, busy := true, todo := todo, runs := [], checked := 0, clean := 0, skipped := 0
        corrected := 0, detected := 0 })

/-- AUDIT_STOP (R313): runs not yet judged are abandoned; helpers close them by BADGER_RTO. SLOT is what the
write carries in that field. -/
def execAuditStop (w : StopW) (s : State) : Out :=
  .next (s.window w.acc 0x6100 true fun s => s.updAudit fun x => { x with
    op := 2, slot := w.slot, result := 0, busy := false, todo := [], runs := [] })

/-- The request of a run to one of its members. -/
def State.auditReq (s : State) (i : Fin 64) (row : Row) (s0 count epoch : Nat) : OutFrame :=
  s.frame i .badger (.member row.addr) 0x50 epoch 0 (s0 % 2 ^ 23 + count % 2 ^ 16 * 2 ^ 23 + row.mslot.toNat * 2 ^ 39)

/-- The requests of a run sent to the member of every position, this member's own taken here (R308). -/
def State.sendAuditRun (s : State) (i : Fin 64) (k : Fin 16) (s0 count epoch : Nat) : State :=
  (s.slot k.val).sett.rows.foldl (fun s row =>
    if row.addr = s.self then
      if s.auditOk i epoch 0 then s.auditRequest i k s.self epoch s0 count .none else s.count 0xF9
    else s.send (s.auditReq i row s0 count epoch)) s

/-- The stripes of the next run: up to RUN of one rotation. -/
def nextRun (n run : Nat) (todo : List Nat) : List Nat :=
  match todo with
  | [] => []
  | a :: _ => ((todo.zipIdx.takeWhile fun p => p.1 == a + p.2 * n).map (·.1)).take run

/-- AUDIT_RUN_REQUEST (R68, R257, R308): the next run requested; stripes with a position held by a rank in U are skipped. -/
def execAuditRunRequest (s : State) : Out :=
  let k := s.auSlot
  let d := (s.slot k).sett
  match s.slotTenant k with
  | none => .next s
  | some i =>
    let run := nextRun (settN d) (max 1 s.cfg.glob.run) s.audit.todo
    match run with
    | [] => .next s
    | s0 :: _ =>
      if !s.audit.busy || s.flt.mode ≠ .normal || s.flt.inReset.contains .badger ||
          decide (Config.maxOutstanding < (s.audit.runs.length + 1) * settN d) then .next s
      else
        let s := s.updAudit fun a => { a with todo := a.todo.drop run.length }
        if !(s.slot k).audits then .next (s.updAudit fun a => { a with skipped := a.skipped + run.length }).auditEnd
        else
          let epoch := (s.ten i).commit.committed
          let r : AuRun := { s0 := s0, count := run.length, epoch := epoch, stripes := run, judged := [], parts := [], fixes := [], since := s.time.now }
          let s := s.updAudit fun a => { a with runs := a.runs ++ [r] }
          .next ((s.sendAuditRun i (Fin.ofNat 16 k) s0 run.length epoch).follow i)

/-- AUDIT_RUN_TIMEOUT (R29, R68, R257, R309): BADGER_RTO after its requests an unanswered run is requested again, for the
stripes not judged yet, at the committed epoch of the moment; stripes that now have a rank in U are skipped, and those the
512 outstanding requests have no room for wait. -/
def execAuditRunTimeout (s0 : Nat) (s : State) : Out :=
  let k := s.auSlot
  match s.slotTenant k, s.audit.runs.find? fun r => r.s0 == s0 with
  | some i, some r =>
    if s.flt.mode ≠ .normal then .next s
    else
      let s := s.reach r.since s.rtoBadger
      let n := settN (s.slot k).sett
      let left := r.stripes.filter fun st => !r.judged.contains st
      let s := s.updAudit fun a => { a with runs := a.runs.filter fun x => x.s0 != s0 }
      if !(s.slot k).audits then .next (s.updAudit fun a => { a with skipped := a.skipped + left.length }).auditEnd
      else
        let epoch := (s.ten i).commit.committed
        let parts := stretches (left.map fun st => (st - s0) / max 1 n)
        let room := Config.maxOutstanding / max 1 n - s.audit.runs.length
        let later := (parts.drop room).flatMap fun x => (List.range x.2).map fun j => s0 + (x.1 + j) * n
        let s := s.updAudit fun a => { a with todo := later ++ a.todo }
        .next (((parts.take room).foldl (fun s x =>
          let b := s0 + x.1 * n
          let sts := (List.range x.2).map fun j => b + j * n
          let r : AuRun := { s0 := b, count := x.2, epoch := epoch, stripes := sts, judged := [], parts := [], fixes := [], since := s.time.now }
          (s.updAudit fun a => { a with runs := a.runs ++ [r] }).sendAuditRun i (Fin.ofNat 16 k) b x.2 epoch) s).follow i)
  | _, _ => .next s

end Sys2Proof.Machine
end

