-- ==== Sys2Proof/Machine/Lath.lean ====
section
/-! DEFINITION. The lath: a transfer's check and its repeat, what each message does at a stop, and the ring walk (R12,
R217, R226, R235, R348, R375, R376, R396, R397). -/

namespace Sys2Proof.Machine

/-- The state with the lath changed. -/
def State.updLath (s : State) (f : LathS → LathS) : State := { s with lath := f s.lath }

/-- The state with what the ring shows of one instance changed. -/
def State.updMate (s : State) (inst : BitVec 4) (f : LathInst → LathInst) : State :=
  s.updLath fun l =>
    if h : inst.toNat < 12 then { l with insts := l.insts.set inst.toNat (f (l.insts.get ⟨inst.toNat, h⟩)) } else l

/-- What the ring shows of one instance. -/
def State.mateInst (s : State) (inst : BitVec 4) : LathInst :=
  if h : inst.toNat < 12 then s.lath.insts.get ⟨inst.toNat, h⟩ else default

/-- What a message of one tenant does, where the tenant is known here. -/
def State.lathTenant (s : State) (tidx : Nat) (f : State → Fin 64 → State) : State :=
  if h : tidx < 64 then
    if (s.ten ⟨tidx, h⟩).env.isSome then f s ⟨tidx, h⟩ else s
  else s

/-- The address of the instance of this chip with an INST. -/
def State.mateAddr (s : State) (inst : BitVec 4) : Addr := s.self.sibling inst

/-- Whether this stop takes part: configured and in service; otherwise it only forwards (R325, R376). -/
def State.lathActive (s : State) : Bool := s.configured && decide (s.flt.mode = .normal)

/-- Every tenant brought up to date after a change of what the ring shows (R217). -/
def State.followAll (s : State) : State :=
  tenantIdxs.foldl (fun s i => if (s.ten i).env.isSome then (s.syncRoles i false).follow i else s) s

/-- A sibling's vote state (R217, R221). A manager without a rank follows the attempt its chip's instances vote on
(DEDUCED, log entry 22). `again`: the ring showed it already. -/
def State.takeMateVote (s : State) (inst : BitVec 4) (i : Fin 64) (epoch : Nat) (tr : BitVec 7) (again : Bool) : State :=
  let c := (s.ten i).commit
  let s := if s.follower i ∧ (c.openEpoch ≠ epoch ∨ c.openTry ≠ tr) then
      s.updCommit i fun c => { c.cleared with
        openEpoch := epoch, openTry := tr, openedAt := s.time.now, genWait := false, advanced := false }
    else s
  let s := if s.isChipManager && s.commits i && !again && !(s.ten i).fox.isTarget (s.mateAddr inst) then s.noteChild i 0 (s.mateAddr inst) inst.toNat else s
  if s.lathActive then s.follow i else s

/-- A request as the manager above its level takes it: of another attempt it is ignored, but for a target's request for
its named try (R226, R258). -/
def State.takeLathRequest (s : State) (inst : BitVec 4) (i : Fin 64) (level : Nat) (reason : Byte) (epoch : Nat)
    (tr : BitVec 7) : State :=
  let c := (s.ten i).commit
  let a := s.mateAddr inst
  let target := (s.ten i).fox.isTarget a
  let opened := s.commits i && decide (c.openEpoch = epoch) && c.openTry == tr
  let named := decide (level = 0) && target && reason == 0x08 && s.commits i
  if !s.lathActive || !(opened || named) then s
  else if level = 2 then if s.isJobManager i then (s.jobRequest i reason).follow i else s
  else if level = 1 ∨ target then
    match s.isPodManager i, (s.ten i).targetChild a with
    | true, some g =>
      if named && s.podCredit i g == (s.ten i).expect false g then s else (s.requestPod i reason).follow i
    | true, none => (s.requestPod i reason).follow i
    | false, _ => s
  else if s.isChipManager then (s.requestChip i reason).follow i
  else s

/-- A pod manager's count at a job manager of its chip (R217, R222): from no child, or above EXPECT, event 0xB1. -/
def State.takePodVote (s : State) (inst : BitVec 4) (i : Fin 64) (ready epoch : Nat) (tr : BitVec 7) : State :=
  let t := s.ten i
  if !s.lathActive || !s.isJobManager i || !s.commits i || t.commit.openEpoch != epoch || t.commit.openTry != tr then s
  else
    match t.childOf true (s.mateAddr inst) with
    | some g =>
      let full (s : State) : Bool := s.jobCredit i g == (s.ten i).expect true g
      let s' := s.setCredit i { t.creditOf true g with ready := ready, answered := true }
      if t.expect true g < ready then s.raiseT i 0xB1 (s.mateAddr inst).toNat
      else (if full s' && !full s then s'.noteChild i 2 (s.mateAddr inst) g else s').follow i
    | none => s.raiseT i 0xB1 (s.mateAddr inst).toNat

/-- A decision the lath shows (R217, R222, R223): to a manager it is what an answer of this chip echoes. -/
def State.takeMateDecision (s : State) (i : Fin 64) (d : Decision) : State :=
  let s := if (s.ten i).commit.jobM = .solicit then s.heardPods i fun a => a.chip == s.self.chip else s
  (s.decision i d true).follow i

/-- What a message that has passed its check does at this stop. -/
def State.lathMessage (s : State) (m : LathMsg) : State :=
  match m with
  | .vote inst tidx ready epoch tr =>
    let again := (s.mateInst inst).ready.contains (tidx, epoch, tr)
    let s := s.updMate inst fun x =>
      let rest := x.ready.filter fun p => p.1 != tidx
      { x with ready := if ready then rest ++ [(tidx, epoch, tr)] else rest }
    if ready then s.lathTenant tidx fun s i => s.takeMateVote inst i epoch tr again else s
  | .holdsRank inst tidx holds =>
    let s := s.updMate inst fun x => { x with ranks := if holds then addOnce tidx x.ranks else x.ranks.filter (· != tidx) }
    s.lathTenant tidx fun s i => if s.lathActive then s.follow i else s
  | .inService inst up =>
    (s.updMate inst fun x => { x with up := up }).followAll
  | .decision tidx d =>
    if s.lathActive then s.lathTenant tidx fun s i => s.takeMateDecision i d
    else s.updLath fun l => { l with decisions := l.decisions ++ [(tidx, d)] }
  | .request inst tidx level reason epoch tr =>
    s.lathTenant tidx fun s i => s.takeLathRequest inst i level reason epoch tr
  | .podVote inst tidx ready epoch tr => s.lathTenant tidx fun s i => s.takePodVote inst i ready epoch tr
  | .update tidx u =>
    if s.flt.mode = .resetting then s
    else
      s.lathTenant tidx fun s i =>
        let g := (s.ten i).fox.gen
        if u.prevGen = g ∧ g < u.newGen then s.applyUpdate i u false true
        else if g < u.prevGen then s.querySync i
        else s
  | .distribute o => s.receiveImage o
  | .answer inst accept => s.takeAnswer inst accept
  | .taken copy => if s.power.flash then s else s.applyCandidate copy
  | .noneTaken => if s.power.flash || s.configured then s else s.noCopy

/-- LATH_TRANSFER (R397): a transfer whose check is wrong is asked for once more; a second failure raises 0x10. -/
def execLathTransfer (x : LathXfer) (s : State) : Out :=
  if !s.portsUp then .next s
  else if x.payload1.length = 64 ∧ crc32c x.payload1 = x.crc1 then .next (s.lathMessage x.msg)
  else
    let s := s.updLath fun l => { l with retry := l.retry + 1 }
    if x.payload2.length = 64 ∧ crc32c x.payload2 = x.crc2 then .next (s.lathMessage x.msg)
    else .next (s.raise { code := 0x10, core := true })

/-- Whether straps read clockwise around the ring stand in ring order, this instance's among them (R12, R375). -/
def ringOrder (own : BitVec 4) (straps : List (BitVec 4)) : Bool :=
  let first := (straps.headD 0).toNat
  straps.contains own &&
    decide (straps = (List.range straps.length).map fun j => BitVec.ofNat 4 ((first + j) % straps.length))

/-- LATH_RING_WALK (R375, R380, R396, R397): every stop the walk passes shows it. A walk during distribution that finds the
straps out of order fails content check 3 of R347 for the copy in hand. -/
def execLathRingWalk (w : WalkResult) (s : State) : Out :=
  if !s.portsUp then .next s
  else
    let s := s.updLath fun l => { l with
      rtt := w.rtt, cwUp := w.cwUp, ccwUp := w.ccwUp, closed := w.closed, ninst := BitVec.ofNat 4 w.straps.length
      inOrder := ringOrder s.power.inst w.straps }
    match s.loader.candidate with
    | some o =>
      if s.configured then .next s
      else
        match s.contentFault o true with
        | some (code, detail) =>
          let s := s.raise { code := code, detail := detail }
          .next (if s.power.flash then s.nextCopy 0x07
            else (s.updLoader fun l => { l with candidate := none }).lathSend (.answer s.power.inst false))
        | none => .next s
    | none => .next s

end Sys2Proof.Machine
end

