-- ==== Sys2Proof/Machine/Lockstep.lean ====
section
/-! DEFINITION. The step record at the root engine's end, and lockstep: the digests a pair sends and compares (R305 to R307,
R314, R315). -/

namespace Sys2Proof.Machine

/-! ## Step records (R306, R307) -/

/-- CONFIG: the digest of the configuration record (R353). -/
def Record.digest (r : Record) : List Byte := sha256 r.bytes

/-- The 256 bytes of a step record (R306). -/
def State.recordBytes (s : State) (i : Fin 64) (p : PendingRec) (root : List Byte) : List Byte :=
  let x := (s.ten i).steprec
  let prior := if p.fresh ∨ p.epoch = 0 then [] else x.root
  leBytes 4 0x3152534D ++ leBytes 2 (s.tagOf i).toNat ++ [1, BitVec.ofNat 8 p.flags.toNat] ++ leBytes 6 p.epoch ++
    [BitVec.ofNat 8 p.tr.toNat, 0] ++ leBytes 4 p.gen.toNat ++ leBytes 4 s.self.toNat ++ leBytes 8 p.time.toNat ++
    slice p.prog 0 32 ++ slice s.cfg.digest 0 32 ++ slice p.intake 0 32 ++ slice prior 0 32 ++ slice root 0 32 ++
    slice x.last 0 32 ++ List.replicate 32 0

/-- The record of a commit or seal formed, written to its ring slot when the ring is on (R306). -/
def State.formRecord (s : State) (i : Fin 64) (p : PendingRec) : State :=
  let root := merkleRoot p.leaves.length (p.leaves.map sha256)
  let bytes := s.recordBytes i p root
  let s := if s.audit.srEn then
      s.putBytes (s.audit.srBase.toNat + 16384 * i.val + 256 * (p.epoch % 64)) bytes else s
  let s := s.updTen i fun t => { t with steprec := { t.steprec with
    busy := none, root := root, last := sha256 bytes, count := t.steprec.count + 1 } }
  s.count 0xF2

/-- STATE_ROOT_COMPLETE (R305 to R307): a sweep that waited for the record may enter CLOSING. Under
dust sheet the root engine waits, since nothing may be written. -/
def execStateRootComplete (tidx : Fin 64) (s : State) : Out :=
  match (s.ten tidx).steprec.busy with
  | some p => if s.flt.mode ≠ .normal then .next s else .next ((s.formRecord tidx p).follow tidx)
  | none => .next s

/-! ## Pairs (R314) -/

/-- The panels a pair covers, by pair index: those of the tenant's ACTIVE regions, of its slot alone for a RING, in ascending
logical coordinate. -/
def State.pairPanels (s : State) (p : LsPair) : List (Entry × Nat) :=
  let regs := (s.entriesOf (s.tagOf p.tidx)).filter fun x =>
    x.2.state == .active && (match p.role, p.slot with | .ring, some k => x.2.slot == k | _, _ => true)
  (sortBy (fun a b => decide (a.2.coord 0 ≤ b.2.coord 0)) regs).flatMap fun x => (List.range x.2.lenp).map fun q => (x.2, q)

/-- The member at a distance from this one in a RING's list. -/
def State.ringMember (s : State) (p : LsPair) (d : Nat) : Addr :=
  match p.slot with
  | some k =>
    let rep := (s.slot k.val).rep
    match rep.rows[(rep.index + d) % max 1 rep.rows.length]? with | some r => r.addr | none => 0
  | none => 0

/-- The partner a pair sends to: for a RING the next member in the set's list. -/
def State.pairPartner (s : State) (p : LsPair) : Addr := if p.role = .ring then s.ringMember p 1 else p.partner

/-- The member whose digests a pair compares: for a RING the previous one. -/
def State.pairSource (s : State) (p : LsPair) : Addr :=
  if p.role = .ring then
    match p.slot with | some k => s.ringMember p ((s.slot k.val).rep.rows.length - 1) | none => 0
  else p.partner

/-- A pair changed. -/
def State.updPair (s : State) (n : Fin 15) (f : LsPair → LsPair) : State :=
  s.updAudit fun a => { a with pairs := a.pairs.set n (f (a.pairs.get n)) }

/-! ## Sending and comparing (R315) -/

/-- The frames of a pair's digests from a pair index on, at most 512 in each. -/
def State.sendPair (s : State) (n : Fin 15) (p : LsPair) (epoch : Nat) : Nat → Nat → List Word → State
  | 0, _, _ => s
  | fuel + 1, first, ds =>
    match ds with
    | [] => s
    | _ :: _ =>
      let now := ds.take 512
      let s := s.send (s.frame p.tidx .badger (.member (s.pairPartner p)) 0x52 epoch 0
        (first % 2 ^ 23 + now.length * 2 ^ 23 + n.val * 2 ^ 33) (now.flatMap fun x => leBytes 8 x.toNat))
      s.sendPair n p epoch fuel (first + now.length) (ds.drop 512)

/-- LOCKSTEP_SEND (R315): 100 µs after a qualifying commit, the kept digests of bank C of that epoch. -/
def execLockstepSend (pair : Fin 15) (s : State) : Out :=
  let p := s.audit.pairs.get pair
  match p.sendDue with
  | none => .next s
  | some e =>
    if s.flt.mode ≠ .normal then .next s
    else
      let s := (s.reach p.dueAt 100000).updPair pair fun p => { p with sendDue := none }
      if e ≠ (s.ten p.tidx).commit.committed then .next s
      else
        let ds := (s.pairPanels p).map fun x => s.keptC x.1 x.2
        .next (s.sendPair pair p e ds.length 0 ds)

/-- One digest compared with this member's own at its index: the first mismatch of an epoch is event 0xF7; the record
keeps the earliest epoch and within it the lowest index, until it is cleared. -/
def State.compareOne (s : State) (n : Fin 15) (epoch idx : Nat) (x : Entry × Nat) (theirs : Word) : State :=
  let mine := s.keptC x.1 x.2
  let s := s.updPair n fun p => { p with arrived := addOnce idx p.arrived }
  if mine = theirs then s
  else
    let p := s.audit.pairs.get n
    let s := if p.missed then s else (s.updPair n fun p => { p with missed := true }).raiseT p.tidx 0xF7 (x.1.coord x.2)
    let record : Bool := match p.mismatch with | none => true | some (_, e, _, _, j) => e == epoch && decide (idx < j)
    if record then s.updPair n fun p => { p with mismatch := some (BitVec.ofNat 64 (x.1.coord x.2), epoch, mine, theirs, idx) } else s

/-- A frame of digests compared; the epoch is fully compared once every index has come. -/
def State.comparePair (s : State) (n : Fin 15) (epoch first count : Nat) (payload : List Byte) : State :=
  let p := s.audit.pairs.get n
  let all := s.pairPanels p
  let s := if p.inHand = epoch then s
    else s.updPair n fun p => { p with inHand := epoch, arrived := [], missed := false, done := true }
  let s := (List.range count).foldl (fun s j =>
    match all[first + j]? with
    | some x => s.compareOne n epoch (first + j) x (BitVec.ofNat 64 (leField payload (8 * j) 8))
    | none => s) s
  s.updPair n fun p =>
    let whole := p.arrived.length == all.length
    { p with done := whole, epoch := if whole then epoch else p.epoch }

/-- DIGEST_X_LOCKSTEP (R314, R315): taken by the COMPARE or RING pair of that number whose source sent it, at the receiver's
committed epoch; any other is discarded and counted. -/
def execDigestXLockstep (f : Rx) (s : State) : Out :=
  let n := tField f 33 4
  if h : n < 15 then
    .next (s.receive f
      { typ := 0x52, ok2 := digestOk2 f, ok3 := decide (f.payload.length = 8 * tField f 23 10)
        ok7 := fun s i =>
          let p := s.audit.pairs.get ⟨n, h⟩
          f.tr == 0 && decide (f.epoch.toNat = (s.ten i).commit.committed) && (s.ten i).commit.vstate != .none &&
            (p.role == .compare || p.role == .ring) && p.tidx == i && s.pairSource p == f.src } fun s _ =>
      s.comparePair ⟨n, h⟩ f.epoch.toNat (tField f 0 23) (tField f 23 10) f.payload)
  else .next (s.receive f { typ := 0x52, ok2 := false, ok3 := true } fun s _ => s)

end Sys2Proof.Machine
end

