-- ==== Sys2Proof/Machine/Power.lean ====
section
/-! DEFINITION. Rails, the memory-and-links reset, test access, the activity ramp, the time source and the margin
monitors (R28, R30, R33, R333, R366 to R380). The release of the reset, which starts the loader, is in Loader.lean. -/

namespace Sys2Proof.Machine

/-! ## What a reset leaves -/

/-- The directory of the span in force cleared (R333). -/
def State.clearDirectory (s : State) : NMap Byte := Mem.zero s.mem s.dirBase s.dirLen

/-- The domain after a loss of its state: everything at its reset value but what lies outside it: pins, the stack, the
model's own counter and queue (R333, R366). -/
def State.lost (s : State) : State :=
  { State.reset with
    power := { s.power with testOpen := false, xspiOwn := false, ramp := false, rampGroups := 0, rampGf := 0, monSel := 0 }
    mem := s.clearDirectory, free := s.free, pending := s.pending }

/-- The domain after the assertion of the memory-and-links reset with VSCM in range: summary bits, history, torn list
and crash dumps stay, and PRIOR sets (R333, R371). -/
def State.domainReset (s : State) : State :=
  { s.lost with
    flt := { summary := s.flt.summary, seen := s.flt.seen, history := s.flt.history, seq := s.flt.seq, lost := s.flt.lost }
    crash := { s.crash with capturing := none, prior := true, fmt := false, page := 0 }
    power := { s.lost.power with released := false } }

/-! ## Rows -/

/-- ML_RESET_ASSERT (R371, R333, R339): all transfer stops and the domain's state is cleared, whatever else is under
way. Asserted while already low it changes nothing. -/
def execMlResetAssert (s : State) : Out := .next (if s.power.released then s.domainReset else s)

/-- POWER_RAIL_LOSS (R366, R333): the host's cells clamp the ports and the domain's state is lost. -/
def execPowerRailLoss (_r : Rail) (s : State) : Out :=
  let t := s.lost
  .next { t with power := { t.power with rails := false, isolated := true } }

/-- RAIL_RESTORE (R371): the rails are back in the envelope while the reset is low and the cells are closed. The cells
are opened before the release. -/
def execRailRestore (s : State) : Out :=
  .next (if s.power.released then s else { s with power := { s.power with rails := true } })

/-- TEST_ACCESS_OPEN (R378): MNL_TEST_EN high while the reset is low opens the wrapper, which clears the safety
partition and every SRAM array. -/
def execTestAccessOpen (s : State) : Out :=
  if s.power.released then .next s
  else
    let t := s.lost
    .next { t with power := { t.power with testEn := true, testOpen := true } }

/-- TEST_EN_IGNORED (R378): MNL_TEST_EN rises while the reset is released: ignored, event 0x1B; the level holds the CORE
cause bit. -/
def execTestEnIgnored (s : State) : Out :=
  if !s.power.released then .next s
  else .next (State.raise { s with power := { s.power with testEn := true } } { code := 0x1B, core := true })

/-- TEST_EN_FALL (R378, R380): the pin is low again, and with it the cause bit it held. -/
def execTestEnFall (s : State) : Out := .next { s with power := { s.power with testEn := false } }

/-- ACTIVITY_RAMP_ADMIT (R368): the next lane group joins, and the next GF engine where one is still to join; RAMP clears
with the fourth lane group. -/
def execActivityRampAdmit (s : State) : Out :=
  if !s.power.ramp then .next s
  else
    let g := min 4 (s.power.rampGroups + 1)
    .next { s with power := { s.power with rampGroups := g, rampGf := min 2 (s.power.rampGf + 1), ramp := decide (g < 4) } }

/-! ## Time source (R28, R30) -/

/-- A time-source fault: event 0x03, at level 3 (R30, R320). -/
def State.timeFault (s : State) : State :=
  State.raise { s with time := { s.time with fault := true, advancing := false, since := s.time.now } }
    { code := 0x03, core := true }

/-- TIME_COUNTER_STALL (R30). -/
def execTimeCounterStall (s : State) : Out := .next (if s.power.released then s.timeFault else s)

/-- Whether a sample is refused: lower than the one before it or more than 1 ms above it; the first has none before
it (R30). -/
def State.sampleBad (s : State) (t : BitVec 64) : Bool :=
  s.time.sampled && (decide (t < s.time.now) || decide (1000000 < (t - s.time.now).toNat))

/-- A sample taken as the last one; a lower or leaping one is a fault (R30). -/
def State.takeSample (s : State) (t : BitVec 64) : State :=
  let s' : State := { s with time := { s.time with
    now := t, sampled := true, since := if s.time.sampled then s.time.since else t } }
  if s.sampleBad t then s'.timeFault else s'

/-- TIME_SAMPLE_INVALID (R30). -/
def execTimeSampleInvalid (sample : BitVec 64) (s : State) : Out :=
  .next (if s.power.released then s.takeSample sample else s)

/-- TIME_ADVANCE_HOLD (R30, R322): a sample that finds the counter advanced normally for 1 ms clears the fault; one that is
itself lower or leaping is a fault, and one that comes before the millisecond is over is only a sample. -/
def execTimeAdvanceHold (now : BitVec 64) (s : State) : Out :=
  if !s.power.released then .next s
  else
    let bad := s.sampleBad now
    let s := s.takeSample now
    if bad || decide ((now - s.time.since).toNat < 1000000) then .next s
    else .next { s with time := { s.time with advancing := true, fault := false } }

/-! ## Margin monitors (R33, R379) -/

/-- The class of a slack in percent of the bound (R33). -/
def classOfSlack (slack : Byte) : MonClass :=
  if 25 ≤ slack.toNat then .normal else if 10 ≤ slack.toNat then .warning else .alarm

/-- MARGIN_CLASS_CHANGE (R33): slack and worst slack follow the replica; an entry into Warning is counted and logged
(0x01), an entry into Alarm puts the instance under dust sheet (0x02). -/
def execMarginClassChange (mon : Fin 15) (slack : Byte) (s : State) : Out :=
  if !s.power.released then .next s
  else
    let m := s.monitors.get mon
    let c := classOfSlack slack
    let m' : Monitor := { m with
      cls := c, slack := slack, worst := if slack < m.worst then slack else m.worst
      warns := if c = .warning ∧ m.cls ≠ .warning then m.warns + 1 else m.warns
      settled := if c = .alarm then false else m.settled }
    let s := { s with monitors := s.monitors.set mon m' }
    if c = m.cls then .next s
    else
      match c with
      | .normal => .next s
      | .warning => .next (s.raise { code := 0x01, core := true, unit := mon.val })
      | .alarm => .next (s.raise { code := 0x02, core := true, unit := mon.val })

/-- MONITOR_NORMAL_HOLD (R33, R322): the monitor has stayed in Normal for 1 ms since it last left Alarm. -/
def execMonitorNormalHold (mon : Fin 15) (s : State) : Out :=
  let m := s.monitors.get mon
  .next (if m.cls = .normal then { s with monitors := s.monitors.set mon { m with settled := true } } else s)

end Sys2Proof.Machine
end

