-- ==== Sys2Proof/Machine/Dump.lean ====
section
/-! DEFINITION. What the fault logic writes out: history entries, the tenant table, crash dumps in both formats, the
persistent page, the mirror page and the STATUS_REPLY payload (R321, R334 to R338). -/

namespace Sys2Proof.Machine

/-! ## Codes the registers and the dumps show -/

/-- MODE (R340). -/
def Mode.code : Mode → Nat
  | .normal => 0
  | .dust => 1
  | .outOfService => 2
  | .resetting => 3

/-- MNL_SW_STATE.STATE (R209). -/
def SwState.code : SwState → Nat
  | .idle => 0
  | .intake => 1
  | .prep => 2
  | .body => 3
  | .closing => 4
  | .done => 5
  | .held => 6

/-- VSTATE (R230). -/
def VState.code : VState → Nat
  | .none => 0
  | .open_ => 1
  | .ready => 2
  | .withheld => 3

/-- MNL_RS_STATUS.STATE (R296). -/
def RsState.code : RsState → Nat
  | .idle => 0
  | .armed => 1
  | .moving => 2
  | .sealing => 3
  | .teardown => 4
  | .quiet => 5

/-- MNL_BG_STATUS.STATE (R276). -/
def BgState.code : BgState → Nat
  | .idle => 0
  | .setup => 1
  | .demand => 2
  | .direct => 3
  | .background => 4
  | .parity => 5
  | .complete => 6
  | .stalled => 7

/-- SELF of MNL_FX_STATE (R250). -/
def SelfSt.code : SelfSt → Nat
  | .none => 0
  | .member => 1
  | .fenced => 2

/-! ## History and tables -/

/-- The 32 bytes of a history entry (R321). -/
def HistEntry.bytes (h : HistEntry) : List Byte :=
  leBytes 8 h.time.toNat ++ leBytes 4 h.seq.toNat ++ [h.code, BitVec.ofNat 8 (h.source.toNat + h.level.toNat * 16)] ++
    leBytes 2 h.tenant.toNat ++ leBytes 4 h.link.toNat ++ leBytes 2 h.mcount.toNat ++ [h.unit, BitVec.ofNat 8 (bit h.merged 0)] ++
    leBytes 8 h.detail.toNat

/-- The history, oldest entry first. -/
def State.historyBytes (s : State) : List Byte := padTo 1024 (s.flt.history.flatMap HistEntry.bytes)

/-- A torn-list entry (R335). -/
def tornBytes (t : Nat × Nat × Byte) : List Byte := leBytes 4 t.1 ++ leBytes 2 t.2.1 ++ [t.2.2] ++ List.replicate 9 0

/-- Counted instance resets inside ESC_WINDOW (R332). -/
def State.resetsInWindow (s : State) : Nat :=
  (s.flt.resets.filter fun t => decide ((s.time.now - t).toNat ≤ s.cfg.glob.escWindow * 1000000000)).length

/-- A tenant's record of the tenant table (R336). -/
def State.tenantBytes (s : State) (i : Fin 64) : List Byte :=
  let t := s.ten i
  leBytes 2 (s.tagOf i).toNat ++ leBytes 1 t.sweep.state.code ++ leBytes 1 t.vstateShown.code ++ leBytes 6 t.commit.committed ++
    leBytes 1 t.commit.openTry.toNat ++ leBytes 1 t.rs.state.code ++ leBytes 4 t.fox.gen.toNat ++ leBytes 1 t.bg.state.code ++
    leBytes 1 t.fox.self.code ++ List.replicate 14 0

/-- The tenant table. -/
def State.tenantTable (s : State) : List Byte := tenantIdxs.flatMap s.tenantBytes

/-! ## Units (R336) -/

/-- Requests outstanding at each unit of the unit table; the model's steps leave none at the others. -/
def State.unitOutstanding (s : State) (u : Nat) : Nat :=
  match u with
  | 6 => s.ep.ctrlQ.length + s.ep.skimQ.length + s.ep.resumeQ.length + s.ep.badgerQ.length
  | 7 => (s.badger.runs.map fun r => r.helpers.length).sum + s.badger.helps.length
  | 8 => s.audit.runs.length + s.audit.helps.length
  | 9 => (tenantIdxs.filter fun i => (s.ten i).steprec.busy.isSome).length
  | 12 => s.gate.mq.length
  | 15 => if s.ib.busy then 1 else 0
  | _ => 0

/-- The reset unit of an entry of the unit table. -/
def unitOf (u : Nat) : Option ResetUnit :=
  match u with
  | 0 => some (.lane 0)
  | 1 => some (.lane 1)
  | 2 => some (.lane 2)
  | 3 => some (.lane 3)
  | 4 => some (.gf 0)
  | 5 => some (.gf 1)
  | 6 => some .endpoint
  | 7 => some .badger
  | _ => none

/-- A unit's state: in reset, busy while requests are outstanding, else idle. -/
def State.unitState (s : State) (u : Nat) : Nat :=
  match unitOf u with
  | some r => if s.flt.inReset.contains r then 3 else if s.unitOutstanding u = 0 then 0 else 1
  | none => if s.unitOutstanding u = 0 then 0 else 1

/-- The free value of a unit in the dump under way: sixteen for each dump. -/
def State.unitFree (s : State) (u : Nat) : Nat := 16 * s.free + u

/-- The unit table; handshakes and their times are free values. -/
def State.unitTable (s : State) : List Byte :=
  (List.range 16).flatMap fun u =>
    leBytes 1 u ++ leBytes 1 (s.unitState u) ++ leBytes 2 (s.unitOutstanding u) ++ List.replicate 4 0 ++
      leBytes 8 (Config.unitHandshakes (s.unitFree u)).toNat ++ leBytes 8 (Config.unitHandshakeTime (s.unitFree u)).toNat ++
      List.replicate 24 0

/-! ## Native dump (R336) -/

/-- Bytes of a dump slot. -/
def dumpSize : Nat := 1044480

/-- Header bytes 4 to 63, which both formats share. -/
def State.dumpHead (s : State) (fmt : Bool) (code : Byte) (slot1 : Bool) (sbase : Nat) : List Byte :=
  leBytes 1 (bit fmt 0) ++ [1, code] ++ leBytes 1 (bit slot1 0) ++ leBytes 8 s.time.now.toNat ++ leBytes 4 s.flt.seq.toNat ++
    leBytes 4 s.self.toNat ++ [3, 1] ++ leBytes 1 s.flt.mode.code ++ [0] ++ leBytes 4 sbase ++ slice s.cfg.digest 0 32

/-- A record of the Hawk index as a dump shows it. -/
def hawkBytes (r : HawkRec) : List Byte :=
  leBytes 1 r.slot.val ++ leBytes 1 (match r.st with | .staged => 1 | .out => 2) ++ leBytes 2 r.owed.length ++
    leBytes 4 (r.seq.getD 0) ++ leBytes 4 r.panel ++ leBytes 2 r.payload.length ++ [0, 0]

/-- SBASE: no strip is ever left in progress between commands, so the sample begins at the working area. -/
def State.dumpBase (_s : State) : Nat := 0x400000

/-- The native dump but its scratchpad sample. -/
def State.nativeDump (s : State) (code : Byte) (slot1 : Bool) : List Byte :=
  padTo 256 (leBytes 4 0x3344434D ++ s.dumpHead false code slot1 s.dumpBase) ++ s.historyBytes ++ s.tenantTable ++
    padTo 0xB00 s.unitTable ++ padTo 12288 ((List.range 11744).map fun j => Config.hawkMapByte s.free j) ++
    padTo 131072 ((s.hawk.recs.filter fun r => !r.mark).flatMap hawkBytes)

/-! ## Moanel 2 format (R336) -/

/-- A QUEUE record. -/
def queueRec (kind n head tail used epoch : Nat) : List Byte :=
  padTo 64 ([1] ++ leBytes 1 kind ++ leBytes 2 n ++ leBytes 4 head ++ leBytes 4 tail ++ leBytes 4 used ++ leBytes 8 epoch)

/-- The lowest number of a slot not released. -/
def State.lowestOut (s : State) (k : Nat) : Nat :=
  ((s.hawk.recs.filter fun r => r.slot.val == k && !r.mark).filterMap (·.seq)).foldl min (s.slot k).next

/-- The dump in the Moanel 2 format; the times of last changes are free values. -/
def State.moanel2Dump (s : State) (code : Byte) (slot1 : Bool) : List Byte :=
  let time (j : Nat) : List Byte := leBytes 8 (Config.unitHandshakeTime (200 * s.free + j)).toNat
  let stamp (r : List Byte) (j : Nat) : List Byte := splice r 24 (time j)
  let intake := tenantIdxs.map fun i =>
    let t := (s.ten i).intake
    queueRec 1 i.val t.low t.high t.chunks.length t.epoch
  let send := (List.range 16).map fun k =>
    queueRec 2 k (s.lowestOut k) (s.slot k).next (s.hawk.recs.filter fun r => r.slot.val == k).length 0
  let rest := [queueRec 3 0 0 0 s.badger.runs.length 0, queueRec 4 0 0 0 s.badger.repairs.length 0]
  let queues := (intake ++ send ++ rest).zipIdx.flatMap fun p => stamp p.1 (32 + p.2)
  let sync := tenantIdxs.flatMap fun i =>
    let t := s.ten i
    stamp (padTo 64 ([2, 0] ++ leBytes 2 i.val ++ leBytes 4 t.fox.gen.toNat ++ leBytes 4 t.commit.openTry.toNat ++
      leBytes 4 t.vstateShown.code ++ leBytes 8 t.commit.committed)) (114 + i.val)
  let engine := (List.range 16).flatMap fun u =>
    splice (padTo 64 ([3] ++ leBytes 1 u ++ [0, 0] ++ leBytes 4 (s.unitState u) ++ leBytes 4 (s.unitOutstanding u) ++
      List.replicate 4 0)) 16 (leBytes 8 (Config.unitHandshakes (s.unitFree u)).toNat ++
        leBytes 8 (Config.unitHandshakeTime (s.unitFree u)).toNat)
  padTo 128 (leBytes 4 0x3244434D ++ s.dumpHead true code slot1 s.dumpBase) ++ s.historyBytes ++ queues ++ sync ++ engine

/-! ## The crash area (R334) -/

/-- Where a dump slot begins. -/
def slotBase (slot1 : Bool) : Nat := if slot1 then 0x100000 else 0

/-- Bytes of the working area sampled into the crash area at an offset; addresses wrap within 0x40_0000 to 0x7F_FFFF. -/
def sampleInto (area work : NMap Byte) (at_ base n : Nat) : NMap Byte :=
  work.foldl (fun m p =>
    let d := (p.1 + 0x400000 - base) % 0x400000
    if 0x400000 ≤ p.1 ∧ p.1 < 0x800000 ∧ d < n then Mem.write m ((at_ + d) % 2 ^ 21) p.2 else m) area

/-- A dump written into its slot; without capability 0x0A there is no Moanel 2 format, whatever FMT was left at (R5). -/
def State.writeDump (s : State) (slot1 : Bool) (code : Byte) : State :=
  let base := slotBase slot1
  let clear := Mem.zero s.crash.area base dumpSize
  let area := if s.crash.fmt && s.cap 10 then Mem.writeN (2 ^ 21) clear base (s.moanel2Dump code slot1)
    else sampleInto (Mem.writeN (2 ^ 21) clear base (s.nativeDump code slot1)) s.work (base + 0x24000) s.dumpBase 897024
  let bad := s.crash.badWords.filter fun w => w < base / 8 || (base + dumpSize) / 8 ≤ w
  { s with crash := { s.crash with area := area, badWords := bad }, free := s.free + 1 }

/-- A capture begun (R334): to slot 0 when that is empty, else to slot 1, which reads as zero until the capture is done.
One in progress takes a triggered code and no second dump. -/
def State.beginCapture (s : State) (code : Byte) : State :=
  match s.crash.capturing with
  | some (slot1, old) => { s with crash := { s.crash with capturing := some (slot1, if code = 0 then old else code) } }
  | none =>
    let slot1 := s.crash.slot0
    { s with crash := { s.crash with
        capturing := some (slot1, code), area := Mem.zero s.crash.area (slotBase slot1) dumpSize
        slot1 := if slot1 then false else s.crash.slot1 } }

/-- The capture done: its slot holds a dump; event 0x17. -/
def State.endCapture (s : State) (slot1 : Bool) (code : Byte) : State :=
  let s := s.writeDump slot1 code
  let s : State := { s with crash :=
    if slot1 then { s.crash with capturing := none, slot1 := true, trig1 := code }
    else { s.crash with capturing := none, slot0 := true, trig0 := code } }
  s.raise { code := 0x17, core := true }

/-- A byte of the persistent page (R334, R335), at an offset within it. -/
def State.persistentByte (s : State) (o : Nat) : Byte :=
  if o < 0x400 then s.historyBytes.getD o 0
  else if o < 0x800 then ((s.crash.torn.flatMap tornBytes).getD (o - 0x400) 0)
  else Config.windowsByte (o - 0x800)

/-- A byte of the crash area as the window shows it: a word with an uncorrectable error reads as all ones (R327). -/
def State.crashByte (s : State) (o : Nat) : Byte :=
  if s.crash.badWords.contains (o / 8) then 0xFF
  else if 0x0FF000 ≤ o ∧ o < 0x100000 then s.persistentByte (o - 0x0FF000)
  else Mem.read s.crash.area o

/-! ## Mirror page and STATUS_REPLY (R337, R338) -/

/-- The bytes of the status mirror page under a SEQ. -/
def State.mirrorPage (s : State) (seq : BitVec 32) : List Byte :=
  padTo 4088 (leBytes 8 s.time.now.toNat ++ leBytes 4 seq.toNat ++ leBytes 1 s.flt.mode.code ++ [s.flt.dcause] ++
    leBytes 2 s.flt.summary.toNat ++ leBytes 4 s.flt.seq.toNat ++ leBytes 1 s.resetsInWindow ++ List.replicate 11 0 ++
    padTo 1024 (s.flt.history.reverse.flatMap HistEntry.bytes) ++ s.tenantTable) ++ leBytes 4 seq.toNat ++ List.replicate 4 0

/-- The payload of a STATUS_REPLY for a tenant. -/
def State.replyPayload (s : State) (i : Fin 64) : List Byte :=
  let t := s.ten i
  leBytes 1 s.flt.mode.code ++ [s.flt.dcause] ++ leBytes 2 s.flt.summary.toNat ++ leBytes 4 s.flt.seq.toNat ++
    leBytes 6 t.commit.committed ++ leBytes 1 t.vstateShown.code ++ [0] ++ leBytes 4 t.fox.gen.toNat ++
    leBytes 8 s.time.now.toNat ++ List.replicate 4 0

end Sys2Proof.Machine
end

