-- ==== Sys2Proof/Machine/Recovery.lean ====
section
/-! DEFINITION. The commands of the fault logic: dust sheet, lift, resets, watchdogs, crash area, status queries, the mirror
page and the scrubber (R320 to R340). -/

namespace Sys2Proof.Machine

/-- The state with the crash area changed. -/
def State.updCrash (s : State) (f : CrashS → CrashS) : State := { s with crash := f s.crash }

/-! ## Instance reset (R100, R205, R273, R331 to R333) -/

/-- A tenant's share of what an instance reset loses: its source entries, its intake, a target's progress; its unvoted
attempt is withheld. -/
def State.resetTenant (s : State) (i : Fin 64) : State :=
  if (s.ten i).env.isNone then s
  else
    let c := (s.ten i).commit
    let s := s.flushIntake i (s.ten i).intake.epoch
    let s := if c.isOpen then
        let s := (s.settSlots i).foldl (fun s k => s.updSlot k fun x => { x with
          sources := x.sources.map fun e => { e with broken := true } }) s
        (s.raiseT i 0xA6).withhold i 0x09
      else s
    let s := if c.vstate = .ready then s else s.mapEntries (s.tagOf i) fun e =>
      if e.state = .retiring then { e with state := .active, staged := some .retire } else e
    let b := (s.ten i).bg
    if b.state = .idle ∨ b.state = .complete then s
    else
      let s := (s.settSlots i).foldl (fun s k => s.updSlot k fun x => { x with missing := List.range x.sett.q }) s
      s.updBg i fun b => { b with state := .setup, verified := [], pending := [], records := [] }

/-- The instance reset begins, its drain and its dump behind it: MODE reads RESETTING and what R333 gives up is lost; the banks stand (R180), and
so do their constant pools (DEDUCED, log entry 194). -/
def State.beginReset (s : State) : State :=
  let s := s.updFlt fun f => { f with
    resetDust := f.resetDust || f.mode == .dust || f.mode == .outOfService
    resetOut := f.mode == .outOfService && !f.resetReturn, mode := .resetting, phase := .held, resetWanted := false
    resets := if f.resetCounted then f.resets ++ [s.time.now] else f.resets, inReset := []
    handling := f.handling.filter fun h => h.scope == .instance_ }
  let s : State := { s with
    hawk := { s.hawk with recs := [], forming := [], peak := 0 }
    work := []
    badger := { s.badger with runs := [], wait := [], helps := [], verified := [], doubts := [], unresolved := [] }
    audit := { s.audit with busy := false, todo := [], runs := [], helps := [] }
    rs := { s.rs with running := none }
    ep := { s.ep with ctrlQ := [], skimQ := [], resumeQ := [], badgerQ := [], syncOwed := [] }
    ib := if s.ib.busy then
        (if s.ib.loading then { s.ib with bank1 := {}, busy := false, staged := [] }
         else { s.ib with bank0 := {}, busy := false, staged := [] })
      else s.ib }
  let s := (s.putPool false s.ib.bank0.image).putPool true s.ib.bank1.image
  let s := tenantIdxs.foldl (fun s i => s.resetTenant i) s
  s.updFlt fun f => { f with counters := [] }

/-- A reset asked for by software (R331, R332, R339): in service it stops the instance at once and its drain and dump
come first; under dust sheet it is merged into that. -/
def State.wantReset (s : State) (ret : Bool) : State :=
  let mark (f : FaultS) : FaultS := { f with
    resetWanted := true, resetReturn := f.resetReturn || ret, resetCounted := f.resetCounted && !ret }
  match s.flt.mode with
  | .normal =>
    let s := s.updFlt fun f => { mark f with mode := .resetting, phase := .drain, dcause := 0, resetDust := ret }
    let s := (s.holdSweeps 0).dropSwitch State.raiseHeld
    s.releaseParked (fun x => x.ctx.isSome) 0x7 State.raiseHeld 0x37
  | .resetting => s.updFlt fun f => { f with
      resetReturn := f.resetReturn || ret, resetCounted := f.resetCounted && !ret, resetDust := f.resetDust || ret }
  | _ =>
    let s := s.updFlt mark
    if s.flt.phase = .held then s.beginReset else s

/-! ## Back in service (R235, R326, R333) -/

/-- A tenant's SYNC query formed before any other frame of it; a leader has none to ask. -/
def State.syncFirst (s : State) (i : Fin 64) : State :=
  let t := s.ten i
  if t.env.isNone || t.fox.self == .none then s
  else
    let s := (s.updFox i fun f => { f with syncAt := s.time.now }).syncUp i s.self t.fox.gen
    if s.ep.ctrlQ.any fun f => f.isSync && f.tenant == s.tagOf i then
      { s with ep := { s.ep with syncOwed := addOnce i s.ep.syncOwed } }
    else s

/-- The commit decisions the lath has shown while this stop only forwarded, taken in their order (R217, R326). -/
def State.takeFromLath (s : State) : State :=
  let ds := s.lath.decisions
  ds.foldl (fun s p => if h : p.1 < 64 then s.decision ⟨p.1, h⟩ p.2 true else s) { s with lath := { s.lath with decisions := [] } }

/-- The instance in service again: MODE NORMAL, the handling of its instance-level faults over, every tenant asks for its
membership and goes on. -/
def State.rejoin (s : State) (lift : Bool) : State :=
  let s := s.updFlt fun f => { f with mode := .normal, phase := .idle, handling := f.handling.filter fun h => h.scope != .instance_ }
  let s := s.takeFromLath
  let s := tenantIdxs.foldl (fun s i => s.syncFirst i) s
  let s := if lift then tenantIdxs.foldl (fun s i =>
      if (s.ten i).fox.self = .member ∧ (s.ten i).sweep.state = .held then s.withhold i 0x10 else s) s
    else s
  tenantIdxs.foldl (fun s i => if (s.ten i).env.isSome then s.follow i else s) s

/-- Torn panels queued for repair (R333). -/
def State.queueTorn (s : State) : State := s.crash.torn.foldl (fun s t => s.queueRepairAt (4096 * t.1)) s

/-- INSTANCE_RESET_COMPLETE (R320, R332, R333): event 0x12; the instance is out of service once the count reaches ESC_LIMIT,
returned under dust sheet, still under the dust sheet the reset began under, or in service. -/
def execInstanceResetComplete (now : BitVec 64) (s : State) : Out :=
  if s.flt.mode ≠ .resetting ∨ s.flt.phase ≠ .held then .next s
  else
    let s := (s.at_ now).raise { code := 0x12, core := true }
    let f := s.flt
    let limit := f.resetCounted && decide (s.cfg.glob.escLimit ≤ s.resetsInWindow)
    let s := s.updFlt fun f => { f with resetDust := false, resetCounted := false, resetReturn := false, resetOut := false }
    let s := s.queueTorn
    .next (
      if f.resetReturn then (s.updFlt fun f => { f with mode := .dust, resets := [] }).raise { code := 0x16, core := true }
      else if limit then (s.updFlt fun f => { f with mode := .outOfService }).raise { code := 0x15, core := true }
      else if f.resetOut then s.updFlt fun f => { f with mode := .outOfService }
      else if f.resetDust then s.updFlt fun f => { f with mode := .dust }
      else s.rejoin false)

/-! ## Dust sheet (R324 to R326) -/

/-- FLT_DUST (R324): the entry has no event, so DCAUSE reads 0x00. -/
def execFltDust (a : Acc) (s : State) : Out := .next (s.window a 0x1818 true fun s => s.hold 0)

/-- The panels of a torn list recorded, 64 at most, each an event 0x19 (R324, R335). -/
def State.recordTorn (s : State) (torn : List (Nat × Nat × Byte)) : State :=
  torn.foldl (fun s t =>
    let s := s.updCrash fun c => { c with torn := (c.torn ++ [t]).take Config.tornSize }
    s.raise { code := 0x19, core := true, detail := t.1 }) s

/-- DUST_DRAIN_COMPLETE (R324, R335): writes begun have finished or are recorded as torn, and the capture begins. -/
def execDustDrainComplete (drained torn : List (Nat × Nat × Byte)) (s : State) : Out :=
  if s.flt.phase ≠ .drain then .next s
  else
    let s := (s.updFlt fun f => { f with phase := .capture, drained := drained }).recordTorn torn
    .next (s.beginCapture (if s.flt.mode = .resetting then 0 else s.flt.dcause))

/-- CRASH_CAPTURE_COMPLETE (R324, R331, R334): the dump is in its slot; an entry into the dust sheet ends with event 0x13,
and a reset that waited for the dump begins. -/
def execCrashCaptureComplete (s : State) : Out :=
  match s.crash.capturing with
  | none => .next s
  | some (slot1, code) =>
    let s := s.endCapture slot1 code
    if s.flt.phase ≠ .capture then .next s
    else
      let s := s.updFlt fun f => { f with phase := .held }
      let s := if s.flt.mode = .resetting then s else s.raise { code := 0x13, core := true }
      .next (if s.flt.resetWanted then s.beginReset else s)

/-- Whether a lift is refused (R324, R326). -/
def State.liftRefused (s : State) : Bool :=
  match s.flt.mode with
  | .normal => false
  | .dust => s.flt.phase != .held || s.flt.resetWanted || s.causes.getLsbD 0
  | _ => true

/-- The dust sheet lifted: event 0x14; drained panels are queued for repair where a margin alarm was the cause. -/
def State.lift (s : State) : State :=
  if s.flt.mode = .normal then s
  else
    let s := s.raise { code := 0x14, core := true }
    let s := if s.flt.dcause = 0x02 then s.flt.drained.foldl (fun s t => s.queueRepairAt (4096 * t.1)) s else s
    (s.updFlt fun f => { f with drained := [] }).rejoin true

/-- FLT_LIFT (R326). -/
def execFltLift (a : Acc) (s : State) : Out :=
  if s.portsUp && fromSystem a && s.liftRefused then .next (s.refuse a.id 0x1818)
  else .next (s.window a 0x1818 true State.lift)

/-- FLT_RETURN (R332): an uncounted instance reset that ends under dust sheet. -/
def execFltReturn (a : Acc) (s : State) : Out := .next (s.window a 0x1818 true fun s => s.wantReset true)

/-! ## Unit resets and watchdogs (R330, R331) -/

/-- MNL_FLT_RESET written with GO for a unit. -/
def State.resetWrite (s : State) (a : Acc) (unit index : Nat) (f : State → State) : Out :=
  .next (s.window a 0x1820 true fun s => f (s.updFlt fun x => { x with resetSel := BitVec.ofNat 5 (unit + index * 8) }))

/-- A unit reset by software; during an instance reset it is merged into that. -/
def State.softReset (s : State) (u : ResetUnit) (busy : Option (Fin 16) := none) : State :=
  if s.flt.mode = .resetting then s else s.beginUnit u busy

/-- RESET_LANE_GROUP (R331). -/
def execResetLaneGroup (a : Acc) (g : Fin 4) (s : State) : Out := s.resetWrite a 0 g.val fun s => s.softReset (.lane g)

/-- RESET_GF_ENGINE (R205, R331). -/
def execResetGfEngine (a : Acc) (i : Fin 2) (busy : Option (Fin 16)) (s : State) : Out :=
  s.resetWrite a 1 i.val fun s => s.softReset (.gf i) busy

/-- RESET_ENDPOINT (R62, R331). -/
def execResetEndpoint (a : Acc) (s : State) : Out := s.resetWrite a 2 0 fun s => s.softReset .endpoint

/-- RESET_BADGER (R331). -/
def execResetBadger (a : Acc) (s : State) : Out := s.resetWrite a 3 0 fun s => s.softReset .badger

/-- RESET_INSTANCE (R331). -/
def execResetInstance (a : Acc) (s : State) : Out := s.resetWrite a 4 0 fun s => s.wantReset false

/-- The number of a unit as UNIT of its events shows it. -/
def unitNumber : ResetUnit → Nat
  | .lane g => g.val
  | .gf i => i.val
  | _ => 0xFF

/-- A STATUS_QUERY formed for a member and a tenant. -/
def State.askStatus (s : State) (addr : Addr) (tenant : Tag) : State :=
  let gen := match s.tenantOf tenant with | some i => (s.ten i).fox.gen | none => 0
  s.send { vc := .control, dst := .member addr, typ := 0x70, tenant := tenant, gen := gen, epoch := 0, tr := 0, t := 6 }

/-- A tenant's requests of the CONTROL requester that wait for an answer sent again: solicitations, completion records,
counts and membership reports. -/
def State.resendTenant (s : State) (i : Fin 64) : State :=
  let t := s.ten i
  let s := if t.commit.podM = .solicit then s.solicitAgain i false else s
  let s := if t.commit.jobM = .solicit then s.solicitAgain i true else s
  let s := t.bg.records.foldl (fun s r => s.sendRecord i r) s
  let s := if t.rs.sealing then
      (t.rs.dests.filter fun d => !d.done && d.addr != s.self).foldl (fun s d => s.send (s.countFrame i d.addr 0 d.count)) s
    else s
  if s.leads i then s else t.fox.reports.foldl (fun s r => s.sendReport i r) s

/-- The witness queries of a round that have no answer yet sent again. -/
def State.resendRound (s : State) (w : Watch) : State :=
  match w.round with
  | none => s
  | some r => (r.asked.filter fun a => !r.missing.contains a).foldl (fun s a => s.send (s.witnessQuery w a)) s

/-- Every request outstanding at an endpoint reset sent again after it, once: what still waits is not doubled (R62, R68). -/
def State.resendRequests (s : State) : State :=
  let s := s.badger.runs.foldl (fun s r => r.helpers.foldl (fun s h => s.send (s.reqFrame r h.2)) s) s
  let s := match s.slotTenant s.auSlot with
    | none => s
    | some i => s.audit.runs.foldl (fun (s : State) (r : AuRun) => (s.slot s.auSlot).sett.rows.foldl (fun (s : State) (row : Row) =>
        if row.addr = s.self then s else s.send (s.auditReq i row r.s0 r.count r.epoch)) s) s
  let s := tenantIdxs.foldl (fun s i => if (s.ten i).env.isSome then s.resendTenant i else s) s
  let s := s.ctx.offers.foldl (fun s o => s.sendOffer o) s
  let s := s.watch.foldl (fun s w => s.resendRound w) s
  let s := if s.flt.qAsked then s.askStatus s.flt.qAddr s.flt.qTenant else s
  { s with ep := { s.ep with ctrlQ := s.ep.ctrlQ.eraseDups, badgerQ := s.ep.badgerQ.eraseDups } }

/-- UNIT_RESET_COMPLETE (R62, R320, R323, R331): event 0x7A of source CORE for a lane group, 0x11 for the others. -/
def execUnitResetComplete (u : ResetUnit) (s : State) : Out :=
  if !s.flt.inReset.contains u then .next s
  else
    let s := s.updFlt fun f => { f with
      inReset := f.inReset.filter (· != u), handling := f.handling.filter fun h => h.scope != .unit u }
    let code := match u with | .lane _ => 0x7A | _ => 0x11
    let s := s.raise { code := code, core := true, unit := (unitNumber u) }
    let s := if u = .endpoint then s.resendRequests else s
    .next (tenantIdxs.foldl (fun s i => if (s.ten i).env.isSome then s.follow i else s) s)

/-- Whether a unit has used up its resets inside UNIT_WINDOW (R331). -/
def State.unitLimited (s : State) (u : ResetUnit) : Bool :=
  decide (s.cfg.glob.unitLimit ≤ (s.flt.unitResets.filter fun p =>
    p.1 == u && decide ((s.time.now - p.2).toNat ≤ s.cfg.glob.unitWindow * 1000000000)).length)

/-- A watchdog's expiry at a unit: its reset, or event 0x1A in its place. -/
def State.unitExpiry (s : State) (u : ResetUnit) (code : Nat) (busy : Option (Fin 16) := none) : State :=
  if s.unitLimited u then s.raise { code := 0x1A, core := true, unit := (unitNumber u) }
  else s.raise { code := code, core := true, unit := (unitNumber u), ru := some u } busy

/-- WATCHDOG_EXPIRY (R29, R320, R330, R331): `now` is the deadline the timer reached. A unit's handshakes are no state of the
model, so the row brings it (log entry 177). -/
def execWatchdogExpiry (x : WatchdogAt) (s : State) : Out :=
  if !s.portsUp then .next s
  else
    let s := s.at_ x.now
    .next (match x.dog with
      | .lane g => s.unitExpiry (.lane g) 0x09
      | .gf i busy => s.unitExpiry (.gf i) 0x0A busy
      | .endpoint => s.unitExpiry .endpoint 0x0B
      | .badger => s.unitExpiry .badger 0x0C
      | .sequencer => s.raise { code := 0x0D, core := true }
      | .memory id => s.overdue id)

/-! ## Summary bits and the crash area (R322, R334) -/

/-- The source of a code noted as seen. -/
def seenSource (k : Nat) : Nat := if 256 ≤ k then 0 else Ev.source { code := k }

/-- Summary bits whose source has no cause cleared, and the first occurrence of their codes re-armed. -/
def State.clearSummary (s : State) (mask : BitVec 14) : State :=
  let m := mask &&& ~~~s.causes
  s.updFlt fun f => { f with summary := f.summary &&& ~~~m, seen := f.seen.filter fun k => !m.getLsbD (seenSource k) }

/-- FLT_SUMMARY_CLEAR (R322, R340). -/
def execFltSummaryClear (a : Acc) (mask : BitVec 14) (s : State) : Out :=
  .next (s.window a 0x1800 false fun s => s.clearSummary mask)

/-- A write of MNL_CD_CTRL: FMT 1 needs capability 0x0A (R336). -/
def State.crashWrite (s : State) (a : Acc) (fmt : Bool) (page : BitVec 6) (f : State → State) : Out :=
  if s.portsUp && fromSystem a && fmt && !s.cap 10 then .next (s.refuse a.id 0x18C0)
  else .next (s.window a 0x18C0 true fun s => f (s.updCrash fun c => { c with fmt := fmt, page := page }))

/-- CD_CAPTURE (R334). -/
def execCdCapture (a : Acc) (fmt : Bool) (page : BitVec 6) (s : State) : Out := s.crashWrite a fmt page fun s => s.beginCapture 0

/-- Slot 0 emptied; one being written is not. -/
def State.releaseSlot (s : State) : State :=
  s.updCrash fun c => { c with slot0 := false, trig0 := 0, area := Mem.zero c.area 0 dumpSize }

/-- CD_RELEASE (R334). -/
def execCdRelease (a : Acc) (fmt : Bool) (page : BitVec 6) (s : State) : Out := s.crashWrite a fmt page State.releaseSlot

/-! ## Status of another instance (R338) -/

/-- FLT_QUERY (R338, R340). -/
def execFltQuery (a : Acc) (addr : Addr) (tenant : Tag) (s : State) : Out :=
  .next (s.window a 0x1880 true fun s =>
    (s.updFlt fun f => { f with qAddr := addr, qTenant := tenant, qDone := false, qAsked := true }).askStatus addr tenant)

/-- STATUS_QUERY (R338): answered in every state but reset. -/
def execStatusQuery (f : Rx) (s : State) : Out :=
  .next (s.receive f { typ := 0x70, ok2 := f.t == 6, ok3 := f.len == 0, skipGen := true } fun s i =>
    s.sendReply (s.ctrlTo i f.src 0x70 0 0 7 (s.replyPayload i)))

/-- Check 2 of a STATUS_REPLY's payload: MODE and VSTATE hold defined encodings, reserved bytes and bits are zero (R75,
R338, R340). -/
def replyOk (p : List Byte) : Bool :=
  p.length != 32 || (decide (leField p 0 1 ≤ 3) && decide (leField p 2 2 < 2 ^ 14) && decide (leField p 14 1 ≤ 3) &&
    decide (leField p 15 1 = 0) && decide (leField p 28 4 = 0))

/-- STATUS_REPLY (R338): its payload is what MNL_FLT_QREPLY shows. -/
def execStatusReply (f : Rx) (s : State) : Out :=
  .next (s.receive f { typ := 0x70, ok2 := f.t == 7 && replyOk f.payload, ok3 := f.len == 32 } fun s _ =>
    s.updFlt fun x => { x with qReply := f.payload, qDone := true, qAsked := false })

/-- STATUS_MIRROR_WRITE (R28, R337): the page is written under dust sheet too, but not during an instance reset. -/
def execStatusMirrorWrite (now : BitVec 64) (s : State) : Out :=
  if !s.portsUp || !s.flt.mirrorEn || s.flt.mode == .resetting then .next s
  else
    let s := s.at_ now
    let seq := s.flt.mirrorSeq + 1
    .next ((s.putBytes s.flt.mirrorBase.toNat (s.mirrorPage seq)).updFlt fun f => { f with mirrorSeq := seq })

/-! ## Scrubber (R26, R55, R148, R179, R205, R327, R328) -/

/-- The number of an array as UNIT shows it (DESIGN CHOICE, log entry 31). -/
def arrayNumber : SramArray → Nat
  | .hawk => 0
  | .localStore => 1
  | .contextTable => 2
  | .dedupe => 3
  | .banks => 4
  | .crash => 5
  | .control => 6

/-- An uncorrectable Hawk block (R205): a panel's delta is formed again from its two banks; a host write's withholds. -/
def State.badHawk (s : State) (index : Nat) : State :=
  match s.hawk.recs[index]? with
  | none => s
  | some r =>
    match s.slotTenant r.slot.val with
    | none => s
    | some i =>
      let s := s.raise { code := 0xA3, tenant := s.tagOf i, unit := r.slot.val, detail := r.panel }
      if r.whole then
        match s.entry r.ctx with
        | some e =>
          let rec_ := s.panelRec e r.idx
          let d := xorBytes (s.bytesAt (e.panelAddr r.idx rec_.c) 4096) (s.bytesAt (e.panelAddr r.idx (!rec_.c)) 4096)
          { s with hawk := { s.hawk with recs := s.hawk.recs.map fun x => if x = r then { x with data := d } else x } }
        | none => s
      else s.withhold i 0x07

/-- The chunk, 0 for the manifest, whose line lies at an offset of a tenant's intake share and has come (R140). -/
def IntakeS.lineChunk (t : IntakeS) (off : Nat) : Option Nat :=
  let area := if t.manSt = .ok then manArea t.recs.length else off + 1
  if off < area then (NMap.get? t.man (off / 64)).map fun _ => 0
  else
    let r := off - area
    match t.chunks.find? fun c => decide (c.base ≤ r) && decide (r < c.base + c.size) with
    | none => none
    | some c =>
      let o := r - c.base
      (NMap.get? c.lines (o / max 1 c.ls * 4096 + o % max 1 c.ls / 64)).map fun _ => c.no

/-- An uncorrectable word of the local store at an address (R126, R148): a line of the intake makes its chunk unusable, and a
manifest not yet complete with it; the working area's panel is computed again from its inputs. -/
def State.badLocal (s : State) (addr : Nat) : State :=
  if 0x400000 ≤ addr then s
  else
    tenantIdxs.foldl (fun s i =>
      let base := s.shareBase i
      if addr < base ∨ base + s.shareBytes i ≤ addr then s
      else
        match (s.ten i).intake.lineChunk (addr - base) with
        | none => s
        | some c =>
          let s := s.updIntake i fun t => { t with
            manSt := if c = 0 ∧ t.manSt = .absent then .bad else t.manSt
            chunks := t.chunks.map fun y => if y.no = c then { y with bad := true } else y }
          ((s.raiseT i 0x7F c).withhold i 0x06).follow i) s

/-- The source entries of the slots in order, by slot and rank. -/
def State.sourceAt (s : State) (index : Nat) : Option (Nat × Nat) :=
  ((List.range 16).flatMap fun k => (s.slot k).sources.map fun e => (k, e.rank))[index]?

/-- An uncorrectable source entry (R199, R327): BROKEN, and the vote withheld. -/
def State.badSource (s : State) (index : Nat) : State :=
  match s.sourceAt index with
  | none => s
  | some (k, r) =>
    let s := s.updSource k r fun e => { e with broken := true }
    match s.slotTenant k with | some i => s.withhold i 0x07 | none => s

/-- An uncorrectable word of an instruction bank (R179): the bank is BAD. -/
def State.badBank (s : State) (bank : Bool) : State :=
  let b (x : Bank) : Bank := { x with st := .bad }
  let s : State := { s with ib := if bank then { s.ib with bank1 := b s.ib.bank1 } else { s.ib with bank0 := b s.ib.bank0 } }
  s.raise { code := 0x90 }

/-- What one find of the scrubber leads to. -/
def State.scrubFind (s : State) (f : ScrubFind) : State :=
  match f with
  | .corrected _ => s.count 0x04
  | .uncorrectable .control _ => s.raise { code := 0x06, core := true, unit := arrayNumber .control }
  | .uncorrectable a index =>
    let s := s.raise { code := 0x05, core := true, unit := arrayNumber a, detail := index }
    match a with
    | .hawk => s.badHawk index
    | .localStore => s.badLocal index
    | .contextTable => s.contain index
    | .dedupe => s.badSource index
    | .banks => s.badBank (index != 0)
    | .crash => s.updCrash fun c => { c with badWords := addOnce index c.badWords }
    | .control => s
  | .outvoted => (s.updFlt fun f => { f with outvoted := f.outvoted + 1 }).raise { code := 0x07, core := true }
  | .noMajority word => (s.updFlt fun f => { f with noMajority := addOnce word f.noMajority }).raise { code := 0x08, core := true }

/-- SCRUB_PASS (R327, R328). -/
def execScrubPass (finds : List ScrubFind) (s : State) : Out :=
  if !s.power.released then .next s
  else
    let s := finds.foldl (fun s f => s.scrubFind f) s
    .next (tenantIdxs.foldl (fun s i => if (s.ten i).env.isSome then s.follow i else s) s)

end Sys2Proof.Machine
end

