-- ==== Sys2Proof/Machine/Reslice.lean ====
section
/-! DEFINITION. The commands of Primer, seals, reslice boundaries, teardown and export (R278, R282 to R296). -/

namespace Sys2Proof.Machine

/-! ## Primer (R88, R278, R286, R290, R292) -/

/-- A range of panels of the span zeroed, with its kept digests (the digest of zeros is zero). -/
def State.zeroPanels (s : State) (a n : Nat) : State :=
  { s with mem := Mem.zero (Mem.zero s.mem a (4096 * n)) (s.dgAddr a) (8 * n) }

/-- The records of `n` panels from an address on set. -/
def State.setDirs (s : State) (a n : Nat) (r : DirRec) : State :=
  (List.range n).foldl (fun s p => s.setDir (a + 4096 * p) r) s

/-- A region primed: zero, its records written last and their lines out of the lookaside, LOADING (R40, R42, R278). -/
def State.primeEntry (s : State) (c : Nat) (e : Entry) : State :=
  let a := e.panelAddr 0 false
  let rec0 : DirRec := { ctx := c, v := true, priv := false, c := false, n := false, d := false, att := 0 }
  let s := s.zeroPanels a (2 * e.lenp)
  let s := (s.setDirs a e.lenp rec0).setDirs (e.panelAddr 0 true) e.lenp { rec0 with priv := true }
  (s.dropLines e).setEntry c { e with state := .loading, epoch := 0, sealed := false }

/-- A slot's parity storage primed: zero, with gate-private records naming the slot. -/
def State.primeSlot (s : State) (k : Nat) (d : SettDesc) : State :=
  let a := s.parityAddr d 0 false
  (s.zeroPanels a (2 * d.q)).setDirs a (2 * d.q)
    { ctx := k, v := false, priv := true, c := false, n := false, d := false, att := 0 }

/-- Parity storage of an old descriptor primed and released: its records cleared. -/
def State.releaseParity (s : State) (d : SettDesc) : State :=
  let a := s.parityAddr d 0 false
  let s := s.zeroPanels a (2 * d.q)
  { s with mem := Mem.zero s.mem (s.dirAddr a) (8 * d.q) }

/-- The tenant in teardown whose range an entry or slot is. -/
def State.tearing (s : State) (p : RsTenS → Bool) : Option (Fin 64) := tenantIdxs.find? fun i => p (s.ten i).rs

/-- Primer at an entry: a region of a teardown or of an old layout becomes FREE, any other LOADING. -/
def State.primerEntry (s : State) (c : Nat) : State :=
  match s.entry c with
  | none => s
  | some e =>
    if e.state ≠ .priming then s
    else
      match s.tearing fun r => r.tearEntries.contains c with
      | some i =>
        let s := (s.zeroPanels (e.panelAddr 0 false) (2 * e.lenp)).freeRegion c
        s.updRs i fun r => { r with tearEntries := r.tearEntries.filter (· != c) }
      | none =>
        let s := s.primeEntry c e
        match s.tenantOf e.tenant with
        | some i => ((s.unfence i).bgSettle i).follow i
        | none => s

/-- Primer at a slot: the storage of a slot being torn down, of an old descriptor after its seal, or of a slot before it
leaves FORMING. -/
def State.primerSlot (s : State) (k : Nat) : State :=
  match s.tearing fun r => r.tearSlots.contains k with
  | some i =>
    (s.primeSlot k (s.slot k).sett).updRs i fun r => { r with tearSlots := r.tearSlots.filter (· != k) }
  | none =>
    match s.slotTenant k, (s.slot k).shadow with
    | some i, some (kind, d, _) =>
      if (s.ten i).rs.sealing then
        if (s.slot k).kind = .sett ∧ !(s.slot k).primed then
          ((s.primeSlot k (s.slot k).sett).updSlot k fun x => { x with primed := true }).tryForm i k |>.follow i
        else s
      else
        let s := if kind = .sett then s.releaseParity d else s
        s.updSlot k fun x => { x with shadow := none }
    | some i, none =>
      if (s.slot k).kind = .sett ∧ (s.slot k).st = .forming ∧ !(s.slot k).primed then
        (((s.primeSlot k (s.slot k).sett).updSlot k fun x => { x with primed := true }).tryForm i k).follow i
      else s
    | none, _ =>
      if (s.slot k).kind = .sett ∧ (s.slot k).st = .forming ∧ !(s.slot k).primed then
        (s.primeSlot k (s.slot k).sett).updSlot k fun x => { x with primed := true }
      else s

/-- PRIMER_COMPLETE (R278). -/
def execPrimerComplete (p : PrimeTarget) (s : State) : Out :=
  if !s.configured || s.flt.mode ≠ .normal then .next s
  else
    match p with
    | .entry c => .next (s.primerEntry c)
    | .slot k => .next (s.primerSlot k)

/-! ## Counts, panels and answers (R287 to R290) -/

/-- An answer to a source: DONE, RESEND, SEALED or CANCEL at the boundary epoch of its frame. -/
def State.answerCount (s : State) (i : Fin 64) (a : Addr) (epoch : Nat) (phase : BitVec 7) (n : Nat) : State :=
  s.sendReply (s.ctrlTo i a 0x60 epoch phase (n % 2 ^ 32))

/-- DONE where a source's announced panels have all come. -/
def State.answerDone (s : State) (i : Fin 64) (a : Addr) : State :=
  let r := (s.ten i).rs
  match r.sources.find? fun x => x.addr == a with
  | some x => if r.sealing && x.got == x.count then s.answerCount i a r.boundary 1 x.got else s
  | none => s

/-- Whether an instance armed for a boundary takes its frames before its own boundary (DEDUCED, log entry 24). -/
def State.armedFor (s : State) (i : Fin 64) (f : Rx) : Bool :=
  let t := s.ten i
  t.rs.state == .armed && decide (t.rs.at_.toNat ≤ f.epoch.toNat) &&
    (t.commit.vstate == .none || decide (t.commit.committed < f.epoch.toNat))

/-- Check 7 of a boundary frame. -/
def State.boundaryOk (s : State) (i : Fin 64) (f : Rx) : Bool :=
  (s.ten i).rs.sealing && !(s.ten i).rs.first && decide (f.epoch.toNat = (s.ten i).rs.boundary)

/-- The checks of a RESLICE_COUNT of a phase. -/
def countCheck (f : Rx) (phase : BitVec 7) (ok7 : State → Fin 64 → Bool) : Check :=
  { typ := 0x60, ok2 := f.tr == phase && tField f 32 32 == 0, ok3 := f.len == 0, ok7 := ok7 }

/-- RESLICE_COUNT (R286, R287): a joiner enters its boundary with the first; every COUNT is answered from state. -/
def execResliceCount (f : Rx) (s : State) : Out :=
  .next (s.receive f (countCheck f 0 fun s i => s.boundaryOk i f || s.armedFor i f || (s.ten i).rs.lastSeal == some f.epoch.toNat ||
      ((s.ten i).rs.cancelled && f.epoch.toNat == (s.ten i).rs.boundary)) fun s i =>
    let r := (s.ten i).rs
    let e := f.epoch.toNat
    if s.boundaryOk i f || s.armedFor i f then
      let s := if r.state = .armed ∧ r.joiner then (s.updRs i fun r => { r with boundary := e }).enterBoundary i else s
      ((((s.noteSource i f.src (tField f 0 32)).answerDone i f.src).syncBoundary i)).follow i
    else if r.lastSeal = some e then s.answerCount i f.src e 3 0
    else s.answerCount i f.src e 4 0)

/-- RESLICE_DONE (R287). -/
def execResliceDone (f : Rx) (s : State) : Out :=
  .next (s.receive f (countCheck f 1 fun s i => s.boundaryOk i f) fun s i =>
    let s := s.updRs i fun r => { r with dests := r.dests.map fun d =>
      if d.addr = f.src ∧ d.count % 2 ^ 32 = tField f 0 32 then { d with done := true } else d }
    (s.syncBoundary i).follow i)

/-- RESLICE_RESEND (R288): every panel of that destination again. -/
def execResliceResend (f : Rx) (s : State) : Out :=
  .next (s.receive f (countCheck f 2 fun s i => s.boundaryOk i f) fun s i =>
    if (s.ten i).rs.dests.any fun d => d.addr == f.src then s.sendMoves i f.src else s)

/-- RESLICE_SEALED (R290): a leaver tears the tenant down. -/
def execResliceSealed (f : Rx) (s : State) : Out :=
  .next (s.receive f (countCheck f 3 fun s i => s.boundaryOk i f) fun s i =>
    if (s.ten i).rs.new_ then s else s.tearDown i)

/-- RESLICE_CANCEL (R289). -/
def execResliceCancel (f : Rx) (s : State) : Out :=
  .next (s.receive f (countCheck f 4 fun s i => s.boundaryOk i f) fun s i =>
    (((s.updCommit i CommitS.cleared).cancelReslice i).endRender i).follow i)

/-- RESLICE_MOVE (R287): a panel of the moved state arrives. -/
def execResliceMove (f : Rx) (s : State) : Out :=
  .next (s.receive f { typ := 0x61, ok2 := true, ok3 := f.len == 4096
                       ok7 := fun s i => f.tr == 0 && (s.boundaryOk i f || s.armedFor i f) } fun s i =>
    let s := if (s.ten i).rs.sources.any fun x => x.addr == f.src then s else s.noteSource i f.src 0
    let s := s.arrive i f.src f.t.toNat f.payload
    let s := match (s.ten i).rs.sources.find? fun x => x.addr == f.src with
      | some x => if 0 < x.count then s.answerDone i f.src else s
      | none => s
    ((s.fillHeld i).syncBoundary i).follow i)

/-- RESLICE_COUNT_POLL (R29, R287): a destination that has answered DONE is polled VOTE_REPEAT after the last COUNT; a leaver
polls its lowest-numbered one. -/
def execResliceCountPoll (tidx : Fin 64) (dest : Addr) (s : State) : Out :=
  let r := (s.ten tidx).rs
  let lowest := r.dests.all fun d => !decide (d.addr < dest)
  match r.dests.find? fun d => d.addr == dest with
  | some d =>
    .next (if r.sealing && d.done && dest != s.self && (r.new_ || lowest) then
        let s := s.reach d.since s.repeatNs
        let s := s.updRs tidx fun r => { r with dests := r.dests.map fun x =>
          if x.addr = dest then { x with since := s.time.now } else x }
        s.send (s.countFrame tidx dest 0 d.count)
      else s)
  | none => .next s

/-- MOVE_RTO_EXPIRY (R29, R288): MOVE_RTO after a short source's last new panel or RESEND, a RESEND to it; four without
progress withhold the vote. -/
def execMoveRtoExpiry (tidx : Fin 64) (src : Addr) (s : State) : Out :=
  let r := (s.ten tidx).rs
  match r.sources.find? fun x => x.addr == src with
  | some x =>
    if !r.sealing ∨ x.count ≤ x.got then .next s
    else
      let s := s.reach x.since (s.cfg.glob.moveRto * 1000000)
      let set (y : RsSource) : State := s.updRs tidx fun r => { r with sources := r.sources.map fun z => if z = x then y else z }
      if x.got = x.gotAt ∧ 4 ≤ x.resends then
        .next (((set { x with since := s.time.now }).resliceFault tidx 0xE3 src.toNat).follow tidx)
      else
      let s := set { x with
        gotAt := x.got, resends := if x.got = x.gotAt then x.resends + 1 else 1, since := s.time.now }
      .next (s.answerCount tidx src r.boundary 2 x.got)
  | none => .next s

/-! ## Commands (R282, R285, R292, R295, R296) -/

/-- A command of MNL_RS_CMD on the tenant MNL_UE_TSEL selects: `check` gives its RESULT; one other than OK refuses the
command under R9. -/
def State.rsCmd (s : State) (a : Acc) (op : BitVec 4) (check : State → Fin 64 → Nat) (f : State → Fin 64 → State) : Out :=
  let i := Fin.ofNat 64 s.regs.tsel.toNat
  if !s.portsUp then .next s
  else if !s.windowOpen 0x5A08 then .next (s.refuse a.id 0x5A08)
  else
    let tagOk := fromSystem a || (a.tag == s.tagOf i && (s.ten i).env.isSome)
    let r := if !tagOk || (s.ten i).env.isNone then 2 else check s i
    let s := s.updRs i fun x => { x with result := BitVec.ofNat 8 r }
    if r = 0 then .next (f ({ s.ok a.id with rs := { s.rs with op := op } } : State) i) else .next (s.refuse a.id 0x5A08)

/-- RS_SEAL (R282, R284): at a tenant without a committed epoch. -/
def execRsSeal (a : Acc) (s : State) : Out :=
  s.rsCmd a 1 (fun s i =>
      if (s.ten i).rs.state = .idle ∧ (s.ten i).commit.vstate = .none ∧ !(s.usedSlots i).isEmpty then 0 else 1) fun s i =>
    ((s.updRs i fun r => { r with state := .sealing, first := true, joiner := false, boundary := 0, rendered := [] }).enterSeal i).follow i

/-- RS_ARM (R285, R286). -/
def execRsArm (a : Acc) (s : State) : Out :=
  s.rsCmd a 2 (fun s i =>
      let foreign := s.rs.moves.toList.any fun m => m.valid &&
        (match s.entry m.ctx.toNat with | some e => e.tenant != s.tagOf i || e.state != .active | none => true)
      if !s.cap 7 then 3
      else if (s.ten i).rs.state ≠ .idle ∨ s.loader.shadowState = .armed ∨ foreign then 1 else 0) fun s i =>
    let joins := (s.ten i).rs.new_ && (s.ten i).commit.vstate == .none &&
      !(s.entriesOf (s.tagOf i)).any fun p => p.2.state == .active
    let s := s.updRs i fun r => { r with state := .armed, joiner := joins, first := false, sources := [], dests := [] }
    if joins then s.updFox i fun f => { f with gen := (s.ten i).rs.armGen, self := .member } else s

/-- RS_DISARM (R296): accepted only in ARMED. -/
def execRsDisarm (a : Acc) (s : State) : Out :=
  s.rsCmd a 5 (fun s i => if (s.ten i).rs.state = .armed then 0 else 1) fun s i =>
    (s.updRs i fun r => { r with state := .idle, joiner := false, sources := [] }).updCommit i fun c => { c with stagedTree := none }

/-- TEARDOWN (R292). -/
def execTeardown (a : Acc) (s : State) : Out :=
  s.rsCmd a 3 (fun s i => if (s.ten i).rs.state = .teardown ∨ (s.ten i).rs.state = .quiet then 1 else 0) fun s i =>
    (s.tearDown i).unpark

/-- TEARDOWN_COMPLETE (R292): every entry and slot primed, the tag enters QUIET; event 0xE7. -/
def execTeardownComplete (tidx : Fin 64) (s : State) : Out :=
  let r := (s.ten tidx).rs
  .next (if r.state = .teardown ∧ r.tearEntries.isEmpty ∧ r.tearSlots.isEmpty then
      (s.updRs tidx fun r => { r with state := .quiet, quietAt := s.time.now }).raiseT tidx 0xE7
    else s)

/-- TAG_QUIET_EXPIRY (R29, R293): TAG_QUIET after QUIET was entered the tag may be installed again; its slots form anew under their descriptors (DESIGN CHOICE,
log entry 25). -/
def execTagQuietExpiry (tidx : Fin 64) (s : State) : Out :=
  if (s.ten tidx).rs.state ≠ .quiet then .next s
  else
    let s := (s.reach (s.ten tidx).rs.quietAt (s.cfg.glob.tagQuiet * 1000000)).updRs tidx fun _ => {}
    let r := s.cfg
    .next (((List.range 16).filter fun k => s.ownsSlot tidx k).foldl (fun s k =>
      if r.kindOf k = .unused then s
      else (s.formSlot (some tidx) r k).updSlot k fun x => { x with primed := x.kind == .sett }) s).syncGroups

/-- EXPORT (R295): range, capability and state judged, then the stream begins and the vote waits. -/
def execExport (a : Acc) (s : State) : Out :=
  let c := s.rs.xctx.toNat
  let n := s.rs.xcount.toNat
  let first := s.rs.xfirst.toNat
  s.rsCmd a 4 (fun s i =>
      if !s.cap 7 then 3
      else
        match s.entry c with
        | none => 1
        | some e =>
          if e.state ≠ .active ∨ e.tenant ≠ s.tagOf i ∨ s.rs.running.isSome then 1
          else if n = 0 ∨ e.lenp < first + n ∨ !s.rangeOk 5 s.rs.xdst.toNat (64 + 4104 * n) then 4 else 0) fun s i =>
    { s with rs := { s.rs with running := some {
        tidx := i, ctx := c, first := first, count := n, dst := s.rs.xdst.toNat, epoch := (s.ten i).commit.committed } } }

/-- The stream of an export. -/
def State.exportStream (s : State) (x : Export) (e : Entry) : List Byte :=
  let ps := (List.range x.count).map (x.first + ·)
  leBytes 4 0x3158504D ++ leBytes 2 e.tenant.toNat ++ leBytes 2 0 ++ leBytes 8 (x.epoch % 2 ^ 48) ++
    leBytes 8 (e.coord x.first) ++ leBytes 4 x.count ++ leBytes 1 e.cls.code ++ leBytes 3 0 ++
    leBytes 8 (combine (ps.map fun p => s.keptC e p)).toNat ++ leBytes 24 0 ++
    (ps.flatMap fun p => s.bankC e p) ++ ps.flatMap fun p => leBytes 8 (s.keptC e p).toNat

/-- The first panel of an export that cannot be read or disagrees with its kept digest. -/
def State.exportBad (s : State) (x : Export) (e : Entry) : Option Nat :=
  ((List.range x.count).map fun j => e.panelAddr (x.first + j) (s.panelRec e (x.first + j)).c).find? fun a => !s.digestOk a

/-- EXPORT_COMPLETE (R295, R304): the stream stands in memory, event 0xE8; a read that failed ends it with RESULT READ. The
vote that waited is free again. -/
def execExportComplete (flt : ReadFault) (s : State) : Out :=
  match s.rs.running with
  | none => .next s
  | some x =>
    let i := x.tidx
    let s : State := { s with rs := { s.rs with running := none } }
    let fail (s : State) : State := (s.updRs i fun r => { r with result := 5 }).follow i
    match s.entry x.ctx with
    | none => .next (fail s)
    | some e =>
      if e.state ≠ .active then .next (fail s)
      else
        match flt with
        | .stack a =>
          .next (fail ((s.raise { code := 0x39, tenant := s.tagOf i, detail := a.toNat }).queueRepairAt a.toNat))
        | .digestWord =>
          .next (fail ((s.raiseT i 0xF1).digestFail (e.panelAddr x.first (s.panelRec e x.first).c)))
        | _ =>
          match s.exportBad x e with
          | some a => .next (fail (s.digestFail a))
          | none =>
            let s := s.putBytes x.dst (s.exportStream x e)
            .next (((s.updRs i fun r => { r with result := 0 }).raiseT i 0xE8).follow i)

end Sys2Proof.Machine
end

