-- ==== Sys2Proof/Machine/RegRead.lean ====
section
/-! DEFINITION. What the register window shows: every register of R386 to R401 and of the tables they name (R90, R150,
R182, R209, R210, R230, R250, R276, R296, R317, R340, R363, R380, R388, R389, R394, R396), as words at their offsets. -/

namespace Sys2Proof.Machine

/-- A value shown where a condition holds, else 0. -/
def only (b : Bool) (n : Nat) : Nat := if b then n else 0

/-- The 8-byte words of a register wider than 64 bits, from its first offset on. -/
def wideWords (off n : Nat) (bs : List Byte) : List (Nat × Nat) :=
  (List.range n).map fun j => (off + 8 * j, leField bs (8 * j) 8)

/-- Population count of a lane mask. -/
def lanesIn (m : BitVec 32) : Nat := ((List.range 32).filter fun b => m.getLsbD b).length

/-! ## Identity and capabilities (R355, R356, R386, R387) -/

/-- Offset of a capability's entry. -/
def capOffset (id : Nat) : Nat := 0x40 + 16 * (id - 1)

/-- The capabilities present, ascending. -/
def State.caps (s : State) : List Nat := ((List.range 10).map (· + 1)).filter s.cap

/-- Bytes 4 to 15 of a capability's entry. -/
def State.capParams (s : State) (id : Nat) : List Byte :=
  match id with
  | 1 => leBytes 1 s.power.inst.toNat ++ leBytes 1 s.cfg.ninst ++ leBytes 1 (bit s.power.flash 0) ++ [64, 16]
  | 2 => leBytes 4 Config.stagingKiB ++ leBytes 2 Config.hawkRecords
  | 3 => leBytes 1 (lanesIn s.cfg.inst.lanes) ++ leBytes 4 8192 ++ leBytes 2 16384
  | 4 => [32, 255] ++ leBytes 2 Config.repairQueue
  | 5 => leBytes 4 8388608
  | 6 => [15]
  | 7 => leBytes 2 256 ++ leBytes 2 256
  | 9 => [0x3F]
  | _ => []

/-- The two words of every capability entry present. -/
def State.capWords (s : State) : List (Nat × Nat) :=
  s.caps.flatMap fun id =>
    let next := match s.caps.find? fun j => id < j with | some j => capOffset j | none => 0
    wideWords (capOffset id) 2 ([BitVec.ofNat 8 id, 1] ++ leBytes 2 next ++ s.capParams id)

/-- The identity block. -/
def State.identityWords (s : State) : List (Nat × Nat) :=
  let g := s.cfg.glob
  let i := s.cfg.inst
  [(0x0000, 0x4447 + 0x4D4E * 2 ^ 16 + 3 * 2 ^ 32 + 1 * 2 ^ 40 + Config.implStep.toNat * 2 ^ 48),
   (0x0008, 0x040 + s.caps.length * 2 ^ 16),
   (0x0010, s.self.toNat + s.cfg.ninst % 256 * 2 ^ 32),
   (0x0018, i.place.toNat),
   (0x0020, i.feed.toNat + i.plane.toNat * 2 ^ 16),
   (0x0028, only s.configured (g.xe % 256 + g.ye % 256 * 2 ^ 8 + g.ze % 256 * 2 ^ 16))] ++ s.capWords

/-! ## Mirror, control and status (R380, R388, R389) -/

/-- The row MNL_SPM_RSEL selects. -/
def State.mirrorRow (s : State) : List (Nat × Nat) :=
  let sl := s.slot s.loader.rselSlot.toNat
  match sl.rows[s.loader.rselRank.toNat]? with
  | some r =>
    let dcap := if sl.kind = .replica then sl.rep.dcap else r.dcap
    [(0x0C40, r.addr.toNat + r.mslot.toNat * 2 ^ 25 + dcap % 2 ^ 23 * 2 ^ 32), (0x0C48, r.place.toNat),
     (0x0C50, r.feed.toNat + r.plane.toNat * 2 ^ 16), (0x0C58, 0)]
  | none => [(0x0C40, 0), (0x0C48, 0), (0x0C50, 0), (0x0C58, 0)]

/-- The code of a slot's kind. -/
def kindCode : SlotKind → Nat
  | .unused => 0
  | .sett => 1
  | .replica => 2

/-- The mirror but the record's bytes; all of it reads zero before configuration (R384, R388). -/
def State.mirrorWords (s : State) : List (Nat × Nat) :=
  let c := s.configured
  [(0x0C00, only c (s.cfg.bytes.length % 2 ^ 24 + s.cfg.nsect % 256 * 2 ^ 24 + s.loader.svn.toNat * 2 ^ 32)),
   (0x0C08, only c (s.flt.noMajority.length % 2 ^ 16 + s.flt.outvoted.toNat * 2 ^ 32)),
   (0x0C10, only c (((List.range 16).map fun k => kindCode (s.slot k).kind * 4 ^ k).sum)),
   (0x0C18, only c s.cfg.glob.capmask.toNat)] ++
  s.mirrorRow.map (fun p => (p.1, only c p.2)) ++
  (wideWords 0x0C80 16 (s.cfg.inst.raise.flatMap fun p => [p.1, BitVec.ofNat 8 p.2])).map fun p => (p.1, only c p.2)

/-- A word of the record page shown at 0x0400. -/
def State.recordWord (s : State) (off : Nat) : Nat :=
  only s.configured (leField s.cfg.bytes (2048 * s.loader.page.toNat + (off - 0x400)) 8)

/-- Whether a word of the mirror has no majority (R388): of the record page shown, or of the registers from 0x0C00 on, whose
own count MNL_SPM_VOTE is no critical word. -/
def State.unvoted (s : State) (off : Nat) : Bool :=
  let words := (s.cfg.bytes.length + 7) / 8
  s.configured && off != 0xC08 && s.flt.noMajority.contains (
    if off < 0xC00 then 256 * s.loader.page.toNat + (off - 0x400) / 8 else words + (off - 0xC00) / 8) &&
    (decide (0xC00 ≤ off) || decide (256 * s.loader.page.toNat + (off - 0x400) / 8 < words))

/-- A word of the mirror as it reads: all ones where it has no majority (R388). -/
def State.voted (s : State) (off n : Nat) : Nat := if s.unvoted off then 2 ^ 64 - 1 else n

/-- Whether an attempt opening waits for the fold walker (R44). -/
def State.walkWait (s : State) : Bool :=
  tenantIdxs.any fun i =>
    let c := (s.ten i).commit
    c.openDue && !c.isOpen && c.unfolded.getLsbD (c.att + 1).toNat

/-- The code of a monitor's class (R380). -/
def MonClass.code : MonClass → Nat
  | .normal => 0
  | .warning => 1
  | .alarm => 2

/-- The monitor MNL_MGN_SEL selects. -/
def State.monitor (s : State) : Monitor := s.monitors.toList.getD s.power.monSel.toNat {}

/-- The control and status block with the integration registers. -/
def State.controlWords (s : State) : List (Nat × Nat) :=
  let m := s.monitor
  let c := s.configured
  [(0x1000, bit s.gate.ready 0 + bit (s.cfg.inst.spanLen != 0) 1 + s.gate.park.length % 512 * 2 ^ 8 + bit s.walkWait 24),
   (0x1008, s.gate.share.toNat),
   (0x1010, only c (s.cfg.inst.spanBase % 64 + s.cfg.inst.spanLen % 64 * 2 ^ 8)),
   (0x1018, s.loader.page.toNat),
   (0x1020, s.time.now.toNat),
   (0x1028, bit s.time.advancing 0 + bit s.time.fault 1),
   (0x1030, s.loader.rselSlot.toNat + s.loader.rselRank.toNat * 2 ^ 8),
   (0x1100, s.power.monSel.toNat),
   (0x1108, m.cls.code + m.slack.toNat * 2 ^ 8 + m.worst.toNat * 2 ^ 16 + m.warns.toNat * 2 ^ 32),
   (0x1110, bit s.power.ramp 0 + s.power.rampGroups % 8 * 2),
   (0x1118, s.power.inst.toNat + bit s.power.flash 4 + bit s.power.testEn 5 +
      only s.time.sampled Config.clkPeriod.toNat * 2 ^ 8),
   (0x1120, s.lath.ninst.toNat + bit s.lath.closed 4)]

/-! ## Faults and the crash area (R340, R400) -/

/-- A word of the crash area as it is shown (R400). -/
def State.crashWord (s : State) (o : Nat) : Nat := leNat ((List.range 8).map fun j => s.crashByte (o + j))

/-- Where the persistent page holds the history entry MNL_FLT_HSEL selects (R334, R340): none beyond the newest. -/
def State.shownEntry (s : State) : Option Nat :=
  let n := s.flt.history.length
  if s.flt.hsel.toNat < n then some (0x0FF000 + 32 * (n - 1 - s.flt.hsel.toNat)) else none

/-- Whether a word of the entry shown is uncorrectable (R340). -/
def State.entryDamaged (s : State) : Bool :=
  match s.shownEntry with
  | some o => (List.range 4).any fun j => s.crash.badWords.contains (o / 8 + j)
  | none => false

/-- The fault block. -/
def State.faultWords (s : State) : List (Nat × Nat) :=
  let f := s.flt
  let g := s.cfg.glob
  let c := s.configured
  let x := s.crash
  [(0x1800, f.summary.toNat), (0x1808, s.causes.toNat),
   (0x1810, f.mode.code + f.dcause.toNat * 2 ^ 8 + s.resetsInWindow % 16 * 2 ^ 16),
   (0x1818, 0), (0x1820, f.resetSel.toNat), (0x1828, f.seq.toNat + f.lost.toNat * 2 ^ 32),
   (0x1830, f.hsel.toNat + bit s.entryDamaged 8)] ++
  (List.range 4).map (fun j => (0x1840 + 8 * j, match s.shownEntry with | some o => s.crashWord (o + 8 * j) | none => 0)) ++
  [(0x1860, only c (g.wdUnit % 2 ^ 14 + g.wdBadger % 2 ^ 17 * 2 ^ 14 + g.wdSeq % 2 ^ 17 * 2 ^ 31 + g.wdMem % 2 ^ 16 * 2 ^ 48)),
   (0x1868, only c (g.escWindow % 2 ^ 16 + g.escLimit % 16 * 2 ^ 16 + g.unitWindow % 2 ^ 16 * 2 ^ 20 +
      g.unitLimit % 256 * 2 ^ 36 + g.scrubPeriod % 2 ^ 16 * 2 ^ 44)),
   (0x1878, bit f.mirrorEn 0 + f.mirrorBase.toNat / 4096 * 4096),
   (0x1880, f.qAddr.toNat + f.qTenant.toNat * 2 ^ 32 + bit f.qDone 62)] ++
  wideWords 0x1888 4 f.qReply ++
  [(0x18C0, bit x.fmt 2 + x.page.toNat * 2 ^ 8),
   (0x18C8, bit x.slot0 0 + bit x.slot1 1 + bit x.capturing.isSome 2 + bit x.damaged 3 + bit x.prior 4 +
      x.trig0.toNat * 2 ^ 8 + x.trig1.toNat * 2 ^ 16 + x.torn.length % 128 * 2 ^ 24)]

/-! ## Fox, epoch and commit (R209, R230, R250) -/

/-- The code of a watch entry's status (R250). -/
def WStatus.code : WStatus → Nat
  | .unseen => 0
  | .present => 1
  | .suspect => 2
  | .confirmed => 3
  | .lost => 4
  | .replacing => 5

/-- The tree a tenant's tree registers show and write: the staged one in ARMED (R218, R285). It starts as a copy of the
current tree (DESIGN CHOICE, log entry 33). -/
def TenantS.shownTree (t : TenantS) : Tree := if t.rs.state = .armed then t.commit.stagedTree.getD t.commit.tree else t.commit.tree

/-- Whether tree writes are refused: once a sealed epoch exists, outside ARMED (R218, R285). -/
def TenantS.treeLocked (t : TenantS) : Bool := t.sealed && t.rs.state != .armed

/-- The late history of the child MNL_EC_CIDX selects. -/
def State.lateOf (s : State) (t : TenantS) : Option Late :=
  t.commit.late.find? fun l => l.job == s.regs.ctable && l.idx == s.regs.cidx.toNat

/-- The Fox block. -/
def State.foxWords (s : State) : List (Nat × Nat) :=
  let i := s.selected
  let t := s.ten i
  let g := s.cfg.glob
  let w := s.watch[s.regs.wsel.toNat]?
  let suspects := (s.watch.filter fun w => w.tidx == i && (w.status == .suspect || w.status == .confirmed)).length
  [(0x2000, t.fox.gen.toNat + (t.jobManager.getD 0).toNat * 2 ^ 32),
   (0x2008, t.fox.self.code + suspects % 2 ^ 16 * 2 ^ 8 + t.fox.log.length % 128 * 2 ^ 24),
   (0x2010, only s.configured (g.hbPeriod % 2 ^ 14 + g.confirmWait % 2 ^ 14 * 2 ^ 16 + g.discWait % 2 ^ 14 * 2 ^ 32)),
   (0x2018, s.regs.wsel.toNat),
   (0x2020, match w with
     | some w => w.addr.toNat + w.status.code * 2 ^ 25 + w.slot % 16 * 2 ^ 28 + bit w.cand 32 + w.rank % 64 * 2 ^ 33
     | none => 0),
   (0x2028, match w with | some w => w.hseq.toNat | none => 0),
   (0x2030, match w with | some w => w.beat.toNat | none => 0),
   (0x2038, t.shownTree.quorum % 2 ^ 24),
   (0x2040, s.regs.fmAddr.toNat + bit s.regs.fmChip 25),
   (0x2048, t.fox.evictAddr.toNat + bit t.fox.evictChip 25),
   (0x2050, s.regs.extraAddr.toNat + s.regs.extraCount.toNat * 2 ^ 32),
   (0x2058, t.commit.lateGap.toNat + t.commit.markAt.toNat * 2 ^ 24),
   (0x2060, match s.lateOf t with | some l => popcount64 l.hist + bit l.mark 63 | none => 0)]

/-- The code of a manager's state (R230). -/
def MState.code : MState → Nat
  | .collect => 0
  | .sent => 1
  | .solicit => 2

/-- ROLES and MSTATE of a tenant (R230). -/
def State.rolesWord (s : State) (i : Fin 64) : Nat :=
  let c := (s.ten i).commit
  let m : MState := match s.topRole i with | 3 => c.jobM | 2 => c.podM | 1 => c.chipM | _ => .collect
  only (s.ten i).env.isSome
    (bit s.isChipManager 16 + bit (s.isPodManager i) 17 + bit (s.isJobManager i) 18 + m.code * 2 ^ 19)

/-- Σ CREDIT and the children that have answered, at the highest role (R230). -/
def State.countWord (s : State) (i : Fin 64) : Nat :=
  let t := s.ten i
  let answered (job : Bool) : Nat := ((t.groupsOf job).filter fun g => s.childAnswered i job g).length
  match s.topRole i with
  | 3 => s.jobSum i % 2 ^ 24 + only (t.commit.jobM == .solicit) (answered true % 2 ^ 11) * 2 ^ 24
  | 2 => s.podSum i % 2 ^ 24 + only (t.commit.podM == .solicit) (answered false % 2 ^ 11) * 2 ^ 24
  | 1 => s.chipCount i % 2 ^ 24
  | _ => 0

/-- The epoch and commit block. -/
def State.commitWords (s : State) : List (Nat × Nat) :=
  let i := s.selected
  let t := s.ten i
  let c := t.commit
  let tree := t.shownTree
  let child := tree.children.find? fun x => x.job == s.regs.ctable && x.idx == s.regs.cidx.toNat
  [(0x2800, (s.ten i).vstateShown.code + c.wcause.toNat * 2 ^ 8 + s.rolesWord i),
   (0x2808, c.committed % 2 ^ 48 + c.committedTry.toNat * 2 ^ 48),
   (0x2810, c.openEpoch % 2 ^ 48 + c.openTry.toNat * 2 ^ 48 + c.att.toNat * 2 ^ 56),
   (0x2818, bit c.autoAbort 0), (0x2820, c.abortWait.toNat),
   (0x2828, tree.members % 2 ^ 24 + bit t.treeLocked 32), (0x2830, s.regs.csel.toNat),
   (0x2838, match tree.cands[s.regs.csel.toNat]? with | some x => x.addr.toNat + bit x.valid 63 | none => 0),
   (0x2840, s.regs.cidx.toNat + bit s.regs.ctable 15),
   (0x2848, match child with
     | some x => x.addr.toNat + x.expect % 2 ^ 24 * 2 ^ 25 + x.group % 2 ^ 11 * 2 ^ 49 + bit x.valid 63
     | none => 0),
   (0x2850, s.countWord i), (0x2858, c.lastChild.toNat + c.lastGap.toNat * 2 ^ 32), (0x2860, c.lat.toNat),
   (0x2880, s.regs.gsel.toNat),
   (0x2888, match t.sweep.groups.find? fun r => r.grp == s.regs.gsel.toNat with
     | some r => (match (s.bankOf i).image.progs[r.prog]? with | some p => s.groupOrd i r.grp p % 2 ^ 52 | none => 0) +
         bit (s.groupDone i r.grp) 63
     | none => 0),
   (0x2890, t.sweep.state.code + t.sweep.cause.toNat * 2 ^ 8),
   (0x2898, t.sweep.written % 2 ^ 32 + t.sweep.dropped % 2 ^ 32 * 2 ^ 32)]

/-! ## Update engine and instruction banks (R125, R150, R182) -/

/-- The live lane mask: the planned lanes of every lane group not in reset (R125). -/
def State.liveLanes (s : State) : BitVec 32 :=
  (List.finRange 4).foldl (fun m g =>
    if s.flt.inReset.contains (.lane g) then m &&& ~~~((0xFF : BitVec 32) <<< (8 * g.val)) else m) s.cfg.inst.lanes

/-- Whether a sweep holds lanes (R144, R184). -/
def SweepS.runsBody (w : SweepS) : Bool := (w.state == .prep || w.state == .body) && !w.waitIntake && !w.waitHawk

/-- The update engine block. -/
def State.engineWords (s : State) : List (Nat × Nat) :=
  let i := s.selected
  let t := s.ten i
  let some_ (f : SweepS → Bool) : Bool := tenantIdxs.any fun j => f (s.ten j).sweep
  let sweeps := (tenantIdxs.filter fun j => (s.ten j).sweep.state != .idle).length
  let active := t.env.isSome
  [(0x3000, bit (some_ SweepS.runsBody) 0 + bit (some_ (·.waitIntake)) 1 + bit (some_ (·.waitHawk)) 2 +
      bit (some_ fun w => w.state == .done) 3 + lanesIn s.liveLanes * 2 ^ 4 + sweeps * 2 ^ 16),
   (0x3008, s.cfg.inst.lanes.toNat + s.liveLanes.toNat * 2 ^ 32), (0x3010, s.regs.tsel.toNat),
   (0x3018, t.sweep.flags.toNat), (0x3020, t.sweep.flagsLast.toNat + bit t.sweep.lastCommitted 8),
   (0x3028, only s.configured s.cfg.inst.react.toNat),
   (0x3030, match t.env with | some e => e.ishare % 128 | none => 0),
   (0x3038, bit (active && !t.intake.flush && s.shareBytes i != 0 && t.intake.epoch != 0) 0 + bit (active && t.intake.flush) 1 + bit (t.intake.manSt == .ok) 2 +
      bit (t.intake.manSt == .bad) 3 + t.intake.low % 2 ^ 24 * 2 ^ 8 + t.intake.high % 2 ^ 24 * 2 ^ 32),
   (0x3040, t.intake.epoch % 2 ^ 48), (0x3048, 0),
   (0x3050, bit s.regs.notifyEn 0 + s.regs.notifyBase.toNat / 4096 * 4096)]

/-- The instruction-bank block. -/
def State.bankWords (s : State) : List (Nat × Nat) :=
  let b := s.ib
  let t := s.ten s.selected
  let x := b.bank b.pselBank
  [(0x3800, bit b.busy 0 + bit b.armed 1 + bit b.target 2 + bit b.current 3 + bit (b.bank0.st == .valid) 4 +
      bit (b.bank1.st == .valid) 5 + bit (b.bank0.st == .bad) 6 + bit (b.bank1.st == .bad) 7 + b.result.toNat * 2 ^ 8 +
      s.bankUsers false * 2 ^ 16 + s.bankUsers true * 2 ^ 24),
   (0x3808, b.op.toNat + bit b.opBank 4), (0x3810, b.src.toNat / 64 * 64), (0x3818, b.len.toNat), (0x3820, b.at_.toNat),
   (0x3828, b.psel.toNat + bit b.pselBank 4),
   (0x3830, match x.image.progs[b.psel.toNat]? with
     | some p => min (pinfoS p) 0xFFFFFF + pinfoB p % 2 ^ 16 * 2 ^ 24 + bankEntries p % 2 ^ 15 * 2 ^ 40
     | none => 0),
   (0x3838, b.bank0.used % 2 ^ 15 + b.bank1.used % 2 ^ 15 * 2 ^ 16)] ++
  wideWords 0x3840 4 b.bank0.digest ++ wideWords 0x3860 4 b.bank1.digest ++
  [(0x3888, bit t.bank 0 + bit (b.armed && t.env.isSome && t.bank != b.target) 1), (0x3890, b.dsel.toNat),
   (0x3898, (t.dbase.get b.dsel.toFin).toNat / 64 * 64)]

/-! ## Context window, endpoint, skim (R90, R210, R394) -/

/-- The context window. -/
def State.windowWords (s : State) : List (Nat × Nat) :=
  [(0x4000, s.ctx.index.toNat), (0x4008, s.ctx.op.toNat), (0x4010, bit s.ctx.busy 0 + s.ctx.result.toNat * 2 ^ 8),
   (0x4018, s.ctx.arg.toNat), (0x4020, s.liveSum % 2 ^ 23)] ++
  (List.range 8).map fun j => (0x4040 + 8 * j, s.ctx.word j)

/-- MNL_EP_STATUS.MODE (R394). -/
def State.epMode (s : State) : Nat :=
  if !s.configured || s.flt.mode == .resetting || s.flt.inReset.contains .endpoint then 1
  else if s.flt.mode = .normal then 0 else 2

/-- The code of the route control's state. -/
def RouteState.code : RouteState → Nat
  | .idle => 0
  | .draining => 1
  | .drained => 2

/-- Frames outstanding per engine, cleared by an instance reset (R68, R394). What the CONTROL requester awaits: handover
answers, completion answers and witness answers (DEDUCED, log entry 34). -/
def State.outWord (s : State) : Nat :=
  let runs (k : RunKind → Bool) : Nat := ((s.badger.runs.filter fun r => k r.kind).map fun r => r.helpers.length).sum
  let audit := s.audit.runs.length * settN (s.slot s.auSlot).sett
  let control := s.ctx.offers.length + (tenantIdxs.map fun i => (s.ten i).bg.records.length).sum +
    (s.watch.map fun w => match w.round with | some r => r.asked.length - r.missing.length | none => 0).sum
  only (s.flt.mode != .resetting) (s.skimOut % 1024 + runs (· != .render) % 1024 * 2 ^ 10 + audit % 1024 * 2 ^ 20 +
    runs (· == .render) % 1024 * 2 ^ 30 + control % 1024 * 2 ^ 40)

/-- The endpoint block. Every frame is consumed in the step that takes it, so the ingress staging reads empty. -/
def State.endpointWords (s : State) : List (Nat × Nat) :=
  let e := s.ep
  let g := s.cfg.glob
  let c := s.configured
  [(0x5000, s.epMode + e.ht.toNat * 2 ^ 4), (0x5008, e.wSkim.toNat + e.wBadger.toNat * 2 ^ 8),
   (0x5010, e.rateSkim.toNat + e.rateBadger.toNat * 2 ^ 16),
   (0x5018, only c (g.ctrlRate % 64 + g.rtoSkim % 2 ^ 14 * 2 ^ 8 + g.drainTimeout % 2 ^ 10 * 2 ^ 32 +
      g.resumeWait % 2 ^ 10 * 2 ^ 48)),
   (0x5020, only c (g.vcSkim.toNat + g.vcBadger.toNat * 2 ^ 4 + g.vcControl.toNat * 2 ^ 8 + g.vcIntake.toNat * 2 ^ 12)),
   (0x5028, e.route.code * 2 ^ 8 + bit e.auto 10 + e.marked.toNat * 2 ^ 16), (0x5030, s.outWord),
   (0x5038, (e.groups.filter fun x => x.setup == .confirmed && !x.deleting).length % 2 ^ 11 +
      (e.groups.filter fun x => match x.setup with | .outstanding _ => true | _ => false).length % 2 ^ 11 * 2 ^ 16),
   (0x5040, s.requestsHeld % 2 ^ 10 * 2 ^ 48)]

/-- The skim registers: slots of another kind than sett read zero (R393). -/
def State.skimWords (s : State) : List (Nat × Nat) :=
  let h := s.hawk
  let k := h.selSlot.toNat
  let sl := s.slot k
  let sett := sl.kind == .sett
  let src := sl.sources.find? fun e => e.rank == h.selRank.toNat
  let mine := h.recs.filter fun r => r.slot.val == k && r.st == .out
  let addr := (sl.sett.rows[h.selRank.toNat]?).map (·.addr)
  let low := (mine.filter fun r => match addr with | some a => r.owed.any fun o => o.addr == a | none => false).filterMap (·.seq)
  [(0x5400, bit h.elideEn 0), (0x5408, h.selSlot.toNat + h.selRank.toNat * 2 ^ 8), (0x5410, only sett (sl.alloc % 512)),
   (0x5418, only sett (s.hawkUsed k % 2 ^ 17 + max sl.peak (s.hawkUsed k) % 2 ^ 17 * 2 ^ 32)),
   (0x5420, only sett (sl.next % 2 ^ 32 + mine.length % 2 ^ 10 * 2 ^ 32 + bit sl.markCount.isSome 62 + bit sl.done 63)),
   (0x5428, only sett (low.foldl min 0xFFFFFFFF)),
   (0x5430, match src with | some e => only sett (e.cum % 2 ^ 32 + bit e.broken 62 + bit e.closed 63) | none => 0),
   (0x5438, match src with | some e => only sett (only e.closed (e.count % 2 ^ 32)) | none => 0),
   (0x5440, s.indexUsed % 2 ^ 14 + max h.peak s.indexUsed % 2 ^ 14 * 2 ^ 16)]

/-! ## Badger, reslice, audit, lath (R276, R296, R317, R396) -/

/-- The Badger block. -/
def State.badgerWords (s : State) : List (Nat × Nat) :=
  let i := s.selected
  let b := (s.ten i).bg
  let x := s.badger
  let g := s.cfg.glob
  let target := b.subject.isSome
  [(0x5800, b.state.code + b.cause.toNat * 2 ^ 8 + bit b.sweepWait 16 +
      (x.runs.filter fun r => r.tidx == i).length % 256 * 2 ^ 24 + x.repairs.length % 512 * 2 ^ 32),
   (0x5808, match b.subject with | some a => a.toNat + 2 ^ 63 | none => 0),
   (0x5810, only target (s.dataLeft i % 2 ^ 24 + s.parityLeft i % 2 ^ 24 * 2 ^ 24)),
   (0x5818, match x.bad with | some p => p.1 % 2 ^ 23 + bit p.2.1 23 + p.2.2 % 16 * 2 ^ 24 + 2 ^ 63 | none => 0),
   (0x5820, bit x.hold 1), (0x5828, only s.configured (g.rto % 2 ^ 17 + g.run % 64 * 2 ^ 17 + g.depth % 256 * 2 ^ 24)),
   (0x5830, x.tsel.toNat),
   (0x5838, match b.targets.get x.tsel.toFin with
     | some t => t.addr.toNat + bit t.chip 25 + t.used.toNat * 2 ^ 32 + bit t.valid 63
     | none => 0),
   (0x5840, x.helps.length % 2 ^ 10 + s.reserved4k % 128 * 2 ^ 16 + max x.peak s.reserved4k % 128 * 2 ^ 48)]

/-- The reslice and export registers. -/
def State.resliceWords (s : State) : List (Nat × Nat) :=
  let i := s.selected
  let r := (s.ten i).rs
  let x := s.rs
  let m := x.moves.get x.msel.toFin
  let g := s.cfg.glob
  [(0x5A00, r.state.code + r.result.toNat * 2 ^ 8 + bit x.running.isSome 16), (0x5A08, x.op.toNat),
   (0x5A10, r.at_.toNat + bit r.new_ 48), (0x5A18, r.armGen.toNat), (0x5A20, x.msel.toNat),
   (0x5A28, m.ctx.toNat + m.first.toNat * 2 ^ 16 + m.count.toNat * 2 ^ 39), (0x5A30, m.dest.toNat + bit m.valid 63),
   (0x5A38, s.expectPanels i % 2 ^ 23 + s.gotPanels i % 2 ^ 23 * 2 ^ 32),
   (0x5A40, x.xctx.toNat + x.xfirst.toNat * 2 ^ 16 + x.xcount.toNat * 2 ^ 39), (0x5A48, x.xdst.toNat / 64 * 64),
   (0x5A50, only s.configured (g.tagQuiet % 2 ^ 10 + g.moveRto % 2 ^ 10 * 2 ^ 16))]

/-- The code of a lockstep role (R317). -/
def LsRole.code : LsRole → Nat
  | .off => 0
  | .send => 1
  | .compare => 2
  | .ring => 3

/-- The pair MNL_LS_PSEL selects. -/
def State.pair (s : State) : LsPair := s.audit.pairs.toList.getD s.audit.psel.toNat {}

/-- The audit, digest and lockstep block. -/
def State.auditWords (s : State) : List (Nat × Nat) :=
  let a := s.audit
  let r := (s.ten s.selected).steprec
  let p := s.pair
  let m := p.mismatch
  [(0x6000, only s.configured (s.cfg.inst.dgBase % 2 ^ 36)), (0x6008, bit r.busy.isSome 0),
   (0x6010, bit a.srEn 0 + a.srBase.toNat / 2 ^ 20 * 2 ^ 20), (0x6018, r.count.toNat)] ++
  wideWords 0x6020 4 r.root ++ wideWords 0x6040 4 r.last ++
  [(0x6100, a.op.toNat + a.slot.toNat * 2 ^ 4), (0x6108, a.first.toNat + a.count.toNat * 2 ^ 32),
   (0x6110, bit a.busy 0 + a.result.toNat * 2 ^ 8 + a.epoch % 2 ^ 48 * 2 ^ 16),
   (0x6118, a.checked % 2 ^ 24 + a.clean % 2 ^ 24 * 2 ^ 32), (0x6120, a.skipped % 2 ^ 24),
   (0x6128, match a.firstBad with | some n => n % 2 ^ 24 + 2 ^ 63 | none => 0),
   (0x6130, a.corrected % 2 ^ 24 + a.detected % 2 ^ 24 * 2 ^ 32), (0x6200, a.psel.toNat),
   (0x6208, p.partner.toNat + p.role.code * 2 ^ 25 + p.period.toNat * 2 ^ 32 + p.tidx.val * 2 ^ 48),
   (0x6210, p.epoch % 2 ^ 48 + bit m.isSome 63),
   (0x6218, match m with | some x => x.1.toNat | none => 0), (0x6220, match m with | some x => x.2.1 % 2 ^ 48 | none => 0),
   (0x6228, match m with | some x => x.2.2.1.toNat | none => 0),
   (0x6230, match m with | some x => x.2.2.2.1.toNat | none => 0)]

/-- Whether an instance of the chip shows READY on the lath for the open attempt of a tenant: one that is not in service
reads as not ready (R325). -/
def State.shownReady (s : State) (i : Fin 64) (k : Fin 12) : Bool :=
  if k.val = s.power.inst.toNat then s.lathActive && (s.ten i).commit.vstate == .ready
  else (s.lath.insts.get k).up && (s.lath.insts.get k).ready.contains (i.val, (s.ten i).commit.openEpoch, (s.ten i).commit.openTry)

/-- A mask with a bit per instance of the chip. -/
def instMask (f : Fin 12 → Bool) : Nat := ((List.finRange 12).map fun k => bit (f k) k.val).sum

/-- The lath block. -/
def State.lathWords (s : State) : List (Nat × Nat) :=
  let i := s.selected
  [(0x6800, bit s.lath.cwUp 0 + bit s.lath.ccwUp 1 + bit (!s.lathActive) 2 + only s.configured s.chipManager * 2 ^ 8 +
      instMask s.instUp * 2 ^ 16),
   (0x6808, s.lath.rtt.toNat), (0x6810, s.lath.retry.toNat),
   (0x6818, instMask (s.shownReady i) + instMask (s.mateHolds i) * 2 ^ 16)]

/-! ## Configuration loader (R363) -/

/-- The code of the loader's state. -/
def CfState.code : CfState → Nat
  | .loading => 0
  | .configured => 1
  | .unconfigured => 2
  | .staging => 3
  | .feeding => 4

/-- The code of the shadow's state. -/
def ShadowState.code : ShadowState → Nat
  | .empty => 0
  | .staged => 1
  | .armed => 2

/-- The loader block. -/
def State.loaderWords (s : State) : List (Nat × Nat) :=
  let l := s.loader
  let c := s.configured
  let parked := (tenantIdxs.filter fun i => (s.ten i).commit.parked).length
  [(0x7000, l.state.code + l.result.toNat * 2 ^ 8 + bit l.copy 16 + l.shadowState.code * 2 ^ 17 + parked * 2 ^ 20 +
      l.affected.length % 128 * 2 ^ 28),
   (0x7008, l.op.toNat), (0x7010, l.src.toNat / 64 * 64), (0x7018, l.len.toNat), (0x7020, 0),
   (0x7028, l.svn.toNat + (match l.shadow with | some r => r.svn.toNat | none => 0) * 2 ^ 32),
   (0x7030, l.density.toNat + l.mhz.toNat * 2 ^ 32 + bit l.sfdpOk 40), (0x7038, only c (s.cfg.glob.switchWait % 2 ^ 20))] ++
  wideWords 0x7040 4 (if c then s.cfg.digest else []) ++
  wideWords 0x7060 4 (match l.shadow with | some r => r.digest | none => []) ++
  wideWords 0x7080 6 (leBytes 48 s.power.owner.toNat)

/-! ## The whole window (R391, R392, R398 to R401) -/

/-- A counter of R398, or one of the activity counters of R399. The contentions counted since the last reading are a free
value, added to the counter as it is read (R31, log entry 5). -/
def State.counterWord (s : State) (code : Nat) : Nat :=
  let n := (NMap.get? s.flt.counters code).getD 0
  (if code = 0x1F then n + Config.contentions s.free else n).toNat

/-- The value at an offset of a list of words. -/
def wordAt (ws : List (Nat × Nat)) (off : Nat) : Option Nat := (ws.find? fun p => p.1 == off).map (·.2)

/-- The word at an 8-byte aligned offset of the window; none where no register lies (R329). -/
def State.regWord (s : State) (off : Nat) : Option Nat :=
  if off < 0x400 then some ((wordAt s.identityWords off).getD 0)
  else if off < 0xC00 then some (s.voted off (s.recordWord off))
  else if off < 0x1000 then (wordAt s.mirrorWords off).map (s.voted off)
  else if off < 0x1800 then wordAt s.controlWords off
  else if off < 0x2000 then wordAt s.faultWords off
  else if off < 0x2800 then wordAt s.foxWords off
  else if off < 0x3000 then wordAt s.commitWords off
  else if off < 0x3800 then wordAt s.engineWords off
  else if off < 0x4000 then wordAt s.bankWords off
  else if off < 0x5000 then wordAt s.windowWords off
  else if off < 0x5400 then wordAt s.endpointWords off
  else if off < 0x5800 then wordAt s.skimWords off
  else if off < 0x5A00 then wordAt s.badgerWords off
  else if off < 0x6000 then wordAt s.resliceWords off
  else if off < 0x6800 then wordAt s.auditWords off
  else if off < 0x7000 then wordAt s.lathWords off
  else if off < 0x7800 then wordAt s.loaderWords off
  else if off < 0x8000 then some (s.counterWord ((off - 0x7800) / 8))
  else if off < 0x10000 then some (s.crashWord (s.crash.page.toNat * 32768 + (off - 0x8000)))
  else none

/-! ## Who may read (R336, R362, R383, R393) -/

/-- The per-tenant registers (R391, R401). -/
def tenantOffsets : List Nat :=
  [0x2000, 0x2008, 0x2038, 0x2048, 0x2058, 0x2060, 0x2800, 0x2808, 0x2810, 0x2818, 0x2820, 0x2828, 0x2838, 0x2848, 0x2850,
   0x2858, 0x2860, 0x2888, 0x2890, 0x2898, 0x3018, 0x3020, 0x3030, 0x3038, 0x3040, 0x3048, 0x3888, 0x3898, 0x5800, 0x5808,
   0x5810, 0x5838, 0x5A00, 0x5A08, 0x5A10, 0x5A18, 0x5A38, 0x6008, 0x6018, 0x6020, 0x6028, 0x6030, 0x6038, 0x6040, 0x6048,
   0x6050, 0x6058, 0x6818]

/-- Whether a tag may read the register at an offset. -/
def State.mayRead (s : State) (tag : Tag) (off : Nat) : Bool :=
  if tag = 0 then true
  else if 0x400 ≤ off ∧ off < 0x1000 then false
  else if 0x8000 ≤ off then false
  else if tenantOffsets.contains off then s.tagOf s.selected == tag
  else if 0x5410 ≤ off ∧ off ≤ 0x5438 then
    if (s.slot s.hawk.selSlot.toNat).kind != .sett then true
    else match s.slotTenant s.hawk.selSlot.toNat with
      | some i => s.tagOf i == tag
      | none => true
  else if 0x6208 ≤ off ∧ off ≤ 0x6230 then s.tagOf s.pair.tidx == tag
  else true

end Sys2Proof.Machine
end

