-- ==== Sys2Proof/Machine/RegWrite.lean ====
section
/-! DEFINITION. Accesses to the register window: writes of registers with no row of their own, and reads that clear
(R7 to R9, R381 to R385, R393 and the register tables). -/

namespace Sys2Proof.Machine

/-! ## Answers -/

/-- The state an outcome answers; every row's meaning answers one. -/
def settled (o : Out) (s : State) : State :=
  match o with
  | .next t => t
  | _ => s

/-- A field of a written word. -/
def fld (w : Word) (lo n : Nat) : Nat := bitsOf w.toNat lo n

/-- A one-bit field of a written word. -/
def flag (w : Word) (n : Nat) : Bool := w.getLsbD n

/-- A write answered with OK that takes effect, or refused (R9, R329). -/
def State.accept (s : State) (a : Acc) (off : Nat) (good : Bool) (f : State → State) : State :=
  if good then f (s.ok a.id) else s.refuse a.id off

/-- A write that reaches no writable field: ignored, answered with OK, and logged (R8). -/
def State.ignored (s : State) (a : Acc) (off : Nat) : State := (s.ok a.id).raise { code := 0x0F, detail := off }

/-! ## Control and status (R389, R380) -/

/-- A write to 0x1000-0x17FF: NQ_TAG 0x0000 alone writes here (R383). -/
def State.writeControl (s : State) (a : Acc) (off : Nat) (w : Word) : State :=
  if !fromSystem a then s.refuse a.id off
  else
    match off with
    | 0x1008 => s.accept a off (fld w 0 4 != 0) fun s =>
        { s with gate := { s.gate with share := BitVec.ofNat 4 (fld w 0 4) } }
    | 0x1018 => s.accept a off true fun s => s.updLoader fun l => { l with page := BitVec.ofNat 6 (fld w 0 6) }
    | 0x1030 => s.accept a off true fun s => s.updLoader fun l =>
        { l with rselSlot := BitVec.ofNat 4 (fld w 0 4), rselRank := BitVec.ofNat 6 (fld w 8 6) }
    | 0x1100 => s.accept a off (fld w 0 4 != 15) fun s =>
        { s with power := { s.power with monSel := BitVec.ofNat 4 (fld w 0 4) } }
    | _ => s.ignored a off

/-! ## Faults (R340) -/

/-- MNL_FLT_CTRL: LIFT, RETURN and DUST, those written 1 in the order of their bits. -/
def State.writeFltCtrl (s : State) (a : Acc) (w : Word) : State :=
  s.accept a 0x1818 (fromSystem a && !(flag w 0 && s.liftRefused)) fun s =>
    let s := if flag w 0 then s.lift else s
    let s := if flag w 1 then s.wantReset true else s
    if flag w 2 then s.hold 0 else s

/-- MNL_FLT_RESET: the unit kept, and reset where GO is written 1. -/
def State.writeFltReset (s : State) (a : Acc) (w : Word) : State :=
  let u := fld w 0 3
  let n := fld w 3 2
  if 4 < u ∨ (u = 1 ∧ 1 < n) then s.refuse a.id 0x1820
  else if !flag w 7 then
    s.accept a 0x1820 (fromSystem a) fun s => s.updFlt fun x => { x with resetSel := BitVec.ofNat 5 (u + n * 8) }
  else
    settled (match u with
      | 0 => execResetLaneGroup a (Fin.ofNat 4 n) s
      | 1 => execResetGfEngine a (Fin.ofNat 2 n) none s
      | 2 => execResetEndpoint a s
      | 3 => execResetBadger a s
      | _ => execResetInstance a s) s

/-- MNL_CD_CTRL: format and page, then CAPTURE and RELEASE where they are written 1. -/
def State.writeCdCtrl (s : State) (a : Acc) (w : Word) : State :=
  settled (s.crashWrite a (flag w 2) (BitVec.ofNat 6 (fld w 8 6)) fun s =>
    let s := if flag w 0 then s.beginCapture 0 else s
    if flag w 1 then s.releaseSlot else s) s

/-- A write to 0x1800-0x1FFF. -/
def State.writeFault (s : State) (a : Acc) (off : Nat) (w : Word) : State :=
  match off with
  | 0x1800 => settled (execFltSummaryClear a (BitVec.ofNat 14 (fld w 0 14)) s) s
  | 0x1818 => s.writeFltCtrl a w
  | 0x1820 => s.writeFltReset a w
  | 0x1830 => s.accept a off true fun s => s.updFlt fun x => { x with hsel := BitVec.ofNat 5 (fld w 0 5) }
  | 0x1878 =>
    let base := fld w 12 24 * 4096
    s.accept a off (s.rangeOk 3 base 4096) fun s => s.updFlt fun x =>
      { x with mirrorEn := flag w 0, mirrorBase := BitVec.ofNat 36 base }
  | 0x1880 =>
    let addr : Addr := BitVec.ofNat 25 (fld w 0 25)
    let tenant : Tag := BitVec.ofNat 16 (fld w 32 16)
    if flag w 63 then settled (execFltQuery a addr tenant s) s
    else s.accept a off (fromSystem a) fun s => s.updFlt fun x => { x with qAddr := addr, qTenant := tenant }
  | 0x18C0 => s.writeCdCtrl a w
  | 0x18C8 => s.accept a off true fun s => s.updCrash fun c =>
      { c with damaged := c.damaged && !flag w 3, prior := c.prior && !flag w 4 }
  | _ => s.ignored a off

/-! ## The commit tree (R218, R230, R250, R285) -/

/-- The multicast groups R218 counts: those of the sett slots, and one for every 35 children of each table. -/
def State.groupsNeeded (s : State) : Nat :=
  (((List.range 16).flatMap s.slotGroups).filter fun p => !p.2.isEmpty).length +
    (tenantIdxs.map fun i => treeParts ((s.ten i).groupsOf false).length + treeParts ((s.ten i).groupsOf true).length).sum

/-- Whether the limits on the commit tree hold: 1,120 children in a table, 2,048 entries, 1,024 multicast groups, 640
watch entries (R69, R218, R237). -/
def State.treeFits (s : State) : Bool :=
  (tenantIdxs.all fun i => [false, true].all fun job => decide (((s.ten i).groupsOf job).length ≤ 1120)) &&
    decide ((tenantIdxs.map fun i => ((s.ten i).commit.tree.children.filter (·.valid)).length).sum ≤ 2048) &&
    decide (s.groupsNeeded ≤ Config.groupLimit) && decide (s.watch.length ≤ 640)

/-- A write of a tree register: refused while the tree is locked, and with event 0xBB where it breaks a limit; the staged
tree takes it in ARMED, else the current one (R218, R285). -/
def State.writeTree (s : State) (a : Acc) (off : Nat) (f : Tree → Tree) : State :=
  let i := s.selected
  if !s.ownTag a || (s.ten i).treeLocked then s.refuse a.id off
  else
    let tree := f (s.ten i).shownTree
    let trial := (s.updCommit i fun c => { c with tree := tree }).syncCands i
    if !trial.treeFits then (s.refuse a.id off).raiseT i 0xBB
    else if (s.ten i).rs.state = .armed then (s.ok a.id).updCommit i fun c => { c with stagedTree := some tree }
    else ((trial.ok a.id).syncRoles i false).syncGroups

/-- MNL_EC_CDATA: the child entry MNL_EC_CIDX selects. With VALID 0 its other fields are kept as written; an entry of zeros
is none. -/
def State.childWrite (s : State) (w : Word) (t : Tree) : Tree :=
  let job := s.regs.ctable
  let idx := s.regs.cidx.toNat
  let rest := t.children.filter fun x => !(x.job == job && x.idx == idx)
  let new : Child := { idx := idx, job := job, addr := BitVec.ofNat 25 (fld w 0 25), expect := fld w 25 24
                       group := fld w 49 11, valid := flag w 63 }
  { t with children := if flag w 63 || decide (fld w 0 60 ≠ 0) then rest ++ [new] else rest }

/-- MNL_EC_CAND: the candidate MNL_EC_CSEL selects. -/
def State.candWrite (s : State) (w : Word) (t : Tree) : Tree :=
  { t with cands := t.cands.setIfInBounds s.regs.csel.toNat { addr := BitVec.ofNat 25 (fld w 0 25), valid := flag w 63 } }

/-! ## Fox, epoch and commit (R209, R230, R245, R250) -/

/-- A write to 0x2000-0x27FF. -/
def State.writeFox (s : State) (a : Acc) (off : Nat) (w : Word) : State :=
  let i := s.selected
  let addr : Addr := BitVec.ofNat 25 (fld w 0 25)
  match off with
  | 0x2018 => s.accept a off (decide (fld w 0 10 < 640)) fun s =>
      { s with regs := { s.regs with wsel := BitVec.ofNat 10 (fld w 0 10) } }
  | 0x2038 => s.writeTree a off fun t => { t with quorum := fld w 0 24 }
  | 0x2040 =>
    if flag w 31 then settled (execFabricManagerReport a addr (flag w 25) s.time.now s) s
    else s.accept a off (fromSystem a) fun s => { s with regs := { s.regs with fmAddr := addr, fmChip := flag w 25 } }
  | 0x2048 =>
    if flag w 31 then settled (execEvict a addr (flag w 25) s) s
    else s.accept a off (s.ownTag a) fun s => s.updFox i fun f => { f with evictAddr := addr, evictChip := flag w 25 }
  | 0x2058 => s.accept a off (s.ownTag a && between 1 (fld w 24 7) 64) fun s => s.updCommit i fun c =>
      { c with lateGap := BitVec.ofNat 20 (fld w 0 20), markAt := BitVec.ofNat 7 (fld w 24 7) }
  | 0x2060 => s.accept a off (s.ownTag a) fun s =>
      if !flag w 63 then s
      else s.updCommit i fun c => { c with late := c.late.filter fun l => !(l.job == s.regs.ctable && l.idx == s.regs.cidx.toNat) }
  | _ => s.ignored a off

/-- A write to 0x2800-0x2FFF. -/
def State.writeCommit (s : State) (a : Acc) (off : Nat) (w : Word) : State :=
  let i := s.selected
  match off with
  | 0x2818 =>
    if flag w 1 then settled (execEcAbort a (flag w 0) s) s
    else s.accept a off (s.ownTag a) fun s => s.updCommit i fun c => { c with autoAbort := flag w 0 }
  | 0x2820 => s.accept a off (s.ownTag a) fun s => s.updCommit i fun c => { c with abortWait := BitVec.ofNat 32 (fld w 0 32) }
  | 0x2828 => s.writeTree a off fun t => { t with members := fld w 0 24 }
  | 0x2830 => s.accept a off true fun s => { s with regs := { s.regs with csel := BitVec.ofNat 3 (fld w 0 3) } }
  | 0x2838 => s.writeTree a off (s.candWrite w)
  | 0x2840 => s.accept a off true fun s =>
      { s with regs := { s.regs with cidx := BitVec.ofNat 11 (fld w 0 11), ctable := flag w 15 } }
  | 0x2848 => s.writeTree a off (s.childWrite w)
  | 0x2880 => s.accept a off true fun s => { s with regs := { s.regs with gsel := BitVec.ofNat 4 (fld w 0 4) } }
  | _ => s.ignored a off

/-! ## Update engine, instruction banks, context window (R90, R150, R182) -/

/-- A write to 0x3000-0x37FF. -/
def State.writeEngine (s : State) (a : Acc) (off : Nat) (w : Word) : State :=
  match off with
  | 0x3010 => s.accept a off true fun s => { s with regs := { s.regs with tsel := BitVec.ofNat 6 (fld w 0 6) } }
  | 0x3048 => if flag w 0 then settled (execIntakeReopen a s) s else s.accept a off (s.ownTag a) id
  | 0x3050 =>
    let base := fld w 12 24 * 4096
    s.accept a off (fromSystem a && s.rangeOk 1 base 4096) fun s =>
      { s with regs := { s.regs with notifyEn := flag w 0, notifyBase := BitVec.ofNat 36 base } }
  | _ => s.ignored a off

/-- A write to 0x3800-0x3FFF. A LOAD written here reads its image without an error. -/
def State.writeBanks (s : State) (a : Acc) (off : Nat) (w : Word) : State :=
  let sys := fromSystem a
  let base := fld w 6 30 * 64
  match off with
  | 0x3808 =>
    match fld w 0 4 with
    | 1 => settled (execIbLoad a (flag w 4) true s) s
    | 2 => settled (execIbArm a (flag w 4) s) s
    | 3 => settled (execIbDisarm ⟨a, flag w 4⟩ s) s
    | _ => s.refuse a.id off
  | 0x3810 => s.accept a off (sys && s.rangeOk 4 base 64) fun s => s.updIb fun b => { b with src := BitVec.ofNat 36 base }
  | 0x3818 => s.accept a off (sys && decide (fld w 0 21 ≤ 0x100000)) fun s => s.updIb fun b =>
      { b with len := BitVec.ofNat 21 (fld w 0 21) }
  | 0x3820 => s.accept a off sys fun s => s.updIb fun b => { b with at_ := BitVec.ofNat 48 (fld w 0 48) }
  | 0x3828 => s.accept a off true fun s => s.updIb fun b => { b with psel := BitVec.ofNat 4 (fld w 0 4), pselBank := flag w 4 }
  | 0x3890 => s.accept a off true fun s => s.updIb fun b => { b with dsel := BitVec.ofNat 4 (fld w 0 4) }
  | 0x3898 => s.accept a off (s.ownTag a && s.clearOfSpan base 64) fun s => s.updTen s.selected fun t =>
      { t with dbase := t.dbase.setIfInBounds s.ib.dsel.toNat (BitVec.ofNat 36 base) }
  | _ => s.ignored a off

/-- A write to 0x4000-0x4FFF; a reserved OP leaves RESULT 0x04. -/
def State.writeWindow (s : State) (a : Acc) (off : Nat) (w : Word) : State :=
  match off with
  | 0x4000 => s.accept a off true fun s => s.updCtx fun c => { c with index := BitVec.ofNat 16 (fld w 0 16) }
  | 0x4008 =>
    settled (match fld w 0 4 with
      | 1 => execCtxRead a s
      | 2 => execInstall a s
      | 3 => execModify a s
      | 4 => execRetire a s
      | 5 => execFind a s
      | 6 => execHandoverOut a s
      | op => s.ctxCmd a (BitVec.ofNat 4 op) fun s _ => s.ctxResult 0x04) s
  | 0x4010 | 0x4020 => s.ignored a off
  | 0x4018 => s.accept a off true fun s => s.updCtx fun c => { c with arg := BitVec.ofNat 25 (fld w 0 25) }
  | _ => s.accept a off true fun s => s.updCtx fun c => { c with data := c.data.setIfInBounds ((off - 0x4040) / 8) w }

/-! ## Endpoint, skim, Badger (R210, R253, R276, R394) -/

/-- A write to 0x5000-0x53FF. -/
def State.writeEndpoint (s : State) (a : Acc) (off : Nat) (w : Word) : State :=
  let sys := fromSystem a
  match off with
  | 0x5008 => s.accept a off (sys && fld w 0 8 != 0 && fld w 8 8 != 0) fun s => s.updEp fun e =>
      { e with wSkim := BitVec.ofNat 8 (fld w 0 8), wBadger := BitVec.ofNat 8 (fld w 8 8) }
  | 0x5010 => s.accept a off (sys && decide (fld w 0 11 ≤ 1792) && decide (fld w 16 11 ≤ 1792)) fun s => s.updEp fun e =>
      { e with rateSkim := BitVec.ofNat 11 (fld w 0 11), rateBadger := BitVec.ofNat 11 (fld w 16 11) }
  | 0x5028 =>
    match flag w 0, flag w 1 with
    | true, false => settled (execRouteReq a s) s
    | false, true => settled (execRouteResume a s) s
    | false, false => s.accept a off sys id
    | true, true => if s.ep.route = .drained then settled (execRouteResume a s) s else s.refuse a.id off
  | _ => s.ignored a off

/-- A write to 0x5400-0x57FF. -/
def State.writeSkim (s : State) (a : Acc) (off : Nat) (w : Word) : State :=
  match off with
  | 0x5400 => s.accept a off (fromSystem a) fun s => { s with hawk := { s.hawk with elideEn := flag w 0 } }
  | 0x5408 => s.accept a off true fun s =>
      { s with hawk := { s.hawk with selSlot := BitVec.ofNat 4 (fld w 0 4), selRank := BitVec.ofNat 6 (fld w 8 6) } }
  | _ => s.ignored a off

/-- MNL_BG_TLIST at a candidate for the job manager (R253): USED stays only where the entry's address does. -/
def State.writeTarget (s : State) (a : Acc) (w : Word) : State :=
  let i := s.selected
  let cand := (List.range 4).any fun j => (s.ten i).commit.tree.cand j == some s.self
  s.accept a 0x5838 (fromSystem a && cand) fun s =>
    let addr : Addr := BitVec.ofNat 25 (fld w 0 25)
    let used : BitVec 12 := match (s.ten i).bg.targets.toList.getD s.badger.tsel.toNat none with
      | some t => if t.addr = addr ∧ t.chip = flag w 25 then t.used else 0
      | none => 0
    let t : Target := { addr := addr, chip := flag w 25, used := used, valid := flag w 63 }
    let s := s.updBg i fun b => { b with targets := b.targets.setIfInBounds s.badger.tsel.toNat (some t) }
    (s.nameTargets i).follow i

/-- A write to 0x5800-0x59FF. -/
def State.writeBadger (s : State) (a : Acc) (off : Nat) (w : Word) : State :=
  match off with
  | 0x5818 => s.accept a off true fun s => if flag w 63 then s.updBadger fun b => { b with bad := none } else s
  | 0x5820 =>
    if flag w 0 then settled (execBgRetry a (flag w 1) s) s
    else s.accept a off (fromSystem a) fun s => s.updBadger fun b => { b with hold := flag w 1 }
  | 0x5830 => s.accept a off true fun s => s.updBadger fun b => { b with tsel := BitVec.ofNat 6 (fld w 0 6) }
  | 0x5838 => s.writeTarget a w
  | _ => s.ignored a off

/-! ## Reslice and export, audit and lockstep (R296, R317) -/

/-- The move entry MNL_RS_MSEL selects, changed. -/
def State.updMove (s : State) (f : Move → Move) : State :=
  { s with rs := { s.rs with moves := s.rs.moves.setIfInBounds s.rs.msel.toNat (f (s.rs.moves.toList.getD s.rs.msel.toNat {})) } }

/-- A write to 0x5A00-0x5FFF. -/
def State.writeReslice (s : State) (a : Acc) (off : Nat) (w : Word) : State :=
  let own := s.ownTag a
  match off with
  | 0x5A08 =>
    match fld w 0 4 with
    | 1 => settled (execRsSeal a s) s
    | 2 => settled (execRsArm a s) s
    | 3 => settled (execTeardown a s) s
    | 4 => settled (execExport a s) s
    | 5 => settled (execRsDisarm a s) s
    | _ => s.refuse a.id off
  | 0x5A10 => s.accept a off own fun s => s.updRs s.selected fun r =>
      { r with at_ := BitVec.ofNat 48 (fld w 0 48), new_ := flag w 48 }
  | 0x5A18 => s.accept a off own fun s => s.updRs s.selected fun r => { r with armGen := BitVec.ofNat 32 (fld w 0 32) }
  | 0x5A20 => s.accept a off true fun s => { s with rs := { s.rs with msel := BitVec.ofNat 8 (fld w 0 8) } }
  | 0x5A28 => s.accept a off own fun s => s.updMove fun m =>
      { m with ctx := BitVec.ofNat 16 (fld w 0 16), first := BitVec.ofNat 23 (fld w 16 23), count := BitVec.ofNat 23 (fld w 39 23) }
  | 0x5A30 => s.accept a off own fun s => s.updMove fun m =>
      { m with dest := BitVec.ofNat 25 (fld w 0 25), valid := flag w 63 }
  | 0x5A40 => s.accept a off own fun s =>
      { s with rs := { s.rs with
          xctx := BitVec.ofNat 16 (fld w 0 16), xfirst := BitVec.ofNat 23 (fld w 16 23), xcount := BitVec.ofNat 23 (fld w 39 23) } }
  | 0x5A48 =>
    let base := fld w 6 30 * 64
    s.accept a off (own && s.clearOfSpan base 64) fun s => { s with rs := { s.rs with xdst := BitVec.ofNat 36 base } }
  | _ => s.ignored a off

/-- MNL_LS_CFG: RING is the loader's, 0 no period, and SEND and COMPARE need capability 0x06 (R314, R356). The pair begins
afresh; a mismatch recorded stays. -/
def State.writePair (s : State) (a : Acc) (w : Word) : State :=
  let p := s.pair
  let role := fld w 25 2
  let good := fromSystem a && role != 3 && p.role != .ring && fld w 32 16 != 0 && (role == 0 || s.cap 6)
  s.accept a 0x6208 good fun s =>
    let q : LsPair := {
      partner := BitVec.ofNat 25 (fld w 0 25), role := match role with | 0 => .off | 1 => .send | _ => .compare
      period := BitVec.ofNat 16 (fld w 32 16), tidx := Fin.ofNat 64 (fld w 48 6), epoch := p.epoch, mismatch := p.mismatch }
    s.updAudit fun x => { x with pairs := x.pairs.setIfInBounds x.psel.toNat q }

/-- A write to 0x6000-0x67FF. -/
def State.writeAudit (s : State) (a : Acc) (off : Nat) (w : Word) : State :=
  let sys := fromSystem a
  match off with
  | 0x6010 =>
    let base := fld w 20 16 * 2 ^ 20
    s.accept a off (sys && s.rangeOk 2 base (2 ^ 20)) fun s => s.updAudit fun x =>
      { x with srEn := flag w 0, srBase := BitVec.ofNat 36 base }
  | 0x6100 =>
    match fld w 0 4 with
    | 1 => settled (execAuditStart a (BitVec.ofNat 4 (fld w 4 4)) s) s
    | 2 => settled (execAuditStop ⟨a, BitVec.ofNat 4 (fld w 4 4)⟩ s) s
    | _ => s.refuse a.id off
  | 0x6108 => s.accept a off sys fun s => s.updAudit fun x =>
      { x with first := BitVec.ofNat 24 (fld w 0 24), count := BitVec.ofNat 24 (fld w 32 24) }
  | 0x6128 => s.accept a off true fun s => if flag w 63 then s.updAudit fun x => { x with firstBad := none } else s
  | 0x6200 => s.accept a off (fld w 0 4 != 15) fun s => s.updAudit fun x => { x with psel := BitVec.ofNat 4 (fld w 0 4) }
  | 0x6208 => s.writePair a w
  | 0x6210 => s.accept a off true fun s =>
      if flag w 63 then
        s.updAudit fun x => { x with pairs := x.pairs.setIfInBounds x.psel.toNat { s.pair with mismatch := none } }
      else s
  | _ => s.ignored a off

/-! ## Configuration loader (R349, R363) -/

/-- A write to 0x7000-0x77FF. STAGE and FEED_END written here read an object without an error; what the sections of no given
layout hold is a free value of its bytes (log entries 7 and 160). -/
def State.writeLoader (s : State) (a : Acc) (off : Nat) (w : Word) : State :=
  let sys := fromSystem a
  match off with
  | 0x7008 =>
    match fld w 0 4 with
    | 1 => settled (execCfStage a true (Config.sectionContent (s.bytesAt s.loader.src.toNat s.loader.len.toNat)) s) s
    | 2 => settled (execCfArm a s) s
    | 3 => settled (execCfDisarm a s) s
    | 4 => settled (execCfDiscard a s) s
    | 5 => settled (execFeedBegin a s) s
    | 6 => settled (execFeedEnd a (Config.sectionContent s.loader.feed) s) s
    | _ => s.refuse a.id off
  | 0x7010 =>
    let base := fld w 6 30 * 64
    s.accept a off (sys && s.clearOfSpan base 64) fun s => s.updLoader fun l => { l with src := BitVec.ofNat 36 base }
  | 0x7018 => s.accept a off (sys && decide (fld w 0 21 ≤ 0x100000)) fun s => s.updLoader fun l =>
      { l with len := BitVec.ofNat 21 (fld w 0 21) }
  | 0x7020 => settled (execCfFeed a w s) s
  | _ => s.ignored a off

/-! ## REGISTER_WRITE -/

/-- Whether the state lets a write at an offset through (R384); the feed alone is open before configuration. -/
def State.writeOpen (s : State) (off : Nat) (w : Word) : Bool :=
  s.windowOpen off || (decide (s.flt.mode ≠ .resetting) && (off == 0x7020 || (off == 0x7008 && between 5 (fld w 0 4) 6)))

/-- One word written at an 8-byte aligned offset. A register whose only fields clear on read is ignored without a log
(R8). -/
def State.writeWord (s : State) (a : Acc) (off : Nat) (w : Word) : State :=
  if !s.writeOpen off w then s.refuse a.id off
  else if (s.regWord off).isNone then s.refuse a.id off
  else if off < 0x1000 then s.ignored a off
  else if off < 0x1800 then s.writeControl a off w
  else if off < 0x2000 then s.writeFault a off w
  else if off < 0x2800 then s.writeFox a off w
  else if off < 0x3000 then s.writeCommit a off w
  else if off < 0x3800 then s.writeEngine a off w
  else if off < 0x4000 then s.writeBanks a off w
  else if off < 0x5000 then s.writeWindow a off w
  else if off < 0x5400 then s.writeEndpoint a off w
  else if off < 0x5800 then s.writeSkim a off w
  else if off < 0x5A00 then s.writeBadger a off w
  else if off < 0x6000 then s.writeReslice a off w
  else if off < 0x6800 then s.writeAudit a off w
  else if off = 0x6810 then s.ok a.id
  else if off < 0x7000 then s.ignored a off
  else if off < 0x7800 then s.writeLoader a off w
  else s.ignored a off

/-- The offset a request names. -/
def winOffset (q : NqReq) : Nat := q.addr.toNat % 65536

/-- The words a window access covers: lane of the line and offset. -/
def winWords (q : NqReq) : List (Nat × Nat) :=
  ((List.range 8).filter fun j => q.be.getLsbD (8 * j)).map fun j => (j, winOffset q / 64 * 64 + 8 * j)

/-- Whether a window access keeps R381: space, window bound, alignment and whole words, at least one. -/
def winFormed (q : NqReq) (op : Nat) : Bool :=
  q.space == 1 && q.op.toNat == op && decide (q.addr.toNat < 65536) && q.addr.toNat % 8 == 0 && q.be != 0 &&
    (List.range 8).all fun j => let b := (q.be >>> (8 * j)).toNat % 256; b == 0 || b == 255

/-- Several words written by one access are answered once: all take effect, or the access is refused. -/
def State.writeWords (s : State) (q : NqReq) (a : Acc) (ws : List (Nat × Nat)) : State :=
  let lane (j : Nat) : Word := q.data.extractLsb' (64 * j) 64
  let t := ws.foldl (fun t p => t.writeWord a p.2 (lane p.1)) s
  match ws with
  | [_] => t
  | _ =>
    let old := s.gate.ns.length
    let mine := (t.gate.ns.drop old).filter fun r => r.id == q.id
    if mine.any fun r => r.status != .ok then s.refuse q.id (winOffset q)
    else
      let rest := (t.gate.ns.drop old).filter fun r => r.id != q.id
      { t with gate := { t.gate with ns := t.gate.ns.take old ++ mine.take 1 ++ rest } }

/-- REGISTER_WRITE (R381 to R384, R393). -/
def execRegisterWrite (q : NqReq) (s : State) : Out :=
  .next (if !s.portsUp then s
    else if !winFormed q 1 then s.refuse q.id (winOffset q)
    else s.writeWords q { tag := q.tag, id := q.id } (winWords q))

/-! ## RC_READ -/

/-- What a read of a word leaves behind: a mirror word without a majority is event 0x08 (R388), clear-on-read fields are
cleared (R8), a damaged word of the crash area is noted
(R400), and a read of the contention counter takes its next free value. -/
def State.readClears (s : State) (off : Nat) : State :=
  let crash (o : Nat) : State := if s.crash.badWords.contains (o / 8) then s.updCrash fun c => { c with damaged := true } else s
  if 0x400 ≤ off ∧ off < 0x1000 then
    if s.unvoted off then s.raise { code := 0x08, core := true, detail := off } else s
  else if 0x8000 ≤ off then crash (s.crash.page.toNat * 32768 + (off - 0x8000))
  else if 0x1840 ≤ off ∧ off < 0x1860 then
    match s.shownEntry with
    | some o => crash (o + (off - 0x1840))
    | none => s
  else
    match off with
    | 0x1108 => { s with monitors := s.monitors.setIfInBounds s.power.monSel.toNat { s.monitor with warns := 0 } }
    | 0x1828 => s.updFlt fun f => { f with lost := 0 }
    | 0x2050 => { s with regs := { s.regs with extraCount := 0 } }
    | 0x5418 => if (s.slot s.hawk.selSlot.toNat).kind = .sett then s.updSlot s.hawk.selSlot.toNat fun x => { x with peak := 0 } else s
    | 0x5440 => { s with hawk := { s.hawk with peak := 0 } }
    | 0x5840 => s.updBadger fun b => { b with peak := 0 }
    | 0x6810 => { s with lath := { s.lath with retry := 0 } }
    | 0x78F8 => { s.countN 0x1F (Config.contentions s.free).toNat with free := s.free + 1 }
    | _ => s

/-- RC_READ (R8, R381 to R384, R393): every register covered is named and open to the tag, or the access is refused. -/
def execRcRead (q : NqReq) (s : State) : Out :=
  .next (if !s.portsUp then s
    else if !winFormed q 0 || (winWords q).any (fun p => (s.regWord p.2).isNone || !s.mayRead q.tag p.2) then
      s.refuse q.id (winOffset q)
    else
      let n := ((winWords q).map fun p => ((s.regWord p.2).getD 0) % 2 ^ 64 * 2 ^ (64 * p.1)).sum
      (winWords q).foldl (fun s p => s.readClears p.2) (s.respond q.id .ok 0 (BitVec.ofNat 512 n)))

end Sys2Proof.Machine
end

