-- ==== Sys2Proof/Machine/Dispatch.lean ====
section
/-! DEFINITION. The dispatch: one arm per command of spec/opcode_table.json, each the call of its meaning. -/

namespace Sys2Proof.Machine

/-- A command's effect on everything but the queue of commands that wait. -/
def exec (i : Instr) (s : State) : Host.Outcome State Fault Refusal :=
  match i with
  | .mlResetAssert => Sys2Proof.Machine.execMlResetAssert s
  | .mlResetRelease owner flash inst testEn sfdp => Sys2Proof.Machine.execMlResetRelease owner flash inst testEn sfdp s
  | .powerRailLoss r => Sys2Proof.Machine.execPowerRailLoss r s
  | .testAccessOpen => Sys2Proof.Machine.execTestAccessOpen s
  | .testEnIgnored => Sys2Proof.Machine.execTestEnIgnored s
  | .flashCopyLoaded o => Sys2Proof.Machine.execFlashCopyLoaded o s
  | .distributionAnswer inst accept => Sys2Proof.Machine.execDistributionAnswer inst accept s
  | .distributionTimeout inst => Sys2Proof.Machine.execDistributionTimeout inst s
  | .lathConfigTimeout => Sys2Proof.Machine.execLathConfigTimeout s
  | .feedBegin a => Sys2Proof.Machine.execFeedBegin a s
  | .cfFeed a data => Sys2Proof.Machine.execCfFeed a data s
  | .feedEnd a content => Sys2Proof.Machine.execFeedEnd a content s
  | .cfStage a readOk content => Sys2Proof.Machine.execCfStage a readOk content s
  | .cfArm a => Sys2Proof.Machine.execCfArm a s
  | .cfDisarm a => Sys2Proof.Machine.execCfDisarm a s
  | .cfDiscard a => Sys2Proof.Machine.execCfDiscard a s
  | .configSwitch => Sys2Proof.Machine.execConfigSwitch s
  | .switchWaitExpiry => Sys2Proof.Machine.execSwitchWaitExpiry s
  | .timeCounterStall => Sys2Proof.Machine.execTimeCounterStall s
  | .timeSampleInvalid sample => Sys2Proof.Machine.execTimeSampleInvalid sample s
  | .timeAdvanceHold now => Sys2Proof.Machine.execTimeAdvanceHold now s
  | .marginClassChange mon slack => Sys2Proof.Machine.execMarginClassChange mon slack s
  | .monitorNormalHold mon => Sys2Proof.Machine.execMonitorNormalHold mon s
  | .hostMemoryRead q sramBad => Sys2Proof.Machine.execHostMemoryRead q sramBad s
  | .hostMemoryWrite q sramBad => Sys2Proof.Machine.execHostMemoryWrite q sramBad s
  | .hostMemoryAtomic q sramBad => Sys2Proof.Machine.execHostMemoryAtomic q sramBad s
  | .memoryResponse r => Sys2Proof.Machine.execMemoryResponse r s
  | .directWriteComplete id => Sys2Proof.Machine.execDirectWriteComplete id s
  | .foldWalkerPass => Sys2Proof.Machine.execFoldWalkerPass s
  | .frameInject x => Sys2Proof.Machine.execFrameInject x s
  | .htLevelChange level now => Sys2Proof.Machine.execHtLevelChange level now s
  | .groupSetupWrite x => Sys2Proof.Machine.execGroupSetupWrite x s
  | .groupSetupResend x => Sys2Proof.Machine.execGroupSetupResend x s
  | .groupSetupRetry x => Sys2Proof.Machine.execGroupSetupRetry x s
  | .groupConfirm f => Sys2Proof.Machine.execGroupConfirm f s
  | .skimRetransmitTimeout slot seq peer => Sys2Proof.Machine.execSkimRetransmitTimeout slot seq peer s
  | .routeReq a => Sys2Proof.Machine.execRouteReq a s
  | .routeResume a => Sys2Proof.Machine.execRouteResume a s
  | .routeDrained => Sys2Proof.Machine.execRouteDrained s
  | .routeDrainTimeout => Sys2Proof.Machine.execRouteDrainTimeout s
  | .resumeWaitExpiry => Sys2Proof.Machine.execResumeWaitExpiry s
  | .skimDelta f flt => Sys2Proof.Machine.execSkimDelta f flt s
  | .skimAck f => Sys2Proof.Machine.execSkimAck f s
  | .epochMark f => Sys2Proof.Machine.execEpochMark f s
  | .commitPrep f => Sys2Proof.Machine.execCommitPrep f s
  | .commitVote f => Sys2Proof.Machine.execCommitVote f s
  | .commitDecide f => Sys2Proof.Machine.execCommitDecide f s
  | .stepAbortDecision f => Sys2Proof.Machine.execStepAbortDecision f s
  | .stepAbortRequest f => Sys2Proof.Machine.execStepAbortRequest f s
  | .heartbeat f => Sys2Proof.Machine.execHeartbeat f s
  | .fence f => Sys2Proof.Machine.execFence f s
  | .intake f => Sys2Proof.Machine.execIntake f s
  | .badgerReq f flt => Sys2Proof.Machine.execBadgerReq f flt s
  | .badgerReqDigestOnly f => Sys2Proof.Machine.execBadgerReqDigestOnly f s
  | .badgerPart f => Sys2Proof.Machine.execBadgerPart f s
  | .auditReq f flt => Sys2Proof.Machine.execAuditReq f flt s
  | .auditPart f => Sys2Proof.Machine.execAuditPart f s
  | .auditCorrection f => Sys2Proof.Machine.execAuditCorrection f s
  | .auditRelease f => Sys2Proof.Machine.execAuditRelease f s
  | .digestXLockstep f => Sys2Proof.Machine.execDigestXLockstep f s
  | .digestXRebuild f => Sys2Proof.Machine.execDigestXRebuild f s
  | .completionRecord f => Sys2Proof.Machine.execCompletionRecord f s
  | .resliceCount f => Sys2Proof.Machine.execResliceCount f s
  | .resliceDone f => Sys2Proof.Machine.execResliceDone f s
  | .resliceResend f => Sys2Proof.Machine.execResliceResend f s
  | .resliceSealed f => Sys2Proof.Machine.execResliceSealed f s
  | .resliceCancel f => Sys2Proof.Machine.execResliceCancel f s
  | .resliceMove f => Sys2Proof.Machine.execResliceMove f s
  | .render f => Sys2Proof.Machine.execRender f s
  | .renderRequest r => Sys2Proof.Machine.execRenderRequest r s
  | .discover f => Sys2Proof.Machine.execDiscover f s
  | .discoverReply f => Sys2Proof.Machine.execDiscoverReply f s
  | .membershipQuerySync f => Sys2Proof.Machine.execMembershipQuerySync f s
  | .membershipQueryWitness f => Sys2Proof.Machine.execMembershipQueryWitness f s
  | .membershipQueryAnswer f => Sys2Proof.Machine.execMembershipQueryAnswer f s
  | .membershipQueryReport f => Sys2Proof.Machine.execMembershipQueryReport f s
  | .membershipUpdate f => Sys2Proof.Machine.execMembershipUpdate f s
  | .handoverOffer f => Sys2Proof.Machine.execHandoverOffer f s
  | .handoverTaken f => Sys2Proof.Machine.execHandoverTaken f s
  | .handoverRefused f => Sys2Proof.Machine.execHandoverRefused f s
  | .statusQuery f => Sys2Proof.Machine.execStatusQuery f s
  | .statusReply f => Sys2Proof.Machine.execStatusReply f s
  | .ctxRead a => Sys2Proof.Machine.execCtxRead a s
  | .install a => Sys2Proof.Machine.execInstall a s
  | .modify a => Sys2Proof.Machine.execModify a s
  | .retire a => Sys2Proof.Machine.execRetire a s
  | .find a => Sys2Proof.Machine.execFind a s
  | .handoverOut a => Sys2Proof.Machine.execHandoverOut a s
  | .handoverOfferRepeat ctx => Sys2Proof.Machine.execHandoverOfferRepeat ctx s
  | .primerComplete p => Sys2Proof.Machine.execPrimerComplete p s
  | .intakeWindowWrite q => Sys2Proof.Machine.execIntakeWindowWrite q s
  | .chunkAllocate tidx now => Sys2Proof.Machine.execChunkAllocate tidx now s
  | .intakeReopen a => Sys2Proof.Machine.execIntakeReopen a s
  | .attemptOpen tidx => Sys2Proof.Machine.execAttemptOpen tidx s
  | .sweepSectionRun tidx flt => Sys2Proof.Machine.execSweepSectionRun tidx flt s
  | .sweepStrip tidx flt => Sys2Proof.Machine.execSweepStrip tidx flt s
  | .sweepPanelWritten tidx => Sys2Proof.Machine.execSweepPanelWritten tidx s
  | .retiringPanelZero tidx => Sys2Proof.Machine.execRetiringPanelZero tidx s
  | .ibLoad a bank readOk => Sys2Proof.Machine.execIbLoad a bank readOk s
  | .ibLoadComplete => Sys2Proof.Machine.execIbLoadComplete s
  | .ibArm a bank => Sys2Proof.Machine.execIbArm a bank s
  | .ibDisarm w => Sys2Proof.Machine.execIbDisarm w s
  | .skimDeltaSend now => Sys2Proof.Machine.execSkimDeltaSend now s
  | .epochMarkSend slot => Sys2Proof.Machine.execEpochMarkSend slot s
  | .skimAckSend slot rank => Sys2Proof.Machine.execSkimAckSend slot rank s
  | .voteReady tidx now => Sys2Proof.Machine.execVoteReady tidx now s
  | .voteRepeatExpiry tidx what => Sys2Proof.Machine.execVoteRepeatExpiry tidx what s
  | .abortWaitExpiry x => Sys2Proof.Machine.execAbortWaitExpiry x s
  | .ecAbort a autoAbort => Sys2Proof.Machine.execEcAbort a autoAbort s
  | .heartbeatSend tidx now => Sys2Proof.Machine.execHeartbeatSend tidx now s
  | .suspicionDeadline entry => Sys2Proof.Machine.execSuspicionDeadline entry s
  | .confirmWaitExpiry entry => Sys2Proof.Machine.execConfirmWaitExpiry entry s
  | .discoverSend slot => Sys2Proof.Machine.execDiscoverSend slot s
  | .discWaitExpiry entry => Sys2Proof.Machine.execDiscWaitExpiry entry s
  | .fabricManagerReport a addr chip now => Sys2Proof.Machine.execFabricManagerReport a addr chip now s
  | .evict a addr chip => Sys2Proof.Machine.execEvict a addr chip s
  | .membershipUpdateIssue tidx now => Sys2Proof.Machine.execMembershipUpdateIssue tidx now s
  | .badgerStart tidx => Sys2Proof.Machine.execBadgerStart tidx s
  | .badgerRunRequest tidx => Sys2Proof.Machine.execBadgerRunRequest tidx s
  | .badgerRtoTarget tidx panel => Sys2Proof.Machine.execBadgerRtoTarget tidx panel s
  | .badgerRtoHelper entry => Sys2Proof.Machine.execBadgerRtoHelper entry s
  | .completionRecordRepeat tidx ctx => Sys2Proof.Machine.execCompletionRecordRepeat tidx ctx s
  | .bgRetry a hold => Sys2Proof.Machine.execBgRetry a hold s
  | .rsSeal a => Sys2Proof.Machine.execRsSeal a s
  | .rsArm a => Sys2Proof.Machine.execRsArm a s
  | .rsDisarm a => Sys2Proof.Machine.execRsDisarm a s
  | .teardown a => Sys2Proof.Machine.execTeardown a s
  | .teardownComplete tidx => Sys2Proof.Machine.execTeardownComplete tidx s
  | .export_ a => Sys2Proof.Machine.execExport a s
  | .exportComplete flt => Sys2Proof.Machine.execExportComplete flt s
  | .moveRtoExpiry tidx src => Sys2Proof.Machine.execMoveRtoExpiry tidx src s
  | .tagQuietExpiry tidx => Sys2Proof.Machine.execTagQuietExpiry tidx s
  | .auditStart a slot => Sys2Proof.Machine.execAuditStart a slot s
  | .auditStop w => Sys2Proof.Machine.execAuditStop w s
  | .auditRunRequest => Sys2Proof.Machine.execAuditRunRequest s
  | .lockstepSend pair => Sys2Proof.Machine.execLockstepSend pair s
  | .stateRootComplete tidx => Sys2Proof.Machine.execStateRootComplete tidx s
  | .fltDust a => Sys2Proof.Machine.execFltDust a s
  | .dustDrainComplete drained torn => Sys2Proof.Machine.execDustDrainComplete drained torn s
  | .crashCaptureComplete => Sys2Proof.Machine.execCrashCaptureComplete s
  | .fltLift a => Sys2Proof.Machine.execFltLift a s
  | .fltReturn a => Sys2Proof.Machine.execFltReturn a s
  | .resetLaneGroup a g => Sys2Proof.Machine.execResetLaneGroup a g s
  | .resetGfEngine a g busy => Sys2Proof.Machine.execResetGfEngine a g busy s
  | .resetEndpoint a => Sys2Proof.Machine.execResetEndpoint a s
  | .resetBadger a => Sys2Proof.Machine.execResetBadger a s
  | .resetInstance a => Sys2Proof.Machine.execResetInstance a s
  | .watchdogExpiry x => Sys2Proof.Machine.execWatchdogExpiry x s
  | .unitResetComplete u => Sys2Proof.Machine.execUnitResetComplete u s
  | .instanceResetComplete now => Sys2Proof.Machine.execInstanceResetComplete now s
  | .fltSummaryClear a mask => Sys2Proof.Machine.execFltSummaryClear a mask s
  | .cdCapture a fmt page => Sys2Proof.Machine.execCdCapture a fmt page s
  | .cdRelease a fmt page => Sys2Proof.Machine.execCdRelease a fmt page s
  | .fltQuery a addr tenant => Sys2Proof.Machine.execFltQuery a addr tenant s
  | .scrubPass finds => Sys2Proof.Machine.execScrubPass finds s
  | .statusMirrorWrite now => Sys2Proof.Machine.execStatusMirrorWrite now s
  | .lathTransfer x => Sys2Proof.Machine.execLathTransfer x s
  | .lathRingWalk w => Sys2Proof.Machine.execLathRingWalk w s
  | .registerWrite q => Sys2Proof.Machine.execRegisterWrite q s
  | .rcRead q => Sys2Proof.Machine.execRcRead q s
  | .railRestore => Sys2Proof.Machine.execRailRestore s
  | .testEnFall => Sys2Proof.Machine.execTestEnFall s
  | .activityRampAdmit => Sys2Proof.Machine.execActivityRampAdmit s
  | .resliceCountPoll tidx dest => Sys2Proof.Machine.execResliceCountPoll tidx dest s
  | .auditRunTimeout s0 => Sys2Proof.Machine.execAuditRunTimeout s0 s

end Sys2Proof.Machine
end

