-- ==== Sys2Proof/Machine/Settle.lean ====
section
/-! DEFINITION. What the block does of its own accord when no command waits: the consequences of its state that no row
of the table commands (DESIGN CHOICE, log entry 1). -/

namespace Sys2Proof.Machine

/-- A tenant's share of it: roles, sweep, requests, votes, a due opening, the park. -/
def State.settleTen (s : State) (i : Fin 64) : State :=
  if (s.ten i).env.isNone then s else (s.syncRoles i false).follow i

/-- The block's own work with no command waiting. Under dust sheet, with its dump done, an instance reset that is wanted
begins (R331, R332). -/
def State.settle (s : State) : State :=
  if !s.configured then s
  else
    match s.flt.mode with
    | .normal => (((tenantIdxs.foldl (fun s i => s.settleTen i) s).freeReleased).syncGroups).unpark
    | .resetting => s
    | _ => if s.flt.resetWanted ∧ s.flt.phase = .held then s.beginReset else s

end Sys2Proof.Machine
end

