-- ==== Sys2Proof/Machine/Step.lean ====
section
/-! DEFINITION. One step: the command at the front of the queue, or, with none waiting, the block's own work. -/

namespace Sys2Proof.Machine

/-- The command at the front of the queue is taken and has its effect with the queue's rest in place. On an empty queue
the block does the work that no command asks for (log entry 1). -/
def step (s : State) : Host.Outcome State Fault Refusal :=
  match s.pending with
  | c :: rest => exec c { s with pending := rest }
  | [] => .next s.settle

/-- The state with the command a word spells put at the front of the queue. The table's rows give no bits, so no word
spells a command and the state stays as it is (log entry 18). -/
def State.withFetchWord (s : State) (nbits w : Nat) : State :=
  match decodeTableWord nbits w with
  | some c => { s with pending := c :: s.pending }
  | none => s

end Sys2Proof.Machine
end

