-- ==== Sys2Proof/Safety.lean ====
section
/-! DEFINITION. What the statements call a good state and a good step: the canonical form of the memories, and that a
step answers a next state. -/

namespace Sys2Proof.Machine

/-- The three byte memories are in canonical form: the stack, the crash area and the working area. -/
def State.memWf (s : State) : Bool :=
  Mem.wf Config.stackBytes s.mem && Mem.wf (2 ^ 21) s.crash.area && Mem.wf (2 ^ 23) s.work

/-- The history holds at most 32 entries (R321). -/
def State.historyOk (s : State) : Bool := decide (s.flt.history.length ≤ Config.historySize)

/-- A step that goes on. -/
def goesOn (o : Host.Outcome State Fault Refusal) : Bool :=
  match o with
  | .next _ => true
  | .fault _ => false
  | .refused _ => false

/-! ## Where a command is not turned away -/

/-- A register-window write that the window takes: the ports move, the window is open at the offset, and the write comes
from system software (R35, R329, R384). -/
def windowTakes (s : State) (a : Acc) (offset : Nat) : Prop :=
  s.portsUp = true ∧ s.windowOpen offset = true ∧ fromSystem a = true

/-- A received frame that passes checks 1 to 6 of R75 and whose source is not LOST (R236): the instance takes frames, its
CRC and its header are good for the type, its LEN is that of its payload, its tenant is active at index `i` and its
generation is the tenant's own. What a row asks beyond that, checks 2, 3, 7 and 8 ask of the row's own fields. -/
def frameGood (s : State) (f : Rx) (typ : Byte) (i : Fin 64) : Prop :=
  s.portsUp = true ∧ (s.at_ f.time).takesFrame f = true ∧ f.eiErr = false ∧ f.crc = frameCrc f ∧ f.ver = 3 ∧ f.typ = typ ∧
    f.mark = (typ == 0x03) ∧ (f.elided = false ∨ typ = 0x01) ∧ f.rsv1 = false ∧ f.rsv2 = 0 ∧
    f.len.toNat = f.payload.length ∧ (s.at_ f.time).tenantOf f.tenant = some i ∧
    f.gen = ((s.at_ f.time).ten i).fox.gen ∧ (s.at_ f.time).srcLost i f = false

/-- What `frameGood` says but for the generation, for the rows whose frames are taken under any (R76). -/
def frameAnyGen (s : State) (f : Rx) (typ : Byte) (i : Fin 64) : Prop :=
  s.portsUp = true ∧ (s.at_ f.time).takesFrame f = true ∧ f.eiErr = false ∧ f.crc = frameCrc f ∧ f.ver = 3 ∧ f.typ = typ ∧
    f.mark = (typ == 0x03) ∧ (f.elided = false ∨ typ = 0x01) ∧ f.rsv1 = false ∧ f.rsv2 = 0 ∧
    f.len.toNat = f.payload.length ∧ (s.at_ f.time).tenantOf f.tenant = some i ∧ (s.at_ f.time).srcLost i f = false

/-- The number of times an event or a counted occurrence has been counted at position `k` (R319, R398). -/
def State.counter (s : State) (k : Nat) : BitVec 64 := (NMap.get? s.flt.counters k).getD 0

end Sys2Proof.Machine
end

