-- ==== Sys2Proof/Certificates/Slice0/Obligations.lean ====
section
/-! DEFINITION. The statements about this block: what a step does, for every row of spec/opcode_table.json where its
command completes, and the rules of the manual that hold over all states. -/

open Sys2Proof Sys2Proof.Machine

/-! ## The queue -/

/-- A step takes the command at the front of the queue and runs it with the queue's rest in place. -/
def Obligations.StepRunsFrontCommand : Prop :=
  ∀ (s : State) (c : Instr) (rest : List Instr), s.pending = c :: rest → step s = exec c { s with pending := rest }

/-- With no command waiting the block does its own work, and right after reset there is none: the queue is empty and the
state stays (the choice of log entry 1). -/
def Obligations.EmptyQueueSettles : Prop :=
  (∀ s : State, s.pending = [] → step s = .next s.settle) ∧
    State.reset.pending = [] ∧ step State.reset = .next State.reset

/-- What reset leaves of the registers that the manual gives a value: no configuration, an open gate that is not ready,
the block share, the weights of the endpoint, the reaction of the late marks, AUTO_ABORT, elision on, the worst slack. -/
def Obligations.ResetLeavesManualValues : Prop :=
  State.reset.loader.applied = false ∧ State.reset.gate.ready = false ∧ State.reset.gate.share = 8 ∧
    State.reset.ep.wSkim = 192 ∧ State.reset.ep.wBadger = 64 ∧ State.reset.hawk.elideEn = true ∧
    State.reset.ctx.table = [] ∧ State.reset.flt.mode = .normal ∧ State.reset.flt.history = [] ∧
    (∀ m : Fin 15, (State.reset.monitors.get m).worst = 0x64) ∧
    (∀ i : Fin 64, (State.reset.ten i).env = none ∧ (State.reset.ten i).commit.autoAbort = true ∧
      (State.reset.ten i).commit.lateGap = 2000 ∧ (State.reset.ten i).commit.markAt = 16 ∧
      (State.reset.ten i).commit.vstate = .none)

/-! ## Power, reset and test -/

/-- The assertion of the memory-and-links reset. While the reset is released, pins and straps, the stack beside the
directory of the span in force, the summary bits, the history with its SEQ and LOST, and the crash dumps stay, PRIOR
sets, and every other register, queue, buffer and mode is at its reset value; the directory is cleared. While it is low
already nothing changes. -/
def Obligations.MemoryAndLinksResetKeepsHistory : Prop :=
  ∀ s : State,
    (s.power.released = false → exec .mlResetAssert s = .next s) ∧
    (s.power.released = true → s.memWf = true →
      ∃ t : State, exec .mlResetAssert s = .next t ∧
        t = { State.reset with
          power := { s.power with released := false, testOpen := false, xspiOwn := false, ramp := false, rampGroups := 0
                                  rampGf := 0, monSel := 0 }
          mem := t.mem
          flt := { State.reset.flt with summary := s.flt.summary, seen := s.flt.seen, history := s.flt.history
                                        seq := s.flt.seq, lost := s.flt.lost }
          crash := { s.crash with capturing := none, prior := true, fmt := false, page := 0 }
          free := s.free, pending := s.pending } ∧
        (∀ a : Nat, ¬ (s.dirBase ≤ a ∧ a < s.dirBase + s.dirLen) → Mem.read t.mem a = Mem.read s.mem a) ∧
        ∀ a : Nat, s.dirBase ≤ a → a < s.dirBase + s.dirLen → Mem.read t.mem a = 0)

/-- The rows of the rails, of the test access and of its pin. A rail's loss and the opening of the test access leave
every field but pins, straps and the stack outside the span's directory at its reset value; the rails come back, the
test access opens, and a rise of MNL_TEST_EN is ignored with event 0x1B, each only in the state of the reset that it
needs; each admission of the ramp lets a lane group and a GF engine join. Where the manual leaves a point open, the
choices of log entries 2, 8, 67, 69 and 163 hold. -/
def Obligations.RailAndTestRowsComplete : Prop :=
  (∀ (s : State) (r : Rail), s.memWf = true → ∃ t : State, exec (.powerRailLoss r) s = .next t ∧
      t = { State.reset with
        power := { s.power with rails := false, isolated := true, testOpen := false, xspiOwn := false, ramp := false
                                rampGroups := 0, rampGf := 0, monSel := 0 }
        mem := t.mem, free := s.free, pending := s.pending } ∧
      (∀ a : Nat, ¬ (s.dirBase ≤ a ∧ a < s.dirBase + s.dirLen) → Mem.read t.mem a = Mem.read s.mem a) ∧
      ∀ a : Nat, s.dirBase ≤ a → a < s.dirBase + s.dirLen → Mem.read t.mem a = 0) ∧
  (∀ s : State, s.power.released = false →
      exec .railRestore s = .next { s with power := { s.power with rails := true } }) ∧
  (∀ s : State, s.power.released = true → exec .railRestore s = .next s ∧ exec .testAccessOpen s = .next s) ∧
  (∀ s : State, s.power.released = false → s.memWf = true → ∃ t : State, exec .testAccessOpen s = .next t ∧
      t = { State.reset with
        power := { s.power with testEn := true, testOpen := true, xspiOwn := false, ramp := false, rampGroups := 0
                                rampGf := 0, monSel := 0 }
        mem := t.mem, free := s.free, pending := s.pending } ∧
      (∀ a : Nat, ¬ (s.dirBase ≤ a ∧ a < s.dirBase + s.dirLen) → Mem.read t.mem a = Mem.read s.mem a) ∧
      ∀ a : Nat, s.dirBase ≤ a → a < s.dirBase + s.dirLen → Mem.read t.mem a = 0) ∧
  (∀ s : State, s.power.released = true →
      exec .testEnIgnored s =
        .next (State.raise { s with power := { s.power with testEn := true } } { code := 0x1B, core := true })) ∧
  (∀ s : State, s.power.released = false → exec .testEnIgnored s = .next s) ∧
  (∀ s : State, exec .testEnFall s = .next { s with power := { s.power with testEn := false } }) ∧
  (∀ s : State, s.power.ramp = false → exec .activityRampAdmit s = .next s) ∧
  (∀ s : State, s.power.ramp = true → exec .activityRampAdmit s = .next { s with power := { s.power with
      rampGroups := min 4 (s.power.rampGroups + 1), rampGf := min 2 (s.power.rampGf + 1)
      ramp := decide (s.power.rampGroups + 1 < 4) } })

/-- The release of the memory-and-links reset. With the rails in range it samples the straps and opens the cells; with
the test access open and MNL_TEST_EN still high nothing else happens; otherwise the loader starts, an owner strap of all
zeros or all ones marked bad with event 0x2F, and a chip manager whose flash SFDP does not discover is UNCONFIGURED with
event 0x20. Released already, or with a rail out of range, nothing changes. Where the manual leaves a point open, the
choice of log entry 8 holds. -/
def Obligations.ResetReleaseSamplesStraps : Prop :=
  ∀ (s : State) (owner : BitVec 384) (flash : Bool) (inst : BitVec 4) (testEn : Bool) (sfdp : Sfdp),
    (s.power.released = true ∨ s.power.rails = false →
      exec (.mlResetRelease owner flash inst testEn sfdp) s = .next s) ∧
    (s.power.released = false → s.power.rails = true →
      (let s1 : State := { s with power := { s.power with
         released := true, releasedAt := s.time.now, isolated := false, testEn := testEn
         testOpen := s.power.testOpen && testEn, owner := owner, flash := flash, inst := inst, xspiOwn := flash } }
       let found : Prop := sfdp.signature = true ∧ sfdp.basicTable = true ∧ sfdp.xspiTable = true
       let s2 (bad : Bool) (ok : Bool) (mhz : Nat) : State := { s1 with loader := { s.loader with
         ownerBad := bad, state := .loading, sfdpOk := ok, mhz := BitVec.ofNat 8 mhz
         density := if flash ∧ sfdp.basicTable then BitVec.ofNat 32 (sfdp.density / 65536) else 0 } }
       let bad : Bool := decide (owner = 0 ∨ owner = ~~~(0 : BitVec 384))
       let marked (x : State) : State := if bad then x.raise { code := 0x2F } else x
       (s.power.testOpen = true ∧ testEn = true →
         exec (.mlResetRelease owner flash inst testEn sfdp) s = .next s1) ∧
       (s.power.testOpen = false ∨ testEn = false →
         (flash = false → exec (.mlResetRelease owner flash inst testEn sfdp) s = .next (marked (s2 bad false 0))) ∧
         (flash = true → found → exec (.mlResetRelease owner flash inst testEn sfdp) s =
           .next (marked (s2 bad true (min 200 sfdp.maxMHz)))) ∧
         (flash = true → ¬ found → exec (.mlResetRelease owner flash inst testEn sfdp) s =
           .next (((marked (s2 bad false 0)).raise { code := 0x20 }).unconfigured)))))

/-! ## Time and monitors -/

/-- The rows of the time source and of the margin monitors: a stall and a sample that is lower than the last or more
than 1 ms above it are a fault with event 0x03, any other sample is only taken, and the fault clears once every sample
of 1 ms was good; a replica's class follows its slack, an entry into Warning raising event 0x01 and one into Alarm 0x02;
a monitor that has stayed in Normal is settled. Before the release of the reset none of the four rows of the sampled
time and the replicas does anything. Where the manual leaves a point open, the choices of log entries 9 and 68 hold. -/
def Obligations.TimeAndMonitorRowsComplete : Prop :=
  (∀ (s : State) (x : BitVec 64) (m : Fin 15) (slack : Byte), s.power.released = false →
      exec .timeCounterStall s = .next s ∧ exec (.timeSampleInvalid x) s = .next s ∧
        exec (.timeAdvanceHold x) s = .next s ∧ exec (.marginClassChange m slack) s = .next s) ∧
  (∀ (s : State) (x : BitVec 64), s.power.released = true →
      (let fault (t : TimeS) : State := State.raise { s with time := { t with fault := true, advancing := false, since := t.now } }
         { code := 0x03, core := true }
       let since := if s.time.sampled then s.time.since else x
       let bad : Prop := s.time.sampled = true ∧ (x < s.time.now ∨ 1000000 < x.toNat - s.time.now.toNat)
       exec .timeCounterStall s = .next (fault s.time) ∧
       (bad → exec (.timeSampleInvalid x) s = .next (fault { s.time with now := x, sampled := true }) ∧
         exec (.timeAdvanceHold x) s = .next (fault { s.time with now := x, sampled := true })) ∧
       (¬ bad → exec (.timeSampleInvalid x) s =
         .next { s with time := { s.time with now := x, sampled := true, since := since } }) ∧
       (¬ bad → (x - since).toNat < 1000000 → exec (.timeAdvanceHold x) s =
         .next { s with time := { s.time with now := x, sampled := true, since := since } }) ∧
       (¬ bad → 1000000 ≤ (x - since).toNat → exec (.timeAdvanceHold x) s =
         .next { s with time := { now := x, sampled := true, since := since, advancing := true, fault := false } }))) ∧
  (∀ (s : State) (m : Fin 15) (slack : Byte), s.power.released = true →
      (let old := s.monitors.get m
       let cls : MonClass := if 25 ≤ slack.toNat then .normal else if 10 ≤ slack.toNat then .warning else .alarm
       ∃ s' : State, s' = { s with monitors := s'.monitors } ∧
         s'.monitors.get m = { old with
           cls := cls, slack := slack, worst := if slack < old.worst then slack else old.worst
           warns := if cls = .warning ∧ old.cls ≠ .warning then old.warns + 1 else old.warns
           settled := if cls = .alarm then false else old.settled } ∧
         (∀ k : Fin 15, k ≠ m → s'.monitors.get k = s.monitors.get k) ∧
         (cls = old.cls ∨ cls = .normal → exec (.marginClassChange m slack) s = .next s') ∧
         (cls ≠ old.cls → cls = .warning →
           exec (.marginClassChange m slack) s = .next (s'.raise { code := 0x01, core := true, unit := m.val })) ∧
         (cls ≠ old.cls → cls = .alarm →
           exec (.marginClassChange m slack) s = .next (s'.raise { code := 0x02, core := true, unit := m.val })))) ∧
  (∀ (s : State) (m : Fin 15),
      ((s.monitors.get m).cls = .normal → ∃ t : State, exec (.monitorNormalHold m) s = .next t ∧
        t = { s with monitors := t.monitors } ∧ t.monitors.get m = { s.monitors.get m with settled := true } ∧
        ∀ k : Fin 15, k ≠ m → t.monitors.get k = s.monitors.get k) ∧
      ((s.monitors.get m).cls ≠ .normal → exec (.monitorNormalHold m) s = .next s))

/-! ## Configuration -/

/-- The rows of the image at reset, at an instance that has applied none. The copy read is judged: a good one is the
candidate and goes out over the lath, one that fails the object's checks, or its content, raises the event of its
RESULT and gives way to the next copy; an answer, and an instance that stays silent (event 0x2A), are recorded and the
copy concluded; an instance without the flash that has received nothing is UNCONFIGURED at the lath's timeout. Where a
row does not apply nothing changes. Where the manual leaves a point open, the choices of log entries 7, 21, 30, 59, 60,
61, 148 and 165 hold. -/
def Obligations.ImageRowsComplete : Prop :=
  (∀ (s : State) (o : ObjRead), (s.power.released = true ∧ s.power.flash = true ∧ s.loader.state = .loading ∧
        s.loader.candidate = none ∧ s.loader.applied = false →
      (let r := s.objectResult o 1 (min (2 ^ 24) (if s.loader.density = 0 then 2 ^ 24 else s.loader.density.toNat * 32768))
       (r ≠ 0 → exec (.flashCopyLoaded o) s = .next ((s.raise {
         code := resultEvent r, detail := if r = 0x0C then o.addr.toNat + bit s.loader.reading 32 else 0 }).nextCopy r)) ∧
       (r = 0 → ∀ code detail : Nat, s.contentFault o true = some (code, detail) →
         exec (.flashCopyLoaded o) s = .next ((s.raise { code := code, detail := detail }).nextCopy 0x07)) ∧
       (r = 0 → s.contentFault o true = none → exec (.flashCopyLoaded o) s = .next (State.concludeCopy { s with
         loader := { s.loader with candidate := some o, answers := [], silent := [], distAt := s.time.now }
         lath := { s.lath with sent := s.lath.sent ++ [.distribute o] } })))) ∧
      (s.power.released = false ∨ s.power.flash = false ∨ s.loader.state ≠ .loading ∨ s.loader.candidate ≠ none ∨
        s.loader.applied = true → exec (.flashCopyLoaded o) s = .next s)) ∧
  (∀ (s : State) (r : Nat), s.loader.fed = false → s.loader.reading = false → s.nextCopy r = { s with loader := { s.loader with
      candidate := none, answers := [], silent := [], result := BitVec.ofNat 8 r, reading := true } }) ∧
  (∀ (s : State) (k : BitVec 4) (accept : Bool), (s.loader.candidate ≠ none → s.loader.applied = false → s.power.flash = true →
      (let s' : State := { s with loader := { s.loader with answers := s.loader.answers.filter (fun p => p.1 != k) ++ [(k, accept)] } }
       exec (.distributionAnswer k accept) s = .next s'.concludeCopy) ∧
      ((∀ p ∈ s.loader.answers, p.1 ≠ k) → exec (.distributionTimeout k) s =
        .next ((State.raise ((s.reach s.loader.distAt 100000000).updLoader fun l => { l with silent := addOnce k l.silent })
          { code := 0x2A, unit := k.toNat }).concludeCopy)) ∧
      ((∃ p ∈ s.loader.answers, p.1 = k) → exec (.distributionTimeout k) s = .next s)) ∧
      (s.loader.candidate = none ∨ s.loader.applied = true ∨ s.power.flash = false →
        exec (.distributionAnswer k accept) s = .next s ∧ exec (.distributionTimeout k) s = .next s)) ∧
  (∀ s : State, (s.power.released = true → s.power.flash = false → s.loader.state = .loading → s.loader.candidate = none →
      ∃ t : State, exec .lathConfigTimeout s = .next t ∧
        t = { s.reach s.power.releasedAt 2000000000 with
          loader := { s.loader with state := .unconfigured, candidate := none, answers := [] }
          power := { s.power with xspiOwn := false } }) ∧
      (s.power.released = false ∨ s.power.flash = true ∨ s.loader.state ≠ .loading ∨ s.loader.candidate ≠ none →
        exec .lathConfigTimeout s = .next s))

/-- The rows of an object brought in by software. At an unconfigured chip manager the feed's BEGIN empties it, each
write appends its eight bytes, one byte too many ends it with RESULT FORMAT and event 0x23, and END hands the object to
the loader's checks. In service STAGE fills the shadow and raises the active SVN to the object's, or leaves the RESULT
and the event of the check that failed; ARM records the tenants it affects, DISARM leaves the shadow STAGED again with
event 0x2D, DISCARD empties it; each answers RESULT STATE out of place and is refused where its window is closed. Where
the manual leaves a point open, the choices of log entries 7, 9, 20, 21, 53, 62, 63, 64, 156, 161, 162 and 163 hold. -/
def Obligations.FeedAndBundleRowsComplete : Prop :=
  (∀ (s : State) (a : Acc) (w : Word) (x : Content), s.portsUp = true →
      (let open_ : Prop := fromSystem a = true ∧ s.configured = false ∧ s.flt.mode ≠ .resetting ∧ s.power.flash = true
       let ns := s.gate.ns ++ [{ id := a.id, status := .ok, cause := 0, data := 0 : NsResp }]
       let fed (l : LoaderS) : State := { s with loader := l, gate := { s.gate with ns := ns } }
       (¬ open_ → exec (.cfFeed a w) s = .next (s.refuse a.id 0x7020) ∧ exec (.feedEnd a x) s = .next (s.refuse a.id 0x7008) ∧
         exec (.feedBegin a) s = .next (s.refuse a.id 0x7008)) ∧
       (open_ → s.loader.state = .loading → exec (.feedBegin a) s = .next (s.refuse a.id 0x7008)) ∧
       (open_ → s.loader.state ≠ .loading → exec (.feedBegin a) s = .next
         (fed { s.loader with op := 5, state := .feeding, feed := [], fed := true, result := 0 })) ∧
       (open_ → s.loader.state ≠ .feeding → exec (.cfFeed a w) s = .next (fed { s.loader with result := 0x0B }) ∧
         exec (.feedEnd a x) s = .next (fed { s.loader with op := 6, result := 0x0B })) ∧
       (open_ → s.loader.state = .feeding → s.loader.feed.length + 8 ≤ 2 ^ 24 + 256 →
         exec (.cfFeed a w) s = .next (fed { s.loader with feed := s.loader.feed ++ leBytes 8 w.toNat })) ∧
       (open_ → s.loader.state = .feeding → 2 ^ 24 + 256 < s.loader.feed.length + 8 →
         exec (.cfFeed a w) s = .next ((fed { s.loader with state := .unconfigured, feed := [], result := 0x02 }).raise
           { code := 0x23 })) ∧
       (open_ → s.loader.state = .feeding → exec (.feedEnd a x) s = .next ((fed { s.loader with op := 6, state := .loading }).judgeCopy {
         readOk := true
         bytes := if s.loader.feed.length < leField s.loader.feed 8 4 + 264 then s.loader.feed.take (leField s.loader.feed 8 4)
           else s.loader.feed
         trailer := slice s.loader.feed (leField s.loader.feed 8 4) 256, content := x })))) ∧
  (∀ (s : State) (a : Acc) (readOk : Bool) (x : Content), s.portsUp = true →
      s.windowOpen 0x7008 = false ∨ fromSystem a = false →
      exec (.cfStage a readOk x) s = .next (s.refuse a.id 0x7008) ∧ exec (.cfArm a) s = .next (s.refuse a.id 0x7008) ∧
        exec (.cfDisarm a) s = .next (s.refuse a.id 0x7008) ∧ exec (.cfDiscard a) s = .next (s.refuse a.id 0x7008)) ∧
  (∀ (s : State) (a : Acc) (readOk : Bool) (x : Content), windowTakes s a 0x7008 →
      (let ns := s.gate.ns ++ [{ id := a.id, status := .ok, cause := 0, data := 0 : NsResp }]
       let with_ (l : LoaderS) : State := { s with loader := l, gate := { s.gate with ns := ns } }
       let src := s.loader.src.toNat
       let len := s.loader.len.toNat
       let o : ObjRead := { readOk := readOk, bytes := s.bytesAt src len, trailer := s.bytesAt (src + len) 256, content := x }
       let r := s.stageResult o
       let boundary : Prop := ∃ i : Fin 64, (s.ten i).rs.state = .armed ∨ (s.ten i).rs.state = .moving ∨ (s.ten i).rs.state = .sealing
       (s.rangeOk 6 src (len + 256) = false → exec (.cfStage a readOk x) s = .next (s.refuse a.id 0x7008)) ∧
       (s.rangeOk 6 src (len + 256) = true →
         (s.loader.shadowState = .armed ∨ s.loader.takenBy ≠ none →
           exec (.cfStage a readOk x) s = .next (with_ { s.loader with op := 1, result := 0x0B })) ∧
         (s.loader.shadowState ≠ .armed → s.loader.takenBy = none →
           (r.1 ≠ 0 → exec (.cfStage a readOk x) s =
             .next ((with_ { s.loader with op := 1, result := BitVec.ofNat 8 r.1 }).raise { code := r.2.1, detail := r.2.2 })) ∧
           (r.1 = 0 → exec (.cfStage a readOk x) s = .next (with_ { s.loader with
             op := 1, result := 0, shadowState := .staged, svn := BitVec.ofNat 32 (trailerSvn o.trailer)
             shadow := some { recordOf o s.power.inst with ninst := s.cfg.ninst, program := s.cfg.program } })))) ∧
       (∀ rec_ : Record, s.loader.shadow = some rec_ → s.loader.shadowState = .staged →
         (¬ boundary → exec (.cfArm a) s = .next (with_ { s.loader with
           op := 2, result := 0, shadowState := .armed, affected := s.affectedBy rec_, armedAt := s.time.now })) ∧
         (boundary → exec (.cfArm a) s = .next (with_ { s.loader with op := 2, result := 0x0B }))) ∧
       (s.loader.shadowState ≠ .staged → exec (.cfArm a) s = .next (with_ { s.loader with op := 2, result := 0x0B }) ∧
         exec (.cfDiscard a) s = .next (with_ { s.loader with op := 4, result := 0x0B })) ∧
       (s.loader.shadowState = .armed → exec (.cfDisarm a) s = .next ((State.raise (with_ { s.loader with
         op := 3, result := 0, shadowState := .staged, affected := [] }) { code := 0x2D }).unparkTenants)) ∧
       (s.loader.shadowState ≠ .armed → exec (.cfDisarm a) s = .next (with_ { s.loader with op := 3, result := 0x0B })) ∧
       (s.loader.shadowState = .staged → s.loader.takenBy = none → exec (.cfDiscard a) s = .next (with_ { s.loader with
         op := 4, result := 0, shadow := none, shadowState := .empty }))))

/-- The switch. While an affected tenant with a sealed epoch is not parked nothing changes; once all are parked the
checks are made again: where they pass, the shadow becomes active and what was active becomes the shadow, STAGED, with
event 0x2C; where one fails, and where the wait ends first, the active record stays as it was, the shadow is STAGED with
the RESULT, and event 0x2D is raised. With no shadow ARMED neither row does anything. Where the manual leaves a point
open, the choices of log entries 21, 30, 64 and 186 hold. -/
def Obligations.SwitchRowsComplete : Prop :=
  (∀ (s : State) (r : Record), s.loader.shadow = some r → s.loader.shadowState = .armed →
      (let parked : Prop := ∀ i ∈ s.loader.affected, (s.ten i).sealed = false ∨ (s.ten i).commit.parked = true
       (¬ parked → exec .configSwitch s = .next s) ∧
       (parked → s.switchResult r = 0 → exec .configSwitch s = .next
         ((((s.activate r).updLoader fun l => { l with
             shadow := some s.cfg, shadowState := .staged, affected := [], result := 0 }).raise { code := 0x2C }).unparkTenants)) ∧
       (parked → s.switchResult r ≠ 0 → exec .configSwitch s = .next
         ((State.raise { s with loader := { s.loader with
           shadowState := .staged, affected := [], result := BitVec.ofNat 8 (s.switchResult r) } } { code := 0x2D }).unparkTenants)))) ∧
  (∀ s : State, s.loader.shadowState = .armed →
      exec .switchWaitExpiry s = .next
        ((State.raise { s.reach s.loader.armedAt (s.cfg.glob.switchWait * 1000000) with loader := { s.loader with
          shadowState := .staged, affected := [], result := 0x0B } } { code := 0x2D }).unparkTenants)) ∧
  (∀ s : State, s.loader.shadowState ≠ .armed → exec .configSwitch s = .next s ∧ exec .switchWaitExpiry s = .next s)

/-! ## The gate -/

/-- Host reads, writes and atomics that no earlier request to their line holds back, with an MQ_ID free: where each goes,
with its number in order of arrival, its NQ_AOP and its tag kept. Outside the span and the directory it passes as it is.
A read or write of a LOADING region goes to bank C; a read of an ACTIVE region goes to the bank its record steers to, is
parked while a running sweep holds the panel, and fails READ while a repair keeps it back; a write to a direct-coded
panel with room in the Hawk buffer and to a replica panel whose sweep does not hold it takes the read-old path; a write
to a skim panel and an atomic to a protected region fail with their causes, as does an access to a region whose entry
cannot be read. Nothing but the gate changes where the request is sent or parked. Where the manual leaves a point open,
the choices of log entries 37, 38, 39, 41, 42, 43, 173 and 174 hold. -/
def Obligations.HostAccessRowsComplete : Prop :=
  ∀ (s : State) (q : NqReq) (id : BitVec 12), s.portsUp = true → q.space = 0 → s.gate.ready = true →
    s.freeMqId = some id → (∀ y ∈ s.gate.park, lineNo y.q.addr ≠ lineNo q.addr) →
    (let a := q.addr.toNat
     let asked : State := { s with gate := { (s.touchLookaside a).gate with arrivals := s.gate.arrivals + 1 } }
     let sent (kind : MqKind) (phys : BitVec 36) (panel : Option (Nat × Nat)) : State := { asked with gate := { asked.gate with
       mq := s.gate.mq ++ [{ id := id, nqId := q.id, kind := kind, aop := q.aop, n := s.gate.arrivals, line := lineNo q.addr
                             tag := q.tag, addr := phys, be := q.be, data := q.data, panel := panel }] } }
     let freeRd : Prop := s.lineBusy (lineNo q.addr) true = false
     let freeWr : Prop := s.lineBusy (lineNo q.addr) false = false
     (s.inSpan a = false → s.inDir a = false →
       (q.op = 0 → freeRd → exec (.hostMemoryRead q false) s = .next (sent .read q.addr none)) ∧
       (q.op = 1 → freeWr → exec (.hostMemoryWrite q false) s = .next (sent .write q.addr none)) ∧
       (q.op = 2 → freeWr → exec (.hostMemoryAtomic q false) s = .next (sent .atomic q.addr none))) ∧
     (∀ (c : Nat) (e : Entry) (i : Fin 64), s.flt.mode = .normal → s.inSpan a = true → s.inDir a = false →
       s.hostView a = some (c, e) → q.tag = e.tenant → s.tenantOf e.tenant = some i →
       (let p := a / 4096 - e.basep
        let bank (b : Bool) : BitVec 36 := BitVec.ofNat 36 (e.panelAddr p b + a % 4096)
        let open_ : Prop := (s.ten i).commit.isOpen = true ∧ (s.ten i).commit.window = false
        (q.op = 0 →
          (e.state = .loading → freeRd →
            exec (.hostMemoryRead q false) s = .next (sent .read (bank (s.panelRec e p).c) (some (c, p)))) ∧
          (e.state = .active → RepairItem.data c p ∈ s.badger.repairs → s.lineOut (lineNo q.addr) = false →
            exec (.hostMemoryRead q false) s = .next (asked.busError q 0x9)) ∧
          (e.state = .active → RepairItem.data c p ∉ s.badger.repairs → s.holdsRead i e p = false → freeRd →
            exec (.hostMemoryRead q false) s = .next (sent .read (bank (s.steer e p)) (some (c, p)))) ∧
          (e.state = .active → RepairItem.data c p ∉ s.badger.repairs → s.holdsRead i e p = true →
            s.gate.park.length < 256 → exec (.hostMemoryRead q false) s = .next { asked with gate := { asked.gate with
              park := parkInsert { q := q, n := s.gate.arrivals, why := .sweep, ctx := some c } s.gate.park } }) ∧
          exec (.hostMemoryRead q true) s = .next ((asked.contain c).busError q 0xA)) ∧
        (q.op = 1 →
          (e.state = .loading → freeWr →
            exec (.hostMemoryWrite q false) s = .next (sent .write (bank (s.panelRec e p).c) (some (c, p)))) ∧
          (e.state = .active → open_ → e.cls = .direct → s.hawkRoom e.slot.val 1 1 = true → freeWr →
            exec (.hostMemoryWrite q false) s = .next (sent .readOld (bank (s.steer e p)) (some (c, p)))) ∧
          (e.state = .active → open_ → e.cls = .replica →
            e.sgrp = 0 ∨ (s.ten i).sweep.state = .idle ∨ (s.ten i).sweep.state = .held → freeWr →
            exec (.hostMemoryWrite q false) s = .next (sent .readOld (bank (s.steer e p)) (some (c, p)))) ∧
          (e.state = .active → e.cls = .skim → s.lineOut (lineNo q.addr) = false →
            exec (.hostMemoryWrite q false) s = .next (asked.busError q 0x1))) ∧
        (q.op = 2 → e.state = .active ∨ e.state = .loading → s.lineOut (lineNo q.addr) = false →
          exec (.hostMemoryAtomic q false) s = .next (asked.busError q 0x4)))))

/-- The controller's answers and the work of the directory. A response for the oldest request to its line answers it: a
read OK with its data, a write OK once the bytes it enables are in the stack and no other byte, an atomic OK with the
data that came, a read with an uncorrectable error outside the directory with a bus error and its panel queued for
repair; a corrected error is counted beside; an overdue response only frees its MQ_ID. The merge of a read-old write
that may still be made; and a full pass of the fold walker, which folds every live record and frees every attempt
number, after which the openings that waited for it take place. Where the manual leaves a point open, the choices of
log entries 6, 14, 39, 41, 42, 49, 50 and 174 hold. -/
def Obligations.GateCompletionRowsComplete : Prop :=
  (∀ (s : State) (r : MsResp) (m : MqReq), s.portsUp = true → r.id ∉ s.flt.overdue → m.id = r.id →
      s.gate.mq.find? (fun x => x.id == r.id) = some m → s.gate.mq.filter (fun x => x.line == m.line) = [m] →
      (let mq := s.gate.mq.filter fun x => x.id != m.id
       let ns (st : NsStatus) (cause : BitVec 4) (d : Line) := s.gate.ns ++ [{ id := m.nqId, status := st, cause := cause, data := d : NsResp }]
       let corrected := if r.err = 1 then s.gate.corrected + 1 else s.gate.corrected
       (m.kind = .read → r.err.toNat < 2 → exec (.memoryResponse r) s =
         .next (State.unpark { s with gate := { s.gate with mq := mq, ns := ns .ok 0 r.data, corrected := corrected } })) ∧
       (m.kind = .read → 2 ≤ r.err.toNat → s.inDir r.addr.toNat = false → exec (.memoryResponse r) s =
         .next (((State.raise { s with gate := { s.gate with mq := mq, ns := ns .busError 0x9 0 } }
           { code := 0x39, tenant := m.tag, detail := m.addr.toNat }).queueRepairAt m.addr.toNat).unpark)) ∧
       (m.kind = .write → r.err.toNat < 2 → s.memWf = true →
         ∃ s' : State, exec (.memoryResponse r) s = .next s'.unpark ∧
           s' = { s with mem := s'.mem, gate := { s.gate with mq := mq, ns := ns .ok 0 0, corrected := corrected } } ∧
           s'.bytesAt (64 * lineNo m.addr) 64 = lineBytes (mergeLine m.be (lineOf (s.bytesAt (64 * lineNo m.addr) 64)) m.data) ∧
           ∀ a : Nat, ¬ (64 * lineNo m.addr ≤ a ∧ a < 64 * lineNo m.addr + 64) → Mem.read s'.mem a = Mem.read s.mem a) ∧
       (m.kind = .atomic → r.err.toNat < 2 → s.memWf = true →
         ∃ s' : State, exec (.memoryResponse r) s = .next s'.unpark ∧
           s' = { s with mem := s'.mem, free := s.free + 1
                         gate := { s.gate with mq := mq, ns := ns .ok 0 r.data, corrected := corrected } } ∧
           s'.bytesAt (64 * lineNo m.addr) 64 = lineBytes (Config.atomicLine s.free) ∧
           ∀ a : Nat, ¬ (64 * lineNo m.addr ≤ a ∧ a < 64 * lineNo m.addr + 64) → Mem.read s'.mem a = Mem.read s.mem a))) ∧
  (∀ (s : State) (r : MsResp), s.portsUp = true → r.id ∈ s.flt.overdue → exec (.memoryResponse r) s =
      .next (State.unpark { s with
        flt := { s.flt with overdue := s.flt.overdue.filter (· != r.id) }
        gate := { s.gate with corrected := if r.err = 1 then s.gate.corrected + 1 else s.gate.corrected } })) ∧
  (∀ (s : State) (m : MqReq) (e : Entry) (i : Fin 64) (c p : Nat), s.portsUp = true →
      s.gate.mq.find? (fun x => x.kind == .readOld && x.nqId == m.nqId) = some m → m.panel = some (c, p) →
      s.entry c = some e → s.tenantOf e.tenant = some i → m.tag = e.tenant → s.flt.mode = .normal → e.state = .active →
      (s.ten i).commit.isOpen = true → (s.ten i).commit.window = false →
      (e.cls = .direct ∧ s.hawkRoom e.slot.val 1 1 = true) ∨
        (e.cls = .replica ∧ (e.sgrp = 0 ∨ (s.ten i).sweep.state = .idle ∨ (s.ten i).sweep.state = .held ∨ m.due = true)) →
      exec (.directWriteComplete m.nqId) s = .next
        (State.mergeWrite { s with gate := { s.gate with mq := s.gate.mq.filter fun x => x.id != m.id } }
          m.nqId (m.line % 64) m.be m.data c p e i).unpark) ∧
  (∀ s : State,
      (s.gate.ready = false ∨ s.flt.mode ≠ .normal → exec .foldWalkerPass s = .next s) ∧
      (s.gate.ready = true → s.flt.mode = .normal → ∃ s' : State,
        exec .foldWalkerPass s =
          .next (tenantIdxs.foldl (fun s i => if (s.ten i).commit.openDue then (s.tryOpen i).follow i else s) s') ∧
        s' = { s with mem := (s.liveRecords.foldl (fun s w => s.foldWord w) s).mem, tenants := s'.tenants } ∧
        ∀ i : Fin 64, s'.ten i = { s.ten i with commit := { (s.ten i).commit with unfolded := 0 } }))

/-! ## The endpoint -/

/-- Injection and throttle. Of the frames that may leave on the channels whose EO_READY bit is high, a CONTROL frame
within the budget goes first; then, while no route change is under way and the caps and the ceiling let one begin, a
copy marked in a route change; then a SKIM or a BADGER frame, the round robin choosing where both may; each leaves its
channel as its beats. An endpoint that is not up sends nothing. A new throttle level governs from 100 ns after the
change, and the level in force until then. Where the manual leaves a point open, the choices of log entries 9, 30, 78,
111, 112, 166, 176 and 199 hold. -/
def Obligations.InjectionRowsComplete : Prop :=
  (∀ (s : State) (ready : BitVec 4) (now : BitVec 64),
      (s.power.released = false → exec (.frameInject ⟨ready, now⟩) s = .next s) ∧
      (s.power.released = true → (s.at_ now).endpointUp = false → exec (.frameInject ⟨ready, now⟩) s = .next (s.at_ now)) ∧
      ((s.at_ now).endpointUp = true →
        (let s1 := s.at_ now
         let ctrlGo : Prop := ready.getLsbD 2 = true ∧ s1.ctrlRecent < s1.cfg.glob.ctrlRate * 1000
         let s2 : State := { s1 with ep := { s1.ep with
           defSkim := if s1.ep.skimQ.isEmpty then 0 else s1.ep.defSkim
           defBadger := if s1.ep.badgerQ.isEmpty then 0 else s1.ep.defBadger } }
         let bulk : Prop := s1.ep.route = .idle ∧ s1.ep.bulkFree ≤ s1.fineNow
         let skimGo : Prop := bulk ∧ ready.getLsbD 0 = true ∧ s1.ep.skimFree ≤ s1.fineNow
         let badgerGo : Prop := bulk ∧ ready.getLsbD 1 = true ∧ s1.ep.badgerFree ≤ s1.fineNow
         (∀ f : OutFrame, s1.headOf s1.ep.ctrlQ = some f → ctrlGo →
           ∃ t : State, exec (.frameInject ⟨ready, now⟩) s = .next t ∧ t = { s1 with ep := t.ep } ∧
             t.ep = { s1.ep with ctrlQ := s1.ep.ctrlQ.erase f, eo := s1.ep.eo ++ f.beats s1.self, syncOwed := t.ep.syncOwed
                                 ctrlSent := t.ep.ctrlSent, bulkFree := t.ep.bulkFree }) ∧
         (s1.headOf s1.ep.ctrlQ = none ∨ ¬ ctrlGo →
           (∀ f : OutFrame, s1.headOf s1.ep.resumeQ = some f →
             (skimGo → exec (.frameInject ⟨ready, now⟩) s = .next (s2.injectBulk true f)) ∧
             (¬ skimGo → exec (.frameInject ⟨ready, now⟩) s = .next s2)) ∧
           (s1.headOf s1.ep.resumeQ = none →
             (∀ f : OutFrame, s1.headOf s1.ep.skimQ = some f → skimGo → s1.headOf s1.ep.badgerQ = none ∨ ¬ badgerGo →
               exec (.frameInject ⟨ready, now⟩) s = .next (s2.injectBulk true f)) ∧
             (∀ f : OutFrame, s1.headOf s1.ep.badgerQ = some f → badgerGo → s1.headOf s1.ep.skimQ = none ∨ ¬ skimGo →
               exec (.frameInject ⟨ready, now⟩) s = .next (s2.injectBulk false f)) ∧
             (∀ f g : OutFrame, s1.headOf s1.ep.skimQ = some f → skimGo → s1.headOf s1.ep.badgerQ = some g → badgerGo →
               exec (.frameInject ⟨ready, now⟩) s = .next (s2.roundRobin f g)) ∧
             (s1.headOf s1.ep.skimQ = none ∨ ¬ skimGo → s1.headOf s1.ep.badgerQ = none ∨ ¬ badgerGo →
               exec (.frameInject ⟨ready, now⟩) s = .next s2)))))) ∧
  (∀ (s : State) (f g : OutFrame),
      (s.injectBulk true f).ep.eo = s.ep.eo ++ f.beats s.self ∧ (s.injectBulk false f).ep.eo = s.ep.eo ++ f.beats s.self ∧
      (s.injectBulk false f).ep.badgerQ = s.ep.badgerQ.erase f ∧
      (f ∈ s.ep.resumeQ → (s.injectBulk true f).ep.resumeQ = s.ep.resumeQ.erase f ∧ (s.injectBulk true f).ep.skimQ = s.ep.skimQ) ∧
      (f ∉ s.ep.resumeQ → (s.injectBulk true f).ep.resumeQ = s.ep.resumeQ ∧ (s.injectBulk true f).ep.skimQ = s.ep.skimQ.erase f) ∧
      ((s.roundRobin f g).ep.eo = s.ep.eo ++ f.beats s.self ∨ (s.roundRobin f g).ep.eo = s.ep.eo ++ g.beats s.self)) ∧
  (∀ (s : State) (level : BitVec 4) (now : BitVec 64),
      (s.portsUp = false → exec (.htLevelChange level now) s = .next s) ∧
      (s.portsUp = true → ∃ t : State, exec (.htLevelChange level now) s = .next t ∧
        t = { s.at_ now with ep := { s.ep with ht := level, htOld := t.ep.htOld, htNext := t.ep.htNext } } ∧
        t.ep.htNext = (s.ep.htNext.filter fun p => decide ((s.at_ now).time.now < p.2)) ++ [(level, (s.at_ now).time.now + 100)] ∧
        ((s.at_ now).time.now.toNat + 100 < 2 ^ 64 → t.throttle = (s.at_ now).throttle)))

/-- Group setup. A wanted group whose channels have drained, one whose confirmation is late and one whose setup failed
are each written under the next sequence number, as the 16 bytes of the setup head and the destinations, once EO_READY
of the setup channel is high; a handle in no such state, and an endpoint that may not send, change nothing. The
confirmation of the outstanding number makes the group usable, or removes it where it was being deleted; one of another
status makes its setup fail with event 0x4C; one that matches no setup, or is not for this instance, counts under 0x4D;
one that fails check 1 or 2 raises 0x41 or 0x42. Where the manual leaves a point open, the choices of log entries 9, 30,
109, 110, 112, 124, 165, 176 and 199 hold. -/
def Obligations.GroupSetupRowsComplete : Prop :=
  (∀ (s : State) (h : BitVec 10) (ready : Bool) (g : Group),
      (let go : Prop := ready = true ∧ s.endpointUp = true ∧ s.mayInject = true
       (s.groupIn h.toNat (fun x => x == .wanted) = some g →
         (go → s.groupDrained g = true → exec (.groupSetupWrite ⟨h, ready⟩) s = .next (s.setupFrame g)) ∧
         (¬ go ∨ s.groupDrained g = false → exec (.groupSetupWrite ⟨h, ready⟩) s = .next s)) ∧
       (s.groupIn h.toNat GroupSetup.waits = some g →
         (go → exec (.groupSetupResend ⟨h, ready⟩) s = .next ((s.reach g.since 100000).setupFrame g)) ∧
         (¬ go → exec (.groupSetupResend ⟨h, ready⟩) s = .next s)) ∧
       (s.groupIn h.toNat (fun x => x == .failed) = some g →
         (go → exec (.groupSetupRetry ⟨h, ready⟩) s = .next ((s.reach g.since 1000000).setupFrame g)) ∧
         (¬ go → exec (.groupSetupRetry ⟨h, ready⟩) s = .next s)) ∧
       (s.groupIn h.toNat (fun x => x == .wanted) = none → exec (.groupSetupWrite ⟨h, ready⟩) s = .next s) ∧
       (s.groupIn h.toNat GroupSetup.waits = none → exec (.groupSetupResend ⟨h, ready⟩) s = .next s) ∧
       (s.groupIn h.toNat (fun x => x == .failed) = none → exec (.groupSetupRetry ⟨h, ready⟩) s = .next s))) ∧
  (∀ (s : State) (g : Group), ∃ t : State, s.setupFrame g = t ∧ t = { s with ep := t.ep } ∧
      (let dests := if g.deleting then [] else g.members
       let bytes := leBytes 2 (g.handle % 1024) ++ [if g.deleting then 2 else 1] ++ leBytes 1 (dests.length % 64) ++
         leBytes 4 s.ep.setupSeq.toNat ++ List.replicate 8 0 ++ dests.flatMap fun a => leBytes 4 a.toNat
       t.ep = { s.ep with setupSeq := s.ep.setupSeq + 1, groups := t.ep.groups
                          setupOut := s.ep.setupOut ++ beatsOf .setup false 0 false bytes }) ∧
      t.ep.groups.length = s.ep.groups.length ∧
      (∀ x ∈ t.ep.groups, x.handle = g.handle → x.setup = .outstanding s.ep.setupSeq ∧ x.since = s.time.now) ∧
      (∀ x ∈ s.ep.groups, x.handle ≠ g.handle → x ∈ t.ep.groups)) ∧
  (∀ (s : State) (f : Rx), s.portsUp = true →
      (let s1 := s.at_ f.time
       let good : Prop := f.ver = 3 ∧ f.typ = 0x70 ∧ tField f 0 8 = 8 ∧ f.mark = false ∧ f.elided = false ∧ f.rsv1 = false ∧
         f.rsv2 = 0 ∧ tField f 18 2 ≠ 3 ∧ tField f 52 12 = 0
       let mine (g : Group) : Prop := s1.groupIn (tField f 8 10)
         (fun x => x == .outstanding (BitVec.ofNat 32 (tField f 20 32))) = some g
       (s1.takesFrame f = false → exec (.groupConfirm f) s = .next (s1.count 0x4D)) ∧
       (s1.takesFrame f = true → f.eiErr = true ∨ f.crc ≠ frameCrc f → exec (.groupConfirm f) s =
         .next (s1.raise { code := 0x41, tenant := f.tenant, detail := f.src.toNat })) ∧
       (s1.takesFrame f = true → f.eiErr = false → f.crc = frameCrc f →
         (¬ good → exec (.groupConfirm f) s = .next (s1.raise { code := 0x42, tenant := f.tenant, detail := f.src.toNat })) ∧
         (good → (∀ g : Group, ¬ mine g) ∨ f.src ≠ s1.self → exec (.groupConfirm f) s = .next (s1.count 0x4D)) ∧
         (∀ g : Group, good → mine g → f.src = s1.self →
           (tField f 18 2 = 0 → ∃ t : State, exec (.groupConfirm f) s = .next t ∧
             t = { s1 with ep := { s1.ep with groups := t.ep.groups } } ∧
             (g.deleting = true → t.ep.groups = s.ep.groups.filter fun x => x.handle != g.handle) ∧
             (g.deleting = false → t.ep.groups =
               s.ep.groups.map fun x => if x.handle = g.handle then { x with setup := .confirmed } else x)) ∧
           (tField f 18 2 ≠ 0 → exec (.groupConfirm f) s = .next (State.raise { s1 with ep := { s1.ep with
             groups := s.ep.groups.map fun x => if x.handle = g.handle then { x with setup := .failed, since := s1.time.now } else x } }
             { code := 0x4C, detail := g.handle }))))))

/-- The route sequence. REQ in IDLE begins the drain, during it changes nothing, and in DRAINED starts the wait anew; the
drain ends once nothing is outstanding, or at its timeout with every SKIM frame still unacknowledged counted and listed
as marked, and either end counts 0x4F; RESUME in DRAINED and the wait's end, which raises 0x4B, go back to IDLE; there
the frames waiting before stay where they were, and the copy of a marked frame that still owes its acknowledgement is
put before them. RESUME while the drain is under way, and either command where the window does not take it, is refused.
A timer that is not running changes nothing. Where the manual leaves a point open, the choices of log entries 9, 30,
113, 158, 161, 165 and 166 hold. -/
def Obligations.RouteRowsComplete : Prop :=
  (∀ (s : State) (a : Acc), s.portsUp = true →
      (let taken : Prop := s.windowOpen 0x5028 = true ∧ fromSystem a = true
       let answered (e : EpS) : State := { s with ep := e, gate := { s.gate with
         ns := s.gate.ns ++ [{ id := a.id, status := .ok, cause := 0, data := 0 }] } }
       (¬ taken → exec (.routeReq a) s = .next (s.refuse a.id 0x5028) ∧ exec (.routeResume a) s = .next (s.refuse a.id 0x5028)) ∧
       (taken → s.ep.route = .idle →
         exec (.routeReq a) s = .next (answered { s.ep with route := .draining, auto := false, drainFrom := s.time.now }) ∧
         exec (.routeResume a) s = .next (answered s.ep)) ∧
       (taken → s.ep.route = .draining →
         exec (.routeReq a) s = .next (answered s.ep) ∧ exec (.routeResume a) s = .next (s.refuse a.id 0x5028)) ∧
       (taken → s.ep.route = .drained →
         exec (.routeReq a) s = .next (answered { s.ep with resumeFrom := s.time.now }) ∧
         exec (.routeResume a) s = .next ((answered s.ep).routeIdle false)))) ∧
  (∀ s : State,
      (s.ep.route = .draining → s.skimOutstanding = [] → s.badgerOutstanding = false →
        ∃ t : State, exec .routeDrained s = .next t ∧
          t = { s with flt := { s.flt with counters := t.flt.counters }
                       ep := { s.ep with route := .drained, resumeFrom := s.time.now, marked := 0, markedList := [] } } ∧
          t.counter 0x4F = s.counter 0x4F + 1 ∧ ∀ k : Nat, k ≠ 0x4F → t.counter k = s.counter k) ∧
      (s.ep.route ≠ .draining ∨ s.skimOutstanding ≠ [] ∨ s.badgerOutstanding = true → exec .routeDrained s = .next s) ∧
      (s.ep.route = .draining →
        ∃ t : State, exec .routeDrainTimeout s = .next t ∧
          (let s1 := s.reach s.ep.drainFrom (s.cfg.glob.drainTimeout * 1000)
           t = { s1 with flt := { s.flt with counters := t.flt.counters }
                         ep := { s.ep with route := .drained, resumeFrom := s1.time.now
                                           marked := BitVec.ofNat 16 s.skimOutstanding.length, markedList := t.ep.markedList } }) ∧
          (∀ m : Nat × Nat × Addr, m ∈ t.ep.markedList ↔
            ∃ r ∈ s.skimOutstanding, ∃ o ∈ r.owed, m = (r.slot.val, r.seq.getD 0, o.addr)) ∧
          t.counter 0x4F = s.counter 0x4F + 1 ∧ ∀ k : Nat, k ≠ 0x4F → t.counter k = s.counter k) ∧
      (s.ep.route ≠ .draining → exec .routeDrainTimeout s = .next s) ∧
      (s.ep.route = .drained → exec .resumeWaitExpiry s =
        .next (((s.reach s.ep.resumeFrom (s.cfg.glob.resumeWait * 1000000)).routeIdle true).raise { code := 0x4B })) ∧
      (s.ep.route ≠ .drained → exec .resumeWaitExpiry s = .next s)) ∧
  (∀ (s : State) (auto : Bool),
      (s.ep.markedList = [] → s.routeIdle auto = { s with ep := { s.ep with route := .idle, auto := auto } }) ∧
      (∀ (k n : Nat) (i : Fin 64) (r : HawkRec) (o : Owed), s.ep.markedList = [(k, n, o.addr)] → s.slotTenant k = some i →
        s.hawk.recs.find? (fun r => r.slot.val == k && r.st == .out && r.seq == some n) = some r →
        r.owed.find? (fun x => x.addr == o.addr) = some o → o.tries < 16 →
        s.mayForm (s.hawkFrame i r (.member o.addr) true) = true →
        s.routeIdle auto = { s with
          hawk := { s.hawk with recs := s.hawk.recs.map fun x =>
            if x = r then { r with owed := r.owed.map fun y => if y.addr = o.addr then { o with tries := o.tries + 1 } else y } else x }
          ep := { s.ep with route := .idle, auto := auto, markedList := []
                            resumeQ := s.ep.resumeQ ++ [s.hawkFrame i r (.member o.addr) true] } }))

/-! ## The skim path -/

/-- A retransmission deadline that passes while the addressee still owes the acknowledgement and no copy for it waits to
be sent: a unicast copy with RETX set is formed; the addressee that has left sixteen of them unacknowledged is reported
with event 0x4A and as unreachable. The wait is RTO_SKIM and doubles with each copy, up to eight times that. Where the
endpoint may not send, where a copy still waits, and where no such frame owes the address, nothing changes. Where the
manual leaves a point open, the choices of log entries 9, 30, 79 and 166 hold. -/
def Obligations.RetransmissionRowCompletes : Prop :=
  (∀ (s : State) (slot : Nat) (seq : BitVec 32) (peer : Addr),
      (let hit (r : HawkRec) : Bool := r.slot.val == slot && r.st == .out && r.seq == some seq.toNat && r.owed.any fun o => o.addr == peer
       (∀ (i : Fin 64) (r : HawkRec) (o : Owed), s.slotTenant slot = some i → s.hawk.recs.find? hit = some r →
         r.owed.find? (fun o => o.addr == peer) = some o → s.endpointUp = true → s.mayInject = true → s.copyWaits r peer = false →
         (let s1 : State := { s.at_ o.due with hawk := { s.hawk with recs := s.hawk.recs.map fun x =>
            if x = r then { r with owed := r.owed.map fun y => if y.addr = peer then { o with tries := o.tries + 1 } else y } else x } }
          (o.tries ≠ 16 → exec (.skimRetransmitTimeout slot seq peer) s = .next (s1.sendCopy i r peer)) ∧
          (o.tries = 16 → exec (.skimRetransmitTimeout slot seq peer) s =
            .next (((s1.sendCopy i r peer).raiseT i 0x4A peer.toNat).unreachable i peer)))) ∧
       (s.slotTenant slot = none ∨ s.hawk.recs.find? hit = none ∨ s.endpointUp = false ∨ s.mayInject = false →
         exec (.skimRetransmitTimeout slot seq peer) s = .next s) ∧
       (∀ r : HawkRec, s.hawk.recs.find? hit = some r → s.copyWaits r peer = true →
         exec (.skimRetransmitTimeout slot seq peer) s = .next s))) ∧
  (∀ s : State, s.waitNs 0 = s.cfg.glob.rtoSkim * 1000 ∧ ∀ n : Nat, s.waitNs (n + 1) = min (2 * s.waitNs n) (8 * s.waitNs 0))

/-- The frames of the skim path at a receiver, once they pass the checks of R75. A delta of a source that is neither
broken nor closed below it is accumulated into the holder's parity and marked in the ring where it is new, and counted
under 0xAC where it is not; a closed source's later number raises 0xA2. An acknowledgement that names nothing unsent
releases what it covers, one that does raises 0xA2. A marker closes its source entry at its count, unless a number above
it has come, which raises 0xA2 and withholds the vote, or it was there already. Each acknowledgement owed is formed from
state. Where the manual leaves a point open, the choices of log entries 9, 30, 36, 40, 65, 77, 81, 83, 147, 165 and 184
hold. -/
def Obligations.SkimFrameRowsComplete : Prop :=
  (∀ (s : State) (f : Rx) (flt : ReadFault) (i : Fin 64) (h : HoldAt) (e : SrcEntry), frameGood s f 0x01 i →
      (f.t.getLsbD 59 = true → tField f 55 4 = 0) → deltaLenOk f = true → (s.at_ f.time).inOpenAttempt i f = true →
      (s.at_ f.time).holdAt i f.src (tField f 60 4) (tField f 32 23) = some h →
      (s.at_ f.time).source h.slot h.rank = some e →
      (let s1 := s.at_ f.time
       let n := tField f 0 32
       let e' := e.settle (n - 28)
       let new : Prop := e'.cum ≤ n ∧ e'.ring.getLsbD (n % 2048) = false
       let raw := if f.elided then expand (if f.t.getLsbD 59 then 4096 else 256) f.payload else f.payload
       let q := h.product (s1.slot h.slot).sett (tField f 55 4) (f.t.getLsbD 59) raw
       (e.broken = true → exec (.skimDelta f flt) s = .next s1) ∧
       (e.broken = false → e.closed = true → e.count < n →
         exec (.skimDelta f flt) s = .next (s1.raise { code := 0xA2, tenant := f.tenant, detail := f.src.toNat })) ∧
       (e.broken = false → e.closed = false ∨ n ≤ e.count →
         (¬ new → exec (.skimDelta f flt) s =
           .next ((s1.count 0xAC).updSource h.slot h.rank fun _ => { e' with ackDue := true })) ∧
         (new → exec (.skimDelta f flt) s =
           .next (((((s1.accumulate i h.slot h.e q.1 q.2 flt).updSource h.slot h.rank fun _ =>
             { ({ e' with ring := e'.ring ||| ringBit n, applied := e'.applied + 1
                          high := some (max n (e'.high.getD 0)) } : SrcEntry).advance 2048 with ackDue := true }).countN
             0x1D (q.2.length / 256)).follow i)))))) ∧
  (∀ (s : State) (f : Rx) (i : Fin 64), frameGood s f 0x02 i → f.len = 0 → (s.at_ f.time).inOpenAttempt i f = true →
      (s.slot (tField f 60 4)).kind = .sett → (s.at_ f.time).knownIn i (tField f 60 4) f.src = true →
      (ackBeyond (s.slot (tField f 60 4)).next (tField f 0 32) (tField f 32 28) = true → exec (.skimAck f) s =
        .next ((s.at_ f.time).raise { code := 0xA2, tenant := f.tenant, detail := f.src.toNat })) ∧
      (ackBeyond (s.slot (tField f 60 4)).next (tField f 0 32) (tField f 32 28) = false →
        exec (.skimAck f) s = .next (((s.at_ f.time).releaseFor f.src fun r =>
          r.slot.val == tField f 60 4 && r.st == .out &&
            match r.seq with
            | some n => decide (n < tField f 0 32) ||
                (decide (tField f 0 32 < n) && (tField f 32 28).testBit (n - tField f 0 32 - 1))
            | none => false).follow i))) ∧
  (∀ (s : State) (f : Rx) (i : Fin 64) (k r : Nat) (e : SrcEntry), frameGood s f 0x03 i → f.len = 0 →
      tField f 32 28 = 0 → (s.at_ f.time).inOpenAttempt i f = true →
      (s.at_ f.time).slotBySender i f.src (tField f 60 4) = some k → (s.slot k).rankOf f.src = some r →
      (s.at_ f.time).source k r = some e →
      (let s1 := s.at_ f.time
       let n := tField f 0 32
       let e' := e.settle n
       let new : Prop := e'.cum ≤ n ∧ e'.ring.getLsbD (n % 2048) = false
       let late : Prop := ∃ x : Nat, e.high = some x ∧ n < x
       let violation := s1.raise { code := 0xA2, tenant := f.tenant, detail := f.src.toNat }
       (e.broken = true → exec (.epochMark f) s = .next s1) ∧
       (e.broken = false → e.closed = true → e.count < n → exec (.epochMark f) s = .next violation) ∧
       (e.broken = false → e.closed = false ∨ n ≤ e.count →
         (late → exec (.epochMark f) s = .next ((violation.withhold i 0x0D).follow i)) ∧
         (¬ late → ¬ new → exec (.epochMark f) s =
           .next ((s1.count 0xAC).updSource k r fun _ => { e' with ackDue := true })) ∧
         (¬ late → new → exec (.epochMark f) s = .next ((s1.updSource k r fun _ =>
           { ({ e' with ring := e'.ring ||| ringBit n } : SrcEntry).advance 2048 with
             ackDue := true, count := n, closed := true }).follow i)))))

/-! ## Step epochs and commit -/

/-- The commit frames at a receiver, once they pass the checks of R75. A vote of the open attempt is credited to the
child it comes from, at the level the manager holds, as far as EXPECT, and is event 0xB1 above it or from no child; a
PREP of the open attempt is answered with the count of its level, from another chip by a reply and inside the chip over
the lath; both are answered with the decision where the attempt is decided, the vote counted under 0xBA; a decision is
judged, one with another member count first raising 0xB6; a request is taken. A fenced member answers no vote, no PREP
and no request. Where the manual leaves a point open, the choices of log entries 9, 22, 29, 30, 36, 65, 84, 120, 121,
122, 146, 147, 164, 165, 181, 182 and 201 hold. -/
def Obligations.CommitFrameRowsComplete : Prop :=
  (∀ (s : State) (f : Rx) (i : Fin 64), frameGood s f 0x11 i → f.len = 0 → tField f 24 4 ≤ 3 → tField f 28 36 = 0 →
      (s.at_ f.time).voteOk i f = true →
      (let s1 := s.at_ f.time
       let n := tField f 0 24
       let credit (job : Bool) (g : Nat) : Credit := { (s.ten i).creditOf job g with ready := n, answered := true }
       let bad := s1.raise { code := 0xB1, tenant := f.tenant, detail := f.src.toNat }
       ((s.ten i).fox.self = .fenced → exec (.commitVote f) s = .next s1) ∧
       ((s.ten i).fox.self ≠ .fenced → s1.attemptOf i f = .opened →
         (∀ g : Nat, tField f 24 4 = 1 → (s.ten i).childOf false f.src = some g → s1.isPodManager i = true →
           exec (.commitVote f) s = .next ((s1.credit i f false g (credit false g)).follow i)) ∧
         (∀ g : Nat, tField f 24 4 = 2 → (s.ten i).childOf true f.src = some g → s1.isJobManager i = true →
           exec (.commitVote f) s = .next ((s1.credit i f true g (credit true g)).follow i)) ∧
         (tField f 24 4 = 3 ∨ (tField f 24 4 = 1 ∧ (s.ten i).childOf false f.src = none) ∨
             (tField f 24 4 = 2 ∧ (s.ten i).childOf true f.src = none) ∨
             (tField f 24 4 = 0 ∧ (s.ten i).targetChild f.src = none) →
           exec (.commitVote f) s = .next (bad.follow i)) ∧
         (∀ g : Nat, tField f 24 4 = 0 → (s.ten i).targetChild f.src = some g → s1.isPodManager i = true → n = 1 →
           exec (.commitVote f) s = .next ((s1.credit i f false g { (s.ten i).creditOf false g with
             targets := addOnce f.src ((s.ten i).creditOf false g).targets
             heard := addOnce f.src ((s.ten i).creditOf false g).heard }).follow i))) ∧
       ((s.ten i).fox.self ≠ .fenced → s1.attemptOf i f ≠ .opened → exec (.commitVote f) s =
         .next ((s1.answerDecided i f (if tField f 24 4 = 2 then 3 else 2)).count 0xBA)))) ∧
  (∀ (s : State) (i : Fin 64) (f : Rx) (job : Bool) (g : Nat) (c : Credit),
      (let value := if job then (s.setCredit i c).jobCredit i g else (s.setCredit i c).podCredit i g
       ((s.ten i).expect job g < value →
         s.credit i f job g c = s.raise { code := 0xB1, tenant := f.tenant, detail := f.src.toNat }) ∧
       (value < (s.ten i).expect job g → s.credit i f job g c = s.setCredit i c))) ∧
  (∀ (s : State) (f : Rx) (i : Fin 64), frameGood s f 0x10 i → f.len = 0 → 2 ≤ tField f 0 4 → tField f 0 4 ≤ 3 →
      tField f 4 60 = 0 → (s.ten i).awaits = true ∨ (s.at_ f.time).voteOk i f = true →
      (let s1 := s.at_ f.time
       let target := (s.ten i).fox.isTarget s.self
       let own : Nat := if (s.ten i).commit.vstate = .ready then 1 else 0
       ((s.ten i).fox.self = .fenced → exec (.commitPrep f) s = .next s1) ∧
       ((s.ten i).fox.self ≠ .fenced → (s.ten i).awaits = true →
         exec (.commitPrep f) s = .next (s1.answerCountVote i f 0 0)) ∧
       ((s.ten i).fox.self ≠ .fenced → (s.ten i).awaits = false → s1.attemptOf i f = .opened →
         (tField f 0 4 = 3 → s1.isPodManager i = true →
           exec (.commitPrep f) s = .next (s1.answerCountVote i f 2 (s1.podSum i))) ∧
         (tField f 0 4 = 3 → s1.isPodManager i = false → exec (.commitPrep f) s = .next s1) ∧
         (tField f 0 4 = 2 → target = false → exec (.commitPrep f) s = .next (s1.answerCountVote i f 1 (s1.chipCount i))) ∧
         (tField f 0 4 = 2 → target = true → s1.chipKids i = [] →
           exec (.commitPrep f) s = .next (s1.answerCountVote i f 0 own))) ∧
       ((s.ten i).fox.self ≠ .fenced → (s.ten i).awaits = false →
         (s1.attemptOf i f = .committed → exec (.commitPrep f) s = .next (s1.sendReply (s1.ctrlTo i f.src 0x12 f.epoch.toNat f.tr
           ((s.ten i).commit.tree.members % 2 ^ 24 + (tField f 0 4 - 1) * 2 ^ 24)))) ∧
         (∀ r : Byte, s1.attemptOf i f = .aborted r → exec (.commitPrep f) s = .next (s1.sendReply
           (s1.ctrlTo i f.src 0x13 f.epoch.toNat f.tr (r.toNat + (tField f 0 4 - 1) * 256 + 4096))))))) ∧
  (∀ (s : State) (i : Fin 64) (f : Rx) (level n : Nat),
      (f.src.chip ≠ s.self.chip → s.answerCountVote i f level n =
        s.sendReply (s.ctrlTo i f.src 0x11 f.epoch.toNat f.tr (n % 2 ^ 24 + level * 2 ^ 24))) ∧
      (f.src.chip = s.self.chip → level = 2 → s.answerCountVote i f level n = { s with lath := { s.lath with
        sent := s.lath.sent ++ [.podVote s.power.inst i.val n f.epoch.toNat f.tr] } }) ∧
      (f.src.chip = s.self.chip → level ≠ 2 → s.answerCountVote i f level n = s)) ∧
  (∀ (s : State) (f : Rx) (i : Fin 64), frameGood s f 0x12 i → f.len = 0 → tField f 24 4 ≤ 3 → tField f 28 36 = 0 →
      (s.at_ f.time).decideOk i f = true →
      (let s1 := s.at_ f.time
       let other : Prop := ((s.ten i).awaits = true ∨ s1.attemptOf i f = .opened) ∧ tField f 0 24 ≠ (s.ten i).commit.tree.members
       let s2 := s1.raise { code := 0xB6, tenant := f.tenant, detail := f.src.toNat }
       (¬ other → exec (.commitDecide f) s = .next ((s1.decision i (.commit f.epoch.toNat f.tr)
         (s1.fromChild i f (tField f 24 4))).follow i)) ∧
       (other → exec (.commitDecide f) s = .next ((s2.decision i (.commit f.epoch.toNat f.tr)
         (s2.fromChild i f (tField f 24 4))).follow i)))) ∧
  (∀ (s : State) (f : Rx) (i : Fin 64), frameGood s f 0x13 i → f.len = 0 → reasonOk (tField f 0 8) = true →
      tField f 8 4 ≤ 3 → tField f 13 51 = 0 →
      (let s1 := s.at_ f.time
       let r := BitVec.ofNat 8 (tField f 0 8)
       let echo := s1.fromChild i f (tField f 8 4)
       (tField f 12 1 = 1 → s1.abortOk i f = true →
         (echo = false ∨ (s.ten i).commit.jobM ≠ .solicit → exec (.stepAbortDecision f) s =
           .next ((s1.decision i (.abort f.epoch.toNat f.tr r) echo).follow i)) ∧
         (echo = true → (s.ten i).commit.jobM = .solicit → exec (.stepAbortDecision f) s =
           .next (((s1.heardPods i (· == f.src)).decision i (.abort f.epoch.toNat f.tr r) echo).follow i))) ∧
       (tField f 12 1 = 0 →
         ((s.ten i).fox.self = .fenced → exec (.stepAbortRequest f) s = .next s1) ∧
         ((s.ten i).fox.self ≠ .fenced → exec (.stepAbortRequest f) s = .next ((s1.takeRequest i f r).follow i)))))

/-- A decision as a plain member takes it, which is no manager of the job. The commit of its open attempt is relayed and
the roles' collection cleared; then a READY member applies it, and one that is not READY raises event 0xB2 to the dust
sheet and applies nothing. An abort of the open try is relayed and applied. The last committed attempt's commit and an
earlier try's abort change nothing, and an abort of an epoch that is past raises 0xB9. Where the manual leaves a point
open, the choices of log entries 22, 146 and 195 hold. -/
def Obligations.DecisionTakenByMember : Prop :=
  ∀ (s : State) (i : Fin 64) (e : Nat) (tr : BitVec 7), (s.ten i).fox.self ≠ .fenced → (s.ten i).awaits = false →
    (s.ten i).commit.vstate ≠ .none → s.isJobManager i = false →
    (e = (s.ten i).commit.openEpoch → tr = (s.ten i).commit.openTry →
      (let s1 := ((s.relay i (.commit e tr) false).noteLates i).updCommit i CommitS.cleared
       let v := (((s.relay i (.commit e tr) false).noteLates i).ten i).commit.vstate
       s1.leaver i = false → s1.follower i = false →
       (v ≠ .ready → s.decision i (.commit e tr) false = s1.raise { code := 0xB2, level := 3, tenant := s1.tagOf i }) ∧
       (v = .ready → (s1.ten i).rs.sealing = false →
         (let s2 := ((s1.applyCommit i).noteLimit i).badgerCommit i
          ((s2.ten i).rs.state ≠ .moving → s.decision i (.commit e tr) false = s2) ∧
            ((s2.ten i).rs.state = .moving → s.decision i (.commit e tr) false = s2.enterBoundary i))) ∧
       (v = .ready → (s1.ten i).rs.sealing = true →
         s.decision i (.commit e tr) false = (((s1.applySeal i).endRender i).badgerCommit i).targetSealed i))) ∧
    (e = (s.ten i).commit.committed → e ≠ (s.ten i).commit.openEpoch → tr = (s.ten i).commit.committedTry →
      s.decision i (.commit e tr) false = s) ∧
    (∀ r : Byte, e = (s.ten i).commit.openEpoch → tr = (s.ten i).commit.openTry →
      (let s1 := (s.relay i (.abort e tr r) false).updCommit i CommitS.cleared
       s1.follower i = false →
       ((s1.ten i).rs.sealing = false → s.decision i (.abort e tr r) false = (s1.applyAbort i tr r).oweAdvance i) ∧
       ((s1.ten i).rs.sealing = true → s.decision i (.abort e tr r) false = ((s1.abortSeal i).endRender i).oweAdvance i))) ∧
    (∀ r : Byte, e = (s.ten i).commit.openEpoch → tr + 1 = (s.ten i).commit.openTry →
      s.decision i (.abort e tr r) false = s) ∧
    (∀ r : Byte, e ≠ (s.ten i).commit.openEpoch → e ≤ (s.ten i).commit.committed →
      s.decision i (.abort e tr r) false = s.raiseT i 0xB9)

/-- The rows of the vote path. A member for which every condition of R215 holds gives its vote: READY on the lath, its
commit state READY, its sweep, intake and epoch and every other tenant as they were. What VOTE_REPEAT repeats goes
again once that time is over: the count of a pod or chip manager in SENT, a solicitation to the children that have not
answered, a WITHHELD member's and a target's request, a report. ABORT_WAIT of the open attempt ends it at the job
manager with REASON 0x02 and event 0xB5, or is held while it solicits; a software abort sets AUTO_ABORT and ends it
with REASON 0x01, and is refused elsewhere than at the acting job manager. Where a row does not apply nothing changes.
Where the manual leaves a point open, the choices of log entries 9, 16, 22, 30, 40, 66, 123, 145, 148, 161, 166, 179,
182, 195 and 201 hold. -/
def Obligations.VoteRowsComplete : Prop :=
  (∀ (s : State) (i : Fin 64) (now : BitVec 64),
      (let go : Prop := s.portsUp = true ∧ (s.ten i).env ≠ none ∧ s.readyNow i = true ∧ s.commits i = true
       (go → exec (.voteReady i now) s = .next (((s.at_ now).giveVote i).follow i)) ∧
       (¬ go → exec (.voteReady i now) s = .next s))) ∧
  (∀ (s : State) (i : Fin 64), ((s.giveVote i).ten i).commit.vstate = .ready ∧
      ((s.giveVote i).ten i).commit.readyAt = s.time.now ∧
      LathMsg.vote s.power.inst i.val true (s.ten i).commit.openEpoch (s.ten i).commit.openTry ∈ (s.giveVote i).lath.sent ∧
      s.giveVote i = { s with tenants := (s.giveVote i).tenants, lath := (s.giveVote i).lath, ep := (s.giveVote i).ep } ∧
      ((s.giveVote i).ten i).sweep = (s.ten i).sweep ∧ ((s.giveVote i).ten i).intake = (s.ten i).intake ∧
      ((s.giveVote i).ten i).commit.openEpoch = (s.ten i).commit.openEpoch ∧
      ∀ j : Fin 64, j ≠ i → (s.giveVote i).ten j = s.ten j) ∧
  (∀ (s : State) (i : Fin 64) (what : RepeatKind),
      s.portsUp = false ∨ (s.ten i).env = none ∨ (s.ten i).fox.self = .fenced ∨ s.mayInject = false →
      exec (.voteRepeatExpiry i what) s = .next s) ∧
  (∀ (s : State) (i : Fin 64), s.portsUp = true → (s.ten i).env ≠ none → (s.ten i).fox.self ≠ .fenced → s.mayInject = true →
      (let c := (s.ten i).commit
       let after (t : BitVec 64) : State := s.reach t (s.cfg.glob.voteRepeat * 1000)
       (s.isPodManager i = true → c.podM = .sent →
         exec (.voteRepeatExpiry i .podVote) s = .next ((after c.podAt).podVote i)) ∧
       (s.isPodManager i = false ∨ c.podM ≠ .sent → exec (.voteRepeatExpiry i .podVote) s = .next s) ∧
       (s.isChipManager = true → c.chipM = .sent →
         exec (.voteRepeatExpiry i .chipVote) s = .next ((after c.chipAt).chipVote i)) ∧
       (s.isChipManager = false ∨ c.chipM ≠ .sent → exec (.voteRepeatExpiry i .chipVote) s = .next s) ∧
       (c.podM ≠ .solicit → c.jobM ≠ .solicit → exec (.voteRepeatExpiry i .solicit) s = .next s) ∧
       (let asked := (after c.solicitAt).updCommit i fun c => { c with solicitAt := (after c.solicitAt).time.now }
        (c.podM = .solicit → c.jobM ≠ .solicit →
          exec (.voteRepeatExpiry i .solicit) s = .next ((asked.solicitAgain i false).follow i)) ∧
        (c.podM ≠ .solicit → c.jobM = .solicit →
          exec (.voteRepeatExpiry i .solicit) s = .next ((asked.solicitAgain i true).follow i)) ∧
        (c.podM = .solicit → c.jobM = .solicit →
          exec (.voteRepeatExpiry i .solicit) s = .next (((asked.solicitAgain i false).solicitAgain i true).follow i))) ∧
       (∀ r : Asked, c.vstate = .withheld → c.nextAsked = some r → exec (.voteRepeatExpiry i .request) s =
         .next ((((after r.since).updCommit i fun c => { c with asked := c.asked.map fun x =>
           if x = r then { r with repeats := r.repeats + 1, since := (after r.since).time.now } else x }).requestOwn i r.reason).follow i)) ∧
       (c.vstate ≠ .withheld ∨ c.nextAsked = none → exec (.voteRepeatExpiry i .request) s = .next (s.follow i)) ∧
       ((s.ten i).bg.asking = true → exec (.voteRepeatExpiry i .targetRequest) s =
         .next ((((after (s.ten i).bg.askedAt).updBg i fun b => { b with askedAt := (after (s.ten i).bg.askedAt).time.now }).requestOwn
           i 0x08).follow i)) ∧
       ((s.ten i).bg.asking = false → exec (.voteRepeatExpiry i .targetRequest) s = .next s) ∧
       (∀ a : Addr, exec (.voteRepeatExpiry i (.report a)) s =
         .next (((s.ten i).fox.reports.filter fun r => r.subject == a).foldl
           (fun s r => (s.reach r.since (s.cfg.glob.voteRepeat * 1000)).sendReport i r) s)))) ∧
  (∀ (s : State) (i : Fin 64) (e : BitVec 48) (tr : BitVec 7),
      (let c := (s.ten i).commit
       let go : Prop := s.isJobManager i = true ∧ s.commits i = true ∧ s.attemptStands i = true ∧ c.abortWait ≠ 0 ∧
         s.mayInject = true ∧ e.toNat = c.openEpoch ∧ tr = c.openTry
       let s1 := s.reach c.openedAt (c.abortWait.toNat * 1000)
       (go → c.jobM ≠ .solicit →
         exec (.abortWaitExpiry ⟨i, e, tr⟩) s = .next (((s1.decideAbort i 0x02).raiseT i 0xB5).follow i)) ∧
       (go → c.jobM = .solicit → exec (.abortWaitExpiry ⟨i, e, tr⟩) s =
         .next ((s1.updCommit i fun c => { c with held := c.held ++ [0x02] }).follow i)) ∧
       (¬ go → exec (.abortWaitExpiry ⟨i, e, tr⟩) s = .next s))) ∧
  (∀ (s : State) (a : Acc) (b : Bool), s.portsUp = true →
      (let i := s.selected
       let taken : Prop := s.windowOpen 0x2818 = true ∧ s.ownTag a = true ∧ s.isJobManager i = true
       let s1 := (s.ok a.id).updCommit i fun c => { c with autoAbort := b }
       (¬ taken → exec (.ecAbort a b) s = .next (s.refuse a.id 0x2818)) ∧
       (taken → s1.commits i = true → s1.attemptStands i = true →
         (s1.ten i).commit.jobM ≠ .solicit → exec (.ecAbort a b) s = .next ((s1.decideAbort i 0x01).follow i)) ∧
       (taken → s1.commits i = true → s1.attemptStands i = true →
         (s1.ten i).commit.jobM = .solicit →
         exec (.ecAbort a b) s = .next ((s1.updCommit i fun c => { c with held := c.held ++ [0x01] }).follow i)) ∧
       (taken → s1.commits i = false ∨ s1.attemptStands i = false → exec (.ecAbort a b) s = .next s1)))

/-- The commit of the open attempt at a member: the attempt that was open is the committed one, the epoch advances by
exactly one and its try starts again at 0; no other tenant's committed or open attempt moves. -/
def Obligations.CommitAdvancesEpochByOne : Prop :=
  ∀ (s : State) (i j : Fin 64),
    ((s.applyCommit i).ten i).commit.committed = (s.ten i).commit.openEpoch ∧
      ((s.applyCommit i).ten i).commit.committedTry = (s.ten i).commit.openTry ∧
      ((s.applyCommit i).ten i).commit.openEpoch = (s.ten i).commit.openEpoch + 1 ∧
      ((s.applyCommit i).ten i).commit.openTry = 0 ∧
      (j ≠ i → ((s.applyCommit i).ten j).commit.committed = (s.ten j).commit.committed ∧
        ((s.applyCommit i).ten j).commit.committedTry = (s.ten j).commit.committedTry ∧
        ((s.applyCommit i).ten j).commit.openEpoch = (s.ten j).commit.openEpoch ∧
        ((s.applyCommit i).ten j).commit.openTry = (s.ten j).commit.openTry)

/-- A vote once given is never withdrawn: a withholding cause that arises at a READY member leaves its commit state, and
every other tenant's, as it is; one that arises while the attempt is OPEN makes the member WITHHELD with that cause. -/
def Obligations.VoteIsNeverWithdrawn : Prop :=
  (∀ (s : State) (i : Fin 64) (r : Nat), (s.ten i).commit.vstate = .ready → s.withhold i r = s) ∧
    (∀ (s : State) (i : Fin 64) (r : Nat), (s.ten i).commit.vstate = .open_ →
      ((s.withhold i r).ten i).commit.vstate = .withheld ∧ ((s.withhold i r).ten i).commit.wcause = BitVec.ofNat 8 r ∧
        ∀ j : Fin 64, j ≠ i → (s.withhold i r).ten j = s.ten j)

/-! ## Membership and Fox -/

/-- Heartbeats. An instance that beats advances its sequence number by one and puts its heartbeats on the CONTROL channel
behind what waits there; one that does not sends nothing. A received heartbeat newer than the last one heard, its place
that of its row, refreshes the entries that watch its source, a SUSPECT and an UNSEEN one becoming PRESENT, and touches no
other entry; a CONFIRMED, a LOST and a REPLACING one keep their status; a heartbeat whose place is not the row's is a wrong
identity, one with reserved bits of its place set raises 0x42. Where the manual leaves a point open, the choices of log
entries 9, 30, 36, 65, 93, 99, 112, 147, 165 and 195 hold. -/
def Obligations.HeartbeatRowsComplete : Prop :=
  (∀ (s : State) (i : Fin 64) (now : BitVec 64),
      (s.configured = false ∨ s.beats i = false → exec (.heartbeatSend i now) s = .next s) ∧
      (s.configured = true → s.beats i = true →
        ∃ t : State, exec (.heartbeatSend i now) s = .next t ∧
          t = { s.at_ now with ep := { s.ep with ctrlQ := t.ep.ctrlQ }, tenants := t.tenants } ∧ s.ep.ctrlQ <+: t.ep.ctrlQ ∧
          t.ten i = { s.ten i with fox := { (s.ten i).fox with hseq := (s.ten i).fox.hseq + 1 } } ∧
          ∀ j : Fin 64, j ≠ i → t.ten j = s.ten j)) ∧
  (∀ (s : State) (f : Rx) (i : Fin 64), frameGood s f 0x20 i → tField f 32 32 = 0 → f.len = 8 →
      (let s1 := s.at_ f.time
       let h := BitVec.ofNat 32 (tField f 0 32)
       let mine (w : Watch) : Bool := w.of i f.src && (!w.heard || hseqNewer h w.hseq)
       let strange : Prop := ∃ w ∈ s.watch, mine w = true ∧ s.placeDiffers w (BitVec.ofNat 64 (leNat f.payload)) = true
       (2 ^ 38 ≤ leNat f.payload → exec (.heartbeat f) s =
         .next (s1.raise { code := 0x42, tenant := f.tenant, detail := f.src.toNat })) ∧
       (leNat f.payload < 2 ^ 38 → strange → exec (.heartbeat f) s = .next (s1.wrongIdentity i f.src)) ∧
       (leNat f.payload < 2 ^ 38 → ¬ strange → exec (.heartbeat f) s = .next ((State.tryForms { s1 with
         watch := s.watch.map fun w => if mine w then w.hear h s1.time.now else w } i).follow i)))) ∧
  (∀ (w : Watch) (h : BitVec 32) (now : BitVec 64),
      (w.status = .confirmed ∨ w.status = .lost → w.hear h now = w) ∧
      (w.status = .replacing → w.hear h now = { w with hseq := h, time := now, heard := true, beat := now }) ∧
      (w.status = .present ∨ w.status = .suspect ∨ w.status = .unseen →
        w.hear h now = { w with hseq := h, time := now, heard := true, beat := now, status := .present, round := none }))

/-- Fences and membership queries at their receiver, once they pass the checks of R75. A fence that names a newer
generation makes the receiver query, and another changes nothing. A SYNC query from an older generation is answered with
the updates that follow it, or its asker is reported STALE with event 0xCC where the log reaches no longer back, and one
from another generation is passed up. A witness answers at once, MISSING with 0 where it has heard nothing of the peer and
does not hold it PRESENT, ALIVE with what it has heard where that is newer than the question's. An answer is judged at
each entry of the watch table: an ALIVE returns the suspect to PRESENT with event 0xC3, a MISSING of every witness asked
confirms it. A report is taken by the leader alone. Where the manual leaves a point open, the choices of log entries 9,
17, 30, 36, 65, 95, 112, 147 and 165 hold. -/
def Obligations.QueryRowsComplete : Prop :=
  (∀ (s : State) (f : Rx) (i : Fin 64), frameGood s f 0x21 i → tField f 57 7 = 0 → f.len = 0 → f.epoch = 0 →
      (((s.at_ f.time).ten i).fox.gen.toNat < tField f 0 32 → exec (.fence f) s = .next ((s.at_ f.time).querySync i)) ∧
      (tField f 0 32 ≤ ((s.at_ f.time).ten i).fox.gen.toNat → exec (.fence f) s = .next (s.at_ f.time))) ∧
  (∀ (s : State) (f : Rx) (i : Fin 64), s.portsUp = true → (s.at_ f.time).takesFrame f = true →
      f.eiErr = false → f.crc = frameCrc f → f.ver = 3 → f.typ = 0x70 → f.mark = false → f.elided = false → f.rsv1 = false →
      f.rsv2 = 0 → f.len = 8 → f.payload.length = 8 → queryOk f 1 [0] = true → (s.at_ f.time).tenantOf f.tenant = some i →
      (let s1 := s.at_ f.time
       let x := (s.ten i).fox
       let us := updatesAfter x.log f.gen
       (f.gen < x.gen → us = [] → exec (.membershipQuerySync f) s =
         .next ((s1.raiseT i 0xCC (querySubject f).toNat).report i (querySubject f) 0 5)) ∧
       (f.gen < x.gen → us ≠ [] → exec (.membershipQuerySync f) s =
         .next (us.foldl (fun s u => s.sendOnce (s.updateFrame i u (.member (querySubject f)))) s1)) ∧
       (¬ f.gen < x.gen → exec (.membershipQuerySync f) s = .next (s1.syncUp i (querySubject f) f.gen)))) ∧
  (∀ (s : State) (f : Rx) (i : Fin 64), frameGood s f 0x70 i → queryOk f 2 [0] = true → f.len = 8 →
      (let s1 := s.at_ f.time
       let answer (cause hseq : Nat) : State := s1.sendReply (s1.ctrlTo i f.src 0x70 0 0
         (queryFrame 3 cause 0 (querySubject f) hseq).1 (queryFrame 3 cause 0 (querySubject f) hseq).2)
       let heard := s.watch.filter fun w => w.of i (querySubject f) && w.heard
       let present : Prop := ∃ w ∈ s.watch, w.of i (querySubject f) = true ∧ w.status = .present
       (∃ cause hseq : Nat, (cause = 1 ∨ cause = 2) ∧ exec (.membershipQueryWitness f) s = .next (answer cause hseq)) ∧
       (heard = [] → ¬ present ∨ queryHseq f ≠ 0xFFFFFFFF → exec (.membershipQueryWitness f) s = .next (answer 2 0)) ∧
       (heard = [] → present → queryHseq f = 0xFFFFFFFF → exec (.membershipQueryWitness f) s = .next (answer 1 0)) ∧
       (∀ w : Watch, heard = [w] →
         (queryHseq f = 0xFFFFFFFF ∨ hseqNewer w.hseq (queryHseq f) = true →
           exec (.membershipQueryWitness f) s = .next (answer 1 w.hseq.toNat)) ∧
         (queryHseq f ≠ 0xFFFFFFFF → hseqNewer w.hseq (queryHseq f) = false →
           exec (.membershipQueryWitness f) s = .next (answer 2 w.hseq.toNat))))) ∧
  (∀ (s : State) (f : Rx) (i : Fin 64), frameGood s f 0x70 i → queryOk f 3 [1, 2] = true → f.len = 8 →
      exec (.membershipQueryAnswer f) s =
        .next ((List.range s.watch.length).foldl (fun s j => s.answerAt i f j) (s.at_ f.time))) ∧
  (∀ (s : State) (f : Rx) (i : Fin 64) (j : Nat) (w : Watch), s.watch[j]? = some w →
      (∀ r : Round, w.round = some r → w.of i (querySubject f) = true → w.status = .suspect → f.src ∈ r.asked →
        (tField f 12 4 = 1 → s.answerAt i f j = ((State.raiseT { s with watch := listModify s.watch j fun w =>
          { w with status := .present, hseq := queryHseq f, heard := true, beat := s.time.now, time := s.time.now, round := none } }
            i 0xC3 (querySubject f).toNat).tryForms i)) ∧
        (tField f 12 4 ≠ 1 →
          (let s' : State := { s with watch := listModify s.watch j fun w =>
             { w with round := some { r with missing := addOnce f.src r.missing } } }
           ((∀ a ∈ r.asked, a = f.src ∨ a ∈ r.missing) → s.answerAt i f j = (s'.confirm j 0xC1 1).follow i) ∧
             ((∃ a ∈ r.asked, a ≠ f.src ∧ a ∉ r.missing) → s.answerAt i f j = s')))) ∧
      (w.round = none ∨ w.of i (querySubject f) = false ∨ w.status ≠ .suspect ∨ (∀ r : Round, w.round = some r → f.src ∉ r.asked) →
        s.answerAt i f j = s)) ∧
  (∀ (s : State) (f : Rx) (i : Fin 64), frameGood s f 0x70 i → queryOk f 4 [1, 2, 3, 4, 5] = true → f.len = 8 →
      (let s1 := s.at_ f.time
       let r : Report := { subject := querySubject f, since := s1.time.now, imask := BitVec.ofNat 12 (tField f 16 12)
                           cause := BitVec.ofNat 4 (tField f 12 4) }
       let named := maskAddrs r.subject r.imask
       let fox := (s.ten i).fox
       (s1.leads i = false → exec (.membershipQueryReport f) s = .next s1) ∧
       (s1.leads i = true → (∃ a ∈ named, fox.isLost a = false) →
         ((∃ q ∈ fox.queue, q.subject = r.subject ∧ q.imask = r.imask ∧ q.cause = r.cause) →
           exec (.membershipQueryReport f) s = .next s1) ∧
         ((∀ q ∈ fox.queue, ¬ (q.subject = r.subject ∧ q.imask = r.imask ∧ q.cause = r.cause)) →
           ∃ t : State, exec (.membershipQueryReport f) s = .next t ∧ t = { s1 with tenants := t.tenants } ∧
             t.ten i = { s.ten i with fox := { fox with queue := fox.queue ++ [{ r with held := false }] } } ∧
             ∀ j : Fin 64, j ≠ i → t.ten j = s.ten j)) ∧
       (s1.leads i = true → (∀ a ∈ named, fox.isLost a = true) →
         (r.cause = 3 → exec (.membershipQueryReport f) s = .next (s1.raiseT i 0xCB r.subject.toNat)) ∧
         (r.cause ≠ 3 → exec (.membershipQueryReport f) s = .next s1))))

/-- Suspicion. The deadline makes a PRESENT peer SUSPECT, and DISC_WAIT's end one that is still UNSEEN, each counted once
under 0xC0, no other entry changing; a round that nobody has answered by CONFIRM_WAIT's end gives way to the next, one
with a MISSING confirms. A fabric manager's report on an address nobody watches is refused; any other is judged at each
entry it names: a CONFIRMED, a LOST and a REPLACING one stay, a heartbeat accepted within the last HB_PERIOD turns it away
with event 0xC4, and otherwise it confirms. An entry in another status, and a tenant whose watching rests, is left alone.
Where the manual leaves a point open, the choices of log entries 9, 30, 95, 97, 157, 161, 166 and 195 hold. -/
def Obligations.SuspicionRowsComplete : Prop :=
  (∀ (s : State) (n : Nat) (w : Watch), s.watch[n]? = some w →
      (w.status = .present → s.beats w.tidx = true →
        exec (.suspicionDeadline n) s = .next ((s.reach w.time (3500 * s.cfg.glob.hbPeriod)).suspect n)) ∧
      (w.status ≠ .present ∨ s.beats w.tidx = false → exec (.suspicionDeadline n) s = .next s) ∧
      (w.status = .unseen → s.beats w.tidx = true →
        exec (.discWaitExpiry n) s = .next ((s.reach w.made (1000000 * s.cfg.glob.discWait)).suspect n)) ∧
      (w.status ≠ .unseen ∨ s.beats w.tidx = false → exec (.discWaitExpiry n) s = .next s) ∧
      (w.status ≠ .suspect ∨ s.beats w.tidx = false → exec (.confirmWaitExpiry n) s = .next s) ∧
      (w.status = .suspect → s.beats w.tidx = true →
        (w.round = none → exec (.confirmWaitExpiry n) s = .next (s.startRound n 0)) ∧
        (∀ r : Round, w.round = some r →
          (let s1 := s.reach r.since (1000 * s.cfg.glob.confirmWait)
           (r.missing = [] → exec (.confirmWaitExpiry n) s = .next (s1.startRound n r.next)) ∧
             (r.missing ≠ [] → exec (.confirmWaitExpiry n) s = .next ((s1.confirm n 0xC1 1).follow w.tidx)))))) ∧
  (∀ (s : State) (n : Nat), s.watch[n]? = none → exec (.suspicionDeadline n) s = .next s ∧
      exec (.discWaitExpiry n) s = .next s ∧ exec (.confirmWaitExpiry n) s = .next s) ∧
  (∀ (s : State) (n : Nat) (w : Watch), s.watch[n]? = some w →
      ∃ r : Option Round, (s.suspect n).watch = s.watch.set n { w with status := .suspect, round := r } ∧
        (s.suspect n).counter 0xC0 = s.counter 0xC0 + 1 ∧
        s.suspect n = { s with watch := (s.suspect n).watch, flt := { s.flt with counters := (s.suspect n).flt.counters }
                               ep := { s.ep with ctrlQ := (s.suspect n).ep.ctrlQ } } ∧
        s.ep.ctrlQ <+: (s.suspect n).ep.ctrlQ) ∧
  (∀ (s : State) (a : Acc) (addr : Addr) (chip : Bool) (now : BitVec 64), s.portsUp = true →
      (let taken : Prop := s.windowOpen 0x2040 = true ∧ fromSystem a = true ∧ ∃ w ∈ s.watch, w.named addr chip = true
       (¬ taken → exec (.fabricManagerReport a addr chip now) s = .next (s.refuse a.id 0x2040)) ∧
       (taken → exec (.fabricManagerReport a addr chip now) s = .next ((List.range s.watch.length).foldl
         (fun s j => s.reportAt addr chip j)
         ((State.at_ { s with regs := { s.regs with fmAddr := addr, fmChip := chip } } now).ok a.id))))) ∧
  (∀ (s : State) (addr : Addr) (chip : Bool) (j : Nat) (w : Watch), s.watch[j]? = some w →
      (w.named addr chip = false ∨ w.status = .confirmed ∨ w.status = .lost ∨ w.status = .replacing → s.reportAt addr chip j = s) ∧
      (w.named addr chip = true → w.status = .present ∨ w.status = .unseen → w.heard = true →
        (s.time.now - w.beat).toNat ≤ 1000 * s.cfg.glob.hbPeriod → s.reportAt addr chip j = s.raiseT w.tidx 0xC4 w.addr.toNat) ∧
      (w.named addr chip = true → w.status = .suspect → s.reportAt addr chip j = (s.confirm j 0xC2 2).follow w.tidx) ∧
      (w.named addr chip = true → w.status = .present ∨ w.status = .unseen →
        w.heard = false ∨ 1000 * s.cfg.glob.hbPeriod < (s.time.now - w.beat).toNat →
        s.reportAt addr chip j = (s.confirm j 0xC2 2).follow w.tidx))

/-- Discovery. A FORMING slot that has not found every rank sends its DISCOVER to the slot's peers, another slot nothing.
A DISCOVER and a DISCOVER_REPLY are judged alike: for a sett this instance holds no slot of nothing happens; a source
without a row is recorded in MNL_FX_EXTRA under event 0xC8; one whose rank, fingerprint, place, feed or plane is not its
row's is a wrong identity; a good one makes the entries that watch it for the slot PRESENT, after a REPLACING rank has
taken the placement it brings where that keeps the domains apart; a DISCOVER is answered beside. Where the manual leaves a
point open, the choices of log entries 9, 30, 36, 40, 65, 93, 147 and 165 hold. -/
def Obligations.DiscoveryRowsComplete : Prop :=
  (∀ (s : State) (slot : Fin 16),
      (∀ i : Fin 64, s.slotTenant slot.val = some i → (s.slot slot.val).kind = .sett → (s.slot slot.val).st = .forming →
        s.discovered i slot.val = false →
        ∃ t : State, exec (.discoverSend slot) s = .next t ∧
          t = s.toPeers i slot.val 0x70 0 (s.discoverFrame slot.val 1).1 (s.discoverFrame slot.val 1).2 ∧
          t = { s with ep := { s.ep with ctrlQ := t.ep.ctrlQ } } ∧ s.ep.ctrlQ <+: t.ep.ctrlQ) ∧
      (s.slotTenant slot.val = none ∨ (s.slot slot.val).kind ≠ .sett ∨ (s.slot slot.val).st ≠ .forming ∨
        (∀ i : Fin 64, s.slotTenant slot.val = some i → s.discovered i slot.val = true) →
        exec (.discoverSend slot) s = .next s)) ∧
  (∀ (s : State) (f : Rx) (i : Fin 64) (reply : Bool), frameGood s f 0x70 i → f.len = 32 → f.epoch = 0 →
      discoverOk f (if reply then 2 else 1) = true →
      (let row : Instr := if reply then .discoverReply f else .discover f
       let s1 := s.at_ f.time
       let at_ (k : Nat) : Prop := ((s.settSlots i).find? fun k => (s.slot k).sett.settId.toNat == tField f 8 24) = some k
       let strange := s1.wrongIdentity i f.src
       let fits (s : State) (k : Nat) (x : Row) : Prop := leField f.payload 0 8 = fingerprint (s.slot k).sett ∧
         leField f.payload 8 8 = x.place.toNat ∧ leField f.payload 16 2 = x.feed.toNat ∧ leField f.payload 18 1 = x.plane.toNat
       let found (s : State) (k : Nat) : State :=
         let seen (w : Watch) : Bool := w.of i f.src && !w.cand && w.slot == k &&
           (w.status == .unseen || w.status == .suspect || w.status == .replacing)
         let s' : State := s.mapWatch seen fun w => { w with status := .present, time := s.time.now, round := none }
         let q := s'.discoverFrame k 2
         ((if reply then s' else s'.sendReply (s'.ctrlTo i f.src 0x70 0 0 q.1 q.2)).tryForm i k).follow i
       ((∀ k : Nat, ¬ at_ k) → exec row s = .next s1) ∧
       (∀ k : Nat, at_ k →
         ((s.slot k).rankOf f.src = none → exec row s = .next (State.raiseT { s1 with
           regs := { s.regs with extraAddr := f.src, extraCount := s.regs.extraCount + 1 } } i 0xC8 f.src.toNat)) ∧
         (∀ own : Nat, (s.slot k).rankOf f.src = some own →
           (own ≠ tField f 32 6 → exec row s = .next strange) ∧
           (∀ x : Row, own = tField f 32 6 → (s.slot k).rankSt own ≠ .replacing → (s.slot k).sett.rows[own]? = some x →
             (fits s k x → exec row s = .next (found s1 k)) ∧ (¬ fits s k x → exec row s = .next strange)) ∧
           (own = tField f 32 6 → (s.slot k).rankSt own = .replacing → placedRow (s.slot k).sett.rows own f = none →
             exec row s = .next strange) ∧
           (∀ x : Row, own = tField f 32 6 → (s.slot k).rankSt own = .replacing →
             placedRow (s.slot k).sett.rows own f = some x →
             (let s2 := s1.updSlot k fun y => { y with sett := { y.sett with rows := y.sett.rows.set own x } }
              (fits s2 k x → exec row s = .next (found s2 k)) ∧
                (¬ fits s2 k x → exec row s = .next (s2.wrongIdentity i f.src))))))))

/-- Evictions and updates. An eviction is written to MNL_FX_EVICT and reported with cause 3, for one instance or for every
instance of its chip, and is refused without the tenant's tag; an update newer than the generation in force is applied and
one that is not changes nothing; the leader issues at most one update in 5 µs, and an instance that does not lead none.
Where the manual leaves a point open, the choices of log entries 9, 23, 30, 36, 58, 65, 95, 96, 147, 161, 165, 169 and 180
hold. -/
def Obligations.UpdateRowsComplete : Prop :=
  (∀ (s : State) (a : Acc) (addr : Addr) (chip : Bool), s.portsUp = true →
      (let i : Fin 64 := Fin.ofNat 64 s.regs.tsel.toNat
       let taken : Prop := s.windowOpen 0x2048 = true ∧ (s.tenantOf (s.tagOf i)).isSome = true ∧
         (fromSystem a = true ∨ a.tag = s.tagOf i)
       let s1 := (s.updFox i fun f => { f with evictAddr := addr, evictChip := chip }).ok a.id
       (taken → chip = false → exec (.evict a addr chip) s = .next (s1.report i addr 0 3)) ∧
       (taken → chip = true → exec (.evict a addr chip) s = .next (s1.report i addr (s1.chipMask addr) 3)) ∧
       (¬ taken → exec (.evict a addr chip) s = .next (s.refuse a.id 0x2048)))) ∧
  (∀ (s : State) (f : Rx) (i : Fin 64), frameGood s f 0x70 i → updateOk f = true → f.len = 16 →
      ((s.ten i).fox.gen < (updateOf f).newGen →
        exec (.membershipUpdate f) s = .next ((s.at_ f.time).applyUpdate i (updateOf f) false false)) ∧
      (¬ (s.ten i).fox.gen < (updateOf f).newGen → exec (.membershipUpdate f) s = .next (s.at_ f.time))) ∧
  (∀ (s : State) (i : Fin 64) (now : BitVec 64),
      (s.configured = false → exec (.membershipUpdateIssue i now) s = .next s) ∧
      (s.configured = true →
        (let s1 := s.at_ now
         let may : Prop := (s.ten i).env ≠ none ∧ s1.leads i = true ∧ s1.mayInject = true
         let soon : Prop := (s.ten i).fox.issuedAny = true ∧ (s1.time.now - (s.ten i).fox.issuedAt).toNat < 5000
         (¬ may ∨ soon → exec (.membershipUpdateIssue i now) s = .next s1) ∧
         (may → ¬ soon → exec (.membershipUpdateIssue i now) s = .next (s1.issueNext i)))))

/-- What a change of membership makes of the record a member keeps: the generation is the update's; an instance made LOST
is LOST and gone, and replaces nobody; a target takes the subject's place and the subject is LOST no longer; the
log holds the update last, at most 64 of them; and an ADVANCE makes nobody LOST and leaves who replaces whom. -/
def Obligations.ChangeOfMembership : Prop :=
  ∀ (f : FoxS) (u : Update),
    (f.apply u).gen = u.newGen ∧ (f.log.length ≤ 64 → (f.apply u).log.length ≤ 64) ∧ (f.apply u).log.getLast? = some u ∧
    (updLoses u = true → (∀ a ∈ updNamed u, a ∈ (f.apply u).lost ∧ a ∈ (f.apply u).gone ∧
        ∀ p ∈ (f.apply u).replacing, p.2 ≠ a) ∧ (∀ a ∈ f.lost, a ∈ (f.apply u).lost) ∧
        ∀ a ∈ (f.apply u).lost, a ∈ f.lost ∨ a ∈ updNamed u) ∧
    (u.kind = 4 → u.subject ∉ (f.apply u).lost ∧ (u.subject, u.target) ∈ (f.apply u).replacing ∧
        ∀ a : Addr, a ≠ u.subject → (a ∈ (f.apply u).lost ↔ a ∈ f.lost)) ∧
    (u.kind = 6 → (f.apply u).lost = f.lost ∧ (f.apply u).replacing = f.replacing) ∧
    (u.kind = 5 → (f.apply u).lost = f.lost ∧ ∀ p ∈ (f.apply u).replacing, p.2 ≠ u.subject)

/-! ## Intake and the sweep -/

/-- Gradient lines. A frame of the intake epoch whose lines fall in an allocated chunk or in the manifest is written;
one outside every chunk, one beyond the last allocated chunk and one that comes while the intake flushes raise events
0x75, 0x72 and 0x76 and write nothing. A window write does the same for the chunk its address names, but that one of the
next chunk is answered RETRY and counted under 0x3C, and one without all byte enables raises 0x74 and writes nothing; a
read of the window completes; a reserved NQ_SPACE or NQ_OP gives BUS_ERROR 0xC and a tag of no tenant 0x2. The chunk a
window address names is the manifest for 0 while it is the oldest, else the allocated chunk with that number modulo
16384, else a number with that residue, within 8192 of HIGH where HIGH is 8192 or more. Where the manual leaves a point
open, the choices of log entries 9, 26, 27, 30, 36, 65, 114, 115, 116, 147, 165, 173 and 189 hold. -/
def Obligations.IntakeLinesComplete : Prop :=
  (∀ (s : State) (f : Rx) (i : Fin 64), frameAnyGen s f 0x30 i → tField f 40 24 = 0 → f.payload.length % 64 = 0 →
      64 ≤ f.payload.length → f.payload.length ≤ 4096 → (s.ten i).intake.epoch = f.epoch.toNat → f.epoch ≠ 0 → f.tr = 0 →
      (let s' := s.at_ f.time
       let v := s'.judgeArrival i (tField f 0 24) (tField f 24 4) (tField f 28 12) (f.payload.length / 64)
       let lines := (chunksOf 64 (f.payload.length / 64) f.payload).map lineOf
       (v = .manifest ∨ v = .chunk (tField f 0 24) →
         exec (.intake f) s = .next (s'.writeLines i (tField f 0 24) (tField f 24 4) (tField f 28 12) lines)) ∧
       (v = .outside → exec (.intake f) s = .next (s'.raiseT i 0x75 (tField f 0 24))) ∧
       (v = .next ∨ v = .beyond → exec (.intake f) s = .next (s'.raiseT i 0x72 (tField f 0 24))) ∧
       (v = .flush → exec (.intake f) s = .next (s'.raiseT i 0x76 (tField f 0 24))))) ∧
  (∀ (s : State) (q : NqReq), s.portsUp = true →
      (q.space ≠ 2 ∨ 1 < q.op.toNat → exec (.intakeWindowWrite q) s = .next (s.busError q 0xC)) ∧
      (q.space = 2 → q.op = 0 → exec (.intakeWindowWrite q) s = .next (s.ok q.id)) ∧
      (q.space = 2 → q.op = 1 → s.tenantOf q.tag = none → exec (.intakeWindowWrite q) s = .next (s.busError q 0x2))) ∧
  (∀ (s : State) (q : NqReq) (i : Fin 64), s.portsUp = true → q.space = 2 → q.op = 1 → s.tenantOf q.tag = some i →
      (let c := (s.ten i).intake.windowChunk (bitsOf q.addr.toNat 22 14)
       let v := s.judgeArrival i c (bitsOf q.addr.toNat 18 4) (bitsOf q.addr.toNat 6 12) 1
       (~~~q.be ≠ 0 → exec (.intakeWindowWrite q) s = .next ((s.ok q.id).raiseT i 0x74 c)) ∧
       (~~~q.be = 0 → v = .manifest ∨ v = .chunk c → exec (.intakeWindowWrite q) s =
         .next ((s.ok q.id).writeLines i c (bitsOf q.addr.toNat 18 4) (bitsOf q.addr.toNat 6 12) [q.data])) ∧
       (~~~q.be = 0 → v = .outside → exec (.intakeWindowWrite q) s = .next ((s.ok q.id).raiseT i 0x75 c)) ∧
       (~~~q.be = 0 → v = .beyond → exec (.intakeWindowWrite q) s = .next ((s.ok q.id).raiseT i 0x72 c)) ∧
       (~~~q.be = 0 → v = .flush → exec (.intakeWindowWrite q) s = .next ((s.ok q.id).raiseT i 0x76 c)) ∧
       (~~~q.be = 0 → v = .next → ∃ t : State, exec (.intakeWindowWrite q) s = .next t ∧
         t = { s with gate := t.gate, flt := t.flt } ∧
         t.gate = { s.gate with ns := s.gate.ns ++ [{ id := q.id, status := .retry, cause := 0, data := 0 }] } ∧
         t.counter 0x3C = s.counter 0x3C + 1))) ∧
  (∀ (t : IntakeS) (d : Nat), d < 16384 →
      (d = 0 → t.low = 0 → t.windowChunk d = 0) ∧
      (d ≠ 0 ∨ t.low ≠ 0 → t.windowChunk d % 16384 = d) ∧
      (d ≠ 0 ∨ t.low ≠ 0 → (∀ x ∈ t.chunks, x.no % 16384 ≠ d) → 8192 ≤ t.high →
        t.windowChunk d < t.high + 8192 ∧ t.high ≤ t.windowChunk d + 8192) ∧
      (d ≠ 0 ∨ t.low ≠ 0 → (∃ x ∈ t.chunks, x.no % 16384 = d) → ∃ x ∈ t.chunks, t.windowChunk d = x.no)) ∧
  (∀ (s : State) (i : Fin 64) (c sl off n : Nat),
      (let t := (s.ten i).intake
       (t.flush = true → s.judgeArrival i c sl off n = .flush) ∧
       (t.flush = false → s.shareBytes i = 0 ∨ t.epoch = 0 → s.judgeArrival i c sl off n = .beyond) ∧
       (t.flush = false → s.shareBytes i ≠ 0 → t.epoch ≠ 0 →
         (c < t.low → s.judgeArrival i c sl off n = .outside) ∧
         (t.low = 0 → c = 0 → sl = 0 → (off + n) * 64 ≤ s.manRoom i → s.judgeArrival i c sl off n = .manifest) ∧
         (t.low ≤ c → c ≠ 0 → (∀ x ∈ t.chunks, x.no ≠ c) → c = t.high + 1 → s.judgeArrival i c sl off n = .next) ∧
         (t.low ≤ c → c ≠ 0 → (∀ x ∈ t.chunks, x.no ≠ c) → t.high + 1 < c → s.judgeArrival i c sl off n = .beyond) ∧
         (∀ x : Chunk, t.low ≤ c → c ≠ 0 → (t.chunks.find? fun x => x.no == c) = some x →
           (sl < x.mrec.ns → (off + n) * 64 ≤ x.ls → s.judgeArrival i c sl off n = .chunk c) ∧
             (x.mrec.ns ≤ sl ∨ x.ls < (off + n) * 64 → s.judgeArrival i c sl off n = .outside)))))

/-- Chunks and the flush. The chunk after the last allocated one gets its room where the manifest is valid and has it, the
ring has the room free and fewer than 256 chunks stand, and a notice is then owed; where one of these fails no room is
given. A notice owed is written while notices are on and a microsecond has passed since the last, its line at 64 times
the tenant's index; it is dropped while they are off. Reopening ends the flush of the tenant MNL_TSEL names, and is
refused elsewhere than under the tenant's own tag or 0x0000. Where the manual leaves a point open, the choices of log
entries 9, 30, 36, 51, 161 and 166 hold. -/
def Obligations.IntakeRoomComplete : Prop :=
  (∀ (s : State) (i : Fin 64) (now : BitVec 64),
      s.portsUp = false ∨ s.flt.mode ≠ .normal ∨ (s.ten i).env = none → exec (.chunkAllocate i now) s = .next s) ∧
  (∀ (s : State) (i : Fin 64) (now : BitVec 64), s.portsUp = true → s.flt.mode = .normal → (s.ten i).env ≠ none →
      (let t := (s.ten i).intake
       let base := ringBase t.recs (s.ringBytes i t.recs.length) (t.high + 1)
       let room (r : MRec) : Prop := t.manSt = .ok ∧ t.chunks.length < 256 ∧
         ∀ x ∈ t.chunks, base + r.ns * chunkLs r (t.high + 1) ≤ x.base ∨ x.base + x.size ≤ base
       (t.manSt ≠ .ok ∨ recOfChunk t.recs (t.high + 1) = none →
         exec (.chunkAllocate i now) s = .next ((s.at_ now).writeNotice i)) ∧
       (∀ r : MRec, recOfChunk t.recs (t.high + 1) = some r →
         (¬ room r → exec (.chunkAllocate i now) s = .next ((s.at_ now).writeNotice i)) ∧
         (room r → ∃ s' : State, exec (.chunkAllocate i now) s = .next (s'.writeNotice i) ∧
           s' = { s.at_ now with tenants := s'.tenants } ∧
           s'.ten i = { s.ten i with intake := { t with
             high := t.high + 1, noticeDue := true
             chunks := t.chunks ++ [{
               no := t.high + 1, mrec := r, base := base, size := r.ns * chunkLs r (t.high + 1)
               ls := chunkLs r (t.high + 1), lines := [], bad := false }] } } ∧
           ∀ j : Fin 64, j ≠ i → s'.ten j = s.ten j)))) ∧
  (∀ (s : State) (i : Fin 64),
      (let t := (s.ten i).intake
       let soon : Prop := t.noticed ≠ 0 ∧ (s.time.now - t.noticed).toNat < 1000
       (t.noticeDue = false → s.writeNotice i = s) ∧
       (t.noticeDue = true → s.regs.notifyEn = false →
         s.writeNotice i = s.updIntake i fun x => { x with noticeDue := false }) ∧
       (t.noticeDue = true → s.regs.notifyEn = true → soon → s.writeNotice i = s) ∧
       (t.noticeDue = true → s.regs.notifyEn = true → ¬ soon →
         s.writeNotice i = (s.putBytes (s.regs.notifyBase.toNat + 64 * i.val)
           (padTo 64 (leBytes 8 t.epoch ++ leBytes 4 t.low ++ leBytes 4 t.high ++ leBytes 8 s.time.now.toNat))).updIntake i
             fun x => { x with noticeDue := false, noticed := s.time.now }))) ∧
  (∀ (s : State) (a : Acc) (i : Fin 64), s.portsUp = true → i = s.regs.tsel.toFin →
      (let taken : Prop := s.windowOpen 0x3048 = true ∧ (a.tag = 0 ∨ s.tenantOf a.tag = some i)
       (¬ taken → exec (.intakeReopen a) s = .next (s.refuse a.id 0x3048)) ∧
       (taken → ∃ s' : State, exec (.intakeReopen a) s = .next (s'.follow i) ∧
         s' = { s with gate := s'.gate, tenants := s'.tenants } ∧
         (s'.ten i).intake = { (s.ten i).intake with flush := false } ∧ (∀ j : Fin 64, j ≠ i → s'.ten j = s.ten j) ∧
         s'.gate = { s.gate with ns := s.gate.ns ++ [{ id := a.id, status := .ok, cause := 0, data := 0 }] })))

/-- An attempt opens where it may: it is open under the next attempt number, of the epoch and try that were due, memory is
as it was, the sweep has nothing done yet, every sett slot of the tenant numbers its deltas from 0 and has its skim
undone with each source settled at 0, and the ranks that have joined are the targets known. Where it may not open
nothing changes. Where the manual leaves a point open, the choices of log entries 50, 56 and 163 hold. -/
def Obligations.AttemptOpenCompletes : Prop :=
  (∀ (s : State) (i : Fin 64), (s.ten i).env.isSome = true → s.mayOpen i = true →
    exec (.attemptOpen i) s = .next ((s.openAttempt i).follow i) ∧ ((s.openAttempt i).ten i).commit.isOpen = true ∧
      ((s.openAttempt i).ten i).commit.att = (s.ten i).commit.att + 1 ∧
      ((s.openAttempt i).ten i).commit.openEpoch = (s.ten i).commit.openEpoch ∧
      ((s.openAttempt i).ten i).commit.openTry = (s.ten i).commit.openTry ∧ (s.openAttempt i).mem = s.mem ∧
      ((s.openAttempt i).ten i).sweep.written = 0 ∧ ((s.openAttempt i).ten i).sweep.builds = [] ∧
      ((s.openAttempt i).ten i).fox.joined = (s.ten i).fox.replacing.map (·.2) ∧
      ∀ k ∈ s.settSlots i, ((s.openAttempt i).slot k).next = 0 ∧ ((s.openAttempt i).slot k).done = false ∧
        ∀ e ∈ ((s.openAttempt i).slot k).sources, e.cum = 0 ∧ e.closed = false ∧ e.broken = false ∧ e.ackDue = false) ∧
  (∀ (s : State) (i : Fin 64), (s.ten i).env = none ∨ s.mayOpen i = false → exec (.attemptOpen i) s = .next s)

/-- The sweep's rows. In PREP the prologue, the combination and a reduction strip run as their section; in BODY a strip
runs with its parity storage reserved, waits for the Hawk buffer where there is none, counted under 0xA8, and a strip to
be skipped is only noted. A bank gone BAD stops the sweep with 0x90 before anything runs; a read fault met while a strip
is staged stops or holds it as R148, R179 and R304 say; a strip of a CONTAINED group or with an unusable chunk is passed
over; one that waits stays at the front. A panel whose strips have all run is written, in the scalar pass a scalar panel,
and a RETIRING panel is zeroed unless it is in repair or reads false. A sweep in another state does none of this. Where
the manual leaves a point open, the choices of log entries 28, 36, 52, 54, 55, 56, 112, 117, 150, 188 and 196 hold. -/
def Obligations.SweepRowsComplete : Prop :=
  (∀ (s : State) (i : Fin 64) (flt : ReadFault),
      (s.sweepIn i .prep = false → exec (.sweepSectionRun i flt) s = .next s) ∧
      (s.sweepIn i .prep = true → s.bankBad i = true →
        exec (.sweepSectionRun i flt) s = .next ((s.stopSweep i 0x90 0x05).follow i)) ∧
      (s.sweepIn i .prep = true → s.bankBad i = false → (s.ten i).sweep.prep = [] →
        exec (.sweepSectionRun i flt) s = .next s) ∧
      (s.sweepIn i .body = false → exec (.sweepStrip i flt) s = .next s ∧ exec (.sweepPanelWritten i) s = .next s ∧
        exec (.retiringPanelZero i) s = .next s) ∧
      (∀ (it : PrepItem) (rest : List PrepItem) (g : Nat), (it = .pro g ∨ it = .mid g ∨ ∃ c k : Nat, it = .red g c k) →
        s.sweepIn i .prep = true → s.bankBad i = false → (s.ten i).sweep.prep = it :: rest → s.groupRun i g = none →
        exec (.sweepSectionRun i flt) s = .next s)) ∧
  (∀ (s : State) (i : Fin 64) (flt : ReadFault) (g : Nat) (r : GroupRun) (p : Program) (rest : List PrepItem),
      s.sweepIn i .prep = true → s.bankBad i = false → s.groupRun i g = some (r, p) →
      ((s.ten i).sweep.prep = .pro g :: rest ∨ (s.ten i).sweep.prep = .mid g :: rest → flt = .working →
        exec (.sweepSectionRun i flt) s = .next s) ∧
      ((s.ten i).sweep.prep = .pro g :: rest ∨ (s.ten i).sweep.prep = .mid g :: rest → flt = .microop →
        ∃ t : State, s.stripFault i .microop [] = some t ∧ exec (.sweepSectionRun i flt) s = .next (t.follow i)) ∧
      ((s.ten i).sweep.prep = .pro g :: rest → flt ≠ .microop → flt ≠ .working →
        exec (.sweepSectionRun i flt) s = .next ((s.runScalarSection i r p p.pro).follow i)) ∧
      ((s.ten i).sweep.prep = .mid g :: rest → flt ≠ .microop → flt ≠ .working →
        exec (.sweepSectionRun i flt) s = .next ((s.runScalarSection i r p p.mid).follow i)) ∧
      (∀ c k : Nat, (s.ten i).sweep.prep = .red g c k :: rest →
        (let gone : State := ((s.popPrep i).afterRed i g p).follow i
         (s.stripAt i g p c k = none ∨ s.groupContained i g = true → exec (.sweepSectionRun i flt) s = .next gone) ∧
         (∀ x : StripAt, s.stripAt i g p c k = some x → s.groupContained i g = false →
           (let qs := s.stripPanels i g p x
            let ready := s.stripReady i x qs (readsIntake p p.red)
            (∀ t : State, s.stripFault i flt qs = some t → exec (.sweepSectionRun i flt) s = .next (t.follow i)) ∧
            (s.stripFault i flt qs = none →
              (ready = .drop → exec (.sweepSectionRun i flt) s = .next gone) ∧
              (∀ t : State, ready = .wait t → exec (.sweepSectionRun i flt) s = .next t) ∧
              (ready = .go → exec (.sweepSectionRun i flt) s =
                .next ((((s.setWait i false false).setSweepWait i false).runRed i r p x).follow i)))))))) ∧
  (∀ (s : State) (i : Fin 64) (flt : ReadFault), s.sweepIn i .body = true →
      ((∀ (g c k : Nat) (skip : Bool) (rest : List SweepItem), (s.ten i).sweep.todo ≠ .strip g c k skip :: rest) →
        exec (.sweepStrip i flt) s = .next s) ∧
      (∀ (g c k : Nat) (skip : Bool) (rest : List SweepItem), (s.ten i).sweep.todo = .strip g c k skip :: rest →
        s.groupRun i g = none → exec (.sweepStrip i flt) s = .next s)) ∧
  (∀ (s : State) (i : Fin 64) (flt : ReadFault) (g c k : Nat) (skip : Bool) (r : GroupRun) (p : Program)
      (rest : List SweepItem), s.sweepIn i .body = true → s.groupRun i g = some (r, p) →
      (s.ten i).sweep.todo = .strip g c k skip :: rest →
      (s.stripAt i g p c k = none → exec (.sweepStrip i flt) s = .next ((s.popItem i).follow i)) ∧
      (∀ x : StripAt, s.stripAt i g p c k = some x →
        (let qs := s.stripPanels i g p x
         let ready := s.stripReady i x qs true
         (s.groupContained i g = true → exec (.sweepStrip i flt) s = .next ((s.missStrip i g c k).follow i)) ∧
         (s.groupContained i g = false → skip = true →
           exec (.sweepStrip i flt) s = .next ((s.skipStrip i g p x).follow i)) ∧
         (s.groupContained i g = false → skip = false → s.bankBad i = true →
           exec (.sweepStrip i flt) s = .next ((s.stopSweep i 0x90 0x05).follow i)) ∧
         (s.groupContained i g = false → skip = false → s.bankBad i = false →
           (∀ t : State, s.stripFault i flt qs = some t → exec (.sweepStrip i flt) s = .next (t.follow i)) ∧
           (s.stripFault i flt qs = none →
             (ready = .drop → exec (.sweepStrip i flt) s = .next ((s.missStrip i g c k).follow i)) ∧
             (∀ t : State, ready = .wait t → exec (.sweepStrip i flt) s = .next t) ∧
             (∀ s' : State, ready = .go → s.reserveAll (s.stripWrites i g p x) = some s' → exec (.sweepStrip i flt) s =
               .next ((((s'.setWait i false false).setSweepWait i false).runBody i r p x).follow i)) ∧
             (ready = .go → s.reserveAll (s.stripWrites i g p x) = none → (s.ten i).sweep.waitHawk = true →
               exec (.sweepStrip i flt) s = .next (s.setWait i false true)) ∧
             (ready = .go → s.reserveAll (s.stripWrites i g p x) = none → (s.ten i).sweep.waitHawk = false →
               ∃ t : State, exec (.sweepStrip i flt) s = .next t ∧ t = { s with tenants := t.tenants, flt := t.flt } ∧
                 (t.ten i).sweep = { (s.ten i).sweep with waitIntake := false, waitHawk := true } ∧
                 t.counter 0xA8 = s.counter 0xA8 + 1)))))) ∧
  (∀ (s : State) (i : Fin 64) (qs : List (Nat × Nat)),
      s.stripFault i .none qs = none ∧ s.stripFault i .hawk qs = none ∧ s.stripFault i .working qs = some s ∧
      (∀ c : Nat, ∃ s' : State, s.stripFault i (.intake c) qs = some ((s'.raiseT i 0x7F c).withhold i 0x06) ∧
        s' = s.updIntake i fun t => { t with
          chunks := t.chunks.map fun y => if y.no = c then { y with bad := true } else y }) ∧
      (∃ s' : State, s.stripFault i .microop qs = some ((s'.raiseT i 0x90).stopSweep i 0x90 0x05) ∧
        s' = { s with ib := s'.ib } ∧ (s'.bankOf i).st = .bad)) ∧
  (∀ (s : State) (i : Fin 64), s.sweepIn i .body = true →
      (∀ b : Build, (s.ten i).sweep.builds.find? (fun b => !s.stillTouched i true (b.ctx, b.panel)) = some b →
        exec (.sweepPanelWritten i) s = .next ((s.finishBuild i b).follow i)) ∧
      ((s.ten i).sweep.builds.find? (fun b => !s.stillTouched i true (b.ctx, b.panel)) = none →
        (∀ (g : Nat) (rest : List SweepItem), (s.ten i).sweep.todo = .scalar g :: rest →
          exec (.sweepPanelWritten i) s = .next ((s.writeScalar i g).follow i)) ∧
        ((∀ (g : Nat) (rest : List SweepItem), (s.ten i).sweep.todo ≠ .scalar g :: rest) →
          exec (.sweepPanelWritten i) s = .next s)) ∧
      ((∀ (c p : Nat) (rest : List SweepItem), (s.ten i).sweep.todo ≠ .zero c p :: rest) →
        exec (.retiringPanelZero i) s = .next s) ∧
      (∀ (c p : Nat) (rest : List SweepItem), (s.ten i).sweep.todo = .zero c p :: rest →
        (let coded : Prop := ∃ e : Entry, s.entry c = some e ∧ e.coded = true
         (s.anyInRepair [(c, p)] = true → exec (.retiringPanelZero i) s = .next s) ∧
         (∀ a : Nat, s.anyInRepair [(c, p)] = false → coded → s.badPanel [(c, p)] = some a →
           exec (.retiringPanelZero i) s = .next (s.digestFail a)) ∧
         (s.anyInRepair [(c, p)] = false → ¬ coded ∨ s.badPanel [(c, p)] = none →
           exec (.retiringPanelZero i) s = .next ((s.zeroPanel i c p).follow i)))))

/-- The commands of the instruction image, each refused where the window or R9 does not take it, the register then as it
was. LOAD of a bank a tenant selects leaves RESULT 0x0D, one while a LOAD or an arming is under way 0x0E; any other reads
the image, and completes in that bank, VALID with its digest and its pools placed, a repeated SALT logging 0x7E, or leaves
RESULT and event 0x80 + RESULT of its failure. ARM of a VALID bank moves the tenants without a sealed epoch at once and
ends where every tenant has moved; DISARM clears the arming. Where the manual leaves a point open, the choices of log
entries 9, 49, 53, 118, 119, 156, 161, 162, 173 and 194 hold. -/
def Obligations.BankRowsComplete : Prop :=
  (∀ (s : State) (a : Acc) (bank b : Bool), s.portsUp = true →
      (let open_ : Prop := s.windowOpen 0x3808 = true ∧ fromSystem a = true
       (¬ open_ ∨ s.rangeOk 4 s.ib.src.toNat (s.ib.len.toNat + 256) = false →
         exec (.ibLoad a bank b) s = .next (s.refuse a.id 0x3808)) ∧
       (¬ open_ ∨ (s.ib.bank bank).st ≠ .valid → exec (.ibArm a bank) s = .next (s.refuse a.id 0x3808)) ∧
       (¬ open_ → exec (.ibDisarm ⟨a, bank⟩) s = .next (s.refuse a.id 0x3808)))) ∧
  (∀ (s : State) (a : Acc) (bank b : Bool), windowTakes s a 0x3808 →
      s.rangeOk 4 s.ib.src.toNat (s.ib.len.toNat + 256) = true →
      (let s1 := (s.ok a.id).updIb fun x => { x with op := 1, opBank := bank }
       (s.bankUsers bank ≠ 0 → exec (.ibLoad a bank b) s = .next (s1.ibResult 0x0D 0)) ∧
       (s.bankUsers bank = 0 → s.ib.busy = true ∨ s.ib.armed = true →
         exec (.ibLoad a bank b) s = .next (s1.ibResult 0x0E 0)) ∧
       (s.bankUsers bank = 0 → s.ib.busy = false → s.ib.armed = false →
         ∃ t : State, exec (.ibLoad a bank b) s = .next t ∧ t = { s with ib := t.ib, gate := t.gate } ∧ t.ib.busy = true ∧
           t.ib.loading = bank ∧ t.ib.bank bank = {} ∧ t.ib.bank (!bank) = s.ib.bank (!bank) ∧ t.ib.stagedOk = b ∧
           t.ib.staged = s.bytesAt s.ib.src.toNat (s.ib.len.toNat + 256) ∧
           t.gate = { s.gate with ns := s.gate.ns ++ [{ id := a.id, status := .ok, cause := 0, data := 0 }] }))) ∧
  (∀ s : State, s.ib.busy = false ∨ s.flt.mode = .resetting → exec .ibLoadComplete s = .next s) ∧
  (∀ s : State, s.ib.busy = true → s.flt.mode ≠ .resetting →
      (let img := s.ib.staged.take (s.ib.staged.length - 256)
       let repeats := (imageOf img).progs.any saltRepeats
       (s.imageResult.1 ≠ 0 → exec .ibLoadComplete s =
         .next (State.ibResult { s with ib := { s.ib with busy := false, staged := [], stagedOk := true } }
           s.imageResult.1 s.imageResult.2)) ∧
       (s.imageResult.1 = 0 → ∃ t : State,
         (repeats = false → exec .ibLoadComplete s = .next t) ∧
         (repeats = true → exec .ibLoadComplete s = .next (t.raise { code := 0x7E })) ∧
         t = { s with ib := t.ib, loader := t.loader, work := t.work } ∧ t.ib.busy = false ∧
         t.ib.result = 0 ∧ (t.ib.bank s.ib.loading).st = .valid ∧ (t.ib.bank s.ib.loading).image = imageOf img ∧
         (t.ib.bank s.ib.loading).digest = sha256 img ∧
         t.ib.bank (!s.ib.loading) = s.ib.bank (!s.ib.loading) ∧
         t.loader = { s.loader with svn := BitVec.ofNat 32 (trailerSvn (s.ib.staged.drop (s.ib.staged.length - 256))) }))) ∧
  (∀ (s : State) (a : Acc) (bank : Bool), windowTakes s a 0x3808 → (s.ib.bank bank).st = .valid →
      (let s1 : State := (s.ok a.id).updIb fun b => { b with
         op := 2, opBank := bank, result := 0, armed := true, target := bank, armedAt := b.at_ }
       exec (.ibArm a bank) s = .next (tenantIdxs.foldl (fun s i => s.moveNow i) s1).checkArmed) ∧
      ((∀ i : Fin 64, (s.ten i).env = none) →
        ∃ t : State, exec (.ibArm a bank) s = .next t ∧ t = { s with ib := t.ib, gate := t.gate } ∧ t.ib.armed = false ∧
          t.ib.current = bank ∧ t.ib.result = 0)) ∧
  (∀ (s : State) (i : Fin 64),
      (s.ib.armed = true → (s.ten i).env ≠ none → (s.ten i).sealed = false → (s.ten i).bank ≠ s.ib.target →
        ∃ t : State, s.moveNow i = t.raiseT i 0x94 ∧ t = { s with tenants := t.tenants } ∧
          t.ten i = { s.ten i with bank := s.ib.target } ∧ ∀ j : Fin 64, j ≠ i → t.ten j = s.ten j) ∧
      (s.ib.armed = false ∨ (s.ten i).env = none ∨ (s.ten i).sealed = true ∨ (s.ten i).bank = s.ib.target →
        s.moveNow i = s)) ∧
  (∀ (s : State) (a : Acc) (bank : Bool), windowTakes s a 0x3808 →
      ∃ t : State, exec (.ibDisarm ⟨a, bank⟩) s = .next t ∧ t = { s with ib := t.ib, gate := t.gate } ∧
        t.ib = { s.ib with op := 3, opBank := bank, result := 0, armed := false } ∧
        t.gate = { s.gate with ns := s.gate.ns ++ [{ id := a.id, status := .ok, cause := 0, data := 0 }] })

/-- What the skim path sends. The injector serves one delta, at the host time the row brings: of the slots in ascending
number from the one after the slot served last, the first that has a delta its run order and the span rule allow, the
columns from the one it is in; a column the span rule holds counts under 0xAD. The epoch's mark goes to the confirmed
group of the peers once no delta of the slot is left; the acknowledgement a source is owed goes on the CONTROL channel.
Where the injector may not send, or nothing is due, nothing is sent. Where the manual leaves a point open, the choices
of log entries 15, 40, 81, 82, 95, 112, 157 and 200 hold. -/
def Obligations.SkimSendRowsComplete : Prop :=
  (∀ (s : State) (now : BitVec 64), s.injectorFree = false → exec (.skimDeltaSend now) s = .next s) ∧
  (∀ (s u : State) (now : BitVec 64) (i : Fin 64) (slot : Fin 16) (before after : List (Fin 16)), s.injectorFree = true →
      u = s.at_ now → s.slotOrder = before ++ slot :: after →
      (∀ k ∈ before, u.slotTenant k.val = none ∨ ∀ j : Fin 64, u.slotTenant k.val = some j → u.sendFrom j k = (u, false)) →
      u.slotTenant slot.val = some i → (u.sendFrom i slot).2 = true →
      exec (.skimDeltaSend now) s = .next ((u.sendFrom i slot).1.follow i)) ∧
  (∀ (s u : State) (now : BitVec 64), s.injectorFree = true → u = s.at_ now →
      (∀ (k : Fin 16) (j : Fin 64), u.slotTenant k.val = some j → u.sendFrom j k = (u, false)) →
      exec (.skimDeltaSend now) s = .next u) ∧
  (∀ (s : State) (slot : Fin 16) (i : Fin 64), s.attemptOpen i = false ∨ (s.slot slot.val).kind ≠ .sett →
      s.sendFrom i slot = (s, false)) ∧
  (∀ (s : State) (slot : Fin 16) (i : Fin 64) (before after : List Nat) (col : Nat) (r : HawkRec) (g : Group),
      s.attemptOpen i = true → (s.slot slot.val).kind = .sett → (s.slot slot.val).columns = before ++ col :: after →
      (∀ c ∈ before, s.stagedIn slot.val c = none) → s.stagedIn slot.val col = some r →
      (let hs := s.holders slot.val (rotationFor (s.slot slot.val).sett r.panel)
       s.confirmedGroup (.holders slot.val (rotationFor (s.slot slot.val).sett r.panel)) = some g →
       (s.spanOk slot.val hs (s.slot slot.val).next = true →
         ∃ t : State, t = s.firstSend i slot.val col r g.handle hs ∧
           s.sendFrom i slot = ({ t with hawk := { t.hawk with lastSlot := slot } }, true)) ∧
       (s.spanOk slot.val hs (s.slot slot.val).next = false → after = [] →
         s.sendFrom i slot = (s.count 0xAD, false)))) ∧
  (∀ (s : State) (slot : Fin 16),
      (s.slotTenant slot.val = none ∨ (s.hawk.recs.find? fun r => r.slot == slot && r.mark && r.st == .staged) = none ∨
        s.confirmedGroup (.peers slot.val) = none ∨ s.injectorFree = false ∨
        (∃ x ∈ s.hawk.recs, x.slot = slot ∧ x.mark = false) → exec (.epochMarkSend slot) s = .next s) ∧
      (∀ (i : Fin 64) (r : HawkRec) (g : Group), s.slotTenant slot.val = some i → s.injectorFree = true →
        (s.hawk.recs.find? fun r => r.slot == slot && r.mark && r.st == .staged) = some r →
        (∀ x ∈ s.hawk.recs, x.slot = slot → x.mark = true) → s.confirmedGroup (.peers slot.val) = some g →
        (let r' : HawkRec := { r with seq := some (s.slot slot.val).next, st := .out, owed := s.owedBy (s.peers slot.val) }
         ∃ s' : State, exec (.epochMarkSend slot) s =
             .next ((s'.send (s'.hawkFrame i r' (.group g.handle) false)).freeReleased.follow i) ∧
           s' = { s with hawk := { s.hawk with recs := s.hawk.recs.map fun x => if x = r then r' else x }, slots := s'.slots } ∧
           s'.slot slot.val = { s.slot slot.val with next := (s.slot slot.val).next + 1 } ∧
           ∀ k : Fin 16, k ≠ slot → s'.slot k.val = s.slot k.val))) ∧
  (∀ (s : State) (slot : Fin 16) (rank : Nat),
      (let due := (s.slot slot.val).sources.find? fun e => e.rank == rank && e.ackDue
       (s.slotTenant slot.val = none ∨ due = none → exec (.skimAckSend slot rank) s = .next s) ∧
       (∀ (i : Fin 64) (e : SrcEntry), s.slotTenant slot.val = some i → due = some e →
         (let mslot := match (s.slot slot.val).sett.rows[rank]? with | some r => r.mslot.toNat | none => 0
          let f := s.ctrlTo i e.addr 0x02 e.epoch e.tr (e.ackT mslot)
          (s.mayForm f = false → exec (.skimAckSend slot rank) s = .next s) ∧
          (s.mayForm f = true →
            ∃ t : State, exec (.skimAckSend slot rank) s = .next t ∧ t = { s with ep := t.ep, slots := t.slots } ∧
              (t.slot slot.val).sources = ((s.slot slot.val).sources.map fun y =>
                if y.rank = rank then { y with ackDue := false } else y) ∧
              (∀ k : Fin 16, k ≠ slot → t.slot k.val = s.slot k.val) ∧ f ∈ t.ep.ctrlQ ∧ t.ep.skimQ = s.ep.skimQ)))))

/-! ## Badger -/

/-- Requests at a helper. While Badger is in reset, and under a seal already applied, one is discarded; a full request table
counts 0x49; one that no slot can serve is logged under 0xD6; a read that fails discards it. One for digests alone is
answered with the digests of its panels; one for parts is accepted while the helper has reservation left, else counted
under 0xD5. At a replica-set slot the copies and their digests are sent at once. Where the manual leaves a point open, the
choices of log entries 9, 17, 30, 36, 65, 103, 105, 147 and 165 hold. -/
def Obligations.BadgerRequestRowsComplete : Prop :=
  (∀ (s : State) (f : Rx) (i : Fin 64) (donly : Bool) (flt : ReadFault), frameGood s f 0x40 i → tField f 50 14 = 0 → f.len = 0 →
    (s.at_ f.time).runEpochOk i f = true → (s.at_ f.time).knownIn i (tField f 45 4) f.src = true →
    f.t.getLsbD 49 = donly → (donly = true → flt = .none) →
    (let s' := s.at_ f.time
     let row : Instr := if donly then .badgerReqDigestOnly f else .badgerReq f flt
     let k : Fin 16 := Fin.ofNat 16 (tField f 45 4)
     let off : Prop := s'.sealOver i f = true ∨ ResetUnit.badger ∈ s.flt.inReset
     (off → exec row s = .next s') ∧
     (¬ off → 512 ≤ s'.requestsHeld → exec row s = .next (s'.count 0x49)) ∧
     (¬ off → s'.requestsHeld < 512 → (s.slot k.val).kind = .replica →
       exec row s = .next (s'.copyRequest i f k (tField f 0 23) (tField f 23 16) (tField f 39 6) donly flt)) ∧
     (¬ off → s'.requestsHeld < 512 → (s.slot k.val).kind ≠ .replica →
       s'.helpRunOf i f k (tField f 0 23) (tField f 23 16) (tField f 39 6) = none →
       exec row s = .next (s'.raise { code := 0xD6, tenant := f.tenant, detail := f.src.toNat })) ∧
     (∀ (h : HelpRun) (r : Nat), ¬ off → s'.requestsHeld < 512 → (s.slot k.val).kind ≠ .replica →
       s'.helpRunOf i f k (tField f 0 23) (tField f 23 16) (tField f 39 6) = some (h, r) →
       (let rd := s'.helperRead i flt (s'.readAddrs k.val (decide ((s'.slot k.val).sett.k ≤ h.pos))
          (((s'.helperPanels h r).filter fun p => !p.2).map (·.1)))
        (rd.2 = true → exec row s = .next rd.1) ∧
        (rd.2 = false → donly = true → exec row s = .next (s'.sendDigests h (s'.helperDigests h r))) ∧
        (rd.2 = false → donly = false → s'.reserved4k + tField f 23 16 ≤ Config.reservationUnits →
          exec row s = .next (s'.acceptRun h r)) ∧
        (rd.2 = false → donly = false → Config.reservationUnits < s'.reserved4k + tField f 23 16 →
          exec row s = .next (s'.count 0xD5)))))) ∧
  (∀ (s : State) (h : HelpRun) (r : Nat),
      (let s1 : State := { s with badger := { s.badger with
         helps := s.badger.helps ++ [h], peak := max s.badger.peak (s.reserved4k + h.accs.length) } }
       (s1.helperReady h r = true → s.acceptRun h r = s1.fillRun h r) ∧
         (s1.helperReady h r = false → s.acceptRun h r = s1))) ∧
  (∀ (s : State) (i : Fin 64) (f : Rx) (k : Fin 16) (first count lost : Nat) (donly : Bool) (flt : ReadFault),
      (let bad : Prop := lost ≠ 0 ∨ (s.slot k.val).dcap < first + count ∨ count = 0
       let ps := (List.range count).map (first + ·)
       let rd := s.helperRead i flt (s.readAddrs k.val false ps)
       (bad → s.copyRequest i f k first count lost donly flt =
         s.raise { code := 0xD6, tenant := f.tenant, detail := f.src.toNat }) ∧
       (¬ bad → rd.2 = true → s.copyRequest i f k first count lost donly flt = rd.1) ∧
       (¬ bad → rd.2 = false → donly = false → Config.reservationUnits < s.reserved4k + count →
         s.copyRequest i f k first count lost donly flt = s.count 0xD5) ∧
       (¬ bad → rd.2 = false → donly = true → ∃ h : HelpRun, h.tidx = i ∧ h.requester = f.src ∧ h.first = first ∧
         h.count = count ∧ h.epoch = f.epoch.toNat ∧ s.copyRequest i f k first count lost donly flt =
           s.sendDigests h (ps.map fun p => s.ownDigest k.val false p)) ∧
       (¬ bad → rd.2 = false → donly = false → s.reserved4k + count ≤ Config.reservationUnits →
         ∃ (h : HelpRun) (t : State), h.tidx = i ∧ h.requester = f.src ∧ h.parent = f.src ∧ h.first = first ∧ h.count = count ∧
           h.epoch = f.epoch.toNat ∧ (h.accs.map fun a => a.bytes) = (ps.map fun p => s.ownPanel k.val false p) ∧
           t = { s.sendDigests h (ps.map fun p => s.ownDigest k.val false p) with badger := t.badger } ∧
           t.badger = { s.badger with peak := t.badger.peak } ∧
           s.copyRequest i f k first count lost donly flt = h.accs.foldl (fun s a => s.send (s.partFrame h a)) t)))

/-- Parts, digests and completion records where they arrive. A part goes to the helper's accumulator that owes it, else to
the panel of a run that waits for it, which is then judged; a digest list goes to every panel of its run that has none of
its source, each of them judged; any other part or list is counted under 0xD7, and one of a seal already applied changes
nothing. At the job manager the last record of a target owes KIND 5, once, and the record of a region begins the offer
to its target; elsewhere a record changes nothing. Where the manual leaves a point open, the choices of log entries 9,
17, 30, 36, 65, 71, 147 and 165 hold. -/
def Obligations.BadgerArrivalRowsComplete : Prop :=
  (∀ (s : State) (f : Rx) (i : Fin 64) (render : Bool), f.t.getLsbD 63 = false → f.len = 4096 → f.payload.length = 4096 →
      (s.at_ f.time).knownIn i (tField f 59 4) f.src = true → (s.at_ f.time).runEpochOk i f = true →
      frameGood s f (if render then 0x62 else 0x41) i → f.tr = (if render then 127 else 0) →
      (let s1 := s.at_ f.time
       let row : Instr := if render then .render f else .badgerPart f
       let cm : BitVec 36 := BitVec.ofNat 36 (tField f 23 36)
       let mine := s1.partFor i f (tField f 59 4) (tField f 0 23) cm render
       let fits (r : Run) : Prop := r.tidx = i ∧ r.slot.val = tField f 59 4 ∧ (r.kind = .render ↔ render = true) ∧
         r.epoch = f.epoch.toNat ∧ r.donly = false ∧ r.partOk f.src cm = true
       let open_ (r : Run) (p : RunPanel) : Bool := s1.runPanel r p.i == tField f 0 23 && p.part.isNone
       (s1.sealOver i f = true → exec row s = .next (s1.follow i)) ∧
       (∀ (h : HelpRun) (j pos : Nat), s1.sealOver i f = false → mine = some (h, j, pos) →
         (let h' : HelpRun := { h with accs := h.accs.map fun a => if a.i = j then
            { a with bytes := xorBytes a.bytes f.payload, cmask := a.cmask ||| cm, owes := a.owes.filter (· != pos) } else a }
          exec row s = .next ((State.sendParts { s1 with badger := { s1.badger with
            helps := s1.badger.helps.map fun x => if x = h then h' else x } } h').follow i))) ∧
       (∀ (r : Run) (p : RunPanel) (before after : List Run), s1.sealOver i f = false → mine = none →
         s1.badger.runs = before ++ r :: after → (∀ x ∈ before, ¬ fits x ∨ ∀ y ∈ x.panels, open_ x y = false) → fits r →
         r.panels.find? (open_ r) = some p →
         exec row s = .next ((s1.updRunPanel r p.i fun p => { p with part := some f.payload }).follow i)) ∧
       (s1.sealOver i f = false → mine = none → (∀ x ∈ s1.badger.runs, ¬ fits x ∨ ∀ y ∈ x.panels, open_ x y = false) →
         exec row s = .next ((s1.count 0xD7).follow i)))) ∧
  (∀ (s : State) (r : Run) (j : Nat) (g : RunPanel → RunPanel),
      (let r' : Run := { r with panels := r.panels.map fun p => if p.i = j then g p else p }
       s.updRunPanel r j g = State.judgePanel { s with badger := { s.badger with
         runs := s.badger.runs.map fun x => if x = r then r' else x } } r' j)) ∧
  (∀ (s : State) (f : Rx) (i : Fin 64), frameGood s f 0x52 i → digestOk2 f = true → tField f 33 4 = 15 →
      tField f 0 23 ≠ 0x7FFFFF → f.payload.length = 8 * tField f 23 10 → (s.at_ f.time).runEpochOk i f = true →
      (let s1 := s.at_ f.time
       let run := s1.runAt i (tField f 0 23) f.epoch.toNat
       (s1.sealOver i f = true → exec (.digestXRebuild f) s = .next (s1.follow i)) ∧
       (s1.sealOver i f = false → run = none → exec (.digestXRebuild f) s = .next ((s1.count 0xD7).follow i)) ∧
       (∀ r : Run, s1.sealOver i f = false → run = some r →
         (let has (h : Nat × Addr) (p : RunPanel) : Bool := p.digs.any fun d => d.1 == h.1
          (r.helpers.find? (fun x => x.2 == f.src) = none →
            exec (.digestXRebuild f) s = .next ((s1.count 0xD7).follow i)) ∧
          (∀ h : Nat × Addr, r.helpers.find? (fun x => x.2 == f.src) = some h →
            (r.count ≠ tField f 23 10 ∨ r.panels.all (has h) = true →
              exec (.digestXRebuild f) s = .next ((s1.count 0xD7).follow i)) ∧
            (r.count = tField f 23 10 → r.panels.all (has h) = false →
              (let r' : Run := { r with panels := r.panels.map fun p => if has h p then p else
                 { p with digs := p.digs ++ [(h.1, BitVec.ofNat 64 (leField f.payload (8 * p.i) 8))] } }
               let s2 : State := { s1 with badger := { s1.badger with
                 runs := s1.badger.runs.map fun x => if x = r then r' else x } }
               exec (.digestXRebuild f) s = .next (((r'.panels.map (·.i)).foldl (fun s j =>
                 match s.runAt i (tField f 0 23) f.epoch.toNat with
                 | some x => s.judgePanel x j
                 | none => s) s2).follow i)))))))) ∧
  (∀ (s : State) (f : Rx) (i : Fin 64), frameGood s f 0x52 i → digestOk2 f = true → tField f 33 4 = 15 →
      tField f 0 23 = 0x7FFFFF → tField f 23 10 = 4 → f.len = 32 → leField f.payload 28 4 < 2 ^ 25 →
      leField f.payload 24 4 < 2 ^ 25 → f.tr = 0 → (s.at_ f.time).runEpochOk i f = true →
      (let s1 := s.at_ f.time
       let target : Prop := ∃ p ∈ (s.ten i).fox.replacing, p.2 = f.src
       let last := (leField f.payload 24 4).testBit 24
       (s1.isJobManager i = false → exec (.completionRecord f) s = .next s1) ∧
       (s1.isJobManager i = true → last = true → ¬ target → exec (.completionRecord f) s = .next s1) ∧
       (s1.isJobManager i = true → last = true → target →
         ∃ t : State, exec (.completionRecord f) s = .next t ∧ t = { s1 with tenants := t.tenants } ∧
           t.ten i = { s.ten i with fox := { (s.ten i).fox with owed := addOnce (5, f.src, 0) (s.ten i).fox.owed } } ∧
           ∀ j : Fin 64, j ≠ i → t.ten j = s.ten j) ∧
       (s1.isJobManager i = true → last = false →
         ∃ o : Offer, exec (.completionRecord f) s = .next (s1.beginOffer o) ∧ o.ctx = leField f.payload 14 2 ∧ o.own = false ∧
           o.tidx = i ∧ o.dst = f.src ∧ o.epoch = leField f.payload 8 6 ∧
           o.t = BitVec.ofNat 64 (handoverT 1 (leField f.payload 14 2) (leField f.payload 24 4 % 2 ^ 24)) ∧
           o.payload = handoverPayload (leField f.payload 0 8) (leField f.payload 8 6)
             (BitVec.ofNat 64 (leField f.payload 16 8)) f.src (leField f.payload 28 4 % 2 ^ 23)
             (leField f.payload 28 4 / 2 ^ 23 % 4))))

/-- Handover offers and their answers. An OFFER is answered TAKEN where it took the region before, and where the LOADING
region it describes is complete at the committed epoch with the DROOT it names, which makes it ACTIVE and sealed; any
other is answered REFUSED, and a target whose LOADING region is refused fills it again, with event 0xDC. TAKEN of the
own offer ends the offer and frees the ACTIVE region it names; a TAKEN that names nothing of the kind and a REFUSED end
the offer alone. Where the manual leaves a point open, the choices of log entries 9, 17, 30, 36, 65, 108, 147, 165, 185
and 188 hold. -/
def Obligations.HandoverRowsComplete : Prop :=
  (∀ (s : State) (f : Rx) (i : Fin 64), frameGood s f 0x70 i → handoverOk f 1 = true → f.len = 32 →
      (let s1 := s.at_ f.time
       let epoch := leField f.payload 8 6
       let droot : Word := BitVec.ofNat 64 (leField f.payload 16 8)
       (s1.offered i f = none → exec (.handoverOffer f) s = .next (s1.answerOffer i f 3)) ∧
       (∀ (c : Nat) (e : Entry), s1.offered i f = some (c, e) →
         (let again : Prop := e.state ≠ .loading ∧ e.taken = some (epoch, droot)
          let good : Prop := e.state = .loading ∧ s1.dataComplete i c e = true ∧ epoch = (s.ten i).commit.committed ∧
            s1.droot e = droot
          (again → exec (.handoverOffer f) s = .next (s1.answerOffer i f 2)) ∧
          (good → exec (.handoverOffer f) s = .next (((s1.takeOver i c e epoch droot).answerOffer i f 2).follow i)) ∧
          (¬ again → ¬ good → (s.ten i).bg.subject = none ∨ e.state ≠ .loading →
            exec (.handoverOffer f) s = .next (s1.answerOffer i f 3)) ∧
          (¬ good → (s.ten i).bg.subject ≠ none → e.state = .loading →
            exec (.handoverOffer f) s = .next (((s1.updBg i fun b => { b with
              records := b.records.filter fun r => r.ctx != some c, verified := b.verified.filter fun x => x.1 != c
              pending := b.pending.filter fun x => x.1 != c }).raiseT i 0xDC c).answerOffer i f 3)))))) ∧
  (∀ (s : State) (f : Rx) (i : Fin 64), frameGood s f 0x70 i → handoverOk f 2 = true → f.len = 32 →
      (let c := tField f 12 16
       let s1 := (s.at_ f.time).endOffer i c f.src
       let own : Prop := ∃ o ∈ s.ctx.offers, o.own = true ∧ o.tidx = i ∧ o.ctx = c ∧ o.dst = f.src
       let names (e : Entry) : Prop := e.state = .active ∧ e.tenant = s.tagOf i ∧ e.coord 0 = leField f.payload 0 8 ∧
         e.lenp = tField f 28 24
       (∀ e : Entry, own → s.entry c = some e → names e → exec (.handoverTaken f) s = .next ((s1.freeRegion c).follow i)) ∧
       (¬ own ∨ (∀ e : Entry, s.entry c = some e → ¬ names e) → exec (.handoverTaken f) s = .next s1))) ∧
  (∀ (s : State) (f : Rx) (i : Fin 64), frameGood s f 0x70 i → handoverOk f 3 = true → f.len = 32 →
      ∃ t : State, exec (.handoverRefused f) s = .next t ∧ t = { s.at_ f.time with ctx := t.ctx } ∧
        t.ctx = { s.ctx with offers := t.ctx.offers } ∧
        ∀ o : Offer, o ∈ t.ctx.offers ↔ o ∈ s.ctx.offers ∧ ¬ (o.tidx = i ∧ o.ctx = tField f 12 16 ∧ o.dst = f.src))

/-- The rebuild engine. A target whose regions stand, its slots formed, starts. Badger, where it works and DEPTH leaves room,
starts the first in order of the runs that wait, the next repair and the next run of the rebuild; HOLD keeps the later two
phases back. A request that timed out is made again and counted under 0xD8; a helper's expired run, of a rebuild or an
audit, is dropped; a completion record is repeated, 0xDE once after 64; RETRY sets HOLD and asks again for what was given
up. A Render run starts under a seal, over panels neither asked for nor rendered. Where the manual leaves a point open,
the choices of log entries 9, 30, 40, 89, 95, 101, 103, 112, 161, 166, 169, 185 and 188 hold. -/
def Obligations.BadgerEngineRowsComplete : Prop :=
  (∀ (s : State) (i : Fin 64),
      (let go : Prop := (s.ten i).env ≠ none ∧ (s.ten i).bg.state = .setup ∧ (s.ten i).bg.decided = true ∧
         (s.ten i).fox.self = .member ∧ s.flt.mode = .normal ∧ s.usedSlots i ≠ [] ∧
         (∀ k ∈ s.settSlots i, (s.slot k).st ≠ .forming) ∧ s.regionsStand i = true
       (¬ go → exec (.badgerStart i) s = .next s) ∧
       (go → ∃ s' : State, exec (.badgerStart i) s = .next ((s'.bgSettle i).follow i) ∧ s' = { s with tenants := s'.tenants } ∧
         s'.ten i = { s.ten i with bg := { (s.ten i).bg with
           state := .demand, filling := (s.entriesOf (s.tagOf i)).map (·.1) } } ∧
         ∀ j : Fin 64, j ≠ i → s'.ten j = s.ten j))) ∧
  (∀ (s : State) (i : Fin 64),
      (let off : Prop := (s.ten i).env = none ∨ s.badgerFree = false ∨ (s.ten i).commit.vstate = .none ∨
         (s.ten i).fox.self = .fenced
       let s1 := s.dropRepairs i
       let waits := s1.badger.wait.filter fun r => r.tidx == i && !s1.heldRun r
       let st := (s.ten i).bg.state
       let rebuilds : Prop := st ≠ .idle ∧ st ≠ .setup ∧ st ≠ .complete
       (off → exec (.badgerRunRequest i) s = .next s) ∧
       (∀ rs : List Run, ¬ off →
         ((rebuilds → rs = waits ++ (s1.nextRepair i).take 1 ++ (s1.nextRebuild i).take 1) ∧
           (¬ rebuilds → rs = waits ++ (s1.nextRepair i).take 1)) →
         (s1.firstRun (rs.filter s1.mayStart) = none → exec (.badgerRunRequest i) s = .next s1) ∧
         (∀ r : Run, s1.firstRun (rs.filter s1.mayStart) = some r →
           exec (.badgerRunRequest i) s = .next (s1.startRun r))))) ∧
  (∀ (s : State) (r : Run), ∃ t : State, t = { s with badger := t.badger } ∧
      t.badger = { s.badger with
        runs := s.badger.runs ++ [{ r with since := s.time.now }], wait := s.badger.wait.filter (· != r) } ∧
      s.startRun r = r.helpers.foldl (fun s h => s.send (s.reqFrame r h.2)) t) ∧
  (∀ (s : State) (r : Run),
      (s.mayStart r = true → s.sendRun r = s.startRun r) ∧
      (s.mayStart r = false → s.sendRun r = { s with badger := { s.badger with wait := s.badger.wait ++ [r] } })) ∧
  (∀ (s : State) (i : Fin 64) (p : Nat),
      (let run := s.badger.runs.find? fun r => r.tidx == i && r.first == p
       (run = none ∨ s.badgerWorks = false → exec (.badgerRtoTarget i p) s = .next s) ∧
       (∀ r : Run, run = some r → s.badgerWorks = true → exec (.badgerRtoTarget i p) s =
         .next (((s.reach r.since (1000 * s.cfg.glob.rto)).rerequest r r.epoch).count 0xD8)))) ∧
  (∀ (s : State) (n : Nat),
      (∀ h : HelpRun, s.badger.helps[n]? = some h →
        (let s1 := s.reach h.since (1000 * s.cfg.glob.rto)
         exec (.badgerRtoHelper n) s = .next { s1 with badger := { s.badger with helps := s.badger.helps.eraseIdx n } })) ∧
      (∀ h : AuHelp, s.badger.helps.length ≤ n → s.audit.helps[n - s.badger.helps.length]? = some h →
        (let s1 := s.reach h.since (1000 * s.cfg.glob.rto)
         exec (.badgerRtoHelper n) s = .next (State.follow { s1 with
           audit := { s.audit with helps := s.audit.helps.eraseIdx (n - s.badger.helps.length) } } h.tidx))) ∧
      (s.badger.helps.length + s.audit.helps.length ≤ n → exec (.badgerRtoHelper n) s = .next s)) ∧
  (∀ (s : State) (i : Fin 64) (ctx : Option Nat),
      ((s.ten i).bg.records.filter (fun r => r.ctx == ctx) = [] → exec (.completionRecordRepeat i ctx) s = .next s) ∧
      (∀ r : Completion, (s.ten i).bg.records.filter (fun r => r.ctx == ctx) = [r] →
        ∃ s' : State, s' = { s.reach r.since 100000 with tenants := s'.tenants } ∧
          s'.ten i = { s.ten i with bg := { (s.ten i).bg with records := (s.ten i).bg.records.map fun x =>
            if x = r then { r with sent := r.sent + 1, since := s'.time.now } else x } } ∧
          (∀ j : Fin 64, j ≠ i → s'.ten j = s.ten j) ∧
          (r.sent ≠ 64 → exec (.completionRecordRepeat i ctx) s = .next (s'.sendRecord i r)) ∧
          (r.sent = 64 → exec (.completionRecordRepeat i ctx) s = .next ((s'.raiseT i 0xDE).sendRecord i r)))) ∧
  (∀ (s : State) (a : Acc) (hold : Bool), s.portsUp = true →
      (let taken : Prop := s.windowOpen 0x5820 = true ∧ fromSystem a = true
       let s1 : State := { s.ok a.id with badger := { s.badger with hold := hold, unresolved := [] } }
       (¬ taken → exec (.bgRetry a hold) s = .next (s.refuse a.id 0x5820)) ∧
       (taken → exec (.bgRetry a hold) s = .next (tenantIdxs.foldl (fun s i => s.bgSettle i) s1)) ∧
       (taken → (∀ i : Fin 64, (s.ten i).bg.state = .idle) → exec (.bgRetry a hold) s = .next s1))) ∧
  (∀ (s : State) (r : RunSel), s.slotTenant r.slot = none ∨ 16 ≤ r.slot → exec (.renderRequest r) s = .next s) ∧
  (∀ (s : State) (r : RunSel) (i : Fin 64) (h : r.slot < 16), s.slotTenant r.slot = some i →
      (let d := (s.slot r.slot).sett
       let free (p : Nat) : Bool := decide (p < d.q) && !s.inRun r.slot true p && !(s.ten i).rs.rendered.contains (r.slot, p)
       let go : Prop := (s.ten i).rs.sealing = true ∧ s.badgerFree = true ∧ (s.slot r.slot).kind = .sett ∧
         free r.first = true ∧ s.mayBegin r.slot true r.first = true
       let n := ((List.range (max 1 s.cfg.glob.run)).takeWhile fun j => free (r.first + j * max 1 d.m)).length
       let runs := s.mkRuns i .render ⟨r.slot, h⟩ (d.k + r.first % max 1 d.m) (s.ten i).rs.boundary false n r.first n
       (¬ go → exec (.renderRequest r) s = .next s) ∧
       (go → runs = [] → exec (.renderRequest r) s = .next s) ∧
       (∀ (run : Run) (rest : List Run), go → runs = run :: rest →
         exec (.renderRequest r) s = .next (s.sendRun run))))

/-! ## The context table -/

/-- The context commands: the operation is kept and RESULT posted, a refusal logging 0x50 plus RESULT with the entry's index
and changing nothing else, 0x0C logging nothing. READ answers the entry's words, or zeros; FIND the entry that holds a
coordinate or 0x0C; INSTALL puts an entry that passes the checks of R91 in their order; MODIFY acts at once while LOADING,
else at the boundary; RETIRE frees a LOADING region or an unsealed CONTAINED one at once, an ACTIVE one at the boundary;
HANDOVER_OUT begins an offer. An offer not answered is repeated, after 64 times given up with 0x5E. Where the manual
leaves a point open, the choices of log entries 9, 30, 32, 70, 71, 161, 165 and 166 hold. -/
def Obligations.ContextRowsComplete : Prop :=
  (∀ (s : State) (a : Acc), s.portsUp = true → s.windowOpen 0x4008 = false →
      ∀ c : Instr, c ∈ [Instr.ctxRead a, .install a, .modify a, .retire a, .find a, .handoverOut a] →
        exec c s = .next (s.refuse a.id 0x4008)) ∧
  (∀ (s : State) (r : Nat),
      (let s1 : State := { s with ctx := { s.ctx with result := BitVec.ofNat 8 r } }
       (r = 0 ∨ r = 0x0C → s.ctxResult r = s1) ∧
       (r ≠ 0 → r ≠ 0x0C → s.entry s.ctx.index.toNat = none →
         s.ctxResult r = s1.raise { code := 0x50 + r, detail := s.ctx.index.toNat }) ∧
       (∀ e : Entry, r ≠ 0 → r ≠ 0x0C → s.entry s.ctx.index.toNat = some e →
         s.ctxResult r = s1.raise { code := 0x50 + r, tenant := e.tenant, detail := s.ctx.index.toNat }))) ∧
  (∀ (s : State) (a : Acc), s.portsUp = true → s.windowOpen 0x4008 = true →
      (let idx := s.ctx.index.toNat
       let done (op : BitVec 4) : State := { s.ok a.id with ctx := { s.ctx with op := op } }
       let tag : Tag := BitVec.ofNat 16 (bitsOf (s.ctx.word 0) 16 16)
       let coord := s.ctx.word 3
       let holds (p : Nat × Entry) : Bool := p.2.tensor.toNat == coord / 2 ^ 40 &&
         decide (p.2.lfirst.toNat ≤ coord % 2 ^ 40) && decide (coord % 2 ^ 40 < p.2.lfirst.toNat + p.2.lenp)
       (s.entry idx = none → exec (.ctxRead a) s =
         .next (State.ctxResult { done 1 with ctx := { s.ctx with op := 1, data := Vector.replicate 8 0 } } 0)) ∧
       (∀ e : Entry, s.entry idx = some e →
         (s.tenantAllowed a e.tenant = false → exec (.ctxRead a) s = .next ((done 1).ctxResult 0x03)) ∧
         (s.tenantAllowed a e.tenant = true → exec (.ctxRead a) s = .next (State.ctxResult { done 1 with
           ctx := { s.ctx with op := 1, data := Vector.ofFn fun w => BitVec.ofNat 64 (e.words.getD w.val 0) } } 0))) ∧
       (∀ e : Entry, s.installCheck a idx = (0, some e) → exec (.install a) s = .next (State.ctxResult { done 2 with
           ctx := { s.ctx with op := 2, table := NMap.insert s.ctx.table idx e } } 0)) ∧
       (∀ r : Nat, s.installCheck a idx = (r, none) → exec (.install a) s = .next ((done 2).ctxResult r)) ∧
       (s.entry idx = none → exec (.modify a) s = .next ((done 3).ctxResult 0x0B) ∧
         exec (.retire a) s = .next ((done 4).ctxResult 0x0B) ∧ exec (.handoverOut a) s = .next ((done 6).ctxResult 0x0B)) ∧
       (∀ e : Entry, s.entry idx = some e →
         (let cls := clsOf (bitsOf (s.ctx.word 0) 3 2)
          (e.admitsModify = false → exec (.modify a) s = .next ((done 3).ctxResult 0x0B)) ∧
          (e.admitsModify = true → cls = none → exec (.modify a) s = .next ((done 3).ctxResult 0x04)) ∧
          (e.admitsModify = true → cls ≠ none → s.tenantAllowed a e.tenant = false →
            exec (.modify a) s = .next ((done 3).ctxResult 0x03)) ∧
          (∀ (c : Cls) (i : Fin 64), e.admitsModify = true → cls = some c → s.tenantOf e.tenant = some i →
            mayAct a e.tenant = true →
            (s.classOk i c (bitsOf (s.ctx.word 0) 48 4) = false ∨ c.slotKind ≠ e.cls.slotKind →
              exec (.modify a) s = .next ((done 3).ctxResult 0x0A)) ∧
            (s.classOk i c (bitsOf (s.ctx.word 0) 48 4) = true → c.slotKind = e.cls.slotKind →
              exec (.modify a) s = .next (State.ctxResult { done 3 with ctx := { s.ctx with
                op := 3, table := NMap.insert s.ctx.table idx (s.ctx.modified c e) } } 0))))) ∧
       (∀ e : Entry, s.entry idx = some e →
         (let admits : Prop := e.state = .loading ∨ e.state = .active ∨ (e.state = .contained ∧ e.sealed = false)
          (¬ admits → exec (.retire a) s = .next ((done 4).ctxResult 0x0B)) ∧
          (admits → s.tenantAllowed a e.tenant = false → exec (.retire a) s = .next ((done 4).ctxResult 0x03)) ∧
          (s.tenantAllowed a e.tenant = true → e.state = .active → exec (.retire a) s = .next (State.ctxResult { done 4 with
            ctx := { s.ctx with op := 4, table := NMap.insert s.ctx.table idx { e with staged := some .retire } } } 0)) ∧
          (admits → s.tenantAllowed a e.tenant = true → e.state ≠ .active →
            exec (.retire a) s = .next (((done 4).freeRegion idx).ctxResult 0)))) ∧
       (∀ e : Entry, s.entry idx = some e →
         (e.state ≠ .active → exec (.handoverOut a) s = .next ((done 6).ctxResult 0x0B)) ∧
         (e.state = .active → s.tenantAllowed a e.tenant = false → exec (.handoverOut a) s = .next ((done 6).ctxResult 0x03)) ∧
         (∀ i : Fin 64, e.state = .active → s.tenantOf e.tenant = some i → mayAct a e.tenant = true →
           ∃ o : Offer, exec (.handoverOut a) s = .next (((done 6).beginOffer o).ctxResult 0) ∧ o.ctx = idx ∧ o.own = true ∧
             o.tidx = i ∧ o.dst = s.ctx.arg ∧ o.epoch = e.epoch ∧
             o.t = BitVec.ofNat 64 (handoverT 1 idx e.lenp) ∧
             o.payload = handoverPayload (e.coord 0) e.epoch e.droot s.ctx.arg e.spanel e.cls.code)) ∧
       (s.tenantAllowed a tag = false → exec (.find a) s = .next ((done 5).ctxResult 0x03)) ∧
       (s.tenantAllowed a tag = true → (s.entriesOf tag).find? holds = none →
         exec (.find a) s = .next ((done 5).ctxResult 0x0C)) ∧
       (∀ p : Nat × Entry, s.tenantAllowed a tag = true → (s.entriesOf tag).find? holds = some p →
         exec (.find a) s = .next (State.ctxResult { done 5 with
           ctx := { s.ctx with op := 5, index := BitVec.ofNat 16 p.1 } } 0)))) ∧
  (∀ (s : State) (a : Acc) (idx : Nat),
      (let c := s.ctx
       let e (cls : Cls) : Entry := c.image cls 0
       let cl := clsOf (bitsOf (c.word 0) 3 2)
       (s.entry idx ≠ none → s.installCheck a idx = (0x0B, none)) ∧
       (s.entry idx = none → cl = none ∨ c.reservedOk = false → s.installCheck a idx = (0x04, none)) ∧
       (∀ cls : Cls, s.entry idx = none → cl = some cls → c.reservedOk = true →
         (s.tenantAllowed a (e cls).tenant = false → s.installCheck a idx = (0x03, none)) ∧
         (∀ i : Fin 64, s.tenantOf (e cls).tenant = some i → mayAct a (e cls).tenant = true →
           (let x := e cls
            let inside : Prop := 1 ≤ x.lenp ∧ x.lenp ≤ Config.liveLimit ∧ s.spanBase ≤ 4096 * x.basep ∧
              4096 * (x.basep + 2 * x.lenp) ≤ s.spanBase + s.spanLen
            let clash := s.extentClash x.basep x.lenp
            let fits := s.slotFits i cls x.slot x.spanel x.lenp
            let coord := s.coordClash x.tenant x.tensor x.lfirst.toNat x.lenp
            let okCls := s.classOk i cls x.sgrp.toNat
            (¬ inside → s.installCheck a idx = (0x05, none)) ∧
            (inside → clash = true → s.installCheck a idx = (0x06, none)) ∧
            (inside → clash = false → fits = false → s.installCheck a idx = (0x07, none)) ∧
            (inside → clash = false → fits = true → coord = true → s.installCheck a idx = (0x08, none)) ∧
            (inside → clash = false → fits = true → coord = false → okCls = false →
              s.installCheck a idx = (0x0A, none)) ∧
            (inside → clash = false → fits = true → coord = false → okCls = true → s.quotaOk i x.tenant x.lenp = false →
              s.installCheck a idx = (0x09, none)) ∧
            (inside → clash = false → fits = true → coord = false → okCls = true → s.quotaOk i x.tenant x.lenp = true →
              s.installCheck a idx = (0, some { x with gen := (s.ten i).fox.gen }))))))) ∧
  (∀ (s : State) (o : Offer), s.ctx.offers.filter (fun x => x.ctx == o.ctx) = [o] →
      (let s1 := s.reach o.since 100000
       (o.sent < 64 → exec (.handoverOfferRepeat o.ctx) s =
         .next (State.sendOffer { s1 with ctx := { s.ctx with offers := s.ctx.offers.map fun x =>
           if x = o then { o with sent := o.sent + 1, since := s1.time.now } else x } } o)) ∧
       (64 ≤ o.sent → exec (.handoverOfferRepeat o.ctx) s = .next (State.raise { s1 with
         ctx := { s.ctx with offers := s.ctx.offers.filter fun x => x != o } }
           { code := 0x5E, tenant := s.tagOf o.tidx, detail := o.ctx })))) ∧
  (∀ (s : State) (c : Nat),
      (let again (s : State) (o : Offer) : State :=
         let s1 := s.reach o.since 100000
         if o.sent < 64 then
           State.sendOffer { s1 with ctx := { s.ctx with offers := s.ctx.offers.map fun x =>
             if x = o then { o with sent := o.sent + 1, since := s1.time.now } else x } } o
         else
           State.raise { s1 with ctx := { s.ctx with offers := s.ctx.offers.filter fun x => x != o } }
             { code := 0x5E, tenant := s.tagOf o.tidx, detail := o.ctx }
       exec (.handoverOfferRepeat c) s = .next ((s.ctx.offers.filter fun o => o.ctx == c).foldl again s) ∧
       ((∀ o ∈ s.ctx.offers, o.ctx ≠ c) → exec (.handoverOfferRepeat c) s = .next s)))

/-! ## Reslice -/

/-- The boundary's frames. A COUNT at the boundary, or before the own one of an instance armed for it, is noted and
answered; with the first a joiner enters its boundary; one after the seal is answered SEALED and one after a cancel CANCEL.
A DONE that states the count announced ends its destination's part; a RESEND sends the panels of that destination again
and one from elsewhere changes nothing; a leaver tears down at SEALED; a CANCEL cancels; the panel of a MOVE is taken,
its source noted with it where it was not known, and answered where it was the last announced. Where the manual leaves a
point open, the choices of log entries 9, 17, 24, 30, 36, 65, 76, 90, 102, 105, 106, 147, 165, 184 and 187 hold. -/
def Obligations.ResliceFrameRowsComplete : Prop :=
  (∀ (s : State) (f : Rx) (i : Fin 64), frameGood s f 0x60 i → tField f 32 32 = 0 → f.len = 0 →
      (let s' := s.at_ f.time
       let r := (s.ten i).rs
       let taken : Prop := s'.boundaryOk i f = true ∨ s'.armedFor i f = true
       let noted (x : State) : State :=
         (((x.noteSource i f.src (tField f 0 32)).answerDone i f.src).syncBoundary i).follow i
       (f.tr = 0 → taken → r.state ≠ .armed ∨ r.joiner = false → exec (.resliceCount f) s = .next (noted s')) ∧
       (f.tr = 0 → taken → r.state = .armed → r.joiner = true → exec (.resliceCount f) s =
         .next (noted ((s'.updRs i fun r => { r with boundary := f.epoch.toNat }).enterBoundary i))) ∧
       (f.tr = 0 → ¬ taken → r.lastSeal = some f.epoch.toNat →
         exec (.resliceCount f) s = .next (s'.answerCount i f.src f.epoch.toNat 3 0)) ∧
       (f.tr = 0 → ¬ taken → r.lastSeal ≠ some f.epoch.toNat → r.cancelled = true → f.epoch.toNat = r.boundary →
         exec (.resliceCount f) s = .next (s'.answerCount i f.src f.epoch.toNat 4 0)) ∧
       (f.tr = 1 → s'.boundaryOk i f = true → ∃ s1 : State,
         exec (.resliceDone f) s = .next ((s1.syncBoundary i).follow i) ∧ s1 = { s' with tenants := s1.tenants } ∧
         s1.ten i = { s.ten i with rs := { r with dests := r.dests.map fun d =>
           if d.addr = f.src ∧ d.count % 2 ^ 32 = tField f 0 32 then { d with done := true } else d } } ∧
         ∀ j : Fin 64, j ≠ i → s1.ten j = s.ten j) ∧
       (f.tr = 2 → s'.boundaryOk i f = true → (∃ d ∈ r.dests, d.addr = f.src) →
         exec (.resliceResend f) s = .next (s'.sendMoves i f.src)) ∧
       (f.tr = 2 → s'.boundaryOk i f = true → (∀ d ∈ r.dests, d.addr ≠ f.src) →
         exec (.resliceResend f) s = .next s') ∧
       (f.tr = 3 → s'.boundaryOk i f = true → r.new_ = false → exec (.resliceSealed f) s = .next (s'.tearDown i)) ∧
       (f.tr = 3 → s'.boundaryOk i f = true → r.new_ = true → exec (.resliceSealed f) s = .next s') ∧
       (f.tr = 4 → s'.boundaryOk i f = true → exec (.resliceCancel f) s =
         .next ((((s'.updCommit i CommitS.cleared).cancelReslice i).endRender i).follow i)))) ∧
  (∀ (s : State) (f : Rx) (i : Fin 64), frameGood s f 0x61 i → f.len = 4096 → f.tr = 0 →
      (s.at_ f.time).boundaryOk i f = true ∨ (s.at_ f.time).armedFor i f = true →
      (let s' := s.at_ f.time
       let known : Prop := ∃ x ∈ (s.ten i).rs.sources, x.addr = f.src
       let ends (x : State) : State := ((x.fillHeld i).syncBoundary i).follow i
       ∃ s1 : State, (known → s1 = s'.arrive i f.src f.t.toNat f.payload) ∧
         (¬ known → s1 = (s'.noteSource i f.src 0).arrive i f.src f.t.toNat f.payload) ∧
         ((s1.ten i).rs.sources.find? (fun x => x.addr == f.src) = none →
           exec (.resliceMove f) s = .next (ends s1)) ∧
         ∀ x : RsSource, (s1.ten i).rs.sources.find? (fun x => x.addr == f.src) = some x →
           (x.count = 0 → exec (.resliceMove f) s = .next (ends s1)) ∧
           (0 < x.count → exec (.resliceMove f) s = .next (ends (s1.answerDone i f.src))))) ∧
  (∀ (s : State) (i : Fin 64) (src : Addr) (coord : Nat) (bytes : List Byte),
      (let place := (s.loadingOf i).find? fun p => p.2.tensor.toNat == coord / 2 ^ 40 &&
         decide (p.2.lfirst.toNat ≤ coord % 2 ^ 40) && decide (coord % 2 ^ 40 < p.2.lfirst.toNat + p.2.lenp)
       (place = none → s.arrive i src coord bytes = s.raiseT i 0xE2 coord) ∧
       (∀ (c : Nat) (e : Entry), place = some (c, e) →
         (let p := coord % 2 ^ 40 - e.lfirst.toNat
          let r := s.dirRec (e.panelAddr p false)
          (r.d = true → s.arrive i src coord bytes = s.count 0xE4) ∧
          (r.d = false → s.arrive i src coord bytes =
            (((s.putBytes (e.panelAddr p r.c) bytes).setKept (e.panelAddr p r.c) (pd bytes)).setDir (e.panelAddr p false)
              { r with d := true }).updRs i fun x => { x with sources := x.sources.map fun y =>
                if y.addr = src then { y with got := y.got + 1, since := s.time.now } else y })))))

/-- The timers and engines of a boundary: a destination that is done is polled with its count, by a leaver its lowest one
alone; a source short of its count is asked again, four times without progress withhold the vote under 0xE3; a region or
slot whose storage is primed goes on, or is freed where a teardown or an old layout holds it; a torn tenant whose storage
is primed enters QUIET with event 0xE7; the quiet ends with its reslice state as at reset and its slots formed anew.
Otherwise nothing changes. Where the manual leaves a point open, the choices of log entries 25, 30, 39, 72, 76, 95, 98,
105, 106, 112, 166 and 187 hold. -/
def Obligations.ResliceTimerRowsComplete : Prop :=
  (∀ (s : State) (i : Fin 64) (a : Addr),
      (let r := (s.ten i).rs
       let dest := r.dests.find? fun d => d.addr == a
       let polls (d : RsDest) : Prop := r.sealing = true ∧ d.done = true ∧ a ≠ s.self ∧
         (r.new_ = true ∨ ∀ x ∈ r.dests, ¬ x.addr < a)
       (dest = none → exec (.resliceCountPoll i a) s = .next s) ∧
       (∀ d : RsDest, dest = some d →
         (¬ polls d → exec (.resliceCountPoll i a) s = .next s) ∧
         (polls d → ∃ s1 : State, exec (.resliceCountPoll i a) s = .next (s1.send (s1.countFrame i a 0 d.count)) ∧
           s1 = { s.reach d.since (1000 * s.cfg.glob.voteRepeat) with tenants := s1.tenants } ∧
           s1.ten i = { s.ten i with rs := { r with dests := r.dests.map fun x =>
             if x.addr = a then { x with since := s1.time.now } else x } } ∧
           ∀ j : Fin 64, j ≠ i → s1.ten j = s.ten j)))) ∧
  (∀ (s : State) (i : Fin 64) (a : Addr),
      (let r := (s.ten i).rs
       let src := r.sources.find? fun x => x.addr == a
       (src = none → exec (.moveRtoExpiry i a) s = .next s) ∧
       (∀ x : RsSource, src = some x →
         (let s0 := s.reach x.since (1000000 * s.cfg.glob.moveRto)
          let set (y : RsSource) : State := s0.updRs i fun r => { r with sources := r.sources.map fun z => if z = x then y else z }
          (r.sealing = false ∨ x.count ≤ x.got → exec (.moveRtoExpiry i a) s = .next s) ∧
          (r.sealing = true → x.got < x.count → x.got = x.gotAt → 4 ≤ x.resends → exec (.moveRtoExpiry i a) s =
            .next (((set { x with since := s0.time.now }).resliceFault i 0xE3 a.toNat).follow i)) ∧
          (r.sealing = true → x.got < x.count → x.got = x.gotAt → x.resends < 4 → exec (.moveRtoExpiry i a) s =
            .next ((set { x with resends := x.resends + 1, since := s0.time.now }).answerCount i a r.boundary 2 x.got)) ∧
          (r.sealing = true → x.got < x.count → x.got ≠ x.gotAt → exec (.moveRtoExpiry i a) s = .next
            ((set { x with gotAt := x.got, resends := 1, since := s0.time.now }).answerCount i a r.boundary 2 x.got)))))) ∧
  (∀ (s : State) (p : PrimeTarget), s.configured = false ∨ s.flt.mode ≠ .normal →
      exec (.primerComplete p) s = .next s) ∧
  (∀ (s : State) (c : Nat), s.configured = true → s.flt.mode = .normal →
      (s.entry c = none ∨ (∃ e : Entry, s.entry c = some e ∧ e.state ≠ .priming) →
        exec (.primerComplete (.entry c)) s = .next s) ∧
      (∀ (e : Entry) (i : Fin 64), s.entry c = some e → e.state = .priming → s.tearing (fun r => r.tearEntries.contains c) = some i →
        exec (.primerComplete (.entry c)) s = .next (((s.zeroPanels (e.panelAddr 0 false) (2 * e.lenp)).freeRegion c).updRs i
          fun r => { r with tearEntries := r.tearEntries.filter (· != c) })) ∧
      (∀ e : Entry, s.entry c = some e → e.state = .priming → s.tearing (fun r => r.tearEntries.contains c) = none →
        ((s.primeEntry c e).tenantOf e.tenant = none → exec (.primerComplete (.entry c)) s = .next (s.primeEntry c e)) ∧
        (∀ i : Fin 64, (s.primeEntry c e).tenantOf e.tenant = some i → exec (.primerComplete (.entry c)) s =
          .next ((((s.primeEntry c e).unfence i).bgSettle i).follow i)))) ∧
  (∀ (s : State) (k : Nat), s.configured = true → s.flt.mode = .normal →
      (let sl := s.slot k
       let torn := s.tearing fun r => r.tearSlots.contains k
       let forms : Prop := sl.kind = .sett ∧ sl.primed = false
       let formed := (s.primeSlot k sl.sett).updSlot k fun x => { x with primed := true }
       (∀ i : Fin 64, torn = some i → exec (.primerComplete (.slot k)) s =
         .next ((s.primeSlot k sl.sett).updRs i fun r => { r with tearSlots := r.tearSlots.filter (· != k) })) ∧
       (∀ (i : Fin 64) (kind : SlotKind) (d : SettDesc) (rep : RepDesc), torn = none → s.slotTenant k = some i →
         sl.shadow = some (kind, d, rep) →
         ((s.ten i).rs.sealing = true → forms → exec (.primerComplete (.slot k)) s = .next ((formed.tryForm i k).follow i)) ∧
         ((s.ten i).rs.sealing = true → ¬ forms → exec (.primerComplete (.slot k)) s = .next s) ∧
         ((s.ten i).rs.sealing = false → kind = .sett → exec (.primerComplete (.slot k)) s =
           .next ((s.releaseParity d).updSlot k fun x => { x with shadow := none })) ∧
         ((s.ten i).rs.sealing = false → kind ≠ .sett →
           exec (.primerComplete (.slot k)) s = .next (s.updSlot k fun x => { x with shadow := none }))) ∧
       (∀ i : Fin 64, torn = none → s.slotTenant k = some i → sl.shadow = none →
         (forms → sl.st = .forming → exec (.primerComplete (.slot k)) s = .next ((formed.tryForm i k).follow i)) ∧
         (¬ forms ∨ sl.st ≠ .forming → exec (.primerComplete (.slot k)) s = .next s)) ∧
       (torn = none → s.slotTenant k = none →
         (forms → sl.st = .forming → exec (.primerComplete (.slot k)) s = .next formed) ∧
         (¬ forms ∨ sl.st ≠ .forming → exec (.primerComplete (.slot k)) s = .next s)))) ∧
  (∀ (s : State) (i : Fin 64),
      (let done : Prop := (s.ten i).rs.state = .teardown ∧ (s.ten i).rs.tearEntries = [] ∧ (s.ten i).rs.tearSlots = []
       (¬ done → exec (.teardownComplete i) s = .next s) ∧
       (done → ∃ s1 : State, exec (.teardownComplete i) s = .next (s1.raiseT i 0xE7) ∧ s1 = { s with tenants := s1.tenants } ∧
         s1.ten i = { s.ten i with rs := { (s.ten i).rs with state := .quiet, quietAt := s.time.now } } ∧
         ∀ j : Fin 64, j ≠ i → s1.ten j = s.ten j))) ∧
  (∀ (s : State) (i : Fin 64),
      ((s.ten i).rs.state ≠ .quiet → exec (.tagQuietExpiry i) s = .next s) ∧
      ((s.ten i).rs.state = .quiet → ∃ s1 : State,
        s1 = { s.reach (s.ten i).rs.quietAt (1000000 * s.cfg.glob.tagQuiet) with tenants := s1.tenants } ∧
        s1.ten i = { s.ten i with rs := {} } ∧ (∀ j : Fin 64, j ≠ i → s1.ten j = s.ten j) ∧
        exec (.tagQuietExpiry i) s = .next (((List.range 16).filter fun k => s1.ownsSlot i k).foldl (fun x k =>
          if s.cfg.kindOf k = .unused then x
          else (x.formSlot (some i) s.cfg k).updSlot k fun y => { y with primed := y.kind == .sett }) s1).syncGroups ∧
        ((∀ k < 16, s.ownsSlot i k = false) → exec (.tagQuietExpiry i) s = .next s1.syncGroups)))

/-- The commands of MNL_RS_CMD on the tenant selected. Each is taken in the state that admits it, with RESULT OK, and
refused otherwise with its RESULT, 2 for a tag that may not and a tenant that is not active, 3 where capability 0x07 is
absent, 4 for a range, else 1, and with event 0x0F: SEAL before the first epoch, ARM out of IDLE, DISARM out of ARMED,
TEARDOWN outside a teardown, EXPORT of panels of an ACTIVE region into a free range while none is under way. An ARM of a
NEW member without a vote or an ACTIVE region makes it a joiner under ARMGEN. Where the manual leaves a point open, the
choices of log entries 4, 9, 49, 53, 56, 107, 156, 161, 162, 165 and 168 hold. -/
def Obligations.ResliceCommandRowsComplete : Prop :=
  (∀ (s : State) (a : Acc), s.portsUp = true → s.windowOpen 0x5A08 = false →
    ∀ c : Instr, c ∈ [Instr.rsSeal a, .rsArm a, .teardown a, .export_ a, .rsDisarm a] →
      exec c s = .next (s.refuse a.id 0x5A08)) ∧
  (∀ (s : State) (a : Acc) (i : Fin 64), s.portsUp = true → s.windowOpen 0x5A08 = true →
    i = Fin.ofNat 64 s.regs.tsel.toNat →
    (let no (r : Byte) : State := State.refuse (s.updRs i fun x => { x with result := r }) a.id 0x5A08
     let tagOk : Prop := (fromSystem a = true ∨ a.tag = s.tagOf i) ∧ (s.ten i).env ≠ none
     let s1 (op : BitVec 4) : State :=
       { State.ok (s.updRs i fun x => { x with result := 0 }) a.id with rs := { s.rs with op := op } }
     let r := (s.ten i).rs
     (¬ tagOk → ∀ c : Instr, c ∈ [Instr.rsSeal a, .rsArm a, .teardown a, .export_ a, .rsDisarm a] →
       exec c s = .next (no 2)) ∧
     (tagOk →
       (let seals : Prop := r.state = .idle ∧ (s.ten i).commit.vstate = .none ∧ s.usedSlots i ≠ []
        (seals → exec (.rsSeal a) s = .next (((State.updRs (s1 1) i fun r => { r with
          state := .sealing, first := true, joiner := false, boundary := 0, rendered := [] }).enterSeal i).follow i)) ∧
        (¬ seals → exec (.rsSeal a) s = .next (no 1))) ∧
       (let mine (m : Move) : Prop := ∃ e : Entry, s.entry m.ctx.toNat = some e ∧ e.tenant = s.tagOf i ∧ e.state = .active
        let arms : Prop := r.state = .idle ∧ s.loader.shadowState ≠ .armed ∧ ∀ m ∈ s.rs.moves.toList, m.valid = true → mine m
        let joins : Prop := r.new_ = true ∧ (s.ten i).commit.vstate = .none ∧
          ∀ p ∈ s.entriesOf (s.tagOf i), p.2.state ≠ .active
        let armed (j : Bool) : State := State.updRs (s1 2) i fun r => { r with
          state := .armed, joiner := j, first := false, sources := [], dests := [] }
        (s.cap 7 = false → exec (.rsArm a) s = .next (no 3)) ∧
        (s.cap 7 = true → ¬ arms → exec (.rsArm a) s = .next (no 1)) ∧
        (s.cap 7 = true → arms → ¬ joins → exec (.rsArm a) s = .next (armed false)) ∧
        (s.cap 7 = true → arms → joins → exec (.rsArm a) s =
          .next ((armed true).updFox i fun f => { f with gen := r.armGen, self := .member }))) ∧
       (r.state = .armed → exec (.rsDisarm a) s = .next ((State.updRs (s1 5) i fun r => { r with
         state := .idle, joiner := false, sources := [] }).updCommit i fun c => { c with stagedTree := none })) ∧
       (r.state ≠ .armed → exec (.rsDisarm a) s = .next (no 1)) ∧
       (r.state ≠ .teardown → r.state ≠ .quiet → exec (.teardown a) s = .next ((s1 3).tearDown i).unpark) ∧
       (r.state = .teardown ∨ r.state = .quiet → exec (.teardown a) s = .next (no 1)) ∧
       (let mine (e : Entry) : Prop := e.state = .active ∧ e.tenant = s.tagOf i ∧ s.rs.running = none
        let range (e : Entry) : Prop := s.rs.xcount.toNat ≠ 0 ∧ s.rs.xfirst.toNat + s.rs.xcount.toNat ≤ e.lenp ∧
          s.rangeOk 5 s.rs.xdst.toNat (64 + 4104 * s.rs.xcount.toNat) = true
        (s.cap 7 = false → exec (.export_ a) s = .next (no 3)) ∧
        (s.cap 7 = true → s.entry s.rs.xctx.toNat = none → exec (.export_ a) s = .next (no 1)) ∧
        (∀ e : Entry, s.cap 7 = true → s.entry s.rs.xctx.toNat = some e →
          (¬ mine e → exec (.export_ a) s = .next (no 1)) ∧
          (mine e → ¬ range e → exec (.export_ a) s = .next (no 4)) ∧
          (mine e → range e → exec (.export_ a) s = .next { s1 4 with rs := { s.rs with op := 4, running := some {
            tidx := i, ctx := s.rs.xctx.toNat, first := s.rs.xfirst.toNat, count := s.rs.xcount.toNat
            dst := s.rs.xdst.toNat, epoch := (s.ten i).commit.committed } } }))))))

/-- The end of an export: with every digest as kept, the stream stands in memory at its destination and nowhere else in
memory a byte changes, RESULT is 0 and event 0xE8 is raised; with a panel that disagrees, a read that fails, or a region no
longer ACTIVE, RESULT is READ. With none under way nothing changes. Where the manual leaves a point open, the choices of
log entries 14, 55 and 188 hold. -/
def Obligations.ExportCompletes : Prop :=
  (∀ (s : State) (flt : ReadFault), s.rs.running = none → exec (.exportComplete flt) s = .next s) ∧
  (∀ (s : State) (x : Export) (e : Entry), s.rs.running = some x → s.entry x.ctx = some e → e.state = .active →
    s.exportBad x e = none → s.memWf = true → x.dst + (64 + 4104 * x.count) ≤ Config.stackBytes →
    ∀ flt : ReadFault, flt ≠ .digestWord → (∀ a : BitVec 36, flt ≠ .stack a) →
      ∃ s1 : State,
        exec (.exportComplete flt) s = .next ((s1.raiseT x.tidx 0xE8).follow x.tidx) ∧
        s1 = { s with mem := s1.mem, tenants := s1.tenants, rs := { s.rs with running := none } } ∧
        s1.bytesAt x.dst (s.exportStream x e).length = s.exportStream x e ∧
        (∀ b : Nat, b < x.dst ∨ x.dst + (s.exportStream x e).length ≤ b → Mem.read s1.mem b = Mem.read s.mem b) ∧
        s1.ten x.tidx = { s.ten x.tidx with rs := { (s.ten x.tidx).rs with result := 0 } } ∧
        ∀ j : Fin 64, j ≠ x.tidx → s1.ten j = s.ten j) ∧
  (∀ (s : State) (x : Export), s.rs.running = some x →
    (let s1 : State := { s with rs := { s.rs with running := none } }
     let fails (t : State) : State := (t.updRs x.tidx fun r => { r with result := 5 }).follow x.tidx
     (∀ flt : ReadFault, (∀ e : Entry, s.entry x.ctx = some e → e.state ≠ .active) →
       exec (.exportComplete flt) s = .next (fails s1)) ∧
     (∀ e : Entry, s.entry x.ctx = some e → e.state = .active →
       (∀ (a : Nat) (flt : ReadFault), s.exportBad x e = some a → flt ≠ .digestWord → (∀ b : BitVec 36, flt ≠ .stack b) →
         exec (.exportComplete flt) s = .next (fails (s1.digestFail a))) ∧
       (∀ a : BitVec 36, exec (.exportComplete (.stack a)) s = .next (fails
         ((s1.raise { code := 0x39, tenant := s.tagOf x.tidx, detail := a.toNat }).queueRepairAt a.toNat))) ∧
       exec (.exportComplete .digestWord) s = .next (fails
         ((s1.raiseT x.tidx 0xF1).digestFail (e.panelAddr x.first (s.panelRec e x.first).c))))))

/-! ## Audit and lockstep -/

/-- The audit's frames. A request at another epoch than the committed one, or once the vote is given, is counted under
0xF9 and nothing else; one that may be served is, one for a run it holds in that run's place: discarded while Badger is in
reset and where a read fails, 0x49 or 0xD5 counted where the request table or the reservation is full, 0xD6 logged where
its stripes are not the slot's. A part goes to the tree that waits for it, at the auditor to its run, else it is counted
under 0xD7; a correction is applied under the run it belongs to or discarded with 0xF6; a release ends the run it names
once the corrections it counts are applied. Where the manual leaves a point open, the choices of log entries 9, 17, 30,
36, 65, 105, 112, 126, 129, 130, 131, 132, 147, 165 and 184 hold. -/
def Obligations.AuditFrameRowsComplete : Prop :=
  (∀ (s : State) (f : Rx) (i : Fin 64) (flt : ReadFault), frameGood s f 0x50 i → tField f 43 21 = 0 → f.len = 0 →
      (s.at_ f.time).knownIn i (tField f 39 4) f.src = true →
      ((s.at_ f.time).auditOk i f.epoch.toNat f.tr = false → ∃ t : State, exec (.auditReq f flt) s = .next t ∧
        t = { s.at_ f.time with flt := t.flt } ∧ t.flt = { s.flt with counters := t.flt.counters } ∧
        t.counter 0xF9 = s.counter 0xF9 + 1 ∧ ∀ k : Nat, k ≠ 0xF9 → t.counter k = s.counter k) ∧
      ((s.at_ f.time).auditOk i f.epoch.toNat f.tr = true → exec (.auditReq f flt) s =
        .next (((s.at_ f.time).auditRequest i (Fin.ofNat 16 (tField f 39 4)) f.src f.epoch.toNat (tField f 0 23) (tField f 23 16)
          flt).follow i))) ∧
  (∀ (s : State) (i : Fin 64) (k : Fin 16) (a : Addr) (epoch s0 count : Nat) (flt : ReadFault),
      (let d := (s.slot k.val).sett
       let old := s.helpFor i k.val a epoch fun h => h.s0 == s0
       let sts := (List.range count).map fun j => s0 + j * settN d
       let bad : Prop := (s.slot k.val).kind ≠ .sett ∨ count = 0 ∨ settStripes d < s0 + (count - 1) * settN d + 1
       let par := decide (d.k ≤ ownPos d s0)
       let real := sts.filter fun st => par || !virtualCol d st (ownPos d st)
       let pairs := sts.flatMap fun st => (ownTrees d st).map fun j => (st, j)
       (∀ s1 : State, (∀ h : AuHelp, old = some h → s1 = s.closeHelp h) → (old = none → s1 = s) →
         (let answer := s.auditRequest i k a epoch s0 count flt
          let rd := s1.helperRead i flt (s1.readAddrs k.val par (real.map fun st => panelAt d st (ownPos d st)))
          (ResetUnit.badger ∈ s.flt.inReset → answer = s1) ∧
          (ResetUnit.badger ∉ s.flt.inReset → 512 ≤ s1.requestsHeld → answer = s1.count 0x49) ∧
          (ResetUnit.badger ∉ s.flt.inReset → s1.requestsHeld < 512 →
            (bad → answer = s1.raiseT i 0xD6 s0) ∧
            (¬ bad → rd.2 = true → answer = rd.1) ∧
            (¬ bad → rd.2 = false → Config.reservationUnits < s1.reserved4k + pairs.length → answer = s1.count 0xD5) ∧
            (¬ bad → rd.2 = false → s1.reserved4k + pairs.length ≤ Config.reservationUnits →
              ∃ (h : AuHelp) (t : State), answer = t.sendTrees i h ∧ h.tidx = i ∧ h.slot = k ∧ h.auditor = a ∧ h.s0 = s0 ∧
                h.count = count ∧ h.epoch = epoch ∧ h.release = none ∧ h.fixed = 0 ∧ h.since = s.time.now ∧
                h.accs.length = pairs.length ∧ t.audit = { s1.audit with helps := s1.audit.helps ++ [h] } ∧
                t = { s1 with audit := t.audit, badger := { s.badger with peak := t.badger.peak }, flt := t.flt })))))) ∧
  (∀ (s : State) (f : Rx) (i : Fin 64), frameGood s f 0x51 i → f.t.getLsbD 63 = false → f.len = 4096 →
      f.payload.length = 4096 → (s.at_ f.time).knownIn i (tField f 59 4) f.src = true →
      (auditMask f ≠ 0 → (s.at_ f.time).auditOk i f.epoch.toNat f.tr = true →
        exec (.auditPart f) s = .next (((s.at_ f.time).takeAuditPart i (tField f 59 4) f).follow i)) ∧
      (((List.range 36).filter fun b => (auditMask f).getLsbD b).length = 1 →
        exec (.auditCorrection f) s = .next (((s.at_ f.time).correction i (tField f 59 4) f.src f.epoch.toNat f.tr (tField f 0 23)
          (auditMask f) f.payload).follow i)) ∧
      (auditMask f = 0 → (∀ b ∈ f.payload.drop 4, b = 0) → (s.at_ f.time).auditOk i f.epoch.toNat f.tr = true →
        exec (.auditRelease f) s = .next (((s.at_ f.time).releaseRun i (tField f 59 4) f.src f.epoch.toNat (tField f 0 23)
          (leField f.payload 0 4)).follow i))) ∧
  (∀ (s : State) (i : Fin 64) (k : Nat) (f : Rx),
      (let st := tField f 0 23
       let waits (h : AuHelp) (a : AuAcc) (pos : Nat) : Prop := h.tidx = i ∧ h.slot.val = k ∧ h.epoch = f.epoch.toNat ∧
         (s.slot k).posOfAddr f.src st = some pos ∧ treeOf (s.slot k).sett (auditMask f) = some a.row ∧ a.stripe = st ∧
         pos ∈ a.owes
       (∀ (h : AuHelp) (a : AuAcc) (pos : Nat), h ∈ s.audit.helps → a ∈ h.accs → waits h a pos →
         (∀ h' ∈ s.audit.helps, ∀ a' ∈ h'.accs, ∀ p : Nat, waits h' a' p → h' = h ∧ a' = a) →
         (let a' : AuAcc := { a with
            bytes := xorBytes a.bytes f.payload, cmask := a.cmask ||| auditMask f, owes := a.owes.filter (· != pos) }
          let h' : AuHelp := { h with accs := h.accs.map fun x => if x = a then a' else x }
          s.takeAuditPart i k f = State.sendTrees { s with audit := { s.audit with
            helps := s.audit.helps.map fun x => if x = h then h' else x } } i h')) ∧
       ((∀ h ∈ s.audit.helps, ∀ a ∈ h.accs, ∀ p : Nat, ¬ waits h a p) →
         (k = s.auSlot → s.takeAuditPart i k f = s.auditorPart i f.src f.epoch.toNat st (auditMask f) f.payload) ∧
         (k ≠ s.auSlot → s.takeAuditPart i k f = s.count 0xD7)))) ∧
  (∀ (s : State) (i : Fin 64) (k : Nat) (a : Addr) (epoch : Nat) (tr : BitVec 7) (st n : Nat) (m : BitVec 36) (x : List Byte),
      (let run := s.helpFor i k a epoch fun h => h.holds (s.slot k).sett st
       let good : Prop := s.auditOk i epoch tr = true ∧ m = 1 <<< ownPos (s.slot k).sett st
       (¬ good ∨ run = none ∨ s.fixPanel i k st x = none → s.correction i k a epoch tr st m x = s.raiseT i 0xF6 st) ∧
       (∀ (h : AuHelp) (t : State), good → run = some h → s.fixPanel i k st x = some t →
         s.correction i k a epoch tr st m x = t.setHelp h { h with fixed := h.fixed + 1 }) ∧
       (∀ h : AuHelp, (s.helpFor i k a epoch fun h => h.s0 == st) = some h →
         s.releaseRun i k a epoch st n = s.setHelp h { h with release := some n }) ∧
       ((s.helpFor i k a epoch fun h => h.s0 == st) = none → s.releaseRun i k a epoch st n = s)))

/-- The auditor. START of a free auditor over stripes of a sett slot sets its work, with its counts at zero; it is refused
with its RESULT elsewhere: 1 while it runs, 3 where the slot or capability 0x05 does not let it, 4 for a range. STOP drops
the work. Its next run begins as far as its requests may stand out; a slot that cannot be audited has its stripes skipped,
and 0xF3 ends the audit with the last; a run that timed out is asked again for the stripes not judged, those without room
later. With nothing to do nothing changes. Where the manual leaves a point open, the choices of log entries 4, 9, 30, 40,
107, 125, 126, 127, 128, 161 and 166 hold. -/
def Obligations.AuditEngineRowsComplete : Prop :=
  (∀ (s : State) (a : Acc) (slot : BitVec 4), s.portsUp = true →
      (let taken : Prop := s.windowOpen 0x6100 = true ∧ fromSystem a = true
       let d := (s.slot slot.toNat).sett
       let n := s.audit.count.toNat
       let auditable : Prop := (s.slot slot.toNat).kind = .sett ∧ s.cap 5 = true
       let range : Prop := n ≠ 0 ∧ s.audit.first.toNat + n ≤ settStripes d ∧ settStripes d ≤ 8388608
       let no (r : Byte) : State := State.refuse { s with audit := { s.audit with result := r } } a.id 0x6100
       (¬ taken → exec (.auditStart a slot) s = .next (s.refuse a.id 0x6100) ∧
         exec (.auditStop ⟨a, slot⟩) s = .next (s.refuse a.id 0x6100)) ∧
       (taken → s.audit.busy = true → exec (.auditStart a slot) s = .next (no 1)) ∧
       (taken → s.audit.busy = false → ¬ auditable → exec (.auditStart a slot) s = .next (no 3)) ∧
       (taken → s.audit.busy = false → auditable → ¬ range → exec (.auditStart a slot) s = .next (no 4)) ∧
       (taken → s.audit.busy = false → auditable → range → exec (.auditStart a slot) s = .next { s.ok a.id with
         audit := { s.audit with
           op := 1, slot := slot, result := 0, busy := true, todo := rotationOrder d s.audit.first.toNat n, runs := []
           checked := 0, clean := 0, skipped := 0, corrected := 0, detected := 0 } }) ∧
       (taken → exec (.auditStop ⟨a, slot⟩) s = .next { s.ok a.id with
         audit := { s.audit with op := 2, slot := slot, result := 0, busy := false, todo := [], runs := [] } }))) ∧
  (∀ s : State,
      (s.audit.busy = true → s.audit.todo = [] → s.audit.runs = [] → ∃ u : Tag,
        (∀ i : Fin 64, s.slotTenant s.auSlot = some i → u = s.tagOf i) ∧ (s.slotTenant s.auSlot = none → u = 0) ∧
        s.auditEnd = State.raise { s with audit := { s.audit with busy := false } }
          { code := 0xF3, unit := s.auSlot, tenant := u }) ∧
      (s.audit.busy = false ∨ s.audit.todo ≠ [] ∨ s.audit.runs ≠ [] → s.auditEnd = s)) ∧
  (∀ s : State, s.slotTenant s.auSlot = none ∨
      nextRun (settN (s.slot s.auSlot).sett) (max 1 s.cfg.glob.run) s.audit.todo = [] → exec .auditRunRequest s = .next s) ∧
  (∀ (s : State) (i : Fin 64) (s0 : Nat) (rest : List Nat), s.slotTenant s.auSlot = some i →
      nextRun (settN (s.slot s.auSlot).sett) (max 1 s.cfg.glob.run) s.audit.todo = s0 :: rest →
      (let n := rest.length + 1
       let go : Prop := s.audit.busy = true ∧ s.flt.mode = .normal ∧ ResetUnit.badger ∉ s.flt.inReset ∧
         (s.audit.runs.length + 1) * settN (s.slot s.auSlot).sett ≤ 512
       (¬ go → exec .auditRunRequest s = .next s) ∧
       (go → (s.slot s.auSlot).audits = false → exec .auditRunRequest s = .next (State.auditEnd { s with audit :=
         { s.audit with todo := s.audit.todo.drop n, skipped := s.audit.skipped + n } })) ∧
       (go → (s.slot s.auSlot).audits = true → exec .auditRunRequest s =
         .next ((State.sendAuditRun { s with audit := { s.audit with
           todo := s.audit.todo.drop n
           runs := s.audit.runs ++ [{ s0 := s0, count := n, epoch := (s.ten i).commit.committed, stripes := s0 :: rest
                                      judged := [], parts := [], fixes := [], since := s.time.now }] } }
           i (Fin.ofNat 16 s.auSlot) s0 n (s.ten i).commit.committed).follow i)))) ∧
  (∀ (s : State) (s0 : Nat),
      s.slotTenant s.auSlot = none ∨ (∀ r ∈ s.audit.runs, r.s0 ≠ s0) ∨ s.flt.mode ≠ .normal →
      exec (.auditRunTimeout s0) s = .next s) ∧
  (∀ (s : State) (i : Fin 64) (r : AuRun) (s0 : Nat), s.slotTenant s.auSlot = some i →
      s.audit.runs.find? (fun r => r.s0 == s0) = some r → s.flt.mode = .normal →
      (let s1 := s.reach r.since (1000 * s.cfg.glob.rto)
       let n := settN (s.slot s.auSlot).sett
       let left := r.stripes.filter fun st => !r.judged.contains st
       let others := s.audit.runs.filter fun x => x.s0 != s0
       let parts := stretches (left.map fun st => (st - s0) / max 1 n)
       let room := 512 / max 1 n - others.length
       let epoch := (s.ten i).commit.committed
       let ask (s : State) (x : Nat × Nat) : State :=
         let b := s0 + x.1 * n
         State.sendAuditRun { s with audit := { s.audit with
           runs := s.audit.runs ++ [{ s0 := b, count := x.2, epoch := epoch, stripes := (List.range x.2).map fun j => b + j * n
                                      judged := [], parts := [], fixes := [], since := s.time.now }] } }
           i (Fin.ofNat 16 s.auSlot) b x.2 epoch
       ((s.slot s.auSlot).audits = false →
         exec (.auditRunTimeout s0) s = .next (State.auditEnd { s1 with audit := { s.audit with
           runs := others, skipped := s.audit.skipped + left.length } })) ∧
       ((s.slot s.auSlot).audits = true → ∃ t : State, t = { s1 with audit := { s.audit with
           runs := others
           todo := ((parts.drop room).flatMap fun x => (List.range x.2).map fun j => s0 + (x.1 + j) * n) ++ s.audit.todo } } ∧
         exec (.auditRunTimeout s0) s = .next (((parts.take room).foldl ask t).follow i))))

/-- Step records and lockstep. A root engine that is done forms its tenant's record: the root of the leaves, the chain
and the count, written to its slot of the ring where the ring is on, with 0xF2 counted once; under dust sheet it waits. A
pair whose epoch is past sends nothing, another its digests of bank C; digests of a pair are compared in the receiver's
own order; the first mismatch of an epoch logs 0xF7, and the record keeps the first epoch's lowest index. Where the manual
leaves a point open, the choices of log entries 9, 17, 30, 36, 40, 65, 95, 112, 133, 134, 135, 136, 147, 165 and 166
hold. -/
def Obligations.LockstepRowsComplete : Prop :=
  (∀ (s : State) (i : Fin 64), (s.ten i).steprec.busy = none ∨ s.flt.mode ≠ .normal →
      exec (.stateRootComplete i) s = .next s) ∧
  (∀ (s : State) (i : Fin 64) (p : PendingRec), (s.ten i).steprec.busy = some p → s.flt.mode = .normal →
      (let root := merkleRoot p.leaves.length (p.leaves.map sha256)
       let bytes := s.recordBytes i p root
       let slot := s.audit.srBase.toNat + 16384 * i.val + 256 * (p.epoch % 64)
       ∃ s1 : State, exec (.stateRootComplete i) s = .next (s1.follow i) ∧
         s1 = { s with tenants := s1.tenants, flt := { s.flt with counters := s1.flt.counters }, mem := s1.mem } ∧
         s1.ten i = { s.ten i with steprec := { (s.ten i).steprec with
           busy := none, root := root, last := sha256 bytes, count := (s.ten i).steprec.count + 1 } } ∧
         (∀ j : Fin 64, j ≠ i → s1.ten j = s.ten j) ∧ s1.counter 0xF2 = s.counter 0xF2 + 1 ∧
         (s.audit.srEn = false → s1.mem = s.mem) ∧
         (s.audit.srEn = true → s.memWf = true → slot + bytes.length ≤ Config.stackBytes →
           s1.bytesAt slot bytes.length = bytes ∧
           ∀ b : Nat, b < slot ∨ slot + bytes.length ≤ b → Mem.read s1.mem b = Mem.read s.mem b))) ∧
  (∀ (s : State) (n : Fin 15),
      (let p := s.audit.pairs.get n
       let s1 := (s.reach p.dueAt 100000).updPair n fun p => { p with sendDue := none }
       (p.sendDue = none ∨ s.flt.mode ≠ .normal → exec (.lockstepSend n) s = .next s) ∧
       (∀ e : Nat, p.sendDue = some e → s.flt.mode = .normal →
         (e ≠ (s.ten p.tidx).commit.committed → exec (.lockstepSend n) s = .next s1) ∧
         (e = (s.ten p.tidx).commit.committed → ∃ ds : List Word,
           ds = (s1.pairPanels p).map (fun x => s1.keptC x.1 x.2) ∧
           exec (.lockstepSend n) s = .next (s1.sendPair n p e ds.length 0 ds) ∧
           s1.sendPair n p e ds.length 0 ds = { s1 with ep := (s1.sendPair n p e ds.length 0 ds).ep } ∧
           (s1.sendPair n p e ds.length 0 ds).ep.ctrlQ = s.ep.ctrlQ ∧
           (s1.sendPair n p e ds.length 0 ds).ep.skimQ = s.ep.skimQ)))) ∧
  (∀ (s : State) (f : Rx) (i : Fin 64) (n : Fin 15), frameGood s f 0x52 i → digestOk2 f = true → tField f 33 4 = n.val →
      f.payload.length = 8 * tField f 23 10 → f.tr = 0 → f.epoch.toNat = (s.ten i).commit.committed →
      (s.ten i).commit.vstate ≠ .none → (s.audit.pairs.get n).role = .compare ∨ (s.audit.pairs.get n).role = .ring →
      (s.audit.pairs.get n).tidx = i → (s.at_ f.time).pairSource (s.audit.pairs.get n) = f.src →
      exec (.digestXLockstep f) s =
        .next ((s.at_ f.time).comparePair n f.epoch.toNat (tField f 0 23) (tField f 23 10) f.payload)) ∧
  (∀ (s : State) (f : Rx) (i : Fin 64), frameGood s f 0x52 i → tField f 33 4 = 15 → exec (.digestXLockstep f) s =
      .next ((s.at_ f.time).raise { code := 0x42, tenant := f.tenant, detail := f.src.toNat })) ∧
  (∀ (s : State) (n : Fin 15) (epoch idx : Nat) (x : Entry × Nat) (theirs : Word),
      (let p := s.audit.pairs.get n
       let mine := s.keptC x.1 x.2
       let coord := x.1.coord x.2
       let s1 := s.updPair n fun p => { p with arrived := addOnce idx p.arrived }
       let logged := (s1.updPair n fun p => { p with missed := true }).raiseT p.tidx 0xF7 coord
       let keep (t : State) : State :=
         t.updPair n fun p => { p with mismatch := some (BitVec.ofNat 64 coord, epoch, mine, theirs, idx) }
       (mine = theirs → s.compareOne n epoch idx x theirs = s1) ∧
       (mine ≠ theirs → p.missed = true → p.mismatch = none → s.compareOne n epoch idx x theirs = keep s1) ∧
       (∀ (c : Word) (e : Nat) (a b : Word) (j : Nat), mine ≠ theirs → p.missed = true → p.mismatch = some (c, e, a, b, j) →
         (e = epoch → idx < j → s.compareOne n epoch idx x theirs = keep s1) ∧
         (e ≠ epoch ∨ j ≤ idx → s.compareOne n epoch idx x theirs = s1)) ∧
       (mine ≠ theirs → p.missed = false →
         s.compareOne n epoch idx x theirs = logged ∨ s.compareOne n epoch idx x theirs = keep logged)))

/-! ## Faults, resets and the crash dump -/

/-- The dust sheet. The write enters it from NORMAL, the sweeps held and no protected access left parked, and changes
nothing under it or beyond but its answer; once its drain is done the capture begins, each torn panel recorded with 0x19;
once that is done the hold stands, with event 0x13 where no reset is under way, and a reset that is wanted begins. LIFT in
NORMAL changes nothing but the answer, is refused while the dust sheet drains or captures, while a reset is wanted, while
its core cause lasts, and in the other modes, and otherwise rejoins with event 0x14. Where the manual leaves a point open,
the choices of log entries 9, 55, 137, 138, 139, 140, 141, 161, 165 and 194 hold. -/
def Obligations.DustRowsComplete : Prop :=
  (∀ (s : State) (a : Acc), s.portsUp = true → fromSystem a = false →
      exec (.fltDust a) s = .next (s.refuse a.id 0x1818) ∧ exec (.fltLift a) s = .next (s.refuse a.id 0x1818) ∧
        exec (.fltReturn a) s = .next (s.refuse a.id 0x1818)) ∧
  (∀ (s : State) (a : Acc), windowTakes s a 0x1818 → exec (.fltDust a) s = .next ((s.ok a.id).hold 0) ∧
      (s.flt.mode = .normal → ((s.ok a.id).hold 0).flt.mode = .dust ∧ ((s.ok a.id).hold 0).flt.phase = .drain ∧
        ((s.ok a.id).hold 0).flt.dcause = 0 ∧ ((s.ok a.id).hold 0).mem = s.mem ∧
        ((s.ok a.id).hold 0).gate.park = s.gate.park.filter (fun x => x.ctx.isNone) ∧
        (∀ i : Fin 64, (((s.ok a.id).hold 0).ten i).sweep.state = .idle ∨ (((s.ok a.id).hold 0).ten i).sweep.state = .held) ∧
        (∀ i : Fin 64, (((s.ok a.id).hold 0).ten i).commit.committed = (s.ten i).commit.committed)) ∧
      (s.flt.mode = .dust ∨ s.flt.mode = .outOfService → exec (.fltDust a) s = .next (s.ok a.id)) ∧
      (s.flt.mode = .resetting → s.flt.resetDust = true → exec (.fltDust a) s = .next (s.ok a.id)) ∧
      (s.flt.mode = .resetting → s.flt.resetDust = false → exec (.fltDust a) s =
        .next { s.ok a.id with flt := { s.flt with resetDust := true, dcause := 0 } })) ∧
  (∀ (s : State) (drained torn : List (Nat × Nat × Byte)),
      (let s1 : State := State.recordTorn { s with flt := { s.flt with phase := .capture, drained := drained } } torn
       (s.flt.phase ≠ .drain → exec (.dustDrainComplete drained torn) s = .next s) ∧
       (s.flt.phase = .drain → s1.flt.mode = .resetting →
         exec (.dustDrainComplete drained torn) s = .next (s1.beginCapture 0)) ∧
       (s.flt.phase = .drain → s1.flt.mode ≠ .resetting →
         exec (.dustDrainComplete drained torn) s = .next (s1.beginCapture s1.flt.dcause)))) ∧
  (∀ s : State, s.crash.capturing = none → exec .crashCaptureComplete s = .next s) ∧
  (∀ (s : State) (slot1 : Bool) (code : Byte), s.crash.capturing = some (slot1, code) →
      (let s1 := s.endCapture slot1 code
       let held : State := { s1 with flt := { s1.flt with phase := .held } }
       (s1.flt.phase ≠ .capture → exec .crashCaptureComplete s = .next s1) ∧
       (∀ t : State, s1.flt.phase = .capture → (s1.flt.mode = .resetting → t = held) →
         (s1.flt.mode ≠ .resetting → t = held.raise { code := 0x13, core := true }) →
         (t.flt.resetWanted = false → exec .crashCaptureComplete s = .next t) ∧
         (t.flt.resetWanted = true → exec .crashCaptureComplete s = .next t.beginReset)))) ∧
  (∀ (s : State) (slot1 : Bool) (code : Byte),
      (let s1 := s.writeDump slot1 code
       (slot1 = false → s.endCapture slot1 code = State.raise { s1 with
         crash := { s1.crash with capturing := none, slot0 := true, trig0 := code } } { code := 0x17, core := true }) ∧
       (slot1 = true → s.endCapture slot1 code = State.raise { s1 with
         crash := { s1.crash with capturing := none, slot1 := true, trig1 := code } } { code := 0x17, core := true }))) ∧
  (∀ (s : State) (a : Acc), windowTakes s a 0x1818 →
      (let lasts : Prop := s.flt.phase ≠ .held ∨ s.flt.resetWanted = true ∨ s.causes.getLsbD 0 = true
       (s.flt.mode = .normal → exec (.fltLift a) s = .next (s.ok a.id)) ∧
       (s.flt.mode = .dust → lasts → exec (.fltLift a) s = .next (s.refuse a.id 0x1818)) ∧
       (s.flt.mode = .outOfService ∨ s.flt.mode = .resetting → exec (.fltLift a) s = .next (s.refuse a.id 0x1818)) ∧
       (∀ t : State, t = (s.ok a.id).raise { code := 0x14, core := true } → s.flt.mode = .dust → ¬ lasts →
         (t.flt.dcause ≠ 0x02 →
           exec (.fltLift a) s = .next (State.rejoin { t with flt := { t.flt with drained := [] } } true)) ∧
         (t.flt.dcause = 0x02 → exec (.fltLift a) s = .next (State.rejoin ((t.flt.drained.foldl
           (fun s x => s.queueRepairAt (4096 * x.1)) t).updFlt fun f => { f with drained := [] }) true)))))

/-- The resets software writes for, the watchdogs and their ends. A unit begins its reset; the instance wants one, as after
a RETURN; during an instance reset a unit's is merged into that. A watchdog resets its unit, or raises 0x1A where that has
used up its resets; the sequencer's raises 0x0D, the memory path's 0x0E, its MQ_ID out of use. The end of a unit's reset
takes it out of reset, raises its event and lets the tenants go on, an endpoint's sending again what is outstanding; the
end of the instance's raises 0x12 and leaves it under dust sheet, out of service or back in service. Where the manual
leaves a point open, the choices of log entries 9, 30, 40, 55, 137, 138, 139, 140, 141, 143, 146, 161, 165, 166, 177 and
194 hold. -/
def Obligations.ResetRowsComplete : Prop :=
  (∀ (s : State) (a : Acc) (g : Fin 4) (h : Fin 2) (busy : Option (Fin 16)) (c : Instr), s.portsUp = true →
      fromSystem a = false →
      c ∈ [Instr.resetLaneGroup a g, .resetGfEngine a h busy, .resetEndpoint a, .resetBadger a, .resetInstance a] →
      exec c s = .next (s.refuse a.id 0x1820)) ∧
  (∀ (s : State) (a : Acc), windowTakes s a 0x1820 →
      (let sel (u : Nat) : State := State.updFlt (s.ok a.id) fun x => { x with resetSel := BitVec.ofNat 5 u }
       (s.flt.mode ≠ .resetting →
         (∀ g : Fin 4, exec (.resetLaneGroup a g) s = .next ((sel (8 * g.val)).beginUnit (.lane g)) ∧
           (ResetUnit.lane g ∉ s.flt.inReset →
             ((sel (8 * g.val)).beginUnit (.lane g)).flt.inReset = s.flt.inReset ++ [.lane g])) ∧
         (∀ (g : Fin 2) (busy : Option (Fin 16)),
           exec (.resetGfEngine a g busy) s = .next ((sel (1 + 8 * g.val)).beginUnit (.gf g) busy)) ∧
         exec (.resetEndpoint a) s = .next ((sel 2).beginUnit .endpoint) ∧
         exec (.resetBadger a) s = .next ((sel 3).beginUnit .badger) ∧
         (ResetUnit.badger ∉ s.flt.inReset → ((sel 3).beginUnit .badger).badger.runs = [] ∧
           ((sel 3).beginUnit .badger).badger.helps = [] ∧ ((sel 3).beginUnit .badger).mem = s.mem ∧
           ((sel 3).beginUnit .badger).tenants = s.tenants)) ∧
       (s.flt.mode = .resetting →
         (∀ g : Fin 4, exec (.resetLaneGroup a g) s = .next (sel (8 * g.val))) ∧
         (∀ (g : Fin 2) (busy : Option (Fin 16)), exec (.resetGfEngine a g busy) s = .next (sel (1 + 8 * g.val))) ∧
         exec (.resetEndpoint a) s = .next (sel 2) ∧ exec (.resetBadger a) s = .next (sel 3)) ∧
       exec (.resetInstance a) s = .next ((sel 4).wantReset false))) ∧
  (∀ (s : State) (a : Acc), windowTakes s a 0x1818 → exec (.fltReturn a) s = .next ((s.ok a.id).wantReset true)) ∧
  (∀ (s : State) (ret : Bool),
      (let mark (f : FaultS) : FaultS := { f with
         resetWanted := true, resetReturn := f.resetReturn || ret, resetCounted := f.resetCounted && !ret }
       (s.flt.mode = .normal → (s.wantReset ret).flt.mode = .resetting ∧ (s.wantReset ret).flt.phase = .drain ∧
         (s.wantReset ret).flt.resetWanted = true ∧ (s.wantReset ret).mem = s.mem ∧
         (s.wantReset ret).gate.park = s.gate.park.filter (fun x => x.ctx.isNone)) ∧
       (s.flt.mode = .resetting → s.wantReset ret = { s with flt := { s.flt with
         resetReturn := s.flt.resetReturn || ret, resetCounted := s.flt.resetCounted && !ret
         resetDust := s.flt.resetDust || ret } }) ∧
       (s.flt.mode = .dust ∨ s.flt.mode = .outOfService →
         (s.flt.phase ≠ .held → s.wantReset ret = { s with flt := mark s.flt }) ∧
         (s.flt.phase = .held → s.wantReset ret = State.beginReset { s with flt := mark s.flt })))) ∧
  (∀ (s : State) (w : Watchdog) (now : BitVec 64), s.portsUp = false → exec (.watchdogExpiry ⟨w, now⟩) s = .next s) ∧
  (∀ (s : State) (now : BitVec 64), s.portsUp = true →
      (let s1 := s.at_ now
       (∀ (w : Watchdog) (u : ResetUnit) (code : Nat) (busy : Option (Fin 16)),
         (∃ g : Fin 4, w = .lane g ∧ u = .lane g ∧ code = 0x09 ∧ busy = none) ∨
           (∃ g : Fin 2, w = .gf g busy ∧ u = .gf g ∧ code = 0x0A) ∨
           (w = .endpoint ∧ u = .endpoint ∧ code = 0x0B ∧ busy = none) ∨
           (w = .badger ∧ u = .badger ∧ code = 0x0C ∧ busy = none) →
         (s1.unitLimited u = false → exec (.watchdogExpiry ⟨w, now⟩) s =
           .next (s1.raise { code := code, core := true, unit := unitNumber u, ru := some u } busy)) ∧
         (s1.unitLimited u = true → exec (.watchdogExpiry ⟨w, now⟩) s =
           .next (s1.raise { code := 0x1A, core := true, unit := unitNumber u }))) ∧
       exec (.watchdogExpiry ⟨.sequencer, now⟩) s = .next (s1.raise { code := 0x0D, core := true }) ∧
       (∀ id : BitVec 12,
         ((s.gate.mq.find? fun m => m.id == id && m.got.isNone) = none → exec (.watchdogExpiry ⟨.memory id, now⟩) s =
           .next (State.raise { s1 with flt := { s.flt with overdue := addOnce id s.flt.overdue } } { code := 0x0E, core := true })) ∧
         (∀ m : MqReq, (s.gate.mq.find? fun m => m.id == id && m.got.isNone) = some m →
           exec (.watchdogExpiry ⟨.memory id, now⟩) s = .next (State.raise (State.updFlt (State.answerLine (State.lineBad
             { s1 with gate := { s.gate with mq := s.gate.mq.filter fun x => x.id != id } } m) m.line)
               fun f => { f with overdue := addOnce id f.overdue }) { code := 0x0E, core := true }))))) ∧
  (∀ (s : State) (u : ResetUnit), u ∉ s.flt.inReset → exec (.unitResetComplete u) s = .next s) ∧
  (∀ (s : State) (u : ResetUnit) (code : Nat), u ∈ s.flt.inReset → ((∃ g : Fin 4, u = .lane g) → code = 0x7A) →
      ((∀ g : Fin 4, u ≠ .lane g) → code = 0x11) →
      (let s1 : State := State.raise { s with flt := { s.flt with
         inReset := s.flt.inReset.filter (· != u), handling := s.flt.handling.filter fun h => h.scope != .unit u } }
           { code := code, core := true, unit := unitNumber u }
       let on (t : State) : State := tenantIdxs.foldl (fun s i => if (s.ten i).env.isSome then s.follow i else s) t
       (u ≠ .endpoint → exec (.unitResetComplete u) s = .next (on s1)) ∧
       (u = .endpoint → exec (.unitResetComplete u) s = .next (on s1.resendRequests)))) ∧
  (∀ (s : State) (now : BitVec 64), s.flt.mode ≠ .resetting ∨ s.flt.phase ≠ .held →
      exec (.instanceResetComplete now) s = .next s) ∧
  (∀ (s : State) (now : BitVec 64), s.flt.mode = .resetting → s.flt.phase = .held →
      (let s1 := (s.at_ now).raise { code := 0x12, core := true }
       let s2 := State.queueTorn
         { s1 with flt := { s1.flt with resetDust := false, resetCounted := false, resetReturn := false, resetOut := false } }
       let limit : Prop := s1.flt.resetCounted = true ∧ s.cfg.glob.escLimit ≤ s1.resetsInWindow
       let back : Prop := s1.flt.resetReturn = true
       (back → exec (.instanceResetComplete now) s = .next ((s2.updFlt fun f => { f with mode := .dust, resets := [] }).raise
         { code := 0x16, core := true })) ∧
       (¬ back → limit → exec (.instanceResetComplete now) s = .next ((s2.updFlt fun f => { f with mode := .outOfService }).raise
         { code := 0x15, core := true })) ∧
       (¬ back → ¬ limit → s1.flt.resetOut = true →
         exec (.instanceResetComplete now) s = .next (s2.updFlt fun f => { f with mode := .outOfService })) ∧
       (¬ back → ¬ limit → s1.flt.resetOut = false → s1.flt.resetDust = true →
         exec (.instanceResetComplete now) s = .next (s2.updFlt fun f => { f with mode := .dust })) ∧
       (¬ back → ¬ limit → s1.flt.resetOut = false → s1.flt.resetDust = false →
         exec (.instanceResetComplete now) s = .next (s2.rejoin false))))

/-- The crash dump, the summary, the status exchange, the scrub and the mirror. A capture begins, to slot 0 where that is
empty, or is merged into the one under way; a release empties slot 0; FMT 1 without capability 0x0A is refused. A write of
the summary clears the bits whose cause no longer lasts; a query asks an instance, which answers, its reply landing in the
registers; a malformed reply raises 0x42. A scrub takes its finds in order, a corrected word counting 0x04, and the tenants
go on; the mirror page is written where it is placed and nowhere else, except in an instance reset. Where the manual leaves
a point open, the choices of log entries 4, 9, 17, 30, 31, 36, 40, 65, 142, 143, 147, 161, 165, 166 and 197 hold. -/
def Obligations.CrashAndStatusRowsComplete : Prop :=
  (∀ (s : State) (a : Acc) (fmt : Bool) (page : BitVec 6), s.portsUp = true →
      (let taken : Prop := fromSystem a = true ∧ (fmt = false ∨ s.cap 10 = true)
       let c0 : CrashS := { s.crash with fmt := fmt, page := page }
       (¬ taken → exec (.cdCapture a fmt page) s = .next (s.refuse a.id 0x18C0) ∧
         exec (.cdRelease a fmt page) s = .next (s.refuse a.id 0x18C0)) ∧
       (taken → s.crash.capturing = none → s.crash.slot0 = false → exec (.cdCapture a fmt page) s = .next { s.ok a.id with
         crash := { c0 with capturing := some (false, 0), area := Mem.zero s.crash.area 0 dumpSize } }) ∧
       (taken → s.crash.capturing = none → s.crash.slot0 = true → exec (.cdCapture a fmt page) s = .next { s.ok a.id with
         crash := { c0 with capturing := some (true, 0), area := Mem.zero s.crash.area 0x100000 dumpSize, slot1 := false } }) ∧
       (taken → s.crash.capturing ≠ none → exec (.cdCapture a fmt page) s = .next { s.ok a.id with crash := c0 }) ∧
       (taken → exec (.cdRelease a fmt page) s = .next { s.ok a.id with
         crash := { c0 with slot0 := false, trig0 := 0, area := Mem.zero s.crash.area 0 dumpSize } }))) ∧
  (∀ (s : State) (a : Acc) (mask : BitVec 14), s.portsUp = true →
      ∃ t : State, exec (.fltSummaryClear a mask) s = .next t ∧ t = { s with flt := t.flt, gate := t.gate } ∧
        t.flt = { s.flt with summary := s.flt.summary &&& ~~~(mask &&& ~~~s.causes), seen := t.flt.seen } ∧
        (∀ k : Nat, k ∈ t.flt.seen ↔ k ∈ s.flt.seen ∧ (mask &&& ~~~s.causes).getLsbD (seenSource k) = false) ∧
        t.gate = { s.gate with ns := s.gate.ns ++ [{ id := a.id, status := .ok, cause := 0, data := 0 }] }) ∧
  (∀ (s : State) (a : Acc) (addr : Addr) (tag : Tag), s.portsUp = true →
      (fromSystem a = false → exec (.fltQuery a addr tag) s = .next (s.refuse a.id 0x1880)) ∧
      (fromSystem a = true → exec (.fltQuery a addr tag) s = .next (State.askStatus { s.ok a.id with
        flt := { s.flt with qAddr := addr, qTenant := tag, qDone := false, qAsked := true } } addr tag))) ∧
  (∀ (s : State) (f : Rx) (i : Fin 64), frameAnyGen s f 0x70 i → f.t = 6 → f.len = 0 →
      exec (.statusQuery f) s = .next ((s.at_ f.time).sendReply ((s.at_ f.time).ctrlTo i f.src 0x70 0 0 7
        ((s.at_ f.time).replyPayload i)))) ∧
  (∀ (s : State) (f : Rx) (i : Fin 64), frameGood s f 0x70 i → f.t = 7 → f.len = 32 →
      (replyOk f.payload = true → exec (.statusReply f) s =
        .next { s.at_ f.time with flt := { s.flt with qReply := f.payload, qDone := true, qAsked := false } }) ∧
      (replyOk f.payload = false → exec (.statusReply f) s =
        .next ((s.at_ f.time).raise { code := 0x42, tenant := f.tenant, detail := f.src.toNat }))) ∧
  (∀ (s : State) (finds : List ScrubFind),
      (let on (t : State) : State := tenantIdxs.foldl (fun s i => if (s.ten i).env.isSome then s.follow i else s) t
       (s.power.released = false → exec (.scrubPass finds) s = .next s) ∧
       (s.power.released = true → exec (.scrubPass finds) s = .next (on (finds.foldl (fun s x => s.scrubFind x) s))) ∧
       (s.power.released = true → (∀ i : Fin 64, (s.ten i).env = none) → exec (.scrubPass []) s = .next s))) ∧
  (∀ (s : State) (a : SramArray) (word : Nat), s.scrubFind (.corrected a) = s.count 0x04 ∧
      s.scrubFind .outvoted = State.raise { s with flt := { s.flt with outvoted := s.flt.outvoted + 1 } }
        { code := 0x07, core := true } ∧
      s.scrubFind (.noMajority word) = State.raise { s with flt := { s.flt with noMajority := addOnce word s.flt.noMajority } }
        { code := 0x08, core := true }) ∧
  (∀ (s : State) (now : BitVec 64), s.portsUp = false ∨ s.flt.mirrorEn = false ∨ s.flt.mode = .resetting →
      exec (.statusMirrorWrite now) s = .next s) ∧
  (∀ (s : State) (now : BitVec 64), s.portsUp = true → s.flt.mirrorEn = true → s.flt.mode ≠ .resetting → s.memWf = true →
      s.flt.mirrorBase.toNat + ((s.at_ now).mirrorPage (s.flt.mirrorSeq + 1)).length ≤ Config.stackBytes →
      ∃ t : State, exec (.statusMirrorWrite now) s = .next t ∧ t = { s.at_ now with mem := t.mem, flt := t.flt } ∧
        t.flt = { s.flt with mirrorSeq := s.flt.mirrorSeq + 1 } ∧
        (let page := (s.at_ now).mirrorPage (s.flt.mirrorSeq + 1)
         t.bytesAt s.flt.mirrorBase.toNat page.length = page ∧
         ∀ b : Nat, b < s.flt.mirrorBase.toNat ∨ s.flt.mirrorBase.toNat + page.length ≤ b →
           Mem.read t.mem b = Mem.read s.mem b))

/-! ## The register window -/

/-- Reads and writes of the register window. Nothing moves while the ports are down, and an access of a wrong form is
refused. A read of registers that all lie in the window and are open to its tag answers each word in its lane, zeros beside
it, and leaves what reading clears; one register alone, without a side effect, changes nothing else, a mirror word without
a majority raises event 0x08, and the maxima and counts that clear on read are cleared; any other read is refused. A write
the state does not let through, or where no register lies, is refused; one of the record or the mirror is ignored with event
0x0F beside its answer; the tenant selector selects; a command written as a register is the command; and several words
are answered once, together. Where the manual leaves a point open, the choices of log entries 2, 9, 33, 49, 79, 151 to 155,
160, 161, 165, 173 and 176 hold. -/
def Obligations.RegisterRowsComplete : Prop :=
  (∀ (s : State) (q : NqReq), s.portsUp = false → exec (.rcRead q) s = .next s ∧ exec (.registerWrite q) s = .next s) ∧
  (∀ (s : State) (q : NqReq), s.portsUp = true →
      (winFormed q 0 = false → exec (.rcRead q) s = .next (s.refuse q.id (winOffset q))) ∧
      (winFormed q 1 = false → exec (.registerWrite q) s = .next (s.refuse q.id (winOffset q)))) ∧
  (∀ (s : State) (q : NqReq), s.portsUp = true → winFormed q 0 = true →
      (let good (p : Nat × Nat) : Prop := (s.regWord p.2).isSome = true ∧ s.mayRead q.tag p.2 = true
       let n : Nat := ((winWords q).map fun p => ((s.regWord p.2).getD 0) % 2 ^ 64 * 2 ^ (64 * p.1)).sum
       ((∃ p ∈ winWords q, ¬ good p) → exec (.rcRead q) s = .next (s.refuse q.id (winOffset q))) ∧
       ((∀ p ∈ winWords q, good p) → exec (.rcRead q) s =
         .next ((winWords q).foldl (fun s p => s.readClears p.2) (s.respond q.id .ok 0 (BitVec.ofNat 512 n)))))) ∧
  (∀ (s : State) (q : NqReq) (j off w : Nat), s.portsUp = true → winFormed q 0 = true → winWords q = [(j, off)] →
      s.regWord off = some w → s.mayRead q.tag off = true →
      ∃ s1 : State, exec (.rcRead q) s = .next (s1.readClears off) ∧ s1 = { s with gate := s1.gate } ∧
        s1.gate = { s.gate with ns := s.gate.ns ++
          [{ id := q.id, status := .ok, cause := 0, data := BitVec.ofNat 512 (w % 2 ^ 64 * 2 ^ (64 * j)) }] } ∧
        (off < 0x400 → s1.readClears off = s1) ∧
        (0x400 ≤ off → off < 0x1000 → s.unvoted off = false → s1.readClears off = s1) ∧
        (0x400 ≤ off → off < 0x1000 → s.unvoted off = true →
          s1.readClears off = s1.raise { code := 0x08, core := true, detail := off }) ∧
        (0x1000 ≤ off → off < 0x8000 → ¬ (0x1840 ≤ off ∧ off < 0x1860) →
          off ∉ [0x1108, 0x1828, 0x2050, 0x5418, 0x5440, 0x5840, 0x6810, 0x78F8] → s1.readClears off = s1) ∧
        (off = 0x1828 → s1.readClears off = { s1 with flt := { s.flt with lost := 0 } }) ∧
        (off = 0x2050 → s1.readClears off = { s1 with regs := { s.regs with extraCount := 0 } }) ∧
        (off = 0x5440 → s1.readClears off = { s1 with hawk := { s.hawk with peak := 0 } }) ∧
        (off = 0x5840 → s1.readClears off = { s1 with badger := { s.badger with peak := 0 } }) ∧
        (off = 0x6810 → s1.readClears off = { s1 with lath := { s.lath with retry := 0 } })) ∧
  (∀ (s : State) (q : NqReq) (j off : Nat), s.portsUp = true → winFormed q 1 = true → winWords q = [(j, off)] →
      (let w : Word := q.data.extractLsb' (64 * j) 64
       let a : Acc := { tag := q.tag, id := q.id }
       exec (.registerWrite q) s = .next (s.writeWord a off w) ∧
       (s.writeOpen off w = false ∨ s.regWord off = none → s.writeWord a off w = s.refuse q.id off) ∧
       (s.writeOpen off w = true → (s.regWord off).isSome = true →
         (off < 0x1000 → s.writeWord a off w = (s.ok q.id).raise { code := 0x0F, detail := off }) ∧
         (off = 0x6810 → s.writeWord a off w = s.ok q.id) ∧
         (0x6800 ≤ off → off < 0x7000 → off ≠ 0x6810 →
           s.writeWord a off w = (s.ok q.id).raise { code := 0x0F, detail := off }) ∧
         (0x7800 ≤ off → s.writeWord a off w = (s.ok q.id).raise { code := 0x0F, detail := off })) ∧
       (off = 0x7008 → s.writeOpen off w = true →
         (w.toNat % 16 = 2 → exec (.registerWrite q) s = exec (.cfArm a) s) ∧
         (w.toNat % 16 = 3 → exec (.registerWrite q) s = exec (.cfDisarm a) s) ∧
         (w.toNat % 16 = 4 → exec (.registerWrite q) s = exec (.cfDiscard a) s)))) ∧
  (∀ (s : State) (q : NqReq) (j : Nat), s.portsUp = true → winFormed q 1 = true → winWords q = [(j, 0x3010)] →
      s.configured = true → s.flt.mode ≠ .resetting →
      exec (.registerWrite q) s = .next { s with
        regs := { s.regs with tsel := q.data.extractLsb' (64 * j) 6 }
        gate := { s.gate with ns := s.gate.ns ++ [{ id := q.id, status := .ok, cause := 0, data := 0 }] } }) ∧
  (∀ (s : State) (q : NqReq), s.portsUp = true → winFormed q 1 = true → 2 ≤ (winWords q).length →
      (let t : State := (winWords q).foldl (fun t p =>
         t.writeWord { tag := q.tag, id := q.id } p.2 (q.data.extractLsb' (64 * p.1) 64)) s
       let old : Nat := s.gate.ns.length
       let mine : List NsResp := (t.gate.ns.drop old).filter fun r => r.id == q.id
       let rest : List NsResp := (t.gate.ns.drop old).filter fun r => r.id != q.id
       ((∃ r ∈ mine, r.status ≠ .ok) → exec (.registerWrite q) s = .next (s.refuse q.id (winOffset q))) ∧
       ((∀ r ∈ mine, r.status = .ok) → exec (.registerWrite q) s = .next { t with
         gate := { t.gate with ns := t.gate.ns.take old ++ mine.take 1 ++ rest } })))

/-! ## The lath -/

/-- Transfers over the lath and the ring's walk. Nothing moves while the ports are down. A message whose first payload
is good is taken; one good only at the second is taken too, with RETRY counted; a message bad twice raises event 0x10
and is dropped. What each kind of message leaves is stated kind by kind. The walk records what it found, and where a
copy is in hand it fails content check 3 for straps out of order. Where the manual leaves a point open, the choices of
log entries 7, 9, 16 to 18, 22, 35, 88, 92, 145 to 149, 157, 180, 182 and 201 hold. -/
def Obligations.LathRowsComplete : Prop :=
  (∀ (s : State) (x : LathXfer) (w : WalkResult), s.portsUp = false →
      exec (.lathTransfer x) s = .next s ∧ exec (.lathRingWalk w) s = .next s) ∧
  (∀ (s : State) (x : LathXfer), s.portsUp = true →
      (let first : Prop := x.payload1.length = 64 ∧ crc32c x.payload1 = x.crc1
       let second : Prop := x.payload2.length = 64 ∧ crc32c x.payload2 = x.crc2
       let again : State := { s with lath := { s.lath with retry := s.lath.retry + 1 } }
       (first → exec (.lathTransfer x) s = .next (s.lathMessage x.msg)) ∧
       (¬ first → second → exec (.lathTransfer x) s = .next (again.lathMessage x.msg)) ∧
       (¬ first → ¬ second → exec (.lathTransfer x) s = .next (again.raise { code := 0x10, core := true })))) ∧
  (∀ (s : State) (i : Fin 64) (inst : BitVec 4) (holds up : Bool) (d : Decision) (u : Update) (o : ObjRead) (copy accept : Bool),
      (let known : Prop := (s.ten i).env.isSome = true
       let g : Gen := (s.ten i).fox.gen
       (¬ known → s.lathMessage (.update i.val u) = s) ∧
       (s.lathActive = true → ¬ known → s.lathMessage (.decision i.val d) = s) ∧
       (s.lathActive = false → s.lathMessage (.decision i.val d) =
         { s with lath := { s.lath with decisions := s.lath.decisions ++ [(i.val, d)] } }) ∧
       (s.lathActive = true → known → s.lathMessage (.decision i.val d) = s.takeMateDecision i d) ∧
       (s.flt.mode = .resetting → s.lathMessage (.update i.val u) = s) ∧
       (s.flt.mode ≠ .resetting → known →
         (u.prevGen = g → g < u.newGen → s.lathMessage (.update i.val u) = s.applyUpdate i u false true) ∧
         (g < u.prevGen → s.lathMessage (.update i.val u) = s.querySync i) ∧
         (u.prevGen < g → s.lathMessage (.update i.val u) = s)) ∧
       (s.lathActive = false → s.lathMessage (.holdsRank inst i.val holds) =
         s.updMate inst fun x => { x with ranks := if holds then addOnce i.val x.ranks else x.ranks.filter (· != i.val) }) ∧
       s.lathMessage (.inService inst up) = (s.updMate inst fun x => { x with up := up }).followAll ∧
       (s.power.flash = true → s.lathMessage (.taken copy) = s ∧ s.lathMessage (.distribute o) = s ∧
         s.lathMessage .noneTaken = s) ∧
       (s.power.flash = false → s.lathMessage (.taken copy) = s.applyCandidate copy ∧
         (s.configured = true → s.lathMessage .noneTaken = s) ∧ (s.configured = false → s.lathMessage .noneTaken = s.noCopy)) ∧
       (s.loader.candidate = none ∨ s.loader.applied = true ∨ s.power.flash = false → s.lathMessage (.answer inst accept) = s) ∧
       (s.power.flash = false → s.loader.applied = false → s.contentFault o true = none →
         s.lathMessage (.distribute o) = { s with
           loader := { s.loader with candidate := some o, state := .loading }
           lath := { s.lath with sent := s.lath.sent ++ [.answer s.power.inst true] } }))) ∧
  (∀ (s : State) (i : Fin 64) (inst : BitVec 4) (ready epoch : Nat) (tr : BitVec 7), s.lathActive = true →
      s.isJobManager i = true → s.commits i = true → (s.ten i).env.isSome = true →
      (s.ten i).commit.openEpoch = epoch → (s.ten i).commit.openTry = tr →
      ((s.ten i).childOf true (s.mateAddr inst) = none →
        s.lathMessage (.podVote inst i.val ready epoch tr) = s.raiseT i 0xB1 (s.mateAddr inst).toNat) ∧
      (∀ g : Nat, (s.ten i).childOf true (s.mateAddr inst) = some g → (s.ten i).expect true g < ready →
        s.lathMessage (.podVote inst i.val ready epoch tr) = s.raiseT i 0xB1 (s.mateAddr inst).toNat)) ∧
  (∀ (s : State) (w : WalkResult), s.portsUp = true →
      (let t : State := { s with lath := { s.lath with
         rtt := w.rtt, cwUp := w.cwUp, ccwUp := w.ccwUp, closed := w.closed, ninst := BitVec.ofNat 4 w.straps.length
         inOrder := ringOrder s.power.inst w.straps } }
       (s.loader.candidate = none ∨ s.configured = true → exec (.lathRingWalk w) s = .next t) ∧
       (∀ o : ObjRead, s.loader.candidate = some o → s.configured = false →
         (t.contentFault o true = none → exec (.lathRingWalk w) s = .next t) ∧
         (∀ code detail : Nat, t.contentFault o true = some (code, detail) →
           (s.power.flash = true → exec (.lathRingWalk w) s =
             .next ((t.raise { code := code, detail := detail }).nextCopy 0x07)) ∧
           (s.power.flash = false → exec (.lathRingWalk w) s = .next (State.lathSend
             { t.raise { code := code, detail := detail } with
               loader := { (t.raise { code := code, detail := detail }).loader with candidate := none } }
             (.answer s.power.inst false)))))))

/-! ## Rules of the whole block -/

/-- The state after reset is in form: its byte memories are in canonical form, its history is within its bound, and no
command waits. -/
def Obligations.ResetIsInForm : Prop :=
  State.reset.memWf = true ∧ State.reset.historyOk = true ∧ State.reset.pending = []

/-- Every step, from whatever state, keeps what the reset state has: byte memories in canonical form stay in it, and a
history of at most 32 entries stays one. -/
def Obligations.StepKeepsForm : Prop :=
  ∀ s s' : State, step s = .next s' → s.memWf = true → s.historyOk = true → s'.memWf = true ∧ s'.historyOk = true

/-- No command of the table faults or is refused by the model, and none touches the commands that wait behind it. -/
def Obligations.EveryCommandGoesOn : Prop :=
  ∀ (c : Instr) (s : State), ∃ t : State, exec c s = .next t ∧ t.pending = s.pending

/-- Zero-word elision. Of a raw extent of 256 or 4,096 bytes the elided form has the length its masks imply, two bytes a
64-byte group and four a word that is not zero, and expanding it gives the raw extent back, whatever the bytes. -/
def Obligations.ElisionRoundTrip : Prop :=
  ∀ raw : List Byte, raw.length = 256 ∨ raw.length = 4096 →
    expand raw.length (elide raw) = raw ∧ (elide raw).length = elidedLen raw.length (elide raw) ∧
      (elide raw).length = 2 * (raw.length / 64) + 4 * ((chunksOf 4 (raw.length / 4) raw).filter wordLive).length

/-- The field of the code. Every non-zero element times its inverse, which is its 254th power, is 1; zero times anything
is zero, so that zero has no inverse; the code's coefficients never ask for the inverse of zero; and the powers of 0x02 run
through every non-zero element, the 255th being the first that is 1 again. -/
def Obligations.FieldInverseAndGenerator : Prop :=
  (let power (a : Byte) (n : Nat) : Byte := (List.replicate n a).foldl gfMul 1
   (∀ a : Byte, a ≠ 0 → gfInv a = power a 254 ∧ gfMul a (gfInv a) = 1) ∧ (∀ a : Byte, gfMul 0 a = 0 ∧ gfMul a 0 = 0) ∧
     (∀ m j t : Nat, j < m → m + t < 256 → BitVec.ofNat 8 j ^^^ BitVec.ofNat 8 (m + t) ≠ (0 : Byte)) ∧
     (∀ a : Byte, a ≠ 0 → ∃ n < 255, power 2 n = a) ∧ power 2 255 = 1 ∧ ∀ n : Nat, 0 < n → n < 255 → power 2 n ≠ 1)

/-- The roles of a stripe. Stripe s is cycle s / n and rotation s mod n; in rotation u rank r holds parity row w or data
column w − m, where w is (r − u) mod n; and conversely parity row j lies at rank (u + j) mod n and data column t at rank
(u + m + t) mod n. -/
def Obligations.RolesOfRotation : Prop :=
  ∀ k m u : Nat, 0 < k + m → u < k + m →
    (∀ s : Nat, s = s / (k + m) * (k + m) + s % (k + m)) ∧
    (∀ r : Nat, r < k + m →
      ((r + (k + m) - u) % (k + m) < m → roleOf k m r u = .parity ((r + (k + m) - u) % (k + m))) ∧
      (m ≤ (r + (k + m) - u) % (k + m) → roleOf k m r u = .data ((r + (k + m) - u) % (k + m) - m))) ∧
    (∀ j : Nat, j < m → roleOf k m ((u + j) % (k + m)) u = .parity j ∧ rankAt k m u (k + j) = (u + j) % (k + m)) ∧
    (∀ t : Nat, t < k → roleOf k m ((u + m + t) % (k + m)) u = .data t ∧ rankAt k m u t = (u + m + t) % (k + m))

/-- The first checks of a received frame hold for every frame row. Nothing moves while the ports are down, and a frame the
instance's state keeps out is discarded and leaves nothing else. Of one that is let in, one with EI_ERR or a wrong CRC raises
event 0x41, one of a version other than 3 raises 0x42, with the frame's tenant and its source in DETAIL, and has no other
effect. Of the choices the model makes, those of log entries 9 and 165 hold. -/
def Obligations.FrameChecksComeFirst : Prop :=
  ∀ (s : State) (f : Rx) (flt : ReadFault) (c : Instr),
    c ∈ [.heartbeat f, .fence f, .discover f, .discoverReply f, .membershipQuerySync f, .membershipQueryWitness f,
      .membershipQueryAnswer f, .membershipQueryReport f, .membershipUpdate f, .skimDelta f flt, .skimAck f, .epochMark f,
      .commitPrep f, .commitVote f, .commitDecide f, .stepAbortRequest f, .stepAbortDecision f, .intake f,
      .badgerReq f flt, .badgerReqDigestOnly f, .badgerPart f, .render f, .digestXRebuild f, .completionRecord f,
      .handoverOffer f, .handoverTaken f, .handoverRefused f, .auditReq f flt, .auditPart f, .auditCorrection f,
      .auditRelease f, .digestXLockstep f, .resliceCount f, .resliceDone f, .resliceResend f, .resliceSealed f,
      .resliceCancel f, .resliceMove f, .statusQuery f, .statusReply f] →
    (s.portsUp = false → exec c s = .next s) ∧
    (s.portsUp = true →
      ((s.at_ f.time).takesFrame f = false → exec c s = .next (s.at_ f.time).discard) ∧
      ((s.at_ f.time).takesFrame f = true →
        (f.eiErr = true ∨ f.crc ≠ frameCrc f → exec c s =
          .next ((s.at_ f.time).raise { code := 0x41, tenant := f.tenant, detail := f.src.toNat })) ∧
        (f.eiErr = false → f.crc = frameCrc f → f.ver ≠ 3 → exec c s =
          .next ((s.at_ f.time).raise { code := 0x42, tenant := f.tenant, detail := f.src.toNat }))))

/-- An event whose reaction is to be logged alone. It counts once under its code, sets the summary bit of its source and,
the first time since that bit was cleared, enters the history with the next number, the oldest entry giving way (counted
under 0x18) once 32 are held; afterwards it is only counted. Nothing outside the fault logic changes. -/
def Obligations.EventIsRecorded : Prop :=
  ∀ (s : State) (e : Ev), s.levelFor e = 1 → e.ru = none → e.core = false → e.code ≠ 0x18 → s.historyOk = true →
    ∃ t : State, s.raise e = t ∧ t = { s with flt := t.flt } ∧ t.counter e.code = s.counter e.code + 1 ∧
      (∀ k : Nat, k ≠ e.code → k ≠ 0x18 → t.counter k = s.counter k) ∧ t.flt.summary = s.flt.summary ||| (1 <<< e.source) ∧
      t.flt.mode = s.flt.mode ∧ t.flt.handling = s.flt.handling ∧ t.flt.inReset = s.flt.inReset ∧
      (let h : HistEntry := {
         time := s.time.now, seq := s.flt.seq + 1, code := BitVec.ofNat 8 e.code, source := BitVec.ofNat 4 e.source
         level := 1, tenant := e.tenant, link := 0, mcount := 0, unit := BitVec.ofNat 8 e.unit, merged := false
         detail := BitVec.ofNat 64 e.detail }
       (e.code ∈ s.flt.seen → t.flt.history = s.flt.history ∧ t.flt.seq = s.flt.seq ∧ t.counter 0x18 = s.counter 0x18) ∧
       (e.code ∉ s.flt.seen → s.flt.history.length < 32 →
         t.flt.history = s.flt.history ++ [h] ∧ t.flt.seq = s.flt.seq + 1 ∧ t.counter 0x18 = s.counter 0x18) ∧
       (e.code ∉ s.flt.seen → s.flt.history.length = 32 →
         t.flt.history = s.flt.history.drop 1 ++ [h] ∧ t.counter 0x18 = s.counter 0x18 + 1))

/-- A product accumulated into a parity panel at its holder. Where the panel's record is current with N set, the product is
exclusive-ored into the named bytes of copy 1 − C and into that copy's kept digest. At first touch, with copy C readable
and agreeing with its digest, copy 1 − C becomes copy C with the product in the named bytes, its kept digest follows, and
the record is written with N set, D clear and the open attempt. No other byte of memory changes, and nothing beside the
memory. -/
def Obligations.ProductIsAccumulated : Prop :=
  ∀ (s : State) (i : Fin 64) (k e o : Nat) (bytes : List Byte), s.memWf = true → o + bytes.length ≤ 4096 →
    (let d := (s.slot k).sett
     let r := s.parityRec d e
     let a := s.parityAddr d e (!r.c)
     let b := s.parityAddr d e r.c
     let w := s.dirAddr (s.parityAddr d e false)
     let t := s.accumulate i k e o bytes .none
     a + 4096 ≤ Config.stackBytes → s.dgAddr a + 8 ≤ Config.stackBytes → w + 4 ≤ Config.stackBytes →
     s.dgAddr a + 8 ≤ a ∨ a + 4096 ≤ s.dgAddr a → w + 4 ≤ a ∨ a + 4096 ≤ w → w + 4 ≤ s.dgAddr a ∨ s.dgAddr a + 8 ≤ w →
     (r.n = true → s.recCurrent r = true →
       t = { s with mem := t.mem } ∧
       t.bytesAt (a + o) bytes.length = xorBytes (s.bytesAt (a + o) bytes.length) bytes ∧
       t.kept a = s.kept a ^^^ pdAt o bytes ∧
       ∀ x : Nat, x < a + o ∨ a + o + bytes.length ≤ x → x < s.dgAddr a ∨ s.dgAddr a + 8 ≤ x →
         Mem.read t.mem x = Mem.read s.mem x) ∧
     (r.n = false → e ∉ (s.slot k).missing → s.digestOk b = true →
       t = { s with mem := t.mem } ∧
       t.bytesAt a 4096 = splice (s.bytesAt b 4096) o (xorBytes (slice (s.bytesAt b 4096) o bytes.length) bytes) ∧
       t.kept a = s.kept b ^^^ pdAt o bytes ∧
       leNat (t.bytesAt w 4) = ({ r with n := true, d := false, att := (s.ten i).commit.att } : DirRec).word ∧
       ∀ x : Nat, x < a ∨ a + 4096 ≤ x → x < s.dgAddr a ∨ s.dgAddr a + 8 ≤ x → x < w ∨ w + 4 ≤ x →
         Mem.read t.mem x = Mem.read s.mem x))
end

