-- ==== Sys2Proof/Laws/Mem.lean ====
section
/-! SUPPORT. The laws of the finite maps and of the byte memories: reading back what was written, leaving the rest alone,
and keeping the canonical form. -/

namespace Sys2Proof

/-! ## Finite maps -/

theorem NMap.risingFrom_mono {α : Type} {lo lo' : Nat} {m : NMap α} (h : lo' ≤ lo) (hm : NMap.risingFrom lo m = true) :
    NMap.risingFrom lo' m = true := by
  cases m with
  | nil => rfl
  | cons p t =>
    simp only [NMap.risingFrom, Bool.and_eq_true, decide_eq_true_eq] at hm ⊢
    exact ⟨by omega, hm.2⟩

theorem NMap.risingFrom_le {α : Type} {lo : Nat} {m : NMap α} (hm : NMap.risingFrom lo m = true) {p : Nat × α}
    (hp : p ∈ m) : lo ≤ p.1 := by
  induction m generalizing lo with
  | nil => cases hp
  | cons q t ih =>
    simp only [NMap.risingFrom, Bool.and_eq_true, decide_eq_true_eq] at hm
    rcases List.mem_cons.1 hp with rfl | h
    · exact hm.1
    · have := ih hm.2 h
      omega

theorem NMap.get?_none_of_lt {α : Type} {lo k : Nat} {m : NMap α} (hm : NMap.risingFrom lo m = true) (h : k < lo) :
    NMap.get? m k = none := by
  cases m with
  | nil => rfl
  | cons p t =>
    simp only [NMap.risingFrom, Bool.and_eq_true, decide_eq_true_eq] at hm
    have h1 : ¬ p.1 = k := by omega
    have h2 : k < p.1 := by omega
    simp only [NMap.get?, if_neg h1, if_pos h2]

@[simp] theorem NMap.get?_insert_self {α : Type} (m : NMap α) (k : Nat) (v : α) : NMap.get? (NMap.insert m k v) k = some v := by
  induction m with
  | nil => simp [NMap.insert, NMap.get?]
  | cons p t ih =>
    simp only [NMap.insert]
    split
    · simp [NMap.get?]
    · split
      · simp [NMap.get?]
      · rename_i h1 h2
        simp [NMap.get?, h1, h2, ih]

theorem NMap.get?_insert_other {α : Type} (m : NMap α) {k k' : Nat} (v : α) (h : k' ≠ k) :
    NMap.get? (NMap.insert m k v) k' = NMap.get? m k' := by
  induction m with
  | nil =>
    have : ¬ k = k' := fun e => h e.symm
    simp [NMap.insert, NMap.get?, this]
  | cons p t ih =>
    simp only [NMap.insert]
    split
    · rename_i h1
      have : ¬ k = k' := fun e => h e.symm
      have h2 : ¬ p.1 = k' := by omega
      simp only [NMap.get?, if_neg this, if_neg h2, h1]
    · split
      · rename_i h1 h2
        have h3 : ¬ k = k' := fun e => h e.symm
        by_cases h4 : k' < k
        · have h5 : ¬ p.1 = k' := by omega
          have h6 : k' < p.1 := by omega
          simp [NMap.get?, h3, h4, h5, h6]
        · simp [NMap.get?, h3, h4]
      · rename_i h1 h2
        simp only [NMap.get?, ih]

theorem NMap.risingFrom_insert {α : Type} {lo k : Nat} {m : NMap α} (v : α) (hm : NMap.risingFrom lo m = true) (h : lo ≤ k) :
    NMap.risingFrom lo (NMap.insert m k v) = true := by
  induction m generalizing lo with
  | nil => simp [NMap.insert, NMap.risingFrom, h]
  | cons p t ih =>
    simp only [NMap.risingFrom, Bool.and_eq_true, decide_eq_true_eq] at hm
    simp only [NMap.insert]
    split
    · rename_i h1
      subst h1
      simp [NMap.risingFrom, hm.1, hm.2]
    · split
      · rename_i h1 h2
        simp only [NMap.risingFrom, Bool.and_eq_true, decide_eq_true_eq]
        exact ⟨h, by omega, hm.2⟩
      · rename_i h1 h2
        simp only [NMap.risingFrom, Bool.and_eq_true, decide_eq_true_eq]
        exact ⟨hm.1, ih hm.2 (by omega)⟩

theorem NMap.mem_insert {α : Type} {m : NMap α} {k : Nat} {v : α} {p : Nat × α} (hp : p ∈ NMap.insert m k v) :
    p = (k, v) ∨ p ∈ m := by
  induction m with
  | nil => simp [NMap.insert] at hp; exact Or.inl hp
  | cons q t ih =>
    simp only [NMap.insert] at hp
    split at hp
    · rcases List.mem_cons.1 hp with h | h
      · exact Or.inl h
      · exact Or.inr (List.mem_cons_of_mem _ h)
    · split at hp
      · rcases List.mem_cons.1 hp with h | h
        · exact Or.inl h
        · exact Or.inr h
      · rcases List.mem_cons.1 hp with h | h
        · exact Or.inr (h ▸ List.mem_cons_self)
        · rcases ih h with h' | h'
          · exact Or.inl h'
          · exact Or.inr (List.mem_cons_of_mem _ h')

theorem NMap.mem_erase {α : Type} {m : NMap α} {k : Nat} {p : Nat × α} (hp : p ∈ NMap.erase m k) : p ∈ m := by
  induction m with
  | nil => cases hp
  | cons q t ih =>
    simp only [NMap.erase] at hp
    split at hp
    · exact List.mem_cons_of_mem _ hp
    · split at hp
      · exact hp
      · rcases List.mem_cons.1 hp with h | h
        · exact h ▸ List.mem_cons_self
        · exact List.mem_cons_of_mem _ (ih h)

theorem NMap.risingFrom_erase {α : Type} {lo k : Nat} {m : NMap α} (hm : NMap.risingFrom lo m = true) :
    NMap.risingFrom lo (NMap.erase m k) = true := by
  induction m generalizing lo with
  | nil => rfl
  | cons p t ih =>
    have hm' := hm
    simp only [NMap.risingFrom, Bool.and_eq_true, decide_eq_true_eq] at hm
    simp only [NMap.erase]
    split
    · exact NMap.risingFrom_mono (by omega) hm.2
    · split
      · exact hm'
      · simp only [NMap.risingFrom, Bool.and_eq_true, decide_eq_true_eq]
        exact ⟨hm.1, ih hm.2⟩

theorem NMap.get?_erase_self {α : Type} {lo : Nat} {m : NMap α} (k : Nat) (hm : NMap.risingFrom lo m = true) :
    NMap.get? (NMap.erase m k) k = none := by
  induction m generalizing lo with
  | nil => rfl
  | cons p t ih =>
    simp only [NMap.risingFrom, Bool.and_eq_true, decide_eq_true_eq] at hm
    simp only [NMap.erase]
    split
    · rename_i h
      exact NMap.get?_none_of_lt hm.2 (by omega)
    · split
      · rename_i h1 h2
        simp [NMap.get?, h1, h2]
      · rename_i h1 h2
        simp [NMap.get?, h1, h2, ih hm.2]

theorem NMap.get?_erase_other {α : Type} {lo : Nat} {m : NMap α} {k k' : Nat} (hm : NMap.risingFrom lo m = true)
    (h : k' ≠ k) : NMap.get? (NMap.erase m k) k' = NMap.get? m k' := by
  induction m generalizing lo with
  | nil => rfl
  | cons p t ih =>
    simp only [NMap.risingFrom, Bool.and_eq_true, decide_eq_true_eq] at hm
    simp only [NMap.erase]
    split
    · rename_i h1
      have h2 : ¬ p.1 = k' := by omega
      by_cases h3 : k' < p.1
      · simp only [NMap.get?, if_neg h2, if_pos h3]
        exact NMap.get?_none_of_lt hm.2 (by omega)
      · simp only [NMap.get?, if_neg h2, if_neg h3]
    · split
      · rfl
      · simp only [NMap.get?, ih hm.2]

/-! ## Bytes -/

theorem Mem.read_write_self {lo : Nat} {m : NMap Byte} (a : Nat) (b : Byte) (hm : NMap.risingFrom lo m = true) :
    Mem.read (Mem.write m a b) a = b := by
  unfold Mem.write Mem.read
  split
  · rename_i h
    rw [NMap.get?_erase_self a hm, h]
    rfl
  · rw [NMap.get?_insert_self]
    rfl

theorem Mem.read_write_other {lo : Nat} {m : NMap Byte} {a a' : Nat} (b : Byte) (hm : NMap.risingFrom lo m = true)
    (h : a' ≠ a) : Mem.read (Mem.write m a b) a' = Mem.read m a' := by
  unfold Mem.write Mem.read
  split
  · rw [NMap.get?_erase_other hm h]
  · rw [NMap.get?_insert_other m b h]

theorem Mem.rising_write {lo a : Nat} {m : NMap Byte} (b : Byte) (hm : NMap.risingFrom lo m = true) (h : lo ≤ a) :
    NMap.risingFrom lo (Mem.write m a b) = true := by
  unfold Mem.write
  split
  · exact NMap.risingFrom_erase hm
  · exact NMap.risingFrom_insert b hm h

theorem Mem.rising_writeN {size : Nat} {m : NMap Byte} (a : Nat) (bs : List Byte) (hm : NMap.rising m = true) :
    NMap.rising (Mem.writeN size m a bs) = true := by
  induction bs generalizing m a with
  | nil => exact hm
  | cons b t ih => exact ih (a + 1) (Mem.rising_write b hm (Nat.zero_le _))

/-- A byte outside the range written reads as before. -/
theorem Mem.read_writeN_other {size : Nat} {m : NMap Byte} {a x : Nat} (bs : List Byte) (hm : NMap.rising m = true)
    (hs : a + bs.length ≤ size) (h : ¬ (a ≤ x ∧ x < a + bs.length)) :
    Mem.read (Mem.writeN size m a bs) x = Mem.read m x := by
  induction bs generalizing m a with
  | nil => rfl
  | cons b t ih =>
    simp only [List.length_cons] at hs h
    have ha : a % size = a := Nat.mod_eq_of_lt (by omega)
    simp only [Mem.writeN, ha]
    rw [ih (Mem.rising_write b hm (Nat.zero_le _)) (by omega) (by omega)]
    exact Mem.read_write_other b hm (by omega)

/-- The range written reads as the bytes written. -/
theorem Mem.readN_writeN_self {size : Nat} {m : NMap Byte} {a : Nat} (bs : List Byte) (hm : NMap.rising m = true)
    (hs : a + bs.length ≤ size) : Mem.readN size (Mem.writeN size m a bs) a bs.length = bs := by
  induction bs generalizing m a with
  | nil => rfl
  | cons b t ih =>
    simp only [List.length_cons] at hs
    have ha : a % size = a := Nat.mod_eq_of_lt (by omega)
    have hm' := Mem.rising_write (a := a) b hm (Nat.zero_le _)
    simp only [List.length_cons, Mem.readN, Mem.writeN, ha]
    rw [ih hm' (by omega), Mem.read_writeN_other t hm' (by omega) (by omega), Mem.read_write_self a b hm]

theorem NMap.risingFrom_filter {α : Type} {lo : Nat} {m : NMap α} (p : Nat × α → Bool) (hm : NMap.risingFrom lo m = true) :
    NMap.risingFrom lo (m.filter p) = true := by
  induction m generalizing lo with
  | nil => rfl
  | cons q t ih =>
    simp only [NMap.risingFrom, Bool.and_eq_true, decide_eq_true_eq] at hm
    by_cases h : p q = true
    · rw [List.filter_cons_of_pos h]
      simp only [NMap.risingFrom, Bool.and_eq_true, decide_eq_true_eq]
      exact ⟨hm.1, ih hm.2⟩
    · rw [List.filter_cons_of_neg h]
      exact ih (NMap.risingFrom_mono (by omega) hm.2)

/-! ## The canonical form -/

theorem Mem.wf_iff (size : Nat) (m : NMap Byte) :
    Mem.wf size m = true ↔ NMap.rising m = true ∧ ∀ p ∈ m, p.1 < size ∧ p.2 ≠ 0 := by
  simp [Mem.wf]

theorem Mem.wf_nil (size : Nat) : Mem.wf size [] = true := rfl

theorem Mem.wf_rising {size : Nat} {m : NMap Byte} (h : Mem.wf size m = true) : NMap.rising m = true :=
  ((Mem.wf_iff size m).1 h).1

theorem Mem.wf_write {size : Nat} {m : NMap Byte} {a : Nat} (b : Byte) (h : Mem.wf size m = true) (ha : a < size) :
    Mem.wf size (Mem.write m a b) = true := by
  rw [Mem.wf_iff] at h ⊢
  refine ⟨Mem.rising_write b h.1 (Nat.zero_le _), fun p hp => ?_⟩
  unfold Mem.write at hp
  split at hp
  · exact h.2 p (NMap.mem_erase hp)
  · rename_i hb
    rcases NMap.mem_insert hp with rfl | h'
    · exact ⟨ha, hb⟩
    · exact h.2 p h'

theorem Mem.wf_writeN {size : Nat} {m : NMap Byte} (a : Nat) (bs : List Byte) (hs : 0 < size) (h : Mem.wf size m = true) :
    Mem.wf size (Mem.writeN size m a bs) = true := by
  induction bs generalizing m a with
  | nil => exact h
  | cons b t ih => exact ih (a + 1) (Mem.wf_write b h (Nat.mod_lt _ hs))

theorem Mem.wf_filter {size : Nat} {m : NMap Byte} (p : Nat × Byte → Bool) (h : Mem.wf size m = true) :
    Mem.wf size (m.filter p) = true := by
  rw [Mem.wf_iff] at h ⊢
  exact ⟨NMap.risingFrom_filter p h.1, fun q hq => h.2 q (List.mem_filter.1 hq).1⟩

theorem Mem.wf_zero {size : Nat} {m : NMap Byte} (a n : Nat) (h : Mem.wf size m = true) :
    Mem.wf size (Mem.zero m a n) = true := Mem.wf_filter _ h

theorem NMap.get?_mem {α : Type} {m : NMap α} {k : Nat} {v : α} (h : NMap.get? m k = some v) : (k, v) ∈ m := by
  induction m with
  | nil => cases h
  | cons p t ih =>
    simp only [NMap.get?] at h
    split at h
    · rename_i h1
      cases h
      subst h1
      exact List.mem_cons_self
    · split at h
      · cases h
      · exact List.mem_cons_of_mem _ (ih h)

theorem NMap.get?_of_mem {α : Type} {lo : Nat} {m : NMap α} (hm : NMap.risingFrom lo m = true) {p : Nat × α} (h : p ∈ m) :
    NMap.get? m p.1 = some p.2 := by
  induction m generalizing lo with
  | nil => cases h
  | cons q t ih =>
    simp only [NMap.risingFrom, Bool.and_eq_true, decide_eq_true_eq] at hm
    rcases List.mem_cons.1 h with rfl | h'
    · simp [NMap.get?]
    · have hle := NMap.risingFrom_le hm.2 h'
      have h1 : ¬ q.1 = p.1 := by omega
      have h2 : ¬ p.1 < q.1 := by omega
      simp only [NMap.get?, if_neg h1, if_neg h2, ih hm.2 h']

/-- A range zeroed reads as zero, and every byte outside it as before. -/
theorem Mem.read_zero {m : NMap Byte} (a n x : Nat) (hm : NMap.rising m = true) :
    Mem.read (Mem.zero m a n) x = if a ≤ x ∧ x < a + n then 0 else Mem.read m x := by
  have key : NMap.get? (Mem.zero m a n) x = if a ≤ x ∧ x < a + n then none else NMap.get? m x := by
    have hz : NMap.rising (Mem.zero m a n) = true := NMap.risingFrom_filter _ hm
    cases hg : NMap.get? (Mem.zero m a n) x with
    | some v =>
      have h1 := NMap.get?_mem hg
      have h2 := List.mem_filter.1 h1
      have h3 : ¬ (a ≤ x ∧ x < a + n) := by
        have := h2.2
        simp only [Bool.or_eq_true, decide_eq_true_eq] at this
        omega
      rw [if_neg h3]
      exact (NMap.get?_of_mem hm h2.1).symm
    | none =>
      split
      · rfl
      · rename_i h3
        cases hg' : NMap.get? m x with
        | none => rfl
        | some v =>
          exfalso
          have h1 : (x, v) ∈ Mem.zero m a n := by
            refine List.mem_filter.2 ⟨NMap.get?_mem hg', ?_⟩
            simp only [Bool.or_eq_true, decide_eq_true_eq]
            omega
          have := NMap.get?_of_mem hz h1
          rw [hg] at this
          cases this
  unfold Mem.read
  rw [key]
  split <;> rfl

end Sys2Proof
end

