-- ==== Sys2Proof/Laws/State.lean ====
section
/-! SUPPORT. What each update of the state leaves as it was: one lemma per field per update. -/

namespace Sys2Proof.Machine

/-! ## updTen -/

@[simp] theorem State.updTen_power (s : State) (i : Fin 64) (f : TenantS → TenantS) : (s.updTen i f).power = s.power := rfl
@[simp] theorem State.updTen_time (s : State) (i : Fin 64) (f : TenantS → TenantS) : (s.updTen i f).time = s.time := rfl
@[simp] theorem State.updTen_monitors (s : State) (i : Fin 64) (f : TenantS → TenantS) : (s.updTen i f).monitors = s.monitors := rfl
@[simp] theorem State.updTen_flt (s : State) (i : Fin 64) (f : TenantS → TenantS) : (s.updTen i f).flt = s.flt := rfl
@[simp] theorem State.updTen_crash (s : State) (i : Fin 64) (f : TenantS → TenantS) : (s.updTen i f).crash = s.crash := rfl
@[simp] theorem State.updTen_loader (s : State) (i : Fin 64) (f : TenantS → TenantS) : (s.updTen i f).loader = s.loader := rfl
@[simp] theorem State.updTen_mem (s : State) (i : Fin 64) (f : TenantS → TenantS) : (s.updTen i f).mem = s.mem := rfl
@[simp] theorem State.updTen_gate (s : State) (i : Fin 64) (f : TenantS → TenantS) : (s.updTen i f).gate = s.gate := rfl
@[simp] theorem State.updTen_ctx (s : State) (i : Fin 64) (f : TenantS → TenantS) : (s.updTen i f).ctx = s.ctx := rfl
@[simp] theorem State.updTen_ep (s : State) (i : Fin 64) (f : TenantS → TenantS) : (s.updTen i f).ep = s.ep := rfl
@[simp] theorem State.updTen_hawk (s : State) (i : Fin 64) (f : TenantS → TenantS) : (s.updTen i f).hawk = s.hawk := rfl
@[simp] theorem State.updTen_slots (s : State) (i : Fin 64) (f : TenantS → TenantS) : (s.updTen i f).slots = s.slots := rfl
@[simp] theorem State.updTen_ib (s : State) (i : Fin 64) (f : TenantS → TenantS) : (s.updTen i f).ib = s.ib := rfl
@[simp] theorem State.updTen_work (s : State) (i : Fin 64) (f : TenantS → TenantS) : (s.updTen i f).work = s.work := rfl
@[simp] theorem State.updTen_watch (s : State) (i : Fin 64) (f : TenantS → TenantS) : (s.updTen i f).watch = s.watch := rfl
@[simp] theorem State.updTen_badger (s : State) (i : Fin 64) (f : TenantS → TenantS) : (s.updTen i f).badger = s.badger := rfl
@[simp] theorem State.updTen_rs (s : State) (i : Fin 64) (f : TenantS → TenantS) : (s.updTen i f).rs = s.rs := rfl
@[simp] theorem State.updTen_audit (s : State) (i : Fin 64) (f : TenantS → TenantS) : (s.updTen i f).audit = s.audit := rfl
@[simp] theorem State.updTen_lath (s : State) (i : Fin 64) (f : TenantS → TenantS) : (s.updTen i f).lath = s.lath := rfl
@[simp] theorem State.updTen_regs (s : State) (i : Fin 64) (f : TenantS → TenantS) : (s.updTen i f).regs = s.regs := rfl
@[simp] theorem State.updTen_free (s : State) (i : Fin 64) (f : TenantS → TenantS) : (s.updTen i f).free = s.free := rfl
@[simp] theorem State.updTen_pending (s : State) (i : Fin 64) (f : TenantS → TenantS) : (s.updTen i f).pending = s.pending := rfl

/-! ## updFlt -/

@[simp] theorem State.updFlt_power (s : State) (f : FaultS → FaultS) : (s.updFlt f).power = s.power := rfl
@[simp] theorem State.updFlt_time (s : State) (f : FaultS → FaultS) : (s.updFlt f).time = s.time := rfl
@[simp] theorem State.updFlt_monitors (s : State) (f : FaultS → FaultS) : (s.updFlt f).monitors = s.monitors := rfl
@[simp] theorem State.updFlt_crash (s : State) (f : FaultS → FaultS) : (s.updFlt f).crash = s.crash := rfl
@[simp] theorem State.updFlt_loader (s : State) (f : FaultS → FaultS) : (s.updFlt f).loader = s.loader := rfl
@[simp] theorem State.updFlt_mem (s : State) (f : FaultS → FaultS) : (s.updFlt f).mem = s.mem := rfl
@[simp] theorem State.updFlt_gate (s : State) (f : FaultS → FaultS) : (s.updFlt f).gate = s.gate := rfl
@[simp] theorem State.updFlt_ctx (s : State) (f : FaultS → FaultS) : (s.updFlt f).ctx = s.ctx := rfl
@[simp] theorem State.updFlt_ep (s : State) (f : FaultS → FaultS) : (s.updFlt f).ep = s.ep := rfl
@[simp] theorem State.updFlt_hawk (s : State) (f : FaultS → FaultS) : (s.updFlt f).hawk = s.hawk := rfl
@[simp] theorem State.updFlt_slots (s : State) (f : FaultS → FaultS) : (s.updFlt f).slots = s.slots := rfl
@[simp] theorem State.updFlt_tenants (s : State) (f : FaultS → FaultS) : (s.updFlt f).tenants = s.tenants := rfl
@[simp] theorem State.updFlt_ib (s : State) (f : FaultS → FaultS) : (s.updFlt f).ib = s.ib := rfl
@[simp] theorem State.updFlt_work (s : State) (f : FaultS → FaultS) : (s.updFlt f).work = s.work := rfl
@[simp] theorem State.updFlt_watch (s : State) (f : FaultS → FaultS) : (s.updFlt f).watch = s.watch := rfl
@[simp] theorem State.updFlt_badger (s : State) (f : FaultS → FaultS) : (s.updFlt f).badger = s.badger := rfl
@[simp] theorem State.updFlt_rs (s : State) (f : FaultS → FaultS) : (s.updFlt f).rs = s.rs := rfl
@[simp] theorem State.updFlt_audit (s : State) (f : FaultS → FaultS) : (s.updFlt f).audit = s.audit := rfl
@[simp] theorem State.updFlt_lath (s : State) (f : FaultS → FaultS) : (s.updFlt f).lath = s.lath := rfl
@[simp] theorem State.updFlt_regs (s : State) (f : FaultS → FaultS) : (s.updFlt f).regs = s.regs := rfl
@[simp] theorem State.updFlt_free (s : State) (f : FaultS → FaultS) : (s.updFlt f).free = s.free := rfl
@[simp] theorem State.updFlt_pending (s : State) (f : FaultS → FaultS) : (s.updFlt f).pending = s.pending := rfl

/-! ## updLoader -/

@[simp] theorem State.updLoader_power (s : State) (f : LoaderS → LoaderS) : (s.updLoader f).power = s.power := rfl
@[simp] theorem State.updLoader_time (s : State) (f : LoaderS → LoaderS) : (s.updLoader f).time = s.time := rfl
@[simp] theorem State.updLoader_monitors (s : State) (f : LoaderS → LoaderS) : (s.updLoader f).monitors = s.monitors := rfl
@[simp] theorem State.updLoader_flt (s : State) (f : LoaderS → LoaderS) : (s.updLoader f).flt = s.flt := rfl
@[simp] theorem State.updLoader_crash (s : State) (f : LoaderS → LoaderS) : (s.updLoader f).crash = s.crash := rfl
@[simp] theorem State.updLoader_mem (s : State) (f : LoaderS → LoaderS) : (s.updLoader f).mem = s.mem := rfl
@[simp] theorem State.updLoader_gate (s : State) (f : LoaderS → LoaderS) : (s.updLoader f).gate = s.gate := rfl
@[simp] theorem State.updLoader_ctx (s : State) (f : LoaderS → LoaderS) : (s.updLoader f).ctx = s.ctx := rfl
@[simp] theorem State.updLoader_ep (s : State) (f : LoaderS → LoaderS) : (s.updLoader f).ep = s.ep := rfl
@[simp] theorem State.updLoader_hawk (s : State) (f : LoaderS → LoaderS) : (s.updLoader f).hawk = s.hawk := rfl
@[simp] theorem State.updLoader_slots (s : State) (f : LoaderS → LoaderS) : (s.updLoader f).slots = s.slots := rfl
@[simp] theorem State.updLoader_tenants (s : State) (f : LoaderS → LoaderS) : (s.updLoader f).tenants = s.tenants := rfl
@[simp] theorem State.updLoader_ib (s : State) (f : LoaderS → LoaderS) : (s.updLoader f).ib = s.ib := rfl
@[simp] theorem State.updLoader_work (s : State) (f : LoaderS → LoaderS) : (s.updLoader f).work = s.work := rfl
@[simp] theorem State.updLoader_watch (s : State) (f : LoaderS → LoaderS) : (s.updLoader f).watch = s.watch := rfl
@[simp] theorem State.updLoader_badger (s : State) (f : LoaderS → LoaderS) : (s.updLoader f).badger = s.badger := rfl
@[simp] theorem State.updLoader_rs (s : State) (f : LoaderS → LoaderS) : (s.updLoader f).rs = s.rs := rfl
@[simp] theorem State.updLoader_audit (s : State) (f : LoaderS → LoaderS) : (s.updLoader f).audit = s.audit := rfl
@[simp] theorem State.updLoader_lath (s : State) (f : LoaderS → LoaderS) : (s.updLoader f).lath = s.lath := rfl
@[simp] theorem State.updLoader_regs (s : State) (f : LoaderS → LoaderS) : (s.updLoader f).regs = s.regs := rfl
@[simp] theorem State.updLoader_free (s : State) (f : LoaderS → LoaderS) : (s.updLoader f).free = s.free := rfl
@[simp] theorem State.updLoader_pending (s : State) (f : LoaderS → LoaderS) : (s.updLoader f).pending = s.pending := rfl

/-! ## updEp -/

@[simp] theorem State.updEp_power (s : State) (f : EpS → EpS) : (s.updEp f).power = s.power := rfl
@[simp] theorem State.updEp_time (s : State) (f : EpS → EpS) : (s.updEp f).time = s.time := rfl
@[simp] theorem State.updEp_monitors (s : State) (f : EpS → EpS) : (s.updEp f).monitors = s.monitors := rfl
@[simp] theorem State.updEp_flt (s : State) (f : EpS → EpS) : (s.updEp f).flt = s.flt := rfl
@[simp] theorem State.updEp_crash (s : State) (f : EpS → EpS) : (s.updEp f).crash = s.crash := rfl
@[simp] theorem State.updEp_loader (s : State) (f : EpS → EpS) : (s.updEp f).loader = s.loader := rfl
@[simp] theorem State.updEp_mem (s : State) (f : EpS → EpS) : (s.updEp f).mem = s.mem := rfl
@[simp] theorem State.updEp_gate (s : State) (f : EpS → EpS) : (s.updEp f).gate = s.gate := rfl
@[simp] theorem State.updEp_ctx (s : State) (f : EpS → EpS) : (s.updEp f).ctx = s.ctx := rfl
@[simp] theorem State.updEp_hawk (s : State) (f : EpS → EpS) : (s.updEp f).hawk = s.hawk := rfl
@[simp] theorem State.updEp_slots (s : State) (f : EpS → EpS) : (s.updEp f).slots = s.slots := rfl
@[simp] theorem State.updEp_tenants (s : State) (f : EpS → EpS) : (s.updEp f).tenants = s.tenants := rfl
@[simp] theorem State.updEp_ib (s : State) (f : EpS → EpS) : (s.updEp f).ib = s.ib := rfl
@[simp] theorem State.updEp_work (s : State) (f : EpS → EpS) : (s.updEp f).work = s.work := rfl
@[simp] theorem State.updEp_watch (s : State) (f : EpS → EpS) : (s.updEp f).watch = s.watch := rfl
@[simp] theorem State.updEp_badger (s : State) (f : EpS → EpS) : (s.updEp f).badger = s.badger := rfl
@[simp] theorem State.updEp_rs (s : State) (f : EpS → EpS) : (s.updEp f).rs = s.rs := rfl
@[simp] theorem State.updEp_audit (s : State) (f : EpS → EpS) : (s.updEp f).audit = s.audit := rfl
@[simp] theorem State.updEp_lath (s : State) (f : EpS → EpS) : (s.updEp f).lath = s.lath := rfl
@[simp] theorem State.updEp_regs (s : State) (f : EpS → EpS) : (s.updEp f).regs = s.regs := rfl
@[simp] theorem State.updEp_free (s : State) (f : EpS → EpS) : (s.updEp f).free = s.free := rfl
@[simp] theorem State.updEp_pending (s : State) (f : EpS → EpS) : (s.updEp f).pending = s.pending := rfl

/-! ## updCtx -/

@[simp] theorem State.updCtx_power (s : State) (f : CtxS → CtxS) : (s.updCtx f).power = s.power := rfl
@[simp] theorem State.updCtx_time (s : State) (f : CtxS → CtxS) : (s.updCtx f).time = s.time := rfl
@[simp] theorem State.updCtx_monitors (s : State) (f : CtxS → CtxS) : (s.updCtx f).monitors = s.monitors := rfl
@[simp] theorem State.updCtx_flt (s : State) (f : CtxS → CtxS) : (s.updCtx f).flt = s.flt := rfl
@[simp] theorem State.updCtx_crash (s : State) (f : CtxS → CtxS) : (s.updCtx f).crash = s.crash := rfl
@[simp] theorem State.updCtx_loader (s : State) (f : CtxS → CtxS) : (s.updCtx f).loader = s.loader := rfl
@[simp] theorem State.updCtx_mem (s : State) (f : CtxS → CtxS) : (s.updCtx f).mem = s.mem := rfl
@[simp] theorem State.updCtx_gate (s : State) (f : CtxS → CtxS) : (s.updCtx f).gate = s.gate := rfl
@[simp] theorem State.updCtx_ep (s : State) (f : CtxS → CtxS) : (s.updCtx f).ep = s.ep := rfl
@[simp] theorem State.updCtx_hawk (s : State) (f : CtxS → CtxS) : (s.updCtx f).hawk = s.hawk := rfl
@[simp] theorem State.updCtx_slots (s : State) (f : CtxS → CtxS) : (s.updCtx f).slots = s.slots := rfl
@[simp] theorem State.updCtx_tenants (s : State) (f : CtxS → CtxS) : (s.updCtx f).tenants = s.tenants := rfl
@[simp] theorem State.updCtx_ib (s : State) (f : CtxS → CtxS) : (s.updCtx f).ib = s.ib := rfl
@[simp] theorem State.updCtx_work (s : State) (f : CtxS → CtxS) : (s.updCtx f).work = s.work := rfl
@[simp] theorem State.updCtx_watch (s : State) (f : CtxS → CtxS) : (s.updCtx f).watch = s.watch := rfl
@[simp] theorem State.updCtx_badger (s : State) (f : CtxS → CtxS) : (s.updCtx f).badger = s.badger := rfl
@[simp] theorem State.updCtx_rs (s : State) (f : CtxS → CtxS) : (s.updCtx f).rs = s.rs := rfl
@[simp] theorem State.updCtx_audit (s : State) (f : CtxS → CtxS) : (s.updCtx f).audit = s.audit := rfl
@[simp] theorem State.updCtx_lath (s : State) (f : CtxS → CtxS) : (s.updCtx f).lath = s.lath := rfl
@[simp] theorem State.updCtx_regs (s : State) (f : CtxS → CtxS) : (s.updCtx f).regs = s.regs := rfl
@[simp] theorem State.updCtx_free (s : State) (f : CtxS → CtxS) : (s.updCtx f).free = s.free := rfl
@[simp] theorem State.updCtx_pending (s : State) (f : CtxS → CtxS) : (s.updCtx f).pending = s.pending := rfl

/-! ## updIb -/

@[simp] theorem State.updIb_power (s : State) (f : IbS → IbS) : (s.updIb f).power = s.power := rfl
@[simp] theorem State.updIb_time (s : State) (f : IbS → IbS) : (s.updIb f).time = s.time := rfl
@[simp] theorem State.updIb_monitors (s : State) (f : IbS → IbS) : (s.updIb f).monitors = s.monitors := rfl
@[simp] theorem State.updIb_flt (s : State) (f : IbS → IbS) : (s.updIb f).flt = s.flt := rfl
@[simp] theorem State.updIb_crash (s : State) (f : IbS → IbS) : (s.updIb f).crash = s.crash := rfl
@[simp] theorem State.updIb_loader (s : State) (f : IbS → IbS) : (s.updIb f).loader = s.loader := rfl
@[simp] theorem State.updIb_mem (s : State) (f : IbS → IbS) : (s.updIb f).mem = s.mem := rfl
@[simp] theorem State.updIb_gate (s : State) (f : IbS → IbS) : (s.updIb f).gate = s.gate := rfl
@[simp] theorem State.updIb_ctx (s : State) (f : IbS → IbS) : (s.updIb f).ctx = s.ctx := rfl
@[simp] theorem State.updIb_ep (s : State) (f : IbS → IbS) : (s.updIb f).ep = s.ep := rfl
@[simp] theorem State.updIb_hawk (s : State) (f : IbS → IbS) : (s.updIb f).hawk = s.hawk := rfl
@[simp] theorem State.updIb_slots (s : State) (f : IbS → IbS) : (s.updIb f).slots = s.slots := rfl
@[simp] theorem State.updIb_tenants (s : State) (f : IbS → IbS) : (s.updIb f).tenants = s.tenants := rfl
@[simp] theorem State.updIb_work (s : State) (f : IbS → IbS) : (s.updIb f).work = s.work := rfl
@[simp] theorem State.updIb_watch (s : State) (f : IbS → IbS) : (s.updIb f).watch = s.watch := rfl
@[simp] theorem State.updIb_badger (s : State) (f : IbS → IbS) : (s.updIb f).badger = s.badger := rfl
@[simp] theorem State.updIb_rs (s : State) (f : IbS → IbS) : (s.updIb f).rs = s.rs := rfl
@[simp] theorem State.updIb_audit (s : State) (f : IbS → IbS) : (s.updIb f).audit = s.audit := rfl
@[simp] theorem State.updIb_lath (s : State) (f : IbS → IbS) : (s.updIb f).lath = s.lath := rfl
@[simp] theorem State.updIb_regs (s : State) (f : IbS → IbS) : (s.updIb f).regs = s.regs := rfl
@[simp] theorem State.updIb_free (s : State) (f : IbS → IbS) : (s.updIb f).free = s.free := rfl
@[simp] theorem State.updIb_pending (s : State) (f : IbS → IbS) : (s.updIb f).pending = s.pending := rfl

/-! ## updBadger -/

@[simp] theorem State.updBadger_power (s : State) (f : BadgerS → BadgerS) : (s.updBadger f).power = s.power := rfl
@[simp] theorem State.updBadger_time (s : State) (f : BadgerS → BadgerS) : (s.updBadger f).time = s.time := rfl
@[simp] theorem State.updBadger_monitors (s : State) (f : BadgerS → BadgerS) : (s.updBadger f).monitors = s.monitors := rfl
@[simp] theorem State.updBadger_flt (s : State) (f : BadgerS → BadgerS) : (s.updBadger f).flt = s.flt := rfl
@[simp] theorem State.updBadger_crash (s : State) (f : BadgerS → BadgerS) : (s.updBadger f).crash = s.crash := rfl
@[simp] theorem State.updBadger_loader (s : State) (f : BadgerS → BadgerS) : (s.updBadger f).loader = s.loader := rfl
@[simp] theorem State.updBadger_mem (s : State) (f : BadgerS → BadgerS) : (s.updBadger f).mem = s.mem := rfl
@[simp] theorem State.updBadger_gate (s : State) (f : BadgerS → BadgerS) : (s.updBadger f).gate = s.gate := rfl
@[simp] theorem State.updBadger_ctx (s : State) (f : BadgerS → BadgerS) : (s.updBadger f).ctx = s.ctx := rfl
@[simp] theorem State.updBadger_ep (s : State) (f : BadgerS → BadgerS) : (s.updBadger f).ep = s.ep := rfl
@[simp] theorem State.updBadger_hawk (s : State) (f : BadgerS → BadgerS) : (s.updBadger f).hawk = s.hawk := rfl
@[simp] theorem State.updBadger_slots (s : State) (f : BadgerS → BadgerS) : (s.updBadger f).slots = s.slots := rfl
@[simp] theorem State.updBadger_tenants (s : State) (f : BadgerS → BadgerS) : (s.updBadger f).tenants = s.tenants := rfl
@[simp] theorem State.updBadger_ib (s : State) (f : BadgerS → BadgerS) : (s.updBadger f).ib = s.ib := rfl
@[simp] theorem State.updBadger_work (s : State) (f : BadgerS → BadgerS) : (s.updBadger f).work = s.work := rfl
@[simp] theorem State.updBadger_watch (s : State) (f : BadgerS → BadgerS) : (s.updBadger f).watch = s.watch := rfl
@[simp] theorem State.updBadger_rs (s : State) (f : BadgerS → BadgerS) : (s.updBadger f).rs = s.rs := rfl
@[simp] theorem State.updBadger_audit (s : State) (f : BadgerS → BadgerS) : (s.updBadger f).audit = s.audit := rfl
@[simp] theorem State.updBadger_lath (s : State) (f : BadgerS → BadgerS) : (s.updBadger f).lath = s.lath := rfl
@[simp] theorem State.updBadger_regs (s : State) (f : BadgerS → BadgerS) : (s.updBadger f).regs = s.regs := rfl
@[simp] theorem State.updBadger_free (s : State) (f : BadgerS → BadgerS) : (s.updBadger f).free = s.free := rfl
@[simp] theorem State.updBadger_pending (s : State) (f : BadgerS → BadgerS) : (s.updBadger f).pending = s.pending := rfl

/-! ## updAudit -/

@[simp] theorem State.updAudit_power (s : State) (f : AuditS → AuditS) : (s.updAudit f).power = s.power := rfl
@[simp] theorem State.updAudit_time (s : State) (f : AuditS → AuditS) : (s.updAudit f).time = s.time := rfl
@[simp] theorem State.updAudit_monitors (s : State) (f : AuditS → AuditS) : (s.updAudit f).monitors = s.monitors := rfl
@[simp] theorem State.updAudit_flt (s : State) (f : AuditS → AuditS) : (s.updAudit f).flt = s.flt := rfl
@[simp] theorem State.updAudit_crash (s : State) (f : AuditS → AuditS) : (s.updAudit f).crash = s.crash := rfl
@[simp] theorem State.updAudit_loader (s : State) (f : AuditS → AuditS) : (s.updAudit f).loader = s.loader := rfl
@[simp] theorem State.updAudit_mem (s : State) (f : AuditS → AuditS) : (s.updAudit f).mem = s.mem := rfl
@[simp] theorem State.updAudit_gate (s : State) (f : AuditS → AuditS) : (s.updAudit f).gate = s.gate := rfl
@[simp] theorem State.updAudit_ctx (s : State) (f : AuditS → AuditS) : (s.updAudit f).ctx = s.ctx := rfl
@[simp] theorem State.updAudit_ep (s : State) (f : AuditS → AuditS) : (s.updAudit f).ep = s.ep := rfl
@[simp] theorem State.updAudit_hawk (s : State) (f : AuditS → AuditS) : (s.updAudit f).hawk = s.hawk := rfl
@[simp] theorem State.updAudit_slots (s : State) (f : AuditS → AuditS) : (s.updAudit f).slots = s.slots := rfl
@[simp] theorem State.updAudit_tenants (s : State) (f : AuditS → AuditS) : (s.updAudit f).tenants = s.tenants := rfl
@[simp] theorem State.updAudit_ib (s : State) (f : AuditS → AuditS) : (s.updAudit f).ib = s.ib := rfl
@[simp] theorem State.updAudit_work (s : State) (f : AuditS → AuditS) : (s.updAudit f).work = s.work := rfl
@[simp] theorem State.updAudit_watch (s : State) (f : AuditS → AuditS) : (s.updAudit f).watch = s.watch := rfl
@[simp] theorem State.updAudit_badger (s : State) (f : AuditS → AuditS) : (s.updAudit f).badger = s.badger := rfl
@[simp] theorem State.updAudit_rs (s : State) (f : AuditS → AuditS) : (s.updAudit f).rs = s.rs := rfl
@[simp] theorem State.updAudit_lath (s : State) (f : AuditS → AuditS) : (s.updAudit f).lath = s.lath := rfl
@[simp] theorem State.updAudit_regs (s : State) (f : AuditS → AuditS) : (s.updAudit f).regs = s.regs := rfl
@[simp] theorem State.updAudit_free (s : State) (f : AuditS → AuditS) : (s.updAudit f).free = s.free := rfl
@[simp] theorem State.updAudit_pending (s : State) (f : AuditS → AuditS) : (s.updAudit f).pending = s.pending := rfl

/-! ## updCrash -/

@[simp] theorem State.updCrash_power (s : State) (f : CrashS → CrashS) : (s.updCrash f).power = s.power := rfl
@[simp] theorem State.updCrash_time (s : State) (f : CrashS → CrashS) : (s.updCrash f).time = s.time := rfl
@[simp] theorem State.updCrash_monitors (s : State) (f : CrashS → CrashS) : (s.updCrash f).monitors = s.monitors := rfl
@[simp] theorem State.updCrash_flt (s : State) (f : CrashS → CrashS) : (s.updCrash f).flt = s.flt := rfl
@[simp] theorem State.updCrash_loader (s : State) (f : CrashS → CrashS) : (s.updCrash f).loader = s.loader := rfl
@[simp] theorem State.updCrash_mem (s : State) (f : CrashS → CrashS) : (s.updCrash f).mem = s.mem := rfl
@[simp] theorem State.updCrash_gate (s : State) (f : CrashS → CrashS) : (s.updCrash f).gate = s.gate := rfl
@[simp] theorem State.updCrash_ctx (s : State) (f : CrashS → CrashS) : (s.updCrash f).ctx = s.ctx := rfl
@[simp] theorem State.updCrash_ep (s : State) (f : CrashS → CrashS) : (s.updCrash f).ep = s.ep := rfl
@[simp] theorem State.updCrash_hawk (s : State) (f : CrashS → CrashS) : (s.updCrash f).hawk = s.hawk := rfl
@[simp] theorem State.updCrash_slots (s : State) (f : CrashS → CrashS) : (s.updCrash f).slots = s.slots := rfl
@[simp] theorem State.updCrash_tenants (s : State) (f : CrashS → CrashS) : (s.updCrash f).tenants = s.tenants := rfl
@[simp] theorem State.updCrash_ib (s : State) (f : CrashS → CrashS) : (s.updCrash f).ib = s.ib := rfl
@[simp] theorem State.updCrash_work (s : State) (f : CrashS → CrashS) : (s.updCrash f).work = s.work := rfl
@[simp] theorem State.updCrash_watch (s : State) (f : CrashS → CrashS) : (s.updCrash f).watch = s.watch := rfl
@[simp] theorem State.updCrash_badger (s : State) (f : CrashS → CrashS) : (s.updCrash f).badger = s.badger := rfl
@[simp] theorem State.updCrash_rs (s : State) (f : CrashS → CrashS) : (s.updCrash f).rs = s.rs := rfl
@[simp] theorem State.updCrash_audit (s : State) (f : CrashS → CrashS) : (s.updCrash f).audit = s.audit := rfl
@[simp] theorem State.updCrash_lath (s : State) (f : CrashS → CrashS) : (s.updCrash f).lath = s.lath := rfl
@[simp] theorem State.updCrash_regs (s : State) (f : CrashS → CrashS) : (s.updCrash f).regs = s.regs := rfl
@[simp] theorem State.updCrash_free (s : State) (f : CrashS → CrashS) : (s.updCrash f).free = s.free := rfl
@[simp] theorem State.updCrash_pending (s : State) (f : CrashS → CrashS) : (s.updCrash f).pending = s.pending := rfl

/-! ## updLath -/

@[simp] theorem State.updLath_power (s : State) (f : LathS → LathS) : (s.updLath f).power = s.power := rfl
@[simp] theorem State.updLath_time (s : State) (f : LathS → LathS) : (s.updLath f).time = s.time := rfl
@[simp] theorem State.updLath_monitors (s : State) (f : LathS → LathS) : (s.updLath f).monitors = s.monitors := rfl
@[simp] theorem State.updLath_flt (s : State) (f : LathS → LathS) : (s.updLath f).flt = s.flt := rfl
@[simp] theorem State.updLath_crash (s : State) (f : LathS → LathS) : (s.updLath f).crash = s.crash := rfl
@[simp] theorem State.updLath_loader (s : State) (f : LathS → LathS) : (s.updLath f).loader = s.loader := rfl
@[simp] theorem State.updLath_mem (s : State) (f : LathS → LathS) : (s.updLath f).mem = s.mem := rfl
@[simp] theorem State.updLath_gate (s : State) (f : LathS → LathS) : (s.updLath f).gate = s.gate := rfl
@[simp] theorem State.updLath_ctx (s : State) (f : LathS → LathS) : (s.updLath f).ctx = s.ctx := rfl
@[simp] theorem State.updLath_ep (s : State) (f : LathS → LathS) : (s.updLath f).ep = s.ep := rfl
@[simp] theorem State.updLath_hawk (s : State) (f : LathS → LathS) : (s.updLath f).hawk = s.hawk := rfl
@[simp] theorem State.updLath_slots (s : State) (f : LathS → LathS) : (s.updLath f).slots = s.slots := rfl
@[simp] theorem State.updLath_tenants (s : State) (f : LathS → LathS) : (s.updLath f).tenants = s.tenants := rfl
@[simp] theorem State.updLath_ib (s : State) (f : LathS → LathS) : (s.updLath f).ib = s.ib := rfl
@[simp] theorem State.updLath_work (s : State) (f : LathS → LathS) : (s.updLath f).work = s.work := rfl
@[simp] theorem State.updLath_watch (s : State) (f : LathS → LathS) : (s.updLath f).watch = s.watch := rfl
@[simp] theorem State.updLath_badger (s : State) (f : LathS → LathS) : (s.updLath f).badger = s.badger := rfl
@[simp] theorem State.updLath_rs (s : State) (f : LathS → LathS) : (s.updLath f).rs = s.rs := rfl
@[simp] theorem State.updLath_audit (s : State) (f : LathS → LathS) : (s.updLath f).audit = s.audit := rfl
@[simp] theorem State.updLath_regs (s : State) (f : LathS → LathS) : (s.updLath f).regs = s.regs := rfl
@[simp] theorem State.updLath_free (s : State) (f : LathS → LathS) : (s.updLath f).free = s.free := rfl
@[simp] theorem State.updLath_pending (s : State) (f : LathS → LathS) : (s.updLath f).pending = s.pending := rfl

/-! ## updCommit -/

@[simp] theorem State.updCommit_power (s : State) (i : Fin 64) (f : CommitS → CommitS) : (s.updCommit i f).power = s.power := rfl
@[simp] theorem State.updCommit_time (s : State) (i : Fin 64) (f : CommitS → CommitS) : (s.updCommit i f).time = s.time := rfl
@[simp] theorem State.updCommit_monitors (s : State) (i : Fin 64) (f : CommitS → CommitS) : (s.updCommit i f).monitors = s.monitors := rfl
@[simp] theorem State.updCommit_flt (s : State) (i : Fin 64) (f : CommitS → CommitS) : (s.updCommit i f).flt = s.flt := rfl
@[simp] theorem State.updCommit_crash (s : State) (i : Fin 64) (f : CommitS → CommitS) : (s.updCommit i f).crash = s.crash := rfl
@[simp] theorem State.updCommit_loader (s : State) (i : Fin 64) (f : CommitS → CommitS) : (s.updCommit i f).loader = s.loader := rfl
@[simp] theorem State.updCommit_mem (s : State) (i : Fin 64) (f : CommitS → CommitS) : (s.updCommit i f).mem = s.mem := rfl
@[simp] theorem State.updCommit_gate (s : State) (i : Fin 64) (f : CommitS → CommitS) : (s.updCommit i f).gate = s.gate := rfl
@[simp] theorem State.updCommit_ctx (s : State) (i : Fin 64) (f : CommitS → CommitS) : (s.updCommit i f).ctx = s.ctx := rfl
@[simp] theorem State.updCommit_ep (s : State) (i : Fin 64) (f : CommitS → CommitS) : (s.updCommit i f).ep = s.ep := rfl
@[simp] theorem State.updCommit_hawk (s : State) (i : Fin 64) (f : CommitS → CommitS) : (s.updCommit i f).hawk = s.hawk := rfl
@[simp] theorem State.updCommit_slots (s : State) (i : Fin 64) (f : CommitS → CommitS) : (s.updCommit i f).slots = s.slots := rfl
@[simp] theorem State.updCommit_ib (s : State) (i : Fin 64) (f : CommitS → CommitS) : (s.updCommit i f).ib = s.ib := rfl
@[simp] theorem State.updCommit_work (s : State) (i : Fin 64) (f : CommitS → CommitS) : (s.updCommit i f).work = s.work := rfl
@[simp] theorem State.updCommit_watch (s : State) (i : Fin 64) (f : CommitS → CommitS) : (s.updCommit i f).watch = s.watch := rfl
@[simp] theorem State.updCommit_badger (s : State) (i : Fin 64) (f : CommitS → CommitS) : (s.updCommit i f).badger = s.badger := rfl
@[simp] theorem State.updCommit_rs (s : State) (i : Fin 64) (f : CommitS → CommitS) : (s.updCommit i f).rs = s.rs := rfl
@[simp] theorem State.updCommit_audit (s : State) (i : Fin 64) (f : CommitS → CommitS) : (s.updCommit i f).audit = s.audit := rfl
@[simp] theorem State.updCommit_lath (s : State) (i : Fin 64) (f : CommitS → CommitS) : (s.updCommit i f).lath = s.lath := rfl
@[simp] theorem State.updCommit_regs (s : State) (i : Fin 64) (f : CommitS → CommitS) : (s.updCommit i f).regs = s.regs := rfl
@[simp] theorem State.updCommit_free (s : State) (i : Fin 64) (f : CommitS → CommitS) : (s.updCommit i f).free = s.free := rfl
@[simp] theorem State.updCommit_pending (s : State) (i : Fin 64) (f : CommitS → CommitS) : (s.updCommit i f).pending = s.pending := rfl

/-! ## updSweep -/

@[simp] theorem State.updSweep_power (s : State) (i : Fin 64) (f : SweepS → SweepS) : (s.updSweep i f).power = s.power := rfl
@[simp] theorem State.updSweep_time (s : State) (i : Fin 64) (f : SweepS → SweepS) : (s.updSweep i f).time = s.time := rfl
@[simp] theorem State.updSweep_monitors (s : State) (i : Fin 64) (f : SweepS → SweepS) : (s.updSweep i f).monitors = s.monitors := rfl
@[simp] theorem State.updSweep_flt (s : State) (i : Fin 64) (f : SweepS → SweepS) : (s.updSweep i f).flt = s.flt := rfl
@[simp] theorem State.updSweep_crash (s : State) (i : Fin 64) (f : SweepS → SweepS) : (s.updSweep i f).crash = s.crash := rfl
@[simp] theorem State.updSweep_loader (s : State) (i : Fin 64) (f : SweepS → SweepS) : (s.updSweep i f).loader = s.loader := rfl
@[simp] theorem State.updSweep_mem (s : State) (i : Fin 64) (f : SweepS → SweepS) : (s.updSweep i f).mem = s.mem := rfl
@[simp] theorem State.updSweep_gate (s : State) (i : Fin 64) (f : SweepS → SweepS) : (s.updSweep i f).gate = s.gate := rfl
@[simp] theorem State.updSweep_ctx (s : State) (i : Fin 64) (f : SweepS → SweepS) : (s.updSweep i f).ctx = s.ctx := rfl
@[simp] theorem State.updSweep_ep (s : State) (i : Fin 64) (f : SweepS → SweepS) : (s.updSweep i f).ep = s.ep := rfl
@[simp] theorem State.updSweep_hawk (s : State) (i : Fin 64) (f : SweepS → SweepS) : (s.updSweep i f).hawk = s.hawk := rfl
@[simp] theorem State.updSweep_slots (s : State) (i : Fin 64) (f : SweepS → SweepS) : (s.updSweep i f).slots = s.slots := rfl
@[simp] theorem State.updSweep_ib (s : State) (i : Fin 64) (f : SweepS → SweepS) : (s.updSweep i f).ib = s.ib := rfl
@[simp] theorem State.updSweep_work (s : State) (i : Fin 64) (f : SweepS → SweepS) : (s.updSweep i f).work = s.work := rfl
@[simp] theorem State.updSweep_watch (s : State) (i : Fin 64) (f : SweepS → SweepS) : (s.updSweep i f).watch = s.watch := rfl
@[simp] theorem State.updSweep_badger (s : State) (i : Fin 64) (f : SweepS → SweepS) : (s.updSweep i f).badger = s.badger := rfl
@[simp] theorem State.updSweep_rs (s : State) (i : Fin 64) (f : SweepS → SweepS) : (s.updSweep i f).rs = s.rs := rfl
@[simp] theorem State.updSweep_audit (s : State) (i : Fin 64) (f : SweepS → SweepS) : (s.updSweep i f).audit = s.audit := rfl
@[simp] theorem State.updSweep_lath (s : State) (i : Fin 64) (f : SweepS → SweepS) : (s.updSweep i f).lath = s.lath := rfl
@[simp] theorem State.updSweep_regs (s : State) (i : Fin 64) (f : SweepS → SweepS) : (s.updSweep i f).regs = s.regs := rfl
@[simp] theorem State.updSweep_free (s : State) (i : Fin 64) (f : SweepS → SweepS) : (s.updSweep i f).free = s.free := rfl
@[simp] theorem State.updSweep_pending (s : State) (i : Fin 64) (f : SweepS → SweepS) : (s.updSweep i f).pending = s.pending := rfl

/-! ## updFox -/

@[simp] theorem State.updFox_power (s : State) (i : Fin 64) (f : FoxS → FoxS) : (s.updFox i f).power = s.power := rfl
@[simp] theorem State.updFox_time (s : State) (i : Fin 64) (f : FoxS → FoxS) : (s.updFox i f).time = s.time := rfl
@[simp] theorem State.updFox_monitors (s : State) (i : Fin 64) (f : FoxS → FoxS) : (s.updFox i f).monitors = s.monitors := rfl
@[simp] theorem State.updFox_flt (s : State) (i : Fin 64) (f : FoxS → FoxS) : (s.updFox i f).flt = s.flt := rfl
@[simp] theorem State.updFox_crash (s : State) (i : Fin 64) (f : FoxS → FoxS) : (s.updFox i f).crash = s.crash := rfl
@[simp] theorem State.updFox_loader (s : State) (i : Fin 64) (f : FoxS → FoxS) : (s.updFox i f).loader = s.loader := rfl
@[simp] theorem State.updFox_mem (s : State) (i : Fin 64) (f : FoxS → FoxS) : (s.updFox i f).mem = s.mem := rfl
@[simp] theorem State.updFox_gate (s : State) (i : Fin 64) (f : FoxS → FoxS) : (s.updFox i f).gate = s.gate := rfl
@[simp] theorem State.updFox_ctx (s : State) (i : Fin 64) (f : FoxS → FoxS) : (s.updFox i f).ctx = s.ctx := rfl
@[simp] theorem State.updFox_ep (s : State) (i : Fin 64) (f : FoxS → FoxS) : (s.updFox i f).ep = s.ep := rfl
@[simp] theorem State.updFox_hawk (s : State) (i : Fin 64) (f : FoxS → FoxS) : (s.updFox i f).hawk = s.hawk := rfl
@[simp] theorem State.updFox_slots (s : State) (i : Fin 64) (f : FoxS → FoxS) : (s.updFox i f).slots = s.slots := rfl
@[simp] theorem State.updFox_ib (s : State) (i : Fin 64) (f : FoxS → FoxS) : (s.updFox i f).ib = s.ib := rfl
@[simp] theorem State.updFox_work (s : State) (i : Fin 64) (f : FoxS → FoxS) : (s.updFox i f).work = s.work := rfl
@[simp] theorem State.updFox_watch (s : State) (i : Fin 64) (f : FoxS → FoxS) : (s.updFox i f).watch = s.watch := rfl
@[simp] theorem State.updFox_badger (s : State) (i : Fin 64) (f : FoxS → FoxS) : (s.updFox i f).badger = s.badger := rfl
@[simp] theorem State.updFox_rs (s : State) (i : Fin 64) (f : FoxS → FoxS) : (s.updFox i f).rs = s.rs := rfl
@[simp] theorem State.updFox_audit (s : State) (i : Fin 64) (f : FoxS → FoxS) : (s.updFox i f).audit = s.audit := rfl
@[simp] theorem State.updFox_lath (s : State) (i : Fin 64) (f : FoxS → FoxS) : (s.updFox i f).lath = s.lath := rfl
@[simp] theorem State.updFox_regs (s : State) (i : Fin 64) (f : FoxS → FoxS) : (s.updFox i f).regs = s.regs := rfl
@[simp] theorem State.updFox_free (s : State) (i : Fin 64) (f : FoxS → FoxS) : (s.updFox i f).free = s.free := rfl
@[simp] theorem State.updFox_pending (s : State) (i : Fin 64) (f : FoxS → FoxS) : (s.updFox i f).pending = s.pending := rfl

/-! ## updRs -/

@[simp] theorem State.updRs_power (s : State) (i : Fin 64) (f : RsTenS → RsTenS) : (s.updRs i f).power = s.power := rfl
@[simp] theorem State.updRs_time (s : State) (i : Fin 64) (f : RsTenS → RsTenS) : (s.updRs i f).time = s.time := rfl
@[simp] theorem State.updRs_monitors (s : State) (i : Fin 64) (f : RsTenS → RsTenS) : (s.updRs i f).monitors = s.monitors := rfl
@[simp] theorem State.updRs_flt (s : State) (i : Fin 64) (f : RsTenS → RsTenS) : (s.updRs i f).flt = s.flt := rfl
@[simp] theorem State.updRs_crash (s : State) (i : Fin 64) (f : RsTenS → RsTenS) : (s.updRs i f).crash = s.crash := rfl
@[simp] theorem State.updRs_loader (s : State) (i : Fin 64) (f : RsTenS → RsTenS) : (s.updRs i f).loader = s.loader := rfl
@[simp] theorem State.updRs_mem (s : State) (i : Fin 64) (f : RsTenS → RsTenS) : (s.updRs i f).mem = s.mem := rfl
@[simp] theorem State.updRs_gate (s : State) (i : Fin 64) (f : RsTenS → RsTenS) : (s.updRs i f).gate = s.gate := rfl
@[simp] theorem State.updRs_ctx (s : State) (i : Fin 64) (f : RsTenS → RsTenS) : (s.updRs i f).ctx = s.ctx := rfl
@[simp] theorem State.updRs_ep (s : State) (i : Fin 64) (f : RsTenS → RsTenS) : (s.updRs i f).ep = s.ep := rfl
@[simp] theorem State.updRs_hawk (s : State) (i : Fin 64) (f : RsTenS → RsTenS) : (s.updRs i f).hawk = s.hawk := rfl
@[simp] theorem State.updRs_slots (s : State) (i : Fin 64) (f : RsTenS → RsTenS) : (s.updRs i f).slots = s.slots := rfl
@[simp] theorem State.updRs_ib (s : State) (i : Fin 64) (f : RsTenS → RsTenS) : (s.updRs i f).ib = s.ib := rfl
@[simp] theorem State.updRs_work (s : State) (i : Fin 64) (f : RsTenS → RsTenS) : (s.updRs i f).work = s.work := rfl
@[simp] theorem State.updRs_watch (s : State) (i : Fin 64) (f : RsTenS → RsTenS) : (s.updRs i f).watch = s.watch := rfl
@[simp] theorem State.updRs_badger (s : State) (i : Fin 64) (f : RsTenS → RsTenS) : (s.updRs i f).badger = s.badger := rfl
@[simp] theorem State.updRs_rs (s : State) (i : Fin 64) (f : RsTenS → RsTenS) : (s.updRs i f).rs = s.rs := rfl
@[simp] theorem State.updRs_audit (s : State) (i : Fin 64) (f : RsTenS → RsTenS) : (s.updRs i f).audit = s.audit := rfl
@[simp] theorem State.updRs_lath (s : State) (i : Fin 64) (f : RsTenS → RsTenS) : (s.updRs i f).lath = s.lath := rfl
@[simp] theorem State.updRs_regs (s : State) (i : Fin 64) (f : RsTenS → RsTenS) : (s.updRs i f).regs = s.regs := rfl
@[simp] theorem State.updRs_free (s : State) (i : Fin 64) (f : RsTenS → RsTenS) : (s.updRs i f).free = s.free := rfl
@[simp] theorem State.updRs_pending (s : State) (i : Fin 64) (f : RsTenS → RsTenS) : (s.updRs i f).pending = s.pending := rfl

/-! ## updBg -/

@[simp] theorem State.updBg_power (s : State) (i : Fin 64) (f : BgTenS → BgTenS) : (s.updBg i f).power = s.power := rfl
@[simp] theorem State.updBg_time (s : State) (i : Fin 64) (f : BgTenS → BgTenS) : (s.updBg i f).time = s.time := rfl
@[simp] theorem State.updBg_monitors (s : State) (i : Fin 64) (f : BgTenS → BgTenS) : (s.updBg i f).monitors = s.monitors := rfl
@[simp] theorem State.updBg_flt (s : State) (i : Fin 64) (f : BgTenS → BgTenS) : (s.updBg i f).flt = s.flt := rfl
@[simp] theorem State.updBg_crash (s : State) (i : Fin 64) (f : BgTenS → BgTenS) : (s.updBg i f).crash = s.crash := rfl
@[simp] theorem State.updBg_loader (s : State) (i : Fin 64) (f : BgTenS → BgTenS) : (s.updBg i f).loader = s.loader := rfl
@[simp] theorem State.updBg_mem (s : State) (i : Fin 64) (f : BgTenS → BgTenS) : (s.updBg i f).mem = s.mem := rfl
@[simp] theorem State.updBg_gate (s : State) (i : Fin 64) (f : BgTenS → BgTenS) : (s.updBg i f).gate = s.gate := rfl
@[simp] theorem State.updBg_ctx (s : State) (i : Fin 64) (f : BgTenS → BgTenS) : (s.updBg i f).ctx = s.ctx := rfl
@[simp] theorem State.updBg_ep (s : State) (i : Fin 64) (f : BgTenS → BgTenS) : (s.updBg i f).ep = s.ep := rfl
@[simp] theorem State.updBg_hawk (s : State) (i : Fin 64) (f : BgTenS → BgTenS) : (s.updBg i f).hawk = s.hawk := rfl
@[simp] theorem State.updBg_slots (s : State) (i : Fin 64) (f : BgTenS → BgTenS) : (s.updBg i f).slots = s.slots := rfl
@[simp] theorem State.updBg_ib (s : State) (i : Fin 64) (f : BgTenS → BgTenS) : (s.updBg i f).ib = s.ib := rfl
@[simp] theorem State.updBg_work (s : State) (i : Fin 64) (f : BgTenS → BgTenS) : (s.updBg i f).work = s.work := rfl
@[simp] theorem State.updBg_watch (s : State) (i : Fin 64) (f : BgTenS → BgTenS) : (s.updBg i f).watch = s.watch := rfl
@[simp] theorem State.updBg_badger (s : State) (i : Fin 64) (f : BgTenS → BgTenS) : (s.updBg i f).badger = s.badger := rfl
@[simp] theorem State.updBg_rs (s : State) (i : Fin 64) (f : BgTenS → BgTenS) : (s.updBg i f).rs = s.rs := rfl
@[simp] theorem State.updBg_audit (s : State) (i : Fin 64) (f : BgTenS → BgTenS) : (s.updBg i f).audit = s.audit := rfl
@[simp] theorem State.updBg_lath (s : State) (i : Fin 64) (f : BgTenS → BgTenS) : (s.updBg i f).lath = s.lath := rfl
@[simp] theorem State.updBg_regs (s : State) (i : Fin 64) (f : BgTenS → BgTenS) : (s.updBg i f).regs = s.regs := rfl
@[simp] theorem State.updBg_free (s : State) (i : Fin 64) (f : BgTenS → BgTenS) : (s.updBg i f).free = s.free := rfl
@[simp] theorem State.updBg_pending (s : State) (i : Fin 64) (f : BgTenS → BgTenS) : (s.updBg i f).pending = s.pending := rfl

/-! ## updIntake -/

@[simp] theorem State.updIntake_power (s : State) (i : Fin 64) (f : IntakeS → IntakeS) : (s.updIntake i f).power = s.power := rfl
@[simp] theorem State.updIntake_time (s : State) (i : Fin 64) (f : IntakeS → IntakeS) : (s.updIntake i f).time = s.time := rfl
@[simp] theorem State.updIntake_monitors (s : State) (i : Fin 64) (f : IntakeS → IntakeS) : (s.updIntake i f).monitors = s.monitors := rfl
@[simp] theorem State.updIntake_flt (s : State) (i : Fin 64) (f : IntakeS → IntakeS) : (s.updIntake i f).flt = s.flt := rfl
@[simp] theorem State.updIntake_crash (s : State) (i : Fin 64) (f : IntakeS → IntakeS) : (s.updIntake i f).crash = s.crash := rfl
@[simp] theorem State.updIntake_loader (s : State) (i : Fin 64) (f : IntakeS → IntakeS) : (s.updIntake i f).loader = s.loader := rfl
@[simp] theorem State.updIntake_mem (s : State) (i : Fin 64) (f : IntakeS → IntakeS) : (s.updIntake i f).mem = s.mem := rfl
@[simp] theorem State.updIntake_gate (s : State) (i : Fin 64) (f : IntakeS → IntakeS) : (s.updIntake i f).gate = s.gate := rfl
@[simp] theorem State.updIntake_ctx (s : State) (i : Fin 64) (f : IntakeS → IntakeS) : (s.updIntake i f).ctx = s.ctx := rfl
@[simp] theorem State.updIntake_ep (s : State) (i : Fin 64) (f : IntakeS → IntakeS) : (s.updIntake i f).ep = s.ep := rfl
@[simp] theorem State.updIntake_hawk (s : State) (i : Fin 64) (f : IntakeS → IntakeS) : (s.updIntake i f).hawk = s.hawk := rfl
@[simp] theorem State.updIntake_slots (s : State) (i : Fin 64) (f : IntakeS → IntakeS) : (s.updIntake i f).slots = s.slots := rfl
@[simp] theorem State.updIntake_ib (s : State) (i : Fin 64) (f : IntakeS → IntakeS) : (s.updIntake i f).ib = s.ib := rfl
@[simp] theorem State.updIntake_work (s : State) (i : Fin 64) (f : IntakeS → IntakeS) : (s.updIntake i f).work = s.work := rfl
@[simp] theorem State.updIntake_watch (s : State) (i : Fin 64) (f : IntakeS → IntakeS) : (s.updIntake i f).watch = s.watch := rfl
@[simp] theorem State.updIntake_badger (s : State) (i : Fin 64) (f : IntakeS → IntakeS) : (s.updIntake i f).badger = s.badger := rfl
@[simp] theorem State.updIntake_rs (s : State) (i : Fin 64) (f : IntakeS → IntakeS) : (s.updIntake i f).rs = s.rs := rfl
@[simp] theorem State.updIntake_audit (s : State) (i : Fin 64) (f : IntakeS → IntakeS) : (s.updIntake i f).audit = s.audit := rfl
@[simp] theorem State.updIntake_lath (s : State) (i : Fin 64) (f : IntakeS → IntakeS) : (s.updIntake i f).lath = s.lath := rfl
@[simp] theorem State.updIntake_regs (s : State) (i : Fin 64) (f : IntakeS → IntakeS) : (s.updIntake i f).regs = s.regs := rfl
@[simp] theorem State.updIntake_free (s : State) (i : Fin 64) (f : IntakeS → IntakeS) : (s.updIntake i f).free = s.free := rfl
@[simp] theorem State.updIntake_pending (s : State) (i : Fin 64) (f : IntakeS → IntakeS) : (s.updIntake i f).pending = s.pending := rfl

/-! ## setEntry -/

@[simp] theorem State.setEntry_power (s : State) (c : Nat) (e : Entry) : (s.setEntry c e).power = s.power := rfl
@[simp] theorem State.setEntry_time (s : State) (c : Nat) (e : Entry) : (s.setEntry c e).time = s.time := rfl
@[simp] theorem State.setEntry_monitors (s : State) (c : Nat) (e : Entry) : (s.setEntry c e).monitors = s.monitors := rfl
@[simp] theorem State.setEntry_flt (s : State) (c : Nat) (e : Entry) : (s.setEntry c e).flt = s.flt := rfl
@[simp] theorem State.setEntry_crash (s : State) (c : Nat) (e : Entry) : (s.setEntry c e).crash = s.crash := rfl
@[simp] theorem State.setEntry_loader (s : State) (c : Nat) (e : Entry) : (s.setEntry c e).loader = s.loader := rfl
@[simp] theorem State.setEntry_mem (s : State) (c : Nat) (e : Entry) : (s.setEntry c e).mem = s.mem := rfl
@[simp] theorem State.setEntry_gate (s : State) (c : Nat) (e : Entry) : (s.setEntry c e).gate = s.gate := rfl
@[simp] theorem State.setEntry_ep (s : State) (c : Nat) (e : Entry) : (s.setEntry c e).ep = s.ep := rfl
@[simp] theorem State.setEntry_hawk (s : State) (c : Nat) (e : Entry) : (s.setEntry c e).hawk = s.hawk := rfl
@[simp] theorem State.setEntry_slots (s : State) (c : Nat) (e : Entry) : (s.setEntry c e).slots = s.slots := rfl
@[simp] theorem State.setEntry_tenants (s : State) (c : Nat) (e : Entry) : (s.setEntry c e).tenants = s.tenants := rfl
@[simp] theorem State.setEntry_ib (s : State) (c : Nat) (e : Entry) : (s.setEntry c e).ib = s.ib := rfl
@[simp] theorem State.setEntry_work (s : State) (c : Nat) (e : Entry) : (s.setEntry c e).work = s.work := rfl
@[simp] theorem State.setEntry_watch (s : State) (c : Nat) (e : Entry) : (s.setEntry c e).watch = s.watch := rfl
@[simp] theorem State.setEntry_badger (s : State) (c : Nat) (e : Entry) : (s.setEntry c e).badger = s.badger := rfl
@[simp] theorem State.setEntry_rs (s : State) (c : Nat) (e : Entry) : (s.setEntry c e).rs = s.rs := rfl
@[simp] theorem State.setEntry_audit (s : State) (c : Nat) (e : Entry) : (s.setEntry c e).audit = s.audit := rfl
@[simp] theorem State.setEntry_lath (s : State) (c : Nat) (e : Entry) : (s.setEntry c e).lath = s.lath := rfl
@[simp] theorem State.setEntry_regs (s : State) (c : Nat) (e : Entry) : (s.setEntry c e).regs = s.regs := rfl
@[simp] theorem State.setEntry_free (s : State) (c : Nat) (e : Entry) : (s.setEntry c e).free = s.free := rfl
@[simp] theorem State.setEntry_pending (s : State) (c : Nat) (e : Entry) : (s.setEntry c e).pending = s.pending := rfl

/-! ## freeEntry -/

@[simp] theorem State.freeEntry_power (s : State) (c : Nat) : (s.freeEntry c).power = s.power := rfl
@[simp] theorem State.freeEntry_time (s : State) (c : Nat) : (s.freeEntry c).time = s.time := rfl
@[simp] theorem State.freeEntry_monitors (s : State) (c : Nat) : (s.freeEntry c).monitors = s.monitors := rfl
@[simp] theorem State.freeEntry_flt (s : State) (c : Nat) : (s.freeEntry c).flt = s.flt := rfl
@[simp] theorem State.freeEntry_crash (s : State) (c : Nat) : (s.freeEntry c).crash = s.crash := rfl
@[simp] theorem State.freeEntry_loader (s : State) (c : Nat) : (s.freeEntry c).loader = s.loader := rfl
@[simp] theorem State.freeEntry_mem (s : State) (c : Nat) : (s.freeEntry c).mem = s.mem := rfl
@[simp] theorem State.freeEntry_gate (s : State) (c : Nat) : (s.freeEntry c).gate = s.gate := rfl
@[simp] theorem State.freeEntry_ep (s : State) (c : Nat) : (s.freeEntry c).ep = s.ep := rfl
@[simp] theorem State.freeEntry_hawk (s : State) (c : Nat) : (s.freeEntry c).hawk = s.hawk := rfl
@[simp] theorem State.freeEntry_slots (s : State) (c : Nat) : (s.freeEntry c).slots = s.slots := rfl
@[simp] theorem State.freeEntry_tenants (s : State) (c : Nat) : (s.freeEntry c).tenants = s.tenants := rfl
@[simp] theorem State.freeEntry_ib (s : State) (c : Nat) : (s.freeEntry c).ib = s.ib := rfl
@[simp] theorem State.freeEntry_work (s : State) (c : Nat) : (s.freeEntry c).work = s.work := rfl
@[simp] theorem State.freeEntry_watch (s : State) (c : Nat) : (s.freeEntry c).watch = s.watch := rfl
@[simp] theorem State.freeEntry_badger (s : State) (c : Nat) : (s.freeEntry c).badger = s.badger := rfl
@[simp] theorem State.freeEntry_rs (s : State) (c : Nat) : (s.freeEntry c).rs = s.rs := rfl
@[simp] theorem State.freeEntry_audit (s : State) (c : Nat) : (s.freeEntry c).audit = s.audit := rfl
@[simp] theorem State.freeEntry_lath (s : State) (c : Nat) : (s.freeEntry c).lath = s.lath := rfl
@[simp] theorem State.freeEntry_regs (s : State) (c : Nat) : (s.freeEntry c).regs = s.regs := rfl
@[simp] theorem State.freeEntry_free (s : State) (c : Nat) : (s.freeEntry c).free = s.free := rfl
@[simp] theorem State.freeEntry_pending (s : State) (c : Nat) : (s.freeEntry c).pending = s.pending := rfl

/-! ## putBytes -/

@[simp] theorem State.putBytes_power (s : State) (a : Nat) (bs : List Byte) : (s.putBytes a bs).power = s.power := rfl
@[simp] theorem State.putBytes_time (s : State) (a : Nat) (bs : List Byte) : (s.putBytes a bs).time = s.time := rfl
@[simp] theorem State.putBytes_monitors (s : State) (a : Nat) (bs : List Byte) : (s.putBytes a bs).monitors = s.monitors := rfl
@[simp] theorem State.putBytes_flt (s : State) (a : Nat) (bs : List Byte) : (s.putBytes a bs).flt = s.flt := rfl
@[simp] theorem State.putBytes_crash (s : State) (a : Nat) (bs : List Byte) : (s.putBytes a bs).crash = s.crash := rfl
@[simp] theorem State.putBytes_loader (s : State) (a : Nat) (bs : List Byte) : (s.putBytes a bs).loader = s.loader := rfl
@[simp] theorem State.putBytes_gate (s : State) (a : Nat) (bs : List Byte) : (s.putBytes a bs).gate = s.gate := rfl
@[simp] theorem State.putBytes_ctx (s : State) (a : Nat) (bs : List Byte) : (s.putBytes a bs).ctx = s.ctx := rfl
@[simp] theorem State.putBytes_ep (s : State) (a : Nat) (bs : List Byte) : (s.putBytes a bs).ep = s.ep := rfl
@[simp] theorem State.putBytes_hawk (s : State) (a : Nat) (bs : List Byte) : (s.putBytes a bs).hawk = s.hawk := rfl
@[simp] theorem State.putBytes_slots (s : State) (a : Nat) (bs : List Byte) : (s.putBytes a bs).slots = s.slots := rfl
@[simp] theorem State.putBytes_tenants (s : State) (a : Nat) (bs : List Byte) : (s.putBytes a bs).tenants = s.tenants := rfl
@[simp] theorem State.putBytes_ib (s : State) (a : Nat) (bs : List Byte) : (s.putBytes a bs).ib = s.ib := rfl
@[simp] theorem State.putBytes_work (s : State) (a : Nat) (bs : List Byte) : (s.putBytes a bs).work = s.work := rfl
@[simp] theorem State.putBytes_watch (s : State) (a : Nat) (bs : List Byte) : (s.putBytes a bs).watch = s.watch := rfl
@[simp] theorem State.putBytes_badger (s : State) (a : Nat) (bs : List Byte) : (s.putBytes a bs).badger = s.badger := rfl
@[simp] theorem State.putBytes_rs (s : State) (a : Nat) (bs : List Byte) : (s.putBytes a bs).rs = s.rs := rfl
@[simp] theorem State.putBytes_audit (s : State) (a : Nat) (bs : List Byte) : (s.putBytes a bs).audit = s.audit := rfl
@[simp] theorem State.putBytes_lath (s : State) (a : Nat) (bs : List Byte) : (s.putBytes a bs).lath = s.lath := rfl
@[simp] theorem State.putBytes_regs (s : State) (a : Nat) (bs : List Byte) : (s.putBytes a bs).regs = s.regs := rfl
@[simp] theorem State.putBytes_free (s : State) (a : Nat) (bs : List Byte) : (s.putBytes a bs).free = s.free := rfl
@[simp] theorem State.putBytes_pending (s : State) (a : Nat) (bs : List Byte) : (s.putBytes a bs).pending = s.pending := rfl

/-! ## setKept -/

@[simp] theorem State.setKept_power (s : State) (a : Nat) (d : Word) : (s.setKept a d).power = s.power := State.putBytes_power s (s.dgAddr a) (leBytes 8 d.toNat)
@[simp] theorem State.setKept_time (s : State) (a : Nat) (d : Word) : (s.setKept a d).time = s.time := State.putBytes_time s (s.dgAddr a) (leBytes 8 d.toNat)
@[simp] theorem State.setKept_monitors (s : State) (a : Nat) (d : Word) : (s.setKept a d).monitors = s.monitors := State.putBytes_monitors s (s.dgAddr a) (leBytes 8 d.toNat)
@[simp] theorem State.setKept_flt (s : State) (a : Nat) (d : Word) : (s.setKept a d).flt = s.flt := State.putBytes_flt s (s.dgAddr a) (leBytes 8 d.toNat)
@[simp] theorem State.setKept_crash (s : State) (a : Nat) (d : Word) : (s.setKept a d).crash = s.crash := State.putBytes_crash s (s.dgAddr a) (leBytes 8 d.toNat)
@[simp] theorem State.setKept_loader (s : State) (a : Nat) (d : Word) : (s.setKept a d).loader = s.loader := State.putBytes_loader s (s.dgAddr a) (leBytes 8 d.toNat)
@[simp] theorem State.setKept_gate (s : State) (a : Nat) (d : Word) : (s.setKept a d).gate = s.gate := State.putBytes_gate s (s.dgAddr a) (leBytes 8 d.toNat)
@[simp] theorem State.setKept_ctx (s : State) (a : Nat) (d : Word) : (s.setKept a d).ctx = s.ctx := State.putBytes_ctx s (s.dgAddr a) (leBytes 8 d.toNat)
@[simp] theorem State.setKept_ep (s : State) (a : Nat) (d : Word) : (s.setKept a d).ep = s.ep := State.putBytes_ep s (s.dgAddr a) (leBytes 8 d.toNat)
@[simp] theorem State.setKept_hawk (s : State) (a : Nat) (d : Word) : (s.setKept a d).hawk = s.hawk := State.putBytes_hawk s (s.dgAddr a) (leBytes 8 d.toNat)
@[simp] theorem State.setKept_slots (s : State) (a : Nat) (d : Word) : (s.setKept a d).slots = s.slots := State.putBytes_slots s (s.dgAddr a) (leBytes 8 d.toNat)
@[simp] theorem State.setKept_tenants (s : State) (a : Nat) (d : Word) : (s.setKept a d).tenants = s.tenants := State.putBytes_tenants s (s.dgAddr a) (leBytes 8 d.toNat)
@[simp] theorem State.setKept_ib (s : State) (a : Nat) (d : Word) : (s.setKept a d).ib = s.ib := State.putBytes_ib s (s.dgAddr a) (leBytes 8 d.toNat)
@[simp] theorem State.setKept_work (s : State) (a : Nat) (d : Word) : (s.setKept a d).work = s.work := State.putBytes_work s (s.dgAddr a) (leBytes 8 d.toNat)
@[simp] theorem State.setKept_watch (s : State) (a : Nat) (d : Word) : (s.setKept a d).watch = s.watch := State.putBytes_watch s (s.dgAddr a) (leBytes 8 d.toNat)
@[simp] theorem State.setKept_badger (s : State) (a : Nat) (d : Word) : (s.setKept a d).badger = s.badger := State.putBytes_badger s (s.dgAddr a) (leBytes 8 d.toNat)
@[simp] theorem State.setKept_rs (s : State) (a : Nat) (d : Word) : (s.setKept a d).rs = s.rs := State.putBytes_rs s (s.dgAddr a) (leBytes 8 d.toNat)
@[simp] theorem State.setKept_audit (s : State) (a : Nat) (d : Word) : (s.setKept a d).audit = s.audit := State.putBytes_audit s (s.dgAddr a) (leBytes 8 d.toNat)
@[simp] theorem State.setKept_lath (s : State) (a : Nat) (d : Word) : (s.setKept a d).lath = s.lath := State.putBytes_lath s (s.dgAddr a) (leBytes 8 d.toNat)
@[simp] theorem State.setKept_regs (s : State) (a : Nat) (d : Word) : (s.setKept a d).regs = s.regs := State.putBytes_regs s (s.dgAddr a) (leBytes 8 d.toNat)
@[simp] theorem State.setKept_free (s : State) (a : Nat) (d : Word) : (s.setKept a d).free = s.free := State.putBytes_free s (s.dgAddr a) (leBytes 8 d.toNat)
@[simp] theorem State.setKept_pending (s : State) (a : Nat) (d : Word) : (s.setKept a d).pending = s.pending := State.putBytes_pending s (s.dgAddr a) (leBytes 8 d.toNat)

/-! ## setDir -/

@[simp] theorem State.setDir_power (s : State) (a : Nat) (r : DirRec) : (s.setDir a r).power = s.power := State.putBytes_power s (s.dirAddr a) (leBytes 4 r.word)
@[simp] theorem State.setDir_time (s : State) (a : Nat) (r : DirRec) : (s.setDir a r).time = s.time := State.putBytes_time s (s.dirAddr a) (leBytes 4 r.word)
@[simp] theorem State.setDir_monitors (s : State) (a : Nat) (r : DirRec) : (s.setDir a r).monitors = s.monitors := State.putBytes_monitors s (s.dirAddr a) (leBytes 4 r.word)
@[simp] theorem State.setDir_flt (s : State) (a : Nat) (r : DirRec) : (s.setDir a r).flt = s.flt := State.putBytes_flt s (s.dirAddr a) (leBytes 4 r.word)
@[simp] theorem State.setDir_crash (s : State) (a : Nat) (r : DirRec) : (s.setDir a r).crash = s.crash := State.putBytes_crash s (s.dirAddr a) (leBytes 4 r.word)
@[simp] theorem State.setDir_loader (s : State) (a : Nat) (r : DirRec) : (s.setDir a r).loader = s.loader := State.putBytes_loader s (s.dirAddr a) (leBytes 4 r.word)
@[simp] theorem State.setDir_gate (s : State) (a : Nat) (r : DirRec) : (s.setDir a r).gate = s.gate := State.putBytes_gate s (s.dirAddr a) (leBytes 4 r.word)
@[simp] theorem State.setDir_ctx (s : State) (a : Nat) (r : DirRec) : (s.setDir a r).ctx = s.ctx := State.putBytes_ctx s (s.dirAddr a) (leBytes 4 r.word)
@[simp] theorem State.setDir_ep (s : State) (a : Nat) (r : DirRec) : (s.setDir a r).ep = s.ep := State.putBytes_ep s (s.dirAddr a) (leBytes 4 r.word)
@[simp] theorem State.setDir_hawk (s : State) (a : Nat) (r : DirRec) : (s.setDir a r).hawk = s.hawk := State.putBytes_hawk s (s.dirAddr a) (leBytes 4 r.word)
@[simp] theorem State.setDir_slots (s : State) (a : Nat) (r : DirRec) : (s.setDir a r).slots = s.slots := State.putBytes_slots s (s.dirAddr a) (leBytes 4 r.word)
@[simp] theorem State.setDir_tenants (s : State) (a : Nat) (r : DirRec) : (s.setDir a r).tenants = s.tenants := State.putBytes_tenants s (s.dirAddr a) (leBytes 4 r.word)
@[simp] theorem State.setDir_ib (s : State) (a : Nat) (r : DirRec) : (s.setDir a r).ib = s.ib := State.putBytes_ib s (s.dirAddr a) (leBytes 4 r.word)
@[simp] theorem State.setDir_work (s : State) (a : Nat) (r : DirRec) : (s.setDir a r).work = s.work := State.putBytes_work s (s.dirAddr a) (leBytes 4 r.word)
@[simp] theorem State.setDir_watch (s : State) (a : Nat) (r : DirRec) : (s.setDir a r).watch = s.watch := State.putBytes_watch s (s.dirAddr a) (leBytes 4 r.word)
@[simp] theorem State.setDir_badger (s : State) (a : Nat) (r : DirRec) : (s.setDir a r).badger = s.badger := State.putBytes_badger s (s.dirAddr a) (leBytes 4 r.word)
@[simp] theorem State.setDir_rs (s : State) (a : Nat) (r : DirRec) : (s.setDir a r).rs = s.rs := State.putBytes_rs s (s.dirAddr a) (leBytes 4 r.word)
@[simp] theorem State.setDir_audit (s : State) (a : Nat) (r : DirRec) : (s.setDir a r).audit = s.audit := State.putBytes_audit s (s.dirAddr a) (leBytes 4 r.word)
@[simp] theorem State.setDir_lath (s : State) (a : Nat) (r : DirRec) : (s.setDir a r).lath = s.lath := State.putBytes_lath s (s.dirAddr a) (leBytes 4 r.word)
@[simp] theorem State.setDir_regs (s : State) (a : Nat) (r : DirRec) : (s.setDir a r).regs = s.regs := State.putBytes_regs s (s.dirAddr a) (leBytes 4 r.word)
@[simp] theorem State.setDir_free (s : State) (a : Nat) (r : DirRec) : (s.setDir a r).free = s.free := State.putBytes_free s (s.dirAddr a) (leBytes 4 r.word)
@[simp] theorem State.setDir_pending (s : State) (a : Nat) (r : DirRec) : (s.setDir a r).pending = s.pending := State.putBytes_pending s (s.dirAddr a) (leBytes 4 r.word)

/-! ## respond -/

@[simp] theorem State.respond_power (s : State) (id : BitVec 10) (st : NsStatus) (c : BitVec 4) (d : Line) : (s.respond id st c d).power = s.power := rfl
@[simp] theorem State.respond_time (s : State) (id : BitVec 10) (st : NsStatus) (c : BitVec 4) (d : Line) : (s.respond id st c d).time = s.time := rfl
@[simp] theorem State.respond_monitors (s : State) (id : BitVec 10) (st : NsStatus) (c : BitVec 4) (d : Line) : (s.respond id st c d).monitors = s.monitors := rfl
@[simp] theorem State.respond_flt (s : State) (id : BitVec 10) (st : NsStatus) (c : BitVec 4) (d : Line) : (s.respond id st c d).flt = s.flt := rfl
@[simp] theorem State.respond_crash (s : State) (id : BitVec 10) (st : NsStatus) (c : BitVec 4) (d : Line) : (s.respond id st c d).crash = s.crash := rfl
@[simp] theorem State.respond_loader (s : State) (id : BitVec 10) (st : NsStatus) (c : BitVec 4) (d : Line) : (s.respond id st c d).loader = s.loader := rfl
@[simp] theorem State.respond_mem (s : State) (id : BitVec 10) (st : NsStatus) (c : BitVec 4) (d : Line) : (s.respond id st c d).mem = s.mem := rfl
@[simp] theorem State.respond_ctx (s : State) (id : BitVec 10) (st : NsStatus) (c : BitVec 4) (d : Line) : (s.respond id st c d).ctx = s.ctx := rfl
@[simp] theorem State.respond_ep (s : State) (id : BitVec 10) (st : NsStatus) (c : BitVec 4) (d : Line) : (s.respond id st c d).ep = s.ep := rfl
@[simp] theorem State.respond_hawk (s : State) (id : BitVec 10) (st : NsStatus) (c : BitVec 4) (d : Line) : (s.respond id st c d).hawk = s.hawk := rfl
@[simp] theorem State.respond_slots (s : State) (id : BitVec 10) (st : NsStatus) (c : BitVec 4) (d : Line) : (s.respond id st c d).slots = s.slots := rfl
@[simp] theorem State.respond_tenants (s : State) (id : BitVec 10) (st : NsStatus) (c : BitVec 4) (d : Line) : (s.respond id st c d).tenants = s.tenants := rfl
@[simp] theorem State.respond_ib (s : State) (id : BitVec 10) (st : NsStatus) (c : BitVec 4) (d : Line) : (s.respond id st c d).ib = s.ib := rfl
@[simp] theorem State.respond_work (s : State) (id : BitVec 10) (st : NsStatus) (c : BitVec 4) (d : Line) : (s.respond id st c d).work = s.work := rfl
@[simp] theorem State.respond_watch (s : State) (id : BitVec 10) (st : NsStatus) (c : BitVec 4) (d : Line) : (s.respond id st c d).watch = s.watch := rfl
@[simp] theorem State.respond_badger (s : State) (id : BitVec 10) (st : NsStatus) (c : BitVec 4) (d : Line) : (s.respond id st c d).badger = s.badger := rfl
@[simp] theorem State.respond_rs (s : State) (id : BitVec 10) (st : NsStatus) (c : BitVec 4) (d : Line) : (s.respond id st c d).rs = s.rs := rfl
@[simp] theorem State.respond_audit (s : State) (id : BitVec 10) (st : NsStatus) (c : BitVec 4) (d : Line) : (s.respond id st c d).audit = s.audit := rfl
@[simp] theorem State.respond_lath (s : State) (id : BitVec 10) (st : NsStatus) (c : BitVec 4) (d : Line) : (s.respond id st c d).lath = s.lath := rfl
@[simp] theorem State.respond_regs (s : State) (id : BitVec 10) (st : NsStatus) (c : BitVec 4) (d : Line) : (s.respond id st c d).regs = s.regs := rfl
@[simp] theorem State.respond_free (s : State) (id : BitVec 10) (st : NsStatus) (c : BitVec 4) (d : Line) : (s.respond id st c d).free = s.free := rfl
@[simp] theorem State.respond_pending (s : State) (id : BitVec 10) (st : NsStatus) (c : BitVec 4) (d : Line) : (s.respond id st c d).pending = s.pending := rfl

/-! ## ok -/

@[simp] theorem State.ok_power (s : State) (id : BitVec 10) : (s.ok id).power = s.power := rfl
@[simp] theorem State.ok_time (s : State) (id : BitVec 10) : (s.ok id).time = s.time := rfl
@[simp] theorem State.ok_monitors (s : State) (id : BitVec 10) : (s.ok id).monitors = s.monitors := rfl
@[simp] theorem State.ok_flt (s : State) (id : BitVec 10) : (s.ok id).flt = s.flt := rfl
@[simp] theorem State.ok_crash (s : State) (id : BitVec 10) : (s.ok id).crash = s.crash := rfl
@[simp] theorem State.ok_loader (s : State) (id : BitVec 10) : (s.ok id).loader = s.loader := rfl
@[simp] theorem State.ok_mem (s : State) (id : BitVec 10) : (s.ok id).mem = s.mem := rfl
@[simp] theorem State.ok_ctx (s : State) (id : BitVec 10) : (s.ok id).ctx = s.ctx := rfl
@[simp] theorem State.ok_ep (s : State) (id : BitVec 10) : (s.ok id).ep = s.ep := rfl
@[simp] theorem State.ok_hawk (s : State) (id : BitVec 10) : (s.ok id).hawk = s.hawk := rfl
@[simp] theorem State.ok_slots (s : State) (id : BitVec 10) : (s.ok id).slots = s.slots := rfl
@[simp] theorem State.ok_tenants (s : State) (id : BitVec 10) : (s.ok id).tenants = s.tenants := rfl
@[simp] theorem State.ok_ib (s : State) (id : BitVec 10) : (s.ok id).ib = s.ib := rfl
@[simp] theorem State.ok_work (s : State) (id : BitVec 10) : (s.ok id).work = s.work := rfl
@[simp] theorem State.ok_watch (s : State) (id : BitVec 10) : (s.ok id).watch = s.watch := rfl
@[simp] theorem State.ok_badger (s : State) (id : BitVec 10) : (s.ok id).badger = s.badger := rfl
@[simp] theorem State.ok_rs (s : State) (id : BitVec 10) : (s.ok id).rs = s.rs := rfl
@[simp] theorem State.ok_audit (s : State) (id : BitVec 10) : (s.ok id).audit = s.audit := rfl
@[simp] theorem State.ok_lath (s : State) (id : BitVec 10) : (s.ok id).lath = s.lath := rfl
@[simp] theorem State.ok_regs (s : State) (id : BitVec 10) : (s.ok id).regs = s.regs := rfl
@[simp] theorem State.ok_free (s : State) (id : BitVec 10) : (s.ok id).free = s.free := rfl
@[simp] theorem State.ok_pending (s : State) (id : BitVec 10) : (s.ok id).pending = s.pending := rfl

/-! ## countN -/

@[simp] theorem State.countN_power (s : State) (k n : Nat) : (s.countN k n).power = s.power := rfl
@[simp] theorem State.countN_time (s : State) (k n : Nat) : (s.countN k n).time = s.time := rfl
@[simp] theorem State.countN_monitors (s : State) (k n : Nat) : (s.countN k n).monitors = s.monitors := rfl
@[simp] theorem State.countN_crash (s : State) (k n : Nat) : (s.countN k n).crash = s.crash := rfl
@[simp] theorem State.countN_loader (s : State) (k n : Nat) : (s.countN k n).loader = s.loader := rfl
@[simp] theorem State.countN_mem (s : State) (k n : Nat) : (s.countN k n).mem = s.mem := rfl
@[simp] theorem State.countN_gate (s : State) (k n : Nat) : (s.countN k n).gate = s.gate := rfl
@[simp] theorem State.countN_ctx (s : State) (k n : Nat) : (s.countN k n).ctx = s.ctx := rfl
@[simp] theorem State.countN_ep (s : State) (k n : Nat) : (s.countN k n).ep = s.ep := rfl
@[simp] theorem State.countN_hawk (s : State) (k n : Nat) : (s.countN k n).hawk = s.hawk := rfl
@[simp] theorem State.countN_slots (s : State) (k n : Nat) : (s.countN k n).slots = s.slots := rfl
@[simp] theorem State.countN_tenants (s : State) (k n : Nat) : (s.countN k n).tenants = s.tenants := rfl
@[simp] theorem State.countN_ib (s : State) (k n : Nat) : (s.countN k n).ib = s.ib := rfl
@[simp] theorem State.countN_work (s : State) (k n : Nat) : (s.countN k n).work = s.work := rfl
@[simp] theorem State.countN_watch (s : State) (k n : Nat) : (s.countN k n).watch = s.watch := rfl
@[simp] theorem State.countN_badger (s : State) (k n : Nat) : (s.countN k n).badger = s.badger := rfl
@[simp] theorem State.countN_rs (s : State) (k n : Nat) : (s.countN k n).rs = s.rs := rfl
@[simp] theorem State.countN_audit (s : State) (k n : Nat) : (s.countN k n).audit = s.audit := rfl
@[simp] theorem State.countN_lath (s : State) (k n : Nat) : (s.countN k n).lath = s.lath := rfl
@[simp] theorem State.countN_regs (s : State) (k n : Nat) : (s.countN k n).regs = s.regs := rfl
@[simp] theorem State.countN_free (s : State) (k n : Nat) : (s.countN k n).free = s.free := rfl
@[simp] theorem State.countN_pending (s : State) (k n : Nat) : (s.countN k n).pending = s.pending := rfl

/-! ## count -/

@[simp] theorem State.count_power (s : State) (k : Nat) : (s.count k).power = s.power := rfl
@[simp] theorem State.count_time (s : State) (k : Nat) : (s.count k).time = s.time := rfl
@[simp] theorem State.count_monitors (s : State) (k : Nat) : (s.count k).monitors = s.monitors := rfl
@[simp] theorem State.count_crash (s : State) (k : Nat) : (s.count k).crash = s.crash := rfl
@[simp] theorem State.count_loader (s : State) (k : Nat) : (s.count k).loader = s.loader := rfl
@[simp] theorem State.count_mem (s : State) (k : Nat) : (s.count k).mem = s.mem := rfl
@[simp] theorem State.count_gate (s : State) (k : Nat) : (s.count k).gate = s.gate := rfl
@[simp] theorem State.count_ctx (s : State) (k : Nat) : (s.count k).ctx = s.ctx := rfl
@[simp] theorem State.count_ep (s : State) (k : Nat) : (s.count k).ep = s.ep := rfl
@[simp] theorem State.count_hawk (s : State) (k : Nat) : (s.count k).hawk = s.hawk := rfl
@[simp] theorem State.count_slots (s : State) (k : Nat) : (s.count k).slots = s.slots := rfl
@[simp] theorem State.count_tenants (s : State) (k : Nat) : (s.count k).tenants = s.tenants := rfl
@[simp] theorem State.count_ib (s : State) (k : Nat) : (s.count k).ib = s.ib := rfl
@[simp] theorem State.count_work (s : State) (k : Nat) : (s.count k).work = s.work := rfl
@[simp] theorem State.count_watch (s : State) (k : Nat) : (s.count k).watch = s.watch := rfl
@[simp] theorem State.count_badger (s : State) (k : Nat) : (s.count k).badger = s.badger := rfl
@[simp] theorem State.count_rs (s : State) (k : Nat) : (s.count k).rs = s.rs := rfl
@[simp] theorem State.count_audit (s : State) (k : Nat) : (s.count k).audit = s.audit := rfl
@[simp] theorem State.count_lath (s : State) (k : Nat) : (s.count k).lath = s.lath := rfl
@[simp] theorem State.count_regs (s : State) (k : Nat) : (s.count k).regs = s.regs := rfl
@[simp] theorem State.count_free (s : State) (k : Nat) : (s.count k).free = s.free := rfl
@[simp] theorem State.count_pending (s : State) (k : Nat) : (s.count k).pending = s.pending := rfl

/-! ## lathSend -/

@[simp] theorem State.lathSend_power (s : State) (m : LathMsg) : (s.lathSend m).power = s.power := rfl
@[simp] theorem State.lathSend_time (s : State) (m : LathMsg) : (s.lathSend m).time = s.time := rfl
@[simp] theorem State.lathSend_monitors (s : State) (m : LathMsg) : (s.lathSend m).monitors = s.monitors := rfl
@[simp] theorem State.lathSend_flt (s : State) (m : LathMsg) : (s.lathSend m).flt = s.flt := rfl
@[simp] theorem State.lathSend_crash (s : State) (m : LathMsg) : (s.lathSend m).crash = s.crash := rfl
@[simp] theorem State.lathSend_loader (s : State) (m : LathMsg) : (s.lathSend m).loader = s.loader := rfl
@[simp] theorem State.lathSend_mem (s : State) (m : LathMsg) : (s.lathSend m).mem = s.mem := rfl
@[simp] theorem State.lathSend_gate (s : State) (m : LathMsg) : (s.lathSend m).gate = s.gate := rfl
@[simp] theorem State.lathSend_ctx (s : State) (m : LathMsg) : (s.lathSend m).ctx = s.ctx := rfl
@[simp] theorem State.lathSend_ep (s : State) (m : LathMsg) : (s.lathSend m).ep = s.ep := rfl
@[simp] theorem State.lathSend_hawk (s : State) (m : LathMsg) : (s.lathSend m).hawk = s.hawk := rfl
@[simp] theorem State.lathSend_slots (s : State) (m : LathMsg) : (s.lathSend m).slots = s.slots := rfl
@[simp] theorem State.lathSend_tenants (s : State) (m : LathMsg) : (s.lathSend m).tenants = s.tenants := rfl
@[simp] theorem State.lathSend_ib (s : State) (m : LathMsg) : (s.lathSend m).ib = s.ib := rfl
@[simp] theorem State.lathSend_work (s : State) (m : LathMsg) : (s.lathSend m).work = s.work := rfl
@[simp] theorem State.lathSend_watch (s : State) (m : LathMsg) : (s.lathSend m).watch = s.watch := rfl
@[simp] theorem State.lathSend_badger (s : State) (m : LathMsg) : (s.lathSend m).badger = s.badger := rfl
@[simp] theorem State.lathSend_rs (s : State) (m : LathMsg) : (s.lathSend m).rs = s.rs := rfl
@[simp] theorem State.lathSend_audit (s : State) (m : LathMsg) : (s.lathSend m).audit = s.audit := rfl
@[simp] theorem State.lathSend_regs (s : State) (m : LathMsg) : (s.lathSend m).regs = s.regs := rfl
@[simp] theorem State.lathSend_free (s : State) (m : LathMsg) : (s.lathSend m).free = s.free := rfl
@[simp] theorem State.lathSend_pending (s : State) (m : LathMsg) : (s.lathSend m).pending = s.pending := rfl

/-! ## updSlot -/

@[simp] theorem State.updSlot_power (s : State) (k : Nat) (f : SlotS → SlotS) : (s.updSlot k f).power = s.power := by unfold State.updSlot; split <;> rfl
@[simp] theorem State.updSlot_time (s : State) (k : Nat) (f : SlotS → SlotS) : (s.updSlot k f).time = s.time := by unfold State.updSlot; split <;> rfl
@[simp] theorem State.updSlot_monitors (s : State) (k : Nat) (f : SlotS → SlotS) : (s.updSlot k f).monitors = s.monitors := by unfold State.updSlot; split <;> rfl
@[simp] theorem State.updSlot_flt (s : State) (k : Nat) (f : SlotS → SlotS) : (s.updSlot k f).flt = s.flt := by unfold State.updSlot; split <;> rfl
@[simp] theorem State.updSlot_crash (s : State) (k : Nat) (f : SlotS → SlotS) : (s.updSlot k f).crash = s.crash := by unfold State.updSlot; split <;> rfl
@[simp] theorem State.updSlot_loader (s : State) (k : Nat) (f : SlotS → SlotS) : (s.updSlot k f).loader = s.loader := by unfold State.updSlot; split <;> rfl
@[simp] theorem State.updSlot_mem (s : State) (k : Nat) (f : SlotS → SlotS) : (s.updSlot k f).mem = s.mem := by unfold State.updSlot; split <;> rfl
@[simp] theorem State.updSlot_gate (s : State) (k : Nat) (f : SlotS → SlotS) : (s.updSlot k f).gate = s.gate := by unfold State.updSlot; split <;> rfl
@[simp] theorem State.updSlot_ctx (s : State) (k : Nat) (f : SlotS → SlotS) : (s.updSlot k f).ctx = s.ctx := by unfold State.updSlot; split <;> rfl
@[simp] theorem State.updSlot_ep (s : State) (k : Nat) (f : SlotS → SlotS) : (s.updSlot k f).ep = s.ep := by unfold State.updSlot; split <;> rfl
@[simp] theorem State.updSlot_hawk (s : State) (k : Nat) (f : SlotS → SlotS) : (s.updSlot k f).hawk = s.hawk := by unfold State.updSlot; split <;> rfl
@[simp] theorem State.updSlot_tenants (s : State) (k : Nat) (f : SlotS → SlotS) : (s.updSlot k f).tenants = s.tenants := by unfold State.updSlot; split <;> rfl
@[simp] theorem State.updSlot_ib (s : State) (k : Nat) (f : SlotS → SlotS) : (s.updSlot k f).ib = s.ib := by unfold State.updSlot; split <;> rfl
@[simp] theorem State.updSlot_work (s : State) (k : Nat) (f : SlotS → SlotS) : (s.updSlot k f).work = s.work := by unfold State.updSlot; split <;> rfl
@[simp] theorem State.updSlot_watch (s : State) (k : Nat) (f : SlotS → SlotS) : (s.updSlot k f).watch = s.watch := by unfold State.updSlot; split <;> rfl
@[simp] theorem State.updSlot_badger (s : State) (k : Nat) (f : SlotS → SlotS) : (s.updSlot k f).badger = s.badger := by unfold State.updSlot; split <;> rfl
@[simp] theorem State.updSlot_rs (s : State) (k : Nat) (f : SlotS → SlotS) : (s.updSlot k f).rs = s.rs := by unfold State.updSlot; split <;> rfl
@[simp] theorem State.updSlot_audit (s : State) (k : Nat) (f : SlotS → SlotS) : (s.updSlot k f).audit = s.audit := by unfold State.updSlot; split <;> rfl
@[simp] theorem State.updSlot_lath (s : State) (k : Nat) (f : SlotS → SlotS) : (s.updSlot k f).lath = s.lath := by unfold State.updSlot; split <;> rfl
@[simp] theorem State.updSlot_regs (s : State) (k : Nat) (f : SlotS → SlotS) : (s.updSlot k f).regs = s.regs := by unfold State.updSlot; split <;> rfl
@[simp] theorem State.updSlot_free (s : State) (k : Nat) (f : SlotS → SlotS) : (s.updSlot k f).free = s.free := by unfold State.updSlot; split <;> rfl
@[simp] theorem State.updSlot_pending (s : State) (k : Nat) (f : SlotS → SlotS) : (s.updSlot k f).pending = s.pending := by unfold State.updSlot; split <;> rfl

/-! ## at_ -/

@[simp] theorem State.at_power (s : State) (t : BitVec 64) : (s.at_ t).power = s.power := by unfold State.at_; split <;> rfl
@[simp] theorem State.at_monitors (s : State) (t : BitVec 64) : (s.at_ t).monitors = s.monitors := by unfold State.at_; split <;> rfl
@[simp] theorem State.at_flt (s : State) (t : BitVec 64) : (s.at_ t).flt = s.flt := by unfold State.at_; split <;> rfl
@[simp] theorem State.at_crash (s : State) (t : BitVec 64) : (s.at_ t).crash = s.crash := by unfold State.at_; split <;> rfl
@[simp] theorem State.at_loader (s : State) (t : BitVec 64) : (s.at_ t).loader = s.loader := by unfold State.at_; split <;> rfl
@[simp] theorem State.at_mem (s : State) (t : BitVec 64) : (s.at_ t).mem = s.mem := by unfold State.at_; split <;> rfl
@[simp] theorem State.at_gate (s : State) (t : BitVec 64) : (s.at_ t).gate = s.gate := by unfold State.at_; split <;> rfl
@[simp] theorem State.at_ctx (s : State) (t : BitVec 64) : (s.at_ t).ctx = s.ctx := by unfold State.at_; split <;> rfl
@[simp] theorem State.at_ep (s : State) (t : BitVec 64) : (s.at_ t).ep = s.ep := by unfold State.at_; split <;> rfl
@[simp] theorem State.at_hawk (s : State) (t : BitVec 64) : (s.at_ t).hawk = s.hawk := by unfold State.at_; split <;> rfl
@[simp] theorem State.at_slots (s : State) (t : BitVec 64) : (s.at_ t).slots = s.slots := by unfold State.at_; split <;> rfl
@[simp] theorem State.at_tenants (s : State) (t : BitVec 64) : (s.at_ t).tenants = s.tenants := by unfold State.at_; split <;> rfl
@[simp] theorem State.at_ib (s : State) (t : BitVec 64) : (s.at_ t).ib = s.ib := by unfold State.at_; split <;> rfl
@[simp] theorem State.at_work (s : State) (t : BitVec 64) : (s.at_ t).work = s.work := by unfold State.at_; split <;> rfl
@[simp] theorem State.at_watch (s : State) (t : BitVec 64) : (s.at_ t).watch = s.watch := by unfold State.at_; split <;> rfl
@[simp] theorem State.at_badger (s : State) (t : BitVec 64) : (s.at_ t).badger = s.badger := by unfold State.at_; split <;> rfl
@[simp] theorem State.at_rs (s : State) (t : BitVec 64) : (s.at_ t).rs = s.rs := by unfold State.at_; split <;> rfl
@[simp] theorem State.at_audit (s : State) (t : BitVec 64) : (s.at_ t).audit = s.audit := by unfold State.at_; split <;> rfl
@[simp] theorem State.at_lath (s : State) (t : BitVec 64) : (s.at_ t).lath = s.lath := by unfold State.at_; split <;> rfl
@[simp] theorem State.at_regs (s : State) (t : BitVec 64) : (s.at_ t).regs = s.regs := by unfold State.at_; split <;> rfl
@[simp] theorem State.at_free (s : State) (t : BitVec 64) : (s.at_ t).free = s.free := by unfold State.at_; split <;> rfl
@[simp] theorem State.at_pending (s : State) (t : BitVec 64) : (s.at_ t).pending = s.pending := by unfold State.at_; split <;> rfl

/-! ## Reading back what an update wrote -/

@[simp] theorem State.updTen_self (s : State) (i : Fin 64) (f : TenantS → TenantS) : (s.updTen i f).ten i = f (s.ten i) := by
  simp [State.updTen, State.ten, Vector.get_eq_getElem]

@[simp] theorem State.updTen_other (s : State) (i j : Fin 64) (f : TenantS → TenantS) (h : j ≠ i) :
    (s.updTen i f).ten j = s.ten j := by
  simp only [State.updTen, State.ten, Vector.get_eq_getElem]
  rw [Vector.getElem_set_ne]
  omega

@[simp] theorem State.updSlot_self (s : State) (k : Nat) (h : k < 16) (f : SlotS → SlotS) :
    (s.updSlot k f).slot k = f (s.slot k) := by
  simp [State.updSlot, State.slot, h, Vector.get_eq_getElem]

@[simp] theorem State.updSlot_other (s : State) (k j : Nat) (h : j ≠ k) (f : SlotS → SlotS) :
    (s.updSlot k f).slot j = s.slot j := by
  unfold State.updSlot
  split
  · unfold State.slot
    split
    · simp only [Vector.get_eq_getElem]
      rw [Vector.getElem_set_ne]
      omega
    · rfl
  · rfl

@[simp] theorem State.respond_ns (s : State) (id : BitVec 10) (st : NsStatus) (c : BitVec 4) (d : Line) :
    (s.respond id st c d).gate.ns = s.gate.ns ++ [{ id := id, status := st, cause := c, data := d }] := rfl

@[simp] theorem State.ok_ns (s : State) (id : BitVec 10) :
    (s.ok id).gate.ns = s.gate.ns ++ [{ id := id, status := .ok, cause := 0, data := 0 }] := rfl

@[simp] theorem State.updFlt_flt (s : State) (f : FaultS → FaultS) : (s.updFlt f).flt = f s.flt := rfl

@[simp] theorem State.updLoader_loader (s : State) (f : LoaderS → LoaderS) : (s.updLoader f).loader = f s.loader := rfl

@[simp] theorem State.updEp_ep (s : State) (f : EpS → EpS) : (s.updEp f).ep = f s.ep := rfl

@[simp] theorem State.updCtx_ctx (s : State) (f : CtxS → CtxS) : (s.updCtx f).ctx = f s.ctx := rfl

@[simp] theorem State.updIb_ib (s : State) (f : IbS → IbS) : (s.updIb f).ib = f s.ib := rfl

@[simp] theorem State.updBadger_badger (s : State) (f : BadgerS → BadgerS) : (s.updBadger f).badger = f s.badger := rfl

@[simp] theorem State.updAudit_audit (s : State) (f : AuditS → AuditS) : (s.updAudit f).audit = f s.audit := rfl

end Sys2Proof.Machine
end

