-- ==== Sys2Proof/Laws/Frames.lean ====
section
/-! SUPPORT. What the shared operations of the register window and of received frames do where a command is not turned
away. -/

namespace Sys2Proof.Machine

/-- A frame that passes every check of R75 is handled. -/
theorem State.receive_good {s : State} {f : Rx} {c : Check} {i : Fin 64} (k : State → Fin 64 → State)
    (h : frameGood s f c.typ i) (h2 : c.ok2 = true) (h3 : c.ok3 = true) (h7 : c.ok7 (s.at_ f.time) i = true)
    (h8 : c.ok8 (s.at_ f.time) i = true) : s.receive f c k = k (s.at_ f.time) i := by
  obtain ⟨g1, g2, g3, g4, g5, g6, g7, g8, g9, g10, g11, g12, g13, g14⟩ := h
  have e1 : (f.mark != (f.typ == 0x03)) = false := by rw [g6, g7]; simp
  have e2 : (f.elided && f.typ != 0x01) = false := by
    rcases g8 with h | h
    · simp [h]
    · simp [g6, h]
  have n1 : ¬ f.gen < ((s.at_ f.time).ten i).fox.gen := by rw [g13]; exact BitVec.lt_irrefl _
  have n2 : ¬ ((s.at_ f.time).ten i).fox.gen < f.gen := by rw [g13]; exact BitVec.lt_irrefl _
  have e5 : decide (f.typ ≠ c.typ) = false := by simp [g6]
  have e6 : decide (f.ver ≠ 3) = false := by simp [g5]
  have e7 : decide (f.rsv2 ≠ 0) = false := by simp [g10]
  have e8 : decide (f.crc ≠ frameCrc f) = false := by simp [g4]
  have e9 : decide (f.len.toNat ≠ f.payload.length) = false := by simp [g11]
  unfold State.receive
  simp only [g1, g2, g3, e8, e6, e5, e1, e2, g9, e7, h2, e9, h3, g12, n1, n2, h7, h8, g14]
  simp

/-- A register-window write that the window takes completes with OK and has its effect. -/
theorem State.window_takes {s : State} {a : Acc} {offset : Nat} (sys : Bool) (f : State → State)
    (h : windowTakes s a offset) : s.window a offset sys f = f (s.ok a.id) := by
  obtain ⟨h1, h2, h3⟩ := h
  simp [State.window, h1, h2, h3]

/-- A register-window write that the window does not take is refused: a bus error and event 0x0F, and nothing else. -/
theorem State.window_refuses {s : State} {a : Acc} {offset : Nat} (f : State → State) (h1 : s.portsUp = true)
    (h2 : s.windowOpen offset = false ∨ fromSystem a = false) : s.window a offset true f = s.refuse a.id offset := by
  rcases h2 with h | h <;> simp [State.window, h1, h]

end Sys2Proof.Machine
end

