-- ==== Sys2Proof/Laws/Kept.lean ====
section
/-! SUPPORT. What every operation of the block keeps: the queue as it is, the byte memories in canonical form, and the
history within its 32 entries. -/

namespace Sys2Proof.Machine

/-- From `s` to `t`: the queue is the same, memories in canonical form stay in it, and a history within its bound stays
within it. -/
structure Kept (s t : State) : Prop where
  queue : t.pending = s.pending
  mem : s.memWf = true → t.memWf = true
  history : s.historyOk = true → t.historyOk = true

/-- The same of a command's outcome, which is a next state. -/
def KeptO (s : State) (o : Out) : Prop :=
  match o with
  | .next t => Kept s t
  | .fault _ => False
  | .refused _ => False

/-- The parts of a state that `Kept` speaks of. -/
def State.core (s : State) : List Instr × NMap Byte × NMap Byte × NMap Byte × List HistEntry :=
  (s.pending, s.mem, s.crash.area, s.work, s.flt.history)

theorem Kept.refl (s : State) : Kept s s := ⟨rfl, id, id⟩

theorem Kept.trans {s t u : State} (h : Kept s t) (k : Kept t u) : Kept s u :=
  ⟨k.queue.trans h.queue, fun x => k.mem (h.mem x), fun x => k.history (h.history x)⟩

theorem Kept.same {s0 s t : State} (h : Kept s0 s) (e : t.core = s.core) : Kept s0 t := by
  simp only [State.core, Prod.mk.injEq] at e
  obtain ⟨e1, e2, e3, e4, e5⟩ := e
  refine h.trans ⟨e1, ?_, ?_⟩
  · simp only [State.memWf, e2, e3, e4]; exact id
  · simp only [State.historyOk, e5]; exact id

theorem Kept.ite {s0 a b : State} {c : Prop} [Decidable c] (ha : Kept s0 a) (hb : Kept s0 b) : Kept s0 (if c then a else b) := by
  split <;> assumption

theorem Kept.getD {s0 s : State} {o : Option State} (ho : ∀ t, o = some t → Kept s0 t) (h : Kept s0 s) : Kept s0 (o.getD s) := by
  cases o with
  | none => exact h
  | some t => exact ho t rfl

theorem Kept.withMem {s0 s : State} {m : NMap Byte} (h : Kept s0 s)
    (hm : Mem.wf Config.stackBytes s.mem = true → Mem.wf Config.stackBytes m = true) : Kept s0 { s with mem := m } := by
  refine h.trans ⟨rfl, ?_, id⟩
  simp only [State.memWf, Bool.and_eq_true]
  rintro ⟨⟨h1, h2⟩, h3⟩
  exact ⟨⟨hm h1, h2⟩, h3⟩

theorem Kept.withArea {s0 s : State} {c : CrashS} (h : Kept s0 s)
    (hc : Mem.wf (2 ^ 21) s.crash.area = true → Mem.wf (2 ^ 21) c.area = true) : Kept s0 { s with crash := c } := by
  refine h.trans ⟨rfl, ?_, id⟩
  simp only [State.memWf, Bool.and_eq_true]
  rintro ⟨⟨h1, h2⟩, h3⟩
  exact ⟨⟨h1, hc h2⟩, h3⟩

theorem Kept.fst {α : Type} {s0 t : State} {p : State × α} {r : α} (h : Kept s0 p.1) (e : p = (t, r)) : Kept s0 t := by
  subst e; exact h

theorem KeptO.next {s0 t : State} (h : Kept s0 t) : KeptO s0 (.next t) := h

theorem KeptO.ite {s0 : State} {a b : Out} {c : Prop} [Decidable c] (ha : KeptO s0 a) (hb : KeptO s0 b) :
    KeptO s0 (if c then a else b) := by
  split <;> assumption

theorem Kept.foldl {α : Type} {s0 : State} {f : State → α → State} {l : List α} {s : State} (h : Kept s0 s)
    (hf : ∀ s a, Kept s0 s → Kept s0 (f s a)) : Kept s0 (l.foldl f s) := by
  induction l generalizing s with
  | nil => exact h
  | cons a l ih => exact ih (hf s a h)

theorem settled_kept {s0 s : State} {o : Out} (h : KeptO s0 o) : Kept s0 (settled o s) := by
  cases o with
  | next t => exact h
  | fault _ => exact h.elim
  | refused _ => exact h.elim

theorem State.updFlt_kept {s0 s : State} {f : FaultS → FaultS} (h : Kept s0 s) (hf : ∀ x, (f x).history = x.history) :
    Kept s0 (s.updFlt f) := h.same (by simp only [State.core, State.updFlt, hf])

theorem State.updCrash_kept {s0 s : State} {f : CrashS → CrashS} (h : Kept s0 s) (hf : ∀ x, (f x).area = x.area) :
    Kept s0 (s.updCrash f) := h.same (by simp only [State.core, State.updCrash, hf])

theorem State.putBytes_kept {s0 s : State} {a : Nat} {bs : List Byte} (h : Kept s0 s) : Kept s0 (s.putBytes a bs) := by
  refine h.trans ⟨rfl, ?_, id⟩
  simp only [State.memWf, State.putBytes, Bool.and_eq_true]
  rintro ⟨⟨h1, h2⟩, h3⟩
  exact ⟨⟨Mem.wf_writeN _ _ (by decide) h1, h2⟩, h3⟩

theorem Kept.zeroMem {s0 s : State} {a n : Nat} (h : Kept s0 s) : Kept s0 { s with mem := Mem.zero s.mem a n } := by
  refine h.trans ⟨rfl, ?_, id⟩
  simp only [State.memWf, Bool.and_eq_true]
  rintro ⟨⟨h1, h2⟩, h3⟩
  exact ⟨⟨Mem.wf_zero _ _ h1, h2⟩, h3⟩

theorem Kept.withWork {s0 s : State} {w : NMap Byte} (h : Kept s0 s) (hw : Mem.wf (2 ^ 23) s.work = true → Mem.wf (2 ^ 23) w = true) :
    Kept s0 { s with work := w } := by
  refine h.trans ⟨rfl, ?_, id⟩
  simp only [State.memWf, Bool.and_eq_true]
  rintro ⟨⟨h1, h2⟩, h3⟩
  exact ⟨⟨h1, h2⟩, hw h3⟩

theorem State.pushHistory_kept {s0 s : State} {e : HistEntry} (h : Kept s0 s) : Kept s0 (s.pushHistory e) := by
  refine h.trans ⟨?_, ?_, ?_⟩
  · unfold State.pushHistory; simp only; split <;> rfl
  · unfold State.pushHistory; simp only; split <;> exact id
  · intro q
    have q' : s.flt.history.length ≤ Config.historySize := by simpa [State.historyOk] using q
    by_cases g : Config.historySize < (s.flt.history ++ [e]).length
    · have : (s.pushHistory e).flt.history = (s.flt.history ++ [e]).drop 1 := by
        unfold State.pushHistory
        dsimp only
        rw [if_pos (show Config.historySize < (s.updFlt fun f => { f with history := f.history ++ [e], seq := e.seq }).flt.history.length from g)]
        rfl
      simp only [State.historyOk, this, decide_eq_true_eq, List.length_drop, List.length_append, List.length_singleton]
      omega
    · have : (s.pushHistory e).flt.history = s.flt.history ++ [e] := by
        unfold State.pushHistory
        dsimp only
        rw [if_neg (show ¬ Config.historySize < (s.updFlt fun f => { f with history := f.history ++ [e], seq := e.seq }).flt.history.length from g)]
        rfl
      simp only [State.historyOk, this, decide_eq_true_eq]
      omega

end Sys2Proof.Machine
end

