-- ==== Sys2Proof/Laws/Work.lean ====
section
/-! SUPPORT. A section run keeps the working area in canonical form. -/

namespace Sys2Proof.Machine

/-- The working area of a run is in canonical form. -/
def RunSt.wf (s : RunSt) : Prop := Mem.wf (2 ^ 23) s.work = true

theorem foldl_wf {α β : Type} (P : α → Prop) (f : α → β → α) (l : List β) (s : α) (h : P s) (hf : ∀ s b, P s → P (f s b)) :
    P (l.foldl f s) := by
  induction l generalizing s with
  | nil => exact h
  | cons b l ih => exact ih _ (hf _ b h)

theorem writeElem_wf {c : RunCtx} {s : RunSt} {ls : Loops} {d : Desc} {size i v : Nat} (h : s.wf) :
    (writeElem c s ls d size i v).wf := by
  unfold writeElem
  split
  · exact h
  · exact Mem.wf_writeN _ _ (by decide) h

theorem writeAll_wf {c : RunCtx} {s : RunSt} {ls : Loops} {d : Desc} {size : Nat} {vs : List (Nat × Flags)} (h : s.wf) :
    (writeAll c s ls d size vs).wf := by
  unfold writeAll
  exact foldl_wf RunSt.wf _ _ _ h fun s p h => writeElem_wf (c := c) (ls := ls) (d := d) h

theorem mxWrite_wf {w : NMap Byte} {code base i v : Nat} (h : Mem.wf (2 ^ 23) w = true) :
    Mem.wf (2 ^ 23) (mxWrite w code base i v) = true := Mem.wf_writeN _ _ (by decide) h

theorem execArith_wf {c : RunCtx} {s : RunSt} {ls : Loops} {x : Ins} (h : s.wf) : (execArith c s ls x).wf := by
  unfold execArith
  extract_lets ds dd da db dc f sz src
  split
  · split
    · exact writeAll_wf h
    · split
      · refine foldl_wf RunSt.wf _ _ _ h fun t b ht => ?_
        refine writeElem_wf ?_
        exact foldl_wf (fun w => Mem.wf (2 ^ 23) w = true) _ _ _ ht fun w p hw => mxWrite_wf hw
      · exact writeAll_wf h
  · split
    · exact writeAll_wf h
    · split
      · exact writeAll_wf (writeAll_wf h)
      · exact writeAll_wf h

theorem runSeq_wf {c : RunCtx} {is : List (BitVec 64)} {n : Nat} {q : Seq} {t : RunSt} (h : q.st.wf)
    (e : runSeq c is n q = .done t) : t.wf := by
  induction n generalizing q with
  | zero => rw [runSeq] at e; cases e; exact h
  | succ n ih =>
    rw [runSeq] at e
    dsimp only at e
    repeat' split at e
    all_goals
      first
      | exact ih (by exact h) e
      | exact ih (by exact execArith_wf h) e
      | exact RunEnd.noConfusion e
      | (cases e; exact h)

theorem runSection_wf {c : RunCtx} {is : List (BitVec 64)} {s t : RunSt} (h : s.wf) (e : runSection c is s = .done t) : t.wf :=
  runSeq_wf h e

theorem stageStrip_wf {s : State} {i : Fin 64} {r : GroupRun} {p : Program} {x : StripAt} (h : Mem.wf (2 ^ 23) s.work = true) :
    Mem.wf (2 ^ 23) (s.stageStrip i r p x) = true := by
  unfold State.stageStrip
  refine foldl_wf (fun w => Mem.wf (2 ^ 23) w = true) _ _ _ h fun w st hw => ?_
  split
  · exact Mem.wf_writeN _ _ (by decide) hw
  · dsimp only
    split
    · refine foldl_wf (fun w => Mem.wf (2 ^ 23) w = true) _ _ _ (Mem.wf_zero _ _ hw) fun w q hw => ?_
      split
      · exact Mem.wf_writeN _ _ (by decide) hw
      · exact hw
    · exact Mem.wf_zero _ _ hw

theorem sampleInto_wf {area work : NMap Byte} {a base n : Nat} (h : Mem.wf (2 ^ 21) area = true) :
    Mem.wf (2 ^ 21) (sampleInto area work a base n) = true := by
  unfold sampleInto
  refine foldl_wf (fun w => Mem.wf (2 ^ 21) w = true) _ _ _ h fun m p hm => ?_
  dsimp only
  split
  · exact Mem.wf_write _ hm (Nat.mod_lt _ (by decide))
  · exact hm

theorem placePool_wf {w : NMap Byte} {bank : Bool} {i : Image} (h : Mem.wf (2 ^ 23) w = true) :
    Mem.wf (2 ^ 23) (placePool w bank i) = true := Mem.wf_writeN _ _ (by decide) (Mem.wf_zero _ _ h)

theorem State.putPool_kept {s0 s : State} {bank : Bool} {i : Image} (h : Kept s0 s) : Kept s0 (s.putPool bank i) :=
  h.withWork placePool_wf

end Sys2Proof.Machine
end

