-- ==== Sys2Proof/Laws/KeptOps.lean ====
section
/-! SUPPORT. What is kept by the shared operations, from raising an event to handling a frame. -/

namespace Sys2Proof.Machine

theorem State.updTen_kept : ∀ {s0 s : State} {i : Fin 64} {f : TenantS → TenantS}, Kept s0 s → Kept s0 (s.updTen i f) := by
  intro s0 s i f h
  unfold State.updTen
  exact h.same rfl

theorem State.updSlot_kept : ∀ {s0 s : State} {k : Nat} {f : SlotS → SlotS}, Kept s0 s → Kept s0 (s.updSlot k f) := by
  intro s0 s k f h
  unfold State.updSlot
  split
  · exact h.same rfl
  · exact h

theorem State.setEntry_kept : ∀ {s0 s : State} {c : Nat} {e : Entry}, Kept s0 s → Kept s0 (s.setEntry c e) := by
  intro s0 s c e h
  unfold State.setEntry
  extract_lets v1
  clear_value v1
  exact h.same rfl

theorem State.freeEntry_kept : ∀ {s0 s : State} {c : Nat}, Kept s0 s → Kept s0 (s.freeEntry c) := by
  intro s0 s c h
  unfold State.freeEntry
  extract_lets v1
  clear_value v1
  exact h.same rfl

theorem State.updEntry_kept : ∀ {s0 s : State} {c : Nat} {f : Entry → Entry}, Kept s0 s → Kept s0 (s.updEntry c f) := by
  intro s0 s c f h
  unfold State.updEntry
  split
  · refine State.setEntry_kept ?_
    exact h
  · exact h

theorem State.setDir_kept : ∀ {s0 s : State} {a : Nat} {r : DirRec}, Kept s0 s → Kept s0 (s.setDir a r) := by
  intro s0 s a r h
  unfold State.setDir
  refine State.putBytes_kept ?_
  exact h

theorem State.setKept_kept : ∀ {s0 s : State} {a : Nat} {d : Word}, Kept s0 s → Kept s0 (s.setKept a d) := by
  intro s0 s a d h
  unfold State.setKept
  refine State.putBytes_kept ?_
  exact h

theorem State.respond_kept : ∀ {s0 s : State} {id : BitVec 10} {st : NsStatus} {cause : BitVec 4} {data : Line},
  Kept s0 s → Kept s0 (s.respond id st cause data) := by
  intro s0 s id st cause data h
  unfold State.respond
  extract_lets v1
  clear_value v1
  exact h.same rfl

theorem State.ok_kept : ∀ {s0 s : State} {id : BitVec 10}, Kept s0 s → Kept s0 (s.ok id) := by
  intro s0 s id h
  unfold State.ok
  refine State.respond_kept ?_
  exact h

theorem State.send_kept : ∀ {s0 s : State} {f : OutFrame}, Kept s0 s → Kept s0 (s.send f) := by
  intro s0 s f h
  unfold State.send
  extract_lets v1
  clear_value v1
  refine Kept.ite ?_ ?_
  · exact h
  · split
    · exact h.same rfl
    · exact h.same rfl
    · exact h.same rfl
    · exact h

theorem State.sendOnce_kept : ∀ {s0 s : State} {f : OutFrame}, Kept s0 s → Kept s0 (s.sendOnce f) := by
  intro s0 s f h
  unfold State.sendOnce
  refine Kept.ite ?_ ?_
  · exact h
  · refine State.send_kept ?_
    exact h

theorem State.sendReply_kept : ∀ {s0 s : State} {f : OutFrame}, Kept s0 s → Kept s0 (s.sendReply f) := by
  intro s0 s f h
  unfold State.sendReply
  extract_lets v1
  clear_value v1
  refine Kept.ite ?_ ?_
  · exact h
  · exact h.same rfl

theorem State.lathSend_kept : ∀ {s0 s : State} {m : LathMsg}, Kept s0 s → Kept s0 (s.lathSend m) := by
  intro s0 s m h
  unfold State.lathSend
  extract_lets v1
  clear_value v1
  exact h.same rfl

theorem State.updCommit_kept : ∀ {s0 s : State} {i : Fin 64} {f : CommitS → CommitS}, Kept s0 s → Kept s0 (s.updCommit i f) := by
  intro s0 s i f h
  unfold State.updCommit
  refine State.updTen_kept ?_
  exact h

theorem State.updSweep_kept : ∀ {s0 s : State} {i : Fin 64} {f : SweepS → SweepS}, Kept s0 s → Kept s0 (s.updSweep i f) := by
  intro s0 s i f h
  unfold State.updSweep
  refine State.updTen_kept ?_
  exact h

theorem State.updFox_kept : ∀ {s0 s : State} {i : Fin 64} {f : FoxS → FoxS}, Kept s0 s → Kept s0 (s.updFox i f) := by
  intro s0 s i f h
  unfold State.updFox
  refine State.updTen_kept ?_
  exact h

theorem State.countN_kept : ∀ {s0 s : State} {k n : Nat}, Kept s0 s → Kept s0 (s.countN k n) := by
  intro s0 s k n h
  unfold State.countN
  refine State.updFlt_kept ?_ ?_
  · exact h
  · intro a1
    rfl

theorem State.count_kept : ∀ {s0 s : State} {k : Nat}, Kept s0 s → Kept s0 (s.count k) := by
  intro s0 s k h
  unfold State.count
  refine State.countN_kept ?_
  exact h

theorem State.enter_kept {s0 s : State} {e : Ev} (h : Kept s0 s) : Kept s0 (s.enter e).1 := by
  unfold State.enter
  extract_lets level region first key isNew s1 s2 up applied s3 seq s4 s5
  clear_value up applied isNew key first region level
  have k1 : Kept s0 s1 := State.count_kept h
  clear_value s1
  have k2 : Kept s0 s2 := State.updFlt_kept k1 fun _ => rfl
  clear_value s2
  have k3 : Kept s0 s3 := by
    unfold s3
    split
    · refine k2.trans ⟨rfl, id, fun q => ?_⟩
      simpa [State.historyOk, State.updFlt, updHistory] using q
    · exact k2
  clear_value s3
  have k4 : Kept s0 s4 := Kept.ite (State.pushHistory_kept k3) k3
  clear_value s4
  exact Kept.ite (State.updFlt_kept k4 fun _ => rfl) k4

theorem State.withhold_kept : ∀ {s0 s : State} {i : Fin 64} {reason : Nat}, Kept s0 s → Kept s0 (s.withhold i reason) := by
  intro s0 s i reason h
  unfold State.withhold
  extract_lets v1
  clear_value v1
  refine State.updCommit_kept ?_
  exact h

theorem State.holdSweep_kept : ∀ {s0 s : State} {i : Fin 64} {cause : Nat}, Kept s0 s → Kept s0 (s.holdSweep i cause) := by
  intro s0 s i cause h
  unfold State.holdSweep
  refine State.updSweep_kept ?_
  exact h

theorem State.holdSweeps_kept : ∀ {s0 s : State} {cause : Nat}, Kept s0 s → Kept s0 (s.holdSweeps cause) := by
  intro s0 s cause h
  unfold State.holdSweeps
  refine Kept.foldl ?_ ?_
  · exact h
  · intro t1 a2 k3
    refine State.holdSweep_kept ?_
    exact k3

theorem State.raiseHeld_kept : ∀ {s0 s : State} {e : Ev}, Kept s0 s → Kept s0 (s.raiseHeld e) := by
  intro s0 s e h
  unfold State.raiseHeld
  split
  rename_i a1 t2 a3 a4
  have k5 : Kept s0 t2 := Kept.fst (State.enter_kept (by assumption)) a4
  refine Kept.ite ?_ ?_
  · refine State.updFlt_kept ?_ ?_
    · exact k5
    · intro a6
      rfl
  · exact k5

theorem State.releaseParked_kept : ∀ {s0 s : State} {p : Parked → Bool} {cause : BitVec 4} {raise : State → Ev → State} {code : Nat},
  Kept s0 s →
    (∀ (a : State) (a_1 : Ev), Kept s0 a → Kept s0 (raise a a_1)) → Kept s0 (s.releaseParked p cause raise code) := by
  intro s0 s p cause raise code h hf1
  unfold State.releaseParked
  extract_lets v1 v2 t3
  clear_value v1
  clear_value v2
  have k4 : Kept s0 t3 := by
    unfold t3
    exact h.same rfl
  clear_value t3
  refine Kept.foldl ?_ ?_
  · exact k4
  · intro t5 a6 k7
    refine hf1 _ _ ?_
    refine State.respond_kept ?_
    exact k7

theorem State.dropSwitch_kept : ∀ {s0 s : State} {raise : State → Ev → State},
  Kept s0 s → (∀ (a : State) (a_1 : Ev), Kept s0 a → Kept s0 (raise a a_1)) → Kept s0 (s.dropSwitch raise) := by
  intro s0 s raise h hf1
  unfold State.dropSwitch
  extract_lets v1 t2
  clear_value v1
  have k3 : Kept s0 t2 := by
    unfold t2
    exact h.same rfl
  clear_value t2
  refine Kept.ite ?_ ?_
  · exact h
  · refine hf1 _ _ ?_
    exact k3

theorem State.hold_kept : ∀ {s0 s : State} {code : Nat}, Kept s0 s → Kept s0 (s.hold code) := by
  intro s0 s code h
  unfold State.hold
  extract_lets t1 t2
  have k3 : Kept s0 t1 := by
    unfold t1
    refine State.updFlt_kept ?_ ?_
    · exact h
    · intro a4
      rfl
  clear_value t1
  have k5 : Kept s0 t2 := by
    unfold t2
    refine State.dropSwitch_kept ?_ ?_
    · refine State.holdSweeps_kept ?_
      exact k3
    · intro t6 a7 k8
      refine State.raiseHeld_kept ?_
      exact k8
  clear_value t2
  split
  · refine State.releaseParked_kept ?_ ?_
    · exact k5
    · intro t11 a12 k13
      refine State.raiseHeld_kept ?_
      exact k13
  · refine State.updFlt_kept ?_ ?_
    · exact h
    · intro a16
      split <;> rfl
  · exact h
  · exact h

theorem State.raise0_kept : ∀ {s0 s : State} {e : Ev}, Kept s0 s → Kept s0 (s.raise0 e) := by
  intro s0 s e h
  unfold State.raise0
  split
  rename_i a1 t2 a3 a4
  have k5 : Kept s0 t2 := Kept.fst (State.enter_kept (by assumption)) a4
  extract_lets t6
  have k7 : Kept s0 t6 := by
    unfold t6
    refine State.hold_kept ?_
    exact k5
  clear_value t6
  refine Kept.ite ?_ ?_
  · exact k5
  · refine Kept.ite ?_ ?_
    · refine State.updFlt_kept ?_ ?_
      · exact k7
      · intro a8
        rfl
    · exact k7

theorem State.contain_kept : ∀ {s0 s : State} {c : Nat}, Kept s0 s → Kept s0 (s.contain c) := by
  intro s0 s c h
  unfold State.contain
  split
  · exact h
  · extract_lets t6 t7
    have k8 : Kept s0 t6 := by
      unfold t6
      refine State.setEntry_kept ?_
      exact h
    clear_value t6
    have k9 : Kept s0 t7 := by
      unfold t7
      refine State.releaseParked_kept ?_ ?_
      · exact k8
      · intro t10 a11 k12
        refine State.raise0_kept ?_
        exact k12
    clear_value t7
    refine Kept.ite ?_ ?_
    · exact h
    · split
      · refine State.withhold_kept ?_
        exact k9
      · exact k9

theorem State.resendAll_kept : ∀ {s0 s : State}, Kept s0 s → Kept s0 s.resendAll := by
  intro s0 s h
  unfold State.resendAll
  extract_lets v1
  clear_value v1
  exact h.same rfl

theorem State.beginUnit_kept : ∀ {s0 s : State} {u : ResetUnit} {busy : Option (Fin 16)}, Kept s0 s → Kept s0 (s.beginUnit u busy) := by
  intro s0 s u busy h
  unfold State.beginUnit
  extract_lets t1 v2 v3
  have k4 : Kept s0 t1 := by
    unfold t1
    refine State.updFlt_kept ?_ ?_
    · exact h
    · intro a5
      rfl
  clear_value t1
  clear_value v2
  clear_value v3
  refine Kept.ite ?_ ?_
  · exact h
  · split
    · exact k4
    · split
      · exact k4
      · extract_lets t13
        have k14 : Kept s0 t13 := by
          unfold t13
          refine State.raise0_kept ?_
          exact k4
        clear_value t13
        split
        · refine State.withhold_kept ?_
          exact k14
        · exact k14
    · refine State.resendAll_kept ?_
      exact k4
    · exact k4.same rfl
    · exact k4

theorem State.raise_kept : ∀ {s0 s : State} {e : Ev} {busy : Option (Fin 16)}, Kept s0 s → Kept s0 (s.raise e busy) := by
  intro s0 s e busy h
  unfold State.raise
  split
  rename_i a1 t2 a3 a4
  have k5 : Kept s0 t2 := Kept.fst (State.enter_kept (by assumption)) a4
  extract_lets t6 t7 t8
  have k9 : Kept s0 t6 := by
    unfold t6
    split
    · refine State.beginUnit_kept ?_
      exact k5
    · exact k5
  clear_value t6
  have k15 : Kept s0 t7 := by
    unfold t7
    split
    · refine State.contain_kept ?_
      exact k9
    · exact k9
  clear_value t7
  have k21 : Kept s0 t8 := by
    unfold t8
    refine State.hold_kept ?_
    exact k9
  clear_value t8
  refine Kept.ite ?_ ?_
  · exact k5
  · refine Kept.ite ?_ ?_
    · exact k9
    · refine Kept.ite ?_ ?_
      · refine State.updFlt_kept ?_ ?_
        · exact k15
        · intro a22
          rfl
      · refine Kept.ite ?_ ?_
        · refine State.updFlt_kept ?_ ?_
          · exact k21
          · intro a23
            rfl
        · exact k21

theorem State.raiseT_kept : ∀ {s0 s : State} {i : Fin 64} {code detail : Nat}, Kept s0 s → Kept s0 (s.raiseT i code detail) := by
  intro s0 s i code detail h
  unfold State.raiseT
  refine State.raise_kept ?_
  exact h

theorem State.checkArmed_kept : ∀ {s0 s : State}, Kept s0 s → Kept s0 s.checkArmed := by
  intro s0 s h
  unfold State.checkArmed
  extract_lets v1
  clear_value v1
  refine Kept.ite ?_ ?_
  · exact h.same rfl
  · exact h

theorem State.moveNow_kept : ∀ {s0 s : State} {i : Fin 64}, Kept s0 s → Kept s0 (s.moveNow i) := by
  intro s0 s i h
  unfold State.moveNow
  refine Kept.ite ?_ ?_
  · refine State.raiseT_kept ?_
    refine State.updTen_kept ?_
    exact h
  · exact h

theorem State.refuse_kept : ∀ {s0 s : State} {id : BitVec 10} {offset : Nat}, Kept s0 s → Kept s0 (s.refuse id offset) := by
  intro s0 s id offset h
  unfold State.refuse
  refine State.raise_kept ?_
  refine State.respond_kept ?_
  exact h

theorem State.notePeaks_kept : ∀ {s0 s : State} {k : Nat}, Kept s0 s → Kept s0 (s.notePeaks k) := by
  intro s0 s k h
  unfold State.notePeaks
  extract_lets t1 v2
  have k3 : Kept s0 t1 := by
    unfold t1
    refine State.updSlot_kept ?_
    exact h
  clear_value t1
  clear_value v2
  exact k3.same rfl

theorem State.stage_kept : ∀ {s0 s : State} {k : Fin 16} {ctx panel idx blk : Nat} {whole : Bool} {data : List Byte},
  Kept s0 s → Kept s0 (s.stage k ctx panel idx blk whole data) := by
  intro s0 s k ctx panel idx blk whole data h
  unfold State.stage
  extract_lets v1 v2 v3 t4 t5
  clear_value v1
  clear_value v2
  clear_value v3
  have k6 : Kept s0 t4 := by
    unfold t4
    exact h.same rfl
  clear_value t4
  have k7 : Kept s0 t5 := by
    unfold t5
    refine State.notePeaks_kept ?_
    exact k6
  clear_value t5
  refine Kept.ite ?_ ?_
  · refine State.count_kept ?_
    exact k7
  · exact k7

theorem State.reserve_kept : ∀ {s0 s : State} {k : Fin 16} {ctx panel : Nat} {old : List Byte}, Kept s0 s → Kept s0 (s.reserve k ctx panel old) := by
  intro s0 s k ctx panel old h
  unfold State.reserve
  extract_lets v1 v2
  clear_value v1
  clear_value v2
  refine State.notePeaks_kept ?_
  exact h.same rfl

theorem State.formPanel_kept : ∀ {s0 s : State} {i : Fin 64} {ctx panel dpanel : Nat} {new : List Byte},
  Kept s0 s → Kept s0 (s.formPanel i ctx panel dpanel new) := by
  intro s0 s i ctx panel dpanel new h
  unfold State.formPanel
  extract_lets v1 t2
  clear_value v1
  have k3 : Kept s0 t2 := by
    unfold t2
    exact h.same rfl
  clear_value t2
  split
  · exact h
  · extract_lets v9
    clear_value v9
    refine Kept.ite ?_ ?_
    · refine State.updSweep_kept ?_
      refine State.count_kept ?_
      exact k3
    · refine State.stage_kept ?_
      exact k3

theorem State.formMarker_kept : ∀ {s0 s : State} {k : Fin 16}, Kept s0 s → Kept s0 (s.formMarker k) := by
  intro s0 s k h
  unfold State.formMarker
  extract_lets v1 v2 v3 t4 v5
  clear_value v1
  clear_value v2
  clear_value v3
  have k6 : Kept s0 t4 := by
    unfold t4
    refine State.updSlot_kept ?_
    exact h
  clear_value t4
  clear_value v5
  exact k6.same rfl

theorem State.closeSweep_kept : ∀ {s0 s : State} {i : Fin 64}, Kept s0 s → Kept s0 (s.closeSweep i) := by
  intro s0 s i h
  unfold State.closeSweep
  refine Kept.ite ?_ ?_
  · refine State.updSweep_kept ?_
    exact h
  · exact h

theorem State.freeReleased_kept : ∀ {s0 s : State}, Kept s0 s → Kept s0 s.freeReleased := by
  intro s0 s h
  unfold State.freeReleased
  extract_lets v1 v2 v3 t4 t5
  clear_value v2
  clear_value v3
  have k6 : Kept s0 t4 := by
    unfold t4
    exact h.same rfl
  clear_value t4
  have k7 : Kept s0 t5 := by
    unfold t5
    refine Kept.foldl ?_ ?_
    · exact k6
    · intro t8 a9 k10
      refine State.updSlot_kept ?_
      exact k10
  clear_value t5
  refine Kept.foldl ?_ ?_
  · exact k7
  · intro t11 a12 k13
    refine State.closeSweep_kept ?_
    exact k13

theorem State.releaseFor_kept : ∀ {s0 s : State} {a : Addr} {p : HawkRec → Bool}, Kept s0 s → Kept s0 (s.releaseFor a p) := by
  intro s0 s a p h
  unfold State.releaseFor
  extract_lets v1 v2
  clear_value v1
  clear_value v2
  refine State.freeReleased_kept ?_
  exact h.same rfl

theorem State.releaseFenced_kept : ∀ {s0 s : State} {i : Fin 64} {a : Addr}, Kept s0 s → Kept s0 (s.releaseFenced i a) := by
  intro s0 s i a h
  unfold State.releaseFenced
  extract_lets v1 v2
  clear_value v2
  refine State.releaseFor_kept ?_
  refine State.countN_kept ?_
  exact h

theorem State.dropCopies_kept : ∀ {s0 s : State} {p : OutFrame → Bool}, Kept s0 s → Kept s0 (s.dropCopies p) := by
  intro s0 s p h
  unfold State.dropCopies
  extract_lets v1
  clear_value v1
  exact h.same rfl

theorem State.dropSkim_kept : ∀ {s0 s : State} {i : Fin 64}, Kept s0 s → Kept s0 (s.dropSkim i) := by
  intro s0 s i h
  unfold State.dropSkim
  extract_lets v1 t2 v3 t4
  have k5 : Kept s0 t2 := by
    unfold t2
    refine State.dropCopies_kept ?_
    exact h
  clear_value t2
  clear_value v3
  have k6 : Kept s0 t4 := by
    unfold t4
    exact k5.same rfl
  clear_value t4
  refine Kept.foldl ?_ ?_
  · exact k6
  · intro t7 a8 k9
    refine State.updSlot_kept ?_
    exact k9

theorem State.queueRepair_kept : ∀ {s0 s : State} {x : RepairItem}, Kept s0 s → Kept s0 (s.queueRepair x) := by
  intro s0 s x h
  unfold State.queueRepair
  extract_lets v1
  clear_value v1
  refine Kept.ite ?_ ?_
  · split
    · refine State.contain_kept ?_
      exact h
    · exact h
  · refine Kept.ite ?_ ?_
    · split
      · refine State.contain_kept ?_
        refine State.raise_kept ?_
        exact h
      · refine State.raise_kept ?_
        exact h
    · refine State.count_kept ?_
      exact h.same rfl

theorem State.queueRepairAt_kept : ∀ {s0 s : State} {a : Nat}, Kept s0 s → Kept s0 (s.queueRepairAt a) := by
  intro s0 s a h
  unfold State.queueRepairAt
  split
  · refine State.queueRepair_kept ?_
    exact h
  · exact h

theorem State.digestFail_kept : ∀ {s0 s : State} {a : Nat}, Kept s0 s → Kept s0 (s.digestFail a) := by
  intro s0 s a h
  unfold State.digestFail
  refine State.queueRepairAt_kept ?_
  refine State.raise_kept ?_
  exact h

theorem State.parkIt_kept : ∀ {s0 s : State} {x : Parked}, Kept s0 s → Kept s0 (s.parkIt x) := by
  intro s0 s x h
  unfold State.parkIt
  extract_lets v1
  clear_value v1
  refine Kept.ite ?_ ?_
  · refine State.count_kept ?_
    refine State.respond_kept ?_
    exact h
  · exact h.same rfl

theorem State.toController_kept : ∀ {s0 s : State} {x : Parked} {kind : MqKind} {phys : BitVec 36} {panel : Option (Nat × Nat)},
  Kept s0 s → Kept s0 (s.toController x kind phys panel) := by
  intro s0 s x kind phys panel h
  unfold State.toController
  extract_lets v1
  clear_value v1
  refine Kept.ite ?_ ?_
  · refine State.parkIt_kept ?_
    exact h
  · split
    · refine State.count_kept ?_
      refine State.respond_kept ?_
      exact h
    · extract_lets v7
      clear_value v7
      exact h.same rfl

theorem State.busError_kept : ∀ {s0 s : State} {q : NqReq} {cause : BitVec 4}, Kept s0 s → Kept s0 (s.busError q cause) := by
  intro s0 s q cause h
  unfold State.busError
  extract_lets v1
  clear_value v1
  refine State.raise_kept ?_
  refine State.respond_kept ?_
  exact h

theorem State.accessRegion_kept : ∀ {s0 s : State} {x : Parked} {c : Nat} {e : Entry}, Kept s0 s → Kept s0 (s.accessRegion x c e) := by
  intro s0 s x c e h
  unfold State.accessRegion
  extract_lets v1
  clear_value v1
  split
  · refine Kept.ite ?_ ?_
    · refine State.parkIt_kept ?_
      exact h
    · refine State.busError_kept ?_
      exact h
  · refine State.parkIt_kept ?_
    exact h
  · refine Kept.ite ?_ ?_
    · refine State.parkIt_kept ?_
      exact h
    · refine State.toController_kept ?_
      exact h

theorem State.access_kept : ∀ {s0 s : State} {x : Parked} {sramBad : Bool}, Kept s0 s → Kept s0 (s.access x sramBad) := by
  intro s0 s x sramBad h
  unfold State.access
  extract_lets v1
  clear_value v1
  refine Kept.ite ?_ ?_
  · refine State.busError_kept ?_
    exact h
  · refine Kept.ite ?_ ?_
    · refine Kept.ite ?_ ?_
      · refine State.parkIt_kept ?_
        exact h
      · refine State.toController_kept ?_
        exact h
    · refine Kept.ite ?_ ?_
      · refine State.busError_kept ?_
        exact h
      · refine Kept.ite ?_ ?_
        · refine State.busError_kept ?_
          exact h
        · refine Kept.ite ?_ ?_
          · refine State.busError_kept ?_
            exact h
          · split
            · refine State.busError_kept ?_
              exact h
            · refine Kept.ite ?_ ?_
              · refine State.busError_kept ?_
                refine State.contain_kept ?_
                exact h
              · refine State.accessRegion_kept ?_
                exact h

theorem State.unpark_kept : ∀ {s0 s : State}, Kept s0 s → Kept s0 s.unpark := by
  intro s0 s h
  unfold State.unpark
  extract_lets v1
  clear_value v1
  refine Kept.foldl ?_ ?_
  · exact h.same rfl
  · intro t2 a3 k4
    refine State.access_kept ?_
    exact k4

theorem State.parkDue_kept : ∀ {s0 s : State} {i : Fin 64}, Kept s0 s → Kept s0 (s.parkDue i) := by
  intro s0 s i h
  unfold State.parkDue
  extract_lets v1 v2
  clear_value v2
  exact h.same rfl

theorem State.touchLookaside_kept : ∀ {s0 s : State} {a : Nat}, Kept s0 s → Kept s0 (s.touchLookaside a) := by
  intro s0 s a h
  unfold State.touchLookaside
  extract_lets v1 v2
  clear_value v1
  clear_value v2
  refine Kept.ite ?_ ?_
  · exact h.same rfl
  · exact h

theorem State.hostMemory_kept : ∀ {s0 s : State} {q : NqReq} {op : BitVec 3} {sramBad : Bool}, Kept s0 s → Kept s0 (s.hostMemory q op sramBad) := by
  intro s0 s q op sramBad h
  unfold State.hostMemory
  extract_lets t1 v2
  have k3 : Kept s0 t1 := by
    unfold t1
    refine State.touchLookaside_kept ?_
    exact h
  clear_value t1
  clear_value v2
  refine Kept.ite ?_ ?_
  · exact h
  · refine Kept.ite ?_ ?_
    · refine State.busError_kept ?_
      exact h
    · refine State.access_kept ?_
      exact k3.same rfl

theorem State.mergeWrite_kept : ∀ {s0 s : State} {id : BitVec 10} {line : Nat} {be : BitVec 64} {data : Line} {c p : Nat} {e : Entry} {i : Fin 64},
  Kept s0 s → Kept s0 (s.mergeWrite id line be data c p e i) := by
  intro s0 s id line be data c p e i h
  unfold State.mergeWrite
  extract_lets v1 v2 v3 v4 v5 v6 t7 v8 t9 v10 v11 t12
  clear_value v1
  clear_value v2
  clear_value v3
  clear_value v4
  clear_value v5
  clear_value v6
  have k13 : Kept s0 t7 := by
    unfold t7
    refine Kept.ite ?_ ?_
    · refine State.putBytes_kept ?_
      exact h
    · refine State.setDir_kept ?_
      refine State.putBytes_kept ?_
      exact h
  clear_value t7
  clear_value v8
  have k14 : Kept s0 t9 := by
    unfold t9
    refine State.setKept_kept ?_
    exact k13
  clear_value t9
  clear_value v10
  clear_value v11
  have k15 : Kept s0 t12 := by
    unfold t12
    refine Kept.ite ?_ ?_
    · refine State.stage_kept ?_
      exact k14
    · exact k14
  clear_value t12
  refine State.ok_kept ?_
  exact k15

theorem State.completeWrite_kept : ∀ {s0 s : State} {m : MqReq}, Kept s0 s → Kept s0 (s.completeWrite m) := by
  intro s0 s m h
  unfold State.completeWrite
  extract_lets v1 t2 v3
  clear_value v1
  have k4 : Kept s0 t2 := by
    unfold t2
    exact h.same rfl
  clear_value t2
  clear_value v3
  split
  · exact k4
  · extract_lets v11
    clear_value v11
    split
    · refine State.busError_kept ?_
      exact k4
    · refine Kept.ite ?_ ?_
      · refine State.busError_kept ?_
        exact k4
      · refine Kept.ite ?_ ?_
        · refine State.busError_kept ?_
          exact k4
        · split
          · refine State.busError_kept ?_
            exact k4
          · refine State.parkIt_kept ?_
            exact k4
          · refine State.mergeWrite_kept ?_
            exact k4
          · refine State.access_kept ?_
            exact k4

theorem State.dirLineBad_kept : ∀ {s0 s : State} {a : Nat}, Kept s0 s → Kept s0 (s.dirLineBad a) := by
  intro s0 s a h
  unfold State.dirLineBad
  extract_lets v1 v2 v3 v4 t5
  clear_value v1
  clear_value v2
  clear_value v3
  clear_value v4
  have k6 : Kept s0 t5 := by
    unfold t5
    exact h.same rfl
  clear_value t5
  refine Kept.foldl ?_ ?_
  · refine State.raise_kept ?_
    exact k6
  · intro t7 a8 k9
    refine State.contain_kept ?_
    exact k9

theorem State.noteCorrected_kept : ∀ {s0 s : State} {err : BitVec 2}, Kept s0 s → Kept s0 (s.noteCorrected err) := by
  intro s0 s err h
  unfold State.noteCorrected
  extract_lets v1
  clear_value v1
  refine Kept.ite ?_ ?_
  · exact h.same rfl
  · exact h

theorem State.lineBad_kept : ∀ {s0 s : State} {m : MqReq}, Kept s0 s → Kept s0 (s.lineBad m) := by
  intro s0 s m h
  unfold State.lineBad
  refine State.raise_kept ?_
  refine State.respond_kept ?_
  exact h

theorem State.answerMq_kept : ∀ {s0 s : State} {m : MqReq} {r : MsResp}, Kept s0 s → Kept s0 (s.answerMq m r) := by
  intro s0 s m r h
  unfold State.answerMq
  extract_lets v1 v2 t3 v4 v5 t6
  clear_value v1
  clear_value v2
  have k7 : Kept s0 t3 := by
    unfold t3
    exact h.same rfl
  clear_value t3
  clear_value v4
  clear_value v5
  have k8 : Kept s0 t6 := by
    unfold t6
    exact k7.same rfl
  clear_value t6
  refine Kept.ite ?_ ?_
  · refine State.dirLineBad_kept ?_
    refine State.respond_kept ?_
    exact k7
  · split
    · refine State.ok_kept ?_
      refine State.putBytes_kept ?_
      exact k7
    · refine Kept.ite ?_ ?_
      · refine State.queueRepairAt_kept ?_
        refine State.lineBad_kept ?_
        exact k7
      · exact h
    · refine Kept.ite ?_ ?_
      · refine State.queueRepairAt_kept ?_
        refine State.lineBad_kept ?_
        exact k7
      · refine State.respond_kept ?_
        exact k7
    · refine Kept.ite ?_ ?_
      · refine State.lineBad_kept ?_
        exact k7
      · refine State.respond_kept ?_
        refine State.putBytes_kept ?_
        exact k8

theorem State.answerInOrder_kept {s0 s : State} {l : List MqReq} (h : Kept s0 s) : Kept s0 (s.answerInOrder l) := by
  induction l generalizing s with
  | nil => exact h
  | cons m l ih =>
    unfold State.answerInOrder
    split
    · exact ih (State.answerMq_kept h)
    · exact h

theorem State.answerLine_kept : ∀ {s0 s : State} {line : Nat}, Kept s0 s → Kept s0 (s.answerLine line) := by
  intro s0 s line h
  unfold State.answerLine
  refine State.answerInOrder_kept ?_
  exact h

theorem State.memResponse_kept : ∀ {s0 s : State} {r : MsResp}, Kept s0 s → Kept s0 (s.memResponse r) := by
  intro s0 s r h
  unfold State.memResponse
  extract_lets t1 v2
  have k3 : Kept s0 t1 := by
    unfold t1
    refine State.noteCorrected_kept ?_
    exact h
  clear_value t1
  clear_value v2
  refine Kept.ite ?_ ?_
  · refine State.updFlt_kept ?_ ?_
    · exact k3
    · intro a4
      rfl
  · split
    · refine Kept.ite ?_ ?_
      · exact k3
      · refine Kept.ite ?_ ?_
        · refine State.dirLineBad_kept ?_
          exact k3
        · refine Kept.ite ?_ ?_
          · refine State.queueRepairAt_kept ?_
            refine State.raise_kept ?_
            exact k3
          · exact k3
    · refine Kept.ite ?_ ?_
      · refine State.answerMq_kept ?_
        exact k3
      · refine State.answerLine_kept ?_
        exact k3.same rfl

theorem State.overdue_kept : ∀ {s0 s : State} {id : BitVec 12}, Kept s0 s → Kept s0 (s.overdue id) := by
  intro s0 s id h
  unfold State.overdue
  extract_lets v1 t2
  clear_value v1
  have k3 : Kept s0 t2 := by
    unfold t2
    split
    · refine State.answerLine_kept ?_
      refine State.lineBad_kept ?_
      exact h.same rfl
    · exact h
  clear_value t2
  refine State.raise_kept ?_
  refine State.updFlt_kept ?_ ?_
  · exact k3
  · intro a9
    rfl

theorem State.updIntake_kept : ∀ {s0 s : State} {i : Fin 64} {f : IntakeS → IntakeS}, Kept s0 s → Kept s0 (s.updIntake i f) := by
  intro s0 s i f h
  unfold State.updIntake
  refine State.updTen_kept ?_
  exact h

theorem State.judgeManifest_kept : ∀ {s0 s : State} {i : Fin 64}, Kept s0 s → Kept s0 (s.judgeManifest i) := by
  intro s0 s i h
  unfold State.judgeManifest
  extract_lets v1 t2
  clear_value v1
  have k3 : Kept s0 t2 := by
    unfold t2
    refine State.raiseT_kept ?_
    refine State.updIntake_kept ?_
    exact h
  clear_value t2
  refine Kept.ite ?_ ?_
  · exact h
  · split
    · exact h
    · extract_lets v9
      clear_value v9
      refine Kept.ite ?_ ?_
      · exact k3
      · refine Kept.ite ?_ ?_
        · exact h
        · refine Kept.ite ?_ ?_
          · refine State.updIntake_kept ?_
            exact h
          · exact k3

theorem State.allocChunk_kept {s0 s t : State} {i : Fin 64} (h : Kept s0 s) (e : s.allocChunk i = some t) : Kept s0 t := by
  unfold State.allocChunk at e
  dsimp only at e
  split at e
  · split at e
    · cases e; exact State.updIntake_kept h
    · cases e
  · cases e

theorem State.nextIntake_kept : ∀ {s0 s : State} {i : Fin 64}, Kept s0 s → Kept s0 (s.nextIntake i) := by
  intro s0 s i h
  unfold State.nextIntake
  refine State.updIntake_kept ?_
  exact h

theorem State.freeChunks_kept : ∀ {s0 s : State} {i : Fin 64} {p : Chunk → Bool}, Kept s0 s → Kept s0 (s.freeChunks i p) := by
  intro s0 s i p h
  unfold State.freeChunks
  extract_lets v1 v2 v3 t4 t5
  clear_value v1
  clear_value v2
  clear_value v3
  have k6 : Kept s0 t4 := by
    unfold t4
    refine State.updTen_kept ?_
    exact h
  clear_value t4
  have k7 : Kept s0 t5 := by
    unfold t5
    refine State.updIntake_kept ?_
    exact k6
  clear_value t5
  refine Kept.ite ?_ ?_
  · exact h
  · refine Kept.ite ?_ ?_
    · refine State.nextIntake_kept ?_
      exact k7
    · exact k7

theorem State.flushIntake_kept : ∀ {s0 s : State} {i : Fin 64} {epoch : Nat}, Kept s0 s → Kept s0 (s.flushIntake i epoch) := by
  intro s0 s i epoch h
  unfold State.flushIntake
  refine State.updIntake_kept ?_
  exact h

theorem State.raiseFlags_kept : ∀ {s0 s : State} {i : Fin 64} {fl : Flags}, Kept s0 s → Kept s0 (s.raiseFlags i fl) := by
  intro s0 s i fl h
  unfold State.raiseFlags
  refine Kept.foldl ?_ ?_
  · exact h
  · intro t1 a2 k3
    extract_lets t4 v5 t6
    have k7 : Kept s0 t4 := by
      unfold t4
      refine State.updSweep_kept ?_
      exact k3
    clear_value t4
    clear_value v5
    have k8 : Kept s0 t6 := by
      unfold t6
      refine State.raiseT_kept ?_
      exact k7
    clear_value t6
    refine Kept.ite ?_ ?_
    · refine Kept.ite ?_ ?_
      · refine State.count_kept ?_
        exact k7
      · refine Kept.ite ?_ ?_
        · refine State.withhold_kept ?_
          exact k8
        · exact k8
    · exact k3

theorem State.stopSweep_kept : ∀ {s0 s : State} {i : Fin 64} {code reason : Nat}, Kept s0 s → Kept s0 (s.stopSweep i code reason) := by
  intro s0 s i code reason h
  unfold State.stopSweep
  refine State.withhold_kept ?_
  refine State.holdSweep_kept ?_
  exact h

theorem State.startRamp_kept : ∀ {s0 s : State}, Kept s0 s → Kept s0 s.startRamp := by
  intro s0 s h
  unfold State.startRamp
  extract_lets v1
  clear_value v1
  refine Kept.ite ?_ ?_
  · exact h
  · exact h.same rfl

theorem State.enterPrep_kept : ∀ {s0 s : State} {i : Fin 64}, Kept s0 s → Kept s0 (s.enterPrep i) := by
  intro s0 s i h
  unfold State.enterPrep
  extract_lets v1 v2 v3 t4 v5 v6 v7 v8 v9 v10 t11
  clear_value v1
  clear_value v2
  clear_value v3
  have k12 : Kept s0 t4 := by
    unfold t4
    refine State.updSweep_kept ?_
    exact h
  clear_value t4
  clear_value v5
  clear_value v6
  clear_value v7
  clear_value v8
  clear_value v9
  clear_value v10
  have k13 : Kept s0 t11 := by
    unfold t11
    refine State.updTen_kept ?_
    refine State.startRamp_kept ?_
    exact h
  clear_value t11
  split
  · extract_lets t19
    have k20 : Kept s0 t19 := by
      unfold t19
      refine Kept.foldl ?_ ?_
      · refine State.raiseT_kept ?_
        exact k12
      · intro t21 a22 k23
        refine State.withhold_kept ?_
        refine State.raiseT_kept ?_
        exact k23
    clear_value t19
    refine State.stopSweep_kept ?_
    exact k20
  · refine State.updSweep_kept ?_
    exact k13

theorem State.passPanel_kept : ∀ {s0 s : State} {i : Fin 64} {q : Nat × Nat}, Kept s0 s → Kept s0 (s.passPanel i q) := by
  intro s0 s i q h
  unfold State.passPanel
  split
  · exact h
  · extract_lets v6 t7
    clear_value v6
    have k8 : Kept s0 t7 := by
      unfold t7
      refine State.setDir_kept ?_
      exact h
    clear_value t7
    refine Kept.ite ?_ ?_
    · exact h
    · refine State.updSweep_kept ?_
      refine State.count_kept ?_
      exact k8

theorem State.passDone_kept : ∀ {s0 s : State} {i : Fin 64} {qs : List (Nat × Nat)}, Kept s0 s → Kept s0 (s.passDone i qs) := by
  intro s0 s i qs h
  unfold State.passDone
  refine Kept.foldl ?_ ?_
  · exact h
  · intro t1 a2 k3
    refine Kept.ite ?_ ?_
    · exact k3
    · refine State.passPanel_kept ?_
      exact k3

theorem State.buildWrite_kept : ∀ {s0 s : State} {i : Fin 64} {c o : Nat} {bs : List Byte}, Kept s0 s → Kept s0 (s.buildWrite i c o bs) := by
  intro s0 s i c o bs h
  unfold State.buildWrite
  refine Kept.foldl ?_ ?_
  · exact h
  · intro t1 a2 k3
    extract_lets v4 v5 v6 v7
    clear_value v4
    clear_value v5
    clear_value v6
    clear_value v7
    refine State.updSweep_kept ?_
    exact k3

theorem State.writePanel_kept : ∀ {s0 s : State} {i : Fin 64} {c p : Nat} {new : List Byte}, Kept s0 s → Kept s0 (s.writePanel i c p new) := by
  intro s0 s i c p new h
  unfold State.writePanel
  split
  · exact h
  · extract_lets v6 t7 t8 t9
    clear_value v6
    have k10 : Kept s0 t7 := by
      unfold t7
      refine State.setKept_kept ?_
      refine State.putBytes_kept ?_
      exact h
    clear_value t7
    have k11 : Kept s0 t8 := by
      unfold t8
      refine State.setDir_kept ?_
      exact k10
    clear_value t8
    have k12 : Kept s0 t9 := by
      unfold t9
      refine State.updSweep_kept ?_
      refine State.count_kept ?_
      exact k11
    clear_value t9
    refine Kept.ite ?_ ?_
    · refine State.formPanel_kept ?_
      exact k12
    · exact k12

theorem State.reserveAll_kept {s0 s t : State} {l : List (Nat × Nat)} (h : Kept s0 s) (e : s.reserveAll l = some t) : Kept s0 t := by
  have : ∀ u, s.reserveAll l = some u → Kept s0 u := by
    unfold State.reserveAll
    refine foldl_wf (fun o : Option State => ∀ u, o = some u → Kept s0 u) _ _ _ (fun u hu => by cases hu; exact h) fun acc q ha u hu => ?_
    split at hu
    · cases hu
    · have k := ha _ rfl
      split at hu
      · cases hu; exact k
      · split at hu
        · cases hu; exact k
        · split at hu
          · cases hu; exact State.reserve_kept k
          · cases hu
  exact this t e

theorem State.stripFault_kept {s0 s t : State} {i : Fin 64} {flt : ReadFault} {l : List (Nat × Nat)} (h : Kept s0 s)
    (e : s.stripFault i flt l = some t) : Kept s0 t := by
  unfold State.stripFault at e
  split at e
  · cases e
    exact State.stopSweep_kept (State.raiseT_kept (Kept.ite (h.same rfl) (h.same rfl)))
  · cases e; exact h
  · cases e; exact State.withhold_kept (State.raiseT_kept (State.updIntake_kept h))
  · cases e; exact State.queueRepairAt_kept (State.raise_kept h)
  · split at e
    · split at e
      · cases e; exact State.digestFail_kept (State.raiseT_kept h)
      · cases e; exact h
    · cases e; exact h
  · cases e
  · cases e

theorem State.freeDoneChunks_kept : ∀ {s0 s : State} {i : Fin 64}, Kept s0 s → Kept s0 (s.freeDoneChunks i) := by
  intro s0 s i h
  unfold State.freeDoneChunks
  extract_lets v1 v2 v3
  clear_value v1
  clear_value v2
  clear_value v3
  refine Kept.ite ?_ ?_
  · refine State.freeChunks_kept ?_
    exact h
  · exact h

theorem State.advanceSweep1_kept : ∀ {s0 s : State} {i : Fin 64}, Kept s0 s → Kept s0 (s.advanceSweep1 i) := by
  intro s0 s i h
  unfold State.advanceSweep1
  extract_lets v1 t2 t3 t4
  clear_value v1
  have k5 : Kept s0 t2 := by
    unfold t2
    refine State.updSweep_kept ?_
    exact h
  clear_value t2
  have k6 : Kept s0 t3 := by
    unfold t3
    refine State.updCommit_kept ?_
    exact k5
  clear_value t3
  have k7 : Kept s0 t4 := by
    unfold t4
    refine Kept.foldl ?_ ?_
    · exact k6
    · intro t8 a9 k10
      split
      · refine State.formMarker_kept ?_
        exact k10
      · exact k10
  clear_value t4
  refine Kept.ite ?_ ?_
  · exact h
  · split
    · refine Kept.ite ?_ ?_
      · exact h
      · split
        · refine State.enterPrep_kept ?_
          exact h
        · refine State.stopSweep_kept ?_
          exact h
        · exact h
    · refine Kept.ite ?_ ?_
      · refine State.updSweep_kept ?_
        exact h
      · exact h
    · refine Kept.ite ?_ ?_
      · refine Kept.ite ?_ ?_
        · refine State.nextIntake_kept ?_
          exact k7
        · exact k7
      · exact h
    · refine State.closeSweep_kept ?_
      exact h
    · exact h

theorem State.advanceSweep_kept : ∀ {s0 s : State} {i : Fin 64}, Kept s0 s → Kept s0 (s.advanceSweep i) := by
  intro s0 s i h
  unfold State.advanceSweep
  refine Kept.foldl ?_ ?_
  · exact h
  · intro t1 a2 k3
    refine State.advanceSweep1_kept ?_
    exact k3

theorem State.beginRecord_kept : ∀ {s0 s : State} {i : Fin 64} {e : Nat} {tr flags : BitVec 7} {intake : List Byte},
  Kept s0 s → Kept s0 (s.beginRecord i e tr flags intake) := by
  intro s0 s i e tr flags intake h
  unfold State.beginRecord
  extract_lets v1 v2
  clear_value v1
  clear_value v2
  refine State.updTen_kept ?_
  exact h

theorem State.mapEntries_kept : ∀ {s0 s : State} {tag : Tag} {f : Entry → Entry}, Kept s0 s → Kept s0 (s.mapEntries tag f) := by
  intro s0 s tag f h
  unfold State.mapEntries
  extract_lets v1
  clear_value v1
  exact h.same rfl

theorem State.moveBank_kept : ∀ {s0 s : State} {i : Fin 64} {afterCommit : Bool}, Kept s0 s → Kept s0 (s.moveBank i afterCommit) := by
  intro s0 s i afterCommit h
  unfold State.moveBank
  extract_lets v1 v2 v3 v4
  clear_value v1
  clear_value v2
  clear_value v3
  clear_value v4
  refine Kept.ite ?_ ?_
  · refine State.raiseT_kept ?_
    refine State.updTen_kept ?_
    exact h
  · exact h

theorem State.standingCauses_kept : ∀ {s0 s : State} {i : Fin 64}, Kept s0 s → Kept s0 (s.standingCauses i) := by
  intro s0 s i h
  unfold State.standingCauses
  extract_lets t1
  have k2 : Kept s0 t1 := by
    unfold t1
    refine Kept.ite ?_ ?_
    · refine State.withhold_kept ?_
      exact h
    · exact h
  clear_value t1
  refine Kept.ite ?_ ?_
  · refine State.withhold_kept ?_
    exact k2
  · exact k2

theorem State.openAttempt_kept : ∀ {s0 s : State} {i : Fin 64}, Kept s0 s → Kept s0 (s.openAttempt i) := by
  intro s0 s i h
  unfold State.openAttempt
  extract_lets v1 t2 t3 t4 t5 t6 t7 t8
  clear_value v1
  have k9 : Kept s0 t2 := by
    unfold t2
    refine State.updCommit_kept ?_
    exact h
  clear_value t2
  have k10 : Kept s0 t3 := by
    unfold t3
    refine State.mapEntries_kept ?_
    exact k9
  clear_value t3
  have k11 : Kept s0 t4 := by
    unfold t4
    refine State.checkArmed_kept ?_
    refine State.moveBank_kept ?_
    exact k10
  clear_value t4
  have k12 : Kept s0 t5 := by
    unfold t5
    refine State.updFox_kept ?_
    exact k11
  clear_value t5
  have k13 : Kept s0 t6 := by
    unfold t6
    refine Kept.foldl ?_ ?_
    · exact k12
    · intro t14 a15 k16
      refine State.updSlot_kept ?_
      exact k16
  clear_value t6
  have k17 : Kept s0 t7 := by
    unfold t7
    refine State.updSweep_kept ?_
    exact k13
  clear_value t7
  have k18 : Kept s0 t8 := by
    unfold t8
    refine State.standingCauses_kept ?_
    refine State.parkDue_kept ?_
    exact k17
  clear_value t8
  refine Kept.ite ?_ ?_
  · refine State.withhold_kept ?_
    exact k18
  · exact k18

theorem State.tryOpen_kept : ∀ {s0 s : State} {i : Fin 64}, Kept s0 s → Kept s0 (s.tryOpen i) := by
  intro s0 s i h
  unfold State.tryOpen
  refine Kept.ite ?_ ?_
  · refine State.openAttempt_kept ?_
    exact h
  · exact h

theorem State.dueOpen_kept : ∀ {s0 s : State} {i : Fin 64} {afterCommit : Bool}, Kept s0 s → Kept s0 (s.dueOpen i afterCommit) := by
  intro s0 s i afterCommit h
  unfold State.dueOpen
  extract_lets t1 v2
  have k3 : Kept s0 t1 := by
    unfold t1
    refine State.updCommit_kept ?_
    exact h
  clear_value t1
  clear_value v2
  refine Kept.ite ?_ ?_
  · refine State.count_kept ?_
    exact k3
  · refine State.tryOpen_kept ?_
    exact k3

theorem State.dropLines_kept : ∀ {s0 s : State} {e : Entry}, Kept s0 s → Kept s0 (s.dropLines e) := by
  intro s0 s e h
  unfold State.dropLines
  extract_lets v1 v2 v3
  clear_value v1
  clear_value v2
  clear_value v3
  exact h.same rfl

theorem State.clearRecords_kept {s0 s : State} {e : Entry} (h : Kept s0 s) : Kept s0 (s.clearRecords e) :=
  State.dropLines_kept h.zeroMem

theorem State.freeRegion_kept : ∀ {s0 s : State} {c : Nat}, Kept s0 s → Kept s0 (s.freeRegion c) := by
  intro s0 s c h
  unfold State.freeRegion
  split
  · refine State.freeEntry_kept ?_
    refine State.clearRecords_kept ?_
    exact h
  · exact h

theorem State.commitRegions_kept : ∀ {s0 s : State} {i : Fin 64} {epoch : Nat}, Kept s0 s → Kept s0 (s.commitRegions i epoch) := by
  intro s0 s i epoch h
  unfold State.commitRegions
  extract_lets v1 t2
  clear_value v1
  have k3 : Kept s0 t2 := by
    unfold t2
    refine Kept.foldl ?_ ?_
    · exact h
    · intro t4 a5 k6
      refine State.freeRegion_kept ?_
      exact k6
  clear_value t2
  refine Kept.foldl ?_ ?_
  · exact k3
  · intro t7 a8 k9
    refine State.updEntry_kept ?_
    exact k9

theorem State.lockstepDue_kept : ∀ {s0 s : State} {i : Fin 64} {epoch : Nat}, Kept s0 s → Kept s0 (s.lockstepDue i epoch) := by
  intro s0 s i epoch h
  unfold State.lockstepDue
  extract_lets v1 v2 t3
  clear_value v1
  clear_value v2
  have k4 : Kept s0 t3 := by
    unfold t3
    exact h.same rfl
  clear_value t3
  refine Kept.ite ?_ ?_
  · exact k4
  · refine State.countN_kept ?_
    exact k4

theorem State.applyCommit_kept : ∀ {s0 s : State} {i : Fin 64}, Kept s0 s → Kept s0 (s.applyCommit i) := by
  intro s0 s i h
  unfold State.applyCommit
  extract_lets v1 v2 v3 t4 t5 t6 t7 t8 t9 t10
  clear_value v1
  clear_value v2
  clear_value v3
  have k11 : Kept s0 t4 := by
    unfold t4
    refine State.updCommit_kept ?_
    exact h
  clear_value t4
  have k12 : Kept s0 t5 := by
    unfold t5
    refine State.commitRegions_kept ?_
    exact k11
  clear_value t5
  have k13 : Kept s0 t6 := by
    unfold t6
    refine State.beginRecord_kept ?_
    exact k12
  clear_value t6
  have k14 : Kept s0 t7 := by
    unfold t7
    refine State.dropSkim_kept ?_
    exact k13
  clear_value t7
  have k15 : Kept s0 t8 := by
    unfold t8
    refine State.updSweep_kept ?_
    exact k14
  clear_value t8
  have k16 : Kept s0 t9 := by
    unfold t9
    refine State.lockstepDue_kept ?_
    refine State.count_kept ?_
    exact k15
  clear_value t9
  have k17 : Kept s0 t10 := by
    unfold t10
    refine Kept.ite ?_ ?_
    · refine State.updTen_kept ?_
      exact k16
    · exact k16
  clear_value t10
  refine State.dueOpen_kept ?_
  exact k17

theorem State.applyAbort_kept : ∀ {s0 s : State} {i : Fin 64} {tr : BitVec 7} {reason : Byte}, Kept s0 s → Kept s0 (s.applyAbort i tr reason) := by
  intro s0 s i tr reason h
  unfold State.applyAbort
  extract_lets v1 t2 t3 t4 t5 t6
  clear_value v1
  have k7 : Kept s0 t2 := by
    unfold t2
    refine State.updCommit_kept ?_
    exact h
  clear_value t2
  have k8 : Kept s0 t3 := by
    unfold t3
    refine State.dropSkim_kept ?_
    exact k7
  clear_value t3
  have k9 : Kept s0 t4 := by
    unfold t4
    refine State.updSweep_kept ?_
    exact k8
  clear_value t4
  have k10 : Kept s0 t5 := by
    unfold t5
    refine State.flushIntake_kept ?_
    exact k9
  clear_value t5
  have k11 : Kept s0 t6 := by
    unfold t6
    refine State.mapEntries_kept ?_
    exact k10
  clear_value t6
  refine State.dueOpen_kept ?_
  refine State.unpark_kept ?_
  refine State.count_kept ?_
  exact k11

theorem State.dropRing_kept : ∀ {s0 s : State} {k : Nat}, Kept s0 s → Kept s0 (s.dropRing k) := by
  intro s0 s k h
  unfold State.dropRing
  extract_lets v1
  clear_value v1
  exact h.same rfl

theorem State.setRing_kept : ∀ {s0 s : State} {i : Fin 64} {k : Nat} {d : RepDesc}, Kept s0 s → Kept s0 (s.setRing i k d) := by
  intro s0 s i k d h
  unfold State.setRing
  extract_lets v1 v2
  clear_value v1
  clear_value v2
  split
  · exact h.same rfl
  · exact h

theorem State.formSett_kept : ∀ {s0 s : State} {o : Option (Fin 64)} {k : Nat} {d : SettDesc} {alloc : Nat},
  Kept s0 s → Kept s0 (s.formSett o k d alloc) := by
  intro s0 s o k d alloc h
  unfold State.formSett
  extract_lets v1 v2 v3 v4 t5 v6 t7 t8
  clear_value v1
  clear_value v2
  clear_value v3
  clear_value v4
  have k9 : Kept s0 t5 := by
    unfold t5
    refine State.dropRing_kept ?_
    exact h
  clear_value t5
  clear_value v6
  have k10 : Kept s0 t7 := by
    unfold t7
    refine State.updSlot_kept ?_
    exact k9
  clear_value t7
  have k11 : Kept s0 t8 := by
    unfold t8
    exact k10.same rfl
  clear_value t8
  split
  · exact k11
  · refine State.updFox_kept ?_
    exact k11.same rfl

theorem State.formReplica_kept : ∀ {s0 s : State} {o : Option (Fin 64)} {k : Nat} {d : RepDesc}, Kept s0 s → Kept s0 (s.formReplica o k d) := by
  intro s0 s o k d h
  unfold State.formReplica
  extract_lets v1 v2 t3 t4 t5 t6
  clear_value v1
  clear_value v2
  have k7 : Kept s0 t3 := by
    unfold t3
    refine State.dropRing_kept ?_
    exact h
  clear_value t3
  have k8 : Kept s0 t4 := by
    unfold t4
    split
    · refine State.setRing_kept ?_
      exact k7
    · exact k7
  clear_value t4
  have k12 : Kept s0 t5 := by
    unfold t5
    refine State.updSlot_kept ?_
    exact k8
  clear_value t5
  have k13 : Kept s0 t6 := by
    unfold t6
    exact k12.same rfl
  clear_value t6
  split
  · exact k13
  · refine State.updFox_kept ?_
    exact k13

theorem State.dropSlot_kept : ∀ {s0 s : State} {k : Nat}, Kept s0 s → Kept s0 (s.dropSlot k) := by
  intro s0 s k h
  unfold State.dropSlot
  extract_lets t1
  have k2 : Kept s0 t1 := by
    unfold t1
    refine State.updSlot_kept ?_
    refine State.dropRing_kept ?_
    exact h
  clear_value t1
  exact k2.same rfl

theorem State.formSlot_kept : ∀ {s0 s : State} {o : Option (Fin 64)} {r : Record} {k : Nat}, Kept s0 s → Kept s0 (s.formSlot o r k) := by
  intro s0 s o r k h
  unfold State.formSlot
  split
  · split
    · refine State.formSett_kept ?_
      exact h
    · refine State.dropSlot_kept ?_
      exact h
  · split
    · refine State.formReplica_kept ?_
      exact h
    · refine State.dropSlot_kept ?_
      exact h
  · refine State.dropSlot_kept ?_
    exact h

theorem State.clearParity_kept {s0 s : State} {d : SettDesc} (h : Kept s0 s) : Kept s0 (s.clearParity d) := h.zeroMem

theorem State.syncCands_kept : ∀ {s0 s : State} {i : Fin 64}, Kept s0 s → Kept s0 (s.syncCands i) := by
  intro s0 s i h
  unfold State.syncCands
  extract_lets v1 v2 v3
  clear_value v1
  clear_value v2
  clear_value v3
  exact h.same rfl

theorem State.breakSlot_kept : ∀ {s0 s : State} {k : Nat}, Kept s0 s → Kept s0 (s.breakSlot k) := by
  intro s0 s k h
  unfold State.breakSlot
  extract_lets t1 v2 t3 v4 t5 t6
  have k7 : Kept s0 t1 := by
    unfold t1
    refine State.updSlot_kept ?_
    exact h
  clear_value t1
  clear_value v2
  have k8 : Kept s0 t3 := by
    unfold t3
    exact k7.same rfl
  clear_value t3
  clear_value v4
  have k9 : Kept s0 t5 := by
    unfold t5
    refine State.raise_kept ?_
    exact k8
  clear_value t5
  have k10 : Kept s0 t6 := by
    unfold t6
    refine Kept.foldl ?_ ?_
    · exact k9
    · intro t11 a12 k13
      refine State.contain_kept ?_
      exact k13
  clear_value t6
  split
  · refine State.withhold_kept ?_
    exact k10
  · exact k10

theorem State.judgeSlot_kept : ∀ {s0 s : State} {k : Nat}, Kept s0 s → Kept s0 (s.judgeSlot k) := by
  intro s0 s k h
  unfold State.judgeSlot
  extract_lets v1
  clear_value v1
  split
  · refine Kept.ite ?_ ?_
    · refine State.breakSlot_kept ?_
      exact h
    · refine State.updSlot_kept ?_
      exact h
  · refine Kept.ite ?_ ?_
    · refine State.breakSlot_kept ?_
      exact h
    · refine State.updSlot_kept ?_
      exact h
  · exact h

theorem State.syncRanks_kept : ∀ {s0 s : State} {i : Fin 64}, Kept s0 s → Kept s0 (s.syncRanks i) := by
  intro s0 s i h
  unfold State.syncRanks
  refine Kept.foldl ?_ ?_
  · exact h
  · intro t1 a2 k3
    extract_lets v4 v5 v6 v7 t8
    clear_value v4
    clear_value v5
    clear_value v6
    clear_value v7
    have k9 : Kept s0 t8 := by
      unfold t8
      refine State.updSlot_kept ?_
      exact k3
    clear_value t8
    refine Kept.ite ?_ ?_
    · exact k3
    · refine Kept.ite ?_ ?_
      · refine State.judgeSlot_kept ?_
        exact k9
      · exact k9

theorem State.updRs_kept : ∀ {s0 s : State} {i : Fin 64} {f : RsTenS → RsTenS}, Kept s0 s → Kept s0 (s.updRs i f) := by
  intro s0 s i f h
  unfold State.updRs
  refine State.updTen_kept ?_
  exact h

theorem State.enterSeal_kept : ∀ {s0 s : State} {i : Fin 64}, Kept s0 s → Kept s0 (s.enterSeal i) := by
  intro s0 s i h
  unfold State.enterSeal
  refine State.standingCauses_kept ?_
  refine State.updCommit_kept ?_
  exact h

theorem State.syncBoundary_kept : ∀ {s0 s : State} {i : Fin 64}, Kept s0 s → Kept s0 (s.syncBoundary i) := by
  intro s0 s i h
  unfold State.syncBoundary
  extract_lets v1
  clear_value v1
  refine Kept.ite ?_ ?_
  · refine State.updRs_kept ?_
    exact h
  · exact h

theorem State.resliceFault_kept : ∀ {s0 s : State} {i : Fin 64} {code detail : Nat}, Kept s0 s → Kept s0 (s.resliceFault i code detail) := by
  intro s0 s i code detail h
  unfold State.resliceFault
  refine State.withhold_kept ?_
  refine State.raiseT_kept ?_
  exact h

theorem State.noteSource_kept : ∀ {s0 s : State} {i : Fin 64} {a : Addr} {n : Nat}, Kept s0 s → Kept s0 (s.noteSource i a n) := by
  intro s0 s i a n h
  unfold State.noteSource
  extract_lets v1 v2 v3 v4 t5
  clear_value v1
  clear_value v2
  clear_value v4
  have k6 : Kept s0 t5 := by
    unfold t5
    refine State.updRs_kept ?_
    exact h
  clear_value t5
  refine Kept.ite ?_ ?_
  · refine State.resliceFault_kept ?_
    exact h
  · refine Kept.ite ?_ ?_
    · exact h
    · refine Kept.ite ?_ ?_
      · refine State.resliceFault_kept ?_
        exact k6
      · exact k6

theorem State.arrive_kept : ∀ {s0 s : State} {i : Fin 64} {src : Addr} {coord : Nat} {bytes : List Byte},
  Kept s0 s → Kept s0 (s.arrive i src coord bytes) := by
  intro s0 s i src coord bytes h
  unfold State.arrive
  split
  · refine State.raiseT_kept ?_
    exact h
  · extract_lets v7 v8 v9 v10 t11
    clear_value v7
    clear_value v8
    clear_value v9
    clear_value v10
    have k12 : Kept s0 t11 := by
      unfold t11
      refine State.setDir_kept ?_
      refine State.setKept_kept ?_
      refine State.putBytes_kept ?_
      exact h
    clear_value t11
    refine Kept.ite ?_ ?_
    · refine State.count_kept ?_
      exact h
    · refine State.updRs_kept ?_
      exact k12

theorem State.sendMoves_kept : ∀ {s0 s : State} {i : Fin 64} {dest : Addr}, Kept s0 s → Kept s0 (s.sendMoves i dest) := by
  intro s0 s i dest h
  unfold State.sendMoves
  refine Kept.foldl ?_ ?_
  · exact h
  · intro t1 a2 k3
    extract_lets v4
    clear_value v4
    refine Kept.ite ?_ ?_
    · refine State.arrive_kept ?_
      exact k3
    · refine State.send_kept ?_
      exact k3

theorem State.beginMoves_kept : ∀ {s0 s : State} {i : Fin 64}, Kept s0 s → Kept s0 (s.beginMoves i) := by
  intro s0 s i h
  unfold State.beginMoves
  extract_lets v1 t2
  clear_value v1
  have k3 : Kept s0 t2 := by
    unfold t2
    refine State.updRs_kept ?_
    exact h
  clear_value t2
  refine Kept.foldl ?_ ?_
  · exact k3
  · intro t4 a5 k6
    extract_lets v7
    clear_value v7
    refine Kept.ite ?_ ?_
    · refine State.sendMoves_kept ?_
      refine State.noteSource_kept ?_
      exact k6
    · refine State.sendMoves_kept ?_
      refine State.send_kept ?_
      exact k6

theorem State.takeShadow_kept : ∀ {s0 s : State} {i : Fin 64}, Kept s0 s → Kept s0 (s.takeShadow i) := by
  intro s0 s i h
  unfold State.takeShadow
  extract_lets v1 v2
  clear_value v1
  clear_value v2
  split
  · extract_lets t8 v9 t10
    have k11 : Kept s0 t8 := by
      unfold t8
      exact h.same rfl
    clear_value t8
    clear_value v9
    have k12 : Kept s0 t10 := by
      unfold t10
      refine State.updTen_kept ?_
      exact k11
    clear_value t10
    refine Kept.ite ?_ ?_
    · exact h
    · refine Kept.foldl ?_ ?_
      · exact k12
      · intro t13 a14 k15
        extract_lets v16 t17
        clear_value v16
        have k18 : Kept s0 t17 := by
          unfold t17
          refine State.formSlot_kept ?_
          exact k15
        clear_value t17
        refine State.updSlot_kept ?_
        exact k18
  · exact h

theorem State.enterBoundary_kept : ∀ {s0 s : State} {i : Fin 64}, Kept s0 s → Kept s0 (s.enterBoundary i) := by
  intro s0 s i h
  unfold State.enterBoundary
  extract_lets v1 v2 t3 t4 t5 t6
  clear_value v1
  clear_value v2
  have k7 : Kept s0 t3 := by
    unfold t3
    refine State.syncCands_kept ?_
    refine State.updCommit_kept ?_
    refine State.flushIntake_kept ?_
    exact h
  clear_value t3
  have k8 : Kept s0 t4 := by
    unfold t4
    refine State.updRs_kept ?_
    refine State.takeShadow_kept ?_
    exact k7
  clear_value t4
  have k9 : Kept s0 t5 := by
    unfold t5
    refine State.enterSeal_kept ?_
    exact k8
  clear_value t5
  have k10 : Kept s0 t6 := by
    unfold t6
    refine Kept.ite ?_ ?_
    · refine State.withhold_kept ?_
      exact k9
    · exact k9
  clear_value t6
  refine State.syncBoundary_kept ?_
  refine State.beginMoves_kept ?_
  exact k10

theorem State.sealEntry_kept : ∀ {s0 s : State} {c b : Nat}, Kept s0 s → Kept s0 (s.sealEntry c b) := by
  intro s0 s c b h
  unfold State.sealEntry
  split
  · exact h
  · extract_lets t6 v7
    have k8 : Kept s0 t6 := by
      unfold t6
      refine Kept.foldl ?_ ?_
      · exact h
      · intro t9 a10 k11
        extract_lets v12 v13
        clear_value v12
        clear_value v13
        refine State.setDir_kept ?_
        refine State.setKept_kept ?_
        exact k11
    clear_value t6
    clear_value v7
    refine State.setEntry_kept ?_
    exact k8

theorem State.applySeal_kept : ∀ {s0 s : State} {i : Fin 64}, Kept s0 s → Kept s0 (s.applySeal i) := by
  intro s0 s i h
  unfold State.applySeal
  extract_lets v1 v2 t3 t4 t5 t6 v7 t8 t9 t10
  clear_value v1
  clear_value v2
  have k11 : Kept s0 t3 := by
    unfold t3
    refine Kept.foldl ?_ ?_
    · exact h
    · intro t12 a13 k14
      refine State.sealEntry_kept ?_
      exact k14
  clear_value t3
  have k15 : Kept s0 t4 := by
    unfold t4
    refine State.updIntake_kept ?_
    exact k11
  clear_value t4
  have k16 : Kept s0 t5 := by
    unfold t5
    refine Kept.foldl ?_ ?_
    · exact k15
    · intro t17 a18 k19
      refine State.updEntry_kept ?_
      exact k19
  clear_value t5
  have k20 : Kept s0 t6 := by
    unfold t6
    refine State.beginRecord_kept ?_
    exact k16
  clear_value t6
  clear_value v7
  have k21 : Kept s0 t8 := by
    unfold t8
    refine Kept.ite ?_ ?_
    · exact k20.same rfl
    · exact k20
  clear_value t8
  have k22 : Kept s0 t9 := by
    unfold t9
    refine State.updRs_kept ?_
    exact k21
  clear_value t9
  have k23 : Kept s0 t10 := by
    unfold t10
    refine State.updCommit_kept ?_
    exact k22
  clear_value t10
  refine State.dueOpen_kept ?_
  refine State.lockstepDue_kept ?_
  refine State.raiseT_kept ?_
  exact k23

theorem State.dropFrames_kept : ∀ {s0 s : State} {tag : Tag}, Kept s0 s → Kept s0 (s.dropFrames tag) := by
  intro s0 s tag h
  unfold State.dropFrames
  extract_lets v1 v2
  clear_value v2
  exact h.same rfl

theorem State.tearDown_kept : ∀ {s0 s : State} {i : Fin 64}, Kept s0 s → Kept s0 (s.tearDown i) := by
  intro s0 s i h
  unfold State.tearDown
  extract_lets v1 v2 v3 t4 t5 t6 t7 v8 v9 v10 t11
  clear_value v1
  clear_value v2
  clear_value v3
  have k12 : Kept s0 t4 := by
    unfold t4
    refine State.dropFrames_kept ?_
    refine State.dropSkim_kept ?_
    exact h
  clear_value t4
  have k13 : Kept s0 t5 := by
    unfold t5
    refine Kept.foldl ?_ ?_
    · exact k12
    · intro t14 a15 k16
      refine State.updSlot_kept ?_
      exact k16
  clear_value t5
  have k17 : Kept s0 t6 := by
    unfold t6
    refine State.releaseParked_kept ?_ ?_
    · exact k13
    · intro t18 a19 k20
      refine State.raise0_kept ?_
      exact k20
  clear_value t6
  have k21 : Kept s0 t7 := by
    unfold t7
    refine State.mapEntries_kept ?_
    exact k17
  clear_value t7
  clear_value v8
  clear_value v9
  clear_value v10
  have k22 : Kept s0 t11 := by
    unfold t11
    exact k21.same rfl
  clear_value t11
  refine State.checkArmed_kept ?_
  refine State.moveNow_kept ?_
  refine State.updTen_kept ?_
  exact k22

theorem State.unshadow_kept : ∀ {s0 s : State} {i : Fin 64} {k : Nat}, Kept s0 s → Kept s0 (s.unshadow i k) := by
  intro s0 s i k h
  unfold State.unshadow
  extract_lets v1 v2 v3
  clear_value v1
  clear_value v2
  have k4 : ∀ x1 x2, Kept s0 x1 → Kept s0 (v3 x1 x2) := by
    intro t5 a6 k7
    unfold v3
    refine Kept.ite ?_ ?_
    · refine State.clearParity_kept ?_
      exact k7
    · exact k7
  clear_value v3
  split
  · refine State.updSlot_kept ?_
    refine State.formSett_kept ?_
    refine k4 _ _ ?_
    exact h
  · refine State.formReplica_kept ?_
    refine Kept.ite ?_ ?_
    · refine State.clearParity_kept ?_
      exact h
    · exact h
  · refine State.dropSlot_kept ?_
    refine Kept.ite ?_ ?_
    · refine State.clearParity_kept ?_
      exact h
    · exact h
  · exact h

theorem State.cancelReslice_kept : ∀ {s0 s : State} {i : Fin 64}, Kept s0 s → Kept s0 (s.cancelReslice i) := by
  intro s0 s i h
  unfold State.cancelReslice
  extract_lets v1 t2 t3 t4 v5 t6 t7 t8 t9 t10
  clear_value v1
  have k11 : Kept s0 t2 := by
    unfold t2
    refine State.raiseT_kept ?_
    exact h
  clear_value t2
  have k12 : Kept s0 t3 := by
    unfold t3
    refine Kept.foldl ?_ ?_
    · exact k11
    · intro t13 a14 k15
      refine State.freeRegion_kept ?_
      exact k15
  clear_value t3
  have k16 : Kept s0 t4 := by
    unfold t4
    refine Kept.ite ?_ ?_
    · refine Kept.foldl ?_ ?_
      · exact k12
      · intro t17 a18 k19
        refine State.unshadow_kept ?_
        exact k19
    · exact k12
  clear_value t4
  clear_value v5
  have k20 : Kept s0 t6 := by
    unfold t6
    refine Kept.ite ?_ ?_
    · split
      · extract_lets t24 v25
        have k26 : Kept s0 t24 := by
          unfold t24
          refine State.updTen_kept ?_
          exact k16
        clear_value t24
        clear_value v25
        exact k26.same rfl
      · exact k16
    · exact k16
  clear_value t6
  have k29 : Kept s0 t7 := by
    unfold t7
    refine State.updCommit_kept ?_
    exact k20
  clear_value t7
  have k30 : Kept s0 t8 := by
    unfold t8
    refine State.syncCands_kept ?_
    exact k29
  clear_value t8
  have k31 : Kept s0 t9 := by
    unfold t9
    refine State.updRs_kept ?_
    exact k30
  clear_value t9
  have k32 : Kept s0 t10 := by
    unfold t10
    refine State.updCommit_kept ?_
    exact k31
  clear_value t10
  refine Kept.ite ?_ ?_
  · refine State.tearDown_kept ?_
    exact k30
  · refine State.dueOpen_kept ?_
    exact k32

theorem State.abortSeal_kept : ∀ {s0 s : State} {i : Fin 64}, Kept s0 s → Kept s0 (s.abortSeal i) := by
  intro s0 s i h
  unfold State.abortSeal
  extract_lets t1
  have k2 : Kept s0 t1 := by
    unfold t1
    refine State.count_kept ?_
    exact h
  clear_value t1
  refine Kept.ite ?_ ?_
  · refine State.updCommit_kept ?_
    refine State.updRs_kept ?_
    exact k2
  · refine State.cancelReslice_kept ?_
    exact k2

theorem State.updBadger_kept : ∀ {s0 s : State} {f : BadgerS → BadgerS}, Kept s0 s → Kept s0 (s.updBadger f) := by
  intro s0 s f h
  unfold State.updBadger
  exact h.same rfl

theorem State.updBg_kept : ∀ {s0 s : State} {i : Fin 64} {f : BgTenS → BgTenS}, Kept s0 s → Kept s0 (s.updBg i f) := by
  intro s0 s i f h
  unfold State.updBg
  refine State.updTen_kept ?_
  exact h

theorem State.startRun_kept : ∀ {s0 s : State} {r : Run}, Kept s0 s → Kept s0 (s.startRun r) := by
  intro s0 s r h
  unfold State.startRun
  extract_lets t1
  have k2 : Kept s0 t1 := by
    unfold t1
    refine State.updBadger_kept ?_
    exact h
  clear_value t1
  refine Kept.foldl ?_ ?_
  · exact k2
  · intro t3 a4 k5
    refine State.send_kept ?_
    exact k5

theorem State.sendRun_kept : ∀ {s0 s : State} {r : Run}, Kept s0 s → Kept s0 (s.sendRun r) := by
  intro s0 s r h
  unfold State.sendRun
  refine Kept.ite ?_ ?_
  · refine State.startRun_kept ?_
    exact h
  · refine State.updBadger_kept ?_
    exact h

theorem State.rerequest_kept : ∀ {s0 s : State} {r : Run} {epoch : Nat}, Kept s0 s → Kept s0 (s.rerequest r epoch) := by
  intro s0 s r epoch h
  unfold State.rerequest
  extract_lets t1
  have k2 : Kept s0 t1 := by
    unfold t1
    refine State.updBadger_kept ?_
    exact h
  clear_value t1
  refine Kept.foldl ?_ ?_
  · exact k2
  · intro t3 a4 k5
    extract_lets v6 v7
    clear_value v6
    clear_value v7
    refine Kept.foldl ?_ ?_
    · exact k5
    · intro t8 a9 k10
      refine State.sendRun_kept ?_
      exact k10

theorem State.sendRecord_kept : ∀ {s0 s : State} {i : Fin 64} {c : Completion}, Kept s0 s → Kept s0 (s.sendRecord i c) := by
  intro s0 s i c h
  unfold State.sendRecord
  split
  · exact h
  · refine State.send_kept ?_
    exact h

theorem State.beginRecordOf_kept : ∀ {s0 s : State} {i : Fin 64} {c : Completion}, Kept s0 s → Kept s0 (s.beginRecordOf i c) := by
  intro s0 s i c h
  unfold State.beginRecordOf
  refine State.sendRecord_kept ?_
  refine State.updBg_kept ?_
  exact h

theorem State.bgSettle_kept : ∀ {s0 s : State} {i : Fin 64}, Kept s0 s → Kept s0 (s.bgSettle i) := by
  intro s0 s i h
  unfold State.bgSettle
  extract_lets v1 t2 v3 v4 v5 t6
  have k7 : Kept s0 t2 := by
    unfold t2
    refine Kept.foldl ?_ ?_
    · exact h
    · intro t8 a9 k10
      extract_lets v11 v12 v13
      clear_value v11
      clear_value v12
      clear_value v13
      refine Kept.ite ?_ ?_
      · exact k10
      · refine State.beginRecordOf_kept ?_
        exact k10
  clear_value t2
  clear_value v4
  clear_value v5
  have k14 : Kept s0 t6 := by
    unfold t6
    refine State.raiseT_kept ?_
    refine State.updBg_kept ?_
    exact k7
  clear_value t6
  refine Kept.ite ?_ ?_
  · exact h
  · refine Kept.ite ?_ ?_
    · refine State.updBg_kept ?_
      exact k7
    · refine Kept.ite ?_ ?_
      · refine State.beginRecordOf_kept ?_
        exact k14
      · refine Kept.ite ?_ ?_
        · refine State.updBg_kept ?_
          exact k7
        · refine State.updBg_kept ?_
          exact k7

theorem State.dropPanel_kept : ∀ {s0 s : State} {r : Run} {j : Nat}, Kept s0 s → Kept s0 (s.dropPanel r j) := by
  intro s0 s r j h
  unfold State.dropPanel
  refine State.updBadger_kept ?_
  exact h

theorem State.repairDone_kept : ∀ {s0 s : State} {c : Nat}, Kept s0 s → Kept s0 (s.repairDone c) := by
  intro s0 s c h
  unfold State.repairDone
  extract_lets v1
  clear_value v1
  split
  · extract_lets v5 v6
    clear_value v5
    clear_value v6
    refine Kept.ite ?_ ?_
    · refine State.updBadger_kept ?_
      refine State.setEntry_kept ?_
      exact h
    · exact h
  · exact h

theorem State.countVerified_kept : ∀ {s0 s : State} {r : Run} {panel : Nat} {x : Word}, Kept s0 s → Kept s0 (s.countVerified r panel x) := by
  intro s0 s r panel x h
  unfold State.countVerified
  extract_lets v1 v2 t3 v4 v5 v6 v7 t8
  clear_value v1
  clear_value v2
  have k9 : Kept s0 t3 := by
    unfold t3
    refine State.updBadger_kept ?_
    refine State.count_kept ?_
    exact h
  clear_value t3
  clear_value v4
  clear_value v5
  clear_value v6
  clear_value v7
  have k10 : Kept s0 t8 := by
    unfold t8
    refine Kept.ite ?_ ?_
    · refine State.setKept_kept ?_
      refine State.putBytes_kept ?_
      exact k9
    · exact k9
  clear_value t8
  split
  · refine State.updSlot_kept ?_
    refine State.updRs_kept ?_
    exact k9
  · refine State.updSlot_kept ?_
    exact k10
  · split
    · refine State.updBg_kept ?_
      exact k9
    · exact k9
  · refine State.updBadger_kept ?_
    exact k9
  · split
    · refine State.repairDone_kept ?_
      refine State.updBadger_kept ?_
      exact k9
    · exact k9

theorem State.doubt_kept : ∀ {s0 s : State} {r : Run} {panel : Nat}, Kept s0 s → Kept s0 (s.doubt r panel) := by
  intro s0 s r panel h
  unfold State.doubt
  extract_lets v1 v2 t3 t4 t5 v6
  clear_value v1
  clear_value v2
  have k7 : Kept s0 t3 := by
    unfold t3
    refine State.updBadger_kept ?_
    exact h
  clear_value t3
  have k8 : Kept s0 t4 := by
    unfold t4
    refine State.raiseT_kept ?_
    exact k7
  clear_value t4
  have k9 : Kept s0 t5 := by
    unfold t5
    refine State.raiseT_kept ?_
    refine State.updBadger_kept ?_
    exact h
  clear_value t5
  clear_value v6
  refine Kept.ite ?_ ?_
  · refine Kept.ite ?_ ?_
    · refine State.withhold_kept ?_
      exact k8
    · exact k8
  · refine Kept.foldl ?_ ?_
    · exact k9
    · intro t10 a11 k12
      refine State.sendRun_kept ?_
      exact k12

theorem State.judgePanel_kept : ∀ {s0 s : State} {r : Run} {j : Nat}, Kept s0 s → Kept s0 (s.judgePanel r j) := by
  intro s0 s r j h
  unfold State.judgePanel
  extract_lets v1 t2
  clear_value v1
  have k3 : Kept s0 t2 := by
    unfold t2
    refine State.dropPanel_kept ?_
    exact h
  clear_value t2
  split
  · exact h
  · extract_lets v9
    clear_value v9
    refine Kept.ite ?_ ?_
    · exact h
    · split
      · exact h
      · refine Kept.ite ?_ ?_
        · split
          · exact k3
          · extract_lets t22
            have k23 : Kept s0 t22 := by
              unfold t22
              refine State.updBg_kept ?_
              exact k3
            clear_value t22
            refine State.bgSettle_kept ?_
            exact k23
        · split
          · exact h
          · extract_lets t29 t30 t31
            have k32 : Kept s0 t29 := by
              unfold t29
              refine State.putBytes_kept ?_
              refine State.dropPanel_kept ?_
              exact h
            clear_value t29
            have k33 : Kept s0 t30 := by
              unfold t30
              refine State.setKept_kept ?_
              exact k32
            clear_value t30
            have k34 : Kept s0 t31 := by
              unfold t31
              refine Kept.ite ?_ ?_
              · refine State.countVerified_kept ?_
                exact k33
              · refine State.doubt_kept ?_
                exact k33
            clear_value t31
            refine State.bgSettle_kept ?_
            exact k34

theorem State.updRunPanel_kept : ∀ {s0 s : State} {r : Run} {j : Nat} {f : RunPanel → RunPanel}, Kept s0 s → Kept s0 (s.updRunPanel r j f) := by
  intro s0 s r j f h
  unfold State.updRunPanel
  extract_lets v1 t2
  clear_value v1
  have k3 : Kept s0 t2 := by
    unfold t2
    refine State.updBadger_kept ?_
    exact h
  clear_value t2
  refine State.judgePanel_kept ?_
  exact k3

theorem State.sendParts_kept : ∀ {s0 s : State} {h : HelpRun}, Kept s0 s → Kept s0 (s.sendParts h) := by
  intro s0 s h h_3
  unfold State.sendParts
  extract_lets v1 v2 t3
  clear_value v1
  clear_value v2
  have k4 : Kept s0 t3 := by
    unfold t3
    refine State.updBadger_kept ?_
    exact h_3
  clear_value t3
  refine Kept.foldl ?_ ?_
  · exact k4
  · intro t5 a6 k7
    refine State.send_kept ?_
    exact k7

theorem State.sendDigests_kept : ∀ {s0 s : State} {h : HelpRun} {ds : List Word}, Kept s0 s → Kept s0 (s.sendDigests h ds) := by
  intro s0 s h ds h_4
  unfold State.sendDigests
  refine State.send_kept ?_
  exact h_4

theorem State.gfPanels_kept : ∀ {s0 s : State} {n : Nat}, Kept s0 s → Kept s0 (s.gfPanels n) := by
  intro s0 s n h
  unfold State.gfPanels
  refine Kept.ite ?_ ?_
  · exact h
  · refine State.countN_kept ?_
    exact h

theorem State.fillRun_kept : ∀ {s0 s : State} {h : HelpRun} {r : Nat}, Kept s0 s → Kept s0 (s.fillRun h r) := by
  intro s0 s h r h_4
  unfold State.fillRun
  extract_lets v1 v2 v3 v4 v5 t6
  clear_value v1
  clear_value v2
  clear_value v3
  clear_value v4
  clear_value v5
  have k7 : Kept s0 t6 := by
    unfold t6
    refine State.updBadger_kept ?_
    refine State.gfPanels_kept ?_
    exact h_4
  clear_value t6
  refine State.sendParts_kept ?_
  refine State.sendDigests_kept ?_
  exact k7

theorem State.fillHeld_kept : ∀ {s0 s : State} {i : Fin 64}, Kept s0 s → Kept s0 (s.fillHeld i) := by
  intro s0 s i h
  unfold State.fillHeld
  refine Kept.foldl ?_ ?_
  · exact h
  · intro t1 a2 k3
    split
    · refine Kept.ite ?_ ?_
      · refine State.fillRun_kept ?_
        exact k3
      · exact k3
    · exact k3

theorem State.badgerCommit_kept : ∀ {s0 s : State} {i : Fin 64}, Kept s0 s → Kept s0 (s.badgerCommit i) := by
  intro s0 s i h
  unfold State.badgerCommit
  extract_lets v1 t2 t3 v4 v5
  clear_value v1
  have k6 : Kept s0 t2 := by
    unfold t2
    refine State.updBadger_kept ?_
    exact h
  clear_value t2
  have k7 : Kept s0 t3 := by
    unfold t3
    refine State.updBg_kept ?_
    exact k6
  clear_value t3
  clear_value v4
  have k8 : ∀ x1 x2, Kept s0 x1 → Kept s0 (v5 x1 x2) := by
    intro t9 a10 k11
    unfold v5
    refine State.updBadger_kept ?_
    exact k11
  clear_value v5
  refine State.bgSettle_kept ?_
  refine Kept.foldl ?_ ?_
  · exact k7
  · intro t12 a13 k14
    refine Kept.ite ?_ ?_
    · refine k8 _ _ ?_
      exact k14
    · refine State.rerequest_kept ?_
      exact k14

theorem State.targetSealed_kept : ∀ {s0 s : State} {i : Fin 64}, Kept s0 s → Kept s0 (s.targetSealed i) := by
  intro s0 s i h
  unfold State.targetSealed
  extract_lets v1
  clear_value v1
  refine Kept.ite ?_ ?_
  · refine State.bgSettle_kept ?_
    refine State.updBg_kept ?_
    exact h
  · exact h

theorem State.endRender_kept : ∀ {s0 s : State} {i : Fin 64}, Kept s0 s → Kept s0 (s.endRender i) := by
  intro s0 s i h
  unfold State.endRender
  extract_lets v1 v2
  clear_value v1
  refine State.updBadger_kept ?_
  exact h

theorem State.retryRepairs_kept : ∀ {s0 s : State} {waits : List (Nat × Bool × Nat)}, Kept s0 s → Kept s0 (s.retryRepairs waits) := by
  intro s0 s waits h
  unfold State.retryRepairs
  refine State.updBadger_kept ?_
  exact h

theorem State.badgerGeneration_kept : ∀ {s0 s : State} {i : Fin 64}, Kept s0 s → Kept s0 (s.badgerGeneration i) := by
  intro s0 s i h
  unfold State.badgerGeneration
  extract_lets t1 v2
  have k3 : Kept s0 t1 := by
    unfold t1
    refine State.updBadger_kept ?_
    exact h
  clear_value t1
  clear_value v2
  refine State.bgSettle_kept ?_
  refine Kept.foldl ?_ ?_
  · exact k3
  · intro t4 a5 k6
    refine State.rerequest_kept ?_
    exact k6

theorem State.setCredit_kept : ∀ {s0 s : State} {i : Fin 64} {c : Credit}, Kept s0 s → Kept s0 (s.setCredit i c) := by
  intro s0 s i c h
  unfold State.setCredit
  refine State.updCommit_kept ?_
  exact h

theorem State.noteChild_kept : ∀ {s0 s : State} {i : Fin 64} {role : Fin 3} {a : Addr} {child : Nat}, Kept s0 s → Kept s0 (s.noteChild i role a child) := by
  intro s0 s i role a child h
  unfold State.noteChild
  refine State.updCommit_kept ?_
  exact h

theorem State.noteSubtree_kept : ∀ {s0 s : State} {i : Fin 64} {role : Fin 3}, Kept s0 s → Kept s0 (s.noteSubtree i role) := by
  intro s0 s i role h
  unfold State.noteSubtree
  refine State.updCommit_kept ?_
  exact h

theorem State.noteOwn_kept : ∀ {s0 s : State} {i : Fin 64} {role : Fin 3} {a : Addr} {child : Option Nat} {full : Bool},
  Kept s0 s → Kept s0 (s.noteOwn i role a child full) := by
  intro s0 s i role a child full h
  unfold State.noteOwn
  extract_lets v1 t2
  clear_value v1
  have k3 : Kept s0 t2 := by
    unfold t2
    refine State.updCommit_kept ?_
    exact h
  clear_value t2
  split
  · refine Kept.ite ?_ ?_
    · refine State.noteChild_kept ?_
      exact k3
    · exact k3
  · exact k3

theorem State.noteLate_kept : ∀ {s0 s : State} {i : Fin 64} {job : Bool} {idx : Nat} {a : Addr} {late : Bool},
  Kept s0 s → Kept s0 (s.noteLate i job idx a late) := by
  intro s0 s i job idx a late h
  unfold State.noteLate
  extract_lets v1 v2 v3 v4 t5
  clear_value v1
  clear_value v2
  clear_value v3
  clear_value v4
  have k6 : Kept s0 t5 := by
    unfold t5
    refine State.updCommit_kept ?_
    exact h
  clear_value t5
  refine Kept.ite ?_ ?_
  · refine State.raiseT_kept ?_
    exact k6
  · exact k6

theorem State.noteLates_kept : ∀ {s0 s : State} {i : Fin 64}, Kept s0 s → Kept s0 (s.noteLates i) := by
  intro s0 s i h
  unfold State.noteLates
  extract_lets v1 v2 t3 t4
  clear_value v1
  have k5 : ∀ x1 x2 x3, Kept s0 x1 → Kept s0 (v2 x1 x2 x3) := by
    intro t6 a7 a8 k9
    unfold v2
    refine Kept.foldl ?_ ?_
    · exact k9
    · intro t10 a11 k12
      refine State.noteLate_kept ?_
      exact k12
  clear_value v2
  have k13 : Kept s0 t3 := by
    unfold t3
    refine Kept.ite ?_ ?_
    · refine Kept.foldl ?_ ?_
      · exact h
      · intro t14 a15 k16
        refine State.noteLate_kept ?_
        exact k16
    · exact h
  clear_value t3
  have k17 : Kept s0 t4 := by
    unfold t4
    refine Kept.ite ?_ ?_
    · refine k5 _ _ _ ?_
      exact k13
    · exact k13
  clear_value t4
  refine Kept.ite ?_ ?_
  · refine k5 _ _ _ ?_
    exact k17
  · exact k17

theorem State.toTree_kept : ∀ {s0 s : State} {i : Fin 64} {job : Bool} {typ : Byte} {epoch : Nat} {tr : BitVec 7} {t : Nat},
  Kept s0 s → Kept s0 (s.toTree i job typ epoch tr t) := by
  intro s0 s i job typ epoch tr t h
  unfold State.toTree
  refine Kept.foldl ?_ ?_
  · exact h
  · intro t1 a2 k3
    split
    · refine State.send_kept ?_
      exact k3
    · exact k3

theorem State.toTargets_kept : ∀ {s0 s : State} {i : Fin 64} {typ : Byte} {epoch : Nat} {tr : BitVec 7} {t : Nat},
  Kept s0 s → Kept s0 (s.toTargets i typ epoch tr t) := by
  intro s0 s i typ epoch tr t h
  unfold State.toTargets
  extract_lets v1
  clear_value v1
  refine Kept.foldl ?_ ?_
  · exact h
  · intro t2 a3 k4
    refine State.send_kept ?_
    exact k4

theorem State.relay_kept : ∀ {s0 s : State} {i : Fin 64} {d : Decision} {decided : Bool}, Kept s0 s → Kept s0 (s.relay i d decided) := by
  intro s0 s i d decided h
  unfold State.relay
  extract_lets v1 v2 v3 t4 t5
  clear_value v1
  clear_value v2
  clear_value v3
  have k6 : Kept s0 t4 := by
    unfold t4
    refine Kept.ite ?_ ?_
    · refine State.toTree_kept ?_
      exact h
    · exact h
  clear_value t4
  have k7 : Kept s0 t5 := by
    unfold t5
    refine Kept.ite ?_ ?_
    · refine State.toTargets_kept ?_
      refine State.toTree_kept ?_
      exact k6
    · exact k6
  clear_value t5
  refine State.lathSend_kept ?_
  exact k7

theorem State.noteLimit_kept : ∀ {s0 s : State} {i : Fin 64}, Kept s0 s → Kept s0 (s.noteLimit i) := by
  intro s0 s i h
  unfold State.noteLimit
  refine Kept.ite ?_ ?_
  · refine State.raiseT_kept ?_
    exact h
  · exact h

theorem State.oweAdvance_kept : ∀ {s0 s : State} {i : Fin 64}, Kept s0 s → Kept s0 (s.oweAdvance i) := by
  intro s0 s i h
  unfold State.oweAdvance
  refine Kept.ite ?_ ?_
  · refine State.updFox_kept ?_
    exact h
  · exact h

theorem State.takeDecision_kept : ∀ {s0 s : State} {i : Fin 64} {d : Decision} {decided : Bool}, Kept s0 s → Kept s0 (s.takeDecision i d decided) := by
  intro s0 s i d decided h
  unfold State.takeDecision
  extract_lets t1 t2 v3 t4 t5 t6
  have k7 : Kept s0 t1 := by
    unfold t1
    refine State.relay_kept ?_
    exact h
  clear_value t1
  have k8 : Kept s0 t2 := by
    unfold t2
    refine State.noteLates_kept ?_
    exact k7
  clear_value t2
  clear_value v3
  have k9 : Kept s0 t4 := by
    unfold t4
    refine State.updCommit_kept ?_
    exact k8
  clear_value t4
  have k10 : Kept s0 t5 := by
    unfold t5
    refine State.badgerCommit_kept ?_
    refine State.noteLimit_kept ?_
    refine State.applyCommit_kept ?_
    exact k9
  clear_value t5
  have k11 : Kept s0 t6 := by
    unfold t6
    refine State.updCommit_kept ?_
    exact k7
  clear_value t6
  split
  · refine Kept.ite ?_ ?_
    · exact k9
    · refine Kept.ite ?_ ?_
      · refine State.noteLimit_kept ?_
        refine State.updCommit_kept ?_
        exact k9
      · refine Kept.ite ?_ ?_
        · refine Kept.ite ?_ ?_
          · refine State.targetSealed_kept ?_
            refine State.badgerCommit_kept ?_
            refine State.endRender_kept ?_
            refine State.applySeal_kept ?_
            exact k9
          · refine Kept.ite ?_ ?_
            · refine State.enterBoundary_kept ?_
              exact k10
            · exact k10
        · refine State.raise_kept ?_
          exact k9
  · extract_lets t19
    have k20 : Kept s0 t19 := by
      unfold t19
      refine Kept.ite ?_ ?_
      · refine State.updCommit_kept ?_
        exact k11
      · refine Kept.ite ?_ ?_
        · refine State.endRender_kept ?_
          refine State.abortSeal_kept ?_
          exact k11
        · refine State.applyAbort_kept ?_
          exact k11
    clear_value t19
    refine State.oweAdvance_kept ?_
    exact k20

theorem State.decideCommit_kept : ∀ {s0 s : State} {i : Fin 64}, Kept s0 s → Kept s0 (s.decideCommit i) := by
  intro s0 s i h
  unfold State.decideCommit
  extract_lets v1
  clear_value v1
  refine State.takeDecision_kept ?_
  exact h

theorem State.decideAbortAt_kept : ∀ {s0 s : State} {i : Fin 64} {tr : BitVec 7} {reason : Byte}, Kept s0 s → Kept s0 (s.decideAbortAt i tr reason) := by
  intro s0 s i tr reason h
  unfold State.decideAbortAt
  refine State.takeDecision_kept ?_
  exact h

theorem State.decideAbort_kept : ∀ {s0 s : State} {i : Fin 64} {reason : Byte}, Kept s0 s → Kept s0 (s.decideAbort i reason) := by
  intro s0 s i reason h
  unfold State.decideAbort
  refine State.decideAbortAt_kept ?_
  exact h

theorem State.jobRequest_kept : ∀ {s0 s : State} {i : Fin 64} {reason : Byte}, Kept s0 s → Kept s0 (s.jobRequest i reason) := by
  intro s0 s i reason h
  unfold State.jobRequest
  extract_lets v1
  clear_value v1
  refine Kept.ite ?_ ?_
  · refine State.updCommit_kept ?_
    exact h
  · refine Kept.ite ?_ ?_
    · refine State.decideAbort_kept ?_
      exact h
    · refine State.raiseT_kept ?_
      exact h

theorem State.lathRequest_kept : ∀ {s0 s : State} {i : Fin 64} {level : Nat} {reason : Byte}, Kept s0 s → Kept s0 (s.lathRequest i level reason) := by
  intro s0 s i level reason h
  unfold State.lathRequest
  extract_lets v1
  clear_value v1
  refine Kept.ite ?_ ?_
  · exact h
  · refine State.lathSend_kept ?_
    exact h

theorem State.requestPod_kept : ∀ {s0 s : State} {i : Fin 64} {reason : Byte}, Kept s0 s → Kept s0 (s.requestPod i reason) := by
  intro s0 s i reason h
  unfold State.requestPod
  extract_lets v1
  clear_value v1
  refine Kept.ite ?_ ?_
  · refine State.jobRequest_kept ?_
    exact h
  · split
    · exact h
    · refine Kept.ite ?_ ?_
      · refine State.lathRequest_kept ?_
        exact h
      · refine State.send_kept ?_
        exact h

theorem State.requestChip_kept : ∀ {s0 s : State} {i : Fin 64} {reason : Byte}, Kept s0 s → Kept s0 (s.requestChip i reason) := by
  intro s0 s i reason h
  unfold State.requestChip
  extract_lets v1
  clear_value v1
  refine Kept.ite ?_ ?_
  · refine State.requestPod_kept ?_
    exact h
  · split
    · exact h
    · refine Kept.ite ?_ ?_
      · refine State.lathRequest_kept ?_
        exact h
      · refine State.send_kept ?_
        exact h

theorem State.requestOwn_kept : ∀ {s0 s : State} {i : Fin 64} {reason : Byte}, Kept s0 s → Kept s0 (s.requestOwn i reason) := by
  intro s0 s i reason h
  unfold State.requestOwn
  extract_lets v1
  clear_value v1
  refine Kept.ite ?_ ?_
  · refine Kept.ite ?_ ?_
    · refine State.requestPod_kept ?_
      exact h
    · split
      · exact h
      · refine Kept.ite ?_ ?_
        · refine State.lathRequest_kept ?_
          exact h
        · refine State.send_kept ?_
          exact h
  · refine Kept.ite ?_ ?_
    · refine State.requestChip_kept ?_
      exact h
    · refine State.lathRequest_kept ?_
      exact h

theorem State.passRequests_kept : ∀ {s0 s : State} {i : Fin 64}, Kept s0 s → Kept s0 (s.passRequests i) := by
  intro s0 s i h
  unfold State.passRequests
  extract_lets ve vt v1 t2
  clear_value ve vt v1
  have k3 : Kept s0 t2 := by
    unfold t2
    refine State.updCommit_kept ?_
    exact h
  clear_value t2
  refine Kept.foldl ?_ ?_
  · exact k3
  · intro t4 a5 k6
    refine Kept.ite ?_ k6
    refine State.requestOwn_kept ?_
    exact k6

theorem State.chipVote_kept : ∀ {s0 s : State} {i : Fin 64}, Kept s0 s → Kept s0 (s.chipVote i) := by
  intro s0 s i h
  unfold State.chipVote
  extract_lets v1 t2
  clear_value v1
  have k3 : Kept s0 t2 := by
    unfold t2
    refine State.updCommit_kept ?_
    exact h
  clear_value t2
  split
  · refine Kept.ite ?_ ?_
    · exact k3
    · refine State.send_kept ?_
      exact k3
  · exact k3

theorem State.podVote_kept : ∀ {s0 s : State} {i : Fin 64}, Kept s0 s → Kept s0 (s.podVote i) := by
  intro s0 s i h
  unfold State.podVote
  extract_lets v1 t2
  clear_value v1
  have k3 : Kept s0 t2 := by
    unfold t2
    refine State.updCommit_kept ?_
    exact h
  clear_value t2
  split
  · refine Kept.ite ?_ ?_
    · exact k3
    · refine Kept.ite ?_ ?_
      · refine State.lathSend_kept ?_
        exact k3
      · refine State.send_kept ?_
        exact k3
  · exact k3

theorem State.aggChip_kept : ∀ {s0 s : State} {i : Fin 64}, Kept s0 s → Kept s0 (s.aggChip i) := by
  intro s0 s i h
  unfold State.aggChip
  extract_lets v1
  clear_value v1
  refine Kept.ite ?_ ?_
  · refine State.chipVote_kept ?_
    refine State.updCommit_kept ?_
    refine State.noteSubtree_kept ?_
    exact h
  · exact h

theorem State.aggPod_kept : ∀ {s0 s : State} {i : Fin 64}, Kept s0 s → Kept s0 (s.aggPod i) := by
  intro s0 s i h
  unfold State.aggPod
  extract_lets v1 t2 t3
  clear_value v1
  have k4 : Kept s0 t2 := by
    unfold t2
    refine Kept.ite ?_ ?_
    · refine State.noteOwn_kept ?_
      exact h
    · exact h
  clear_value t2
  have k5 : Kept s0 t3 := by
    unfold t3
    refine State.updCommit_kept ?_
    refine State.noteSubtree_kept ?_
    exact k4
  clear_value t3
  refine Kept.ite ?_ ?_
  · refine State.podVote_kept ?_
    exact k5
  · exact k4

theorem State.aggJob_kept : ∀ {s0 s : State} {i : Fin 64}, Kept s0 s → Kept s0 (s.aggJob i) := by
  intro s0 s i h
  unfold State.aggJob
  extract_lets v1 t2
  clear_value v1
  have k3 : Kept s0 t2 := by
    unfold t2
    refine Kept.ite ?_ ?_
    · refine State.noteOwn_kept ?_
      exact h
    · exact h
  clear_value t2
  refine Kept.ite ?_ ?_
  · refine State.decideCommit_kept ?_
    refine State.noteSubtree_kept ?_
    exact k3
  · exact k3

theorem State.aggregate_kept : ∀ {s0 s : State} {i : Fin 64}, Kept s0 s → Kept s0 (s.aggregate i) := by
  intro s0 s i h
  unfold State.aggregate
  refine Kept.ite ?_ ?_
  · refine State.aggJob_kept ?_
    refine State.aggPod_kept ?_
    refine State.aggChip_kept ?_
    exact h
  · exact h

theorem State.solicit_kept : ∀ {s0 s : State} {i : Fin 64} {job : Bool}, Kept s0 s → Kept s0 (s.solicit i job) := by
  intro s0 s i job h
  unfold State.solicit
  extract_lets v1 t2 t3
  clear_value v1
  have k4 : Kept s0 t2 := by
    unfold t2
    refine State.updCommit_kept ?_
    exact h
  clear_value t2
  have k5 : Kept s0 t3 := by
    unfold t3
    refine State.toTargets_kept ?_
    refine State.toTree_kept ?_
    exact k4
  clear_value t3
  refine Kept.ite ?_ ?_
  · refine State.toTree_kept ?_
    exact k4
  · split
    · refine Kept.ite ?_ ?_
      · refine State.podVote_kept ?_
        exact k5
      · exact k5
    · exact k5

theorem State.endSolicit_kept : ∀ {s0 s : State} {i : Fin 64}, Kept s0 s → Kept s0 (s.endSolicit i) := by
  intro s0 s i h
  unfold State.endSolicit
  extract_lets v1 v2 t3 v4 v5 v6 v7 t8
  clear_value v1
  have k9 : Kept s0 t3 := by
    unfold t3
    refine Kept.ite ?_ ?_
    · refine State.updCommit_kept ?_
      exact h
    · exact h
  clear_value t3
  clear_value v4
  clear_value v5
  clear_value v6
  clear_value v7
  have k10 : Kept s0 t8 := by
    unfold t8
    refine State.updCommit_kept ?_
    exact k9
  clear_value t8
  refine Kept.ite ?_ ?_
  · split
    · refine State.decideAbortAt_kept ?_
      exact k10
    · refine Kept.foldl ?_ ?_
      · exact k10
      · intro t18 a19 k20
        refine Kept.ite ?_ ?_
        · refine Kept.ite ?_ ?_
          · refine State.decideAbort_kept ?_
            exact k20
          · refine Kept.ite ?_ ?_
            · refine State.raiseT_kept ?_
              refine State.decideAbort_kept ?_
              exact k20
            · refine State.jobRequest_kept ?_
              exact k20
        · exact k20
  · exact k9

theorem State.syncRoles_kept : ∀ {s0 s : State} {i : Fin 64} {took : Bool}, Kept s0 s → Kept s0 (s.syncRoles i took) := by
  intro s0 s i took h
  unfold State.syncRoles
  extract_lets v1 v2 v3 v4 t5 v6 t7 t8
  clear_value v1
  clear_value v2
  clear_value v3
  clear_value v4
  have k9 : Kept s0 t5 := by
    unfold t5
    refine State.updCommit_kept ?_
    exact h
  clear_value t5
  have k10 : ∀ x1 x2, Kept s0 x1 → Kept s0 (v6 x1 x2) := by
    intro t11 a12 k13
    unfold v6
    extract_lets t14
    have k15 : Kept s0 t14 := by
      unfold t14
      refine Kept.ite ?_ ?_
      · refine State.raiseT_kept ?_
        refine State.raiseT_kept ?_
        exact k13
      · exact k13
    clear_value t14
    refine Kept.ite ?_ ?_
    · exact k15
    · refine State.solicit_kept ?_
      exact k15
  clear_value v6
  have k16 : Kept s0 t7 := by
    unfold t7
    refine Kept.ite ?_ ?_
    · refine k10 _ _ ?_
      exact k9
    · exact k9
  clear_value t7
  have k17 : Kept s0 t8 := by
    unfold t8
    refine Kept.ite ?_ ?_
    · refine k10 _ _ ?_
      exact k16
    · exact k16
  clear_value t8
  refine State.oweAdvance_kept ?_
  exact k17

theorem State.targetJoins_kept : ∀ {s0 s : State} {i : Fin 64} {d : Decision}, Kept s0 s → Kept s0 (s.targetJoins i d) := by
  intro s0 s i d h
  unfold State.targetJoins
  extract_lets t1 t2
  have k3 : Kept s0 t1 := by
    unfold t1
    split
    · refine State.updCommit_kept ?_
      exact h
    · refine State.updCommit_kept ?_
      exact h
  clear_value t1
  have k11 : Kept s0 t2 := by
    unfold t2
    refine State.updTen_kept ?_
    exact k3
  clear_value t2
  refine State.dueOpen_kept ?_
  refine State.lathSend_kept ?_
  exact k11

theorem State.heardPods_kept : ∀ {s0 s : State} {i : Fin 64} {p : Addr → Bool}, Kept s0 s → Kept s0 (s.heardPods i p) := by
  intro s0 s i p h
  unfold State.heardPods
  refine Kept.foldl ?_ ?_
  · exact h
  · intro t1 a2 k3
    extract_lets v4
    clear_value v4
    refine Kept.ite ?_ ?_
    · refine State.setCredit_kept ?_
      exact k3
    · exact k3

theorem State.echoUp_kept : ∀ {s0 s : State} {i : Fin 64} {d : Decision}, Kept s0 s → Kept s0 (s.echoUp i d) := by
  intro s0 s i d h
  unfold State.echoUp
  extract_lets v1 v2
  clear_value v1
  clear_value v2
  split
  · refine Kept.ite ?_ ?_
    · exact h
    · refine State.send_kept ?_
      exact h
  · exact h

theorem State.decision_kept : ∀ {s0 s : State} {i : Fin 64} {d : Decision} {child : Bool}, Kept s0 s → Kept s0 (s.decision i d child) := by
  intro s0 s i d child h
  unfold State.decision
  extract_lets v1 v2 v3 t4 t5 t6
  clear_value v1
  clear_value v2
  clear_value v3
  have k7 : Kept s0 t4 := by
    unfold t4
    refine Kept.ite ?_ ?_
    · refine State.echoUp_kept ?_
      exact h
    · exact h
  clear_value t4
  have k8 : Kept s0 t5 := by
    unfold t5
    refine Kept.ite ?_ ?_
    · refine State.raiseT_kept ?_
      exact k7
    · exact k7
  clear_value t5
  have k9 : Kept s0 t6 := by
    unfold t6
    refine Kept.ite ?_ ?_
    · refine State.echoUp_kept ?_
      exact h
    · exact h
  clear_value t6
  refine Kept.ite ?_ ?_
  · exact h
  · refine Kept.ite ?_ ?_
    · refine State.targetJoins_kept ?_
      exact h
    · refine Kept.ite ?_ ?_
      · refine State.raiseT_kept ?_
        exact h
      · split
        · refine Kept.ite ?_ ?_
          · refine State.takeDecision_kept ?_
            exact k8
          · refine Kept.ite ?_ ?_
            · exact h
            · refine State.raiseT_kept ?_
              exact h
        · refine Kept.ite ?_ ?_
          · refine Kept.ite ?_ ?_
            · refine Kept.ite ?_ ?_
              · refine Kept.ite ?_ ?_
                · refine State.updCommit_kept ?_
                  exact h
                · refine State.decideAbortAt_kept ?_
                  exact h
              · refine State.takeDecision_kept ?_
                exact k9
            · exact h
          · refine Kept.ite ?_ ?_
            · refine State.raiseT_kept ?_
              exact h
            · refine State.raiseT_kept ?_
              exact h

theorem State.giveVote_kept : ∀ {s0 s : State} {i : Fin 64}, Kept s0 s → Kept s0 (s.giveVote i) := by
  intro s0 s i h
  unfold State.giveVote
  extract_lets v1 t2 t3 t4
  clear_value v1
  have k5 : Kept s0 t2 := by
    unfold t2
    refine State.updCommit_kept ?_
    exact h
  clear_value t2
  have k6 : Kept s0 t3 := by
    unfold t3
    refine State.lathSend_kept ?_
    exact k5
  clear_value t3
  have k7 : Kept s0 t4 := by
    unfold t4
    refine Kept.ite ?_ ?_
    · refine State.noteChild_kept ?_
      exact k6
    · exact k6
  clear_value t4
  refine Kept.ite ?_ ?_
  · split
    · refine Kept.ite ?_ ?_
      · exact k7
      · refine State.send_kept ?_
        exact k7
    · exact k7
  · exact k7

theorem State.follow_kept : ∀ {s0 s : State} {i : Fin 64}, Kept s0 s → Kept s0 (s.follow i) := by
  intro s0 s i h
  unfold State.follow
  refine Kept.ite ?_ ?_
  · exact h
  · refine State.unpark_kept ?_
    refine State.advanceSweep_kept ?_
    refine State.tryOpen_kept ?_
    refine State.aggregate_kept ?_
    refine State.endSolicit_kept ?_
    refine State.passRequests_kept ?_
    refine State.advanceSweep_kept ?_
    refine State.syncBoundary_kept ?_
    exact h

theorem State.window_kept : ∀ {s0 s : State} {a : Acc} {offset : Nat} {sys : Bool} {f : State → State},
  Kept s0 s → (∀ (a : State), Kept s0 a → Kept s0 (f a)) → Kept s0 (s.window a offset sys f) := by
  intro s0 s a offset sys f h hf1
  unfold State.window
  refine Kept.ite ?_ ?_
  · exact h
  · refine Kept.ite ?_ ?_
    · refine State.refuse_kept ?_
      exact h
    · refine hf1 _ ?_
      refine State.ok_kept ?_
      exact h

theorem State.at__kept : ∀ {s0 s : State} {t : BitVec 64}, Kept s0 s → Kept s0 (s.at_ t) := by
  intro s0 s t h
  unfold State.at_
  extract_lets v1
  clear_value v1
  refine Kept.ite ?_ ?_
  · exact h.same rfl
  · exact h

theorem State.reach_kept : ∀ {s0 s : State} {since : BitVec 64} {ns : Nat}, Kept s0 s → Kept s0 (s.reach since ns) := by
  intro s0 s since ns h
  unfold State.reach
  refine Kept.ite ?_ ?_
  · refine State.at__kept ?_
    exact h
  · exact h

theorem State.syncUp_kept : ∀ {s0 s : State} {i : Fin 64} {asker : Addr} {gen : Gen}, Kept s0 s → Kept s0 (s.syncUp i asker gen) := by
  intro s0 s i asker gen h
  unfold State.syncUp
  extract_lets v1 v2 v3 v4
  clear_value v1
  clear_value v2
  clear_value v3
  clear_value v4
  split
  · exact h
  · extract_lets v8
    clear_value v8
    refine Kept.ite ?_ ?_
    · exact h
    · refine State.send_kept ?_
      exact h

theorem State.querySync_kept : ∀ {s0 s : State} {i : Fin 64}, Kept s0 s → Kept s0 (s.querySync i) := by
  intro s0 s i h
  unfold State.querySync
  extract_lets v1
  clear_value v1
  refine Kept.ite ?_ ?_
  · exact h
  · refine State.syncUp_kept ?_
    refine State.updFox_kept ?_
    exact h

theorem State.returnFence_kept : ∀ {s0 s : State} {i : Fin 64} {src : Addr}, Kept s0 s → Kept s0 (s.returnFence i src) := by
  intro s0 s i src h
  unfold State.returnFence
  extract_lets v1 v2 v3 t4
  clear_value v1
  clear_value v2
  clear_value v3
  have k5 : Kept s0 t4 := by
    unfold t4
    exact h.same rfl
  clear_value t4
  refine Kept.ite ?_ ?_
  · exact h
  · refine State.sendReply_kept ?_
    exact k5

theorem State.discard_kept : ∀ {s0 s : State}, Kept s0 s → Kept s0 s.discard := by
  intro s0 s h
  unfold State.discard
  refine State.count_kept ?_
  exact h

theorem State.frameEvent_kept : ∀ {s0 s : State} {f : Rx} {code : Nat}, Kept s0 s → Kept s0 (s.frameEvent f code) := by
  intro s0 s f code h
  unfold State.frameEvent
  refine State.raise_kept ?_
  exact h

theorem State.receive_kept : ∀ {s0 s : State} {f : Rx} {c : Check} {k : State → Fin 64 → State},
  Kept s0 s → (∀ (a : State) (a_1 : Fin 64), Kept s0 a → Kept s0 (k a a_1)) → Kept s0 (s.receive f c k) := by
  intro s0 s f c k h hf1
  unfold State.receive
  extract_lets t1
  have k2 : Kept s0 t1 := by
    unfold t1
    refine State.at__kept ?_
    exact h
  clear_value t1
  refine Kept.ite ?_ ?_
  · exact h
  · refine Kept.ite ?_ ?_
    · refine State.discard_kept ?_
      exact k2
    · refine Kept.ite ?_ ?_
      · refine State.frameEvent_kept ?_
        exact k2
      · refine Kept.ite ?_ ?_
        · refine State.frameEvent_kept ?_
          exact k2
        · refine Kept.ite ?_ ?_
          · refine State.frameEvent_kept ?_
            exact k2
          · split
            · refine State.frameEvent_kept ?_
              exact k2
            · extract_lets v8
              clear_value v8
              refine Kept.ite ?_ ?_
              · refine State.returnFence_kept ?_
                refine State.frameEvent_kept ?_
                exact k2
              · refine Kept.ite ?_ ?_
                · refine State.querySync_kept ?_
                  refine State.frameEvent_kept ?_
                  exact k2
                · refine Kept.ite ?_ ?_
                  · split
                    · refine State.count_kept ?_
                      refine State.frameEvent_kept ?_
                      exact k2
                    · refine State.frameEvent_kept ?_
                      exact k2
                  · refine Kept.ite ?_ ?_
                    · refine State.frameEvent_kept ?_
                      exact k2
                    · refine Kept.ite ?_ ?_
                      · exact k2
                      · refine hf1 _ _ ?_
                        exact k2

theorem State.syncGroups_kept : ∀ {s0 s : State}, Kept s0 s → Kept s0 s.syncGroups := by
  intro s0 s h
  unfold State.syncGroups
  extract_lets v1 v2 v3 v4
  clear_value v1
  clear_value v2
  clear_value v3
  clear_value v4
  exact h.same rfl

theorem State.toPeers_kept : ∀ {s0 s : State} {i : Fin 64} {k : Nat} {typ : Byte} {epoch t : Nat} {payload : List Byte},
  Kept s0 s → Kept s0 (s.toPeers i k typ epoch t payload) := by
  intro s0 s i k typ epoch t payload h
  unfold State.toPeers
  extract_lets v1
  clear_value v1
  split
  · refine State.send_kept ?_
    exact h
  · refine Kept.foldl ?_ ?_
    · exact h
    · intro t7 a8 k9
      refine State.send_kept ?_
      exact k9

end Sys2Proof.Machine
end

