-- ==== Sys2Proof/Laws/KeptPower.lean ====
section
/-! SUPPORT. What is kept by the rows of power, of the image and of the gate. -/

namespace Sys2Proof.Machine

theorem State.lost_kept {s0 s : State} (h : Kept s0 s) : Kept s0 s.lost := by
  refine h.trans ⟨rfl, fun q => ?_, fun _ => rfl⟩
  simp only [State.memWf, Bool.and_eq_true] at q ⊢
  exact ⟨⟨Mem.wf_zero _ _ q.1.1, rfl⟩, rfl⟩

theorem State.domainReset_kept {s0 s : State} (h : Kept s0 s) : Kept s0 s.domainReset := by
  refine h.trans ⟨rfl, fun q => ?_, id⟩
  simp only [State.memWf, Bool.and_eq_true] at q ⊢
  exact ⟨⟨Mem.wf_zero _ _ q.1.1, q.1.2⟩, rfl⟩

theorem execMlResetAssert_kept : ∀ {s0 s : State}, Kept s0 s → KeptO s0 (execMlResetAssert s) := by
  intro s0 s h
  unfold execMlResetAssert
  refine KeptO.next ?_
  refine Kept.ite ?_ ?_
  · refine State.domainReset_kept ?_
    exact h
  · exact h

theorem execPowerRailLoss_kept : ∀ {s0 : State} {_r : Rail} {s : State}, Kept s0 s → KeptO s0 (execPowerRailLoss _r s) := by
  intro s0 _r s h
  unfold execPowerRailLoss
  extract_lets t1 v2
  have k3 : Kept s0 t1 := by
    unfold t1
    refine State.lost_kept ?_
    exact h
  clear_value t1
  clear_value v2
  refine KeptO.next ?_
  exact k3.same rfl

theorem execRailRestore_kept : ∀ {s0 s : State}, Kept s0 s → KeptO s0 (execRailRestore s) := by
  intro s0 s h
  unfold execRailRestore
  extract_lets v1
  clear_value v1
  refine KeptO.next ?_
  refine Kept.ite ?_ ?_
  · exact h
  · exact h.same rfl

theorem execTestAccessOpen_kept : ∀ {s0 s : State}, Kept s0 s → KeptO s0 (execTestAccessOpen s) := by
  intro s0 s h
  unfold execTestAccessOpen
  extract_lets t1 v2
  have k3 : Kept s0 t1 := by
    unfold t1
    refine State.lost_kept ?_
    exact h
  clear_value t1
  clear_value v2
  refine KeptO.ite ?_ ?_
  · refine KeptO.next ?_
    exact h
  · refine KeptO.next ?_
    exact k3.same rfl

theorem execTestEnIgnored_kept : ∀ {s0 s : State}, Kept s0 s → KeptO s0 (execTestEnIgnored s) := by
  intro s0 s h
  unfold execTestEnIgnored
  extract_lets v1
  clear_value v1
  refine KeptO.ite ?_ ?_
  · refine KeptO.next ?_
    exact h
  · refine KeptO.next ?_
    refine State.raise_kept ?_
    exact h.same rfl

theorem execTestEnFall_kept : ∀ {s0 s : State}, Kept s0 s → KeptO s0 (execTestEnFall s) := by
  intro s0 s h
  unfold execTestEnFall
  extract_lets v1
  clear_value v1
  refine KeptO.next ?_
  exact h.same rfl

theorem execActivityRampAdmit_kept : ∀ {s0 s : State}, Kept s0 s → KeptO s0 (execActivityRampAdmit s) := by
  intro s0 s h
  unfold execActivityRampAdmit
  extract_lets v1 v2
  clear_value v1
  clear_value v2
  refine KeptO.ite ?_ ?_
  · refine KeptO.next ?_
    exact h
  · refine KeptO.next ?_
    exact h.same rfl

theorem State.timeFault_kept : ∀ {s0 s : State}, Kept s0 s → Kept s0 s.timeFault := by
  intro s0 s h
  unfold State.timeFault
  extract_lets v1
  clear_value v1
  refine State.raise_kept ?_
  exact h.same rfl

theorem execTimeCounterStall_kept : ∀ {s0 s : State}, Kept s0 s → KeptO s0 (execTimeCounterStall s) := by
  intro s0 s h
  unfold execTimeCounterStall
  refine KeptO.next ?_
  refine Kept.ite ?_ ?_
  · refine State.timeFault_kept ?_
    exact h
  · exact h

theorem State.takeSample_kept : ∀ {s0 s : State} {t : BitVec 64}, Kept s0 s → Kept s0 (s.takeSample t) := by
  intro s0 s t h
  unfold State.takeSample
  extract_lets v1 t2
  clear_value v1
  have k3 : Kept s0 t2 := by
    unfold t2
    exact h.same rfl
  clear_value t2
  refine Kept.ite ?_ ?_
  · refine State.timeFault_kept ?_
    exact k3
  · exact k3

theorem execTimeSampleInvalid_kept : ∀ {s0 : State} {sample : BitVec 64} {s : State}, Kept s0 s → KeptO s0 (execTimeSampleInvalid sample s) := by
  intro s0 sample s h
  unfold execTimeSampleInvalid
  refine KeptO.next ?_
  refine Kept.ite ?_ ?_
  · refine State.takeSample_kept ?_
    exact h
  · exact h

theorem execTimeAdvanceHold_kept : ∀ {s0 : State} {now : BitVec 64} {s : State}, Kept s0 s → KeptO s0 (execTimeAdvanceHold now s) := by
  intro s0 now s h
  unfold execTimeAdvanceHold
  extract_lets v1 t2 v3
  clear_value v1
  have k4 : Kept s0 t2 := by
    unfold t2
    refine State.takeSample_kept ?_
    exact h
  clear_value t2
  clear_value v3
  refine KeptO.ite ?_ ?_
  · refine KeptO.next ?_
    exact h
  · refine KeptO.ite ?_ ?_
    · refine KeptO.next ?_
      exact k4
    · refine KeptO.next ?_
      exact k4.same rfl

theorem execMarginClassChange_kept : ∀ {s0 : State} {mon : Fin 15} {slack : Byte} {s : State}, Kept s0 s → KeptO s0 (execMarginClassChange mon slack s) := by
  intro s0 mon slack s h
  unfold execMarginClassChange
  extract_lets v1 v2 v3 t4
  clear_value v1
  clear_value v2
  clear_value v3
  have k5 : Kept s0 t4 := by
    unfold t4
    exact h.same rfl
  clear_value t4
  refine KeptO.ite ?_ ?_
  · refine KeptO.next ?_
    exact h
  · refine KeptO.ite ?_ ?_
    · refine KeptO.next ?_
      exact k5
    · split
      · refine KeptO.next ?_
        exact k5
      · refine KeptO.next ?_
        refine State.raise_kept ?_
        exact k5
      · refine KeptO.next ?_
        refine State.raise_kept ?_
        exact k5

theorem execMonitorNormalHold_kept : ∀ {s0 : State} {mon : Fin 15} {s : State}, Kept s0 s → KeptO s0 (execMonitorNormalHold mon s) := by
  intro s0 mon s h
  unfold execMonitorNormalHold
  extract_lets v1
  clear_value v1
  refine KeptO.next ?_
  refine Kept.ite ?_ ?_
  · exact h.same rfl
  · exact h

theorem State.takeSlot_kept : ∀ {s0 s : State} {old r : Record} {k : Nat}, Kept s0 s → Kept s0 (s.takeSlot old r k) := by
  intro s0 s old r k h
  unfold State.takeSlot
  extract_lets v1
  clear_value v1
  refine Kept.ite ?_ ?_
  · refine State.updSlot_kept ?_
    exact h
  · refine Kept.ite ?_ ?_
    · exact h
    · refine State.formSlot_kept ?_
      refine Kept.ite ?_ ?_
      · refine State.clearParity_kept ?_
        exact h
      · exact h

theorem State.takeTenant_kept : ∀ {s0 s : State} {r : Record} {i : Fin 64}, Kept s0 s → Kept s0 (s.takeTenant r i) := by
  intro s0 s r i h
  unfold State.takeTenant
  extract_lets v1 v2
  clear_value v1
  clear_value v2
  split
  · refine Kept.ite ?_ ?_
    · exact h
    · refine State.syncCands_kept ?_
      refine State.updTen_kept ?_
      exact h
  · refine Kept.ite ?_ ?_
    · refine State.updTen_kept ?_
      exact h
    · refine State.syncCands_kept ?_
      refine State.updTen_kept ?_
      exact h

theorem State.activate_kept {s0 s : State} {r : Record} (h : Kept s0 s) : Kept s0 (s.activate r) := by
  unfold State.activate
  extract_lets old x1 x2 x3 s1 s2 s3
  have k1 : Kept s0 s1 := h.same rfl
  clear_value s1 old
  have k2 : Kept s0 s2 := State.checkArmed_kept (Kept.foldl k1 fun _ _ k => State.takeTenant_kept k)
  clear_value s2
  exact State.syncGroups_kept (Kept.foldl k2 fun _ _ k => State.takeSlot_kept k)

theorem State.updLoader_kept : ∀ {s0 s : State} {f : LoaderS → LoaderS}, Kept s0 s → Kept s0 (s.updLoader f) := by
  intro s0 s f h
  unfold State.updLoader
  exact h.same rfl

theorem State.releaseFlash_kept : ∀ {s0 s : State}, Kept s0 s → Kept s0 s.releaseFlash := by
  intro s0 s h
  unfold State.releaseFlash
  extract_lets v1
  clear_value v1
  exact h.same rfl

theorem State.unconfigured_kept : ∀ {s0 s : State}, Kept s0 s → Kept s0 s.unconfigured := by
  intro s0 s h
  unfold State.unconfigured
  refine State.updLoader_kept ?_
  refine State.releaseFlash_kept ?_
  exact h

theorem State.noCopy_kept : ∀ {s0 s : State}, Kept s0 s → Kept s0 s.noCopy := by
  intro s0 s h
  unfold State.noCopy
  refine State.raise_kept ?_
  refine State.unconfigured_kept ?_
  exact h

theorem State.applyCandidate_kept : ∀ {s0 s : State} {copy : Bool}, Kept s0 s → Kept s0 (s.applyCandidate copy) := by
  intro s0 s copy h
  unfold State.applyCandidate
  extract_lets v1
  clear_value v1
  split
  · exact h
  · extract_lets v7 v8 t9 t10 t11
    clear_value v7
    clear_value v8
    have k12 : Kept s0 t9 := by
      unfold t9
      exact h.same rfl
    clear_value t9
    have k13 : Kept s0 t10 := by
      unfold t10
      refine State.updLoader_kept ?_
      refine State.releaseFlash_kept ?_
      refine State.activate_kept ?_
      refine State.putPool_kept ?_
      exact k12
    clear_value t10
    have k14 : Kept s0 t11 := by
      unfold t11
      refine Kept.ite ?_ ?_
      · refine State.raise_kept ?_
        exact k13
      · exact k13
    clear_value t11
    refine State.raise_kept ?_
    exact k14

theorem State.nextCopy_kept : ∀ {s0 s : State} {result : Nat}, Kept s0 s → Kept s0 (s.nextCopy result) := by
  intro s0 s result h
  unfold State.nextCopy
  extract_lets t1
  have k2 : Kept s0 t1 := by
    unfold t1
    refine State.updLoader_kept ?_
    exact h
  clear_value t1
  refine Kept.ite ?_ ?_
  · refine State.noCopy_kept ?_
    refine State.lathSend_kept ?_
    exact k2
  · refine State.updLoader_kept ?_
    exact k2

theorem State.concludeCopy_kept : ∀ {s0 s : State}, Kept s0 s → Kept s0 s.concludeCopy := by
  intro s0 s h
  unfold State.concludeCopy
  extract_lets v1 t2
  clear_value v1
  have k3 : Kept s0 t2 := by
    unfold t2
    refine Kept.ite ?_ ?_
    · refine State.raise_kept ?_
      exact h
    · exact h
  clear_value t2
  split
  · exact h
  · refine Kept.ite ?_ ?_
    · refine State.nextCopy_kept ?_
      exact h
    · refine Kept.ite ?_ ?_
      · refine State.applyCandidate_kept ?_
        refine State.lathSend_kept ?_
        exact k3
      · exact h

theorem State.judgeCopy_kept : ∀ {s0 s : State} {o : ObjRead}, Kept s0 s → Kept s0 (s.judgeCopy o) := by
  intro s0 s o h
  unfold State.judgeCopy
  extract_lets v1 v2 v3 t4
  clear_value v1
  clear_value v2
  clear_value v3
  have k5 : Kept s0 t4 := by
    unfold t4
    refine State.updLoader_kept ?_
    exact h
  clear_value t4
  refine Kept.ite ?_ ?_
  · refine State.nextCopy_kept ?_
    refine State.raise_kept ?_
    exact h
  · split
    · refine State.nextCopy_kept ?_
      refine State.raise_kept ?_
      exact h
    · refine State.concludeCopy_kept ?_
      refine State.lathSend_kept ?_
      exact k5

theorem execMlResetRelease_kept : ∀ {s0 : State} {owner : BitVec 384} {flash : Bool} {inst : BitVec 4} {testEn : Bool} {sfdp : Sfdp} {s : State},
  Kept s0 s → KeptO s0 (execMlResetRelease owner flash inst testEn sfdp s) := by
  intro s0 owner flash inst testEn sfdp s h
  unfold execMlResetRelease
  extract_lets v1 t2 v3 v4 t5 t6
  clear_value v1
  have k7 : Kept s0 t2 := by
    unfold t2
    exact h.same rfl
  clear_value t2
  clear_value v3
  clear_value v4
  have k8 : Kept s0 t5 := by
    unfold t5
    refine State.updLoader_kept ?_
    exact k7
  clear_value t5
  have k9 : Kept s0 t6 := by
    unfold t6
    refine Kept.ite ?_ ?_
    · refine State.raise_kept ?_
      exact k8
    · exact k8
  clear_value t6
  refine KeptO.ite ?_ ?_
  · refine KeptO.next ?_
    exact h
  · refine KeptO.ite ?_ ?_
    · refine KeptO.next ?_
      exact k7
    · refine KeptO.next ?_
      refine Kept.ite ?_ ?_
      · refine State.unconfigured_kept ?_
        refine State.raise_kept ?_
        exact k9
      · exact k9

theorem execFlashCopyLoaded_kept : ∀ {s0 : State} {o : ObjRead} {s : State}, Kept s0 s → KeptO s0 (execFlashCopyLoaded o s) := by
  intro s0 o s h
  unfold execFlashCopyLoaded
  refine KeptO.next ?_
  refine Kept.ite ?_ ?_
  · refine State.judgeCopy_kept ?_
    exact h
  · exact h

theorem State.takeAnswer_kept : ∀ {s0 s : State} {inst : BitVec 4} {accept : Bool}, Kept s0 s → Kept s0 (s.takeAnswer inst accept) := by
  intro s0 s inst accept h
  unfold State.takeAnswer
  refine Kept.ite ?_ ?_
  · exact h
  · refine State.concludeCopy_kept ?_
    refine State.updLoader_kept ?_
    exact h

theorem execDistributionAnswer_kept : ∀ {s0 : State} {inst : BitVec 4} {accept : Bool} {s : State},
  Kept s0 s → KeptO s0 (execDistributionAnswer inst accept s) := by
  intro s0 inst accept s h
  unfold execDistributionAnswer
  refine KeptO.next ?_
  refine State.takeAnswer_kept ?_
  exact h

theorem execDistributionTimeout_kept : ∀ {s0 : State} {inst : BitVec 4} {s : State}, Kept s0 s → KeptO s0 (execDistributionTimeout inst s) := by
  intro s0 inst s h
  unfold execDistributionTimeout
  refine KeptO.next ?_
  refine Kept.ite ?_ ?_
  · exact h
  · refine State.concludeCopy_kept ?_
    refine State.raise_kept ?_
    refine State.updLoader_kept ?_
    refine State.reach_kept ?_
    exact h

theorem execLathConfigTimeout_kept : ∀ {s0 s : State}, Kept s0 s → KeptO s0 (execLathConfigTimeout s) := by
  intro s0 s h
  unfold execLathConfigTimeout
  refine KeptO.next ?_
  refine Kept.ite ?_ ?_
  · refine State.unconfigured_kept ?_
    refine State.reach_kept ?_
    exact h
  · exact h

theorem State.receiveImage_kept : ∀ {s0 s : State} {o : ObjRead}, Kept s0 s → Kept s0 (s.receiveImage o) := by
  intro s0 s o h
  unfold State.receiveImage
  refine Kept.ite ?_ ?_
  · exact h
  · split
    · refine State.lathSend_kept ?_
      refine State.raise_kept ?_
      exact h
    · refine State.lathSend_kept ?_
      refine State.updLoader_kept ?_
      exact h

theorem execFeedBegin_kept : ∀ {s0 : State} {a : Acc} {s : State}, Kept s0 s → KeptO s0 (execFeedBegin a s) := by
  intro s0 a s h
  unfold execFeedBegin
  refine KeptO.ite ?_ ?_
  · refine KeptO.next ?_
    exact h
  · refine KeptO.ite ?_ ?_
    · refine KeptO.next ?_
      refine State.refuse_kept ?_
      exact h
    · refine KeptO.next ?_
      refine State.ok_kept ?_
      refine State.updLoader_kept ?_
      exact h

theorem State.failFeed_kept : ∀ {s0 s : State} {result : Nat}, Kept s0 s → Kept s0 (s.failFeed result) := by
  intro s0 s result h
  unfold State.failFeed
  refine State.raise_kept ?_
  refine State.updLoader_kept ?_
  exact h

theorem execCfFeed_kept : ∀ {s0 : State} {a : Acc} {data : Word} {s : State}, Kept s0 s → KeptO s0 (execCfFeed a data s) := by
  intro s0 a data s h
  unfold execCfFeed
  extract_lets t1
  have k2 : Kept s0 t1 := by
    unfold t1
    refine State.ok_kept ?_
    refine State.updLoader_kept ?_
    exact h
  clear_value t1
  refine KeptO.ite ?_ ?_
  · refine KeptO.next ?_
    exact h
  · refine KeptO.ite ?_ ?_
    · refine KeptO.next ?_
      refine State.refuse_kept ?_
      exact h
    · refine KeptO.ite ?_ ?_
      · refine KeptO.next ?_
        refine State.ok_kept ?_
        refine State.updLoader_kept ?_
        exact h
      · refine KeptO.next ?_
        refine Kept.ite ?_ ?_
        · refine State.failFeed_kept ?_
          exact k2
        · exact k2

theorem execFeedEnd_kept : ∀ {s0 : State} {a : Acc} {content : Content} {s : State}, Kept s0 s → KeptO s0 (execFeedEnd a content s) := by
  intro s0 a content s h
  unfold execFeedEnd
  extract_lets t1 v2 v3 v4
  have k5 : Kept s0 t1 := by
    unfold t1
    refine State.ok_kept ?_
    refine State.updLoader_kept ?_
    exact h
  clear_value t1
  clear_value v2
  clear_value v3
  clear_value v4
  refine KeptO.ite ?_ ?_
  · refine KeptO.next ?_
    exact h
  · refine KeptO.ite ?_ ?_
    · refine KeptO.next ?_
      refine State.refuse_kept ?_
      exact h
    · refine KeptO.ite ?_ ?_
      · refine KeptO.next ?_
        refine State.ok_kept ?_
        refine State.updLoader_kept ?_
        exact h
      · refine KeptO.next ?_
        refine State.judgeCopy_kept ?_
        refine State.updLoader_kept ?_
        exact k5

theorem State.cfResult_kept : ∀ {s0 s : State} {a : Acc} {op : BitVec 4} {r : Nat}, Kept s0 s → Kept s0 (s.cfResult a op r) := by
  intro s0 s a op r h
  unfold State.cfResult
  refine State.updLoader_kept ?_
  refine State.ok_kept ?_
  exact h

theorem execCfStage_kept : ∀ {s0 : State} {a : Acc} {readOk : Bool} {content : Content} {s : State},
  Kept s0 s → KeptO s0 (execCfStage a readOk content s) := by
  intro s0 a readOk content s h
  unfold execCfStage
  extract_lets v1 v2 v3 t4 v5 v6
  clear_value v1
  clear_value v2
  clear_value v3
  have k7 : Kept s0 t4 := by
    unfold t4
    refine State.cfResult_kept ?_
    exact h
  clear_value t4
  clear_value v5
  clear_value v6
  refine KeptO.ite ?_ ?_
  · refine KeptO.next ?_
    exact h
  · refine KeptO.ite ?_ ?_
    · refine KeptO.next ?_
      refine State.refuse_kept ?_
      exact h
    · refine KeptO.ite ?_ ?_
      · refine KeptO.next ?_
        refine State.cfResult_kept ?_
        exact h
      · refine KeptO.ite ?_ ?_
        · refine KeptO.next ?_
          refine State.raise_kept ?_
          exact k7
        · refine KeptO.next ?_
          refine State.updLoader_kept ?_
          exact k7

theorem execCfArm_kept : ∀ {s0 : State} {a : Acc} {s : State}, Kept s0 s → KeptO s0 (execCfArm a s) := by
  intro s0 a s h
  unfold execCfArm
  refine KeptO.ite ?_ ?_
  · refine KeptO.next ?_
    exact h
  · refine KeptO.ite ?_ ?_
    · refine KeptO.next ?_
      refine State.refuse_kept ?_
      exact h
    · split
      · refine KeptO.ite ?_ ?_
        · refine KeptO.next ?_
          refine State.cfResult_kept ?_
          exact h
        · refine KeptO.next ?_
          refine State.updLoader_kept ?_
          refine State.cfResult_kept ?_
          exact h
      · refine KeptO.next ?_
        refine State.cfResult_kept ?_
        exact h

theorem State.unparkTenants_kept : ∀ {s0 s : State}, Kept s0 s → Kept s0 s.unparkTenants := by
  intro s0 s h
  unfold State.unparkTenants
  refine Kept.foldl ?_ ?_
  · exact h
  · intro t1 a2 k3
    refine Kept.ite ?_ ?_
    · refine State.unpark_kept ?_
      refine State.tryOpen_kept ?_
      refine State.updCommit_kept ?_
      exact k3
    · exact k3

theorem State.abandonSwitch_kept : ∀ {s0 s : State} {result : Nat}, Kept s0 s → Kept s0 (s.abandonSwitch result) := by
  intro s0 s result h
  unfold State.abandonSwitch
  extract_lets t1
  have k2 : Kept s0 t1 := by
    unfold t1
    refine State.updLoader_kept ?_
    exact h
  clear_value t1
  refine State.unparkTenants_kept ?_
  refine State.raise_kept ?_
  exact k2

theorem execCfDisarm_kept : ∀ {s0 : State} {a : Acc} {s : State}, Kept s0 s → KeptO s0 (execCfDisarm a s) := by
  intro s0 a s h
  unfold execCfDisarm
  refine KeptO.ite ?_ ?_
  · refine KeptO.next ?_
    exact h
  · refine KeptO.ite ?_ ?_
    · refine KeptO.next ?_
      refine State.refuse_kept ?_
      exact h
    · refine KeptO.ite ?_ ?_
      · refine KeptO.next ?_
        refine State.cfResult_kept ?_
        exact h
      · refine KeptO.next ?_
        refine State.abandonSwitch_kept ?_
        refine State.cfResult_kept ?_
        exact h

theorem execCfDiscard_kept : ∀ {s0 : State} {a : Acc} {s : State}, Kept s0 s → KeptO s0 (execCfDiscard a s) := by
  intro s0 a s h
  unfold execCfDiscard
  refine KeptO.ite ?_ ?_
  · refine KeptO.next ?_
    exact h
  · refine KeptO.ite ?_ ?_
    · refine KeptO.next ?_
      refine State.refuse_kept ?_
      exact h
    · refine KeptO.ite ?_ ?_
      · refine KeptO.next ?_
        refine State.cfResult_kept ?_
        exact h
      · refine KeptO.next ?_
        refine State.updLoader_kept ?_
        refine State.cfResult_kept ?_
        exact h

theorem execConfigSwitch_kept : ∀ {s0 s : State}, Kept s0 s → KeptO s0 (execConfigSwitch s) := by
  intro s0 s h
  unfold execConfigSwitch
  extract_lets v1
  clear_value v1
  split
  · extract_lets v7 t8
    clear_value v7
    have k9 : Kept s0 t8 := by
      unfold t8
      refine State.updLoader_kept ?_
      refine State.activate_kept ?_
      exact h
    clear_value t8
    refine KeptO.ite ?_ ?_
    · refine KeptO.next ?_
      exact h
    · refine KeptO.ite ?_ ?_
      · refine KeptO.next ?_
        refine State.abandonSwitch_kept ?_
        exact h
      · refine KeptO.next ?_
        refine State.unparkTenants_kept ?_
        refine State.raise_kept ?_
        exact k9
  · refine KeptO.next ?_
    exact h

theorem execSwitchWaitExpiry_kept : ∀ {s0 s : State}, Kept s0 s → KeptO s0 (execSwitchWaitExpiry s) := by
  intro s0 s h
  unfold execSwitchWaitExpiry
  refine KeptO.next ?_
  refine Kept.ite ?_ ?_
  · refine State.abandonSwitch_kept ?_
    refine State.reach_kept ?_
    exact h
  · exact h

theorem execHostMemoryRead_kept : ∀ {s0 : State} {q : NqReq} {sramBad : Bool} {s : State}, Kept s0 s → KeptO s0 (execHostMemoryRead q sramBad s) := by
  intro s0 q sramBad s h
  unfold execHostMemoryRead
  refine KeptO.next ?_
  refine State.hostMemory_kept ?_
  exact h

theorem execHostMemoryWrite_kept : ∀ {s0 : State} {q : NqReq} {sramBad : Bool} {s : State}, Kept s0 s → KeptO s0 (execHostMemoryWrite q sramBad s) := by
  intro s0 q sramBad s h
  unfold execHostMemoryWrite
  refine KeptO.next ?_
  refine State.hostMemory_kept ?_
  exact h

theorem execHostMemoryAtomic_kept : ∀ {s0 : State} {q : NqReq} {sramBad : Bool} {s : State}, Kept s0 s → KeptO s0 (execHostMemoryAtomic q sramBad s) := by
  intro s0 q sramBad s h
  unfold execHostMemoryAtomic
  refine KeptO.next ?_
  refine State.hostMemory_kept ?_
  exact h

theorem execMemoryResponse_kept : ∀ {s0 : State} {r : MsResp} {s : State}, Kept s0 s → KeptO s0 (execMemoryResponse r s) := by
  intro s0 r s h
  unfold execMemoryResponse
  refine KeptO.next ?_
  refine Kept.ite ?_ ?_
  · refine State.unpark_kept ?_
    refine State.memResponse_kept ?_
    exact h
  · exact h

theorem execDirectWriteComplete_kept : ∀ {s0 : State} {id : BitVec 10} {s : State}, Kept s0 s → KeptO s0 (execDirectWriteComplete id s) := by
  intro s0 id s h
  unfold execDirectWriteComplete
  refine KeptO.ite ?_ ?_
  · refine KeptO.next ?_
    exact h
  · split
    · refine KeptO.next ?_
      refine State.unpark_kept ?_
      refine State.completeWrite_kept ?_
      exact h
    · refine KeptO.next ?_
      exact h

theorem State.foldWord_kept : ∀ {s0 s : State} {w : Nat}, Kept s0 s → Kept s0 (s.foldWord w) := by
  intro s0 s w h
  unfold State.foldWord
  refine State.putBytes_kept ?_
  exact h

theorem execFoldWalkerPass_kept : ∀ {s0 s : State}, Kept s0 s → KeptO s0 (execFoldWalkerPass s) := by
  intro s0 s h
  unfold execFoldWalkerPass
  extract_lets t1 t2
  have k3 : Kept s0 t1 := by
    unfold t1
    refine Kept.foldl ?_ ?_
    · exact h
    · intro t4 a5 k6
      refine State.foldWord_kept ?_
      exact k6
  clear_value t1
  have k7 : Kept s0 t2 := by
    unfold t2
    refine Kept.foldl ?_ ?_
    · exact k3
    · intro t8 a9 k10
      refine State.updCommit_kept ?_
      exact k10
  clear_value t2
  refine KeptO.ite ?_ ?_
  · refine KeptO.next ?_
    exact h
  · refine KeptO.next ?_
    refine Kept.foldl ?_ ?_
    · exact k7
    · intro t11 a12 k13
      refine Kept.ite ?_ ?_
      · refine State.follow_kept ?_
        refine State.tryOpen_kept ?_
        exact k13
      · exact k13

theorem State.updCtx_kept : ∀ {s0 s : State} {f : CtxS → CtxS}, Kept s0 s → Kept s0 (s.updCtx f) := by
  intro s0 s f h
  unfold State.updCtx
  exact h.same rfl

theorem State.ctxResult_kept : ∀ {s0 s : State} {r : Nat}, Kept s0 s → Kept s0 (s.ctxResult r) := by
  intro s0 s r h
  unfold State.ctxResult
  extract_lets v1 t2
  clear_value v1
  have k3 : Kept s0 t2 := by
    unfold t2
    refine State.updCtx_kept ?_
    exact h
  clear_value t2
  refine Kept.ite ?_ ?_
  · exact k3
  · refine State.raise_kept ?_
    exact k3

theorem State.ctxCmd_kept : ∀ {s0 s : State} {a : Acc} {op : BitVec 4} {f : State → Nat → State},
  Kept s0 s → (∀ (a : State) (a_1 : Nat), Kept s0 a → Kept s0 (f a a_1)) → KeptO s0 (s.ctxCmd a op f) := by
  intro s0 s a op f h hf1
  unfold State.ctxCmd
  refine KeptO.next ?_
  refine State.window_kept ?_ ?_
  · exact h
  · intro t1 k2
    refine hf1 _ _ ?_
    refine State.updCtx_kept ?_
    exact k2

theorem execCtxRead_kept : ∀ {s0 : State} {a : Acc} {s : State}, Kept s0 s → KeptO s0 (execCtxRead a s) := by
  intro s0 a s h
  unfold execCtxRead
  refine State.ctxCmd_kept ?_ ?_
  · exact h
  · intro t1 a2 k3
    split
    · refine State.ctxResult_kept ?_
      refine State.updCtx_kept ?_
      exact k3
    · refine Kept.ite ?_ ?_
      · refine State.ctxResult_kept ?_
        exact k3
      · refine State.ctxResult_kept ?_
        refine State.updCtx_kept ?_
        exact k3

theorem execFind_kept : ∀ {s0 : State} {a : Acc} {s : State}, Kept s0 s → KeptO s0 (execFind a s) := by
  intro s0 a s h
  unfold execFind
  refine State.ctxCmd_kept ?_ ?_
  · exact h
  · intro t1 a2 k3
    extract_lets v4 v5
    clear_value v4
    clear_value v5
    refine Kept.ite ?_ ?_
    · refine State.ctxResult_kept ?_
      exact k3
    · split
      · refine State.ctxResult_kept ?_
        refine State.updCtx_kept ?_
        exact k3
      · refine State.ctxResult_kept ?_
        exact k3

theorem execInstall_kept : ∀ {s0 : State} {a : Acc} {s : State}, Kept s0 s → KeptO s0 (execInstall a s) := by
  intro s0 a s h
  unfold execInstall
  refine State.ctxCmd_kept ?_ ?_
  · exact h
  · intro t1 a2 k3
    extract_lets v4
    clear_value v4
    split
    · refine State.ctxResult_kept ?_
      refine State.setEntry_kept ?_
      exact k3
    · refine State.ctxResult_kept ?_
      exact k3

theorem execModify_kept : ∀ {s0 : State} {a : Acc} {s : State}, Kept s0 s → KeptO s0 (execModify a s) := by
  intro s0 a s h
  unfold execModify
  refine State.ctxCmd_kept ?_ ?_
  · exact h
  · intro t1 a2 k3
    split
    · refine State.ctxResult_kept ?_
      exact k3
    · refine Kept.ite ?_ ?_
      · refine State.ctxResult_kept ?_
        exact k3
      · split
        · refine State.ctxResult_kept ?_
          exact k3
        · split
          · refine State.ctxResult_kept ?_
            exact k3
          · refine Kept.ite ?_ ?_
            · refine State.ctxResult_kept ?_
              exact k3
            · refine Kept.ite ?_ ?_
              · refine State.ctxResult_kept ?_
                exact k3
              · refine State.ctxResult_kept ?_
                refine State.setEntry_kept ?_
                exact k3

theorem execRetire_kept : ∀ {s0 : State} {a : Acc} {s : State}, Kept s0 s → KeptO s0 (execRetire a s) := by
  intro s0 a s h
  unfold execRetire
  refine State.ctxCmd_kept ?_ ?_
  · exact h
  · intro t1 a2 k3
    split
    · refine State.ctxResult_kept ?_
      exact k3
    · refine Kept.ite ?_ ?_
      · refine State.ctxResult_kept ?_
        exact k3
      · refine Kept.ite ?_ ?_
        · refine State.ctxResult_kept ?_
          exact k3
        · refine Kept.ite ?_ ?_
          · refine State.ctxResult_kept ?_
            refine State.setEntry_kept ?_
            exact k3
          · refine State.ctxResult_kept ?_
            refine State.freeRegion_kept ?_
            exact k3

theorem State.sendOffer_kept : ∀ {s0 s : State} {o : Offer}, Kept s0 s → Kept s0 (s.sendOffer o) := by
  intro s0 s o h
  unfold State.sendOffer
  refine State.send_kept ?_
  exact h

theorem State.beginOffer_kept : ∀ {s0 s : State} {o : Offer}, Kept s0 s → Kept s0 (s.beginOffer o) := by
  intro s0 s o h
  unfold State.beginOffer
  refine State.sendOffer_kept ?_
  refine State.updCtx_kept ?_
  exact h

theorem execHandoverOut_kept : ∀ {s0 : State} {a : Acc} {s : State}, Kept s0 s → KeptO s0 (execHandoverOut a s) := by
  intro s0 a s h
  unfold execHandoverOut
  refine State.ctxCmd_kept ?_ ?_
  · exact h
  · intro t1 a2 k3
    split
    · refine State.ctxResult_kept ?_
      exact k3
    · refine Kept.ite ?_ ?_
      · refine State.ctxResult_kept ?_
        exact k3
      · split
        · refine State.ctxResult_kept ?_
          exact k3
        · extract_lets v14
          clear_value v14
          refine Kept.ite ?_ ?_
          · refine State.ctxResult_kept ?_
            exact k3
          · refine State.ctxResult_kept ?_
            refine State.beginOffer_kept ?_
            exact k3

theorem execHandoverOfferRepeat_kept : ∀ {s0 : State} {ctx : Nat} {s : State}, Kept s0 s → KeptO s0 (execHandoverOfferRepeat ctx s) := by
  intro s0 ctx s h
  unfold execHandoverOfferRepeat
  refine KeptO.next ?_
  refine Kept.foldl ?_ ?_
  · exact h
  · intro t1 a2 k3
    extract_lets t4
    have k5 : Kept s0 t4 := by
      unfold t4
      refine State.reach_kept ?_
      exact k3
    clear_value t4
    refine Kept.ite ?_ ?_
    · refine State.sendOffer_kept ?_
      refine State.updCtx_kept ?_
      exact k5
    · refine State.raise_kept ?_
      refine State.updCtx_kept ?_
      exact k5

end Sys2Proof.Machine
end

