-- ==== Sys2Proof/Laws/KeptSkim.lean ====
section
/-! SUPPORT. What is kept by the skim path, membership and Fox. -/

namespace Sys2Proof.Machine

theorem State.sendCopy_kept : ∀ {s0 s : State} {i : Fin 64} {r : HawkRec} {a : Addr}, Kept s0 s → Kept s0 (s.sendCopy i r a) := by
  intro s0 s i r a h
  unfold State.sendCopy
  refine State.send_kept ?_
  exact h

theorem State.reissue_kept : ∀ {s0 s : State} {i : Fin 64}, Kept s0 s → Kept s0 (s.reissue i) := by
  intro s0 s i h
  unfold State.reissue
  extract_lets t1
  have k2 : Kept s0 t1 := by
    unfold t1
    refine State.dropCopies_kept ?_
    exact h
  clear_value t1
  refine Kept.foldl ?_ ?_
  · exact k2
  · intro t3 a4 k5
    refine Kept.foldl ?_ ?_
    · exact k5
    · intro t6 a7 k8
      refine State.count_kept ?_
      refine State.send_kept ?_
      exact k8

theorem State.replaceRec_kept : ∀ {s0 s : State} {old new : HawkRec}, Kept s0 s → Kept s0 (s.replaceRec old new) := by
  intro s0 s old new h
  unfold State.replaceRec
  extract_lets v1
  clear_value v1
  exact h.same rfl

theorem State.firstSend_kept : ∀ {s0 s : State} {i : Fin 64} {k col : Nat} {r : HawkRec} {h : Nat} {hs : List Addr},
  Kept s0 s → Kept s0 (s.firstSend i k col r h hs) := by
  intro s0 s i k col r h hs h_8
  unfold State.firstSend
  extract_lets v1 v2 t3
  clear_value v1
  clear_value v2
  have k4 : Kept s0 t3 := by
    unfold t3
    refine State.updSlot_kept ?_
    refine State.replaceRec_kept ?_
    exact h_8
  clear_value t3
  refine State.freeReleased_kept ?_
  refine State.send_kept ?_
  exact k4

theorem Kept.withHawk {s0 s : State} {x : HawkS} (h : Kept s0 s) : Kept s0 { s with hawk := x } := h.same rfl

theorem State.sendFrom_kept {s0 s : State} {i : Fin 64} {slot : Fin 16} (h : Kept s0 s) : Kept s0 (s.sendFrom i slot).1 := by
  unfold State.sendFrom
  extract_lets k sl
  split
  · exact h
  · refine foldl_wf (fun acc : State × Bool => Kept s0 acc.1) _ _ _ h fun acc col ka => ?_
    dsimp only
    split
    · exact ka
    · split
      · exact ka
      · split
        · exact ka
        · split
          · exact Kept.withHawk (State.firstSend_kept ka)
          · exact State.count_kept ka

theorem execSkimDeltaSend_kept {s0 s : State} {now : BitVec 64} (h : Kept s0 s) : KeptO s0 (execSkimDeltaSend now s) := by
  unfold execSkimDeltaSend
  refine KeptO.ite h (KeptO.next ?_)
  refine foldl_wf (fun acc : State × Bool => Kept s0 acc.1) _ _ _ (State.at__kept h) fun acc slot ka => ?_
  dsimp only
  split
  · exact ka
  · split
    · exact ka
    · split
      · exact State.follow_kept (State.sendFrom_kept ka)
      · exact State.sendFrom_kept ka

theorem execEpochMarkSend_kept : ∀ {s0 : State} {slot : Fin 16} {s : State}, Kept s0 s → KeptO s0 (execEpochMarkSend slot s) := by
  intro s0 slot s h
  unfold execEpochMarkSend
  extract_lets v1 v2
  clear_value v1
  clear_value v2
  split
  · extract_lets v12 t13
    clear_value v12
    have k14 : Kept s0 t13 := by
      unfold t13
      refine State.updSlot_kept ?_
      refine State.replaceRec_kept ?_
      exact h
    clear_value t13
    refine KeptO.ite ?_ ?_
    · refine KeptO.next ?_
      exact h
    · refine KeptO.next ?_
      refine State.follow_kept ?_
      refine State.freeReleased_kept ?_
      refine State.send_kept ?_
      exact k14
  · refine KeptO.next ?_
    exact h

theorem execSkimAckSend_kept : ∀ {s0 : State} {slot : Fin 16} {rank : Nat} {s : State}, Kept s0 s → KeptO s0 (execSkimAckSend slot rank s) := by
  intro s0 slot rank s h
  unfold execSkimAckSend
  extract_lets v1 v2 t3
  clear_value v1
  clear_value v2
  have k4 : Kept s0 t3 := by
    unfold t3
    refine State.updSlot_kept ?_
    exact h
  clear_value t3
  split
  · extract_lets v11
    clear_value v11
    refine KeptO.next ?_
    refine Kept.ite ?_ ?_
    · refine State.sendReply_kept ?_
      exact k4
    · exact h
  · refine KeptO.next ?_
    exact h

theorem execSkimAck_kept : ∀ {s0 : State} {f : Rx} {s : State}, Kept s0 s → KeptO s0 (execSkimAck f s) := by
  intro s0 f s h
  unfold execSkimAck
  extract_lets v1 v2 v3
  clear_value v1
  clear_value v2
  clear_value v3
  refine KeptO.next ?_
  refine State.receive_kept ?_ ?_
  · exact h
  · intro t4 a5 k6
    extract_lets t7
    have k8 : Kept s0 t7 := by
      unfold t7
      refine State.releaseFor_kept ?_
      exact k6
    clear_value t7
    refine Kept.ite ?_ ?_
    · refine State.frameEvent_kept ?_
      exact k6
    · refine State.follow_kept ?_
      exact k8

theorem State.accumulate_kept {s0 s : State} {i : Fin 64} {k e o : Nat} {bytes : List Byte} {flt : ReadFault} (h : Kept s0 s) :
    Kept s0 (s.accumulate i k e o bytes flt) := by
  unfold State.accumulate
  extract_lets d r att to_ missing old from_ base word new unread bad s1 s2 s3
  clear_value d r att to_ missing
  clear_value old from_
  clear_value base
  clear_value word new unread
  clear_value bad
  have k1 : Kept s0 s1 := by unfold s1; exact State.setKept_kept (State.putBytes_kept h)
  clear_value s1
  have k2 : Kept s0 s2 := by unfold s2; exact State.setDir_kept k1
  clear_value s2
  have k3 : Kept s0 s3 := by
    unfold s3
    cases flt
    case stack => exact k2
    case digestWord => exact State.raise_kept (State.raiseT_kept k2)
    all_goals exact State.raise_kept k2
  clear_value s3
  refine Kept.ite (State.setKept_kept (State.putBytes_kept h)) (Kept.ite k2 ?_)
  exact State.withhold_kept (State.raise_kept (State.queueRepair_kept k3))

theorem State.updSource_kept : ∀ {s0 s : State} {k r : Nat} {f : SrcEntry → SrcEntry}, Kept s0 s → Kept s0 (s.updSource k r f) := by
  intro s0 s k r f h
  unfold State.updSource
  refine State.updSlot_kept ?_
  exact h

theorem State.protocolFault_kept : ∀ {s0 s : State} {f : Rx}, Kept s0 s → Kept s0 (s.protocolFault f) := by
  intro s0 s f h
  unfold State.protocolFault
  refine State.frameEvent_kept ?_
  exact h

theorem execSkimDelta_kept : ∀ {s0 : State} {f : Rx} {flt : ReadFault} {s : State}, Kept s0 s → KeptO s0 (execSkimDelta f flt s) := by
  intro s0 f flt s h
  unfold execSkimDelta
  extract_lets v1 v2 v3 v4 v5
  clear_value v1
  clear_value v2
  clear_value v3
  clear_value v4
  clear_value v5
  refine KeptO.next ?_
  refine State.receive_kept ?_ ?_
  · exact h
  · intro t6 a7 k8
    split
    · exact k8
    · extract_lets v14 t15
      clear_value v14
      have k16 : Kept s0 t15 := by
        unfold t15
        refine State.accumulate_kept ?_
        exact k8
      clear_value t15
      split
      · exact k8
      · extract_lets v22 v23
        clear_value v22
        clear_value v23
        refine Kept.ite ?_ ?_
        · exact k8
        · refine Kept.ite ?_ ?_
          · refine State.protocolFault_kept ?_
            exact k8
          · refine Kept.ite ?_ ?_
            · refine State.updSource_kept ?_
              refine State.count_kept ?_
              exact k8
            · refine State.follow_kept ?_
              refine State.countN_kept ?_
              refine State.updSource_kept ?_
              exact k16

theorem execEpochMark_kept : ∀ {s0 : State} {f : Rx} {s : State}, Kept s0 s → KeptO s0 (execEpochMark f s) := by
  intro s0 f s h
  unfold execEpochMark
  extract_lets v1
  clear_value v1
  refine KeptO.next ?_
  refine State.receive_kept ?_ ?_
  · exact h
  · intro t2 a3 k4
    split
    · exact k4
    · split
      · exact k4
      · split
        · exact k4
        · extract_lets v20 v21
          clear_value v20
          clear_value v21
          refine Kept.ite ?_ ?_
          · exact k4
          · refine Kept.ite ?_ ?_
            · refine State.protocolFault_kept ?_
              exact k4
            · refine Kept.ite ?_ ?_
              · refine State.follow_kept ?_
                refine State.withhold_kept ?_
                refine State.protocolFault_kept ?_
                exact k4
              · refine Kept.ite ?_ ?_
                · refine State.updSource_kept ?_
                  refine State.count_kept ?_
                  exact k4
                · refine State.follow_kept ?_
                  refine State.updSource_kept ?_
                  exact k4

theorem State.mapWatch_kept : ∀ {s0 s : State} {p : Watch → Bool} {f : Watch → Watch}, Kept s0 s → Kept s0 (s.mapWatch p f) := by
  intro s0 s p f h
  unfold State.mapWatch
  exact h.same rfl

theorem State.startRound_kept : ∀ {s0 s : State} {idx start : Nat}, Kept s0 s → Kept s0 (s.startRound idx start) := by
  intro s0 s idx start h
  unfold State.startRound
  split
  · exact h
  · extract_lets v6 v7 v8 v9 t10
    clear_value v6
    clear_value v7
    clear_value v8
    clear_value v9
    have k11 : Kept s0 t10 := by
      unfold t10
      exact h.same rfl
    clear_value t10
    refine Kept.foldl ?_ ?_
    · exact k11
    · intro t12 a13 k14
      refine State.send_kept ?_
      exact k14

theorem State.suspect_kept : ∀ {s0 s : State} {idx : Nat}, Kept s0 s → Kept s0 (s.suspect idx) := by
  intro s0 s idx h
  unfold State.suspect
  extract_lets t1
  have k2 : Kept s0 t1 := by
    unfold t1
    exact h.same rfl
  clear_value t1
  refine State.startRound_kept ?_
  refine State.count_kept ?_
  exact k2

theorem State.unreachable_kept : ∀ {s0 s : State} {i : Fin 64} {a : Addr}, Kept s0 s → Kept s0 (s.unreachable i a) := by
  intro s0 s i a h
  unfold State.unreachable
  refine Kept.foldl ?_ ?_
  · exact h
  · intro t1 a2 k3
    split
    · refine Kept.ite ?_ ?_
      · refine State.suspect_kept ?_
        exact k3
      · exact k3
    · exact k3

theorem State.takeReport_kept : ∀ {s0 s : State} {i : Fin 64} {r : Report}, Kept s0 s → Kept s0 (s.takeReport i r) := by
  intro s0 s i r h
  unfold State.takeReport
  extract_lets v1
  clear_value v1
  refine Kept.ite ?_ ?_
  · refine Kept.ite ?_ ?_
    · refine State.raiseT_kept ?_
      exact h
    · exact h
  · refine Kept.ite ?_ ?_
    · exact h
    · refine State.updFox_kept ?_
      exact h

theorem State.sendReport_kept : ∀ {s0 s : State} {i : Fin 64} {r : Report}, Kept s0 s → Kept s0 (s.sendReport i r) := by
  intro s0 s i r h
  unfold State.sendReport
  extract_lets t1 v2
  have k3 : Kept s0 t1 := by
    unfold t1
    refine State.updFox_kept ?_
    exact h
  clear_value t1
  clear_value v2
  refine Kept.ite ?_ ?_
  · refine State.takeReport_kept ?_
    exact k3
  · split
    · exact k3
    · refine State.send_kept ?_
      exact k3

theorem State.report_kept : ∀ {s0 s : State} {i : Fin 64} {subject : Addr} {imask : BitVec 12} {cause : BitVec 4},
  Kept s0 s → Kept s0 (s.report i subject imask cause) := by
  intro s0 s i subject imask cause h
  unfold State.report
  extract_lets v1 v2
  clear_value v1
  clear_value v2
  refine Kept.ite ?_ ?_
  · refine Kept.ite ?_ ?_
    · refine State.sendReport_kept ?_
      exact h
    · exact h
  · refine State.sendReport_kept ?_
    refine State.updFox_kept ?_
    exact h

theorem State.confirm_kept : ∀ {s0 s : State} {idx event : Nat} {cause : BitVec 4}, Kept s0 s → Kept s0 (s.confirm idx event cause) := by
  intro s0 s idx event cause h
  unfold State.confirm
  split
  · exact h
  · extract_lets t6
    have k7 : Kept s0 t6 := by
      unfold t6
      refine State.mapWatch_kept ?_
      exact h
    clear_value t6
    refine State.report_kept ?_
    refine State.raiseT_kept ?_
    exact k7

theorem State.wrongIdentity_kept : ∀ {s0 s : State} {i : Fin 64} {a : Addr}, Kept s0 s → Kept s0 (s.wrongIdentity i a) := by
  intro s0 s i a h
  unfold State.wrongIdentity
  refine State.report_kept ?_
  refine State.raiseT_kept ?_
  exact h

theorem State.nameTargets_kept : ∀ {s0 s : State} {i : Fin 64}, Kept s0 s → Kept s0 (s.nameTargets i) := by
  intro s0 s i h
  unfold State.nameTargets
  refine Kept.ite ?_ ?_
  · exact h
  · refine Kept.foldl ?_ ?_
    · exact h
    · intro t1 a2 k3
      extract_lets v4
      clear_value v4
      refine Kept.ite ?_ ?_
      · exact k3
      · split
        · refine State.updFox_kept ?_
          exact k3
        · refine Kept.ite ?_ ?_
          · exact k3
          · refine State.raiseT_kept ?_
            refine State.updFox_kept ?_
            exact k3

theorem State.sendUpdate_kept : ∀ {s0 s : State} {i : Fin 64} {u : Update} {dst : Dst}, Kept s0 s → Kept s0 (s.sendUpdate i u dst) := by
  intro s0 s i u dst h
  unfold State.sendUpdate
  refine State.send_kept ?_
  exact h

theorem State.updateTree_kept : ∀ {s0 s : State} {i : Fin 64} {job : Bool} {u : Update}, Kept s0 s → Kept s0 (s.updateTree i job u) := by
  intro s0 s i job u h
  unfold State.updateTree
  refine Kept.foldl ?_ ?_
  · exact h
  · intro t1 a2 k3
    split
    · refine State.sendUpdate_kept ?_
      exact k3
    · exact k3

theorem State.relayUpdate_kept : ∀ {s0 s : State} {i : Fin 64} {u : Update} {issued lath : Bool}, Kept s0 s → Kept s0 (s.relayUpdate i u issued lath) := by
  intro s0 s i u issued lath h
  unfold State.relayUpdate
  extract_lets t1 v2 t3
  have k4 : Kept s0 t1 := by
    unfold t1
    refine Kept.ite ?_ ?_
    · refine State.updateTree_kept ?_
      exact h
    · exact h
  clear_value t1
  clear_value v2
  have k5 : Kept s0 t3 := by
    unfold t3
    refine Kept.ite ?_ ?_
    · refine Kept.foldl ?_ ?_
      · refine State.updateTree_kept ?_
        exact k4
      · intro t6 a7 k8
        refine State.sendUpdate_kept ?_
        exact k8
    · exact k4
  clear_value t3
  refine Kept.ite ?_ ?_
  · exact k5
  · refine State.lathSend_kept ?_
    exact k5

theorem State.fenceSelf_kept : ∀ {s0 s : State} {i : Fin 64}, Kept s0 s → Kept s0 (s.fenceSelf i) := by
  intro s0 s i h
  unfold State.fenceSelf
  extract_lets t1 t2
  have k3 : Kept s0 t1 := by
    unfold t1
    refine State.updFox_kept ?_
    refine State.raiseT_kept ?_
    exact h
  clear_value t1
  have k4 : Kept s0 t2 := by
    unfold t2
    refine State.holdSweep_kept ?_
    exact k3
  clear_value t2
  refine Kept.foldl ?_ ?_
  · exact k4
  · intro t5 a6 k7
    refine State.contain_kept ?_
    exact k7

theorem State.unfence_kept : ∀ {s0 s : State} {i : Fin 64}, Kept s0 s → Kept s0 (s.unfence i) := by
  intro s0 s i h
  unfold State.unfence
  extract_lets v1
  clear_value v1
  refine Kept.ite ?_ ?_
  · refine State.updFox_kept ?_
    exact h
  · exact h

theorem State.becomeTarget_kept : ∀ {s0 s : State} {i : Fin 64} {subject : Addr}, Kept s0 s → Kept s0 (s.becomeTarget i subject) := by
  intro s0 s i subject h
  unfold State.becomeTarget
  extract_lets t1
  have k2 : Kept s0 t1 := by
    unfold t1
    refine State.updBg_kept ?_
    refine State.raiseT_kept ?_
    exact h
  clear_value t1
  refine State.requestOwn_kept ?_
  refine State.unfence_kept ?_
  exact k2

theorem State.watchUpdate_kept : ∀ {s0 s : State} {i : Fin 64} {u : Update}, Kept s0 s → Kept s0 (s.watchUpdate i u) := by
  intro s0 s i u h
  unfold State.watchUpdate
  refine Kept.ite ?_ ?_
  · refine State.mapWatch_kept ?_
    exact h
  · refine Kept.ite ?_ ?_
    · refine State.mapWatch_kept ?_
      exact h
    · refine Kept.ite ?_ ?_
      · refine State.mapWatch_kept ?_
        exact h
      · exact h

theorem State.resolicit_kept : ∀ {s0 s : State} {i : Fin 64}, Kept s0 s → Kept s0 (s.resolicit i) := by
  intro s0 s i h
  unfold State.resolicit
  extract_lets v1 t2 t3
  clear_value v1
  have k4 : Kept s0 t2 := by
    unfold t2
    refine State.updCommit_kept ?_
    refine State.syncRoles_kept ?_
    exact h
  clear_value t2
  have k5 : Kept s0 t3 := by
    unfold t3
    refine Kept.ite ?_ ?_
    · refine State.solicit_kept ?_
      exact k4
    · exact k4
  clear_value t3
  refine Kept.ite ?_ ?_
  · exact k4
  · refine Kept.ite ?_ ?_
    · refine State.solicit_kept ?_
      exact k5
    · exact k5

theorem State.tryForm_kept : ∀ {s0 s : State} {i : Fin 64} {k : Nat}, Kept s0 s → Kept s0 (s.tryForm i k) := by
  intro s0 s i k h
  unfold State.tryForm
  extract_lets v1 t2
  clear_value v1
  have k3 : Kept s0 t2 := by
    unfold t2
    refine State.updSlot_kept ?_
    exact h
  clear_value t2
  refine Kept.ite ?_ ?_
  · refine State.judgeSlot_kept ?_
    exact k3
  · exact h

theorem State.tryForms_kept : ∀ {s0 s : State} {i : Fin 64}, Kept s0 s → Kept s0 (s.tryForms i) := by
  intro s0 s i h
  unfold State.tryForms
  refine Kept.foldl ?_ ?_
  · exact h
  · intro t1 a2 k3
    refine State.tryForm_kept ?_
    exact k3

theorem State.advanceGen_kept : ∀ {s0 s : State} {i : Fin 64}, Kept s0 s → Kept s0 (s.advanceGen i) := by
  intro s0 s i h
  unfold State.advanceGen
  refine State.updCommit_kept ?_
  exact h

theorem State.applyUpdate_kept : ∀ {s0 s : State} {i : Fin 64} {u : Update} {issued lath : Bool}, Kept s0 s → Kept s0 (s.applyUpdate i u issued lath) := by
  intro s0 s i u issued lath h
  unfold State.applyUpdate
  extract_lets v1 v2 t3 t4 t5 t6 t7 t8 t9 t10 t11 t12 t13 t14
  clear_value v1
  clear_value v2
  have k15 : Kept s0 t3 := by
    unfold t3
    refine State.updFox_kept ?_
    exact h
  clear_value t3
  have k16 : Kept s0 t4 := by
    unfold t4
    refine State.updTen_kept ?_
    exact k15
  clear_value t4
  have k17 : Kept s0 t5 := by
    unfold t5
    refine State.relayUpdate_kept ?_
    exact k16
  clear_value t5
  have k18 : Kept s0 t6 := by
    unfold t6
    refine Kept.ite ?_ ?_
    · refine Kept.foldl ?_ ?_
      · exact k17
      · intro t19 a20 k21
        refine State.releaseFenced_kept ?_
        exact k21
    · exact k17
  clear_value t6
  have k22 : Kept s0 t7 := by
    unfold t7
    refine State.syncRanks_kept ?_
    refine State.watchUpdate_kept ?_
    exact k18
  clear_value t7
  have k23 : Kept s0 t8 := by
    unfold t8
    refine Kept.ite ?_ ?_
    · refine State.fenceSelf_kept ?_
      exact k22
    · exact k22
  clear_value t8
  have k24 : Kept s0 t9 := by
    unfold t9
    refine Kept.ite ?_ ?_
    · refine State.becomeTarget_kept ?_
      exact k23
    · exact k23
  clear_value t9
  have k25 : Kept s0 t10 := by
    unfold t10
    refine Kept.ite ?_ ?_
    · refine State.advanceGen_kept ?_
      exact k24
    · exact k24
  clear_value t10
  have k26 : Kept s0 t11 := by
    unfold t11
    refine Kept.ite ?_ ?_
    · refine State.resliceFault_kept ?_
      exact k25
    · exact k25
  clear_value t11
  have k27 : Kept s0 t12 := by
    unfold t12
    refine State.resolicit_kept ?_
    refine State.badgerGeneration_kept ?_
    refine State.reissue_kept ?_
    refine State.retryRepairs_kept ?_
    exact k26
  clear_value t12
  have k28 : Kept s0 t13 := by
    unfold t13
    refine State.nameTargets_kept ?_
    exact k27
  clear_value t13
  have k29 : Kept s0 t14 := by
    unfold t14
    refine Kept.ite ?_ ?_
    · refine Kept.foldl ?_ ?_
      · exact k28
      · intro t30 a31 k32
        refine State.raiseT_kept ?_
        exact k32
    · exact k28
  clear_value t14
  refine State.follow_kept ?_
  refine State.syncGroups_kept ?_
  refine State.tryForms_kept ?_
  exact k29

theorem State.issueUpdate_kept : ∀ {s0 s : State} {i : Fin 64} {n : Nat} {kind : BitVec 4} {named : List Addr} {subject target : Addr},
  Kept s0 s → Kept s0 (s.issueUpdate i n kind named subject target) := by
  intro s0 s i n kind named subject target h
  unfold State.issueUpdate
  extract_lets v1 v2 t3 t4 t5
  clear_value v1
  clear_value v2
  have k6 : Kept s0 t3 := by
    unfold t3
    refine State.updFox_kept ?_
    exact h
  clear_value t3
  have k7 : Kept s0 t4 := by
    unfold t4
    refine Kept.ite ?_ ?_
    · refine State.raiseT_kept ?_
      exact k6
    · exact k6
  clear_value t4
  have k8 : Kept s0 t5 := by
    unfold t5
    refine State.applyUpdate_kept ?_
    exact k7
  clear_value t5
  refine Kept.ite ?_ ?_
  · refine Kept.ite ?_ ?_
    · exact h
    · refine State.raiseT_kept ?_
      refine State.updFox_kept ?_
      exact h
  · refine Kept.ite ?_ ?_
    · refine Kept.foldl ?_ ?_
      · exact k8
      · intro t9 a10 k11
        refine State.send_kept ?_
        exact k11
    · exact k8

theorem State.holdReports_kept : ∀ {s0 s : State} {i : Fin 64}, Kept s0 s → Kept s0 (s.holdReports i) := by
  intro s0 s i h
  unfold State.holdReports
  extract_lets v1 t2
  clear_value v1
  have k3 : Kept s0 t2 := by
    unfold t2
    refine State.updFox_kept ?_
    exact h
  clear_value t2
  refine Kept.foldl ?_ ?_
  · exact k3
  · intro t4 a5 k6
    refine State.raiseT_kept ?_
    exact k6

theorem State.issueNext_kept : ∀ {s0 s : State} {i : Fin 64}, Kept s0 s → Kept s0 (s.issueNext i) := by
  intro s0 s i h
  unfold State.issueNext
  extract_lets t1 v2 t3
  have k4 : Kept s0 t1 := by
    unfold t1
    refine Kept.foldl ?_ ?_
    · exact h
    · intro t5 a6 k7
      refine State.takeReport_kept ?_
      exact k7
  clear_value t1
  clear_value v2
  have k8 : Kept s0 t3 := by
    unfold t3
    refine State.holdReports_kept ?_
    exact k4
  clear_value t3
  split
  · exact h
  · split
    · extract_lets v18
      clear_value v18
      refine Kept.ite ?_ ?_
      · refine State.issueUpdate_kept ?_
        exact k4
      · refine State.holdReports_kept ?_
        exact k4
    · split
      · refine State.issueUpdate_kept ?_
        exact k4
      · split
        · refine State.issueUpdate_kept ?_
          exact k8
        · exact k8

theorem execHeartbeatSend_kept : ∀ {s0 : State} {tidx : Fin 64} {now : BitVec 64} {s : State}, Kept s0 s → KeptO s0 (execHeartbeatSend tidx now s) := by
  intro s0 tidx now s h
  unfold execHeartbeatSend
  extract_lets t1 v2 v3 v4 t5
  have k6 : Kept s0 t1 := by
    unfold t1
    refine State.updFox_kept ?_
    refine State.at__kept ?_
    exact h
  clear_value t1
  clear_value v2
  clear_value v3
  clear_value v4
  have k7 : Kept s0 t5 := by
    unfold t5
    refine Kept.foldl ?_ ?_
    · exact k6
    · intro t8 a9 k10
      refine State.toPeers_kept ?_
      exact k10
  clear_value t5
  refine KeptO.ite ?_ ?_
  · refine KeptO.next ?_
    exact h
  · refine KeptO.next ?_
    refine Kept.foldl ?_ ?_
    · exact k7
    · intro t11 a12 k13
      refine State.send_kept ?_
      exact k13

theorem execHeartbeat_kept : ∀ {s0 : State} {f : Rx} {s : State}, Kept s0 s → KeptO s0 (execHeartbeat f s) := by
  intro s0 f s h
  unfold execHeartbeat
  extract_lets v1 v2
  clear_value v1
  clear_value v2
  refine KeptO.next ?_
  refine State.receive_kept ?_ ?_
  · exact h
  · intro t3 a4 k5
    extract_lets v6
    refine Kept.ite ?_ ?_
    · refine State.wrongIdentity_kept ?_
      exact k5
    · refine State.follow_kept ?_
      refine State.tryForms_kept ?_
      refine State.mapWatch_kept ?_
      exact k5

theorem execFence_kept : ∀ {s0 : State} {f : Rx} {s : State}, Kept s0 s → KeptO s0 (execFence f s) := by
  intro s0 f s h
  unfold execFence
  refine KeptO.next ?_
  refine State.receive_kept ?_ ?_
  · exact h
  · intro t1 a2 k3
    refine Kept.ite ?_ ?_
    · refine State.querySync_kept ?_
      exact k3
    · exact k3

theorem execSuspicionDeadline_kept : ∀ {s0 : State} {entry : Nat} {s : State}, Kept s0 s → KeptO s0 (execSuspicionDeadline entry s) := by
  intro s0 entry s h
  unfold execSuspicionDeadline
  split
  · refine KeptO.next ?_
    exact h
  · refine KeptO.ite ?_ ?_
    · refine KeptO.next ?_
      exact h
    · refine KeptO.next ?_
      refine State.suspect_kept ?_
      refine State.reach_kept ?_
      exact h

theorem execConfirmWaitExpiry_kept : ∀ {s0 : State} {entry : Nat} {s : State}, Kept s0 s → KeptO s0 (execConfirmWaitExpiry entry s) := by
  intro s0 entry s h
  unfold execConfirmWaitExpiry
  split
  · refine KeptO.next ?_
    exact h
  · refine KeptO.ite ?_ ?_
    · refine KeptO.next ?_
      exact h
    · split
      · refine KeptO.next ?_
        refine State.startRound_kept ?_
        exact h
      · extract_lets t11
        have k12 : Kept s0 t11 := by
          unfold t11
          refine State.reach_kept ?_
          exact h
        clear_value t11
        refine KeptO.next ?_
        refine Kept.ite ?_ ?_
        · refine State.startRound_kept ?_
          exact k12
        · refine State.follow_kept ?_
          refine State.confirm_kept ?_
          exact k12

theorem execDiscWaitExpiry_kept : ∀ {s0 : State} {entry : Nat} {s : State}, Kept s0 s → KeptO s0 (execDiscWaitExpiry entry s) := by
  intro s0 entry s h
  unfold execDiscWaitExpiry
  split
  · refine KeptO.next ?_
    exact h
  · refine KeptO.next ?_
    refine Kept.ite ?_ ?_
    · refine State.suspect_kept ?_
      refine State.reach_kept ?_
      exact h
    · exact h

theorem State.reportAt_kept : ∀ {s0 s : State} {addr : Addr} {chip : Bool} {j : Nat}, Kept s0 s → Kept s0 (s.reportAt addr chip j) := by
  intro s0 s addr chip j h
  unfold State.reportAt
  split
  · exact h
  · refine Kept.ite ?_ ?_
    · exact h
    · split
      · exact h
      · exact h
      · exact h
      · refine Kept.ite ?_ ?_
        · refine State.raiseT_kept ?_
          exact h
        · refine State.follow_kept ?_
          refine State.confirm_kept ?_
          exact h

theorem execFabricManagerReport_kept : ∀ {s0 : State} {a : Acc} {addr : Addr} {chip : Bool} {now : BitVec 64} {s : State},
  Kept s0 s → KeptO s0 (execFabricManagerReport a addr chip now s) := by
  intro s0 a addr chip now s h
  unfold execFabricManagerReport
  extract_lets v1 t2
  clear_value v1
  have k3 : Kept s0 t2 := by
    unfold t2
    refine State.ok_kept ?_
    refine State.at__kept ?_
    exact h.same rfl
  clear_value t2
  refine KeptO.ite ?_ ?_
  · refine KeptO.next ?_
    exact h
  · refine KeptO.ite ?_ ?_
    · refine KeptO.next ?_
      refine State.refuse_kept ?_
      exact h
    · refine KeptO.next ?_
      refine Kept.foldl ?_ ?_
      · exact k3
      · intro t4 a5 k6
        refine State.reportAt_kept ?_
        exact k6

theorem execMembershipQuerySync_kept : ∀ {s0 : State} {f : Rx} {s : State}, Kept s0 s → KeptO s0 (execMembershipQuerySync f s) := by
  intro s0 f s h
  unfold execMembershipQuerySync
  extract_lets v1
  clear_value v1
  refine KeptO.next ?_
  refine State.receive_kept ?_ ?_
  · exact h
  · intro t2 a3 k4
    extract_lets v5 v6
    clear_value v5
    clear_value v6
    refine Kept.ite ?_ ?_
    · refine Kept.ite ?_ ?_
      · refine State.report_kept ?_
        refine State.raiseT_kept ?_
        exact k4
      · refine Kept.foldl ?_ ?_
        · exact k4
        · intro t7 a8 k9
          refine State.sendOnce_kept ?_
          exact k9
    · refine State.syncUp_kept ?_
      exact k4

theorem execMembershipQueryWitness_kept : ∀ {s0 : State} {f : Rx} {s : State}, Kept s0 s → KeptO s0 (execMembershipQueryWitness f s) := by
  intro s0 f s h
  unfold execMembershipQueryWitness
  extract_lets v1 v2
  clear_value v1
  clear_value v2
  refine KeptO.next ?_
  refine State.receive_kept ?_ ?_
  · exact h
  · intro t3 a4 k5
    extract_lets v6 v7 v8 v9 v10
    clear_value v6
    clear_value v7
    clear_value v8
    clear_value v9
    clear_value v10
    refine State.sendReply_kept ?_
    exact k5

theorem State.answerAt_kept : ∀ {s0 s : State} {i : Fin 64} {f : Rx} {j : Nat}, Kept s0 s → Kept s0 (s.answerAt i f j) := by
  intro s0 s i f j h
  unfold State.answerAt
  extract_lets v1 t2
  clear_value v1
  have k3 : Kept s0 t2 := by
    unfold t2
    exact h.same rfl
  clear_value t2
  split
  · exact h
  · split
    · exact h
    · extract_lets v14 t15
      clear_value v14
      have k16 : Kept s0 t15 := by
        unfold t15
        exact h.same rfl
      clear_value t15
      refine Kept.ite ?_ ?_
      · exact h
      · refine Kept.ite ?_ ?_
        · refine State.tryForms_kept ?_
          refine State.raiseT_kept ?_
          exact k3
        · refine Kept.ite ?_ ?_
          · refine State.follow_kept ?_
            refine State.confirm_kept ?_
            exact k16
          · exact k16

theorem execMembershipQueryAnswer_kept : ∀ {s0 : State} {f : Rx} {s : State}, Kept s0 s → KeptO s0 (execMembershipQueryAnswer f s) := by
  intro s0 f s h
  unfold execMembershipQueryAnswer
  refine KeptO.next ?_
  refine State.receive_kept ?_ ?_
  · exact h
  · intro t1 a2 k3
    refine Kept.foldl ?_ ?_
    · exact k3
    · intro t4 a5 k6
      refine State.answerAt_kept ?_
      exact k6

theorem execMembershipQueryReport_kept : ∀ {s0 : State} {f : Rx} {s : State}, Kept s0 s → KeptO s0 (execMembershipQueryReport f s) := by
  intro s0 f s h
  unfold execMembershipQueryReport
  refine KeptO.next ?_
  refine State.receive_kept ?_ ?_
  · exact h
  · intro t1 a2 k3
    refine Kept.ite ?_ ?_
    · refine State.takeReport_kept ?_
      exact k3
    · exact k3

theorem execDiscoverSend_kept : ∀ {s0 : State} {slot : Fin 16} {s : State}, Kept s0 s → KeptO s0 (execDiscoverSend slot s) := by
  intro s0 slot s h
  unfold execDiscoverSend
  extract_lets v1 v2
  clear_value v1
  clear_value v2
  split
  · refine KeptO.next ?_
    exact h
  · refine KeptO.ite ?_ ?_
    · refine KeptO.next ?_
      exact h
    · refine KeptO.next ?_
      refine State.toPeers_kept ?_
      exact h

theorem State.judgeDiscover_kept : ∀ {s0 s : State} {i : Fin 64} {f : Rx} {reply : Bool}, Kept s0 s → Kept s0 (s.judgeDiscover i f reply) := by
  intro s0 s i f reply h
  unfold State.judgeDiscover
  extract_lets v1 v2
  clear_value v1
  clear_value v2
  split
  · exact h
  · extract_lets v8 v9
    clear_value v8
    clear_value v9
    split
    · refine State.raiseT_kept ?_
      exact h.same rfl
    · refine Kept.ite ?_ ?_
      · refine State.wrongIdentity_kept ?_
        exact h
      · split
        · refine State.wrongIdentity_kept ?_
          exact h
        · extract_lets t20 t21 v22 t23
          have k24 : Kept s0 t20 := by
            unfold t20
            refine Kept.ite ?_ ?_
            · refine State.updSlot_kept ?_
              exact h
            · exact h
          clear_value t20
          have k25 : Kept s0 t21 := by
            unfold t21
            refine State.mapWatch_kept ?_
            exact k24
          clear_value t21
          clear_value v22
          have k26 : Kept s0 t23 := by
            unfold t23
            refine Kept.ite ?_ ?_
            · exact k25
            · refine State.sendReply_kept ?_
              exact k25
          clear_value t23
          refine Kept.ite ?_ ?_
          · refine State.wrongIdentity_kept ?_
            exact k24
          · refine State.follow_kept ?_
            refine State.tryForm_kept ?_
            exact k26

theorem execDiscover_kept : ∀ {s0 : State} {f : Rx} {s : State}, Kept s0 s → KeptO s0 (execDiscover f s) := by
  intro s0 f s h
  unfold execDiscover
  refine KeptO.next ?_
  refine State.receive_kept ?_ ?_
  · exact h
  · intro t1 a2 k3
    refine State.judgeDiscover_kept ?_
    exact k3

theorem execDiscoverReply_kept : ∀ {s0 : State} {f : Rx} {s : State}, Kept s0 s → KeptO s0 (execDiscoverReply f s) := by
  intro s0 f s h
  unfold execDiscoverReply
  refine KeptO.next ?_
  refine State.receive_kept ?_ ?_
  · exact h
  · intro t1 a2 k3
    refine State.judgeDiscover_kept ?_
    exact k3

theorem execEvict_kept : ∀ {s0 : State} {a : Acc} {addr : Addr} {chip : Bool} {s : State}, Kept s0 s → KeptO s0 (execEvict a addr chip s) := by
  intro s0 a addr chip s h
  unfold execEvict
  extract_lets v1 t2
  clear_value v1
  have k3 : Kept s0 t2 := by
    unfold t2
    refine State.ok_kept ?_
    refine State.updFox_kept ?_
    exact h
  clear_value t2
  refine KeptO.ite ?_ ?_
  · refine KeptO.next ?_
    exact h
  · refine KeptO.ite ?_ ?_
    · refine KeptO.next ?_
      refine State.refuse_kept ?_
      exact h
    · refine KeptO.next ?_
      refine State.report_kept ?_
      exact k3

theorem execMembershipUpdateIssue_kept : ∀ {s0 : State} {tidx : Fin 64} {now : BitVec 64} {s : State},
  Kept s0 s → KeptO s0 (execMembershipUpdateIssue tidx now s) := by
  intro s0 tidx now s h
  unfold execMembershipUpdateIssue
  extract_lets t1 v2
  have k3 : Kept s0 t1 := by
    unfold t1
    refine Kept.ite ?_ ?_
    · refine State.at__kept ?_
      exact h
    · exact h
  clear_value t1
  clear_value v2
  refine KeptO.next ?_
  refine Kept.ite ?_ ?_
  · exact k3
  · refine State.issueNext_kept ?_
    exact k3

theorem execMembershipUpdate_kept : ∀ {s0 : State} {f : Rx} {s : State}, Kept s0 s → KeptO s0 (execMembershipUpdate f s) := by
  intro s0 f s h
  unfold execMembershipUpdate
  extract_lets v1
  clear_value v1
  refine KeptO.next ?_
  refine State.receive_kept ?_ ?_
  · exact h
  · intro t2 a3 k4
    refine Kept.ite ?_ ?_
    · refine State.applyUpdate_kept ?_
      exact k4
    · exact k4

end Sys2Proof.Machine
end

