-- ==== Sys2Proof/Laws/KeptBadger.lean ====
section
/-! SUPPORT. What is kept by Badger, reslice, the endpoint, the intake, the sweep and the banks. -/

namespace Sys2Proof.Machine

theorem State.helperRead_kept {s0 s : State} {i : Fin 64} {flt : ReadFault} {l : List (Nat × Bool)} (h : Kept s0 s) :
    Kept s0 (s.helperRead i flt l).1 := by
  unfold State.helperRead
  cases flt
  case stack a =>
    dsimp only
    exact State.queueRepairAt_kept (State.raise_kept h)
  case digestWord =>
    dsimp only
    split
    · exact State.digestFail_kept (State.raiseT_kept h)
    · exact h
  all_goals
    dsimp only
    split
    · exact State.digestFail_kept h
    · exact h

theorem State.notServable_kept : ∀ {s0 s : State} {f : Rx}, Kept s0 s → Kept s0 (s.notServable f) := by
  intro s0 s f h
  unfold State.notServable
  refine State.frameEvent_kept ?_
  exact h

theorem State.acceptRun_kept : ∀ {s0 s : State} {h : HelpRun} {r : Nat}, Kept s0 s → Kept s0 (s.acceptRun h r) := by
  intro s0 s h r h_4
  unfold State.acceptRun
  extract_lets t1 t2
  have k3 : Kept s0 t1 := by
    unfold t1
    refine State.updBadger_kept ?_
    exact h_4
  clear_value t1
  have k4 : Kept s0 t2 := by
    unfold t2
    refine State.updBadger_kept ?_
    exact k3
  clear_value t2
  refine Kept.ite ?_ ?_
  · refine State.fillRun_kept ?_
    exact k4
  · exact k4

theorem State.copyRequest_kept : ∀ {s0 s : State} {i : Fin 64} {f : Rx} {k : Fin 16} {first count lost : Nat} {donly : Bool} {flt : ReadFault},
  Kept s0 s → Kept s0 (s.copyRequest i f k first count lost donly flt) := by
  intro s0 s i f k first count lost donly flt h
  unfold State.copyRequest
  extract_lets v1 v2 v3 v4 v5 t6 t7
  clear_value v1
  clear_value v2
  clear_value v4
  clear_value v5
  have k8 : Kept s0 t6 := by
    unfold t6
    refine State.sendDigests_kept ?_
    exact h
  clear_value t6
  have k9 : Kept s0 t7 := by
    unfold t7
    refine State.updBadger_kept ?_
    exact k8
  clear_value t7
  refine Kept.ite ?_ ?_
  · refine State.notServable_kept ?_
    exact h
  · refine Kept.ite ?_ ?_
    · unfold v3
      refine State.helperRead_kept ?_
      exact h
    · refine Kept.ite ?_ ?_
      · refine State.count_kept ?_
        exact h
      · refine Kept.ite ?_ ?_
        · exact k8
        · refine Kept.foldl ?_ ?_
          · exact k9
          · intro t10 a11 k12
            refine State.send_kept ?_
            exact k12

theorem State.badgerRequest_kept : ∀ {s0 s : State} {i : Fin 64} {f : Rx} {donly : Bool} {flt : ReadFault},
  Kept s0 s → Kept s0 (s.badgerRequest i f donly flt) := by
  intro s0 s i f donly flt h
  unfold State.badgerRequest
  extract_lets v1 v2 v3 v4
  clear_value v1
  clear_value v2
  clear_value v3
  clear_value v4
  refine Kept.ite ?_ ?_
  · exact h
  · refine Kept.ite ?_ ?_
    · refine State.count_kept ?_
      exact h
    · refine Kept.ite ?_ ?_
      · refine State.copyRequest_kept ?_
        exact h
      · split
        · refine State.notServable_kept ?_
          exact h
        · extract_lets v11 v12 v13
          clear_value v11
          clear_value v12
          refine Kept.ite ?_ ?_
          · unfold v13
            refine State.helperRead_kept ?_
            exact h
          · refine Kept.ite ?_ ?_
            · refine State.sendDigests_kept ?_
              exact h
            · refine Kept.ite ?_ ?_
              · refine State.count_kept ?_
                exact h
              · refine State.acceptRun_kept ?_
                exact h

theorem execBadgerReq_kept : ∀ {s0 : State} {f : Rx} {flt : ReadFault} {s : State}, Kept s0 s → KeptO s0 (execBadgerReq f flt s) := by
  intro s0 f flt s h
  unfold execBadgerReq
  refine KeptO.next ?_
  refine State.receive_kept ?_ ?_
  · exact h
  · intro t1 a2 k3
    refine State.badgerRequest_kept ?_
    exact k3

theorem execBadgerReqDigestOnly_kept : ∀ {s0 : State} {f : Rx} {s : State}, Kept s0 s → KeptO s0 (execBadgerReqDigestOnly f s) := by
  intro s0 f s h
  unfold execBadgerReqDigestOnly
  refine KeptO.next ?_
  refine State.receive_kept ?_ ?_
  · exact h
  · intro t1 a2 k3
    refine State.badgerRequest_kept ?_
    exact k3

theorem State.takePart_kept : ∀ {s0 s : State} {i : Fin 64} {f : Rx} {render : Bool}, Kept s0 s → Kept s0 (s.takePart i f render) := by
  intro s0 s i f render h
  unfold State.takePart
  extract_lets v1 v2 v3 v4
  clear_value v1
  clear_value v2
  clear_value v3
  clear_value v4
  refine Kept.ite ?_ ?_
  · exact h
  · split
    · extract_lets v10
      clear_value v10
      refine State.sendParts_kept ?_
      refine State.updBadger_kept ?_
      exact h
    · split
      · refine State.updRunPanel_kept ?_
        exact h
      · refine State.count_kept ?_
        exact h

theorem execBadgerPart_kept : ∀ {s0 : State} {f : Rx} {s : State}, Kept s0 s → KeptO s0 (execBadgerPart f s) := by
  intro s0 f s h
  unfold execBadgerPart
  refine KeptO.next ?_
  refine State.receive_kept ?_ ?_
  · exact h
  · intro t1 a2 k3
    refine State.follow_kept ?_
    refine State.takePart_kept ?_
    exact k3

theorem execRender_kept : ∀ {s0 : State} {f : Rx} {s : State}, Kept s0 s → KeptO s0 (execRender f s) := by
  intro s0 f s h
  unfold execRender
  refine KeptO.next ?_
  refine State.receive_kept ?_ ?_
  · exact h
  · intro t1 a2 k3
    refine State.follow_kept ?_
    refine State.takePart_kept ?_
    exact k3

theorem State.takeDigests_kept : ∀ {s0 s : State} {i : Fin 64} {f : Rx}, Kept s0 s → Kept s0 (s.takeDigests i f) := by
  intro s0 s i f h
  unfold State.takeDigests
  extract_lets v1 v2 v3
  clear_value v1
  clear_value v2
  clear_value v3
  refine Kept.ite ?_ ?_
  · exact h
  · split
    · refine State.count_kept ?_
      exact h
    · split
      · refine State.count_kept ?_
        exact h
      · extract_lets v14 v15 t16
        clear_value v15
        have k17 : Kept s0 t16 := by
          unfold t16
          refine State.updBadger_kept ?_
          exact h
        clear_value t16
        refine Kept.ite ?_ ?_
        · refine State.count_kept ?_
          exact h
        · refine Kept.foldl ?_ ?_
          · exact k17
          · intro t18 a19 k20
            split
            · refine State.judgePanel_kept ?_
              exact k20
            · exact k20

theorem execDigestXRebuild_kept : ∀ {s0 : State} {f : Rx} {s : State}, Kept s0 s → KeptO s0 (execDigestXRebuild f s) := by
  intro s0 f s h
  unfold execDigestXRebuild
  refine KeptO.next ?_
  refine State.receive_kept ?_ ?_
  · exact h
  · intro t1 a2 k3
    refine State.follow_kept ?_
    refine State.takeDigests_kept ?_
    exact k3

theorem execCompletionRecord_kept : ∀ {s0 : State} {f : Rx} {s : State}, Kept s0 s → KeptO s0 (execCompletionRecord f s) := by
  intro s0 f s h
  unfold execCompletionRecord
  extract_lets v1 v2 v3
  clear_value v1
  clear_value v2
  clear_value v3
  refine KeptO.next ?_
  refine State.receive_kept ?_ ?_
  · exact h
  · intro t4 a5 k6
    refine Kept.ite ?_ ?_
    · exact k6
    · refine Kept.ite ?_ ?_
      · refine Kept.ite ?_ ?_
        · refine State.updFox_kept ?_
          exact k6
        · exact k6
      · refine State.beginOffer_kept ?_
        exact k6

theorem State.answerOffer_kept : ∀ {s0 s : State} {i : Fin 64} {f : Rx} {phase : Nat}, Kept s0 s → Kept s0 (s.answerOffer i f phase) := by
  intro s0 s i f phase h
  unfold State.answerOffer
  refine State.sendReply_kept ?_
  exact h

theorem State.takeOver_kept : ∀ {s0 s : State} {i : Fin 64} {c : Nat} {e : Entry} {epoch : Nat} {droot : Word},
  Kept s0 s → Kept s0 (s.takeOver i c e epoch droot) := by
  intro s0 s i c e epoch droot h
  unfold State.takeOver
  extract_lets t1 t2
  have k3 : Kept s0 t1 := by
    unfold t1
    refine Kept.foldl ?_ ?_
    · exact h
    · intro t4 a5 k6
      extract_lets v7
      clear_value v7
      refine Kept.ite ?_ ?_
      · refine State.setDir_kept ?_
        exact k6
      · exact k6
  clear_value t1
  have k8 : Kept s0 t2 := by
    unfold t2
    refine State.setEntry_kept ?_
    exact k3
  clear_value t2
  refine State.bgSettle_kept ?_
  refine State.updBg_kept ?_
  exact k8

theorem execHandoverOffer_kept : ∀ {s0 : State} {f : Rx} {s : State}, Kept s0 s → KeptO s0 (execHandoverOffer f s) := by
  intro s0 f s h
  unfold execHandoverOffer
  extract_lets v1 v2
  clear_value v1
  clear_value v2
  refine KeptO.next ?_
  refine State.receive_kept ?_ ?_
  · exact h
  · intro t3 a4 k5
    split
    · refine State.answerOffer_kept ?_
      exact k5
    · extract_lets v12 t13
      clear_value v12
      have k14 : Kept s0 t13 := by
        unfold t13
        refine Kept.ite ?_ ?_
        · refine State.raiseT_kept ?_
          refine State.updBg_kept ?_
          exact k5
        · exact k5
      clear_value t13
      refine Kept.ite ?_ ?_
      · refine State.answerOffer_kept ?_
        exact k5
      · refine Kept.ite ?_ ?_
        · refine State.follow_kept ?_
          refine State.answerOffer_kept ?_
          refine State.takeOver_kept ?_
          exact k5
        · refine State.answerOffer_kept ?_
          exact k14

theorem State.endOffer_kept : ∀ {s0 s : State} {i : Fin 64} {ctx : Nat} {a : Addr}, Kept s0 s → Kept s0 (s.endOffer i ctx a) := by
  intro s0 s i ctx a h
  unfold State.endOffer
  refine State.updCtx_kept ?_
  exact h

theorem execHandoverTaken_kept : ∀ {s0 : State} {f : Rx} {s : State}, Kept s0 s → KeptO s0 (execHandoverTaken f s) := by
  intro s0 f s h
  unfold execHandoverTaken
  extract_lets v1
  clear_value v1
  refine KeptO.next ?_
  refine State.receive_kept ?_ ?_
  · exact h
  · intro t2 a3 k4
    extract_lets v5 t6
    clear_value v5
    have k7 : Kept s0 t6 := by
      unfold t6
      refine State.endOffer_kept ?_
      exact k4
    clear_value t6
    split
    · refine Kept.ite ?_ ?_
      · refine State.follow_kept ?_
        refine State.freeRegion_kept ?_
        exact k7
      · exact k7
    · exact k7

theorem execHandoverRefused_kept : ∀ {s0 : State} {f : Rx} {s : State}, Kept s0 s → KeptO s0 (execHandoverRefused f s) := by
  intro s0 f s h
  unfold execHandoverRefused
  refine KeptO.next ?_
  refine State.receive_kept ?_ ?_
  · exact h
  · intro t1 a2 k3
    refine State.endOffer_kept ?_
    exact k3

theorem execBadgerStart_kept : ∀ {s0 : State} {tidx : Fin 64} {s : State}, Kept s0 s → KeptO s0 (execBadgerStart tidx s) := by
  intro s0 tidx s h
  unfold execBadgerStart
  extract_lets v1 v2
  clear_value v1
  clear_value v2
  refine KeptO.next ?_
  refine Kept.ite ?_ ?_
  · refine State.follow_kept ?_
    refine State.bgSettle_kept ?_
    refine State.updBg_kept ?_
    exact h
  · exact h

theorem State.dropRepairs_kept : ∀ {s0 s : State} {i : Fin 64}, Kept s0 s → Kept s0 (s.dropRepairs i) := by
  intro s0 s i h
  unfold State.dropRepairs
  refine Kept.foldl ?_ ?_
  · exact h
  · intro t1 a2 k3
    split
    · split
      · extract_lets v10 t11
        clear_value v10
        have k12 : Kept s0 t11 := by
          unfold t11
          refine State.updBadger_kept ?_
          exact k3
        clear_value t11
        refine Kept.ite ?_ ?_
        · refine State.contain_kept ?_
          refine State.raise_kept ?_
          exact k12
        · exact k3
      · refine State.updBadger_kept ?_
        exact k3
    · refine Kept.ite ?_ ?_
      · refine State.raiseT_kept ?_
        refine State.updBadger_kept ?_
        exact k3
      · exact k3

theorem execBadgerRunRequest_kept : ∀ {s0 : State} {tidx : Fin 64} {s : State}, Kept s0 s → KeptO s0 (execBadgerRunRequest tidx s) := by
  intro s0 tidx s h
  unfold execBadgerRunRequest
  extract_lets v1 t2 v3 v4
  clear_value v1
  have k5 : Kept s0 t2 := by
    unfold t2
    refine State.dropRepairs_kept ?_
    exact h
  clear_value t2
  clear_value v3
  clear_value v4
  refine KeptO.ite ?_ ?_
  · refine KeptO.next ?_
    exact h
  · refine KeptO.next ?_
    split
    · refine State.startRun_kept ?_
      exact k5
    · exact k5

theorem execBadgerRtoTarget_kept : ∀ {s0 : State} {tidx : Fin 64} {panel : Nat} {s : State}, Kept s0 s → KeptO s0 (execBadgerRtoTarget tidx panel s) := by
  intro s0 tidx panel s h
  unfold execBadgerRtoTarget
  refine KeptO.next ?_
  split
  · refine Kept.ite ?_ ?_
    · refine State.count_kept ?_
      refine State.rerequest_kept ?_
      refine State.reach_kept ?_
      exact h
    · exact h
  · exact h

theorem execBadgerRtoHelper_kept : ∀ {s0 : State} {entry : Nat} {s : State}, Kept s0 s → KeptO s0 (execBadgerRtoHelper entry s) := by
  intro s0 entry s h
  unfold execBadgerRtoHelper
  extract_lets v1
  clear_value v1
  split
  · refine KeptO.next ?_
    refine State.updBadger_kept ?_
    refine State.reach_kept ?_
    exact h
  · extract_lets t11 v12
    have k13 : Kept s0 t11 := by
      unfold t11
      refine State.reach_kept ?_
      exact h
    clear_value t11
    clear_value v12
    refine KeptO.next ?_
    refine State.follow_kept ?_
    exact k13.same rfl
  · refine KeptO.next ?_
    exact h

theorem execCompletionRecordRepeat_kept : ∀ {s0 : State} {tidx : Fin 64} {ctx : Option Nat} {s : State},
  Kept s0 s → KeptO s0 (execCompletionRecordRepeat tidx ctx s) := by
  intro s0 tidx ctx s h
  unfold execCompletionRecordRepeat
  refine KeptO.next ?_
  refine Kept.foldl ?_ ?_
  · exact h
  · intro t1 a2 k3
    extract_lets t4 t5
    have k6 : Kept s0 t4 := by
      unfold t4
      refine State.reach_kept ?_
      exact k3
    clear_value t4
    have k7 : Kept s0 t5 := by
      unfold t5
      refine State.updBg_kept ?_
      exact k6
    clear_value t5
    refine State.sendRecord_kept ?_
    refine Kept.ite ?_ ?_
    · refine State.raiseT_kept ?_
      exact k7
    · exact k7

theorem execBgRetry_kept : ∀ {s0 : State} {a : Acc} {hold : Bool} {s : State}, Kept s0 s → KeptO s0 (execBgRetry a hold s) := by
  intro s0 a hold s h
  unfold execBgRetry
  refine KeptO.next ?_
  refine State.window_kept ?_ ?_
  · exact h
  · intro t1 k2
    extract_lets t3
    have k4 : Kept s0 t3 := by
      unfold t3
      refine State.updBadger_kept ?_
      exact k2
    clear_value t3
    refine Kept.foldl ?_ ?_
    · exact k4
    · intro t5 a6 k7
      refine State.bgSettle_kept ?_
      exact k7

theorem execRenderRequest_kept : ∀ {s0 : State} {r : RunSel} {s : State}, Kept s0 s → KeptO s0 (execRenderRequest r s) := by
  intro s0 r s h
  unfold execRenderRequest
  extract_lets v1
  clear_value v1
  split
  · refine KeptO.next ?_
    exact h
  · extract_lets v7 v8
    clear_value v8
    split
    · extract_lets v10
      clear_value v10
      refine KeptO.ite ?_ ?_
      · refine KeptO.next ?_
        exact h
      · refine KeptO.next ?_
        refine Kept.foldl ?_ ?_
        · exact h
        · intro t11 a12 k13
          refine State.sendRun_kept ?_
          exact k13
    · refine KeptO.next ?_
      exact h

theorem State.zeroPanels_kept {s0 s : State} {a n : Nat} (h : Kept s0 s) : Kept s0 (s.zeroPanels a n) :=
  h.withMem fun q => Mem.wf_zero _ _ (Mem.wf_zero _ _ q)

theorem State.setDirs_kept : ∀ {s0 s : State} {a n : Nat} {r : DirRec}, Kept s0 s → Kept s0 (s.setDirs a n r) := by
  intro s0 s a n r h
  unfold State.setDirs
  refine Kept.foldl ?_ ?_
  · exact h
  · intro t1 a2 k3
    refine State.setDir_kept ?_
    exact k3

theorem State.primeEntry_kept : ∀ {s0 s : State} {c : Nat} {e : Entry}, Kept s0 s → Kept s0 (s.primeEntry c e) := by
  intro s0 s c e h
  unfold State.primeEntry
  extract_lets v1 v2 t3 t4
  clear_value v1
  clear_value v2
  have k5 : Kept s0 t3 := by
    unfold t3
    refine State.zeroPanels_kept ?_
    exact h
  clear_value t3
  have k6 : Kept s0 t4 := by
    unfold t4
    refine State.setDirs_kept ?_
    refine State.setDirs_kept ?_
    exact k5
  clear_value t4
  refine State.setEntry_kept ?_
  refine State.dropLines_kept ?_
  exact k6

theorem State.primeSlot_kept : ∀ {s0 s : State} {k : Nat} {d : SettDesc}, Kept s0 s → Kept s0 (s.primeSlot k d) := by
  intro s0 s k d h
  unfold State.primeSlot
  extract_lets v1
  clear_value v1
  refine State.setDirs_kept ?_
  refine State.zeroPanels_kept ?_
  exact h

theorem State.releaseParity_kept {s0 s : State} {d : SettDesc} (h : Kept s0 s) : Kept s0 (s.releaseParity d) :=
  (State.zeroPanels_kept h).zeroMem

theorem State.primerEntry_kept : ∀ {s0 s : State} {c : Nat}, Kept s0 s → Kept s0 (s.primerEntry c) := by
  intro s0 s c h
  unfold State.primerEntry
  split
  · exact h
  · extract_lets t6 t7
    have k8 : Kept s0 t6 := by
      unfold t6
      refine State.freeRegion_kept ?_
      refine State.zeroPanels_kept ?_
      exact h
    clear_value t6
    have k9 : Kept s0 t7 := by
      unfold t7
      refine State.primeEntry_kept ?_
      exact h
    clear_value t7
    refine Kept.ite ?_ ?_
    · exact h
    · split
      · refine State.updRs_kept ?_
        exact k8
      · split
        · refine State.follow_kept ?_
          refine State.bgSettle_kept ?_
          refine State.unfence_kept ?_
          exact k9
        · exact k9

theorem State.primerSlot_kept : ∀ {s0 s : State} {k : Nat}, Kept s0 s → Kept s0 (s.primerSlot k) := by
  intro s0 s k h
  unfold State.primerSlot
  split
  · refine State.updRs_kept ?_
    refine State.primeSlot_kept ?_
    exact h
  · split
    · extract_lets t14
      have k15 : Kept s0 t14 := by
        unfold t14
        refine Kept.ite ?_ ?_
        · refine State.releaseParity_kept ?_
          exact h
        · exact h
      clear_value t14
      refine Kept.ite ?_ ?_
      · refine Kept.ite ?_ ?_
        · refine State.follow_kept ?_
          refine State.tryForm_kept ?_
          refine State.updSlot_kept ?_
          refine State.primeSlot_kept ?_
          exact h
        · exact h
      · refine State.updSlot_kept ?_
        exact k15
    · refine Kept.ite ?_ ?_
      · refine State.follow_kept ?_
        refine State.tryForm_kept ?_
        refine State.updSlot_kept ?_
        refine State.primeSlot_kept ?_
        exact h
      · exact h
    · refine Kept.ite ?_ ?_
      · refine State.updSlot_kept ?_
        refine State.primeSlot_kept ?_
        exact h
      · exact h

theorem execPrimerComplete_kept : ∀ {s0 : State} {p : PrimeTarget} {s : State}, Kept s0 s → KeptO s0 (execPrimerComplete p s) := by
  intro s0 p s h
  unfold execPrimerComplete
  refine KeptO.ite ?_ ?_
  · refine KeptO.next ?_
    exact h
  · split
    · refine KeptO.next ?_
      refine State.primerEntry_kept ?_
      exact h
    · refine KeptO.next ?_
      refine State.primerSlot_kept ?_
      exact h

theorem State.answerCount_kept : ∀ {s0 s : State} {i : Fin 64} {a : Addr} {epoch : Nat} {phase : BitVec 7} {n : Nat},
  Kept s0 s → Kept s0 (s.answerCount i a epoch phase n) := by
  intro s0 s i a epoch phase n h
  unfold State.answerCount
  refine State.sendReply_kept ?_
  exact h

theorem State.answerDone_kept : ∀ {s0 s : State} {i : Fin 64} {a : Addr}, Kept s0 s → Kept s0 (s.answerDone i a) := by
  intro s0 s i a h
  unfold State.answerDone
  extract_lets v1
  clear_value v1
  split
  · refine Kept.ite ?_ ?_
    · refine State.answerCount_kept ?_
      exact h
    · exact h
  · exact h

theorem execResliceCount_kept : ∀ {s0 : State} {f : Rx} {s : State}, Kept s0 s → KeptO s0 (execResliceCount f s) := by
  intro s0 f s h
  unfold execResliceCount
  extract_lets v1
  clear_value v1
  refine KeptO.next ?_
  refine State.receive_kept ?_ ?_
  · exact h
  · intro t2 a3 k4
    extract_lets v5 t6
    clear_value v5
    have k7 : Kept s0 t6 := by
      unfold t6
      refine Kept.ite ?_ ?_
      · refine State.enterBoundary_kept ?_
        refine State.updRs_kept ?_
        exact k4
      · exact k4
    clear_value t6
    refine Kept.ite ?_ ?_
    · refine State.follow_kept ?_
      refine State.syncBoundary_kept ?_
      refine State.answerDone_kept ?_
      refine State.noteSource_kept ?_
      exact k7
    · refine Kept.ite ?_ ?_
      · refine State.answerCount_kept ?_
        exact k4
      · refine State.answerCount_kept ?_
        exact k4

theorem execResliceDone_kept : ∀ {s0 : State} {f : Rx} {s : State}, Kept s0 s → KeptO s0 (execResliceDone f s) := by
  intro s0 f s h
  unfold execResliceDone
  refine KeptO.next ?_
  refine State.receive_kept ?_ ?_
  · exact h
  · intro t1 a2 k3
    extract_lets t4
    have k5 : Kept s0 t4 := by
      unfold t4
      refine State.updRs_kept ?_
      exact k3
    clear_value t4
    refine State.follow_kept ?_
    refine State.syncBoundary_kept ?_
    exact k5

theorem execResliceResend_kept : ∀ {s0 : State} {f : Rx} {s : State}, Kept s0 s → KeptO s0 (execResliceResend f s) := by
  intro s0 f s h
  unfold execResliceResend
  refine KeptO.next ?_
  refine State.receive_kept ?_ ?_
  · exact h
  · intro t1 a2 k3
    refine Kept.ite ?_ ?_
    · refine State.sendMoves_kept ?_
      exact k3
    · exact k3

theorem execResliceSealed_kept : ∀ {s0 : State} {f : Rx} {s : State}, Kept s0 s → KeptO s0 (execResliceSealed f s) := by
  intro s0 f s h
  unfold execResliceSealed
  refine KeptO.next ?_
  refine State.receive_kept ?_ ?_
  · exact h
  · intro t1 a2 k3
    refine Kept.ite ?_ ?_
    · exact k3
    · refine State.tearDown_kept ?_
      exact k3

theorem execResliceCancel_kept : ∀ {s0 : State} {f : Rx} {s : State}, Kept s0 s → KeptO s0 (execResliceCancel f s) := by
  intro s0 f s h
  unfold execResliceCancel
  refine KeptO.next ?_
  refine State.receive_kept ?_ ?_
  · exact h
  · intro t1 a2 k3
    refine State.follow_kept ?_
    refine State.endRender_kept ?_
    refine State.cancelReslice_kept ?_
    refine State.updCommit_kept ?_
    exact k3

theorem execResliceMove_kept : ∀ {s0 : State} {f : Rx} {s : State}, Kept s0 s → KeptO s0 (execResliceMove f s) := by
  intro s0 f s h
  unfold execResliceMove
  refine KeptO.next ?_
  refine State.receive_kept ?_ ?_
  · exact h
  · intro t1 a2 k3
    extract_lets t4 t5 t6
    have k7 : Kept s0 t4 := by
      unfold t4
      refine Kept.ite ?_ ?_
      · exact k3
      · refine State.noteSource_kept ?_
        exact k3
    clear_value t4
    have k8 : Kept s0 t5 := by
      unfold t5
      refine State.arrive_kept ?_
      exact k7
    clear_value t5
    have k9 : Kept s0 t6 := by
      unfold t6
      split
      · refine Kept.ite ?_ ?_
        · refine State.answerDone_kept ?_
          exact k8
        · exact k8
      · exact k8
    clear_value t6
    refine State.follow_kept ?_
    refine State.syncBoundary_kept ?_
    refine State.fillHeld_kept ?_
    exact k9

theorem execResliceCountPoll_kept : ∀ {s0 : State} {tidx : Fin 64} {dest : Addr} {s : State}, Kept s0 s → KeptO s0 (execResliceCountPoll tidx dest s) := by
  intro s0 tidx dest s h
  unfold execResliceCountPoll
  extract_lets v1 v2
  clear_value v1
  clear_value v2
  split
  · extract_lets t6 t7
    have k8 : Kept s0 t6 := by
      unfold t6
      refine State.reach_kept ?_
      exact h
    clear_value t6
    have k9 : Kept s0 t7 := by
      unfold t7
      refine State.updRs_kept ?_
      exact k8
    clear_value t7
    refine KeptO.next ?_
    refine Kept.ite ?_ ?_
    · refine State.send_kept ?_
      exact k9
    · exact h
  · refine KeptO.next ?_
    exact h

theorem execMoveRtoExpiry_kept : ∀ {s0 : State} {tidx : Fin 64} {src : Addr} {s : State}, Kept s0 s → KeptO s0 (execMoveRtoExpiry tidx src s) := by
  intro s0 tidx src s h
  unfold execMoveRtoExpiry
  extract_lets v1
  clear_value v1
  split
  · extract_lets t5 v6 t7
    have k8 : Kept s0 t5 := by
      unfold t5
      refine State.reach_kept ?_
      exact h
    clear_value t5
    have k9 : ∀ x1, Kept s0 (v6 x1) := by
      intro a10
      unfold v6
      refine State.updRs_kept ?_
      exact k8
    clear_value v6
    have k11 : Kept s0 t7 := by
      unfold t7
      refine k9 _
    clear_value t7
    refine KeptO.ite ?_ ?_
    · refine KeptO.next ?_
      exact h
    · refine KeptO.ite ?_ ?_
      · refine KeptO.next ?_
        refine State.follow_kept ?_
        refine State.resliceFault_kept ?_
        refine k9 _
      · refine KeptO.next ?_
        refine State.answerCount_kept ?_
        exact k11
  · refine KeptO.next ?_
    exact h

theorem State.rsCmd_kept : ∀ {s0 s : State} {a : Acc} {op : BitVec 4} {check : State → Fin 64 → Nat} {f : State → Fin 64 → State},
  Kept s0 s → (∀ (a : State) (a_1 : Fin 64), Kept s0 a → Kept s0 (f a a_1)) → KeptO s0 (s.rsCmd a op check f) := by
  intro s0 s a op check f h hf1
  unfold State.rsCmd
  extract_lets v1 v2 v3 t4 t5 v6
  clear_value v1
  clear_value v2
  clear_value v3
  have k7 : Kept s0 t4 := by
    unfold t4
    refine State.updRs_kept ?_
    exact h
  clear_value t4
  have k8 : Kept s0 t5 := by
    unfold t5
    refine State.ok_kept ?_
    exact k7
  clear_value t5
  clear_value v6
  refine KeptO.ite ?_ ?_
  · refine KeptO.next ?_
    exact h
  · refine KeptO.ite ?_ ?_
    · refine KeptO.next ?_
      refine State.refuse_kept ?_
      exact h
    · refine KeptO.ite ?_ ?_
      · refine KeptO.next ?_
        refine hf1 _ _ ?_
        exact k8.same rfl
      · refine KeptO.next ?_
        refine State.refuse_kept ?_
        exact k7

theorem execRsSeal_kept : ∀ {s0 : State} {a : Acc} {s : State}, Kept s0 s → KeptO s0 (execRsSeal a s) := by
  intro s0 a s h
  unfold execRsSeal
  refine State.rsCmd_kept ?_ ?_
  · exact h
  · intro t1 a2 k3
    refine State.follow_kept ?_
    refine State.enterSeal_kept ?_
    refine State.updRs_kept ?_
    exact k3

theorem execRsArm_kept : ∀ {s0 : State} {a : Acc} {s : State}, Kept s0 s → KeptO s0 (execRsArm a s) := by
  intro s0 a s h
  unfold execRsArm
  refine State.rsCmd_kept ?_ ?_
  · exact h
  · intro t1 a2 k3
    extract_lets v4 t5
    clear_value v4
    have k6 : Kept s0 t5 := by
      unfold t5
      refine State.updRs_kept ?_
      exact k3
    clear_value t5
    refine Kept.ite ?_ ?_
    · refine State.updFox_kept ?_
      exact k6
    · exact k6

theorem execRsDisarm_kept : ∀ {s0 : State} {a : Acc} {s : State}, Kept s0 s → KeptO s0 (execRsDisarm a s) := by
  intro s0 a s h
  unfold execRsDisarm
  refine State.rsCmd_kept ?_ ?_
  · exact h
  · intro t1 a2 k3
    refine State.updCommit_kept ?_
    refine State.updRs_kept ?_
    exact k3

theorem execTeardown_kept : ∀ {s0 : State} {a : Acc} {s : State}, Kept s0 s → KeptO s0 (execTeardown a s) := by
  intro s0 a s h
  unfold execTeardown
  refine State.rsCmd_kept ?_ ?_
  · exact h
  · intro t1 a2 k3
    refine State.unpark_kept ?_
    refine State.tearDown_kept ?_
    exact k3

theorem execTeardownComplete_kept : ∀ {s0 : State} {tidx : Fin 64} {s : State}, Kept s0 s → KeptO s0 (execTeardownComplete tidx s) := by
  intro s0 tidx s h
  unfold execTeardownComplete
  extract_lets v1
  clear_value v1
  refine KeptO.next ?_
  refine Kept.ite ?_ ?_
  · refine State.raiseT_kept ?_
    refine State.updRs_kept ?_
    exact h
  · exact h

theorem execTagQuietExpiry_kept : ∀ {s0 : State} {tidx : Fin 64} {s : State}, Kept s0 s → KeptO s0 (execTagQuietExpiry tidx s) := by
  intro s0 tidx s h
  unfold execTagQuietExpiry
  extract_lets t1 v2
  have k3 : Kept s0 t1 := by
    unfold t1
    refine State.updRs_kept ?_
    refine State.reach_kept ?_
    exact h
  clear_value t1
  clear_value v2
  refine KeptO.ite ?_ ?_
  · refine KeptO.next ?_
    exact h
  · refine KeptO.next ?_
    refine State.syncGroups_kept ?_
    refine Kept.foldl ?_ ?_
    · exact k3
    · intro t4 a5 k6
      refine Kept.ite ?_ ?_
      · exact k6
      · refine State.updSlot_kept ?_
        refine State.formSlot_kept ?_
        exact k6

theorem execExport_kept : ∀ {s0 : State} {a : Acc} {s : State}, Kept s0 s → KeptO s0 (execExport a s) := by
  intro s0 a s h
  unfold execExport
  extract_lets v1 v2 v3
  clear_value v1
  clear_value v2
  clear_value v3
  refine State.rsCmd_kept ?_ ?_
  · exact h
  · intro t4 a5 k6
    extract_lets v7
    clear_value v7
    exact k6.same rfl

theorem execExportComplete_kept {s0 s : State} {flt : ReadFault} (h : Kept s0 s) : KeptO s0 (execExportComplete flt s) := by
  unfold execExportComplete
  split
  · exact h
  · extract_lets i rs s1 fail
    have k1 : Kept s0 s1 := h.same rfl
    clear_value s1
    have kf : ∀ u, Kept s0 u → Kept s0 (fail u) := fun u ku => State.follow_kept (State.updRs_kept ku)
    clear_value fail
    split
    · exact kf _ k1
    · refine KeptO.ite (kf _ k1) ?_
      cases flt
      case stack a => exact kf _ (State.queueRepairAt_kept (State.raise_kept k1))
      case digestWord => exact kf _ (State.digestFail_kept (State.raiseT_kept k1))
      all_goals
        dsimp only
        split
        · exact kf _ (State.digestFail_kept k1)
        · exact State.follow_kept (State.raiseT_kept (State.updRs_kept (State.putBytes_kept k1)))

theorem State.updEp_kept : ∀ {s0 s : State} {f : EpS → EpS}, Kept s0 s → Kept s0 (s.updEp f) := by
  intro s0 s f h
  unfold State.updEp
  exact h.same rfl

theorem State.startDeadlines_kept : ∀ {s0 s : State} {f : OutFrame}, Kept s0 s → Kept s0 (s.startDeadlines f) := by
  intro s0 s f h
  unfold State.startDeadlines
  extract_lets v1 v2
  clear_value v2
  exact h.same rfl

theorem State.injectCtrl_kept : ∀ {s0 s : State} {f : OutFrame}, Kept s0 s → Kept s0 (s.injectCtrl f) := by
  intro s0 s f h
  unfold State.injectCtrl
  extract_lets v1
  clear_value v1
  refine State.updEp_kept ?_
  exact h

theorem State.injectBulk_kept : ∀ {s0 s : State} {skim : Bool} {f : OutFrame}, Kept s0 s → Kept s0 (s.injectBulk skim f) := by
  intro s0 s skim f h
  unfold State.injectBulk
  extract_lets v1 t2
  clear_value v1
  have k3 : Kept s0 t2 := by
    unfold t2
    refine Kept.ite ?_ ?_
    · refine State.startDeadlines_kept ?_
      exact h
    · exact h
  clear_value t2
  refine State.updEp_kept ?_
  exact k3

theorem State.roundRobin_kept : ∀ {s0 s : State} {a b : OutFrame}, Kept s0 s → Kept s0 (s.roundRobin a b) := by
  intro s0 s a b h
  unfold State.roundRobin
  extract_lets v1 v2 v3 v4 v5 v6 t7
  clear_value v1
  clear_value v2
  clear_value v3
  clear_value v4
  clear_value v5
  clear_value v6
  have k8 : Kept s0 t7 := by
    unfold t7
    refine State.updEp_kept ?_
    exact h
  clear_value t7
  refine Kept.ite ?_ ?_
  · refine State.injectBulk_kept ?_
    exact k8
  · refine State.injectBulk_kept ?_
    exact k8

theorem execFrameInject_kept : ∀ {s0 : State} {x : InjectAt} {s : State}, Kept s0 s → KeptO s0 (execFrameInject x s) := by
  intro s0 x s h
  unfold execFrameInject
  extract_lets t1 v2 v3 v4 t5
  have k6 : Kept s0 t1 := by
    unfold t1
    refine Kept.ite ?_ ?_
    · refine State.at__kept ?_
      exact h
    · exact h
  clear_value t1
  clear_value v2
  clear_value v3
  clear_value v4
  have k7 : Kept s0 t5 := by
    unfold t5
    refine State.updEp_kept ?_
    exact k6
  clear_value t5
  refine KeptO.ite ?_ ?_
  · refine KeptO.next ?_
    exact k6
  · split
    · refine KeptO.next ?_
      refine State.injectCtrl_kept ?_
      exact k6
    · split
      · refine KeptO.next ?_
        refine State.roundRobin_kept ?_
        exact k7
      · refine KeptO.next ?_
        refine State.injectBulk_kept ?_
        exact k7
      · refine KeptO.next ?_
        refine State.injectBulk_kept ?_
        exact k7
      · refine KeptO.next ?_
        exact k7

theorem execHtLevelChange_kept : ∀ {s0 : State} {level : BitVec 4} {now : BitVec 64} {s : State}, Kept s0 s → KeptO s0 (execHtLevelChange level now s) := by
  intro s0 level now s h
  unfold execHtLevelChange
  extract_lets t1
  have k2 : Kept s0 t1 := by
    unfold t1
    refine State.at__kept ?_
    exact h
  clear_value t1
  refine KeptO.ite ?_ ?_
  · refine KeptO.next ?_
    exact h
  · refine KeptO.next ?_
    refine State.updEp_kept ?_
    exact k2

theorem State.retransmit_kept : ∀ {s0 s : State} {i : Fin 64} {r : HawkRec} {a : Addr}, Kept s0 s → Kept s0 (s.retransmit i r a) := by
  intro s0 s i r a h
  unfold State.retransmit
  split
  · exact h
  · extract_lets v6 t7
    clear_value v6
    have k8 : Kept s0 t7 := by
      unfold t7
      refine State.sendCopy_kept ?_
      refine State.replaceRec_kept ?_
      exact h
    clear_value t7
    refine Kept.ite ?_ ?_
    · refine State.unreachable_kept ?_
      refine State.raiseT_kept ?_
      exact k8
    · exact k8

theorem execSkimRetransmitTimeout_kept : ∀ {s0 : State} {slot : Nat} {seq : BitVec 32} {peer : Addr} {s : State},
  Kept s0 s → KeptO s0 (execSkimRetransmitTimeout slot seq peer s) := by
  intro s0 slot seq peer s h
  unfold execSkimRetransmitTimeout
  extract_lets v1
  clear_value v1
  split
  · extract_lets v7
    clear_value v7
    refine KeptO.ite ?_ ?_
    · refine KeptO.next ?_
      exact h
    · refine KeptO.next ?_
      refine State.retransmit_kept ?_
      refine State.at__kept ?_
      exact h
  · refine KeptO.next ?_
    exact h

theorem State.updGroup_kept : ∀ {s0 s : State} {h : Nat} {f : Group → Group}, Kept s0 s → Kept s0 (s.updGroup h f) := by
  intro s0 s h f h_4
  unfold State.updGroup
  refine State.updEp_kept ?_
  exact h_4

theorem State.setupFrame_kept : ∀ {s0 s : State} {g : Group}, Kept s0 s → Kept s0 (s.setupFrame g) := by
  intro s0 s g h
  unfold State.setupFrame
  extract_lets v1 t2
  clear_value v1
  have k3 : Kept s0 t2 := by
    unfold t2
    refine State.updGroup_kept ?_
    exact h
  clear_value t2
  refine State.updEp_kept ?_
  exact k3

theorem execGroupSetupWrite_kept : ∀ {s0 : State} {x : SetupAt} {s : State},
  Kept s0 s → KeptO s0 (execGroupSetupWrite x s) := by
  intro s0 x s h
  unfold execGroupSetupWrite
  split
  · refine KeptO.next ?_
    refine Kept.ite ?_ ?_
    · refine State.setupFrame_kept ?_
      exact h
    · exact h
  · refine KeptO.next ?_
    exact h

theorem execGroupSetupResend_kept : ∀ {s0 : State} {x : SetupAt} {s : State},
  Kept s0 s → KeptO s0 (execGroupSetupResend x s) := by
  intro s0 x s h
  unfold execGroupSetupResend
  split
  · refine KeptO.next ?_
    refine Kept.ite ?_ ?_
    · refine State.setupFrame_kept ?_
      refine State.reach_kept ?_
      exact h
    · exact h
  · refine KeptO.next ?_
    exact h

theorem execGroupSetupRetry_kept : ∀ {s0 : State} {x : SetupAt} {s : State},
  Kept s0 s → KeptO s0 (execGroupSetupRetry x s) := by
  intro s0 x s h
  unfold execGroupSetupRetry
  split
  · refine KeptO.next ?_
    refine Kept.ite ?_ ?_
    · refine State.setupFrame_kept ?_
      refine State.reach_kept ?_
      exact h
    · exact h
  · refine KeptO.next ?_
    exact h

theorem State.groupConfirmed_kept : ∀ {s0 s : State} {g : Group}, Kept s0 s → Kept s0 (s.groupConfirmed g) := by
  intro s0 s g h
  unfold State.groupConfirmed
  refine Kept.ite ?_ ?_
  · refine State.updEp_kept ?_
    exact h
  · refine State.updGroup_kept ?_
    exact h

theorem execGroupConfirm_kept : ∀ {s0 : State} {f : Rx} {s : State}, Kept s0 s → KeptO s0 (execGroupConfirm f s) := by
  intro s0 f s h
  unfold execGroupConfirm
  extract_lets t1
  have k2 : Kept s0 t1 := by
    unfold t1
    refine State.at__kept ?_
    exact h
  clear_value t1
  refine KeptO.ite ?_ ?_
  · refine KeptO.next ?_
    exact h
  · refine KeptO.ite ?_ ?_
    · refine KeptO.next ?_
      refine State.discard_kept ?_
      exact k2
    · refine KeptO.ite ?_ ?_
      · refine KeptO.next ?_
        refine State.frameEvent_kept ?_
        exact k2
      · refine KeptO.ite ?_ ?_
        · refine KeptO.next ?_
          refine State.frameEvent_kept ?_
          exact k2
        · split
          · refine KeptO.next ?_
            refine State.discard_kept ?_
            exact k2
          · refine KeptO.ite ?_ ?_
            · refine KeptO.next ?_
              refine State.discard_kept ?_
              exact k2
            · refine KeptO.ite ?_ ?_
              · refine KeptO.next ?_
                refine State.groupConfirmed_kept ?_
                exact k2
              · refine KeptO.next ?_
                refine State.raise_kept ?_
                refine State.updGroup_kept ?_
                exact k2

theorem State.routeDrain_kept : ∀ {s0 s : State}, Kept s0 s → Kept s0 s.routeDrain := by
  intro s0 s h
  unfold State.routeDrain
  extract_lets v1 t2
  clear_value v1
  have k3 : Kept s0 t2 := by
    unfold t2
    refine State.updEp_kept ?_
    exact h
  clear_value t2
  refine State.count_kept ?_
  exact k3

theorem State.routeIdle_kept : ∀ {s0 s : State} {auto : Bool}, Kept s0 s → Kept s0 (s.routeIdle auto) := by
  intro s0 s auto h
  unfold State.routeIdle
  extract_lets v1 v2 t3 t4
  clear_value v1
  clear_value v2
  have k5 : Kept s0 t3 := by
    unfold t3
    refine State.updEp_kept ?_
    exact h
  clear_value t3
  have k6 : Kept s0 t4 := by
    unfold t4
    refine Kept.foldl ?_ ?_
    · exact k5
    · intro t7 a8 k9
      split
      · refine State.retransmit_kept ?_
        exact k9
      · exact k9
  clear_value t4
  refine State.updEp_kept ?_
  exact k6

theorem execRouteReq_kept : ∀ {s0 : State} {a : Acc} {s : State}, Kept s0 s → KeptO s0 (execRouteReq a s) := by
  intro s0 a s h
  unfold execRouteReq
  refine KeptO.next ?_
  refine State.window_kept ?_ ?_
  · exact h
  · intro t1 k2
    split
    · refine State.updEp_kept ?_
      exact k2
    · exact k2
    · refine State.updEp_kept ?_
      exact k2

theorem execRouteResume_kept : ∀ {s0 : State} {a : Acc} {s : State}, Kept s0 s → KeptO s0 (execRouteResume a s) := by
  intro s0 a s h
  unfold execRouteResume
  refine KeptO.ite ?_ ?_
  · refine KeptO.next ?_
    refine State.refuse_kept ?_
    exact h
  · refine KeptO.next ?_
    refine State.window_kept ?_ ?_
    · exact h
    · intro t1 k2
      refine Kept.ite ?_ ?_
      · refine State.routeIdle_kept ?_
        exact k2
      · exact k2

theorem execRouteDrained_kept : ∀ {s0 s : State}, Kept s0 s → KeptO s0 (execRouteDrained s) := by
  intro s0 s h
  unfold execRouteDrained
  refine KeptO.next ?_
  refine Kept.ite ?_ ?_
  · refine State.routeDrain_kept ?_
    exact h
  · exact h

theorem execRouteDrainTimeout_kept : ∀ {s0 s : State}, Kept s0 s → KeptO s0 (execRouteDrainTimeout s) := by
  intro s0 s h
  unfold execRouteDrainTimeout
  refine KeptO.next ?_
  refine Kept.ite ?_ ?_
  · refine State.routeDrain_kept ?_
    refine State.reach_kept ?_
    exact h
  · exact h

theorem execResumeWaitExpiry_kept : ∀ {s0 s : State}, Kept s0 s → KeptO s0 (execResumeWaitExpiry s) := by
  intro s0 s h
  unfold execResumeWaitExpiry
  refine KeptO.next ?_
  refine Kept.ite ?_ ?_
  · refine State.raise_kept ?_
    refine State.routeIdle_kept ?_
    refine State.reach_kept ?_
    exact h
  · exact h

theorem State.intakeEvent_kept : ∀ {s0 s : State} {i : Fin 64} {code chunk : Nat}, Kept s0 s → Kept s0 (s.intakeEvent i code chunk) := by
  intro s0 s i code chunk h
  unfold State.intakeEvent
  refine State.raiseT_kept ?_
  exact h

theorem State.writeLines_kept {s0 s : State} {i : Fin 64} {c cslot off : Nat} {ls : List Line} (h : Kept s0 s) :
    Kept s0 (s.writeLines i c cslot off ls) := by
  unfold State.writeLines
  extract_lets t
  split
  rename_i s1 dup e
  have k1 : Kept s0 s1 := by
    refine Kept.fst ?_ e
    split
    · dsimp only
      exact State.updIntake_kept h
    · dsimp only
      exact State.updIntake_kept h
  clear e
  extract_lets s2
  have k2 : Kept s0 s2 := Kept.ite (State.intakeEvent_kept k1) k1
  clear_value s2
  exact State.follow_kept (State.judgeManifest_kept k2)

theorem State.arriveLines_kept : ∀ {s0 s : State} {i : Fin 64} {c cslot off : Nat} {ls : List Line} {v : Arrival},
  Kept s0 s → Kept s0 (s.arriveLines i c cslot off ls v) := by
  intro s0 s i c cslot off ls v h
  unfold State.arriveLines
  split
  · refine State.intakeEvent_kept ?_
    exact h
  · refine State.intakeEvent_kept ?_
    exact h
  · refine State.intakeEvent_kept ?_
    exact h
  · refine State.intakeEvent_kept ?_
    exact h
  · refine State.writeLines_kept ?_
    exact h
  · refine State.writeLines_kept ?_
    exact h

theorem execIntake_kept : ∀ {s0 : State} {f : Rx} {s : State}, Kept s0 s → KeptO s0 (execIntake f s) := by
  intro s0 f s h
  unfold execIntake
  extract_lets v1 v2 v3 v4
  clear_value v1
  clear_value v2
  clear_value v3
  clear_value v4
  refine KeptO.next ?_
  refine State.receive_kept ?_ ?_
  · exact h
  · intro t5 a6 k7
    refine State.arriveLines_kept ?_
    exact k7

theorem execIntakeWindowWrite_kept : ∀ {s0 : State} {q : NqReq} {s : State}, Kept s0 s → KeptO s0 (execIntakeWindowWrite q s) := by
  intro s0 q s h
  unfold execIntakeWindowWrite
  extract_lets v1 v2 v3
  clear_value v1
  clear_value v2
  clear_value v3
  refine KeptO.ite ?_ ?_
  · refine KeptO.next ?_
    exact h
  · refine KeptO.ite ?_ ?_
    · refine KeptO.next ?_
      refine State.busError_kept ?_
      exact h
    · refine KeptO.ite ?_ ?_
      · refine KeptO.next ?_
        refine State.ok_kept ?_
        exact h
      · split
        · refine KeptO.next ?_
          refine State.busError_kept ?_
          exact h
        · extract_lets v9
          clear_value v9
          refine KeptO.ite ?_ ?_
          · refine KeptO.next ?_
            refine State.intakeEvent_kept ?_
            refine State.ok_kept ?_
            exact h
          · split
            · refine KeptO.next ?_
              refine State.count_kept ?_
              refine State.respond_kept ?_
              exact h
            · refine KeptO.next ?_
              refine State.arriveLines_kept ?_
              refine State.ok_kept ?_
              exact h

theorem State.writeNotice_kept : ∀ {s0 s : State} {i : Fin 64}, Kept s0 s → Kept s0 (s.writeNotice i) := by
  intro s0 s i h
  unfold State.writeNotice
  extract_lets v1
  clear_value v1
  refine Kept.ite ?_ ?_
  · exact h
  · refine Kept.ite ?_ ?_
    · refine State.updIntake_kept ?_
      exact h
    · refine Kept.ite ?_ ?_
      · exact h
      · refine State.updIntake_kept ?_
        refine State.putBytes_kept ?_
        exact h

theorem execChunkAllocate_kept : ∀ {s0 : State} {tidx : Fin 64} {now : BitVec 64} {s : State}, Kept s0 s → KeptO s0 (execChunkAllocate tidx now s) := by
  intro s0 tidx now s h
  unfold execChunkAllocate
  extract_lets t1
  have k2 : Kept s0 t1 := by
    unfold t1
    refine State.at__kept ?_
    exact h
  clear_value t1
  refine KeptO.ite ?_ ?_
  · refine KeptO.next ?_
    exact h
  · refine KeptO.next ?_
    refine State.writeNotice_kept ?_
    refine Kept.getD ?_ ?_
    · intro t3 a4
      exact State.allocChunk_kept (by assumption) a4
    · exact k2

theorem execIntakeReopen_kept : ∀ {s0 : State} {a : Acc} {s : State}, Kept s0 s → KeptO s0 (execIntakeReopen a s) := by
  intro s0 a s h
  unfold execIntakeReopen
  extract_lets v1
  clear_value v1
  refine KeptO.ite ?_ ?_
  · refine KeptO.next ?_
    exact h
  · refine KeptO.ite ?_ ?_
    · refine KeptO.next ?_
      refine State.refuse_kept ?_
      exact h
    · refine KeptO.next ?_
      refine State.follow_kept ?_
      refine State.updIntake_kept ?_
      refine State.ok_kept ?_
      exact h

theorem State.setWait_kept : ∀ {s0 s : State} {i : Fin 64} {intake hawk : Bool}, Kept s0 s → Kept s0 (s.setWait i intake hawk) := by
  intro s0 s i intake hawk h
  unfold State.setWait
  extract_lets t1
  have k2 : Kept s0 t1 := by
    unfold t1
    refine Kept.ite ?_ ?_
    · refine State.count_kept ?_
      exact h
    · exact h
  clear_value t1
  refine State.updSweep_kept ?_
  exact k2

theorem State.setSweepWait_kept : ∀ {s0 s : State} {i : Fin 64} {b : Bool}, Kept s0 s → Kept s0 (s.setSweepWait i b) := by
  intro s0 s i b h
  unfold State.setSweepWait
  refine State.updBg_kept ?_
  exact h

theorem State.stripReady_kept {s0 s t : State} {i : Fin 64} {x : StripAt} {qs : List (Nat × Nat)} {grads : Bool} (h : Kept s0 s)
    (e : s.stripReady i x qs grads = .wait t) : Kept s0 t := by
  unfold State.stripReady at e
  dsimp only at e
  repeat' split at e
  all_goals
    first
    | exact Ready.noConfusion e
    | (cases e; exact State.setSweepWait_kept (State.setWait_kept h))
    | (cases e; exact State.setWait_kept h)
    | (cases e; exact State.digestFail_kept h)

theorem State.updGroupRun_kept : ∀ {s0 s : State} {i : Fin 64} {g : Nat} {f : GroupRun → GroupRun}, Kept s0 s → Kept s0 (s.updGroupRun i g f) := by
  intro s0 s i g f h
  unfold State.updGroupRun
  refine State.updSweep_kept ?_
  exact h

theorem State.popPrep_kept : ∀ {s0 s : State} {i : Fin 64}, Kept s0 s → Kept s0 (s.popPrep i) := by
  intro s0 s i h
  unfold State.popPrep
  refine State.updSweep_kept ?_
  exact h

theorem State.endRed_kept : ∀ {s0 s : State} {i : Fin 64} {g : Nat} {p : Program}, Kept s0 s → Kept s0 (s.endRed i g p) := by
  intro s0 s i g p h
  unfold State.endRed
  extract_lets v1
  clear_value v1
  split
  · exact h
  · extract_lets v7 t8
    clear_value v7
    have k9 : Kept s0 t8 := by
      unfold t8
      refine State.updGroupRun_kept ?_
      exact h
    clear_value t8
    refine State.raiseFlags_kept ?_
    exact k9

theorem State.afterRed_kept : ∀ {s0 s : State} {i : Fin 64} {g : Nat} {p : Program}, Kept s0 s → Kept s0 (s.afterRed i g p) := by
  intro s0 s i g p h
  unfold State.afterRed
  extract_lets v1
  clear_value v1
  refine Kept.ite ?_ ?_
  · exact h
  · refine State.endRed_kept ?_
    exact h

theorem State.stopRun_kept : ∀ {s0 s : State} {i : Fin 64} {t : RunSt}, Kept s0 s → Kept s0 (s.stopRun i t) := by
  intro s0 s i t h
  unfold State.stopRun
  refine State.stopSweep_kept ?_
  refine State.raiseT_kept ?_
  refine State.raiseFlags_kept ?_
  refine State.countN_kept ?_
  exact h

theorem State.runScalarSection_kept {s0 s : State} {i : Fin 64} {r : GroupRun} {p : Program} {is : List (BitVec 64)} (h : Kept s0 s) :
    Kept s0 (s.runScalarSection i r p is) := by
  unfold State.runScalarSection
  extract_lets sc work
  clear_value sc
  have kw : Mem.wf (2 ^ 23) s.work = true → Mem.wf (2 ^ 23) work = true := by
    intro q
    unfold work
    split
    · exact Mem.wf_writeN _ _ (by decide) q
    · exact q
  split
  · exact State.stopRun_kept h
  · rename_i t e
    extract_lets s1 s2
    have k1 : Kept s0 s1 := h.withWork fun q => runSection_wf (by exact kw q) e
    clear_value s1
    have k2 : Kept s0 s2 := State.updGroupRun_kept k1
    clear_value s2
    exact State.popPrep_kept (State.raiseFlags_kept (State.countN_kept k2))

theorem State.runRed_kept {s0 s : State} {i : Fin 64} {r : GroupRun} {p : Program} {x : StripAt} (h : Kept s0 s) :
    Kept s0 (s.runRed i r p x) := by
  unfold State.runRed
  extract_lets c
  split
  · exact State.stopRun_kept h
  · rename_i t e
    have k1 : Kept s0 { s with work := t.work } := h.withWork fun q => runSection_wf (by exact stageStrip_wf q) e
    exact State.afterRed_kept (State.popPrep_kept (State.raiseFlags_kept (State.countN_kept (State.updGroupRun_kept k1))))

theorem execSweepSectionRun_kept : ∀ {s0 : State} {tidx : Fin 64} {flt : ReadFault} {s : State}, Kept s0 s → KeptO s0 (execSweepSectionRun tidx flt s) := by
  intro s0 tidx flt s h
  unfold execSweepSectionRun
  extract_lets v1
  clear_value v1
  refine KeptO.ite ?_ ?_
  · refine KeptO.next ?_
    exact h
  · refine KeptO.ite ?_ ?_
    · refine KeptO.next ?_
      refine State.follow_kept ?_
      refine State.stopSweep_kept ?_
      exact h
    · split
      · refine KeptO.next ?_
        exact h
      · split
        · refine KeptO.next ?_
          refine State.follow_kept ?_
          refine Kept.getD ?_ ?_
          · intro t12 a13
            exact State.stripFault_kept (by assumption) a13
          · exact h
        · refine KeptO.next ?_
          exact h
        · refine KeptO.next ?_
          refine State.follow_kept ?_
          refine State.runScalarSection_kept ?_
          exact h
        · refine KeptO.next ?_
          exact h
      · split
        · refine KeptO.next ?_
          refine State.follow_kept ?_
          refine Kept.getD ?_ ?_
          · intro t38 a39
            exact State.stripFault_kept (by assumption) a39
          · exact h
        · refine KeptO.next ?_
          exact h
        · refine KeptO.next ?_
          refine State.follow_kept ?_
          refine State.runScalarSection_kept ?_
          exact h
        · refine KeptO.next ?_
          exact h
      · split
        · refine KeptO.next ?_
          exact h
        · split
          · refine KeptO.next ?_
            refine State.follow_kept ?_
            refine State.afterRed_kept ?_
            refine State.popPrep_kept ?_
            exact h
          · extract_lets v73
            clear_value v73
            refine KeptO.ite ?_ ?_
            · refine KeptO.next ?_
              refine State.follow_kept ?_
              refine State.afterRed_kept ?_
              refine State.popPrep_kept ?_
              exact h
            · split
              · rename_i a74 t75 a76
                have k77 : Kept s0 t75 := State.stripFault_kept (by assumption) a76
                refine KeptO.next ?_
                refine State.follow_kept ?_
                exact k77
              · split
                · refine KeptO.next ?_
                  refine State.follow_kept ?_
                  refine State.afterRed_kept ?_
                  refine State.popPrep_kept ?_
                  exact h
                · rename_i a82 t83 a84
                  have k85 : Kept s0 t83 := State.stripReady_kept (by assumption) a84
                  refine KeptO.next ?_
                  exact k85
                · refine KeptO.next ?_
                  refine State.follow_kept ?_
                  refine State.runRed_kept ?_
                  refine State.setSweepWait_kept ?_
                  refine State.setWait_kept ?_
                  exact h

theorem State.popItem_kept : ∀ {s0 s : State} {i : Fin 64}, Kept s0 s → Kept s0 (s.popItem i) := by
  intro s0 s i h
  unfold State.popItem
  refine State.updSweep_kept ?_
  exact h

theorem State.missStrip_kept : ∀ {s0 s : State} {i : Fin 64} {g c k : Nat}, Kept s0 s → Kept s0 (s.missStrip i g c k) := by
  intro s0 s i g c k h
  unfold State.missStrip
  refine State.updSweep_kept ?_
  refine State.popItem_kept ?_
  exact h

theorem State.padMx_kept : ∀ {s0 s : State} {i : Fin 64} {st : Stream} {q : Piece}, Kept s0 s → Kept s0 (s.padMx i st q) := by
  intro s0 s i st q h
  unfold State.padMx
  refine Kept.ite ?_ ?_
  · refine State.buildWrite_kept ?_
    exact h
  · exact h

theorem State.writePiece_kept : ∀ {s0 s : State} {i : Fin 64} {st : Stream} {base : Nat} {q : Piece}, Kept s0 s → Kept s0 (s.writePiece i st base q) := by
  intro s0 s i st base q h
  unfold State.writePiece
  extract_lets v1 v2 v3 v4
  clear_value v1
  clear_value v2
  clear_value v3
  clear_value v4
  refine State.padMx_kept ?_
  refine State.buildWrite_kept ?_
  exact h

theorem State.writeDerived_kept : ∀ {s0 s : State} {i : Fin 64} {p : Program} {x : StripAt} {st : Stream}, Kept s0 s → Kept s0 (s.writeDerived i p x st) := by
  intro s0 s i p x st h
  unfold State.writeDerived
  extract_lets v1 v2 v3 v4
  clear_value v1
  clear_value v2
  clear_value v3
  clear_value v4
  refine State.putBytes_kept ?_
  exact h

theorem State.writeStrip_kept : ∀ {s0 s : State} {i : Fin 64} {g : Nat} {p : Program} {x : StripAt}, Kept s0 s → Kept s0 (s.writeStrip i g p x) := by
  intro s0 s i g p x h
  unfold State.writeStrip
  refine Kept.foldl ?_ ?_
  · exact h
  · intro t1 a2 k3
    extract_lets v4
    clear_value v4
    split
    · exact k3
    · exact k3
    · refine State.writeDerived_kept ?_
      exact k3
    · refine Kept.foldl ?_ ?_
      · exact k3
      · intro t13 a14 k15
        refine State.writePiece_kept ?_
        exact k15
    · refine Kept.foldl ?_ ?_
      · exact k3
      · intro t18 a19 k20
        refine State.writePiece_kept ?_
        exact k20

theorem State.runBody_kept {s0 s : State} {i : Fin 64} {r : GroupRun} {p : Program} {x : StripAt} (h : Kept s0 s) :
    Kept s0 (s.runBody i r p x) := by
  unfold State.runBody
  split
  · exact State.stopRun_kept h
  · rename_i t e
    extract_lets g s1 s2
    have k1 : Kept s0 s1 := State.writeStrip_kept (h.withWork fun q => runSection_wf (by exact stageStrip_wf q) e)
    clear_value s1
    have k2 : Kept s0 s2 := State.raiseFlags_kept (State.countN_kept k1)
    clear_value s2
    exact State.freeDoneChunks_kept (State.passDone_kept (State.popItem_kept k2))

theorem State.skipStrip_kept : ∀ {s0 s : State} {i : Fin 64} {g : Nat} {p : Program} {x : StripAt}, Kept s0 s → Kept s0 (s.skipStrip i g p x) := by
  intro s0 s i g p x h
  unfold State.skipStrip
  extract_lets v1
  clear_value v1
  refine State.freeDoneChunks_kept ?_
  refine State.passDone_kept ?_
  refine State.popItem_kept ?_
  exact h

theorem execSweepStrip_kept : ∀ {s0 : State} {tidx : Fin 64} {flt : ReadFault} {s : State}, Kept s0 s → KeptO s0 (execSweepStrip tidx flt s) := by
  intro s0 tidx flt s h
  unfold execSweepStrip
  extract_lets v1
  clear_value v1
  refine KeptO.ite ?_ ?_
  · refine KeptO.next ?_
    exact h
  · split
    · split
      · refine KeptO.next ?_
        exact h
      · split
        · refine KeptO.next ?_
          refine State.follow_kept ?_
          refine State.popItem_kept ?_
          exact h
        · extract_lets v20
          clear_value v20
          refine KeptO.ite ?_ ?_
          · refine KeptO.next ?_
            refine State.follow_kept ?_
            refine State.missStrip_kept ?_
            exact h
          · refine KeptO.ite ?_ ?_
            · refine KeptO.next ?_
              refine State.follow_kept ?_
              refine State.skipStrip_kept ?_
              exact h
            · refine KeptO.ite ?_ ?_
              · refine KeptO.next ?_
                refine State.follow_kept ?_
                refine State.stopSweep_kept ?_
                exact h
              · split
                · rename_i a21 t22 a23
                  have k24 : Kept s0 t22 := State.stripFault_kept (by assumption) a23
                  refine KeptO.next ?_
                  refine State.follow_kept ?_
                  exact k24
                · split
                  · refine KeptO.next ?_
                    refine State.follow_kept ?_
                    refine State.missStrip_kept ?_
                    exact h
                  · rename_i a29 t30 a31
                    have k32 : Kept s0 t30 := State.stripReady_kept (by assumption) a31
                    refine KeptO.next ?_
                    exact k32
                  · split
                    · refine KeptO.next ?_
                      refine State.setWait_kept ?_
                      exact h
                    · rename_i a37 t38 a39
                      have k40 : Kept s0 t38 := State.reserveAll_kept (by assumption) a39
                      refine KeptO.next ?_
                      refine State.follow_kept ?_
                      refine State.runBody_kept ?_
                      refine State.setSweepWait_kept ?_
                      refine State.setWait_kept ?_
                      exact k40
    · refine KeptO.next ?_
      exact h

theorem State.dropBuild_kept : ∀ {s0 s : State} {i : Fin 64} {b : Build}, Kept s0 s → Kept s0 (s.dropBuild i b) := by
  intro s0 s i b h
  unfold State.dropBuild
  refine State.updSweep_kept ?_
  exact h

theorem State.finishBuild_kept : ∀ {s0 s : State} {i : Fin 64} {b : Build}, Kept s0 s → Kept s0 (s.finishBuild i b) := by
  intro s0 s i b h
  unfold State.finishBuild
  extract_lets t1
  have k2 : Kept s0 t1 := by
    unfold t1
    refine Kept.ite ?_ ?_
    · exact h
    · refine State.writePanel_kept ?_
      exact h
  clear_value t1
  refine State.freeDoneChunks_kept ?_
  refine State.dropBuild_kept ?_
  exact k2

theorem State.writeScalar_kept : ∀ {s0 s : State} {i : Fin 64} {g : Nat}, Kept s0 s → Kept s0 (s.writeScalar i g) := by
  intro s0 s i g h
  unfold State.writeScalar
  split
  · refine State.popItem_kept ?_
    exact h
  · split
    · refine State.popItem_kept ?_
      exact h
    · refine Kept.ite ?_ ?_
      · refine State.popItem_kept ?_
        exact h
      · split
        · refine State.setWait_kept ?_
          exact h
        · rename_i a13 t14 a15
          have k16 : Kept s0 t14 := State.reserveAll_kept (by assumption) a15
          refine State.popItem_kept ?_
          refine State.writePanel_kept ?_
          refine State.setWait_kept ?_
          exact k16

theorem execSweepPanelWritten_kept : ∀ {s0 : State} {tidx : Fin 64} {s : State}, Kept s0 s → KeptO s0 (execSweepPanelWritten tidx s) := by
  intro s0 tidx s h
  unfold execSweepPanelWritten
  extract_lets v1
  clear_value v1
  refine KeptO.ite ?_ ?_
  · refine KeptO.next ?_
    exact h
  · split
    · refine KeptO.next ?_
      refine State.follow_kept ?_
      refine State.finishBuild_kept ?_
      exact h
    · split
      · refine KeptO.next ?_
        refine State.follow_kept ?_
        refine State.writeScalar_kept ?_
        exact h
      · refine KeptO.next ?_
        exact h

theorem State.zeroPanel_kept : ∀ {s0 s : State} {i : Fin 64} {c p : Nat}, Kept s0 s → Kept s0 (s.zeroPanel i c p) := by
  intro s0 s i c p h
  unfold State.zeroPanel
  refine Kept.ite ?_ ?_
  · refine State.popItem_kept ?_
    exact h
  · split
    · refine State.setWait_kept ?_
      exact h
    · rename_i a3 t4 a5
      have k6 : Kept s0 t4 := State.reserveAll_kept (by assumption) a5
      refine State.popItem_kept ?_
      refine State.writePanel_kept ?_
      refine State.setWait_kept ?_
      exact k6

theorem execRetiringPanelZero_kept : ∀ {s0 : State} {tidx : Fin 64} {s : State}, Kept s0 s → KeptO s0 (execRetiringPanelZero tidx s) := by
  intro s0 tidx s h
  unfold execRetiringPanelZero
  extract_lets v1
  clear_value v1
  refine KeptO.ite ?_ ?_
  · refine KeptO.next ?_
    exact h
  · split
    · extract_lets v7
      clear_value v7
      refine KeptO.ite ?_ ?_
      · refine KeptO.next ?_
        exact h
      · split
        · refine KeptO.next ?_
          refine State.digestFail_kept ?_
          exact h
        · refine KeptO.next ?_
          refine State.follow_kept ?_
          refine State.zeroPanel_kept ?_
          exact h
    · refine KeptO.next ?_
      exact h

theorem execAttemptOpen_kept : ∀ {s0 : State} {tidx : Fin 64} {s : State}, Kept s0 s → KeptO s0 (execAttemptOpen tidx s) := by
  intro s0 tidx s h
  unfold execAttemptOpen
  refine KeptO.next ?_
  refine Kept.ite ?_ ?_
  · refine State.follow_kept ?_
    refine State.openAttempt_kept ?_
    exact h
  · exact h

theorem State.updIb_kept : ∀ {s0 s : State} {f : IbS → IbS}, Kept s0 s → Kept s0 (s.updIb f) := by
  intro s0 s f h
  unfold State.updIb
  exact h.same rfl

theorem State.ibCmd_kept : ∀ {s0 s : State} {a : Acc} {op : BitVec 4} {bank ok : Bool} {f : State → State},
  Kept s0 s → (∀ (a : State), Kept s0 a → Kept s0 (f a)) → KeptO s0 (s.ibCmd a op bank ok f) := by
  intro s0 s a op bank ok f h hf1
  unfold State.ibCmd
  refine KeptO.ite ?_ ?_
  · refine KeptO.next ?_
    exact h
  · refine KeptO.ite ?_ ?_
    · refine KeptO.next ?_
      refine State.refuse_kept ?_
      exact h
    · refine KeptO.next ?_
      refine hf1 _ ?_
      refine State.updIb_kept ?_
      refine State.ok_kept ?_
      exact h

theorem State.ibResult_kept : ∀ {s0 s : State} {r detail : Nat}, Kept s0 s → Kept s0 (s.ibResult r detail) := by
  intro s0 s r detail h
  unfold State.ibResult
  extract_lets t1
  have k2 : Kept s0 t1 := by
    unfold t1
    refine State.updIb_kept ?_
    exact h
  clear_value t1
  refine Kept.ite ?_ ?_
  · exact k2
  · refine State.raise_kept ?_
    exact k2

theorem execIbLoad_kept : ∀ {s0 : State} {a : Acc} {bank readOk : Bool} {s : State}, Kept s0 s → KeptO s0 (execIbLoad a bank readOk s) := by
  intro s0 a bank readOk s h
  unfold execIbLoad
  extract_lets v1
  clear_value v1
  refine State.ibCmd_kept ?_ ?_
  · exact h
  · intro t2 k3
    refine Kept.ite ?_ ?_
    · refine State.ibResult_kept ?_
      exact k3
    · refine Kept.ite ?_ ?_
      · refine State.ibResult_kept ?_
        exact k3
      · refine State.updIb_kept ?_
        exact k3

theorem execIbLoadComplete_kept : ∀ {s0 s : State}, Kept s0 s → KeptO s0 (execIbLoadComplete s) := by
  intro s0 s h
  unfold execIbLoadComplete
  extract_lets v1 v2 v3 v4 t5 v6 t7 t8 t9
  clear_value v1
  clear_value v2
  clear_value v3
  clear_value v4
  have k10 : Kept s0 t5 := by
    unfold t5
    refine State.updIb_kept ?_
    exact h
  clear_value t5
  clear_value v6
  have k11 : Kept s0 t7 := by
    unfold t7
    refine State.updIb_kept ?_
    exact k10
  clear_value t7
  have k12 : Kept s0 t8 := by
    unfold t8
    refine State.updLoader_kept ?_
    refine State.putPool_kept ?_
    exact k11
  clear_value t8
  have k13 : Kept s0 t9 := by
    unfold t9
    refine State.ibResult_kept ?_
    exact k12
  clear_value t9
  refine KeptO.ite ?_ ?_
  · refine KeptO.next ?_
    exact h
  · refine KeptO.ite ?_ ?_
    · refine KeptO.next ?_
      refine State.ibResult_kept ?_
      exact k10
    · refine KeptO.next ?_
      refine Kept.ite ?_ ?_
      · refine State.raise_kept ?_
        exact k13
      · exact k13

theorem execIbArm_kept : ∀ {s0 : State} {a : Acc} {bank : Bool} {s : State}, Kept s0 s → KeptO s0 (execIbArm a bank s) := by
  intro s0 a bank s h
  unfold execIbArm
  refine State.ibCmd_kept ?_ ?_
  · exact h
  · intro t1 k2
    extract_lets t3
    have k4 : Kept s0 t3 := by
      unfold t3
      refine State.updIb_kept ?_
      refine State.ibResult_kept ?_
      exact k2
    clear_value t3
    refine State.checkArmed_kept ?_
    refine Kept.foldl ?_ ?_
    · exact k4
    · intro t5 a6 k7
      refine State.moveNow_kept ?_
      exact k7

theorem execIbDisarm_kept : ∀ {s0 : State} {w : DisarmW} {s : State}, Kept s0 s → KeptO s0 (execIbDisarm w s) := by
  intro s0 w s h
  unfold execIbDisarm
  refine State.ibCmd_kept ?_ ?_
  · exact h
  · intro t1 k2
    refine State.updIb_kept ?_
    refine State.ibResult_kept ?_
    exact k2

end Sys2Proof.Machine
end

