-- ==== Sys2Proof/Laws/KeptCommit.lean ====
section
/-! SUPPORT. What is kept by commit, audit, lockstep and recovery. -/

namespace Sys2Proof.Machine

theorem State.answerDecided_kept : ∀ {s0 s : State} {i : Fin 64} {f : Rx} {level : Nat}, Kept s0 s → Kept s0 (s.answerDecided i f level) := by
  intro s0 s i f level h
  unfold State.answerDecided
  split
  · refine State.sendReply_kept ?_
    exact h
  · refine State.sendReply_kept ?_
    exact h
  · exact h

theorem State.badVote_kept : ∀ {s0 s : State} {f : Rx}, Kept s0 s → Kept s0 (s.badVote f) := by
  intro s0 s f h
  unfold State.badVote
  refine State.frameEvent_kept ?_
  exact h

theorem State.credit_kept : ∀ {s0 s : State} {i : Fin 64} {f : Rx} {job : Bool} {g : Nat} {new : Credit},
  Kept s0 s → Kept s0 (s.credit i f job g new) := by
  intro s0 s i f job g new h
  unfold State.credit
  extract_lets v1 t2 v3
  have k4 : Kept s0 t2 := by
    unfold t2
    refine State.setCredit_kept ?_
    exact h
  clear_value t2
  clear_value v3
  refine Kept.ite ?_ ?_
  · refine State.badVote_kept ?_
    exact h
  · refine Kept.ite ?_ ?_
    · refine State.noteChild_kept ?_
      exact k4
    · exact k4

theorem State.takeVote_kept : ∀ {s0 s : State} {i : Fin 64} {f : Rx}, Kept s0 s → Kept s0 (s.takeVote i f) := by
  intro s0 s i f h
  unfold State.takeVote
  extract_lets v1 v2
  clear_value v1
  clear_value v2
  split
  · split
    · extract_lets v8 v9
      clear_value v8
      clear_value v9
      refine Kept.ite ?_ ?_
      · refine State.badVote_kept ?_
        exact h
      · refine Kept.ite ?_ ?_
        · refine State.credit_kept ?_
          exact h
        · refine State.credit_kept ?_
          exact h
    · refine State.badVote_kept ?_
      exact h
  · split
    · extract_lets v17
      clear_value v17
      refine Kept.ite ?_ ?_
      · refine State.badVote_kept ?_
        exact h
      · refine State.credit_kept ?_
        exact h
    · refine State.badVote_kept ?_
      exact h
  · split
    · extract_lets v25
      clear_value v25
      refine Kept.ite ?_ ?_
      · refine State.badVote_kept ?_
        exact h
      · refine State.credit_kept ?_
        exact h
    · refine State.badVote_kept ?_
      exact h
  · refine State.badVote_kept ?_
    exact h

theorem execCommitVote_kept : ∀ {s0 : State} {f : Rx} {s : State}, Kept s0 s → KeptO s0 (execCommitVote f s) := by
  intro s0 f s h
  unfold execCommitVote
  refine KeptO.next ?_
  refine State.receive_kept ?_ ?_
  · exact h
  · intro t1 a2 k3
    refine Kept.ite ?_ ?_
    · exact k3
    · refine Kept.ite ?_ ?_
      · refine State.follow_kept ?_
        refine State.takeVote_kept ?_
        exact k3
      · refine State.count_kept ?_
        refine State.answerDecided_kept ?_
        exact k3

theorem State.answerCountVote_kept : ∀ {s0 s : State} {i : Fin 64} {f : Rx} {level n : Nat}, Kept s0 s → Kept s0 (s.answerCountVote i f level n) := by
  intro s0 s i f level n h
  unfold State.answerCountVote
  refine Kept.ite ?_ ?_
  · refine Kept.ite ?_ ?_
    · refine State.lathSend_kept ?_
      exact h
    · exact h
  · refine State.sendReply_kept ?_
    exact h

theorem State.answerPrep_kept : ∀ {s0 s : State} {i : Fin 64} {f : Rx}, Kept s0 s → Kept s0 (s.answerPrep i f) := by
  intro s0 s i f h
  unfold State.answerPrep
  extract_lets v1 t2
  clear_value v1
  have k3 : Kept s0 t2 := by
    unfold t2
    refine Kept.ite ?_ ?_
    · refine State.answerCountVote_kept ?_
      exact h
    · exact h
  clear_value t2
  refine Kept.ite ?_ ?_
  · refine Kept.ite ?_ ?_
    · refine State.answerCountVote_kept ?_
      exact h
    · exact h
  · refine Kept.ite ?_ ?_
    · exact k3
    · refine State.answerCountVote_kept ?_
      exact k3

theorem execCommitPrep_kept : ∀ {s0 : State} {f : Rx} {s : State}, Kept s0 s → KeptO s0 (execCommitPrep f s) := by
  intro s0 f s h
  unfold execCommitPrep
  refine KeptO.next ?_
  refine State.receive_kept ?_ ?_
  · exact h
  · intro t1 a2 k3
    refine Kept.ite ?_ ?_
    · exact k3
    · refine Kept.ite ?_ ?_
      · refine State.answerCountVote_kept ?_
        exact k3
      · refine Kept.ite ?_ ?_
        · refine State.answerPrep_kept ?_
          exact k3
        · refine State.answerDecided_kept ?_
          exact k3

theorem execCommitDecide_kept : ∀ {s0 : State} {f : Rx} {s : State}, Kept s0 s → KeptO s0 (execCommitDecide f s) := by
  intro s0 f s h
  unfold execCommitDecide
  refine KeptO.next ?_
  refine State.receive_kept ?_ ?_
  · exact h
  · intro t1 a2 k3
    extract_lets v4 t5
    clear_value v4
    have k6 : Kept s0 t5 := by
      unfold t5
      refine Kept.ite ?_ ?_
      · refine State.frameEvent_kept ?_
        exact k3
      · exact k3
    clear_value t5
    refine State.follow_kept ?_
    refine State.decision_kept ?_
    exact k6

theorem execStepAbortDecision_kept : ∀ {s0 : State} {f : Rx} {s : State}, Kept s0 s → KeptO s0 (execStepAbortDecision f s) := by
  intro s0 f s h
  unfold execStepAbortDecision
  refine KeptO.next ?_
  refine State.receive_kept ?_ ?_
  · exact h
  · intro t1 a2 k3
    extract_lets v4 t5
    clear_value v4
    have k6 : Kept s0 t5 := by
      unfold t5
      refine Kept.ite ?_ ?_
      · refine State.heardPods_kept ?_
        exact k3
      · exact k3
    clear_value t5
    refine State.follow_kept ?_
    refine State.decision_kept ?_
    exact k6

theorem State.takeRequest_kept : ∀ {s0 s : State} {i : Fin 64} {f : Rx} {reason : Byte}, Kept s0 s → Kept s0 (s.takeRequest i f reason) := by
  intro s0 s i f reason h
  unfold State.takeRequest
  extract_lets v1 v2 v3 v4
  clear_value v1
  clear_value v2
  clear_value v3
  clear_value v4
  split
  · refine Kept.ite ?_ ?_
    · exact h
    · refine Kept.ite ?_ ?_
      · refine State.requestPod_kept ?_
        exact h
      · exact h
  · refine Kept.ite ?_ ?_
    · refine State.requestPod_kept ?_
      exact h
    · refine Kept.ite ?_ ?_
      · refine State.jobRequest_kept ?_
        exact h
      · exact h
  · refine Kept.ite ?_ ?_
    · refine State.jobRequest_kept ?_
      exact h
    · exact h

theorem execStepAbortRequest_kept : ∀ {s0 : State} {f : Rx} {s : State}, Kept s0 s → KeptO s0 (execStepAbortRequest f s) := by
  intro s0 f s h
  unfold execStepAbortRequest
  refine KeptO.next ?_
  refine State.receive_kept ?_ ?_
  · exact h
  · intro t1 a2 k3
    refine Kept.ite ?_ ?_
    · exact k3
    · refine State.follow_kept ?_
      refine State.takeRequest_kept ?_
      exact k3

theorem execVoteReady_kept : ∀ {s0 : State} {tidx : Fin 64} {now : BitVec 64} {s : State}, Kept s0 s → KeptO s0 (execVoteReady tidx now s) := by
  intro s0 tidx now s h
  unfold execVoteReady
  refine KeptO.ite ?_ ?_
  · refine KeptO.next ?_
    exact h
  · refine KeptO.next ?_
    refine State.follow_kept ?_
    refine State.giveVote_kept ?_
    refine State.at__kept ?_
    exact h

theorem State.solicitAgain_kept : ∀ {s0 s : State} {i : Fin 64} {job : Bool}, Kept s0 s → Kept s0 (s.solicitAgain i job) := by
  intro s0 s i job h
  unfold State.solicitAgain
  extract_lets v1 v2 v3 v4 v5 v6
  clear_value v1
  clear_value v2
  clear_value v3
  clear_value v4
  clear_value v5
  clear_value v6
  refine Kept.foldl ?_ ?_
  · exact h
  · intro t7 a8 k9
    refine State.send_kept ?_
    exact k9

theorem State.repeatRequest_kept : ∀ {s0 s : State} {i : Fin 64}, Kept s0 s → Kept s0 (s.repeatRequest i) := by
  intro s0 s i h
  unfold State.repeatRequest
  split
  · extract_lets t6
    have k7 : Kept s0 t6 := by
      unfold t6
      refine State.reach_kept ?_
      exact h
    clear_value t6
    refine State.requestOwn_kept ?_
    refine State.updCommit_kept ?_
    exact k7
  · exact h

theorem execVoteRepeatExpiry_kept : ∀ {s0 : State} {tidx : Fin 64} {what : RepeatKind} {s : State},
  Kept s0 s → KeptO s0 (execVoteRepeatExpiry tidx what s) := by
  intro s0 tidx what s h
  unfold execVoteRepeatExpiry
  extract_lets v1 v2 t3 t4 t5 t6 t7
  clear_value v1
  clear_value v2
  have k8 : Kept s0 t3 := by
    unfold t3
    refine State.reach_kept ?_
    exact h
  clear_value t3
  have k9 : Kept s0 t4 := by
    unfold t4
    refine State.updCommit_kept ?_
    exact k8
  clear_value t4
  have k10 : Kept s0 t5 := by
    unfold t5
    refine Kept.ite ?_ ?_
    · refine State.solicitAgain_kept ?_
      exact k9
    · exact k9
  clear_value t5
  have k11 : Kept s0 t6 := by
    unfold t6
    refine Kept.ite ?_ ?_
    · refine State.solicitAgain_kept ?_
      exact k10
    · exact k10
  clear_value t6
  have k12 : Kept s0 t7 := by
    unfold t7
    refine State.reach_kept ?_
    exact h
  clear_value t7
  refine KeptO.ite ?_ ?_
  · refine KeptO.next ?_
    exact h
  · split
    · refine KeptO.next ?_
      refine Kept.ite ?_ ?_
      · refine State.podVote_kept ?_
        refine State.reach_kept ?_
        exact h
      · exact h
    · refine KeptO.next ?_
      refine Kept.ite ?_ ?_
      · refine State.chipVote_kept ?_
        refine State.reach_kept ?_
        exact h
      · exact h
    · refine KeptO.ite ?_ ?_
      · refine KeptO.next ?_
        exact h
      · refine KeptO.next ?_
        refine State.follow_kept ?_
        exact k11
    · refine KeptO.next ?_
      refine State.follow_kept ?_
      refine State.repeatRequest_kept ?_
      exact h
    · refine KeptO.next ?_
      refine Kept.ite ?_ ?_
      · refine State.follow_kept ?_
        refine State.requestOwn_kept ?_
        refine State.updBg_kept ?_
        exact k12
      · exact h
    · refine KeptO.next ?_
      refine Kept.foldl ?_ ?_
      · exact h
      · intro t20 a21 k22
        refine State.sendReport_kept ?_
        refine State.reach_kept ?_
        exact k22

theorem State.orHold_kept : ∀ {s0 s : State} {i : Fin 64} {reason : Byte} {f : State → State},
  Kept s0 s → (∀ (a : State), Kept s0 a → Kept s0 (f a)) → Kept s0 (s.orHold i reason f) := by
  intro s0 s i reason f h hf1
  unfold State.orHold
  refine Kept.ite ?_ ?_
  · refine State.updCommit_kept ?_
    exact h
  · refine hf1 _ ?_
    exact h

theorem execAbortWaitExpiry_kept : ∀ {s0 : State} {x : AttemptId} {s : State},
  Kept s0 s → KeptO s0 (execAbortWaitExpiry x s) := by
  intro s0 x s h
  unfold execAbortWaitExpiry
  extract_lets v1 v2 t3
  clear_value v1
  clear_value v2
  have k4 : Kept s0 t3 := by
    unfold t3
    refine State.reach_kept ?_
    exact h
  clear_value t3
  refine KeptO.ite ?_ ?_
  · refine KeptO.next ?_
    exact h
  · refine KeptO.next ?_
    refine State.follow_kept ?_
    refine State.orHold_kept ?_ ?_
    · exact k4
    · intro t5 k6
      refine State.raiseT_kept ?_
      refine State.decideAbort_kept ?_
      exact k6

theorem execEcAbort_kept : ∀ {s0 : State} {a : Acc} {autoAbort : Bool} {s : State}, Kept s0 s → KeptO s0 (execEcAbort a autoAbort s) := by
  intro s0 a autoAbort s h
  unfold execEcAbort
  extract_lets v1 t2
  clear_value v1
  have k3 : Kept s0 t2 := by
    unfold t2
    refine State.updCommit_kept ?_
    refine State.ok_kept ?_
    exact h
  clear_value t2
  refine KeptO.ite ?_ ?_
  · refine KeptO.next ?_
    exact h
  · refine KeptO.ite ?_ ?_
    · refine KeptO.next ?_
      refine State.refuse_kept ?_
      exact h
    · refine KeptO.next ?_
      refine Kept.ite ?_ ?_
      · refine State.follow_kept ?_
        refine State.orHold_kept ?_ ?_
        · exact k3
        · intro t4 k5
          refine State.decideAbort_kept ?_
          exact k5
      · exact k3

theorem State.updAudit_kept : ∀ {s0 s : State} {f : AuditS → AuditS}, Kept s0 s → Kept s0 (s.updAudit f) := by
  intro s0 s f h
  unfold State.updAudit
  exact h.same rfl

theorem State.closeHelp_kept : ∀ {s0 s : State} {h : AuHelp}, Kept s0 s → Kept s0 (s.closeHelp h) := by
  intro s0 s h h_3
  unfold State.closeHelp
  refine State.updAudit_kept ?_
  exact h_3

theorem State.tryClose_kept : ∀ {s0 s : State} {h : AuHelp}, Kept s0 s → Kept s0 (s.tryClose h) := by
  intro s0 s h h_3
  unfold State.tryClose
  split
  · refine Kept.ite ?_ ?_
    · refine State.closeHelp_kept ?_
      exact h_3
    · exact h_3
  · exact h_3

theorem State.setHelp_kept : ∀ {s0 s : State} {old new : AuHelp}, Kept s0 s → Kept s0 (s.setHelp old new) := by
  intro s0 s old new h
  unfold State.setHelp
  refine State.tryClose_kept ?_
  refine State.updAudit_kept ?_
  exact h

theorem State.fixParity_kept : ∀ {s0 s : State} {k e : Nat} {x : List Byte}, Kept s0 s → Kept s0 (s.fixParity k e x) := by
  intro s0 s k e x h
  unfold State.fixParity
  extract_lets v1 v2 v3 t4
  clear_value v1
  clear_value v2
  have k5 : ∀ x1 x2, Kept s0 x1 → Kept s0 (v3 x1 x2) := by
    intro t6 a7 k8
    unfold v3
    refine State.setKept_kept ?_
    refine State.putBytes_kept ?_
    exact k8
  clear_value v3
  have k9 : Kept s0 t4 := by
    unfold t4
    refine k5 _ _ ?_
    exact h
  clear_value t4
  refine Kept.ite ?_ ?_
  · refine k5 _ _ ?_
    exact k9
  · exact k9

theorem State.fixPanel_kept {s0 s t : State} {i : Fin 64} {c p : Nat} {l : List Byte} (h : Kept s0 s) (e : s.fixPanel i c p l = some t) :
    Kept s0 t := by
  unfold State.fixPanel at e
  extract_lets d pos q at e
  split at e
  · split at e
    · cases e
    · cases e; exact State.fixParity_kept h
  · split at e
    · cases e
    · split at e
      · cases e
      · extract_lets a s1 at e
        have k1 : Kept s0 s1 := State.setKept_kept (State.putBytes_kept h)
        clear_value s1
        cases e
        exact Kept.ite (State.withhold_kept k1) k1

theorem State.correction_kept : ∀ {s0 s : State} {i : Fin 64} {k : Nat} {auditor : Addr} {epoch : Nat} {tr : BitVec 7} {st : Nat} {cmask : BitVec 36}
  {x : List Byte}, Kept s0 s → Kept s0 (s.correction i k auditor epoch tr st cmask x) := by
  intro s0 s i k auditor epoch tr st cmask x h
  unfold State.correction
  extract_lets v1
  clear_value v1
  refine Kept.ite ?_ ?_
  · refine State.raiseT_kept ?_
    exact h
  · split
    · refine State.raiseT_kept ?_
      exact h
    · split
      · refine State.raiseT_kept ?_
        exact h
      · rename_i a9 t10 a11
        have k12 : Kept s0 t10 := State.fixPanel_kept (by assumption) a11
        refine State.setHelp_kept ?_
        exact k12

theorem State.releaseRun_kept : ∀ {s0 s : State} {i : Fin 64} {k : Nat} {auditor : Addr} {epoch s0_1 n : Nat},
  Kept s0 s → Kept s0 (s.releaseRun i k auditor epoch s0_1 n) := by
  intro s0 s i k auditor epoch s0_6 n h
  unfold State.releaseRun
  split
  · refine State.setHelp_kept ?_
    exact h
  · exact h

theorem State.auditEnd_kept : ∀ {s0 s : State}, Kept s0 s → Kept s0 s.auditEnd := by
  intro s0 s h
  unfold State.auditEnd
  refine Kept.ite ?_ ?_
  · refine State.raise_kept ?_
    refine State.updAudit_kept ?_
    exact h
  · exact h

theorem State.releaseHelpers_kept : ∀ {s0 s : State} {i : Fin 64} {r : AuRun}, Kept s0 s → Kept s0 (s.releaseHelpers i r) := by
  intro s0 s i r h
  unfold State.releaseHelpers
  extract_lets v1 v2 t3 t4
  clear_value v1
  clear_value v2
  have k5 : Kept s0 t3 := by
    unfold t3
    refine State.updAudit_kept ?_
    exact h
  clear_value t3
  have k6 : Kept s0 t4 := by
    unfold t4
    refine Kept.foldl ?_ ?_
    · exact k5
    · intro t7 a8 k9
      extract_lets v10
      clear_value v10
      refine Kept.ite ?_ ?_
      · refine State.releaseRun_kept ?_
        exact k9
      · refine State.send_kept ?_
        exact k9
  clear_value t4
  refine State.auditEnd_kept ?_
  exact k6

theorem State.judgeStripe_kept {s0 s : State} {i : Fin 64} {r : AuRun} {st : Nat} (h : Kept s0 s) :
    Kept s0 (s.judgeStripe i r st) := by
  unfold State.judgeStripe
  extract_lets k d syn r1 s1 add s3
  have k1 : Kept s0 s1 := State.updAudit_kept h
  clear_value s1
  have k3 : Kept s0 s3 := State.raiseT_kept (State.updAudit_kept k1)
  clear_value s3 add r1 syn d
  split
  rename_i s2 r2 e
  have k2 : Kept s0 s2 := by
    refine Kept.fst ?_ e
    split
    · dsimp only
      exact State.updAudit_kept k1
    · split
      · exact k3
      · dsimp only
        exact Kept.ite (State.correction_kept k3) (State.send_kept k3)
    · dsimp only
      exact State.raiseT_kept (State.updAudit_kept k1)
  clear e
  extract_lets s4
  have k4 : Kept s0 s4 := State.updAudit_kept k2
  clear_value s4
  exact Kept.ite (State.releaseHelpers_kept k4) k4

theorem State.auditorPart_kept : ∀ {s0 s : State} {i : Fin 64} {src : Addr} {epoch st : Nat} {cmask : BitVec 36} {bytes : List Byte},
  Kept s0 s → Kept s0 (s.auditorPart i src epoch st cmask bytes) := by
  intro s0 s i src epoch st cmask bytes h
  unfold State.auditorPart
  extract_lets v1
  clear_value v1
  split
  · extract_lets v8 v9 t10
    clear_value v8
    clear_value v9
    have k11 : Kept s0 t10 := by
      unfold t10
      refine State.updAudit_kept ?_
      exact h
    clear_value t10
    refine Kept.ite ?_ ?_
    · refine State.count_kept ?_
      exact h
    · refine Kept.ite ?_ ?_
      · refine State.judgeStripe_kept ?_
        exact k11
      · exact k11
  · refine State.count_kept ?_
    exact h

theorem State.sendTrees_kept : ∀ {s0 s : State} {i : Fin 64} {h : AuHelp}, Kept s0 s → Kept s0 (s.sendTrees i h) := by
  intro s0 s i h h_4
  unfold State.sendTrees
  extract_lets v1 v2 t3
  clear_value v1
  clear_value v2
  have k4 : Kept s0 t3 := by
    unfold t3
    refine State.updAudit_kept ?_
    exact h_4
  clear_value t3
  refine Kept.foldl ?_ ?_
  · exact k4
  · intro t5 a6 k7
    refine Kept.ite ?_ ?_
    · refine State.auditorPart_kept ?_
      exact k7
    · refine State.send_kept ?_
      exact k7

theorem State.auditRequest_kept : ∀ {s0 s : State} {i : Fin 64} {k : Fin 16} {auditor : Addr} {epoch s0_1 count : Nat} {flt : ReadFault},
  Kept s0 s → Kept s0 (s.auditRequest i k auditor epoch s0_1 count flt) := by
  intro s0 s i k auditor epoch s0_6 count flt h
  unfold State.auditRequest
  extract_lets v1 v2 v3 v4 t5 v6 v7 v8 v9 v10 t11 t12 t13
  clear_value v1
  clear_value v2
  clear_value v3
  clear_value v4
  have k14 : Kept s0 t5 := by
    unfold t5
    split
    · refine State.closeHelp_kept ?_
      exact h
    · exact h
  clear_value t5
  clear_value v6
  clear_value v7
  clear_value v9
  clear_value v10
  have k18 : Kept s0 t11 := by
    unfold t11
    refine State.gfPanels_kept ?_
    exact k14
  clear_value t11
  have k19 : Kept s0 t12 := by
    unfold t12
    refine State.updAudit_kept ?_
    exact k18
  clear_value t12
  have k20 : Kept s0 t13 := by
    unfold t13
    refine State.updBadger_kept ?_
    exact k19
  clear_value t13
  refine Kept.ite ?_ ?_
  · exact k14
  · refine Kept.ite ?_ ?_
    · refine State.count_kept ?_
      exact k14
    · refine Kept.ite ?_ ?_
      · refine State.raiseT_kept ?_
        exact k14
      · refine Kept.ite ?_ ?_
        · unfold v8
          refine State.helperRead_kept ?_
          exact k14
        · refine Kept.ite ?_ ?_
          · refine State.count_kept ?_
            exact k14
          · refine State.sendTrees_kept ?_
            exact k20

theorem execAuditReq_kept : ∀ {s0 : State} {f : Rx} {flt : ReadFault} {s : State}, Kept s0 s → KeptO s0 (execAuditReq f flt s) := by
  intro s0 f flt s h
  unfold execAuditReq
  extract_lets v1
  clear_value v1
  refine KeptO.next ?_
  refine State.receive_kept ?_ ?_
  · exact h
  · intro t2 a3 k4
    refine Kept.ite ?_ ?_
    · refine State.count_kept ?_
      exact k4
    · refine State.follow_kept ?_
      refine State.auditRequest_kept ?_
      exact k4

theorem State.takeAuditPart_kept : ∀ {s0 s : State} {i : Fin 64} {k : Nat} {f : Rx}, Kept s0 s → Kept s0 (s.takeAuditPart i k f) := by
  intro s0 s i k f h
  unfold State.takeAuditPart
  extract_lets v1 v2 v3 v4
  clear_value v1
  clear_value v2
  clear_value v3
  clear_value v4
  split
  · extract_lets v9 v10
    clear_value v9
    clear_value v10
    refine State.sendTrees_kept ?_
    refine State.updAudit_kept ?_
    exact h
  · refine Kept.ite ?_ ?_
    · refine State.auditorPart_kept ?_
      exact h
    · refine State.count_kept ?_
      exact h

theorem execAuditPart_kept : ∀ {s0 : State} {f : Rx} {s : State}, Kept s0 s → KeptO s0 (execAuditPart f s) := by
  intro s0 f s h
  unfold execAuditPart
  refine KeptO.next ?_
  refine State.receive_kept ?_ ?_
  · exact h
  · intro t1 a2 k3
    refine State.follow_kept ?_
    refine State.takeAuditPart_kept ?_
    exact k3

theorem execAuditCorrection_kept : ∀ {s0 : State} {f : Rx} {s : State}, Kept s0 s → KeptO s0 (execAuditCorrection f s) := by
  intro s0 f s h
  unfold execAuditCorrection
  extract_lets v1
  clear_value v1
  refine KeptO.next ?_
  refine State.receive_kept ?_ ?_
  · exact h
  · intro t2 a3 k4
    refine State.follow_kept ?_
    refine State.correction_kept ?_
    exact k4

theorem execAuditRelease_kept : ∀ {s0 : State} {f : Rx} {s : State}, Kept s0 s → KeptO s0 (execAuditRelease f s) := by
  intro s0 f s h
  unfold execAuditRelease
  refine KeptO.next ?_
  refine State.receive_kept ?_ ?_
  · exact h
  · intro t1 a2 k3
    refine State.follow_kept ?_
    refine State.releaseRun_kept ?_
    exact k3

theorem execAuditStart_kept : ∀ {s0 : State} {a : Acc} {slot : BitVec 4} {s : State}, Kept s0 s → KeptO s0 (execAuditStart a slot s) := by
  intro s0 a slot s h
  unfold execAuditStart
  extract_lets v1 v2
  clear_value v1
  clear_value v2
  refine KeptO.ite ?_ ?_
  · refine KeptO.next ?_
    exact h
  · refine KeptO.ite ?_ ?_
    · refine KeptO.next ?_
      refine State.refuse_kept ?_
      exact h
    · refine KeptO.ite ?_ ?_
      · refine KeptO.next ?_
        refine State.refuse_kept ?_
        refine State.updAudit_kept ?_
        exact h
      · refine KeptO.next ?_
        refine State.updAudit_kept ?_
        refine State.ok_kept ?_
        exact h

theorem execAuditStop_kept : ∀ {s0 : State} {w : StopW} {s : State}, Kept s0 s → KeptO s0 (execAuditStop w s) := by
  intro s0 w s h
  unfold execAuditStop
  refine KeptO.next ?_
  refine State.window_kept ?_ ?_
  · exact h
  · intro t1 k2
    refine State.updAudit_kept ?_
    exact k2

theorem State.sendAuditRun_kept : ∀ {s0 s : State} {i : Fin 64} {k : Fin 16} {s0_1 count epoch : Nat},
  Kept s0 s → Kept s0 (s.sendAuditRun i k s0_1 count epoch) := by
  intro s0 s i k s0_4 count epoch h
  unfold State.sendAuditRun
  refine Kept.foldl ?_ ?_
  · exact h
  · intro t1 a2 k3
    refine Kept.ite ?_ ?_
    · refine Kept.ite ?_ ?_
      · refine State.auditRequest_kept ?_
        exact k3
      · refine State.count_kept ?_
        exact k3
    · refine State.send_kept ?_
      exact k3

theorem execAuditRunRequest_kept : ∀ {s0 s : State}, Kept s0 s → KeptO s0 (execAuditRunRequest s) := by
  intro s0 s h
  unfold execAuditRunRequest
  extract_lets v1 v2 v3 t4
  clear_value v1
  clear_value v2
  clear_value v3
  have k5 : Kept s0 t4 := by
    unfold t4
    refine State.updAudit_kept ?_
    exact h
  clear_value t4
  split
  · refine KeptO.next ?_
    exact h
  · extract_lets v11
    clear_value v11
    split
    · refine KeptO.next ?_
      exact h
    · extract_lets v16 t17
      clear_value v16
      have k18 : Kept s0 t17 := by
        unfold t17
        refine State.updAudit_kept ?_
        exact k5
      clear_value t17
      refine KeptO.ite ?_ ?_
      · refine KeptO.next ?_
        exact h
      · refine KeptO.ite ?_ ?_
        · refine KeptO.next ?_
          refine State.auditEnd_kept ?_
          refine State.updAudit_kept ?_
          exact k5
        · refine KeptO.next ?_
          refine State.follow_kept ?_
          refine State.sendAuditRun_kept ?_
          exact k18

theorem execAuditRunTimeout_kept : ∀ {s0 : State} {s0_1 : Nat} {s : State}, Kept s0 s → KeptO s0 (execAuditRunTimeout s0_1 s) := by
  intro s0 s0_1 s h
  unfold execAuditRunTimeout
  extract_lets v1
  clear_value v1
  split
  · extract_lets t8 v9 v10 t11 v12 v13 v14 v15 t16
    have k17 : Kept s0 t8 := by
      unfold t8
      refine State.reach_kept ?_
      exact h
    clear_value t8
    clear_value v9
    clear_value v10
    have k18 : Kept s0 t11 := by
      unfold t11
      refine State.updAudit_kept ?_
      exact k17
    clear_value t11
    clear_value v12
    clear_value v13
    clear_value v14
    clear_value v15
    have k19 : Kept s0 t16 := by
      unfold t16
      refine State.updAudit_kept ?_
      exact k18
    clear_value t16
    refine KeptO.ite ?_ ?_
    · refine KeptO.next ?_
      exact h
    · refine KeptO.ite ?_ ?_
      · refine KeptO.next ?_
        refine State.auditEnd_kept ?_
        refine State.updAudit_kept ?_
        exact k18
      · refine KeptO.next ?_
        refine State.follow_kept ?_
        refine Kept.foldl ?_ ?_
        · exact k19
        · intro t20 a21 k22
          extract_lets v23 v24 v25
          clear_value v23
          clear_value v24
          clear_value v25
          refine State.sendAuditRun_kept ?_
          refine State.updAudit_kept ?_
          exact k22
  · refine KeptO.next ?_
    exact h

theorem State.formRecord_kept : ∀ {s0 s : State} {i : Fin 64} {p : PendingRec}, Kept s0 s → Kept s0 (s.formRecord i p) := by
  intro s0 s i p h
  unfold State.formRecord
  extract_lets v1 v2 t3 t4
  clear_value v1
  clear_value v2
  have k5 : Kept s0 t3 := by
    unfold t3
    refine Kept.ite ?_ ?_
    · refine State.putBytes_kept ?_
      exact h
    · exact h
  clear_value t3
  have k6 : Kept s0 t4 := by
    unfold t4
    refine State.updTen_kept ?_
    exact k5
  clear_value t4
  refine State.count_kept ?_
  exact k6

theorem execStateRootComplete_kept : ∀ {s0 : State} {tidx : Fin 64} {s : State}, Kept s0 s → KeptO s0 (execStateRootComplete tidx s) := by
  intro s0 tidx s h
  unfold execStateRootComplete
  split
  · refine KeptO.ite ?_ ?_
    · refine KeptO.next ?_
      exact h
    · refine KeptO.next ?_
      refine State.follow_kept ?_
      refine State.formRecord_kept ?_
      exact h
  · refine KeptO.next ?_
    exact h

theorem State.updPair_kept : ∀ {s0 s : State} {n : Fin 15} {f : LsPair → LsPair}, Kept s0 s → Kept s0 (s.updPair n f) := by
  intro s0 s n f h
  unfold State.updPair
  refine State.updAudit_kept ?_
  exact h

theorem State.sendPair_kept {s0 s : State} {n : Fin 15} {p : LsPair} {epoch a b : Nat} {ds : List Word} (h : Kept s0 s) :
    Kept s0 (s.sendPair n p epoch a b ds) := by
  induction a generalizing s b ds with
  | zero => exact h
  | succ a ih =>
    cases ds with
    | nil => exact h
    | cons d ds => exact ih (State.send_kept h)

theorem execLockstepSend_kept : ∀ {s0 : State} {pair : Fin 15} {s : State}, Kept s0 s → KeptO s0 (execLockstepSend pair s) := by
  intro s0 pair s h
  unfold execLockstepSend
  extract_lets v1 t2 v3
  clear_value v1
  have k4 : Kept s0 t2 := by
    unfold t2
    refine State.updPair_kept ?_
    refine State.reach_kept ?_
    exact h
  clear_value t2
  clear_value v3
  split
  · refine KeptO.next ?_
    exact h
  · refine KeptO.ite ?_ ?_
    · refine KeptO.next ?_
      exact h
    · refine KeptO.ite ?_ ?_
      · refine KeptO.next ?_
        exact k4
      · refine KeptO.next ?_
        refine State.sendPair_kept ?_
        exact k4

theorem State.compareOne_kept : ∀ {s0 s : State} {n : Fin 15} {epoch idx : Nat} {x : Entry × Nat} {theirs : Word},
  Kept s0 s → Kept s0 (s.compareOne n epoch idx x theirs) := by
  intro s0 s n epoch idx x theirs h
  unfold State.compareOne
  extract_lets v1 t2 v3 t4 v5
  clear_value v1
  have k6 : Kept s0 t2 := by
    unfold t2
    refine State.updPair_kept ?_
    exact h
  clear_value t2
  clear_value v3
  have k7 : Kept s0 t4 := by
    unfold t4
    refine Kept.ite ?_ ?_
    · exact k6
    · refine State.raiseT_kept ?_
      refine State.updPair_kept ?_
      exact k6
  clear_value t4
  clear_value v5
  refine Kept.ite ?_ ?_
  · exact k6
  · refine Kept.ite ?_ ?_
    · refine State.updPair_kept ?_
      exact k7
    · exact k7

theorem State.comparePair_kept : ∀ {s0 s : State} {n : Fin 15} {epoch first count : Nat} {payload : List Byte},
  Kept s0 s → Kept s0 (s.comparePair n epoch first count payload) := by
  intro s0 s n epoch first count payload h
  unfold State.comparePair
  extract_lets v1 v2 t3 t4
  clear_value v1
  clear_value v2
  have k5 : Kept s0 t3 := by
    unfold t3
    refine Kept.ite ?_ ?_
    · exact h
    · refine State.updPair_kept ?_
      exact h
  clear_value t3
  have k6 : Kept s0 t4 := by
    unfold t4
    refine Kept.foldl ?_ ?_
    · exact k5
    · intro t7 a8 k9
      split
      · refine State.compareOne_kept ?_
        exact k9
      · exact k9
  clear_value t4
  refine State.updPair_kept ?_
  exact k6

theorem execDigestXLockstep_kept : ∀ {s0 : State} {f : Rx} {s : State}, Kept s0 s → KeptO s0 (execDigestXLockstep f s) := by
  intro s0 f s h
  unfold execDigestXLockstep
  extract_lets v1
  clear_value v1
  split
  · refine KeptO.next ?_
    refine State.receive_kept ?_ ?_
    · exact h
    · intro t3 a4 k5
      refine State.comparePair_kept ?_
      exact k5
  · refine KeptO.next ?_
    refine State.receive_kept ?_ ?_
    · exact h
    · intro t7 a8 k9
      exact k9

theorem State.writeDump_kept {s0 s : State} {slot1 : Bool} {code : Byte} (h : Kept s0 s) : Kept s0 (s.writeDump slot1 code) := by
  unfold State.writeDump
  extract_lets base clear area bad
  have ka : Mem.wf (2 ^ 21) s.crash.area = true → Mem.wf (2 ^ 21) area = true := by
    intro q
    unfold area
    split
    · exact Mem.wf_writeN _ _ (by decide) (Mem.wf_zero _ _ q)
    · exact sampleInto_wf (Mem.wf_writeN _ _ (by decide) (Mem.wf_zero _ _ q))
  clear_value area
  exact (h.withArea (c := { s.crash with area := area, badWords := bad }) ka).same rfl

theorem State.beginCapture_kept {s0 s : State} {code : Byte} (h : Kept s0 s) : Kept s0 (s.beginCapture code) := by
  unfold State.beginCapture
  split
  · exact h.same rfl
  · exact h.withArea fun q => Mem.wf_zero _ _ q

theorem State.endCapture_kept {s0 s : State} {slot1 : Bool} {code : Byte} (h : Kept s0 s) : Kept s0 (s.endCapture slot1 code) := by
  unfold State.endCapture
  refine State.raise_kept (Kept.withArea (State.writeDump_kept h) fun q => ?_)
  split
  · exact q
  · exact q

theorem State.resetTenant_kept : ∀ {s0 s : State} {i : Fin 64}, Kept s0 s → Kept s0 (s.resetTenant i) := by
  intro s0 s i h
  unfold State.resetTenant
  extract_lets v1 t2 t3 t4 t5 v6 t7
  clear_value v1
  have k8 : Kept s0 t2 := by
    unfold t2
    refine State.flushIntake_kept ?_
    exact h
  clear_value t2
  have k9 : Kept s0 t3 := by
    unfold t3
    refine Kept.foldl ?_ ?_
    · exact k8
    · intro t10 a11 k12
      refine State.updSlot_kept ?_
      exact k12
  clear_value t3
  have k13 : Kept s0 t4 := by
    unfold t4
    refine Kept.ite ?_ ?_
    · refine State.withhold_kept ?_
      refine State.raiseT_kept ?_
      exact k9
    · exact k8
  clear_value t4
  have k14 : Kept s0 t5 := by
    unfold t5
    refine Kept.ite ?_ ?_
    · exact k13
    · refine State.mapEntries_kept ?_
      exact k13
  clear_value t5
  clear_value v6
  have k15 : Kept s0 t7 := by
    unfold t7
    refine Kept.foldl ?_ ?_
    · exact k14
    · intro t16 a17 k18
      refine State.updSlot_kept ?_
      exact k18
  clear_value t7
  refine Kept.ite ?_ ?_
  · exact h
  · refine Kept.ite ?_ ?_
    · exact k14
    · refine State.updBg_kept ?_
      exact k15

theorem State.beginReset_kept {s0 s : State} (h : Kept s0 s) : Kept s0 s.beginReset := by
  unfold State.beginReset
  refine State.updFlt_kept (Kept.foldl (State.putPool_kept (State.putPool_kept ?_)) fun _ _ k => State.resetTenant_kept k) fun _ => rfl
  exact ((State.updFlt_kept h fun _ => rfl).withWork (w := []) fun _ => rfl).same rfl

theorem State.wantReset_kept : ∀ {s0 s : State} {ret : Bool}, Kept s0 s → Kept s0 (s.wantReset ret) := by
  intro s0 s ret h
  unfold State.wantReset
  extract_lets v1 t2 t3 t4
  have k5 : Kept s0 t2 := by
    unfold t2
    refine State.updFlt_kept ?_ ?_
    · exact h
    · intro a6
      rfl
  clear_value t2
  have k7 : Kept s0 t3 := by
    unfold t3
    refine State.dropSwitch_kept ?_ ?_
    · refine State.holdSweeps_kept ?_
      exact k5
    · intro t8 a9 k10
      refine State.raiseHeld_kept ?_
      exact k10
  clear_value t3
  have k11 : Kept s0 t4 := by
    unfold t4
    refine State.updFlt_kept ?_ ?_
    · exact h
    · intro a12
      rfl
  clear_value t4
  split
  · refine State.releaseParked_kept ?_ ?_
    · exact k7
    · intro t15 a16 k17
      refine State.raiseHeld_kept ?_
      exact k17
  · refine State.updFlt_kept ?_ ?_
    · exact h
    · intro a20
      rfl
  · refine Kept.ite ?_ ?_
    · refine State.beginReset_kept ?_
      exact k11
    · exact k11

theorem State.syncFirst_kept : ∀ {s0 s : State} {i : Fin 64}, Kept s0 s → Kept s0 (s.syncFirst i) := by
  intro s0 s i h
  unfold State.syncFirst
  extract_lets v1 t2 v3
  clear_value v1
  have k4 : Kept s0 t2 := by
    unfold t2
    refine State.syncUp_kept ?_
    refine State.updFox_kept ?_
    exact h
  clear_value t2
  clear_value v3
  refine Kept.ite ?_ ?_
  · exact h
  · refine Kept.ite ?_ ?_
    · exact k4.same rfl
    · exact k4

theorem State.takeFromLath_kept : ∀ {s0 s : State}, Kept s0 s → Kept s0 s.takeFromLath := by
  intro s0 s h
  unfold State.takeFromLath
  extract_lets v1 v2
  clear_value v1
  clear_value v2
  refine Kept.foldl ?_ ?_
  · exact h.same rfl
  · intro t3 a4 k5
    split
    · refine State.decision_kept ?_
      exact k5
    · exact k5

theorem State.rejoin_kept : ∀ {s0 s : State} {lift : Bool}, Kept s0 s → Kept s0 (s.rejoin lift) := by
  intro s0 s lift h
  unfold State.rejoin
  extract_lets t1 t2 t3 t4
  have k5 : Kept s0 t1 := by
    unfold t1
    refine State.updFlt_kept ?_ ?_
    · exact h
    · intro a6
      rfl
  clear_value t1
  have k7 : Kept s0 t2 := by
    unfold t2
    refine State.takeFromLath_kept ?_
    exact k5
  clear_value t2
  have k8 : Kept s0 t3 := by
    unfold t3
    refine Kept.foldl ?_ ?_
    · exact k7
    · intro t9 a10 k11
      refine State.syncFirst_kept ?_
      exact k11
  clear_value t3
  have k12 : Kept s0 t4 := by
    unfold t4
    refine Kept.ite ?_ ?_
    · refine Kept.foldl ?_ ?_
      · exact k8
      · intro t13 a14 k15
        refine Kept.ite ?_ ?_
        · refine State.withhold_kept ?_
          exact k15
        · exact k15
    · exact k8
  clear_value t4
  refine Kept.foldl ?_ ?_
  · exact k12
  · intro t16 a17 k18
    refine Kept.ite ?_ ?_
    · refine State.follow_kept ?_
      exact k18
    · exact k18

theorem State.queueTorn_kept : ∀ {s0 s : State}, Kept s0 s → Kept s0 s.queueTorn := by
  intro s0 s h
  unfold State.queueTorn
  refine Kept.foldl ?_ ?_
  · exact h
  · intro t1 a2 k3
    refine State.queueRepairAt_kept ?_
    exact k3

theorem execInstanceResetComplete_kept : ∀ {s0 : State} {now : BitVec 64} {s : State}, Kept s0 s → KeptO s0 (execInstanceResetComplete now s) := by
  intro s0 now s h
  unfold execInstanceResetComplete
  extract_lets t1 v2 v3 t4 t5
  have k6 : Kept s0 t1 := by
    unfold t1
    refine State.raise_kept ?_
    refine State.at__kept ?_
    exact h
  clear_value t1
  clear_value v2
  clear_value v3
  have k7 : Kept s0 t4 := by
    unfold t4
    refine State.updFlt_kept ?_ ?_
    · exact k6
    · intro a8
      rfl
  clear_value t4
  have k9 : Kept s0 t5 := by
    unfold t5
    refine State.queueTorn_kept ?_
    exact k7
  clear_value t5
  refine KeptO.ite ?_ ?_
  · refine KeptO.next ?_
    exact h
  · refine KeptO.next ?_
    refine Kept.ite ?_ ?_
    · refine State.raise_kept ?_
      refine State.updFlt_kept ?_ ?_
      · exact k9
      · intro a10
        rfl
    · refine Kept.ite ?_ ?_
      · refine State.raise_kept ?_
        refine State.updFlt_kept ?_ ?_
        · exact k9
        · intro a11
          rfl
      · refine Kept.ite ?_ ?_
        · refine State.updFlt_kept ?_ ?_
          · exact k9
          · intro a12
            rfl
        · refine Kept.ite ?_ ?_
          · refine State.updFlt_kept ?_ ?_
            · exact k9
            · intro a13
              rfl
          · refine State.rejoin_kept ?_
            exact k9

theorem execFltDust_kept : ∀ {s0 : State} {a : Acc} {s : State}, Kept s0 s → KeptO s0 (execFltDust a s) := by
  intro s0 a s h
  unfold execFltDust
  refine KeptO.next ?_
  refine State.window_kept ?_ ?_
  · exact h
  · intro t1 k2
    refine State.hold_kept ?_
    exact k2

theorem State.recordTorn_kept : ∀ {s0 s : State} {torn : List (Nat × Nat × Byte)}, Kept s0 s → Kept s0 (s.recordTorn torn) := by
  intro s0 s torn h
  unfold State.recordTorn
  refine Kept.foldl ?_ ?_
  · exact h
  · intro t1 a2 k3
    extract_lets t4
    have k5 : Kept s0 t4 := by
      unfold t4
      refine State.updCrash_kept ?_ ?_
      · exact k3
      · intro a6
        rfl
    clear_value t4
    refine State.raise_kept ?_
    exact k5

theorem execDustDrainComplete_kept : ∀ {s0 : State} {drained torn : List (Nat × Nat × Byte)} {s : State},
  Kept s0 s → KeptO s0 (execDustDrainComplete drained torn s) := by
  intro s0 drained torn s h
  unfold execDustDrainComplete
  extract_lets t1
  have k2 : Kept s0 t1 := by
    unfold t1
    refine State.recordTorn_kept ?_
    refine State.updFlt_kept ?_ ?_
    · exact h
    · intro a3
      rfl
  clear_value t1
  refine KeptO.ite ?_ ?_
  · refine KeptO.next ?_
    exact h
  · refine KeptO.next ?_
    refine State.beginCapture_kept ?_
    exact k2

theorem execCrashCaptureComplete_kept : ∀ {s0 s : State}, Kept s0 s → KeptO s0 (execCrashCaptureComplete s) := by
  intro s0 s h
  unfold execCrashCaptureComplete
  split
  · refine KeptO.next ?_
    exact h
  · extract_lets t7 t8 t9
    have k10 : Kept s0 t7 := by
      unfold t7
      refine State.endCapture_kept ?_
      exact h
    clear_value t7
    have k11 : Kept s0 t8 := by
      unfold t8
      refine State.updFlt_kept ?_ ?_
      · exact k10
      · intro a12
        rfl
    clear_value t8
    have k13 : Kept s0 t9 := by
      unfold t9
      refine Kept.ite ?_ ?_
      · exact k11
      · refine State.raise_kept ?_
        exact k11
    clear_value t9
    refine KeptO.ite ?_ ?_
    · refine KeptO.next ?_
      exact k10
    · refine KeptO.next ?_
      refine Kept.ite ?_ ?_
      · refine State.beginReset_kept ?_
        exact k13
      · exact k13

theorem State.lift_kept : ∀ {s0 s : State}, Kept s0 s → Kept s0 s.lift := by
  intro s0 s h
  unfold State.lift
  extract_lets t1 t2
  have k3 : Kept s0 t1 := by
    unfold t1
    refine State.raise_kept ?_
    exact h
  clear_value t1
  have k4 : Kept s0 t2 := by
    unfold t2
    refine Kept.ite ?_ ?_
    · refine Kept.foldl ?_ ?_
      · exact k3
      · intro t5 a6 k7
        refine State.queueRepairAt_kept ?_
        exact k7
    · exact k3
  clear_value t2
  refine Kept.ite ?_ ?_
  · exact h
  · refine State.rejoin_kept ?_
    refine State.updFlt_kept ?_ ?_
    · exact k4
    · intro a8
      rfl

theorem execFltLift_kept : ∀ {s0 : State} {a : Acc} {s : State}, Kept s0 s → KeptO s0 (execFltLift a s) := by
  intro s0 a s h
  unfold execFltLift
  refine KeptO.ite ?_ ?_
  · refine KeptO.next ?_
    refine State.refuse_kept ?_
    exact h
  · refine KeptO.next ?_
    refine State.window_kept ?_ ?_
    · exact h
    · intro t1 k2
      refine State.lift_kept ?_
      exact k2

theorem execFltReturn_kept : ∀ {s0 : State} {a : Acc} {s : State}, Kept s0 s → KeptO s0 (execFltReturn a s) := by
  intro s0 a s h
  unfold execFltReturn
  refine KeptO.next ?_
  refine State.window_kept ?_ ?_
  · exact h
  · intro t1 k2
    refine State.wantReset_kept ?_
    exact k2

theorem State.resetWrite_kept : ∀ {s0 s : State} {a : Acc} {unit index : Nat} {f : State → State},
  Kept s0 s → (∀ (a : State), Kept s0 a → Kept s0 (f a)) → KeptO s0 (s.resetWrite a unit index f) := by
  intro s0 s a unit index f h hf1
  unfold State.resetWrite
  refine KeptO.next ?_
  refine State.window_kept ?_ ?_
  · exact h
  · intro t1 k2
    refine hf1 _ ?_
    refine State.updFlt_kept ?_ ?_
    · exact k2
    · intro a3
      rfl

theorem State.softReset_kept : ∀ {s0 s : State} {u : ResetUnit} {busy : Option (Fin 16)}, Kept s0 s → Kept s0 (s.softReset u busy) := by
  intro s0 s u busy h
  unfold State.softReset
  refine Kept.ite ?_ ?_
  · exact h
  · refine State.beginUnit_kept ?_
    exact h

theorem execResetLaneGroup_kept : ∀ {s0 : State} {a : Acc} {g : Fin 4} {s : State}, Kept s0 s → KeptO s0 (execResetLaneGroup a g s) := by
  intro s0 a g s h
  unfold execResetLaneGroup
  refine State.resetWrite_kept ?_ ?_
  · exact h
  · intro t1 k2
    refine State.softReset_kept ?_
    exact k2

theorem execResetGfEngine_kept : ∀ {s0 : State} {a : Acc} {i : Fin 2} {busy : Option (Fin 16)} {s : State},
  Kept s0 s → KeptO s0 (execResetGfEngine a i busy s) := by
  intro s0 a i busy s h
  unfold execResetGfEngine
  refine State.resetWrite_kept ?_ ?_
  · exact h
  · intro t1 k2
    refine State.softReset_kept ?_
    exact k2

theorem execResetEndpoint_kept : ∀ {s0 : State} {a : Acc} {s : State}, Kept s0 s → KeptO s0 (execResetEndpoint a s) := by
  intro s0 a s h
  unfold execResetEndpoint
  refine State.resetWrite_kept ?_ ?_
  · exact h
  · intro t1 k2
    refine State.softReset_kept ?_
    exact k2

theorem execResetBadger_kept : ∀ {s0 : State} {a : Acc} {s : State}, Kept s0 s → KeptO s0 (execResetBadger a s) := by
  intro s0 a s h
  unfold execResetBadger
  refine State.resetWrite_kept ?_ ?_
  · exact h
  · intro t1 k2
    refine State.softReset_kept ?_
    exact k2

theorem execResetInstance_kept : ∀ {s0 : State} {a : Acc} {s : State}, Kept s0 s → KeptO s0 (execResetInstance a s) := by
  intro s0 a s h
  unfold execResetInstance
  refine State.resetWrite_kept ?_ ?_
  · exact h
  · intro t1 k2
    refine State.wantReset_kept ?_
    exact k2

theorem State.askStatus_kept : ∀ {s0 s : State} {addr : Addr} {tenant : Tag}, Kept s0 s → Kept s0 (s.askStatus addr tenant) := by
  intro s0 s addr tenant h
  unfold State.askStatus
  extract_lets v1
  clear_value v1
  refine State.send_kept ?_
  exact h

theorem State.resendTenant_kept : ∀ {s0 s : State} {i : Fin 64}, Kept s0 s → Kept s0 (s.resendTenant i) := by
  intro s0 s i h
  unfold State.resendTenant
  extract_lets v1 t2 t3 t4 t5
  clear_value v1
  have k6 : Kept s0 t2 := by
    unfold t2
    refine Kept.ite ?_ ?_
    · refine State.solicitAgain_kept ?_
      exact h
    · exact h
  clear_value t2
  have k7 : Kept s0 t3 := by
    unfold t3
    refine Kept.ite ?_ ?_
    · refine State.solicitAgain_kept ?_
      exact k6
    · exact k6
  clear_value t3
  have k8 : Kept s0 t4 := by
    unfold t4
    refine Kept.foldl ?_ ?_
    · exact k7
    · intro t9 a10 k11
      refine State.sendRecord_kept ?_
      exact k11
  clear_value t4
  have k12 : Kept s0 t5 := by
    unfold t5
    refine Kept.ite ?_ ?_
    · refine Kept.foldl ?_ ?_
      · exact k8
      · intro t13 a14 k15
        refine State.send_kept ?_
        exact k15
    · exact k8
  clear_value t5
  refine Kept.ite ?_ ?_
  · exact k12
  · refine Kept.foldl ?_ ?_
    · exact k12
    · intro t16 a17 k18
      refine State.sendReport_kept ?_
      exact k18

theorem State.resendRound_kept : ∀ {s0 s : State} {w : Watch}, Kept s0 s → Kept s0 (s.resendRound w) := by
  intro s0 s w h
  unfold State.resendRound
  split
  · exact h
  · refine Kept.foldl ?_ ?_
    · exact h
    · intro t6 a7 k8
      refine State.send_kept ?_
      exact k8

theorem State.resendRequests_kept : ∀ {s0 s : State}, Kept s0 s → Kept s0 s.resendRequests := by
  intro s0 s h
  unfold State.resendRequests
  extract_lets t1 t2 t3 t4 t5 t6 v7
  have k8 : Kept s0 t1 := by
    unfold t1
    refine Kept.foldl ?_ ?_
    · exact h
    · intro t9 a10 k11
      refine Kept.foldl ?_ ?_
      · exact k11
      · intro t12 a13 k14
        refine State.send_kept ?_
        exact k14
  clear_value t1
  have k15 : Kept s0 t2 := by
    unfold t2
    split
    · exact k8
    · refine Kept.foldl ?_ ?_
      · exact k8
      · intro t21 a22 k23
        refine Kept.foldl ?_ ?_
        · exact k23
        · intro t24 a25 k26
          refine Kept.ite ?_ ?_
          · exact k26
          · refine State.send_kept ?_
            exact k26
  clear_value t2
  have k27 : Kept s0 t3 := by
    unfold t3
    refine Kept.foldl ?_ ?_
    · exact k15
    · intro t28 a29 k30
      refine Kept.ite ?_ ?_
      · refine State.resendTenant_kept ?_
        exact k30
      · exact k30
  clear_value t3
  have k31 : Kept s0 t4 := by
    unfold t4
    refine Kept.foldl ?_ ?_
    · exact k27
    · intro t32 a33 k34
      refine State.sendOffer_kept ?_
      exact k34
  clear_value t4
  have k35 : Kept s0 t5 := by
    unfold t5
    refine Kept.foldl ?_ ?_
    · exact k31
    · intro t36 a37 k38
      refine State.resendRound_kept ?_
      exact k38
  clear_value t5
  have k39 : Kept s0 t6 := by
    unfold t6
    refine Kept.ite ?_ ?_
    · refine State.askStatus_kept ?_
      exact k35
    · exact k35
  clear_value t6
  clear_value v7
  exact k39.same rfl

theorem execUnitResetComplete_kept : ∀ {s0 : State} {u : ResetUnit} {s : State}, Kept s0 s → KeptO s0 (execUnitResetComplete u s) := by
  intro s0 u s h
  unfold execUnitResetComplete
  extract_lets t1 v2 t3 t4
  have k5 : Kept s0 t1 := by
    unfold t1
    refine State.updFlt_kept ?_ ?_
    · exact h
    · intro a6
      rfl
  clear_value t1
  clear_value v2
  have k7 : Kept s0 t3 := by
    unfold t3
    refine State.raise_kept ?_
    exact k5
  clear_value t3
  have k8 : Kept s0 t4 := by
    unfold t4
    refine Kept.ite ?_ ?_
    · refine State.resendRequests_kept ?_
      exact k7
    · exact k7
  clear_value t4
  refine KeptO.ite ?_ ?_
  · refine KeptO.next ?_
    exact h
  · refine KeptO.next ?_
    refine Kept.foldl ?_ ?_
    · exact k8
    · intro t9 a10 k11
      refine Kept.ite ?_ ?_
      · refine State.follow_kept ?_
        exact k11
      · exact k11

theorem State.unitExpiry_kept : ∀ {s0 s : State} {u : ResetUnit} {code : Nat} {busy : Option (Fin 16)}, Kept s0 s → Kept s0 (s.unitExpiry u code busy) := by
  intro s0 s u code busy h
  unfold State.unitExpiry
  refine Kept.ite ?_ ?_
  · refine State.raise_kept ?_
    exact h
  · refine State.raise_kept ?_
    exact h

theorem execWatchdogExpiry_kept : ∀ {s0 : State} {x : WatchdogAt} {s : State}, Kept s0 s → KeptO s0 (execWatchdogExpiry x s) := by
  intro s0 x s h
  unfold execWatchdogExpiry
  extract_lets t1
  have k2 : Kept s0 t1 := by
    unfold t1
    refine State.at__kept ?_
    exact h
  clear_value t1
  refine KeptO.ite ?_ ?_
  · refine KeptO.next ?_
    exact h
  · refine KeptO.next ?_
    split
    · refine State.unitExpiry_kept ?_
      exact k2
    · refine State.unitExpiry_kept ?_
      exact k2
    · refine State.unitExpiry_kept ?_
      exact k2
    · refine State.unitExpiry_kept ?_
      exact k2
    · refine State.raise_kept ?_
      exact k2
    · refine State.overdue_kept ?_
      exact k2

theorem State.clearSummary_kept : ∀ {s0 s : State} {mask : BitVec 14}, Kept s0 s → Kept s0 (s.clearSummary mask) := by
  intro s0 s mask h
  unfold State.clearSummary
  extract_lets v1
  clear_value v1
  refine State.updFlt_kept ?_ ?_
  · exact h
  · intro a2
    rfl

theorem execFltSummaryClear_kept : ∀ {s0 : State} {a : Acc} {mask : BitVec 14} {s : State}, Kept s0 s → KeptO s0 (execFltSummaryClear a mask s) := by
  intro s0 a mask s h
  unfold execFltSummaryClear
  refine KeptO.next ?_
  refine State.window_kept ?_ ?_
  · exact h
  · intro t1 k2
    refine State.clearSummary_kept ?_
    exact k2

theorem State.crashWrite_kept : ∀ {s0 s : State} {a : Acc} {fmt : Bool} {page : BitVec 6} {f : State → State},
  Kept s0 s → (∀ (a : State), Kept s0 a → Kept s0 (f a)) → KeptO s0 (s.crashWrite a fmt page f) := by
  intro s0 s a fmt page f h hf1
  unfold State.crashWrite
  refine KeptO.ite ?_ ?_
  · refine KeptO.next ?_
    refine State.refuse_kept ?_
    exact h
  · refine KeptO.next ?_
    refine State.window_kept ?_ ?_
    · exact h
    · intro t1 k2
      refine hf1 _ ?_
      refine State.updCrash_kept ?_ ?_
      · exact k2
      · intro a3
        rfl

theorem execCdCapture_kept : ∀ {s0 : State} {a : Acc} {fmt : Bool} {page : BitVec 6} {s : State}, Kept s0 s → KeptO s0 (execCdCapture a fmt page s) := by
  intro s0 a fmt page s h
  unfold execCdCapture
  refine State.crashWrite_kept ?_ ?_
  · exact h
  · intro t1 k2
    refine State.beginCapture_kept ?_
    exact k2

theorem State.releaseSlot_kept {s0 s : State} (h : Kept s0 s) : Kept s0 s.releaseSlot :=
  h.withArea fun q => Mem.wf_zero _ _ q

theorem execCdRelease_kept : ∀ {s0 : State} {a : Acc} {fmt : Bool} {page : BitVec 6} {s : State}, Kept s0 s → KeptO s0 (execCdRelease a fmt page s) := by
  intro s0 a fmt page s h
  unfold execCdRelease
  refine State.crashWrite_kept ?_ ?_
  · exact h
  · intro t1 k2
    refine State.releaseSlot_kept ?_
    exact k2

theorem execFltQuery_kept : ∀ {s0 : State} {a : Acc} {addr : Addr} {tenant : Tag} {s : State}, Kept s0 s → KeptO s0 (execFltQuery a addr tenant s) := by
  intro s0 a addr tenant s h
  unfold execFltQuery
  refine KeptO.next ?_
  refine State.window_kept ?_ ?_
  · exact h
  · intro t1 k2
    refine State.askStatus_kept ?_
    refine State.updFlt_kept ?_ ?_
    · exact k2
    · intro a3
      rfl

theorem execStatusQuery_kept : ∀ {s0 : State} {f : Rx} {s : State}, Kept s0 s → KeptO s0 (execStatusQuery f s) := by
  intro s0 f s h
  unfold execStatusQuery
  refine KeptO.next ?_
  refine State.receive_kept ?_ ?_
  · exact h
  · intro t1 a2 k3
    refine State.sendReply_kept ?_
    exact k3

theorem execStatusReply_kept : ∀ {s0 : State} {f : Rx} {s : State}, Kept s0 s → KeptO s0 (execStatusReply f s) := by
  intro s0 f s h
  unfold execStatusReply
  refine KeptO.next ?_
  refine State.receive_kept ?_ ?_
  · exact h
  · intro t1 a2 k3
    refine State.updFlt_kept ?_ ?_
    · exact k3
    · intro a4
      rfl

theorem execStatusMirrorWrite_kept : ∀ {s0 : State} {now : BitVec 64} {s : State}, Kept s0 s → KeptO s0 (execStatusMirrorWrite now s) := by
  intro s0 now s h
  unfold execStatusMirrorWrite
  extract_lets t1 v2
  have k3 : Kept s0 t1 := by
    unfold t1
    refine State.at__kept ?_
    exact h
  clear_value t1
  clear_value v2
  refine KeptO.ite ?_ ?_
  · refine KeptO.next ?_
    exact h
  · refine KeptO.next ?_
    refine State.updFlt_kept ?_ ?_
    · refine State.putBytes_kept ?_
      exact k3
    · intro a4
      rfl

theorem State.badHawk_kept : ∀ {s0 s : State} {index : Nat}, Kept s0 s → Kept s0 (s.badHawk index) := by
  intro s0 s index h
  unfold State.badHawk
  split
  · exact h
  · split
    · exact h
    · extract_lets t11 v12
      have k13 : Kept s0 t11 := by
        unfold t11
        refine State.raise_kept ?_
        exact h
      clear_value t11
      clear_value v12
      refine Kept.ite ?_ ?_
      · split
        · extract_lets v17 v18
          clear_value v17
          clear_value v18
          exact k13.same rfl
        · exact k13
      · refine State.withhold_kept ?_
        exact k13

theorem State.badLocal_kept : ∀ {s0 s : State} {addr : Nat}, Kept s0 s → Kept s0 (s.badLocal addr) := by
  intro s0 s addr h
  unfold State.badLocal
  refine Kept.ite ?_ ?_
  · exact h
  · refine Kept.foldl ?_ ?_
    · exact h
    · intro t1 a2 k3
      extract_lets v4
      clear_value v4
      refine Kept.ite ?_ ?_
      · exact k3
      · split
        · exact k3
        · extract_lets t10
          have k11 : Kept s0 t10 := by
            unfold t10
            refine State.updIntake_kept ?_
            exact k3
          clear_value t10
          refine State.follow_kept ?_
          refine State.withhold_kept ?_
          refine State.raiseT_kept ?_
          exact k11

theorem State.badSource_kept : ∀ {s0 s : State} {index : Nat}, Kept s0 s → Kept s0 (s.badSource index) := by
  intro s0 s index h
  unfold State.badSource
  split
  · exact h
  · extract_lets t7
    have k8 : Kept s0 t7 := by
      unfold t7
      refine State.updSource_kept ?_
      exact h
    clear_value t7
    split
    · refine State.withhold_kept ?_
      exact k8
    · exact k8

theorem State.badBank_kept : ∀ {s0 s : State} {bank : Bool}, Kept s0 s → Kept s0 (s.badBank bank) := by
  intro s0 s bank h
  unfold State.badBank
  extract_lets v1 v2 t3
  clear_value v2
  have k4 : Kept s0 t3 := by
    unfold t3
    exact h.same rfl
  clear_value t3
  refine State.raise_kept ?_
  exact k4

theorem State.scrubFind_kept : ∀ {s0 s : State} {f : ScrubFind}, Kept s0 s → Kept s0 (s.scrubFind f) := by
  intro s0 s f h
  unfold State.scrubFind
  split
  · refine State.count_kept ?_
    exact h
  · refine State.raise_kept ?_
    exact h
  · extract_lets t9
    have k10 : Kept s0 t9 := by
      unfold t9
      refine State.raise_kept ?_
      exact h
    clear_value t9
    split
    · refine State.badHawk_kept ?_
      exact k10
    · refine State.badLocal_kept ?_
      exact k10
    · refine State.contain_kept ?_
      exact k10
    · refine State.badSource_kept ?_
      exact k10
    · refine State.badBank_kept ?_
      exact k10
    · refine State.updCrash_kept ?_ ?_
      · exact k10
      · intro a23
        rfl
    · exact k10
  · refine State.raise_kept ?_
    refine State.updFlt_kept ?_ ?_
    · exact h
    · intro a27
      rfl
  · refine State.raise_kept ?_
    refine State.updFlt_kept ?_ ?_
    · exact h
    · intro a30
      rfl

theorem execScrubPass_kept : ∀ {s0 : State} {finds : List ScrubFind} {s : State}, Kept s0 s → KeptO s0 (execScrubPass finds s) := by
  intro s0 finds s h
  unfold execScrubPass
  extract_lets t1
  have k2 : Kept s0 t1 := by
    unfold t1
    refine Kept.foldl ?_ ?_
    · exact h
    · intro t3 a4 k5
      refine State.scrubFind_kept ?_
      exact k5
  clear_value t1
  refine KeptO.ite ?_ ?_
  · refine KeptO.next ?_
    exact h
  · refine KeptO.next ?_
    refine Kept.foldl ?_ ?_
    · exact k2
    · intro t6 a7 k8
      refine Kept.ite ?_ ?_
      · refine State.follow_kept ?_
        exact k8
      · exact k8

end Sys2Proof.Machine
end

