-- ==== Sys2Proof/Laws/KeptWindow.lean ====
section
/-! SUPPORT. What is kept by the block's own work, the lath and the register window. -/

namespace Sys2Proof.Machine

theorem State.settleTen_kept : ∀ {s0 s : State} {i : Fin 64}, Kept s0 s → Kept s0 (s.settleTen i) := by
  intro s0 s i h
  unfold State.settleTen
  refine Kept.ite ?_ ?_
  · exact h
  · refine State.follow_kept ?_
    refine State.syncRoles_kept ?_
    exact h

theorem State.settle_kept : ∀ {s0 s : State}, Kept s0 s → Kept s0 s.settle := by
  intro s0 s h
  unfold State.settle
  refine Kept.ite ?_ ?_
  · exact h
  · split
    · refine State.unpark_kept ?_
      refine State.syncGroups_kept ?_
      refine State.freeReleased_kept ?_
      refine Kept.foldl ?_ ?_
      · exact h
      · intro t3 a4 k5
        refine State.settleTen_kept ?_
        exact k5
    · exact h
    · refine Kept.ite ?_ ?_
      · refine State.beginReset_kept ?_
        exact h
      · exact h

theorem State.updLath_kept : ∀ {s0 s : State} {f : LathS → LathS}, Kept s0 s → Kept s0 (s.updLath f) := by
  intro s0 s f h
  unfold State.updLath
  exact h.same rfl

theorem State.updMate_kept : ∀ {s0 s : State} {inst : BitVec 4} {f : LathInst → LathInst}, Kept s0 s → Kept s0 (s.updMate inst f) := by
  intro s0 s inst f h
  unfold State.updMate
  refine State.updLath_kept ?_
  exact h

theorem State.lathTenant_kept : ∀ {s0 s : State} {tidx : Nat} {f : State → Fin 64 → State},
  Kept s0 s → (∀ (a : State) (a_1 : Fin 64), Kept s0 a → Kept s0 (f a a_1)) → Kept s0 (s.lathTenant tidx f) := by
  intro s0 s tidx f h hf1
  unfold State.lathTenant
  split
  · refine Kept.ite ?_ ?_
    · refine hf1 _ _ ?_
      exact h
    · exact h
  · exact h

theorem State.followAll_kept : ∀ {s0 s : State}, Kept s0 s → Kept s0 s.followAll := by
  intro s0 s h
  unfold State.followAll
  refine Kept.foldl ?_ ?_
  · exact h
  · intro t1 a2 k3
    refine Kept.ite ?_ ?_
    · refine State.follow_kept ?_
      refine State.syncRoles_kept ?_
      exact k3
    · exact k3

theorem State.takeMateVote_kept : ∀ {s0 s : State} {inst : BitVec 4} {i : Fin 64} {epoch : Nat} {tr : BitVec 7} {again : Bool},
  Kept s0 s → Kept s0 (s.takeMateVote inst i epoch tr again) := by
  intro s0 s inst i epoch tr again h
  unfold State.takeMateVote
  extract_lets v1 t2 t3
  clear_value v1
  have k4 : Kept s0 t2 := by
    unfold t2
    refine Kept.ite ?_ ?_
    · refine State.updCommit_kept ?_
      exact h
    · exact h
  clear_value t2
  have k5 : Kept s0 t3 := by
    unfold t3
    refine Kept.ite ?_ ?_
    · refine State.noteChild_kept ?_
      exact k4
    · exact k4
  clear_value t3
  refine Kept.ite ?_ ?_
  · refine State.follow_kept ?_
    exact k5
  · exact k5

theorem State.takeLathRequest_kept : ∀ {s0 s : State} {inst : BitVec 4} {i : Fin 64} {level : Nat} {reason : Byte} {epoch : Nat} {tr : BitVec 7},
  Kept s0 s → Kept s0 (s.takeLathRequest inst i level reason epoch tr) := by
  intro s0 s inst i level reason epoch tr h
  unfold State.takeLathRequest
  extract_lets v1 v2 v3 v4 v5
  clear_value v1
  clear_value v2
  clear_value v3
  clear_value v4
  clear_value v5
  refine Kept.ite ?_ ?_
  · exact h
  · refine Kept.ite ?_ ?_
    · refine Kept.ite ?_ ?_
      · refine State.follow_kept ?_
        refine State.jobRequest_kept ?_
        exact h
      · exact h
    · refine Kept.ite ?_ ?_
      · split
        · refine Kept.ite ?_ ?_
          · exact h
          · refine State.follow_kept ?_
            refine State.requestPod_kept ?_
            exact h
        · refine State.follow_kept ?_
          refine State.requestPod_kept ?_
          exact h
        · exact h
      · refine Kept.ite ?_ ?_
        · refine State.follow_kept ?_
          refine State.requestChip_kept ?_
          exact h
        · exact h

theorem State.takePodVote_kept : ∀ {s0 s : State} {inst : BitVec 4} {i : Fin 64} {ready epoch : Nat} {tr : BitVec 7},
  Kept s0 s → Kept s0 (s.takePodVote inst i ready epoch tr) := by
  intro s0 s inst i ready epoch tr h
  unfold State.takePodVote
  extract_lets v1
  clear_value v1
  refine Kept.ite ?_ ?_
  · exact h
  · split
    · extract_lets v5 v6 t7
      clear_value v6
      have k8 : Kept s0 t7 := by
        unfold t7
        refine State.setCredit_kept ?_
        exact h
      clear_value t7
      refine Kept.ite ?_ ?_
      · refine State.raiseT_kept ?_
        exact h
      · refine State.follow_kept ?_
        refine Kept.ite ?_ ?_
        · refine State.noteChild_kept ?_
          exact k8
        · exact k8
    · refine State.raiseT_kept ?_
      exact h

theorem State.takeMateDecision_kept : ∀ {s0 s : State} {i : Fin 64} {d : Decision}, Kept s0 s → Kept s0 (s.takeMateDecision i d) := by
  intro s0 s i d h
  unfold State.takeMateDecision
  extract_lets t1
  have k2 : Kept s0 t1 := by
    unfold t1
    refine Kept.ite ?_ ?_
    · refine State.heardPods_kept ?_
      exact h
    · exact h
  clear_value t1
  refine State.follow_kept ?_
  refine State.decision_kept ?_
  exact k2

theorem State.lathMessage_kept : ∀ {s0 s : State} {m : LathMsg}, Kept s0 s → Kept s0 (s.lathMessage m) := by
  intro s0 s m h
  unfold State.lathMessage
  split
  · extract_lets v7 t8
    clear_value v7
    have k9 : Kept s0 t8 := by
      unfold t8
      refine State.updMate_kept ?_
      exact h
    clear_value t8
    refine Kept.ite ?_ ?_
    · refine State.lathTenant_kept ?_ ?_
      · exact k9
      · intro t10 a11 k12
        refine State.takeMateVote_kept ?_
        exact k12
    · exact k9
  · extract_lets t17
    have k18 : Kept s0 t17 := by
      unfold t17
      refine State.updMate_kept ?_
      exact h
    clear_value t17
    refine State.lathTenant_kept ?_ ?_
    · exact k18
    · intro t19 a20 k21
      refine Kept.ite ?_ ?_
      · refine State.follow_kept ?_
        exact k21
      · exact k21
  · refine State.followAll_kept ?_
    refine State.updMate_kept ?_
    exact h
  · refine Kept.ite ?_ ?_
    · refine State.lathTenant_kept ?_ ?_
      · exact h
      · intro t28 a29 k30
        refine State.takeMateDecision_kept ?_
        exact k30
    · refine State.updLath_kept ?_
      exact h
  · refine State.lathTenant_kept ?_ ?_
    · exact h
    · intro t38 a39 k40
      refine State.takeLathRequest_kept ?_
      exact k40
  · refine State.lathTenant_kept ?_ ?_
    · exact h
    · intro t47 a48 k49
      refine State.takePodVote_kept ?_
      exact k49
  · refine Kept.ite ?_ ?_
    · exact h
    · refine State.lathTenant_kept ?_ ?_
      · exact h
      · intro t53 a54 k55
        extract_lets v56
        clear_value v56
        refine Kept.ite ?_ ?_
        · refine State.applyUpdate_kept ?_
          exact k55
        · refine Kept.ite ?_ ?_
          · refine State.querySync_kept ?_
            exact k55
          · exact k55
  · refine State.receiveImage_kept ?_
    exact h
  · refine State.takeAnswer_kept ?_
    exact h
  · refine Kept.ite ?_ ?_
    · exact h
    · refine State.applyCandidate_kept ?_
      exact h
  · refine Kept.ite ?_ ?_
    · exact h
    · refine State.noCopy_kept ?_
      exact h

theorem execLathTransfer_kept : ∀ {s0 : State} {x : LathXfer} {s : State}, Kept s0 s → KeptO s0 (execLathTransfer x s) := by
  intro s0 x s h
  unfold execLathTransfer
  extract_lets t1
  have k2 : Kept s0 t1 := by
    unfold t1
    refine State.updLath_kept ?_
    exact h
  clear_value t1
  refine KeptO.ite ?_ ?_
  · refine KeptO.next ?_
    exact h
  · refine KeptO.ite ?_ ?_
    · refine KeptO.next ?_
      refine State.lathMessage_kept ?_
      exact h
    · refine KeptO.ite ?_ ?_
      · refine KeptO.next ?_
        refine State.lathMessage_kept ?_
        exact k2
      · refine KeptO.next ?_
        refine State.raise_kept ?_
        exact k2

theorem execLathRingWalk_kept : ∀ {s0 : State} {w : WalkResult} {s : State}, Kept s0 s → KeptO s0 (execLathRingWalk w s) := by
  intro s0 w s h
  unfold execLathRingWalk
  extract_lets t1
  have k2 : Kept s0 t1 := by
    unfold t1
    refine State.updLath_kept ?_
    exact h
  clear_value t1
  refine KeptO.ite ?_ ?_
  · refine KeptO.next ?_
    exact h
  · split
    · refine KeptO.ite ?_ ?_
      · refine KeptO.next ?_
        exact k2
      · split
        · extract_lets t10
          have k11 : Kept s0 t10 := by
            unfold t10
            refine State.raise_kept ?_
            exact k2
          clear_value t10
          refine KeptO.next ?_
          refine Kept.ite ?_ ?_
          · refine State.nextCopy_kept ?_
            exact k11
          · refine State.lathSend_kept ?_
            refine State.updLoader_kept ?_
            exact k11
        · refine KeptO.next ?_
          exact k2
    · refine KeptO.next ?_
      exact k2

theorem State.accept_kept : ∀ {s0 s : State} {a : Acc} {off : Nat} {good : Bool} {f : State → State},
  Kept s0 s → (∀ (a : State), Kept s0 a → Kept s0 (f a)) → Kept s0 (s.accept a off good f) := by
  intro s0 s a off good f h hf1
  unfold State.accept
  refine Kept.ite ?_ ?_
  · refine hf1 _ ?_
    refine State.ok_kept ?_
    exact h
  · refine State.refuse_kept ?_
    exact h

theorem State.ignored_kept : ∀ {s0 s : State} {a : Acc} {off : Nat}, Kept s0 s → Kept s0 (s.ignored a off) := by
  intro s0 s a off h
  unfold State.ignored
  refine State.raise_kept ?_
  refine State.ok_kept ?_
  exact h

theorem State.writeControl_kept : ∀ {s0 s : State} {a : Acc} {off : Nat} {w : Word}, Kept s0 s → Kept s0 (s.writeControl a off w) := by
  intro s0 s a off w h
  unfold State.writeControl
  refine Kept.ite ?_ ?_
  · refine State.refuse_kept ?_
    exact h
  · split
    · refine State.accept_kept ?_ ?_
      · exact h
      · intro t2 k3
        extract_lets v4
        clear_value v4
        exact k3.same rfl
    · refine State.accept_kept ?_ ?_
      · exact h
      · intro t6 k7
        refine State.updLoader_kept ?_
        exact k7
    · refine State.accept_kept ?_ ?_
      · exact h
      · intro t9 k10
        refine State.updLoader_kept ?_
        exact k10
    · refine State.accept_kept ?_ ?_
      · exact h
      · intro t12 k13
        extract_lets v14
        clear_value v14
        exact k13.same rfl
    · refine State.ignored_kept ?_
      exact h

theorem State.writeFltCtrl_kept : ∀ {s0 s : State} {a : Acc} {w : Word}, Kept s0 s → Kept s0 (s.writeFltCtrl a w) := by
  intro s0 s a w h
  unfold State.writeFltCtrl
  refine State.accept_kept ?_ ?_
  · exact h
  · intro t1 k2
    extract_lets t3 t4
    have k5 : Kept s0 t3 := by
      unfold t3
      refine Kept.ite ?_ ?_
      · refine State.lift_kept ?_
        exact k2
      · exact k2
    clear_value t3
    have k6 : Kept s0 t4 := by
      unfold t4
      refine Kept.ite ?_ ?_
      · refine State.wantReset_kept ?_
        exact k5
      · exact k5
    clear_value t4
    refine Kept.ite ?_ ?_
    · refine State.hold_kept ?_
      exact k6
    · exact k6

theorem State.writeFltReset_kept : ∀ {s0 s : State} {a : Acc} {w : Word}, Kept s0 s → Kept s0 (s.writeFltReset a w) := by
  intro s0 s a w h
  unfold State.writeFltReset
  extract_lets v1 v2
  clear_value v1
  clear_value v2
  refine Kept.ite ?_ ?_
  · refine State.refuse_kept ?_
    exact h
  · refine Kept.ite ?_ ?_
    · refine State.accept_kept ?_ ?_
      · exact h
      · intro t3 k4
        refine State.updFlt_kept ?_ ?_
        · exact k4
        · intro a5
          rfl
    · refine settled_kept ?_
      split
      · refine execResetLaneGroup_kept ?_
        exact h
      · refine execResetGfEngine_kept ?_
        exact h
      · refine execResetEndpoint_kept ?_
        exact h
      · refine execResetBadger_kept ?_
        exact h
      · refine execResetInstance_kept ?_
        exact h

theorem State.writeCdCtrl_kept : ∀ {s0 s : State} {a : Acc} {w : Word}, Kept s0 s → Kept s0 (s.writeCdCtrl a w) := by
  intro s0 s a w h
  unfold State.writeCdCtrl
  refine settled_kept ?_
  refine State.crashWrite_kept ?_ ?_
  · exact h
  · intro t1 k2
    extract_lets t3
    have k4 : Kept s0 t3 := by
      unfold t3
      refine Kept.ite ?_ ?_
      · refine State.beginCapture_kept ?_
        exact k2
      · exact k2
    clear_value t3
    refine Kept.ite ?_ ?_
    · refine State.releaseSlot_kept ?_
      exact k4
    · exact k4

theorem State.writeFault_kept : ∀ {s0 s : State} {a : Acc} {off : Nat} {w : Word}, Kept s0 s → Kept s0 (s.writeFault a off w) := by
  intro s0 s a off w h
  unfold State.writeFault
  extract_lets v1 v2 v3
  clear_value v1
  clear_value v2
  clear_value v3
  split
  · refine settled_kept ?_
    refine execFltSummaryClear_kept ?_
    exact h
  · refine State.writeFltCtrl_kept ?_
    exact h
  · refine State.writeFltReset_kept ?_
    exact h
  · refine State.accept_kept ?_ ?_
    · exact h
    · intro t8 k9
      refine State.updFlt_kept ?_ ?_
      · exact k9
      · intro a10
        rfl
  · refine State.accept_kept ?_ ?_
    · exact h
    · intro t12 k13
      refine State.updFlt_kept ?_ ?_
      · exact k13
      · intro a14
        rfl
  · refine Kept.ite ?_ ?_
    · refine settled_kept ?_
      refine execFltQuery_kept ?_
      exact h
    · refine State.accept_kept ?_ ?_
      · exact h
      · intro t16 k17
        refine State.updFlt_kept ?_ ?_
        · exact k17
        · intro a18
          rfl
  · refine State.writeCdCtrl_kept ?_
    exact h
  · refine State.accept_kept ?_ ?_
    · exact h
    · intro t21 k22
      refine State.updCrash_kept ?_ ?_
      · exact k22
      · intro a23
        rfl
  · refine State.ignored_kept ?_
    exact h

theorem State.writeTree_kept : ∀ {s0 s : State} {a : Acc} {off : Nat} {f : Tree → Tree}, Kept s0 s → Kept s0 (s.writeTree a off f) := by
  intro s0 s a off f h
  unfold State.writeTree
  extract_lets v1 v2 t3
  clear_value v1
  clear_value v2
  have k4 : Kept s0 t3 := by
    unfold t3
    refine State.syncCands_kept ?_
    refine State.updCommit_kept ?_
    exact h
  clear_value t3
  refine Kept.ite ?_ ?_
  · refine State.refuse_kept ?_
    exact h
  · refine Kept.ite ?_ ?_
    · refine State.raiseT_kept ?_
      refine State.refuse_kept ?_
      exact h
    · refine Kept.ite ?_ ?_
      · refine State.updCommit_kept ?_
        refine State.ok_kept ?_
        exact h
      · refine State.syncGroups_kept ?_
        refine State.syncRoles_kept ?_
        refine State.ok_kept ?_
        exact k4

theorem State.writeFox_kept : ∀ {s0 s : State} {a : Acc} {off : Nat} {w : Word}, Kept s0 s → Kept s0 (s.writeFox a off w) := by
  intro s0 s a off w h
  unfold State.writeFox
  extract_lets v1 v2
  clear_value v1
  clear_value v2
  split
  · refine State.accept_kept ?_ ?_
    · exact h
    · intro t4 k5
      extract_lets v6
      clear_value v6
      exact k5.same rfl
  · refine State.writeTree_kept ?_
    exact h
  · refine Kept.ite ?_ ?_
    · refine settled_kept ?_
      refine execFabricManagerReport_kept ?_
      exact h
    · refine State.accept_kept ?_ ?_
      · exact h
      · intro t9 k10
        extract_lets v11
        clear_value v11
        exact k10.same rfl
  · refine Kept.ite ?_ ?_
    · refine settled_kept ?_
      refine execEvict_kept ?_
      exact h
    · refine State.accept_kept ?_ ?_
      · exact h
      · intro t13 k14
        refine State.updFox_kept ?_
        exact k14
  · refine State.accept_kept ?_ ?_
    · exact h
    · intro t16 k17
      refine State.updCommit_kept ?_
      exact k17
  · refine State.accept_kept ?_ ?_
    · exact h
    · intro t19 k20
      refine Kept.ite ?_ ?_
      · exact k20
      · refine State.updCommit_kept ?_
        exact k20
  · refine State.ignored_kept ?_
    exact h

theorem State.writeCommit_kept : ∀ {s0 s : State} {a : Acc} {off : Nat} {w : Word}, Kept s0 s → Kept s0 (s.writeCommit a off w) := by
  intro s0 s a off w h
  unfold State.writeCommit
  extract_lets v1
  clear_value v1
  split
  · refine Kept.ite ?_ ?_
    · refine settled_kept ?_
      refine execEcAbort_kept ?_
      exact h
    · refine State.accept_kept ?_ ?_
      · exact h
      · intro t3 k4
        refine State.updCommit_kept ?_
        exact k4
  · refine State.accept_kept ?_ ?_
    · exact h
    · intro t6 k7
      refine State.updCommit_kept ?_
      exact k7
  · refine State.writeTree_kept ?_
    exact h
  · refine State.accept_kept ?_ ?_
    · exact h
    · intro t10 k11
      extract_lets v12
      clear_value v12
      exact k11.same rfl
  · refine State.writeTree_kept ?_
    exact h
  · refine State.accept_kept ?_ ?_
    · exact h
    · intro t15 k16
      extract_lets v17
      clear_value v17
      exact k16.same rfl
  · refine State.writeTree_kept ?_
    exact h
  · refine State.accept_kept ?_ ?_
    · exact h
    · intro t20 k21
      extract_lets v22
      clear_value v22
      exact k21.same rfl
  · refine State.ignored_kept ?_
    exact h

theorem State.writeEngine_kept : ∀ {s0 s : State} {a : Acc} {off : Nat} {w : Word}, Kept s0 s → Kept s0 (s.writeEngine a off w) := by
  intro s0 s a off w h
  unfold State.writeEngine
  extract_lets v1
  clear_value v1
  split
  · refine State.accept_kept ?_ ?_
    · exact h
    · intro t3 k4
      extract_lets v5
      clear_value v5
      exact k4.same rfl
  · refine Kept.ite ?_ ?_
    · refine settled_kept ?_
      refine execIntakeReopen_kept ?_
      exact h
    · refine State.accept_kept ?_ ?_
      · exact h
      · intro t7 k8
        dsimp only [id]
        exact k8
  · refine State.accept_kept ?_ ?_
    · exact h
    · intro t10 k11
      extract_lets v12
      clear_value v12
      exact k11.same rfl
  · refine State.ignored_kept ?_
    exact h

theorem State.writeBanks_kept : ∀ {s0 s : State} {a : Acc} {off : Nat} {w : Word}, Kept s0 s → Kept s0 (s.writeBanks a off w) := by
  intro s0 s a off w h
  unfold State.writeBanks
  extract_lets v1 v2
  clear_value v1
  clear_value v2
  split
  · split
    · refine settled_kept ?_
      refine execIbLoad_kept ?_
      exact h
    · refine settled_kept ?_
      refine execIbArm_kept ?_
      exact h
    · refine settled_kept ?_
      refine execIbDisarm_kept ?_
      exact h
    · refine State.refuse_kept ?_
      exact h
  · refine State.accept_kept ?_ ?_
    · exact h
    · intro t15 k16
      refine State.updIb_kept ?_
      exact k16
  · refine State.accept_kept ?_ ?_
    · exact h
    · intro t18 k19
      refine State.updIb_kept ?_
      exact k19
  · refine State.accept_kept ?_ ?_
    · exact h
    · intro t21 k22
      refine State.updIb_kept ?_
      exact k22
  · refine State.accept_kept ?_ ?_
    · exact h
    · intro t24 k25
      refine State.updIb_kept ?_
      exact k25
  · refine State.accept_kept ?_ ?_
    · exact h
    · intro t27 k28
      refine State.updIb_kept ?_
      exact k28
  · refine State.accept_kept ?_ ?_
    · exact h
    · intro t30 k31
      refine State.updTen_kept ?_
      exact k31
  · refine State.ignored_kept ?_
    exact h

theorem State.writeWindow_kept : ∀ {s0 s : State} {a : Acc} {off : Nat} {w : Word}, Kept s0 s → Kept s0 (s.writeWindow a off w) := by
  intro s0 s a off w h
  unfold State.writeWindow
  split
  · refine State.accept_kept ?_ ?_
    · exact h
    · intro t2 k3
      refine State.updCtx_kept ?_
      exact k3
  · refine settled_kept ?_
    split
    · refine execCtxRead_kept ?_
      exact h
    · refine execInstall_kept ?_
      exact h
    · refine execModify_kept ?_
      exact h
    · refine execRetire_kept ?_
      exact h
    · refine execFind_kept ?_
      exact h
    · refine execHandoverOut_kept ?_
      exact h
    · refine State.ctxCmd_kept ?_ ?_
      · exact h
      · intro t24 a25 k26
        refine State.ctxResult_kept ?_
        exact k26
  · refine State.ignored_kept ?_
    exact h
  · refine State.ignored_kept ?_
    exact h
  · refine State.accept_kept ?_ ?_
    · exact h
    · intro t30 k31
      refine State.updCtx_kept ?_
      exact k31
  · refine State.accept_kept ?_ ?_
    · exact h
    · intro t38 k39
      refine State.updCtx_kept ?_
      exact k39

theorem State.writeEndpoint_kept : ∀ {s0 s : State} {a : Acc} {off : Nat} {w : Word}, Kept s0 s → Kept s0 (s.writeEndpoint a off w) := by
  intro s0 s a off w h
  unfold State.writeEndpoint
  extract_lets v1
  clear_value v1
  split
  · refine State.accept_kept ?_ ?_
    · exact h
    · intro t3 k4
      refine State.updEp_kept ?_
      exact k4
  · refine State.accept_kept ?_ ?_
    · exact h
    · intro t6 k7
      refine State.updEp_kept ?_
      exact k7
  · split
    · refine settled_kept ?_
      refine execRouteReq_kept ?_
      exact h
    · refine settled_kept ?_
      refine execRouteResume_kept ?_
      exact h
    · refine State.accept_kept ?_ ?_
      · exact h
      · intro t21 k22
        dsimp only [id]
        exact k22
    · refine Kept.ite ?_ ?_
      · refine settled_kept ?_
        refine execRouteResume_kept ?_
        exact h
      · refine State.refuse_kept ?_
        exact h
  · refine State.ignored_kept ?_
    exact h

theorem State.writeSkim_kept : ∀ {s0 s : State} {a : Acc} {off : Nat} {w : Word}, Kept s0 s → Kept s0 (s.writeSkim a off w) := by
  intro s0 s a off w h
  unfold State.writeSkim
  split
  · refine State.accept_kept ?_ ?_
    · exact h
    · intro t2 k3
      extract_lets v4
      clear_value v4
      exact k3.same rfl
  · refine State.accept_kept ?_ ?_
    · exact h
    · intro t6 k7
      extract_lets v8
      clear_value v8
      exact k7.same rfl
  · refine State.ignored_kept ?_
    exact h

theorem State.writeTarget_kept : ∀ {s0 s : State} {a : Acc} {w : Word}, Kept s0 s → Kept s0 (s.writeTarget a w) := by
  intro s0 s a w h
  unfold State.writeTarget
  extract_lets v1 v2 v3
  clear_value v1
  clear_value v2
  clear_value v3
  refine State.accept_kept ?_ ?_
  · exact h
  · intro t4 k5
    extract_lets v6 v7 t8
    clear_value v6
    clear_value v7
    have k9 : Kept s0 t8 := by
      unfold t8
      refine State.updBg_kept ?_
      exact k5
    clear_value t8
    refine State.follow_kept ?_
    refine State.nameTargets_kept ?_
    exact k9

theorem State.writeBadger_kept : ∀ {s0 s : State} {a : Acc} {off : Nat} {w : Word}, Kept s0 s → Kept s0 (s.writeBadger a off w) := by
  intro s0 s a off w h
  unfold State.writeBadger
  split
  · refine State.accept_kept ?_ ?_
    · exact h
    · intro t2 k3
      refine Kept.ite ?_ ?_
      · refine State.updBadger_kept ?_
        exact k3
      · exact k3
  · refine Kept.ite ?_ ?_
    · refine settled_kept ?_
      refine execBgRetry_kept ?_
      exact h
    · refine State.accept_kept ?_ ?_
      · exact h
      · intro t5 k6
        refine State.updBadger_kept ?_
        exact k6
  · refine State.accept_kept ?_ ?_
    · exact h
    · intro t8 k9
      refine State.updBadger_kept ?_
      exact k9
  · refine State.writeTarget_kept ?_
    exact h
  · refine State.ignored_kept ?_
    exact h

theorem State.updMove_kept : ∀ {s0 s : State} {f : Move → Move}, Kept s0 s → Kept s0 (s.updMove f) := by
  intro s0 s f h
  unfold State.updMove
  extract_lets v1
  clear_value v1
  exact h.same rfl

theorem State.writeReslice_kept : ∀ {s0 s : State} {a : Acc} {off : Nat} {w : Word}, Kept s0 s → Kept s0 (s.writeReslice a off w) := by
  intro s0 s a off w h
  unfold State.writeReslice
  extract_lets v1 v2
  clear_value v1
  clear_value v2
  split
  · split
    · refine settled_kept ?_
      refine execRsSeal_kept ?_
      exact h
    · refine settled_kept ?_
      refine execRsArm_kept ?_
      exact h
    · refine settled_kept ?_
      refine execTeardown_kept ?_
      exact h
    · refine settled_kept ?_
      refine execExport_kept ?_
      exact h
    · refine settled_kept ?_
      refine execRsDisarm_kept ?_
      exact h
    · refine State.refuse_kept ?_
      exact h
  · refine State.accept_kept ?_ ?_
    · exact h
    · intro t21 k22
      refine State.updRs_kept ?_
      exact k22
  · refine State.accept_kept ?_ ?_
    · exact h
    · intro t24 k25
      refine State.updRs_kept ?_
      exact k25
  · refine State.accept_kept ?_ ?_
    · exact h
    · intro t27 k28
      extract_lets v29
      clear_value v29
      exact k28.same rfl
  · refine State.accept_kept ?_ ?_
    · exact h
    · intro t31 k32
      refine State.updMove_kept ?_
      exact k32
  · refine State.accept_kept ?_ ?_
    · exact h
    · intro t34 k35
      refine State.updMove_kept ?_
      exact k35
  · refine State.accept_kept ?_ ?_
    · exact h
    · intro t37 k38
      extract_lets v39
      clear_value v39
      exact k38.same rfl
  · refine State.accept_kept ?_ ?_
    · exact h
    · intro t41 k42
      extract_lets v43
      clear_value v43
      exact k42.same rfl
  · refine State.ignored_kept ?_
    exact h

theorem State.writePair_kept : ∀ {s0 s : State} {a : Acc} {w : Word}, Kept s0 s → Kept s0 (s.writePair a w) := by
  intro s0 s a w h
  unfold State.writePair
  extract_lets v1 v2 v3 v4
  clear_value v1
  clear_value v2
  clear_value v3
  clear_value v4
  refine State.accept_kept ?_ ?_
  · exact h
  · intro t5 k6
    refine State.updAudit_kept ?_
    exact k6

theorem State.writeAudit_kept : ∀ {s0 s : State} {a : Acc} {off : Nat} {w : Word}, Kept s0 s → Kept s0 (s.writeAudit a off w) := by
  intro s0 s a off w h
  unfold State.writeAudit
  extract_lets v1 v2
  clear_value v1
  clear_value v2
  split
  · refine State.accept_kept ?_ ?_
    · exact h
    · intro t4 k5
      refine State.updAudit_kept ?_
      exact k5
  · split
    · refine settled_kept ?_
      refine execAuditStart_kept ?_
      exact h
    · refine settled_kept ?_
      refine execAuditStop_kept ?_
      exact h
    · refine State.refuse_kept ?_
      exact h
  · refine State.accept_kept ?_ ?_
    · exact h
    · intro t15 k16
      refine State.updAudit_kept ?_
      exact k16
  · refine State.accept_kept ?_ ?_
    · exact h
    · intro t18 k19
      refine Kept.ite ?_ ?_
      · refine State.updAudit_kept ?_
        exact k19
      · exact k19
  · refine State.accept_kept ?_ ?_
    · exact h
    · intro t21 k22
      refine State.updAudit_kept ?_
      exact k22
  · refine State.writePair_kept ?_
    exact h
  · refine State.accept_kept ?_ ?_
    · exact h
    · intro t25 k26
      extract_lets v27
      clear_value v27
      refine Kept.ite ?_ ?_
      · refine State.updAudit_kept ?_
        exact k26
      · exact k26
  · refine State.ignored_kept ?_
    exact h

theorem State.writeLoader_kept : ∀ {s0 s : State} {a : Acc} {off : Nat} {w : Word}, Kept s0 s → Kept s0 (s.writeLoader a off w) := by
  intro s0 s a off w h
  unfold State.writeLoader
  extract_lets v1 v2
  clear_value v1
  clear_value v2
  split
  · split
    · refine settled_kept ?_
      refine execCfStage_kept ?_
      exact h
    · refine settled_kept ?_
      refine execCfArm_kept ?_
      exact h
    · refine settled_kept ?_
      refine execCfDisarm_kept ?_
      exact h
    · refine settled_kept ?_
      refine execCfDiscard_kept ?_
      exact h
    · refine settled_kept ?_
      refine execFeedBegin_kept ?_
      exact h
    · refine settled_kept ?_
      refine execFeedEnd_kept ?_
      exact h
    · refine State.refuse_kept ?_
      exact h
  · refine State.accept_kept ?_ ?_
    · exact h
    · intro t24 k25
      refine State.updLoader_kept ?_
      exact k25
  · refine State.accept_kept ?_ ?_
    · exact h
    · intro t27 k28
      refine State.updLoader_kept ?_
      exact k28
  · refine settled_kept ?_
    refine execCfFeed_kept ?_
    exact h
  · refine State.ignored_kept ?_
    exact h

theorem State.writeWord_kept : ∀ {s0 s : State} {a : Acc} {off : Nat} {w : Word}, Kept s0 s → Kept s0 (s.writeWord a off w) := by
  intro s0 s a off w h
  unfold State.writeWord
  refine Kept.ite ?_ ?_
  · refine State.refuse_kept ?_
    exact h
  · refine Kept.ite ?_ ?_
    · refine State.refuse_kept ?_
      exact h
    · refine Kept.ite ?_ ?_
      · refine State.ignored_kept ?_
        exact h
      · refine Kept.ite ?_ ?_
        · refine State.writeControl_kept ?_
          exact h
        · refine Kept.ite ?_ ?_
          · refine State.writeFault_kept ?_
            exact h
          · refine Kept.ite ?_ ?_
            · refine State.writeFox_kept ?_
              exact h
            · refine Kept.ite ?_ ?_
              · refine State.writeCommit_kept ?_
                exact h
              · refine Kept.ite ?_ ?_
                · refine State.writeEngine_kept ?_
                  exact h
                · refine Kept.ite ?_ ?_
                  · refine State.writeBanks_kept ?_
                    exact h
                  · refine Kept.ite ?_ ?_
                    · refine State.writeWindow_kept ?_
                      exact h
                    · refine Kept.ite ?_ ?_
                      · refine State.writeEndpoint_kept ?_
                        exact h
                      · refine Kept.ite ?_ ?_
                        · refine State.writeSkim_kept ?_
                          exact h
                        · refine Kept.ite ?_ ?_
                          · refine State.writeBadger_kept ?_
                            exact h
                          · refine Kept.ite ?_ ?_
                            · refine State.writeReslice_kept ?_
                              exact h
                            · refine Kept.ite ?_ ?_
                              · refine State.writeAudit_kept ?_
                                exact h
                              · refine Kept.ite ?_ ?_
                                · refine State.ok_kept ?_
                                  exact h
                                · refine Kept.ite ?_ ?_
                                  · refine State.ignored_kept ?_
                                    exact h
                                  · refine Kept.ite ?_ ?_
                                    · refine State.writeLoader_kept ?_
                                      exact h
                                    · refine State.ignored_kept ?_
                                      exact h

theorem State.writeWords_kept : ∀ {s0 s : State} {q : NqReq} {a : Acc} {ws : List (Nat × Nat)}, Kept s0 s → Kept s0 (s.writeWords q a ws) := by
  intro s0 s q a ws h
  unfold State.writeWords
  extract_lets v1 t2 v3 v4 v5 v6
  have k7 : Kept s0 t2 := by
    unfold t2
    refine Kept.foldl ?_ ?_
    · exact h
    · intro t8 a9 k10
      refine State.writeWord_kept ?_
      exact k10
  clear_value t2
  clear_value v3
  clear_value v4
  clear_value v5
  clear_value v6
  split
  · exact k7
  · refine Kept.ite ?_ ?_
    · refine State.refuse_kept ?_
      exact h
    · exact k7.same rfl

theorem execRegisterWrite_kept : ∀ {s0 : State} {q : NqReq} {s : State}, Kept s0 s → KeptO s0 (execRegisterWrite q s) := by
  intro s0 q s h
  unfold execRegisterWrite
  refine KeptO.next ?_
  refine Kept.ite ?_ ?_
  · exact h
  · refine Kept.ite ?_ ?_
    · refine State.refuse_kept ?_
      exact h
    · refine State.writeWords_kept ?_
      exact h

theorem State.readClears_kept : ∀ {s0 s : State} {off : Nat}, Kept s0 s → Kept s0 (s.readClears off) := by
  intro s0 s off h
  unfold State.readClears
  extract_lets v1 v2 v3 v4 v5 t6
  have k7 : ∀ x1, Kept s0 (v1 x1) := by
    intro a8
    unfold v1
    refine Kept.ite ?_ ?_
    · refine State.updCrash_kept ?_ ?_
      · exact h
      · intro a9
        rfl
    · exact h
  clear_value v1
  clear_value v2
  clear_value v3
  clear_value v4
  clear_value v5
  have k10 : Kept s0 t6 := by
    unfold t6
    refine State.countN_kept ?_
    exact h
  clear_value t6
  refine Kept.ite ?_ ?_
  · refine Kept.ite ?_ ?_
    · refine State.raise_kept ?_
      exact h
    · exact h
  · refine Kept.ite ?_ ?_
    · refine k7 _
    · refine Kept.ite ?_ ?_
      · split
        · refine k7 _
        · exact h
      · split
        · exact h.same rfl
        · refine State.updFlt_kept ?_ ?_
          · exact h
          · intro a18
            rfl
        · exact h.same rfl
        · refine Kept.ite ?_ ?_
          · refine State.updSlot_kept ?_
            exact h
          · exact h
        · exact h.same rfl
        · refine State.updBadger_kept ?_
          exact h
        · exact h.same rfl
        · exact k10.same rfl
        · exact h

theorem execRcRead_kept : ∀ {s0 : State} {q : NqReq} {s : State}, Kept s0 s → KeptO s0 (execRcRead q s) := by
  intro s0 q s h
  unfold execRcRead
  extract_lets v1
  clear_value v1
  refine KeptO.next ?_
  refine Kept.ite ?_ ?_
  · exact h
  · refine Kept.ite ?_ ?_
    · refine State.refuse_kept ?_
      exact h
    · refine Kept.foldl ?_ ?_
      · refine State.respond_kept ?_
        exact h
      · intro t2 a3 k4
        refine State.readClears_kept ?_
        exact k4

end Sys2Proof.Machine
end

