-- ==== Sys2Proof/Tests/Slice0.lean ====
section
/-! SUPPORT. Tests: the well-formedness smoke test, values the manual works out, and for every statement of
Certificates/Slice0/Obligations.lean concrete states that meet its hypotheses, a clause at a time. -/

open Sys2Proof Sys2Proof.Machine

set_option linter.unusedVariables false
set_option maxRecDepth 8000
set_option Elab.async false

/-! ## The states of the witnesses -/

/-- The seal of a frame: its CRC is the one of its own bytes. -/
def sealed (f : Rx) : Rx := { f with crc := frameCrc f }

/-- A sealed frame's CRC is good. -/
theorem sealed_crc (f : Rx) : (sealed f).crc = frameCrc (sealed f) := rfl

/-- A sealed frame passes the checks of R75 that `frameGood` names where the frame passes them but for its CRC. -/
theorem sealed_good {s : State} {f : Rx} {typ : Byte} {i : Fin 64}
    (h : s.portsUp = true ∧ (s.at_ f.time).takesFrame f = true ∧ f.eiErr = false ∧ f.ver = 3 ∧ f.typ = typ ∧
      f.mark = (typ == 0x03) ∧ (f.elided = false ∨ typ = 0x01) ∧ f.rsv1 = false ∧ f.rsv2 = 0 ∧
      f.len.toNat = f.payload.length ∧ (s.at_ f.time).tenantOf f.tenant = some i ∧
      f.gen = ((s.at_ f.time).ten i).fox.gen ∧ (s.at_ f.time).srcLost i f = false) : frameGood s (sealed f) typ i := by
  obtain ⟨h1, h2, h3, h4, h5, h6, h7, h8, h9, h10, h11, h12, h13⟩ := h
  exact ⟨h1, h2, h3, rfl, h4, h5, h6, h7, h8, h9, h10, h11, h12, h13⟩

/-- The rank rows of the demonstration's sett: this instance first, a peer second. -/
def demoRows : List Row :=
  [{ addr := 1, mslot := 0, dcap := 64, place := 0, feed := 0, plane := 0 }, { addr := 2, mslot := 0, dcap := 64, place := 0, feed := 0, plane := 0 }]

/-- A sett of one data column and one parity column over two ranks. -/
def demoSett : SettDesc := { settId := 1, k := 1, m := 1, rank := 0, pbase := 64, q := 2, coef := [1], rows := demoRows }

/-- A configuration record: one tenant of tag 7 at index 0 that owns slot 0. -/
def demoRecord : Record :=
  { glob := { capmask := 0x3FF }
    inst := { chip := 1, lanes := 1, spanBase := 1, spanLen := 1, dgBase := 0x100000 }
    tenants := [{ tag := 7, tidx := 0, classMask := 7, slotMask := 1, ishare := 4, quota := 256, elimit := 16 }]
    setts := [(0, demoSett)] }

/-- A tenant that is a member with an attempt open. -/
def demoTenant : TenantS :=
  { env := some { tag := 7, tidx := 0, classMask := 7, slotMask := 1, ishare := 4, quota := 256, elimit := 16 }
    fox := { gen := 1, self := .member }
    commit := { vstate := .open_, committed := 1, openEpoch := 2, isOpen := true, att := 1 } }

/-- The demonstration's sett slot. -/
def demoSlot : SlotS :=
  { kind := .sett, sett := demoSett, st := .complete, ranks := [.present, .present], primed := true, alloc := 4 }

/-- An instance in service: configured, ready, one tenant with an attempt open on a sett of two ranks. -/
def demo : State :=
  { State.reset with
    power := { released := true }, loader := { state := .configured, applied := true, active := demoRecord }
    gate := { ready := true }
    slots := State.reset.slots.set 0 demoSlot, tenants := State.reset.tenants.set 0 demoTenant }

/-- A frame of the demonstration's tenant from its peer. -/
def rx (typ : Byte) (t : BitVec 64) (payload : List Byte := []) : Rx :=
  { eiErr := false, typ := typ, ver := 3, mark := typ == 0x03, retx := false, elided := false, rsv1 := false
    tenant := 7, gen := 1, epoch := 0, src := 2, tr := 0, len := BitVec.ofNat 13 payload.length, rsv2 := 0, t := t
    payload := payload, crc := 0, time := 0 }

/-- The same of a frame of a row taken under any generation. -/
theorem sealed_any {s : State} {f : Rx} {typ : Byte} {i : Fin 64}
    (h : s.portsUp = true ∧ (s.at_ f.time).takesFrame f = true ∧ f.eiErr = false ∧ f.ver = 3 ∧ f.typ = typ ∧
      f.mark = (typ == 0x03) ∧ (f.elided = false ∨ typ = 0x01) ∧ f.rsv1 = false ∧ f.rsv2 = 0 ∧
      f.len.toNat = f.payload.length ∧ (s.at_ f.time).tenantOf f.tenant = some i ∧ (s.at_ f.time).srcLost i f = false) :
    frameAnyGen s (sealed f) typ i := by
  obtain ⟨h1, h2, h3, h4, h5, h6, h7, h8, h9, h10, h11, h12⟩ := h
  exact ⟨h1, h2, h3, rfl, h4, h5, h6, h7, h8, h9, h10, h11, h12⟩

/-- Every check of `Instr.wf` refuses an ill-formed term: a payload past 4,096 bytes (R73), an object past its size
(R341), an instance past 11 (R345), a slack past 100, a slot, entry, rank or chain out of its range. -/
theorem test_ill_formed_refused :
    [(Instr.heartbeat (rx 0x20 0 (List.replicate 4097 0))).wf,
      (Instr.flashCopyLoaded { readOk := true, bytes := [], trailer := List.replicate 257 0, content := default }).wf,
      (Instr.primerComplete (.entry 65536)).wf, (Instr.primerComplete (.slot 16)).wf,
      (Instr.distributionAnswer 12 true).wf, (Instr.distributionTimeout 12).wf, (Instr.marginClassChange 0 101).wf,
      (Instr.handoverOfferRepeat 65536).wf, (Instr.skimAckSend 0 36).wf,
      (Instr.dustDrainComplete [(2 ^ 24, 0, 1)] []).wf, (Instr.dustDrainComplete [] [(0, 0, 4)]).wf] =
    List.replicate 11 false := by decide +kernel

/-- The same of the timers' table entries, of the reset's instance number and of the ring's chain. -/
theorem test_ill_formed_entries_refused :
    (Instr.suspicionDeadline Config.watchEntries).wf = false ∧ (Instr.confirmWaitExpiry Config.watchEntries).wf = false ∧
      (Instr.discWaitExpiry Config.watchEntries).wf = false ∧ (Instr.badgerRtoHelper Config.requestTable).wf = false ∧
      (Instr.mlResetRelease 0 true 12 false default).wf = false ∧ (Instr.renderRequest { slot := 16, first := 0 }).wf = false ∧
      (Instr.lathRingWalk { straps := List.replicate 13 0, rtt := 0, closed := true, cwUp := true, ccwUp := true }).wf =
        false := by decide +kernel

/-- The coefficients of the reference 8+2 sett, from the table under R109. -/
theorem test_reference_coefficients : coefTable 8 2 =
    [0x8E, 0xF4, 0x47, 0xA7, 0x7A, 0xBA, 0xAD, 0x9D, 0xF4, 0x8E, 0xA7, 0x47, 0xBA, 0x7A, 0x9D, 0xAD] := by
  decide +kernel

/-- The manual's vector under R109: with every data byte 0x01 both parity bytes are 0x6A. -/
theorem test_parity_of_ones : xorAll ((coefTable 8 2).take 8) = 0x6A ∧ xorAll ((coefTable 8 2).drop 8) = 0x6A := by
  decide +kernel

/-- The rotations of the manual's example: rotation 3 has P0 at rank 3 and D7 at rank 2, rotation 9 has P1 at rank 0. -/
theorem test_reference_rotations : roleOf 8 2 3 3 = .parity 0 ∧ roleOf 8 2 2 3 = .data 7 ∧ roleOf 8 2 0 9 = .parity 1 ∧
    rankAt 8 2 9 3 = 4 := by decide +kernel

/-- The manual's example of R119: the coefficients of rotation 0 for the panel of rank 4 (column D2) with D2 and D5 lost. -/
theorem test_reference_decoding : decodeCoefs 8 2 (cauchy 2) (fun _ => true) [2, 5] [] 2 =
    [(0, 0x0A), (1, 0x08), (3, 0xF5), (4, 0x69), (6, 0x5C), (7, 0x01), (8, 0x24), (9, 0x28)] := by decide +kernel

/-- CRC-32C of the nine digits, the check value published with the polynomial that R74 names. -/
theorem test_crc : crc32c [0x31, 0x32, 0x33, 0x34, 0x35, 0x36, 0x37, 0x38, 0x39] = 0xE3069283 := by decide +kernel

/-- FP32 under R131: 1 + 1 is 2, and 1 / 3 is 0x3EAA_AAAB, inexact (IEEE 754 by hand). -/
theorem test_fp32 : opAdd fp32 .rne false 0x3F800000 0x3F800000 = (0x40000000, 0) ∧
    opDiv fp32 .rne false 0x3F800000 0x40400000 = (0x3EAAAAAB, flagNX) := by decide +kernel

/-- A configuration image: GLOBAL, INSTANCE, an empty TENANT, PROGRAM with one program, KEYS. -/
def chipBytes : List Byte := leBytes 528
  0x1000000000000000000040400004000000000000000000000004000000000101000000000000000000000000000000000000000000000000000000000000000000000000000454e4f000080000040000000010000000000000000000100000001000000000000000000000000000000000000000000000000000000000000000000000000000000000000000000000000000000a80000000000010103334355540000000000000000000000000000000000000000000000c4000001480000000700000000000000a8000000a0000000060000000000000000000000a00000000300000000000000080000009800000002000000000000000800000090000000010000000000000000000000000000000000000000000000000000000000000000000000000000000000000000000000000000000000000210050101033346434d
/-- Its trailer: a P-384 key and a signature it verifies. -/
def chipTrailer : List Byte := leBytes 256
  0x5fb5d3939dd2c9b1b6c93d0b6f487016e061516fbc5676003c6b95d42fe8332053aacd09237c1d56b8027f76443a0c795fb5d3939dd2c9b1b6c93d0b6f487016e061516fbc5676003c6b95d42fe8332053aacd09237c1d56b8027f76443a0c79000000000000000000000000000000bc88fdfb13d49348c222186d8389c176ae7cb8b32737b8c8d39d15108fc24e6e86a909f3f0277b83b95cd98a2790091b5ba75128006d0636695e5b16e2a5eb6f5988936ce8f615162df4f7d5a8a1deaff68ee341f686ea302b29364abc5dffb80400000000000000000000000033474953
/-- A bundle: GLOBAL, INSTANCE, an empty TENANT, KEYS. -/
def bundleBytes : List Byte := leBytes 344
  0xc400000090000000070000000000000000000000900000000300000000000000080000008800000002000000000000000800000080000000010000000000000000000000000000000000000000000000000000000000000000000000000000000000000000000000000000000100000158040201033346434d
/-- Its trailer. -/
def bundleTrailer : List Byte := leBytes 256
  0x75c58417ff01fc9b3e3b7499e6381b05f49d5523b4e81ab11fe172186834e1569057e5d6164a7a06098eef8a9bf728d475c58417ff01fc9b3e3b7499e6381b05f49d5523b4e81ab11fe172186834e1569057e5d6164a7a06098eef8a9bf728d40000000000000000000000000000009efdefa3025053a5c693d29c0e3192812efcb437072080e900ae9ba5dd3e6a7a0bc0c9c5d0e95763ec981d1c9da6a4af28bf9e1e65b8027434ab681f5b9ba207c76fb07ce4a5b0f022d194453819c698ed0cd75b54adcb64b6cbf1d09ad7bf9b0400000000000000000000000033474953
/-- An instruction image: one program of one stream and one BODY word. -/
def imageBytes : List Byte := leBytes 168
  0x1000000000000000000040400004000000000000000000000004000000000101000000000000000000000000000000000000000000000000000000000000000000000003030454e4f000080000040000000010000000000000000000100000001000000000000000000000000000000000000000000000000000000000000000000000000000000000000000000000000000000a8000000000001010333435554
/-- Its trailer. -/
def imageTrailer : List Byte := leBytes 256
  0x421fa107e82836c1ad409f106fae392d83d4064ad87ec5392c50d7f97d559b4cb8b224e086413e7bee90ef12408259b0421fa107e82836c1ad409f106fae392d83d4064ad87ec5392c50d7f97d559b4cb8b224e086413e7bee90ef12408259b0000000000000000000000000000002257f4627d9b901e65fa1462a0292eac10d3f375fb597688f85b1b171c924e592940f519b8ac1a4330739ffbfff8759e3a5b969bd8915f61f8a1bdbaaaa99c53c1b05001ca3d37ee8bb848f8490e20da398c9fa6a1e7f6890e3173b1af03cdb40400000000000000000000000033474953
/-- The owner digest of that trailer's key. -/
def chipOwner : BitVec 384 := 0xbd6d38b0f8902a408f044a5207ec04a1e76d3a4a47fd7749e52f98e7d5ce8c7cf47aef9f316e850146451564fdf9e77
/-- The owner digest of that trailer's key. -/
def bundleOwner : BitVec 384 := 0xfde2738a22c6890b667c930eac16486d9765eb91ec29d658342eee1ae0ff17dd47f63919222d6d96d4e61a8c454f60b1
/-- The owner digest of that trailer's key. -/
def imageOwner : BitVec 384 := 0x64c87a80ab36a855d90fbfa9ad25278bf9108f250b6c6db675ccd5f597dcdde95d6800f3b6546b86fbf6db414e31281e

/-- R163: an operand field that names a descriptor at or beyond NDESC is refused with RESULT INSTR. -/
theorem test_descriptor_beyond_ndesc :
    imageBodyResult true (imageBytes.take 165 ++ [1] ++ imageBytes.drop 166) = 0x08 ∧
      imageBodyResult true imageBytes = 0x00 := by
  decide +kernel

/-- R166: a loop whose count was read from an operand stops the run where its index carries a destination past the window:
SETC C0 from the scalar page, LOOP, COPY of a constant to 0x400000 + 0x4000 × index in a window of 0x8000 bytes, END. -/
def loopProgram : Program :=
  { streams := [], drive := 0, accs := []
    descs := [{ addr := 0x407000, kind := 0, count := 1, stride := 4, lstep1 := 0, lvl1 := 0, lstep2 := 0, lvl2 := 0 },
      { addr := 0x400000, kind := 0, count := 1, stride := 4, lstep1 := 0x4000, lvl1 := 1, lstep2 := 0, lvl2 := 0 },
      { addr := 0, kind := 2, count := 1, stride := 0, lstep1 := 0, lvl1 := 0, lstep2 := 0, lvl2 := 0 }]
    consts := [0x3F800000], pro := [], red := [], mid := []
    body := [0x0000000000000842, 0x0000000000000940, 0x000002010000000C, 0x0000000000000141]
    wbase := 0x400000, wlen := 0x8000 }

/-- A run of that body with a loop count in the scalar page. -/
def loopRun (count : Nat) : Option (Nat × Nat) :=
  let c : RunCtx := { prog := loopProgram, pool := 0x7FE000, odd := false, grad := fun _ => 0, epoch := 1, acc := fun _ => 0, tenant := 1
                      tensor := 0, lpanel := 0, slots := fun _ => 1 }
  match runSection c loopProgram.body
      { work := Mem.writeN (2 ^ 23) (Mem.writeN (2 ^ 23) [] 0x7FE000 [0, 0, 0x80, 0x3F]) 0x407000 (leBytes 4 count), leaves := [], flags := 0 } with
  | .done t => some (leNat (Mem.readN (2 ^ 23) t.work 0x404000 4), t.issued)
  | .stopped _ => none

theorem test_loop_from_operand :
    loopRun 2 = some (0x3F800000, 2) ∧ loopRun 0 = some (0, 0) ∧ loopRun 3 = none ∧ loopRun 65536 = none := by
  decide +kernel

/-- The sections of those objects as the loader decodes them. -/
def demoContent : Content := { insts := [{ chip := 1, lanes := 1, spanBase := 1, spanLen := 1, dgBase := 0x100000 }] }

/-- The image as it is read from a flash copy. -/
def chipObject : ObjRead := { readOk := true, bytes := chipBytes, trailer := chipTrailer, content := demoContent }

/-- A chip manager right after the release of its reset. -/
def loading : State := { State.reset with power := { released := true, flash := true, owner := chipOwner } }

/-- A chip manager that is unconfigured, its loader in the given state. -/
def waiting (l : LoaderS) : State := { State.reset with power := { released := true, flash := true }, loader := l }

/-- System software's access. -/
def sys : Acc := { tag := 0, id := 1 }

/-- The demonstration with its tenant changed. -/
def withTenant (f : TenantS → TenantS) : State := { demo with tenants := State.reset.tenants.set 0 (f demoTenant) }

/-- The demonstration with its slot changed. -/
def withSlot (f : SlotS → SlotS) : State := { demo with slots := State.reset.slots.set 0 (f demoSlot) }

/-- The demonstration with its loader changed. -/
def withLoader (f : LoaderS → LoaderS) : State := { demo with loader := f demo.loader }

/-- The demonstration with its fault logic changed. -/
def withFlt (f : FaultS → FaultS) : State := { demo with flt := f demo.flt }

/-- An ACTIVE region of two panels at the start of the span. -/
def demoEntry : Entry :=
  { state := .active, cls := .direct, slot := 0, sparse := false, elide := false, staged := none, sealed := true, tenant := 7
    sorder := 0, sgrp := 0, stream := 0, basep := 0x40000, lenp := 2, spanel := 0, lfirst := 0, tensor := 1, epoch := 1
    droot := 0, gen := 1, swtag := 0 }

/-- A state with that region in the context table at 3, and the record of its first panel. -/
def withRegion (s : State) (e : Entry) : State :=
  { s.setDir 0x40000000 { ctx := 3, v := true, priv := false, c := false, n := false, d := false, att := 0 } with
    ctx := { s.ctx with table := [(3, e)] } }

/-- A host access to the span's first panel. -/
def hostReq (space : BitVec 2) (op : BitVec 3) (addr : BitVec 36) : NqReq :=
  { space := space, op := op, aop := 0, addr := addr, tag := 7, id := 1, be := ~~~0, data := 0 }

/-- A request on the memory side. -/
def mqReq (kind : MqKind) : MqReq :=
  { id := 0, nqId := 1, kind := kind, aop := 0, n := 0, line := 0x1000000, addr := 0x40000000, be := 1, data := 0, panel := some (3, 0) }

/-- A frame that waits on the CONTROL channel. -/
def ctrlFrame : OutFrame := { vc := .control, dst := .member 2, typ := 0x20, tenant := 7, gen := 1, epoch := 0, tr := 0, t := 0 }

/-- The group of the demonstration's peers. -/
def demoGroup (g : GroupSetup) : Group := { handle := 5, key := .peers 0, members := [2], setup := g }

/-- The demonstration with that group. -/
def withGroup (g : GroupSetup) : State := { demo with ep := { groups := [demoGroup g] } }

/-- A delta of the demonstration's region that is out, its acknowledgement owed by the peer. -/
def outRec : HawkRec :=
  { slot := 0, mark := false, panel := 0, blk := 0, whole := false, data := List.replicate 256 1, elided := false
    seq := some 0, st := .out, owed := [{ addr := 2, due := 0, tries := 14 }], ctx := 3, idx := 0 }

/-- The peer's source entry. -/
def demoSource : SrcEntry :=
  { rank := 1, addr := 2, epoch := 2, tr := 0, cum := 0, count := 0, closed := false, broken := false, applied := 0, ring := 0
    high := none, ackDue := false }

/-- The bundle as it is read from memory. -/
def bundleObject : ObjRead := { readOk := true, bytes := bundleBytes, trailer := bundleTrailer, content := demoContent }

/-- The demonstration with that bundle in memory at 0x1000, whose record is in force. -/
def staging : State :=
  { demo with
    power := { released := true, owner := bundleOwner }
    loader := { demo.loader with src := 0x1000, len := 344, active := recordOf bundleObject 0 }
    mem := Mem.writeN Config.stackBytes [] 0x1000 (bundleBytes ++ bundleTrailer) }

/-- A tree in which this instance is job manager (0), pod manager (4), or neither, with one child chip. -/
def demoTree (at_ : Option (Fin 8)) : Tree :=
  { cands := match at_ with | some j => (Vector.replicate 8 {}).set j { addr := 1, valid := true } | none => Vector.replicate 8 {}
    children := [{ idx := 0, job := false, addr := 2, expect := 1, group := 1 }] }

/-- The demonstration with that tree and its commit state changed. -/
def withTree (at_ : Option (Fin 8)) (f : CommitS → CommitS := id) : State :=
  withTenant fun t => { t with commit := f { t.commit with tree := demoTree at_ } }

/-- The demonstration at the end of its sweep: everything sent and every source closed. -/
def swept : State :=
  { withTenant (fun t => { t with sweep := { state := .done } }) with
    slots := State.reset.slots.set 0 { demoSlot with done := true, sources := [{ demoSource with closed := true }] } }

/-- A watch entry of a peer of slot 0 at rank 1. -/
def demoWatch (addr : Addr) (st : WStatus) (heard : Bool := true) (round : Option Round := none) : Watch :=
  { addr := addr, status := st, tidx := 0, slot := 0, cand := false, rank := 1, hseq := 0, time := 0, heard := heard
    round := round, made := 0 }

/-- The demonstration with that entry. -/
def watching (addr : Addr) (st : WStatus) (heard : Bool := true) (round : Option Round := none) : State :=
  { demo with watch := [demoWatch addr st heard round] }

/-- A membership update. -/
def demoUpdate (kind : BitVec 4) : Update :=
  { kind := kind, imask := 1, newGen := 1, prevGen := 0, subject := 3, target := 0 }

/-- The demonstration's leader, which issued an update at time 0. -/
def withIssuer : State :=
  withTenant fun t => { t with commit := { t.commit with tree := demoTree (some 0) }
                               fox := { t.fox with issuedAny := true, issuedAt := 0 } }

/-- One chunk of one slot and one line. -/
def demoMRec : MRec :=
  { chunk0 := 1, ns := 1, gfmt := 0, comp := false, nc := 1, stream := 0, tensor := 1, e0 := 0, ne := 16, nt := 16 }

/-- An intake with that chunk allocated. -/
def demoIntake : IntakeS :=
  { epoch := 2, manSt := .ok, recs := [demoMRec], low := 1, high := 1
    chunks := [{ no := 1, mrec := demoMRec, base := 0, size := 64, ls := 64, lines := [], bad := false }] }

/-- The demonstration with an intake. -/
def withIntake (x : IntakeS) : State := withTenant fun t => { t with intake := x }

/-- The program of the demonstration's image. -/
def demoProgram : Program := (imageOf imageBytes).progs.headD default

/-- A group's run of it. -/
def demoRun : GroupRun :=
  { grp := 1, prog := 0, scalarCtx := none, scalar := [], leaves := [], accs := [] }

/-- A region of group 1. -/
def sweptEntry : Entry := { demoEntry with sgrp := 1, sealed := false }

/-- The strip of its first panel. -/
def demoStrip : StripAt := { ctx := 3, ord := 0, n := 1024, le := 0, odd := false, tensor := 1 }

/-- A sweep over that region. -/
def sweeping (e : Entry) (st : SwState) (f : SweepS → SweepS) : State :=
  withRegion
    { withTenant (fun t => { t with sweep := f { t.sweep with state := st, groups := [demoRun] } }) with
      ib := { bank0 := { st := .valid, image := imageOf imageBytes } } } e

/-- A staged delta, or the epoch's mark. -/
def stagedRec (mark : Bool) : HawkRec := { outRec with mark := mark, seq := none, st := .staged, owed := [] }

/-- The demonstration with a staged record and a confirmed group. -/
def sendState (mark : Bool) (key : GroupKey) : State :=
  { demo with hawk := { recs := [stagedRec mark] }, ep := { groups := [{ demoGroup .confirmed with key := key }] } }

/-- A run of one panel in the slot, asked of the peer. -/
def demoBadgerRun (kind : RunKind) : Run :=
  { kind := kind, tidx := 0, slot := 0, first := 0, count := 1, lost := 0, copy := false, helpers := [(1, 2)], epoch := 1
    donly := false, panels := [{ i := 0, part := none, digs := [] }] }

/-- A run helped. -/
def demoHelp : HelpRun :=
  { render := false, tidx := 0, slot := 0, requester := 2, reqSlot := 0, first := 0, count := 1, lost := 0, epoch := 1, parent := 2
    parentSlot := 0, helpers := [], pos := 0, accs := List.replicate 96 { i := 0, bytes := [], cmask := 0, owes := [] } }

/-- The demonstration with its rebuild unit changed. -/
def withBadger (b : BadgerS) : State := { demo with badger := b }

/-- A tenant sealing its first epoch. -/
def sealing (b : BadgerS) : State :=
  { withTenant (fun t => { t with rs := { t.rs with state := .sealing, boundary := 1, first := true } }) with badger := b }

/-- A tenant that rebuilds. -/
def rebuilding (st : BgState) : State :=
  withTenant fun t => { t with bg := { t.bg with state := st, decided := true } }

/-- An own offer of the demonstration's region to the peer. -/
def demoOffer : Offer := { ctx := 3, own := true, tidx := 0, dst := 2, epoch := 1, t := 0, payload := [], sent := 63 }

/-- Whether a strip may go. -/
def isGo : Ready → Bool
  | .go => true
  | _ => false

/-- A strip that may go. -/
theorem isGo_go {r : Ready} (h : isGo r = true) : r = .go := by
  cases r with
  | go => rfl
  | wait s => cases h
  | drop => cases h

/-- A tenant that renders its parity, runs of one panel. -/
def rendering : State :=
  { sealing {} with loader := { demo.loader with active := { demoRecord with glob := { run := 1, capmask := 0x3FF } } } }

/-- A zero panel's digest is zero. -/
theorem pd_zeros (n : Nat) : pd (List.replicate n 0) = 0 := by
  have h : g64Mul ((0 : Word) ^^^ phi 0) kappa = 0 := by decide +kernel
  unfold pd
  induction n with
  | zero => rfl
  | succ n ih => rw [List.replicate_succ, List.foldl_cons, h]; exact ih

/-- Whether a panel is zero and so is its kept digest. -/
def zeroPanel (s : State) (a : Nat) : Bool := s.bytesAt a 4096 == List.replicate 4096 0 && s.kept a == 0

/-- Such a panel agrees with its digest. -/
theorem zero_digestOk {s : State} {a : Nat} (h : zeroPanel s a = true) : s.digestOk a = true := by
  rw [zeroPanel, Bool.and_eq_true, beq_iff_eq, beq_iff_eq] at h
  rw [State.digestOk, h.1, h.2, pd_zeros]
  rfl

/-- A helper that reads zero panels finds no fault. -/
theorem zero_helperRead {s : State} {i : Fin 64} {l : List (Nat × Bool)} (h : ∀ a ∈ l, zeroPanel s a.1 = true) :
    s.helperRead i .none l = (s, false) := by
  have e : (l.find? fun a => a.2 && !s.digestOk a.1) = none :=
    List.find?_eq_none.mpr fun a ha => by rw [zero_digestOk (h a ha), Bool.not_true, Bool.and_false]; exact Bool.false_ne_true
  show (match l.find? fun a => a.2 && !s.digestOk a.1 with
    | some a => (s.digestFail a.1, true)
    | none => (s, false)) = (s, false)
  rw [e]

/-- The demonstration's context window with the words of an entry in it, and a table. -/
def ctxState (table : NMap Entry) (e : Entry) : State :=
  { demo with ctx := { index := 3, arg := 2, table := table, data := Vector.ofFn fun w => BitVec.ofNat 64 (e.words.getD w.val 0) } }

/-- The demonstration with its tenant's reslice changed. -/
def withRs (f : RsTenS → RsTenS) : State := withTenant fun t => { t with rs := f t.rs }

/-- A tenant at its boundary, moving at epoch 1, with one destination and one source. -/
def moving (new_ : Bool) : State :=
  withRs fun r => { r with state := .moving, boundary := 1, new_ := new_, dests := [⟨2, 5, true, 0⟩], sources := [⟨2, 5, 4, 0, 4, 0⟩] }

/-- A source of the boundary. -/
def demoRsSource (resends : Nat) : RsSource := ⟨2, 5, 4, resends, 4, 0⟩

/-- A frame of the boundary at epoch 1. -/
def rsFrame (phase : BitVec 7) (n : BitVec 64) : Rx := { rx 0x60 n with epoch := 1, tr := phase }

/-- An export of the region's first panel. -/
def demoExport : Export := { tidx := 0, ctx := 3, first := 0, count := 1, dst := 0, epoch := 1 }

/-- The demonstration while it runs, its panels zero. -/
def exporting (m : NMap Byte) : State :=
  { demo with mem := m, ctx := { table := [(3, demoEntry)] }, rs := { running := some demoExport } }

/-- The demonstration with its audit changed. -/
def withAudit (a : AuditS) : State := { demo with audit := a }

/-- A run of one stripe at the auditor. -/
def demoAuRun : AuRun := { s0 := 0, count := 1, epoch := 1, stripes := [0], judged := [], parts := [], fixes := [] }

/-- A pending record. -/
def demoPending : PendingRec :=
  { epoch := 1, tr := 0, flags := 0, gen := 1, time := 0, prog := [], intake := [], fresh := false, leaves := [] }

/-- A lockstep pair with the peer. -/
def demoPair (role : LsRole) (due : Option Nat) : State :=
  withAudit { pairs := (Vector.replicate 15 {}).set 0 { partner := 2, role := role, sendDue := due } }

/-- No tenant and no region. -/
def bare (f : FaultS) : State := { demo with tenants := State.reset.tenants, flt := f }

/-- A read or write of the register window in lane 0. -/
def winReq (op : BitVec 3) (off : BitVec 36) : NqReq := { hostReq 1 op off with be := 0xFF }

/-- A transfer over the lath. -/
def demoXfer (crc1 crc2 : BitVec 32) : LathXfer :=
  { payload1 := List.replicate 64 0, crc1 := crc1, payload2 := List.replicate 64 0, crc2 := crc2, msg := .answer 1 true }

/-- The CRC of 64 zero bytes. -/
def zeroCrc : BitVec 32 := crc32c (List.replicate 64 0)

/-- The demonstration with the record of its first parity panel in memory. -/
def withParity (r : DirRec) : State := demo.setDir (demo.parityAddr demoSett 0 false) r

/-- A panel of zeros against a digest that is not zero. -/
theorem zero_digestBad {s : State} {a : Nat} (h : (s.bytesAt a 4096 == List.replicate 4096 0 && s.kept a != 0) = true) :
    s.digestOk a = false := by
  rw [Bool.and_eq_true, beq_iff_eq, bne_iff_ne] at h
  rw [State.digestOk, h.1, pd_zeros]
  exact beq_eq_false_iff_ne.mpr (Ne.symm h.2)

/-- The digest of the exported panel, changed. -/
def badDigest : NMap Byte := [((exporting []).dgAddr 0x40000000, 1)]

/-- What an export of one panel finds. -/
theorem exportBad_one {s : State} {x : Export} {e : Entry} {a : Nat}
    (h : ((List.range x.count).map fun j => e.panelAddr (x.first + j) (s.panelRec e (x.first + j)).c) = [a]) :
    s.exportBad x e = if s.digestOk a then none else some a := by
  rw [State.exportBad, h, List.find?_cons]
  cases s.digestOk a <;> rfl

theorem exporting_good : (exporting []).exportBad demoExport demoEntry = none :=
  (exportBad_one (a := 0x40000000) (by decide +kernel)).trans (if_pos (zero_digestOk (by decide +kernel)))

theorem exporting_bad : (exporting badDigest).exportBad demoExport demoEntry = some 0x40000000 :=
  (exportBad_one (a := 0x40000000) (by decide +kernel)).trans (if_neg (ne_true_of_eq_false (zero_digestBad (by decide +kernel))))

/-- A delta that waits on the SKIM channel, and a frame on the BADGER channel. -/
def skimFrame : OutFrame := { ctrlFrame with vc := .skim, typ := 0x01 }
def badgerFrame : OutFrame := { ctrlFrame with vc := .badger, typ := 0x40 }

/-- The copy in flash at the chip manager, at hand. -/
def inHand (l : LoaderS) : State := { loading with loader := { l with candidate := some chipObject } }

/-- The demonstration with its tree and its view of the members changed. -/
def withFox (at_ : Option (Fin 8)) (f : FoxS → FoxS) : State :=
  withTenant fun t => { t with commit := { t.commit with tree := demoTree at_ }, fox := f t.fox }

/-- The demonstration at a job manager whose child is the pod of the peer. -/
def withPod (f : CommitS → CommitS) : State :=
  withTenant fun t => { t with commit := f { t.commit with tree := { demoTree (some 0) with
    children := [{ idx := 0, job := true, addr := 2, expect := 1, group := 1 }] } } }

/-- No key is found where a search finds none. -/
theorem none_ne {o : Option Nat} (h : o.isNone = true) (k : Nat) : ¬ o = some k := by
  cases o with
  | none => exact nofun
  | some x => cases h

/-- Nothing sent yet comes later than a frame where no number is kept. -/
theorem not_later {o : Option Nat} {n : Nat} (h : o = none) : ¬ ∃ x : Nat, o = some x ∧ n < x := by
  rintro ⟨x, hx, -⟩
  rw [h] at hx
  cases hx

/-- A feed of `n` bytes past its room. -/
theorem long_feed {s : State} {n : Nat} (h : s.loader.feed = List.replicate n 0) (hn : 2 ^ 24 + 256 < n + 8) :
    2 ^ 24 + 256 < s.loader.feed.length + 8 := by
  rw [h, List.length_replicate]
  exact hn

/-- A register write that the state and the tag let through. -/
theorem takes_of {s : State} {a : Acc} {off : Nat} (h : s.portsUp = true ∧ s.windowOpen off = true ∧ fromSystem a = true) :
    windowTakes s a off := h

/-- What an option holds. -/
theorem some_getD {α : Type} {o : Option α} {d : α} (h : o.isSome = true) : o = some (o.getD d) := by
  cases o with
  | none => cases h
  | some x => rfl

/-- Whether a strip is dropped, and the state in which it waits. -/
def isDrop : Ready → Bool
  | .drop => true
  | _ => false
def isWait : Ready → Bool
  | .wait _ => true
  | _ => false
def waitOf : Ready → State
  | .wait s => s
  | _ => State.reset

theorem isDrop_drop {r : Ready} (h : isDrop r = true) : r = .drop := by
  cases r with
  | drop => rfl
  | go => cases h
  | wait s => cases h

theorem isWait_wait {r : Ready} (h : isWait r = true) : r = .wait (waitOf r) := by
  cases r with
  | wait s => rfl
  | go => cases h
  | drop => cases h

/-- A list that begins otherwise. -/
theorem no_head {α : Type} {l r : List α} {a : α} (h : l.isEmpty = true) : l ≠ a :: r := by
  rintro rfl
  cases h

/-- An entry that is not coded is the only one under its number. -/
theorem not_coded {s : State} {c : Nat} {e : Entry} (h : s.entry c = some e) (h' : e.coded = false) :
    ¬ ∃ x : Entry, s.entry c = some x ∧ x.coded = true := by
  rintro ⟨x, hx, hc⟩
  rw [h] at hx
  cases hx
  rw [h'] at hc
  cases hc

/-- A slot that no tenant has sends nothing. -/
theorem no_slots {s : State} (h : (List.finRange 16).all (fun k => (s.slotTenant k.val).isNone) = true) :
    ∀ (k : Fin 16) (j : Fin 64), s.slotTenant k.val = some j → s.sendFrom j k = (s, false) := by
  intro k j hj
  have := List.all_eq_true.mp h k (List.mem_finRange k)
  rw [hj] at this
  cases this

/-- The first of the panels, read against its digest. -/
theorem badPanel_one {s : State} {q : Nat × Nat} {e : Entry} {a : Nat} (h : s.entry q.1 = some e) (h1 : e.sealed = true)
    (h2 : e.panelAddr q.2 (s.panelRec e q.2).c = a) (h3 : s.digestOk a = false) : s.badPanel [q] = some a := by
  simp [State.badPanel, h, h1, h2, h3]

/-- A program whose RED reads the intake. -/
def redProgram : Program :=
  { demoProgram with red := [0xC], descs := [{ addr := 0, kind := kINTAKE, count := 1, stride := 0, lstep1 := 0, lvl1 := 0, lstep2 := 0, lvl2 := 0 }] }

/-- A sweep whose next strip's chunk is bad. -/
def badChunk (st : SwState) : State :=
  withRegion
    { withTenant (fun t => { t with
        sweep := { state := st, groups := [demoRun], recs := [demoMRec], prep := [.red 1 3 0], todo := [.strip 1 3 0 false] }
        intake := { demoIntake with chunks := demoIntake.chunks.map fun x => { x with bad := true } } }) with
      ib := { bank0 := { st := .valid, image := { imageOf imageBytes with progs := [redProgram] } } } } sweptEntry

/-- That sweep at a panel in repair. -/
def inRepair (st : SwState) : State :=
  { sweeping sweptEntry st (fun w => { w with prep := [.red 1 3 0], todo := [.strip 1 3 0 false] }) with
    badger := { repairs := [.data 3 0] } }

/-- A sweep over a sealed coded panel whose kept digest is wrong. -/
def badZero : State :=
  let s := sweeping { sweptEntry with cls := .skim, sealed := true } .body (fun w => { w with todo := [.zero 3 0] })
  { s with mem := Mem.write s.mem (s.dgAddr 0x40000000) 1 }

/-- A helper whose panels are zero reads them without a fault. -/
theorem zero_read {s : State} {i : Fin 64} {l : List (Nat × Bool)} (h : (l.all fun a => zeroPanel s a.1) = true) :
    (s.helperRead i .none l).2 = false := by
  rw [zero_helperRead fun a ha => List.all_eq_true.mp h a ha]

/-- Nothing of an empty list. -/
theorem none_in {α : Type} {l : List α} {p : α → Prop} (h : l.isEmpty = true) : ¬ ∃ x ∈ l, p x := by
  rintro ⟨x, hx, -⟩
  cases l with
  | nil => cases hx
  | cons a t => cases h

/-- No move of an empty list is looked at. -/
theorem no_moves {s : State} {p : Move → Prop} (h : (s.rs.moves.toList.all fun m => !m.valid) = true) :
    ∀ m ∈ s.rs.moves.toList, m.valid = true → p m := by
  intro m hm hv
  have := List.all_eq_true.mp h m hm
  rw [hv] at this
  cases this

/-- Of no entry anything holds. -/
theorem no_entry {s : State} {c : Nat} {p : Entry → Prop} (h : s.entry c = none) : ∀ e : Entry, s.entry c = some e → p e := by
  intro e he
  rw [h] at he
  cases he

/-- One run of one accumulator waits for nothing else. -/
theorem only_one {l : List AuHelp} {h : AuHelp} {a : AuAcc} {w : AuHelp → AuAcc → Nat → Prop} (h1 : l = [h])
    (h2 : h.accs = [a]) : ∀ h' ∈ l, ∀ a' ∈ h'.accs, ∀ p : Nat, w h' a' p → h' = h ∧ a' = a := by
  intro h' hm a' ha _ _
  rw [h1] at hm
  cases List.mem_singleton.mp hm
  rw [h2] at ha
  exact ⟨rfl, List.mem_singleton.mp ha⟩

/-- An accumulator of an audit that is owed both positions, and the run that holds it. -/
def demoAcc : AuAcc := { stripe := 0, row := 0, bytes := [], cmask := 0, owes := [0, 1], parent := 2, parentSlot := 0 }
def demoAuHelp : AuHelp :=
  { tidx := 0, slot := 0, auditor := 2, s0 := 0, count := 1, epoch := 1, accs := [demoAcc], release := none, fixed := 0 }

/-- The demonstration with its slot, while a reslice of its tenant moves. -/
def movingSlot (x : SlotS) : State := { moving false with slots := State.reset.slots.set 0 x }

/-- The chip's content with another instance as the manager. -/
def otherObject : ObjRead := { chipObject with content := { insts := demoContent.insts.map fun x => { x with manager := 1 } } }

/-- States that meet the hypotheses of `StepRunsFrontCommand`, a clause at a time. -/
theorem witness_StepRunsFrontCommand :
    ∃ (s : State) (c : Instr) (rest : List Instr), s.pending = c :: rest :=
  ⟨{ demo with pending := [.lathConfigTimeout, .switchWaitExpiry] }, .lathConfigTimeout, [.switchWaitExpiry],
    by decide +kernel⟩

/-- States that meet the hypotheses of `EmptyQueueSettles`, a clause at a time. -/
theorem witness_EmptyQueueSettles :
    ∃ (s : State), s.pending = [] :=
  ⟨demo, by decide +kernel⟩

/-- States that meet the hypotheses of `MemoryAndLinksResetKeepsHistory`, a clause at a time. -/
theorem witness_MemoryAndLinksResetKeepsHistory :
    (∃ (s : State), s.power.released = false) ∧
    (∃ (s : State), s.power.released = true ∧ s.memWf = true) :=
  ⟨⟨State.reset, by decide +kernel⟩,
   ⟨demo, by decide +kernel⟩⟩

/-- States that meet the hypotheses of `RailAndTestRowsComplete`, a clause at a time. -/
theorem witness_RailAndTestRowsComplete :
    (∃ (s : State), s.power.released = true) ∧
    (∃ (s : State), s.power.released = false ∧ s.memWf = true) ∧
    (∃ (s : State), s.power.ramp = false) ∧
    (∃ (s : State), s.power.ramp = true) :=
  ⟨⟨demo, by decide +kernel⟩,
   ⟨State.reset, by decide +kernel⟩,
   ⟨demo, by decide +kernel⟩,
   ⟨{ demo with power := { released := true, ramp := true, rampGroups := 3 } }, by decide +kernel⟩⟩

/-- States that meet the hypotheses of `ResetReleaseSamplesStraps`, a clause at a time. -/
theorem witness_ResetReleaseSamplesStraps :
    (∃ (s : State), (s.power.released = true ∨ s.power.rails = false)) ∧
    (∃ (s : State) (testEn : Bool), s.power.released = false ∧ s.power.rails = true ∧ s.power.testOpen = true ∧ testEn
      = true) ∧
    (∃ (s : State) (flash : Bool) (testEn : Bool), s.power.released = false ∧ s.power.rails = true ∧ (s.power.testOpen
      = false ∨ testEn = false) ∧ flash = false) ∧
    (∃ (s : State) (flash : Bool) (testEn : Bool) (sfdp : Sfdp),
      let found : Prop := (sfdp.signature = true ∧ sfdp.basicTable = true ∧ sfdp.xspiTable = true); s.power.released =
      false ∧ s.power.rails = true ∧ (s.power.testOpen = false ∨ testEn = false) ∧ flash = true ∧ found) ∧
    (∃ (s : State) (flash : Bool) (testEn : Bool) (sfdp : Sfdp),
      let found : Prop := (sfdp.signature = true ∧ sfdp.basicTable = true ∧ sfdp.xspiTable = true); s.power.released =
      false ∧ s.power.rails = true ∧ (s.power.testOpen = false ∨ testEn = false) ∧ flash = true ∧ (¬ found)) :=
  ⟨⟨demo, by decide +kernel⟩,
   ⟨{ State.reset with power := { State.reset.power with testOpen := true } }, true, by decide +kernel⟩,
   ⟨State.reset, false, false, by decide +kernel⟩,
   ⟨State.reset, true, false,
     { signature := true, basicTable := true, xspiTable := true, density := 65536, maxMHz := 200 }, by decide +kernel⟩,
   ⟨State.reset, true, false, default, by decide +kernel⟩⟩

/-- States that meet the hypotheses of `TimeAndMonitorRowsComplete`, a clause at a time. -/
theorem witness_TimeAndMonitorRowsComplete :
    (∃ (s : State), s.power.released = false) ∧
    (∃ (s : State) (x : BitVec 64),
      let bad : Prop := (s.time.sampled = true ∧ (x < s.time.now ∨ 1000000 < x.toNat - s.time.now.toNat));
      s.power.released = true ∧ bad) ∧
    (∃ (s : State) (x : BitVec 64), let since := (if s.time.sampled then s.time.since else x);
      let bad : Prop := (s.time.sampled = true ∧ (x < s.time.now ∨ 1000000 < x.toNat - s.time.now.toNat));
      s.power.released = true ∧ (¬ bad) ∧ (x - since).toNat < 1000000) ∧
    (∃ (s : State) (x : BitVec 64), let since := (if s.time.sampled then s.time.since else x);
      let bad : Prop := (s.time.sampled = true ∧ (x < s.time.now ∨ 1000000 < x.toNat - s.time.now.toNat));
      s.power.released = true ∧ (¬ bad) ∧ 1000000 ≤ (x - since).toNat) ∧
    (∃ (s : State) (m : Fin 15), (s.monitors.get m).cls = .normal) ∧
    (∃ (s : State) (m : Fin 15), (s.monitors.get m).cls ≠ .normal) :=
  ⟨⟨State.reset, by decide +kernel⟩,
   ⟨{ demo with time := { now := 5, sampled := true } }, 4, by decide +kernel⟩,
   ⟨demo, 0, by decide +kernel⟩,
   ⟨{ demo with time := { sampled := true } }, 1000000, by decide +kernel⟩,
   ⟨demo, 14, by decide +kernel⟩,
   ⟨{ demo with monitors := Vector.replicate 15 { cls := .alarm } }, 0, by decide +kernel⟩⟩

/-- States that meet the hypotheses of `ImageRowsComplete`, a clause at a time. -/
theorem witness_ImageRowsComplete :
    (∃ (s : State) (o : ObjRead),
      let r := (s.objectResult o 1 (min (2 ^ 24) (if s.loader.density = 0 then 2 ^ 24 else s.loader.density.toNat * 32768)));
      s.power.released = true ∧ s.power.flash = true ∧ s.loader.state = .loading ∧ s.loader.candidate = none ∧
      s.loader.applied = false ∧ r ≠ 0) ∧
    (∃ (s : State) (o : ObjRead) (code detail : Nat),
      let r := (s.objectResult o 1 (min (2 ^ 24) (if s.loader.density = 0 then 2 ^ 24 else s.loader.density.toNat * 32768)));
      s.power.released = true ∧ s.power.flash = true ∧ s.loader.state = .loading ∧ s.loader.candidate = none ∧
      s.loader.applied = false ∧ r = 0 ∧ s.contentFault o true = some (code, detail)) ∧
    (∃ (s : State) (o : ObjRead),
      let r := (s.objectResult o 1 (min (2 ^ 24) (if s.loader.density = 0 then 2 ^ 24 else s.loader.density.toNat * 32768)));
      s.power.released = true ∧ s.power.flash = true ∧ s.loader.state = .loading ∧ s.loader.candidate = none ∧
      s.loader.applied = false ∧ r = 0 ∧ s.contentFault o true = none) ∧
    (∃ (s : State), (s.power.released = false ∨ s.power.flash = false ∨ s.loader.state ≠ .loading ∨ s.loader.candidate
      ≠ none ∨ s.loader.applied = true)) ∧
    (∃ (s : State), s.loader.fed = false ∧ s.loader.reading = false) ∧
    (∃ (s : State) (k : BitVec 4), s.loader.candidate ≠ none ∧ s.loader.applied = false ∧ s.power.flash = true ∧ (∀ p ∈
      s.loader.answers, p.1 ≠ k)) ∧
    (∃ (s : State) (k : BitVec 4), s.loader.candidate ≠ none ∧ s.loader.applied = false ∧ s.power.flash = true ∧ (∃ p ∈
      s.loader.answers, p.1 = k)) ∧
    (∃ (s : State), (s.loader.candidate = none ∨ s.loader.applied = true ∨ s.power.flash = false)) ∧
    (∃ (s : State), s.power.released = true ∧ s.power.flash = false ∧ s.loader.state = .loading ∧ s.loader.candidate =
      none) ∧
    (∃ (s : State), (s.power.released = false ∨ s.power.flash = true ∨ s.loader.state ≠ .loading ∨ s.loader.candidate ≠
      none)) :=
  ⟨⟨loading, { chipObject with trailer := [] }, by decide +kernel⟩,
   ⟨loading, { chipObject with content := {} }, ((loading.contentFault { chipObject with content := {} } true).getD (0,
     0)).1, ((loading.contentFault { chipObject with content := {} } true).getD (0, 0)).2, by decide +kernel⟩,
   ⟨loading, chipObject, by decide +kernel⟩,
   ⟨demo, by decide +kernel⟩,
   ⟨demo, by decide +kernel⟩,
   ⟨inHand {}, 11, by decide +kernel⟩,
   ⟨inHand { answers := [(11, true)] }, 11, by decide +kernel⟩,
   ⟨demo, by decide +kernel⟩,
   ⟨{ State.reset with power := { released := true } }, by decide +kernel⟩,
   ⟨demo, by decide +kernel⟩⟩

/-- States that meet the hypotheses of `FeedAndBundleRowsComplete`, a clause at a time. -/
theorem witness_FeedAndBundleRowsComplete :
    (∃ (s : State) (a : Acc),
      let open_ : Prop := (fromSystem a = true ∧ s.configured = false ∧ s.flt.mode ≠ .resetting ∧ s.power.flash = true);
      s.portsUp = true ∧ (¬ open_)) ∧
    (∃ (s : State) (a : Acc),
      let open_ : Prop := (fromSystem a = true ∧ s.configured = false ∧ s.flt.mode ≠ .resetting ∧ s.power.flash = true);
      s.portsUp = true ∧ open_ ∧ s.loader.state = .loading) ∧
    (∃ (s : State) (a : Acc),
      let open_ : Prop := (fromSystem a = true ∧ s.configured = false ∧ s.flt.mode ≠ .resetting ∧ s.power.flash = true);
      s.portsUp = true ∧ open_ ∧ s.loader.state ≠ .loading) ∧
    (∃ (s : State) (a : Acc),
      let open_ : Prop := (fromSystem a = true ∧ s.configured = false ∧ s.flt.mode ≠ .resetting ∧ s.power.flash = true);
      s.portsUp = true ∧ open_ ∧ s.loader.state ≠ .feeding) ∧
    (∃ (s : State) (a : Acc),
      let open_ : Prop := (fromSystem a = true ∧ s.configured = false ∧ s.flt.mode ≠ .resetting ∧ s.power.flash = true);
      s.portsUp = true ∧ open_ ∧ s.loader.state = .feeding ∧ s.loader.feed.length + 8 ≤ 2 ^ 24 + 256) ∧
    (∃ (s : State) (a : Acc),
      let open_ : Prop := (fromSystem a = true ∧ s.configured = false ∧ s.flt.mode ≠ .resetting ∧ s.power.flash = true);
      2 ^ 24 + 256 < s.loader.feed.length + 8 ∧ s.portsUp = true ∧ open_ ∧ s.loader.state = .feeding) ∧
    (∃ (s : State) (a : Acc), s.portsUp = true ∧ (s.windowOpen 0x7008 = false ∨ fromSystem a = false)) ∧
    (∃ (s : State) (a : Acc), let src := (s.loader.src.toNat); let len := (s.loader.len.toNat); windowTakes s a 0x7008
      ∧ s.rangeOk 6 src (len + 256) = false) ∧
    (∃ (s : State) (a : Acc), let src := (s.loader.src.toNat); let len := (s.loader.len.toNat); windowTakes s a 0x7008
      ∧ s.rangeOk 6 src (len + 256) = true ∧ (s.loader.shadowState = .armed ∨ s.loader.takenBy ≠ none)) ∧
    (∃ (s : State) (a : Acc) (readOk : Bool) (x : Content), let src := (s.loader.src.toNat);
      let len := (s.loader.len.toNat);
      let o : ObjRead := ({ readOk := readOk, bytes := s.bytesAt src len, trailer := s.bytesAt (src + len) 256, content := x });
      let r := (s.stageResult o); windowTakes s a 0x7008 ∧ s.rangeOk 6 src (len + 256) = true ∧ s.loader.shadowState ≠
      .armed ∧ s.loader.takenBy = none ∧ r.1 ≠ 0) ∧
    (∃ (s : State) (a : Acc) (readOk : Bool) (x : Content), let src := (s.loader.src.toNat);
      let len := (s.loader.len.toNat);
      let o : ObjRead := ({ readOk := readOk, bytes := s.bytesAt src len, trailer := s.bytesAt (src + len) 256, content := x });
      let r := (s.stageResult o); windowTakes s a 0x7008 ∧ s.rangeOk 6 src (len + 256) = true ∧ s.loader.shadowState ≠
      .armed ∧ s.loader.takenBy = none ∧ r.1 = 0) ∧
    (∃ (s : State) (a : Acc) (rec_ : Record),
      let boundary : Prop := (∃ i : Fin 64, (s.ten i).rs.state = .armed ∨ (s.ten i).rs.state = .moving ∨ (s.ten i).rs.state = .sealing);
      windowTakes s a 0x7008 ∧ s.loader.shadow = some rec_ ∧ s.loader.shadowState = .staged ∧ (¬ boundary)) ∧
    (∃ (s : State) (a : Acc) (rec_ : Record),
      let boundary : Prop := (∃ i : Fin 64, (s.ten i).rs.state = .armed ∨ (s.ten i).rs.state = .moving ∨ (s.ten i).rs.state = .sealing);
      windowTakes s a 0x7008 ∧ s.loader.shadow = some rec_ ∧ s.loader.shadowState = .staged ∧ boundary) ∧
    (∃ (s : State) (a : Acc), windowTakes s a 0x7008 ∧ s.loader.shadowState ≠ .staged) ∧
    (∃ (s : State) (a : Acc), windowTakes s a 0x7008 ∧ s.loader.shadowState = .armed) ∧
    (∃ (s : State) (a : Acc), windowTakes s a 0x7008 ∧ s.loader.shadowState = .staged ∧ s.loader.takenBy = none) :=
  ⟨⟨demo, sys, by decide +kernel⟩,
   ⟨waiting { state := .loading }, sys, by decide +kernel⟩,
   ⟨waiting { state := .unconfigured }, sys, by decide +kernel⟩,
   ⟨waiting { state := .unconfigured }, sys, by decide +kernel⟩,
   ⟨waiting { state := .feeding }, sys, by decide +kernel⟩,
   ⟨waiting { state := .feeding, feed := List.replicate (2 ^ 24 + 249) 0 }, sys, (long_feed rfl (by decide)),
     by decide +kernel⟩,
   ⟨demo, { tag := 7, id := 1 }, by decide +kernel⟩,
   ⟨withLoader (fun l => { l with src := 0xFFFFFFFC0, len := 64 }), sys, takes_of (by decide +kernel),
     by decide +kernel⟩,
   ⟨withLoader (fun l => { l with shadowState := .armed }), sys, takes_of (by decide +kernel), by decide +kernel⟩,
   ⟨staging, sys, false, demoContent, takes_of (by decide +kernel), by decide +kernel⟩,
   ⟨staging, sys, true, demoContent, takes_of (by decide +kernel), by decide +kernel⟩,
   ⟨withLoader (fun l => { l with shadow := some demoRecord, shadowState := .staged }), sys, demoRecord, takes_of
     (by decide +kernel), by decide +kernel⟩,
   ⟨{ withRs (fun r => { r with state := .armed }) with loader := { demo.loader with shadow := some demoRecord, shadowState := .staged } },
     sys, demoRecord, takes_of (by decide +kernel), by decide +kernel⟩,
   ⟨demo, sys, takes_of (by decide +kernel), by decide +kernel⟩,
   ⟨withLoader (fun l => { l with shadowState := .armed }), sys, takes_of (by decide +kernel), by decide +kernel⟩,
   ⟨withLoader (fun l => { l with shadowState := .staged }), sys, takes_of (by decide +kernel), by decide +kernel⟩⟩

/-- States that meet the hypotheses of `SwitchRowsComplete`, a clause at a time. -/
theorem witness_SwitchRowsComplete :
    (∃ (s : State) (r : Record),
      let parked : Prop := (∀ i ∈ s.loader.affected, (s.ten i).sealed = false ∨ (s.ten i).commit.parked = true);
      s.loader.shadow = some r ∧ s.loader.shadowState = .armed ∧ (¬ parked)) ∧
    (∃ (s : State) (r : Record),
      let parked : Prop := (∀ i ∈ s.loader.affected, (s.ten i).sealed = false ∨ (s.ten i).commit.parked = true);
      s.loader.shadow = some r ∧ s.loader.shadowState = .armed ∧ parked ∧ s.switchResult r = 0) ∧
    (∃ (s : State) (r : Record),
      let parked : Prop := (∀ i ∈ s.loader.affected, (s.ten i).sealed = false ∨ (s.ten i).commit.parked = true);
      s.loader.shadow = some r ∧ s.loader.shadowState = .armed ∧ parked ∧ s.switchResult r ≠ 0) ∧
    (∃ (s : State), s.loader.shadowState ≠ .armed) :=
  ⟨⟨withLoader (fun l => { l with shadow := some demoRecord, shadowState := .armed, affected := [0] }), demoRecord,
      by decide +kernel⟩,
   ⟨withLoader (fun l => { l with shadow := some demoRecord, shadowState := .armed }), demoRecord, by decide +kernel⟩,
   ⟨withLoader (fun l =>
     { l with shadow := some { demoRecord with inst := { demoRecord.inst with spanLen := 2 } }, shadowState := .armed }),
     { demoRecord with inst := { demoRecord.inst with spanLen := 2 } }, by decide +kernel⟩,
   ⟨demo, by decide +kernel⟩⟩

/-- States that meet the hypotheses of `HostAccessRowsComplete`, a clause at a time. -/
theorem witness_HostAccessRowsComplete :
    (∃ (s : State) (q : NqReq) (id : BitVec 12), let a := (q.addr.toNat);
      let freeRd : Prop := (s.lineBusy (lineNo q.addr) true = false); s.portsUp = true ∧ q.space = 0 ∧ s.gate.ready =
      true ∧ s.freeMqId = some id ∧ (∀ y ∈ s.gate.park, lineNo y.q.addr ≠ lineNo q.addr) ∧ s.inSpan a = false ∧ s.inDir
      a = false ∧ q.op = 0 ∧ freeRd) ∧
    (∃ (s : State) (q : NqReq) (id : BitVec 12), let a := (q.addr.toNat);
      let freeWr : Prop := (s.lineBusy (lineNo q.addr) false = false); s.portsUp = true ∧ q.space = 0 ∧ s.gate.ready =
      true ∧ s.freeMqId = some id ∧ (∀ y ∈ s.gate.park, lineNo y.q.addr ≠ lineNo q.addr) ∧ s.inSpan a = false ∧ s.inDir
      a = false ∧ q.op = 1 ∧ freeWr) ∧
    (∃ (s : State) (q : NqReq) (id : BitVec 12), let a := (q.addr.toNat);
      let freeWr : Prop := (s.lineBusy (lineNo q.addr) false = false); s.portsUp = true ∧ q.space = 0 ∧ s.gate.ready =
      true ∧ s.freeMqId = some id ∧ (∀ y ∈ s.gate.park, lineNo y.q.addr ≠ lineNo q.addr) ∧ s.inSpan a = false ∧ s.inDir
      a = false ∧ q.op = 2 ∧ freeWr) ∧
    (∃ (s : State) (q : NqReq) (id : BitVec 12) (c : Nat) (e : Entry) (i : Fin 64), let a := (q.addr.toNat);
      let freeRd : Prop := (s.lineBusy (lineNo q.addr) true = false); s.portsUp = true ∧ q.space = 0 ∧ s.gate.ready =
      true ∧ s.freeMqId = some id ∧ (∀ y ∈ s.gate.park, lineNo y.q.addr ≠ lineNo q.addr) ∧ s.flt.mode = .normal ∧
      s.inSpan a = true ∧ s.inDir a = false ∧ s.hostView a = some (c, e) ∧ q.tag = e.tenant ∧ s.tenantOf e.tenant =
      some i ∧ q.op = 0 ∧ e.state = .loading ∧ freeRd) ∧
    (∃ (s : State) (q : NqReq) (id : BitVec 12) (c : Nat) (e : Entry) (i : Fin 64), let a := (q.addr.toNat);
      let p := (a / 4096 - e.basep); s.portsUp = true ∧ q.space = 0 ∧ s.gate.ready = true ∧ s.freeMqId = some id ∧ (∀ y
      ∈ s.gate.park, lineNo y.q.addr ≠ lineNo q.addr) ∧ s.flt.mode = .normal ∧ s.inSpan a = true ∧ s.inDir a = false ∧
      s.hostView a = some (c, e) ∧ q.tag = e.tenant ∧ s.tenantOf e.tenant = some i ∧ q.op = 0 ∧ e.state = .active ∧
      RepairItem.data c p ∈ s.badger.repairs ∧ s.lineOut (lineNo q.addr) = false) ∧
    (∃ (s : State) (q : NqReq) (id : BitVec 12) (c : Nat) (e : Entry) (i : Fin 64), let a := (q.addr.toNat);
      let freeRd : Prop := (s.lineBusy (lineNo q.addr) true = false); let p := (a / 4096 - e.basep); s.portsUp = true ∧
      q.space = 0 ∧ s.gate.ready = true ∧ s.freeMqId = some id ∧ (∀ y ∈ s.gate.park, lineNo y.q.addr ≠ lineNo q.addr) ∧
      s.flt.mode = .normal ∧ s.inSpan a = true ∧ s.inDir a = false ∧ s.hostView a = some (c, e) ∧ q.tag = e.tenant ∧
      s.tenantOf e.tenant = some i ∧ q.op = 0 ∧ e.state = .active ∧ RepairItem.data c p ∉ s.badger.repairs ∧
      s.holdsRead i e p = false ∧ freeRd) ∧
    (∃ (s : State) (q : NqReq) (id : BitVec 12) (c : Nat) (e : Entry) (i : Fin 64), let a := (q.addr.toNat);
      let p := (a / 4096 - e.basep); s.portsUp = true ∧ q.space = 0 ∧ s.gate.ready = true ∧ s.freeMqId = some id ∧ (∀ y
      ∈ s.gate.park, lineNo y.q.addr ≠ lineNo q.addr) ∧ s.flt.mode = .normal ∧ s.inSpan a = true ∧ s.inDir a = false ∧
      s.hostView a = some (c, e) ∧ q.tag = e.tenant ∧ s.tenantOf e.tenant = some i ∧ q.op = 0 ∧ e.state = .active ∧
      RepairItem.data c p ∉ s.badger.repairs ∧ s.holdsRead i e p = true ∧ s.gate.park.length < 256) ∧
    (∃ (s : State) (q : NqReq) (id : BitVec 12) (c : Nat) (e : Entry) (i : Fin 64), let a := (q.addr.toNat);
      let freeWr : Prop := (s.lineBusy (lineNo q.addr) false = false); s.portsUp = true ∧ q.space = 0 ∧ s.gate.ready =
      true ∧ s.freeMqId = some id ∧ (∀ y ∈ s.gate.park, lineNo y.q.addr ≠ lineNo q.addr) ∧ s.flt.mode = .normal ∧
      s.inSpan a = true ∧ s.inDir a = false ∧ s.hostView a = some (c, e) ∧ q.tag = e.tenant ∧ s.tenantOf e.tenant =
      some i ∧ q.op = 1 ∧ e.state = .loading ∧ freeWr) ∧
    (∃ (s : State) (q : NqReq) (id : BitVec 12) (c : Nat) (e : Entry) (i : Fin 64), let a := (q.addr.toNat);
      let freeWr : Prop := (s.lineBusy (lineNo q.addr) false = false);
      let open_ : Prop := ((s.ten i).commit.isOpen = true ∧ (s.ten i).commit.window = false); s.portsUp = true ∧
      q.space = 0 ∧ s.gate.ready = true ∧ s.freeMqId = some id ∧ (∀ y ∈ s.gate.park, lineNo y.q.addr ≠ lineNo q.addr) ∧
      s.flt.mode = .normal ∧ s.inSpan a = true ∧ s.inDir a = false ∧ s.hostView a = some (c, e) ∧ q.tag = e.tenant ∧
      s.tenantOf e.tenant = some i ∧ q.op = 1 ∧ e.state = .active ∧ open_ ∧ e.cls = .direct ∧ s.hawkRoom e.slot.val 1 1
      = true ∧ freeWr) ∧
    (∃ (s : State) (q : NqReq) (id : BitVec 12) (c : Nat) (e : Entry) (i : Fin 64), let a := (q.addr.toNat);
      let freeWr : Prop := (s.lineBusy (lineNo q.addr) false = false);
      let open_ : Prop := ((s.ten i).commit.isOpen = true ∧ (s.ten i).commit.window = false); s.portsUp = true ∧
      q.space = 0 ∧ s.gate.ready = true ∧ s.freeMqId = some id ∧ (∀ y ∈ s.gate.park, lineNo y.q.addr ≠ lineNo q.addr) ∧
      s.flt.mode = .normal ∧ s.inSpan a = true ∧ s.inDir a = false ∧ s.hostView a = some (c, e) ∧ q.tag = e.tenant ∧
      s.tenantOf e.tenant = some i ∧ q.op = 1 ∧ e.state = .active ∧ open_ ∧ e.cls = .replica ∧ (e.sgrp = 0 ∨ (s.ten
      i).sweep.state = .idle ∨ (s.ten i).sweep.state = .held) ∧ freeWr) ∧
    (∃ (s : State) (q : NqReq) (id : BitVec 12) (c : Nat) (e : Entry) (i : Fin 64), let a := (q.addr.toNat); s.portsUp
      = true ∧ q.space = 0 ∧ s.gate.ready = true ∧ s.freeMqId = some id ∧ (∀ y ∈ s.gate.park, lineNo y.q.addr ≠ lineNo
      q.addr) ∧ s.flt.mode = .normal ∧ s.inSpan a = true ∧ s.inDir a = false ∧ s.hostView a = some (c, e) ∧ q.tag =
      e.tenant ∧ s.tenantOf e.tenant = some i ∧ q.op = 1 ∧ e.state = .active ∧ e.cls = .skim ∧ s.lineOut (lineNo
      q.addr) = false) ∧
    (∃ (s : State) (q : NqReq) (id : BitVec 12) (c : Nat) (e : Entry) (i : Fin 64), let a := (q.addr.toNat); s.portsUp
      = true ∧ q.space = 0 ∧ s.gate.ready = true ∧ s.freeMqId = some id ∧ (∀ y ∈ s.gate.park, lineNo y.q.addr ≠ lineNo
      q.addr) ∧ s.flt.mode = .normal ∧ s.inSpan a = true ∧ s.inDir a = false ∧ s.hostView a = some (c, e) ∧ q.tag =
      e.tenant ∧ s.tenantOf e.tenant = some i ∧ q.op = 2 ∧ (e.state = .active ∨ e.state = .loading) ∧ s.lineOut (lineNo
      q.addr) = false) :=
  ⟨⟨demo, hostReq 0 0 0x3FFFFFC0, 0, by decide +kernel⟩,
   ⟨demo, hostReq 0 1 0x3FFFFFC0, 0, by decide +kernel⟩,
   ⟨demo, hostReq 0 2 0x3FFFFFC0, 0, by decide +kernel⟩,
   ⟨withRegion demo { demoEntry with state := .loading }, hostReq 0 0 0x40000FC0, 0, 3,
     { demoEntry with state := .loading }, 0, by decide +kernel⟩,
   ⟨{ withRegion demo demoEntry with badger := { repairs := [.data 3 0] } }, hostReq 0 0 0x40000FC0, 0, 3, demoEntry,
     0, by decide +kernel⟩,
   ⟨withRegion demo demoEntry, hostReq 0 0 0x40000FC0, 0, 3, demoEntry, 0, by decide +kernel⟩,
   ⟨sweeping { sweptEntry with cls := .skim } .body id, hostReq 0 0 0x40000FC0, 0, 3, { sweptEntry with cls := .skim },
     0, by decide +kernel⟩,
   ⟨withRegion demo { demoEntry with state := .loading }, hostReq 0 1 0x40000000, 0, 3,
     { demoEntry with state := .loading }, 0, by decide +kernel⟩,
   ⟨withRegion demo demoEntry, hostReq 0 1 0x40000000, 0, 3, demoEntry, 0, by decide +kernel⟩,
   ⟨withRegion demo { demoEntry with cls := .replica }, hostReq 0 1 0x40000000, 0, 3,
     { demoEntry with cls := .replica }, 0, by decide +kernel⟩,
   ⟨withRegion demo { demoEntry with cls := .skim }, hostReq 0 1 0x40000000, 0, 3, { demoEntry with cls := .skim }, 0,
     by decide +kernel⟩,
   ⟨withRegion demo demoEntry, hostReq 0 2 0x40000000, 0, 3, demoEntry, 0, by decide +kernel⟩⟩

/-- States that meet the hypotheses of `GateCompletionRowsComplete`, a clause at a time. -/
theorem witness_GateCompletionRowsComplete :
    (∃ (s : State) (r : MsResp) (m : MqReq), s.portsUp = true ∧ r.id ∉ s.flt.overdue ∧ m.id = r.id ∧ s.gate.mq.find?
      (fun x => x.id == r.id) = some m ∧ s.gate.mq.filter (fun x => x.line == m.line) = [m] ∧ m.kind = .read ∧
      r.err.toNat < 2) ∧
    (∃ (s : State) (r : MsResp) (m : MqReq), s.portsUp = true ∧ r.id ∉ s.flt.overdue ∧ m.id = r.id ∧ s.gate.mq.find?
      (fun x => x.id == r.id) = some m ∧ s.gate.mq.filter (fun x => x.line == m.line) = [m] ∧ m.kind = .read ∧ 2 ≤
      r.err.toNat ∧ s.inDir r.addr.toNat = false) ∧
    (∃ (s : State) (r : MsResp) (m : MqReq), s.portsUp = true ∧ r.id ∉ s.flt.overdue ∧ m.id = r.id ∧ s.gate.mq.find?
      (fun x => x.id == r.id) = some m ∧ s.gate.mq.filter (fun x => x.line == m.line) = [m] ∧ m.kind = .write ∧
      r.err.toNat < 2 ∧ s.memWf = true) ∧
    (∃ (s : State) (r : MsResp) (m : MqReq), s.portsUp = true ∧ r.id ∉ s.flt.overdue ∧ m.id = r.id ∧ s.gate.mq.find?
      (fun x => x.id == r.id) = some m ∧ s.gate.mq.filter (fun x => x.line == m.line) = [m] ∧ m.kind = .atomic ∧
      r.err.toNat < 2 ∧ s.memWf = true) ∧
    (∃ (s : State) (r : MsResp), s.portsUp = true ∧ r.id ∈ s.flt.overdue) ∧
    (∃ (s : State) (m : MqReq) (e : Entry) (i : Fin 64) (c p : Nat), s.portsUp = true ∧ s.gate.mq.find? (fun x =>
      x.kind == .readOld && x.nqId == m.nqId) = some m ∧ m.panel = some (c, p) ∧ s.entry c = some e ∧ s.tenantOf
      e.tenant = some i ∧ m.tag = e.tenant ∧ s.flt.mode = .normal ∧ e.state = .active ∧ (s.ten i).commit.isOpen = true
      ∧ (s.ten i).commit.window = false ∧ ((e.cls = .direct ∧ s.hawkRoom e.slot.val 1 1 = true) ∨ (e.cls = .replica ∧
      (e.sgrp = 0 ∨ (s.ten i).sweep.state = .idle ∨ (s.ten i).sweep.state = .held ∨ m.due = true)))) ∧
    (∃ (s : State), (s.gate.ready = false ∨ s.flt.mode ≠ .normal)) ∧
    (∃ (s : State), s.gate.ready = true ∧ s.flt.mode = .normal) :=
  ⟨⟨{ demo with gate := { ready := true, mq := [mqReq .read] } },
      { id := 0, err := 1, data := 0, addr := 0x40000000 }, mqReq .read, by decide +kernel⟩,
   ⟨{ demo with gate := { ready := true, mq := [mqReq .read] } }, { id := 0, err := 2, data := 0, addr := 0x40000000 },
     mqReq .read, by decide +kernel⟩,
   ⟨{ demo with gate := { ready := true, mq := [mqReq .write] } },
     { id := 0, err := 0, data := 0, addr := 0x40000000 }, mqReq .write, by decide +kernel⟩,
   ⟨{ demo with gate := { ready := true, mq := [mqReq .atomic] } },
     { id := 0, err := 0, data := 0, addr := 0x40000000 }, mqReq .atomic, by decide +kernel⟩,
   ⟨withFlt (fun f => { f with overdue := [0] }), { id := 0, err := 0, data := 0, addr := 0x40000000 },
     by decide +kernel⟩,
   ⟨{ withRegion demo demoEntry with gate := { ready := true, mq := [{ mqReq .readOld with tag := 7 }] } },
     { mqReq .readOld with tag := 7 }, demoEntry, 0, 3, 0, by decide +kernel⟩,
   ⟨{ demo with gate := {} }, by decide +kernel⟩,
   ⟨demo, by decide +kernel⟩⟩

/-- States that meet the hypotheses of `InjectionRowsComplete`, a clause at a time. -/
theorem witness_InjectionRowsComplete :
    (∃ (s : State), s.power.released = false) ∧
    (∃ (s : State) (now : BitVec 64), s.power.released = true ∧ (s.at_ now).endpointUp = false) ∧
    (∃ (s : State) (ready : BitVec 4) (now : BitVec 64) (f : OutFrame), let s1 := (s.at_ now);
      let ctrlGo : Prop := (ready.getLsbD 2 = true ∧ s1.ctrlRecent < s1.cfg.glob.ctrlRate * 1000); (s.at_
      now).endpointUp = true ∧ s1.headOf s1.ep.ctrlQ = some f ∧ ctrlGo) ∧
    (∃ (s : State) (ready : BitVec 4) (now : BitVec 64) (f : OutFrame), let s1 := (s.at_ now);
      let ctrlGo : Prop := (ready.getLsbD 2 = true ∧ s1.ctrlRecent < s1.cfg.glob.ctrlRate * 1000);
      let bulk : Prop := (s1.ep.route = .idle ∧ s1.ep.bulkFree ≤ s1.fineNow);
      let skimGo : Prop := (bulk ∧ ready.getLsbD 0 = true ∧ s1.ep.skimFree ≤ s1.fineNow); (s.at_ now).endpointUp = true
      ∧ (s1.headOf s1.ep.ctrlQ = none ∨ ¬ ctrlGo) ∧ s1.headOf s1.ep.resumeQ = some f ∧ skimGo) ∧
    (∃ (s : State) (ready : BitVec 4) (now : BitVec 64) (f : OutFrame), let s1 := (s.at_ now);
      let ctrlGo : Prop := (ready.getLsbD 2 = true ∧ s1.ctrlRecent < s1.cfg.glob.ctrlRate * 1000);
      let bulk : Prop := (s1.ep.route = .idle ∧ s1.ep.bulkFree ≤ s1.fineNow);
      let skimGo : Prop := (bulk ∧ ready.getLsbD 0 = true ∧ s1.ep.skimFree ≤ s1.fineNow); (s.at_ now).endpointUp = true
      ∧ (s1.headOf s1.ep.ctrlQ = none ∨ ¬ ctrlGo) ∧ s1.headOf s1.ep.resumeQ = some f ∧ (¬ skimGo)) ∧
    (∃ (s : State) (ready : BitVec 4) (now : BitVec 64) (f : OutFrame), let s1 := (s.at_ now);
      let ctrlGo : Prop := (ready.getLsbD 2 = true ∧ s1.ctrlRecent < s1.cfg.glob.ctrlRate * 1000);
      let bulk : Prop := (s1.ep.route = .idle ∧ s1.ep.bulkFree ≤ s1.fineNow);
      let skimGo : Prop := (bulk ∧ ready.getLsbD 0 = true ∧ s1.ep.skimFree ≤ s1.fineNow);
      let badgerGo : Prop := (bulk ∧ ready.getLsbD 1 = true ∧ s1.ep.badgerFree ≤ s1.fineNow); (s.at_ now).endpointUp =
      true ∧ (s1.headOf s1.ep.ctrlQ = none ∨ ¬ ctrlGo) ∧ s1.headOf s1.ep.resumeQ = none ∧ s1.headOf s1.ep.skimQ = some
      f ∧ skimGo ∧ (s1.headOf s1.ep.badgerQ = none ∨ ¬ badgerGo)) ∧
    (∃ (s : State) (ready : BitVec 4) (now : BitVec 64) (f : OutFrame), let s1 := (s.at_ now);
      let ctrlGo : Prop := (ready.getLsbD 2 = true ∧ s1.ctrlRecent < s1.cfg.glob.ctrlRate * 1000);
      let bulk : Prop := (s1.ep.route = .idle ∧ s1.ep.bulkFree ≤ s1.fineNow);
      let skimGo : Prop := (bulk ∧ ready.getLsbD 0 = true ∧ s1.ep.skimFree ≤ s1.fineNow);
      let badgerGo : Prop := (bulk ∧ ready.getLsbD 1 = true ∧ s1.ep.badgerFree ≤ s1.fineNow); (s.at_ now).endpointUp =
      true ∧ (s1.headOf s1.ep.ctrlQ = none ∨ ¬ ctrlGo) ∧ s1.headOf s1.ep.resumeQ = none ∧ s1.headOf s1.ep.badgerQ =
      some f ∧ badgerGo ∧ (s1.headOf s1.ep.skimQ = none ∨ ¬ skimGo)) ∧
    (∃ (s : State) (ready : BitVec 4) (now : BitVec 64) (f g : OutFrame), let s1 := (s.at_ now);
      let ctrlGo : Prop := (ready.getLsbD 2 = true ∧ s1.ctrlRecent < s1.cfg.glob.ctrlRate * 1000);
      let bulk : Prop := (s1.ep.route = .idle ∧ s1.ep.bulkFree ≤ s1.fineNow);
      let skimGo : Prop := (bulk ∧ ready.getLsbD 0 = true ∧ s1.ep.skimFree ≤ s1.fineNow);
      let badgerGo : Prop := (bulk ∧ ready.getLsbD 1 = true ∧ s1.ep.badgerFree ≤ s1.fineNow); (s.at_ now).endpointUp =
      true ∧ (s1.headOf s1.ep.ctrlQ = none ∨ ¬ ctrlGo) ∧ s1.headOf s1.ep.resumeQ = none ∧ s1.headOf s1.ep.skimQ = some
      f ∧ skimGo ∧ s1.headOf s1.ep.badgerQ = some g ∧ badgerGo) ∧
    (∃ (s : State) (ready : BitVec 4) (now : BitVec 64), let s1 := (s.at_ now);
      let ctrlGo : Prop := (ready.getLsbD 2 = true ∧ s1.ctrlRecent < s1.cfg.glob.ctrlRate * 1000);
      let bulk : Prop := (s1.ep.route = .idle ∧ s1.ep.bulkFree ≤ s1.fineNow);
      let skimGo : Prop := (bulk ∧ ready.getLsbD 0 = true ∧ s1.ep.skimFree ≤ s1.fineNow);
      let badgerGo : Prop := (bulk ∧ ready.getLsbD 1 = true ∧ s1.ep.badgerFree ≤ s1.fineNow); (s.at_ now).endpointUp =
      true ∧ (s1.headOf s1.ep.ctrlQ = none ∨ ¬ ctrlGo) ∧ s1.headOf s1.ep.resumeQ = none ∧ (s1.headOf s1.ep.skimQ = none
      ∨ ¬ skimGo) ∧ (s1.headOf s1.ep.badgerQ = none ∨ ¬ badgerGo)) ∧
    (∃ (s : State) (f : OutFrame), f ∈ s.ep.resumeQ) ∧
    (∃ (s : State) (f : OutFrame), f ∉ s.ep.resumeQ) ∧
    (∃ (s : State), s.portsUp = false) ∧
    (∃ (s : State), s.portsUp = true) :=
  ⟨⟨State.reset, by decide +kernel⟩,
   ⟨withFlt (fun f => { f with inReset := [.endpoint] }), 0, by decide +kernel⟩,
   ⟨{ demo with ep := { ctrlQ := [ctrlFrame] } }, 4, 0, ctrlFrame, by decide +kernel⟩,
   ⟨{ demo with ep := { resumeQ := [skimFrame] } }, 1, 0, skimFrame, by decide +kernel⟩,
   ⟨{ demo with ep := { resumeQ := [skimFrame] } }, 0, 0, skimFrame, by decide +kernel⟩,
   ⟨{ demo with ep := { skimQ := [skimFrame] } }, 1, 0, skimFrame, by decide +kernel⟩,
   ⟨{ demo with ep := { badgerQ := [badgerFrame] } }, 2, 0, badgerFrame, by decide +kernel⟩,
   ⟨{ demo with ep := { skimQ := [skimFrame], badgerQ := [badgerFrame] } }, 3, 0, skimFrame, badgerFrame,
     by decide +kernel⟩,
   ⟨demo, 0, 0, by decide +kernel⟩,
   ⟨{ demo with ep := { resumeQ := [skimFrame] } }, skimFrame, by decide +kernel⟩,
   ⟨demo, skimFrame, by decide +kernel⟩,
   ⟨State.reset, by decide +kernel⟩,
   ⟨demo, by decide +kernel⟩⟩

/-- States that meet the hypotheses of `GroupSetupRowsComplete`, a clause at a time. -/
theorem witness_GroupSetupRowsComplete :
    (∃ (s : State) (h : BitVec 10) (ready : Bool) (g : Group),
      let go : Prop := (ready = true ∧ s.endpointUp = true ∧ s.mayInject = true); s.groupIn h.toNat (fun x => x ==
      .wanted) = some g ∧ go ∧ s.groupDrained g = true) ∧
    (∃ (s : State) (h : BitVec 10) (ready : Bool) (g : Group),
      let go : Prop := (ready = true ∧ s.endpointUp = true ∧ s.mayInject = true); s.groupIn h.toNat (fun x => x ==
      .wanted) = some g ∧ (¬ go ∨ s.groupDrained g = false)) ∧
    (∃ (s : State) (h : BitVec 10) (ready : Bool) (g : Group),
      let go : Prop := (ready = true ∧ s.endpointUp = true ∧ s.mayInject = true); s.groupIn h.toNat GroupSetup.waits =
      some g ∧ go) ∧
    (∃ (s : State) (h : BitVec 10) (ready : Bool) (g : Group),
      let go : Prop := (ready = true ∧ s.endpointUp = true ∧ s.mayInject = true); s.groupIn h.toNat GroupSetup.waits =
      some g ∧ (¬ go)) ∧
    (∃ (s : State) (h : BitVec 10) (ready : Bool) (g : Group),
      let go : Prop := (ready = true ∧ s.endpointUp = true ∧ s.mayInject = true); s.groupIn h.toNat (fun x => x ==
      .failed) = some g ∧ go) ∧
    (∃ (s : State) (h : BitVec 10) (ready : Bool) (g : Group),
      let go : Prop := (ready = true ∧ s.endpointUp = true ∧ s.mayInject = true); s.groupIn h.toNat (fun x => x ==
      .failed) = some g ∧ (¬ go)) ∧
    (∃ (s : State) (h : BitVec 10), s.groupIn h.toNat (fun x => x == .wanted) = none) ∧
    (∃ (s : State) (h : BitVec 10), s.groupIn h.toNat GroupSetup.waits = none) ∧
    (∃ (s : State) (h : BitVec 10), s.groupIn h.toNat (fun x => x == .failed) = none) ∧
    (∃ (s : State) (f : Rx), let s1 := (s.at_ f.time); s.portsUp = true ∧ s1.takesFrame f = false) ∧
    (∃ (s : State) (f : Rx), let s1 := (s.at_ f.time); s.portsUp = true ∧ s1.takesFrame f = true ∧ (f.eiErr = true ∨
      f.crc ≠ frameCrc f)) ∧
    (∃ (s : State) (f : Rx), let s1 := (s.at_ f.time);
      let good : Prop := (f.ver = 3 ∧ f.typ = 0x70 ∧ tField f 0 8 = 8 ∧ f.mark = false ∧ f.elided = false ∧ f.rsv1 = false ∧ f.rsv2 = 0 ∧ tField f 18 2 ≠ 3 ∧ tField f 52 12 = 0);
      f.crc = frameCrc f ∧ s.portsUp = true ∧ s1.takesFrame f = true ∧ f.eiErr = false ∧ (¬ good)) ∧
    (∃ (s : State) (f : Rx), let s1 := (s.at_ f.time);
      let good : Prop := (f.ver = 3 ∧ f.typ = 0x70 ∧ tField f 0 8 = 8 ∧ f.mark = false ∧ f.elided = false ∧ f.rsv1 = false ∧ f.rsv2 = 0 ∧ tField f 18 2 ≠ 3 ∧ tField f 52 12 = 0);
      let mine (g : Group) : Prop := (s1.groupIn (tField f 8 10) (fun x => x == .outstanding (BitVec.ofNat 32 (tField f 20 32))) = some g);
      f.crc = frameCrc f ∧ ((∀ g : Group, ¬ mine g) ∨ f.src ≠ s1.self) ∧ s.portsUp = true ∧ s1.takesFrame f = true ∧
      f.eiErr = false ∧ good) ∧
    (∃ (s : State) (f : Rx) (g : Group), let s1 := (s.at_ f.time);
      let good : Prop := (f.ver = 3 ∧ f.typ = 0x70 ∧ tField f 0 8 = 8 ∧ f.mark = false ∧ f.elided = false ∧ f.rsv1 = false ∧ f.rsv2 = 0 ∧ tField f 18 2 ≠ 3 ∧ tField f 52 12 = 0);
      let mine (g : Group) : Prop := (s1.groupIn (tField f 8 10) (fun x => x == .outstanding (BitVec.ofNat 32 (tField f 20 32))) = some g);
      f.crc = frameCrc f ∧ s.portsUp = true ∧ s1.takesFrame f = true ∧ f.eiErr = false ∧ good ∧ mine g ∧ f.src =
      s1.self ∧ tField f 18 2 = 0) ∧
    (∃ (s : State) (f : Rx) (g : Group), let s1 := (s.at_ f.time);
      let good : Prop := (f.ver = 3 ∧ f.typ = 0x70 ∧ tField f 0 8 = 8 ∧ f.mark = false ∧ f.elided = false ∧ f.rsv1 = false ∧ f.rsv2 = 0 ∧ tField f 18 2 ≠ 3 ∧ tField f 52 12 = 0);
      let mine (g : Group) : Prop := (s1.groupIn (tField f 8 10) (fun x => x == .outstanding (BitVec.ofNat 32 (tField f 20 32))) = some g);
      f.crc = frameCrc f ∧ s.portsUp = true ∧ s1.takesFrame f = true ∧ f.eiErr = false ∧ good ∧ mine g ∧ f.src =
      s1.self ∧ tField f 18 2 ≠ 0) :=
  ⟨⟨withGroup .wanted, 5, true, demoGroup .wanted, by decide +kernel⟩,
   ⟨withGroup .wanted, 5, false, demoGroup .wanted, by decide +kernel⟩,
   ⟨withGroup (.outstanding 1), 5, true, demoGroup (.outstanding 1), by decide +kernel⟩,
   ⟨withGroup (.outstanding 1), 5, false, demoGroup (.outstanding 1), by decide +kernel⟩,
   ⟨withGroup .failed, 5, true, demoGroup .failed, by decide +kernel⟩,
   ⟨withGroup .failed, 5, false, demoGroup .failed, by decide +kernel⟩,
   ⟨demo, 0, by decide +kernel⟩,
   ⟨demo, 0, by decide +kernel⟩,
   ⟨demo, 0, by decide +kernel⟩,
   ⟨withFlt (fun f => { f with inReset := [.endpoint] }), rx 0x70 8, by decide +kernel⟩,
   ⟨demo, { rx 0x70 8 with eiErr := true }, by decide +kernel⟩,
   ⟨demo, sealed (rx 0x70 0xC0008), sealed_crc _, by decide +kernel⟩,
   ⟨demo, sealed { rx 0x70 8 with src := 9 }, sealed_crc _, (Or.inr (by decide +kernel)), by decide +kernel⟩,
   ⟨withGroup (.outstanding 1), sealed { rx 0x70 0x100508 with src := 1 }, demoGroup (.outstanding 1), sealed_crc _,
     by decide +kernel⟩,
   ⟨withGroup (.outstanding 1), sealed { rx 0x70 0x140508 with src := 1 }, demoGroup (.outstanding 1), sealed_crc _,
     by decide +kernel⟩⟩

/-- States that meet the hypotheses of `RouteRowsComplete`, a clause at a time. -/
theorem witness_RouteRowsComplete :
    (∃ (s : State) (a : Acc), let taken : Prop := (s.windowOpen 0x5028 = true ∧ fromSystem a = true); s.portsUp = true
      ∧ (¬ taken)) ∧
    (∃ (s : State) (a : Acc), let taken : Prop := (s.windowOpen 0x5028 = true ∧ fromSystem a = true); s.portsUp = true
      ∧ taken ∧ s.ep.route = .idle) ∧
    (∃ (s : State) (a : Acc), let taken : Prop := (s.windowOpen 0x5028 = true ∧ fromSystem a = true); s.portsUp = true
      ∧ taken ∧ s.ep.route = .draining) ∧
    (∃ (s : State) (a : Acc), let taken : Prop := (s.windowOpen 0x5028 = true ∧ fromSystem a = true); s.portsUp = true
      ∧ taken ∧ s.ep.route = .drained) ∧
    (∃ (s : State), s.ep.route = .draining ∧ s.skimOutstanding = [] ∧ s.badgerOutstanding = false) ∧
    (∃ (s : State), (s.ep.route ≠ .draining ∨ s.skimOutstanding ≠ [] ∨ s.badgerOutstanding = true)) ∧
    (∃ (s : State), s.ep.route ≠ .draining) ∧
    (∃ (s : State), s.ep.route ≠ .drained) ∧
    (∃ (s : State), s.ep.markedList = []) ∧
    (∃ (s : State) (k n : Nat) (i : Fin 64) (r : HawkRec) (o : Owed), s.ep.markedList = [(k, n, o.addr)] ∧ s.slotTenant
      k = some i ∧ s.hawk.recs.find? (fun r => r.slot.val == k && r.st == .out && r.seq == some n) = some r ∧
      r.owed.find? (fun x => x.addr == o.addr) = some o ∧ o.tries < 16 ∧ s.mayForm (s.hawkFrame i r (.member o.addr)
      true) = true) :=
  ⟨⟨demo, { tag := 7, id := 1 }, by decide +kernel⟩,
   ⟨demo, sys, by decide +kernel⟩,
   ⟨{ demo with ep := { route := .draining } }, sys, by decide +kernel⟩,
   ⟨{ demo with ep := { route := .drained } }, sys, by decide +kernel⟩,
   ⟨{ demo with ep := { route := .draining } }, by decide +kernel⟩,
   ⟨demo, by decide +kernel⟩,
   ⟨demo, by decide +kernel⟩,
   ⟨demo, by decide +kernel⟩,
   ⟨demo, by decide +kernel⟩,
   ⟨{ demo with hawk := { recs := [outRec] }, ep := { markedList := [(0, 0, 2)] } }, 0, 0, 0, outRec,
     { addr := 2, due := 0, tries := 14 }, by decide +kernel⟩⟩

/-- States that meet the hypotheses of `RetransmissionRowCompletes`, a clause at a time. -/
theorem witness_RetransmissionRowCompletes :
    (∃ (s : State) (slot : Nat) (seq : BitVec 32) (peer : Addr) (i : Fin 64) (r : HawkRec) (o : Owed),
      let hit (r : HawkRec) : Bool := (r.slot.val == slot && r.st == .out && r.seq == some seq.toNat && r.owed.any fun o => o.addr == peer);
      s.slotTenant slot = some i ∧ s.hawk.recs.find? hit = some r ∧ r.owed.find? (fun o => o.addr == peer) = some o ∧
      s.endpointUp = true ∧ s.mayInject = true ∧ s.copyWaits r peer = false ∧ o.tries ≠ 16) ∧
    (∃ (s : State) (slot : Nat) (seq : BitVec 32) (peer : Addr) (i : Fin 64) (r : HawkRec) (o : Owed),
      let hit (r : HawkRec) : Bool := (r.slot.val == slot && r.st == .out && r.seq == some seq.toNat && r.owed.any fun o => o.addr == peer);
      s.slotTenant slot = some i ∧ s.hawk.recs.find? hit = some r ∧ r.owed.find? (fun o => o.addr == peer) = some o ∧
      s.endpointUp = true ∧ s.mayInject = true ∧ s.copyWaits r peer = false ∧ o.tries = 16) ∧
    (∃ (s : State) (slot : Nat) (seq : BitVec 32) (peer : Addr),
      let hit (r : HawkRec) : Bool := (r.slot.val == slot && r.st == .out && r.seq == some seq.toNat && r.owed.any fun o => o.addr == peer);
      (s.slotTenant slot = none ∨ s.hawk.recs.find? hit = none ∨ s.endpointUp = false ∨ s.mayInject = false)) ∧
    (∃ (s : State) (slot : Nat) (seq : BitVec 32) (peer : Addr) (r : HawkRec),
      let hit (r : HawkRec) : Bool := (r.slot.val == slot && r.st == .out && r.seq == some seq.toNat && r.owed.any fun o => o.addr == peer);
      s.hawk.recs.find? hit = some r ∧ s.copyWaits r peer = true) :=
  ⟨⟨{ demo with hawk := { recs := [{ outRec with owed := [{ addr := 2, due := 0, tries := 15 }] }] } }, 0, 0, 2, 0,
      { outRec with owed := [{ addr := 2, due := 0, tries := 15 }] }, { addr := 2, due := 0, tries := 15 },
      by decide +kernel⟩,
   ⟨{ demo with hawk := { recs := [{ outRec with owed := [{ addr := 2, due := 0, tries := 16 }] }] } }, 0, 0, 2, 0,
     { outRec with owed := [{ addr := 2, due := 0, tries := 16 }] }, { addr := 2, due := 0, tries := 16 },
     by decide +kernel⟩,
   ⟨demo, 0, 0, 2, by decide +kernel⟩,
   ⟨{ demo with hawk := { recs := [outRec] }, ep := { skimQ := [{ skimFrame with epoch := 2, t := 0 }] } }, 0, 0, 2,
     outRec, by decide +kernel⟩⟩

/-- States that meet the hypotheses of `SkimFrameRowsComplete`, a clause at a time. -/
theorem witness_SkimFrameRowsComplete :
    (∃ (s : State) (f : Rx) (i : Fin 64) (h : HoldAt) (e : SrcEntry), frameGood s f 0x01 i ∧ ((f.t.getLsbD 59 = true →
      tField f 55 4 = 0)) ∧ deltaLenOk f = true ∧ (s.at_ f.time).inOpenAttempt i f = true ∧ (s.at_ f.time).holdAt i
      f.src (tField f 60 4) (tField f 32 23) = some h ∧ (s.at_ f.time).source h.slot h.rank = some e ∧ e.broken = true) ∧
    (∃ (s : State) (f : Rx) (i : Fin 64) (h : HoldAt) (e : SrcEntry), let n := (tField f 0 32); frameGood s f 0x01 i ∧
      ((f.t.getLsbD 59 = true → tField f 55 4 = 0)) ∧ deltaLenOk f = true ∧ (s.at_ f.time).inOpenAttempt i f = true ∧
      (s.at_ f.time).holdAt i f.src (tField f 60 4) (tField f 32 23) = some h ∧ (s.at_ f.time).source h.slot h.rank =
      some e ∧ e.broken = false ∧ e.closed = true ∧ e.count < n) ∧
    (∃ (s : State) (f : Rx) (i : Fin 64) (h : HoldAt) (e : SrcEntry), let n := (tField f 0 32);
      let e' := (e.settle (n - 28)); let new : Prop := (e'.cum ≤ n ∧ e'.ring.getLsbD (n % 2048) = false); frameGood s f
      0x01 i ∧ ((f.t.getLsbD 59 = true → tField f 55 4 = 0)) ∧ deltaLenOk f = true ∧ (s.at_ f.time).inOpenAttempt i f =
      true ∧ (s.at_ f.time).holdAt i f.src (tField f 60 4) (tField f 32 23) = some h ∧ (s.at_ f.time).source h.slot
      h.rank = some e ∧ e.broken = false ∧ (e.closed = false ∨ n ≤ e.count) ∧ (¬ new)) ∧
    (∃ (s : State) (f : Rx) (i : Fin 64) (h : HoldAt) (e : SrcEntry), let n := (tField f 0 32);
      let e' := (e.settle (n - 28)); let new : Prop := (e'.cum ≤ n ∧ e'.ring.getLsbD (n % 2048) = false); frameGood s f
      0x01 i ∧ ((f.t.getLsbD 59 = true → tField f 55 4 = 0)) ∧ deltaLenOk f = true ∧ (s.at_ f.time).inOpenAttempt i f =
      true ∧ (s.at_ f.time).holdAt i f.src (tField f 60 4) (tField f 32 23) = some h ∧ (s.at_ f.time).source h.slot
      h.rank = some e ∧ e.broken = false ∧ (e.closed = false ∨ n ≤ e.count) ∧ new) ∧
    (∃ (s : State) (f : Rx) (i : Fin 64), frameGood s f 0x02 i ∧ f.len = 0 ∧ (s.at_ f.time).inOpenAttempt i f = true ∧
      (s.slot (tField f 60 4)).kind = .sett ∧ (s.at_ f.time).knownIn i (tField f 60 4) f.src = true ∧ ackBeyond (s.slot
      (tField f 60 4)).next (tField f 0 32) (tField f 32 28) = true) ∧
    (∃ (s : State) (f : Rx) (i : Fin 64), frameGood s f 0x02 i ∧ f.len = 0 ∧ (s.at_ f.time).inOpenAttempt i f = true ∧
      (s.slot (tField f 60 4)).kind = .sett ∧ (s.at_ f.time).knownIn i (tField f 60 4) f.src = true ∧ ackBeyond (s.slot
      (tField f 60 4)).next (tField f 0 32) (tField f 32 28) = false) ∧
    (∃ (s : State) (f : Rx) (i : Fin 64) (k r : Nat) (e : SrcEntry), frameGood s f 0x03 i ∧ f.len = 0 ∧ tField f 32 28
      = 0 ∧ (s.at_ f.time).inOpenAttempt i f = true ∧ (s.at_ f.time).slotBySender i f.src (tField f 60 4) = some k ∧
      (s.slot k).rankOf f.src = some r ∧ (s.at_ f.time).source k r = some e ∧ e.broken = true) ∧
    (∃ (s : State) (f : Rx) (i : Fin 64) (k r : Nat) (e : SrcEntry), let n := (tField f 0 32); frameGood s f 0x03 i ∧
      f.len = 0 ∧ tField f 32 28 = 0 ∧ (s.at_ f.time).inOpenAttempt i f = true ∧ (s.at_ f.time).slotBySender i f.src
      (tField f 60 4) = some k ∧ (s.slot k).rankOf f.src = some r ∧ (s.at_ f.time).source k r = some e ∧ e.broken =
      false ∧ e.closed = true ∧ e.count < n) ∧
    (∃ (s : State) (f : Rx) (i : Fin 64) (k r : Nat) (e : SrcEntry), let n := (tField f 0 32);
      let late : Prop := (∃ x : Nat, e.high = some x ∧ n < x); frameGood s f 0x03 i ∧ late ∧ f.len = 0 ∧ tField f 32 28
      = 0 ∧ (s.at_ f.time).inOpenAttempt i f = true ∧ (s.at_ f.time).slotBySender i f.src (tField f 60 4) = some k ∧
      (s.slot k).rankOf f.src = some r ∧ (s.at_ f.time).source k r = some e ∧ e.broken = false ∧ (e.closed = false ∨ n
      ≤ e.count)) ∧
    (∃ (s : State) (f : Rx) (i : Fin 64) (k r : Nat) (e : SrcEntry), let n := (tField f 0 32); let e' := (e.settle n);
      let new : Prop := (e'.cum ≤ n ∧ e'.ring.getLsbD (n % 2048) = false);
      let late : Prop := (∃ x : Nat, e.high = some x ∧ n < x); frameGood s f 0x03 i ∧ (¬ late) ∧ f.len = 0 ∧ tField f
      32 28 = 0 ∧ (s.at_ f.time).inOpenAttempt i f = true ∧ (s.at_ f.time).slotBySender i f.src (tField f 60 4) = some
      k ∧ (s.slot k).rankOf f.src = some r ∧ (s.at_ f.time).source k r = some e ∧ e.broken = false ∧ (e.closed = false
      ∨ n ≤ e.count) ∧ (¬ new)) ∧
    (∃ (s : State) (f : Rx) (i : Fin 64) (k r : Nat) (e : SrcEntry), let n := (tField f 0 32); let e' := (e.settle n);
      let new : Prop := (e'.cum ≤ n ∧ e'.ring.getLsbD (n % 2048) = false);
      let late : Prop := (∃ x : Nat, e.high = some x ∧ n < x); frameGood s f 0x03 i ∧ (¬ late) ∧ f.len = 0 ∧ tField f
      32 28 = 0 ∧ (s.at_ f.time).inOpenAttempt i f = true ∧ (s.at_ f.time).slotBySender i f.src (tField f 60 4) = some
      k ∧ (s.slot k).rankOf f.src = some r ∧ (s.at_ f.time).source k r = some e ∧ e.broken = false ∧ (e.closed = false
      ∨ n ≤ e.count) ∧ new) :=
  ⟨⟨withSlot (fun x => { x with sources := [{ demoSource with broken := true }] }), sealed
      { rx 0x01 0 (List.replicate 256 0) with epoch := 2 }, 0, { slot := 0, rank := 1, row := 0, col := 0, e := 0 },
      { demoSource with broken := true }, sealed_good (by decide +kernel), by decide +kernel⟩,
   ⟨withSlot (fun x => { x with sources := [{ demoSource with closed := true }] }), sealed
     { rx 0x01 1 (List.replicate 256 0) with epoch := 2 }, 0, { slot := 0, rank := 1, row := 0, col := 0, e := 0 },
     { demoSource with closed := true }, sealed_good (by decide +kernel), by decide +kernel⟩,
   ⟨withSlot (fun x => { x with sources := [{ demoSource with cum := 1 }] }), sealed
     { rx 0x01 0 (List.replicate 256 0) with epoch := 2 }, 0, { slot := 0, rank := 1, row := 0, col := 0, e := 0 },
     { demoSource with cum := 1 }, sealed_good (by decide +kernel), by decide +kernel⟩,
   ⟨withSlot (fun x => { x with sources := [{ demoSource with cum := 0 }] }), sealed
     { rx 0x01 0 (List.replicate 256 0) with epoch := 2 }, 0, { slot := 0, rank := 1, row := 0, col := 0, e := 0 },
     { demoSource with cum := 0 }, sealed_good (by decide +kernel), by decide +kernel⟩,
   ⟨demo, sealed { rx 0x02 1 with epoch := 2 }, 0, sealed_good (by decide +kernel), by decide +kernel⟩,
   ⟨demo, sealed { rx 0x02 0 with epoch := 2 }, 0, sealed_good (by decide +kernel), by decide +kernel⟩,
   ⟨withSlot (fun x => { x with sources := [{ demoSource with broken := true }] }), sealed
     { rx 0x03 0 with epoch := 2 }, 0, 0, 1, { demoSource with broken := true }, sealed_good (by decide +kernel),
     by decide +kernel⟩,
   ⟨withSlot (fun x => { x with sources := [{ demoSource with closed := true }] }), sealed
     { rx 0x03 1 with epoch := 2 }, 0, 0, 1, { demoSource with closed := true }, sealed_good (by decide +kernel),
     by decide +kernel⟩,
   ⟨withSlot (fun x => { x with sources := [{ demoSource with high := some 5 }] }), sealed
     { rx 0x03 0 with epoch := 2 }, 0, 0, 1, { demoSource with high := some 5 }, sealed_good (by decide +kernel), ⟨5,
     by decide +kernel, by decide +kernel⟩, by decide +kernel⟩,
   ⟨withSlot (fun x => { x with sources := [{ demoSource with cum := 1 }] }), sealed { rx 0x03 0 with epoch := 2 }, 0,
     0, 1, { demoSource with cum := 1 }, sealed_good (by decide +kernel), (not_later rfl), by decide +kernel⟩,
   ⟨withSlot (fun x => { x with sources := [{ demoSource with cum := 0 }] }), sealed { rx 0x03 0 with epoch := 2 }, 0,
     0, 1, { demoSource with cum := 0 }, sealed_good (by decide +kernel), (not_later rfl), by decide +kernel⟩⟩

/-- States that meet the hypotheses of `CommitFrameRowsComplete`, a clause at a time. -/
theorem witness_CommitFrameRowsComplete :
    (∃ (s : State) (f : Rx) (i : Fin 64), frameGood s f 0x11 i ∧ f.len = 0 ∧ tField f 24 4 ≤ 3 ∧ tField f 28 36 = 0 ∧
      (s.at_ f.time).voteOk i f = true ∧ (s.ten i).fox.self = .fenced) ∧
    (∃ (s : State) (f : Rx) (i : Fin 64) (g : Nat), let s1 := (s.at_ f.time); frameGood s f 0x11 i ∧ f.len = 0 ∧ tField
      f 24 4 ≤ 3 ∧ tField f 28 36 = 0 ∧ (s.at_ f.time).voteOk i f = true ∧ (s.ten i).fox.self ≠ .fenced ∧ s1.attemptOf
      i f = .opened ∧ tField f 24 4 = 1 ∧ (s.ten i).childOf false f.src = some g ∧ s1.isPodManager i = true) ∧
    (∃ (s : State) (f : Rx) (i : Fin 64) (g : Nat), let s1 := (s.at_ f.time); frameGood s f 0x11 i ∧ f.len = 0 ∧ tField
      f 24 4 ≤ 3 ∧ tField f 28 36 = 0 ∧ (s.at_ f.time).voteOk i f = true ∧ (s.ten i).fox.self ≠ .fenced ∧ s1.attemptOf
      i f = .opened ∧ tField f 24 4 = 2 ∧ (s.ten i).childOf true f.src = some g ∧ s1.isJobManager i = true) ∧
    (∃ (s : State) (f : Rx) (i : Fin 64), let s1 := (s.at_ f.time); frameGood s f 0x11 i ∧ f.len = 0 ∧ tField f 24 4 ≤
      3 ∧ tField f 28 36 = 0 ∧ (s.at_ f.time).voteOk i f = true ∧ (s.ten i).fox.self ≠ .fenced ∧ s1.attemptOf i f =
      .opened ∧ (tField f 24 4 = 3 ∨ (tField f 24 4 = 1 ∧ (s.ten i).childOf false f.src = none) ∨ (tField f 24 4 = 2 ∧
      (s.ten i).childOf true f.src = none) ∨ (tField f 24 4 = 0 ∧ (s.ten i).targetChild f.src = none))) ∧
    (∃ (s : State) (f : Rx) (i : Fin 64) (g : Nat), let s1 := (s.at_ f.time); let n := (tField f 0 24); frameGood s f
      0x11 i ∧ f.len = 0 ∧ tField f 24 4 ≤ 3 ∧ tField f 28 36 = 0 ∧ (s.at_ f.time).voteOk i f = true ∧ (s.ten
      i).fox.self ≠ .fenced ∧ s1.attemptOf i f = .opened ∧ tField f 24 4 = 0 ∧ (s.ten i).targetChild f.src = some g ∧
      s1.isPodManager i = true ∧ n = 1) ∧
    (∃ (s : State) (f : Rx) (i : Fin 64), let s1 := (s.at_ f.time); frameGood s f 0x11 i ∧ f.len = 0 ∧ tField f 24 4 ≤
      3 ∧ tField f 28 36 = 0 ∧ (s.at_ f.time).voteOk i f = true ∧ (s.ten i).fox.self ≠ .fenced ∧ s1.attemptOf i f ≠
      .opened) ∧
    (∃ (s : State) (i : Fin 64) (job : Bool) (g : Nat) (c : Credit),
      let value := (if job then (s.setCredit i c).jobCredit i g else (s.setCredit i c).podCredit i g); (s.ten i).expect
      job g < value) ∧
    (∃ (s : State) (i : Fin 64) (job : Bool) (g : Nat) (c : Credit),
      let value := (if job then (s.setCredit i c).jobCredit i g else (s.setCredit i c).podCredit i g); value < (s.ten
      i).expect job g) ∧
    (∃ (s : State) (f : Rx) (i : Fin 64), frameGood s f 0x10 i ∧ f.len = 0 ∧ 2 ≤ tField f 0 4 ∧ tField f 0 4 ≤ 3 ∧
      tField f 4 60 = 0 ∧ ((s.ten i).awaits = true ∨ (s.at_ f.time).voteOk i f = true) ∧ (s.ten i).fox.self = .fenced) ∧
    (∃ (s : State) (f : Rx) (i : Fin 64), frameGood s f 0x10 i ∧ f.len = 0 ∧ 2 ≤ tField f 0 4 ∧ tField f 0 4 ≤ 3 ∧
      tField f 4 60 = 0 ∧ ((s.ten i).awaits = true ∨ (s.at_ f.time).voteOk i f = true) ∧ (s.ten i).fox.self ≠ .fenced ∧
      (s.ten i).awaits = true) ∧
    (∃ (s : State) (f : Rx) (i : Fin 64), let s1 := (s.at_ f.time); frameGood s f 0x10 i ∧ f.len = 0 ∧ 2 ≤ tField f 0 4
      ∧ tField f 0 4 ≤ 3 ∧ tField f 4 60 = 0 ∧ ((s.ten i).awaits = true ∨ (s.at_ f.time).voteOk i f = true) ∧ (s.ten
      i).fox.self ≠ .fenced ∧ (s.ten i).awaits = false ∧ s1.attemptOf i f = .opened ∧ tField f 0 4 = 3 ∧
      s1.isPodManager i = true) ∧
    (∃ (s : State) (f : Rx) (i : Fin 64), let s1 := (s.at_ f.time); frameGood s f 0x10 i ∧ f.len = 0 ∧ 2 ≤ tField f 0 4
      ∧ tField f 0 4 ≤ 3 ∧ tField f 4 60 = 0 ∧ ((s.ten i).awaits = true ∨ (s.at_ f.time).voteOk i f = true) ∧ (s.ten
      i).fox.self ≠ .fenced ∧ (s.ten i).awaits = false ∧ s1.attemptOf i f = .opened ∧ tField f 0 4 = 3 ∧
      s1.isPodManager i = false) ∧
    (∃ (s : State) (f : Rx) (i : Fin 64), let s1 := (s.at_ f.time); let target := ((s.ten i).fox.isTarget s.self);
      frameGood s f 0x10 i ∧ f.len = 0 ∧ 2 ≤ tField f 0 4 ∧ tField f 0 4 ≤ 3 ∧ tField f 4 60 = 0 ∧ ((s.ten i).awaits =
      true ∨ (s.at_ f.time).voteOk i f = true) ∧ (s.ten i).fox.self ≠ .fenced ∧ (s.ten i).awaits = false ∧ s1.attemptOf
      i f = .opened ∧ tField f 0 4 = 2 ∧ target = false) ∧
    (∃ (s : State) (f : Rx) (i : Fin 64), let s1 := (s.at_ f.time); let target := ((s.ten i).fox.isTarget s.self);
      frameGood s f 0x10 i ∧ f.len = 0 ∧ 2 ≤ tField f 0 4 ∧ tField f 0 4 ≤ 3 ∧ tField f 4 60 = 0 ∧ ((s.ten i).awaits =
      true ∨ (s.at_ f.time).voteOk i f = true) ∧ (s.ten i).fox.self ≠ .fenced ∧ (s.ten i).awaits = false ∧ s1.attemptOf
      i f = .opened ∧ tField f 0 4 = 2 ∧ target = true ∧ s1.chipKids i = []) ∧
    (∃ (s : State) (f : Rx) (i : Fin 64), let s1 := (s.at_ f.time); frameGood s f 0x10 i ∧ f.len = 0 ∧ 2 ≤ tField f 0 4
      ∧ tField f 0 4 ≤ 3 ∧ tField f 4 60 = 0 ∧ ((s.ten i).awaits = true ∨ (s.at_ f.time).voteOk i f = true) ∧ (s.ten
      i).fox.self ≠ .fenced ∧ (s.ten i).awaits = false ∧ s1.attemptOf i f = .committed) ∧
    (∃ (s : State) (f : Rx) (i : Fin 64) (r : Byte), let s1 := (s.at_ f.time); frameGood s f 0x10 i ∧ f.len = 0 ∧ 2 ≤
      tField f 0 4 ∧ tField f 0 4 ≤ 3 ∧ tField f 4 60 = 0 ∧ ((s.ten i).awaits = true ∨ (s.at_ f.time).voteOk i f =
      true) ∧ (s.ten i).fox.self ≠ .fenced ∧ (s.ten i).awaits = false ∧ s1.attemptOf i f = .aborted r) ∧
    (∃ (s : State) (f : Rx), f.src.chip ≠ s.self.chip) ∧
    (∃ (s : State) (f : Rx) (level : Nat), f.src.chip = s.self.chip ∧ level = 2) ∧
    (∃ (s : State) (f : Rx) (level : Nat), f.src.chip = s.self.chip ∧ level ≠ 2) ∧
    (∃ (s : State) (f : Rx) (i : Fin 64), let s1 := (s.at_ f.time);
      let other : Prop := (((s.ten i).awaits = true ∨ s1.attemptOf i f = .opened) ∧ tField f 0 24 ≠ (s.ten i).commit.tree.members);
      frameGood s f 0x12 i ∧ f.len = 0 ∧ tField f 24 4 ≤ 3 ∧ tField f 28 36 = 0 ∧ (s.at_ f.time).decideOk i f = true ∧
      (¬ other)) ∧
    (∃ (s : State) (f : Rx) (i : Fin 64), let s1 := (s.at_ f.time);
      let other : Prop := (((s.ten i).awaits = true ∨ s1.attemptOf i f = .opened) ∧ tField f 0 24 ≠ (s.ten i).commit.tree.members);
      frameGood s f 0x12 i ∧ f.len = 0 ∧ tField f 24 4 ≤ 3 ∧ tField f 28 36 = 0 ∧ (s.at_ f.time).decideOk i f = true ∧
      other) ∧
    (∃ (s : State) (f : Rx) (i : Fin 64), let s1 := (s.at_ f.time); let echo := (s1.fromChild i f (tField f 8 4));
      frameGood s f 0x13 i ∧ f.len = 0 ∧ reasonOk (tField f 0 8) = true ∧ tField f 8 4 ≤ 3 ∧ tField f 13 51 = 0 ∧
      tField f 12 1 = 1 ∧ s1.abortOk i f = true ∧ (echo = false ∨ (s.ten i).commit.jobM ≠ .solicit)) ∧
    (∃ (s : State) (f : Rx) (i : Fin 64), let s1 := (s.at_ f.time); let echo := (s1.fromChild i f (tField f 8 4));
      frameGood s f 0x13 i ∧ f.len = 0 ∧ reasonOk (tField f 0 8) = true ∧ tField f 8 4 ≤ 3 ∧ tField f 13 51 = 0 ∧
      tField f 12 1 = 1 ∧ s1.abortOk i f = true ∧ echo = true ∧ (s.ten i).commit.jobM = .solicit) ∧
    (∃ (s : State) (f : Rx) (i : Fin 64), frameGood s f 0x13 i ∧ f.len = 0 ∧ reasonOk (tField f 0 8) = true ∧ tField f
      8 4 ≤ 3 ∧ tField f 13 51 = 0 ∧ tField f 12 1 = 0 ∧ (s.ten i).fox.self = .fenced) ∧
    (∃ (s : State) (f : Rx) (i : Fin 64), frameGood s f 0x13 i ∧ f.len = 0 ∧ reasonOk (tField f 0 8) = true ∧ tField f
      8 4 ≤ 3 ∧ tField f 13 51 = 0 ∧ tField f 12 1 = 0 ∧ (s.ten i).fox.self ≠ .fenced) :=
  ⟨⟨withFox (some 4) (fun f => { f with self := .fenced }), sealed { rx 0x11 0x1000001 with epoch := 2 }, 0,
      sealed_good (by decide +kernel), by decide +kernel⟩,
   ⟨withTree (some 4), sealed { rx 0x11 0x1000001 with epoch := 2 }, 0, 1, sealed_good (by decide +kernel),
     by decide +kernel⟩,
   ⟨withPod id, sealed { rx 0x11 0x2000001 with epoch := 2 }, 0, 1, sealed_good (by decide +kernel), by decide +kernel⟩,
   ⟨demo, sealed { rx 0x11 0x3000000 with epoch := 2 }, 0, sealed_good (by decide +kernel), by decide +kernel⟩,
   ⟨withFox (some 4) (fun f => { f with targets := [(2, 3)] }), sealed { rx 0x11 1 with epoch := 2, src := 3 }, 0, 1,
     sealed_good (by decide +kernel), by decide +kernel⟩,
   ⟨withTree (some 4), sealed { rx 0x11 0x1000001 with epoch := 1 }, 0, sealed_good (by decide +kernel),
     by decide +kernel⟩,
   ⟨withTree (some 4), 0, false, 1,
     { job := false, group := 1, ready := 2, targets := [], heard := [], answered := false }, by decide +kernel⟩,
   ⟨withTree (some 4), 0, false, 1,
     { job := false, group := 1, ready := 0, targets := [], heard := [], answered := false }, by decide +kernel⟩,
   ⟨withFox (some 4) (fun f => { f with self := .fenced }), sealed { rx 0x10 3 with epoch := 2, tr := 0 }, 0,
     sealed_good (by decide +kernel), by decide +kernel⟩,
   ⟨withTenant (fun t =>
     { t with commit := { t.commit with vstate := .none }, bg := { t.bg with subject := some 3 } }), sealed
     { rx 0x10 3 with epoch := 2, tr := 0 }, 0, sealed_good (by decide +kernel), by decide +kernel⟩,
   ⟨withTree (some 4), sealed { rx 0x10 3 with epoch := 2, tr := 0 }, 0, sealed_good (by decide +kernel),
     by decide +kernel⟩,
   ⟨withTree none, sealed { rx 0x10 3 with epoch := 2, tr := 0 }, 0, sealed_good (by decide +kernel),
     by decide +kernel⟩,
   ⟨demo, sealed { rx 0x10 2 with epoch := 2, tr := 0 }, 0, sealed_good (by decide +kernel), by decide +kernel⟩,
   ⟨withFox none (fun f => { f with targets := [(3, 1)] }), sealed { rx 0x10 2 with epoch := 2, tr := 0 }, 0,
     sealed_good (by decide +kernel), by decide +kernel⟩,
   ⟨demo, sealed { rx 0x10 3 with epoch := 1, tr := 0 }, 0, sealed_good (by decide +kernel), by decide +kernel⟩,
   ⟨withTree none (fun c => { c with openTry := 1, reasons := [(0, 7)] }), sealed
     { rx 0x10 3 with epoch := 2, tr := 0 }, 0, 7, sealed_good (by decide +kernel), by decide +kernel⟩,
   ⟨demo, rx 0x10 3, by decide +kernel⟩,
   ⟨demo, { rx 0x10 3 with src := 1 }, 2, by decide +kernel⟩,
   ⟨demo, { rx 0x10 3 with src := 1 }, 1, by decide +kernel⟩,
   ⟨demo, sealed { rx 0x12 0x3000000 with epoch := 2 }, 0, sealed_good (by decide +kernel), by decide +kernel⟩,
   ⟨demo, sealed { rx 0x12 0x3000005 with epoch := 2 }, 0, sealed_good (by decide +kernel), by decide +kernel⟩,
   ⟨demo, sealed { rx 0x13 0x1301 with epoch := 2 }, 0, sealed_good (by decide +kernel), by decide +kernel⟩,
   ⟨withPod (fun c => { c with jobM := .solicit }), sealed { rx 0x13 0x1201 with epoch := 2 }, 0, sealed_good
     (by decide +kernel), by decide +kernel⟩,
   ⟨withFox (some 4) (fun f => { f with self := .fenced }), sealed (rx 0x13 0x0310), 0, sealed_good
     (by decide +kernel), by decide +kernel⟩,
   ⟨demo, sealed (rx 0x13 0x0310), 0, sealed_good (by decide +kernel), by decide +kernel⟩⟩

/-- States that meet the hypotheses of `DecisionTakenByMember`, a clause at a time. -/
theorem witness_DecisionTakenByMember :
    (∃ (s : State) (i : Fin 64) (e : Nat) (tr : BitVec 7),
      let s1 := (((s.relay i (.commit e tr) false).noteLates i).updCommit i CommitS.cleared);
      let v := ((((s.relay i (.commit e tr) false).noteLates i).ten i).commit.vstate); (s.ten i).fox.self ≠ .fenced ∧
      (s.ten i).awaits = false ∧ (s.ten i).commit.vstate ≠ .none ∧ s.isJobManager i = false ∧ e = (s.ten
      i).commit.openEpoch ∧ tr = (s.ten i).commit.openTry ∧ s1.leaver i = false ∧ s1.follower i = false ∧ v ≠ .ready) ∧
    (∃ (s : State) (i : Fin 64) (e : Nat) (tr : BitVec 7),
      let s1 := (((s.relay i (.commit e tr) false).noteLates i).updCommit i CommitS.cleared);
      let v := ((((s.relay i (.commit e tr) false).noteLates i).ten i).commit.vstate);
      let s2 := (((s1.applyCommit i).noteLimit i).badgerCommit i); (s.ten i).fox.self ≠ .fenced ∧ (s.ten i).awaits =
      false ∧ (s.ten i).commit.vstate ≠ .none ∧ s.isJobManager i = false ∧ e = (s.ten i).commit.openEpoch ∧ tr = (s.ten
      i).commit.openTry ∧ s1.leaver i = false ∧ s1.follower i = false ∧ v = .ready ∧ (s1.ten i).rs.sealing = false ∧
      (s2.ten i).rs.state ≠ .moving) ∧
    (∃ (s : State) (i : Fin 64) (e : Nat) (tr : BitVec 7),
      let s1 := (((s.relay i (.commit e tr) false).noteLates i).updCommit i CommitS.cleared);
      let v := ((((s.relay i (.commit e tr) false).noteLates i).ten i).commit.vstate);
      let s2 := (((s1.applyCommit i).noteLimit i).badgerCommit i); (s.ten i).fox.self ≠ .fenced ∧ (s.ten i).awaits =
      false ∧ (s.ten i).commit.vstate ≠ .none ∧ s.isJobManager i = false ∧ e = (s.ten i).commit.openEpoch ∧ tr = (s.ten
      i).commit.openTry ∧ s1.leaver i = false ∧ s1.follower i = false ∧ v = .ready ∧ (s1.ten i).rs.sealing = false ∧
      (s2.ten i).rs.state = .moving) ∧
    (∃ (s : State) (i : Fin 64) (e : Nat) (tr : BitVec 7),
      let s1 := (((s.relay i (.commit e tr) false).noteLates i).updCommit i CommitS.cleared);
      let v := ((((s.relay i (.commit e tr) false).noteLates i).ten i).commit.vstate); (s.ten i).fox.self ≠ .fenced ∧
      (s.ten i).awaits = false ∧ (s.ten i).commit.vstate ≠ .none ∧ s.isJobManager i = false ∧ e = (s.ten
      i).commit.openEpoch ∧ tr = (s.ten i).commit.openTry ∧ s1.leaver i = false ∧ s1.follower i = false ∧ v = .ready ∧
      (s1.ten i).rs.sealing = true) ∧
    (∃ (s : State) (i : Fin 64) (e : Nat) (tr : BitVec 7), (s.ten i).fox.self ≠ .fenced ∧ (s.ten i).awaits = false ∧
      (s.ten i).commit.vstate ≠ .none ∧ s.isJobManager i = false ∧ e = (s.ten i).commit.committed ∧ e ≠ (s.ten
      i).commit.openEpoch ∧ tr = (s.ten i).commit.committedTry) ∧
    (∃ (s : State) (i : Fin 64) (e : Nat) (tr : BitVec 7) (r : Byte),
      let s1 := ((s.relay i (.abort e tr r) false).updCommit i CommitS.cleared); (s.ten i).fox.self ≠ .fenced ∧ (s.ten
      i).awaits = false ∧ (s.ten i).commit.vstate ≠ .none ∧ s.isJobManager i = false ∧ e = (s.ten i).commit.openEpoch ∧
      tr = (s.ten i).commit.openTry ∧ s1.follower i = false ∧ (s1.ten i).rs.sealing = false) ∧
    (∃ (s : State) (i : Fin 64) (e : Nat) (tr : BitVec 7) (r : Byte),
      let s1 := ((s.relay i (.abort e tr r) false).updCommit i CommitS.cleared); (s.ten i).fox.self ≠ .fenced ∧ (s.ten
      i).awaits = false ∧ (s.ten i).commit.vstate ≠ .none ∧ s.isJobManager i = false ∧ e = (s.ten i).commit.openEpoch ∧
      tr = (s.ten i).commit.openTry ∧ s1.follower i = false ∧ (s1.ten i).rs.sealing = true) ∧
    (∃ (s : State) (i : Fin 64) (e : Nat) (tr : BitVec 7), (s.ten i).fox.self ≠ .fenced ∧ (s.ten i).awaits = false ∧
      (s.ten i).commit.vstate ≠ .none ∧ s.isJobManager i = false ∧ e = (s.ten i).commit.openEpoch ∧ tr + 1 = (s.ten
      i).commit.openTry) ∧
    (∃ (s : State) (i : Fin 64) (e : Nat), (s.ten i).fox.self ≠ .fenced ∧ (s.ten i).awaits = false ∧ (s.ten
      i).commit.vstate ≠ .none ∧ s.isJobManager i = false ∧ e ≠ (s.ten i).commit.openEpoch ∧ e ≤ (s.ten
      i).commit.committed) :=
  ⟨⟨demo, 0, 2, 0, by decide +kernel⟩,
   ⟨withTree none (fun c => { c with vstate := .ready }), 0, 2, 0, by decide +kernel⟩,
   ⟨withTenant (fun t =>
     { t with commit := { t.commit with vstate := .ready }, rs := { t.rs with state := .armed, at_ := 2, armGen := 1 } }),
     0, 2, 0, by decide +kernel⟩,
   ⟨withTenant (fun t =>
     { t with commit := { t.commit with vstate := .ready }, rs := { t.rs with state := .sealing, new_ := true } }), 0,
     2, 0, by decide +kernel⟩,
   ⟨demo, 0, 1, 0, by decide +kernel⟩,
   ⟨demo, 0, 2, 0, 1, by decide +kernel⟩,
   ⟨withTenant (fun t =>
     { t with commit := { t.commit with vstate := .open_ }, rs := { t.rs with state := .sealing, new_ := true } }), 0,
     2, 0, 1, by decide +kernel⟩,
   ⟨withTree none (fun c => { c with openTry := 1 }), 0, 2, 0, by decide +kernel⟩,
   ⟨demo, 0, 1, by decide +kernel⟩⟩

/-- States that meet the hypotheses of `VoteRowsComplete`, a clause at a time. -/
theorem witness_VoteRowsComplete :
    (∃ (s : State) (i : Fin 64),
      let go : Prop := (s.portsUp = true ∧ (s.ten i).env ≠ none ∧ s.readyNow i = true ∧ s.commits i = true); go) ∧
    (∃ (s : State) (i : Fin 64),
      let go : Prop := (s.portsUp = true ∧ (s.ten i).env ≠ none ∧ s.readyNow i = true ∧ s.commits i = true); (¬ go)) ∧
    (∃ (i : Fin 64) (j : Fin 64), j ≠ i) ∧
    (∃ (s : State) (i : Fin 64), (s.portsUp = false ∨ (s.ten i).env = none ∨ (s.ten i).fox.self = .fenced ∨ s.mayInject
      = false)) ∧
    (∃ (s : State) (i : Fin 64), let c := ((s.ten i).commit); s.portsUp = true ∧ (s.ten i).env ≠ none ∧ (s.ten
      i).fox.self ≠ .fenced ∧ s.mayInject = true ∧ s.isPodManager i = true ∧ c.podM = .sent) ∧
    (∃ (s : State) (i : Fin 64), let c := ((s.ten i).commit); s.portsUp = true ∧ (s.ten i).env ≠ none ∧ (s.ten
      i).fox.self ≠ .fenced ∧ s.mayInject = true ∧ (s.isPodManager i = false ∨ c.podM ≠ .sent)) ∧
    (∃ (s : State) (i : Fin 64), let c := ((s.ten i).commit); s.portsUp = true ∧ (s.ten i).env ≠ none ∧ (s.ten
      i).fox.self ≠ .fenced ∧ s.mayInject = true ∧ s.isChipManager = true ∧ c.chipM = .sent) ∧
    (∃ (s : State) (i : Fin 64), let c := ((s.ten i).commit); s.portsUp = true ∧ (s.ten i).env ≠ none ∧ (s.ten
      i).fox.self ≠ .fenced ∧ s.mayInject = true ∧ (s.isChipManager = false ∨ c.chipM ≠ .sent)) ∧
    (∃ (s : State) (i : Fin 64), let c := ((s.ten i).commit); s.portsUp = true ∧ (s.ten i).env ≠ none ∧ (s.ten
      i).fox.self ≠ .fenced ∧ s.mayInject = true ∧ c.podM ≠ .solicit ∧ c.jobM ≠ .solicit) ∧
    (∃ (s : State) (i : Fin 64), let c := ((s.ten i).commit); s.portsUp = true ∧ (s.ten i).env ≠ none ∧ (s.ten
      i).fox.self ≠ .fenced ∧ s.mayInject = true ∧ c.podM = .solicit ∧ c.jobM ≠ .solicit) ∧
    (∃ (s : State) (i : Fin 64), let c := ((s.ten i).commit); s.portsUp = true ∧ (s.ten i).env ≠ none ∧ (s.ten
      i).fox.self ≠ .fenced ∧ s.mayInject = true ∧ c.podM ≠ .solicit ∧ c.jobM = .solicit) ∧
    (∃ (s : State) (i : Fin 64), let c := ((s.ten i).commit); s.portsUp = true ∧ (s.ten i).env ≠ none ∧ (s.ten
      i).fox.self ≠ .fenced ∧ s.mayInject = true ∧ c.podM = .solicit ∧ c.jobM = .solicit) ∧
    (∃ (s : State) (i : Fin 64) (r : Asked), let c := ((s.ten i).commit); s.portsUp = true ∧ (s.ten i).env ≠ none ∧
      (s.ten i).fox.self ≠ .fenced ∧ s.mayInject = true ∧ c.vstate = .withheld ∧ c.nextAsked = some r) ∧
    (∃ (s : State) (i : Fin 64), let c := ((s.ten i).commit); s.portsUp = true ∧ (s.ten i).env ≠ none ∧ (s.ten
      i).fox.self ≠ .fenced ∧ s.mayInject = true ∧ (c.vstate ≠ .withheld ∨ c.nextAsked = none)) ∧
    (∃ (s : State) (i : Fin 64), s.portsUp = true ∧ (s.ten i).env ≠ none ∧ (s.ten i).fox.self ≠ .fenced ∧ s.mayInject =
      true ∧ (s.ten i).bg.asking = true) ∧
    (∃ (s : State) (i : Fin 64), s.portsUp = true ∧ (s.ten i).env ≠ none ∧ (s.ten i).fox.self ≠ .fenced ∧ s.mayInject =
      true ∧ (s.ten i).bg.asking = false) ∧
    (∃ (s : State) (i : Fin 64) (e : BitVec 48) (tr : BitVec 7), let c := ((s.ten i).commit);
      let go : Prop := (s.isJobManager i = true ∧ s.commits i = true ∧ s.attemptStands i = true ∧ c.abortWait ≠ 0 ∧ s.mayInject = true ∧ e.toNat = c.openEpoch ∧ tr = c.openTry);
      go ∧ c.jobM ≠ .solicit) ∧
    (∃ (s : State) (i : Fin 64) (e : BitVec 48) (tr : BitVec 7), let c := ((s.ten i).commit);
      let go : Prop := (s.isJobManager i = true ∧ s.commits i = true ∧ s.attemptStands i = true ∧ c.abortWait ≠ 0 ∧ s.mayInject = true ∧ e.toNat = c.openEpoch ∧ tr = c.openTry);
      go ∧ c.jobM = .solicit) ∧
    (∃ (s : State) (i : Fin 64) (e : BitVec 48) (tr : BitVec 7), let c := ((s.ten i).commit);
      let go : Prop := (s.isJobManager i = true ∧ s.commits i = true ∧ s.attemptStands i = true ∧ c.abortWait ≠ 0 ∧ s.mayInject = true ∧ e.toNat = c.openEpoch ∧ tr = c.openTry);
      (¬ go)) ∧
    (∃ (s : State) (a : Acc), let i := (s.selected);
      let taken : Prop := (s.windowOpen 0x2818 = true ∧ s.ownTag a = true ∧ s.isJobManager i = true); s.portsUp = true
      ∧ (¬ taken)) ∧
    (∃ (s : State) (a : Acc) (b : Bool), let i := (s.selected);
      let taken : Prop := (s.windowOpen 0x2818 = true ∧ s.ownTag a = true ∧ s.isJobManager i = true);
      let s1 := ((s.ok a.id).updCommit i fun c => { c with autoAbort := b }); s.portsUp = true ∧ taken ∧ s1.commits i =
      true ∧ s1.attemptStands i = true ∧ (s1.ten i).commit.jobM ≠ .solicit) ∧
    (∃ (s : State) (a : Acc) (b : Bool), let i := (s.selected);
      let taken : Prop := (s.windowOpen 0x2818 = true ∧ s.ownTag a = true ∧ s.isJobManager i = true);
      let s1 := ((s.ok a.id).updCommit i fun c => { c with autoAbort := b }); s.portsUp = true ∧ taken ∧ s1.commits i =
      true ∧ s1.attemptStands i = true ∧ (s1.ten i).commit.jobM = .solicit) ∧
    (∃ (s : State) (a : Acc) (b : Bool), let i := (s.selected);
      let taken : Prop := (s.windowOpen 0x2818 = true ∧ s.ownTag a = true ∧ s.isJobManager i = true);
      let s1 := ((s.ok a.id).updCommit i fun c => { c with autoAbort := b }); s.portsUp = true ∧ taken ∧ (s1.commits i
      = false ∨ s1.attemptStands i = false)) :=
  ⟨⟨swept, 0, by decide +kernel⟩,
   ⟨demo, 0, by decide +kernel⟩,
   ⟨0, 1, by decide +kernel⟩,
   ⟨State.reset, 0, by decide +kernel⟩,
   ⟨withTree (some 4) (fun c => { c with podM := .sent }), 0, by decide +kernel⟩,
   ⟨demo, 0, by decide +kernel⟩,
   ⟨withTree none (fun c => { c with chipM := .sent }), 0, by decide +kernel⟩,
   ⟨demo, 0, by decide +kernel⟩,
   ⟨demo, 0, by decide +kernel⟩,
   ⟨withTree (some 4) (fun c => { c with podM := .solicit }), 0, by decide +kernel⟩,
   ⟨withTree (some 0) (fun c => { c with jobM := .solicit }), 0, by decide +kernel⟩,
   ⟨withTree (some 0) (fun c => { c with podM := .solicit, jobM := .solicit }), 0, by decide +kernel⟩,
   ⟨withTree none (fun c => { c with vstate := .withheld, asked := [⟨1, 0, 0⟩] }), 0, ⟨1, 0, 0⟩, by decide +kernel⟩,
   ⟨demo, 0, by decide +kernel⟩,
   ⟨withTenant (fun t => { t with bg := { t.bg with asking := true } }), 0, by decide +kernel⟩,
   ⟨demo, 0, by decide +kernel⟩,
   ⟨withTree (some 0) (fun c => { c with abortWait := 1 }), 0, 2, 0, by decide +kernel⟩,
   ⟨withTree (some 0) (fun c => { c with abortWait := 1, jobM := .solicit }), 0, 2, 0, by decide +kernel⟩,
   ⟨demo, 0, 2, 0, by decide +kernel⟩,
   ⟨demo, sys, by decide +kernel⟩,
   ⟨withTree (some 0), sys, false, by decide +kernel⟩,
   ⟨withTree (some 0) (fun c => { c with jobM := .solicit }), sys, false, by decide +kernel⟩,
   ⟨withTree (some 0) (fun c => { c with isOpen := false }), sys, true, by decide +kernel⟩⟩

/-- States that meet the hypotheses of `CommitAdvancesEpochByOne`, a clause at a time. -/
theorem witness_CommitAdvancesEpochByOne :
    ∃ (i j : Fin 64), j ≠ i :=
  ⟨0, 63, by decide +kernel⟩

/-- States that meet the hypotheses of `VoteIsNeverWithdrawn`, a clause at a time. -/
theorem witness_VoteIsNeverWithdrawn :
    (∃ (s : State) (i : Fin 64), (s.ten i).commit.vstate = .ready) ∧
    (∃ (s : State) (i : Fin 64) (j : Fin 64), (s.ten i).commit.vstate = .open_ ∧ j ≠ i) :=
  ⟨⟨withTree none (fun c => { c with vstate := .ready }), 0, by decide +kernel⟩,
   ⟨demo, 0, 63, by decide +kernel⟩⟩

/-- States that meet the hypotheses of `HeartbeatRowsComplete`, a clause at a time. -/
theorem witness_HeartbeatRowsComplete :
    (∃ (s : State) (i : Fin 64), (s.configured = false ∨ s.beats i = false)) ∧
    (∃ (s : State) (i : Fin 64), s.configured = true ∧ s.beats i = true) ∧
    (∃ (s : State) (f : Rx) (i : Fin 64), frameGood s f 0x20 i ∧ tField f 32 32 = 0 ∧ f.len = 8 ∧ 2 ^ 38 ≤ leNat
      f.payload) ∧
    (∃ (s : State) (f : Rx) (i : Fin 64), let h := (BitVec.ofNat 32 (tField f 0 32));
      let mine (w : Watch) : Bool := (w.of i f.src && (!w.heard || hseqNewer h w.hseq));
      let strange : Prop := (∃ w ∈ s.watch, mine w = true ∧ s.placeDiffers w (BitVec.ofNat 64 (leNat f.payload)) = true);
      frameGood s f 0x20 i ∧ tField f 32 32 = 0 ∧ f.len = 8 ∧ leNat f.payload < 2 ^ 38 ∧ strange) ∧
    (∃ (s : State) (f : Rx) (i : Fin 64), let h := (BitVec.ofNat 32 (tField f 0 32));
      let mine (w : Watch) : Bool := (w.of i f.src && (!w.heard || hseqNewer h w.hseq));
      let strange : Prop := (∃ w ∈ s.watch, mine w = true ∧ s.placeDiffers w (BitVec.ofNat 64 (leNat f.payload)) = true);
      frameGood s f 0x20 i ∧ tField f 32 32 = 0 ∧ f.len = 8 ∧ leNat f.payload < 2 ^ 38 ∧ (¬ strange)) ∧
    (∃ (w : Watch), (w.status = .confirmed ∨ w.status = .lost)) ∧
    (∃ (w : Watch), w.status = .replacing) ∧
    (∃ (w : Watch), (w.status = .present ∨ w.status = .suspect ∨ w.status = .unseen)) :=
  ⟨⟨State.reset, 0, by decide +kernel⟩,
   ⟨demo, 0, by decide +kernel⟩,
   ⟨demo, sealed (rx 0x20 1 (leBytes 8 (2 ^ 38))), 0, sealed_good (by decide +kernel), by decide +kernel⟩,
   ⟨watching 2 .present, sealed (rx 0x20 1 (1 :: List.replicate 7 0)), 0, sealed_good (by decide +kernel),
     by decide +kernel⟩,
   ⟨watching 2 .suspect, sealed (rx 0x20 1 (List.replicate 8 0)), 0, sealed_good (by decide +kernel),
     by decide +kernel⟩,
   ⟨demoWatch 2 .confirmed, by decide +kernel⟩,
   ⟨demoWatch 2 .replacing, by decide +kernel⟩,
   ⟨demoWatch 2 .unseen, by decide +kernel⟩⟩

/-- States that meet the hypotheses of `QueryRowsComplete`, a clause at a time. -/
theorem witness_QueryRowsComplete :
    (∃ (s : State) (f : Rx) (i : Fin 64), frameGood s f 0x21 i ∧ tField f 57 7 = 0 ∧ f.len = 0 ∧ f.epoch = 0 ∧ ((s.at_
      f.time).ten i).fox.gen.toNat < tField f 0 32) ∧
    (∃ (s : State) (f : Rx) (i : Fin 64), frameGood s f 0x21 i ∧ tField f 57 7 = 0 ∧ f.len = 0 ∧ f.epoch = 0 ∧ tField f
      0 32 ≤ ((s.at_ f.time).ten i).fox.gen.toNat) ∧
    (∃ (s : State) (f : Rx) (i : Fin 64), let x := ((s.ten i).fox); let us := (updatesAfter x.log f.gen); f.crc =
      frameCrc f ∧ s.portsUp = true ∧ (s.at_ f.time).takesFrame f = true ∧ f.eiErr = false ∧ f.ver = 3 ∧ f.typ = 0x70 ∧
      f.mark = false ∧ f.elided = false ∧ f.rsv1 = false ∧ f.rsv2 = 0 ∧ f.len = 8 ∧ f.payload.length = 8 ∧ queryOk f 1
      [0] = true ∧ (s.at_ f.time).tenantOf f.tenant = some i ∧ f.gen < x.gen ∧ us = []) ∧
    (∃ (s : State) (f : Rx) (i : Fin 64), let x := ((s.ten i).fox); let us := (updatesAfter x.log f.gen); f.crc =
      frameCrc f ∧ s.portsUp = true ∧ (s.at_ f.time).takesFrame f = true ∧ f.eiErr = false ∧ f.ver = 3 ∧ f.typ = 0x70 ∧
      f.mark = false ∧ f.elided = false ∧ f.rsv1 = false ∧ f.rsv2 = 0 ∧ f.len = 8 ∧ f.payload.length = 8 ∧ queryOk f 1
      [0] = true ∧ (s.at_ f.time).tenantOf f.tenant = some i ∧ f.gen < x.gen ∧ us ≠ []) ∧
    (∃ (s : State) (f : Rx) (i : Fin 64), let x := ((s.ten i).fox); f.crc = frameCrc f ∧ s.portsUp = true ∧ (s.at_
      f.time).takesFrame f = true ∧ f.eiErr = false ∧ f.ver = 3 ∧ f.typ = 0x70 ∧ f.mark = false ∧ f.elided = false ∧
      f.rsv1 = false ∧ f.rsv2 = 0 ∧ f.len = 8 ∧ f.payload.length = 8 ∧ queryOk f 1 [0] = true ∧ (s.at_ f.time).tenantOf
      f.tenant = some i ∧ (¬ f.gen < x.gen)) ∧
    (∃ (s : State) (f : Rx) (i : Fin 64), let heard := (s.watch.filter fun w => w.of i (querySubject f) && w.heard);
      let present : Prop := (∃ w ∈ s.watch, w.of i (querySubject f) = true ∧ w.status = .present); frameGood s f 0x70 i
      ∧ queryOk f 2 [0] = true ∧ f.len = 8 ∧ heard = [] ∧ (¬ present ∨ queryHseq f ≠ 0xFFFFFFFF)) ∧
    (∃ (s : State) (f : Rx) (i : Fin 64), let heard := (s.watch.filter fun w => w.of i (querySubject f) && w.heard);
      let present : Prop := (∃ w ∈ s.watch, w.of i (querySubject f) = true ∧ w.status = .present); frameGood s f 0x70 i
      ∧ queryOk f 2 [0] = true ∧ f.len = 8 ∧ heard = [] ∧ present ∧ queryHseq f = 0xFFFFFFFF) ∧
    (∃ (s : State) (f : Rx) (i : Fin 64) (w : Watch),
      let heard := (s.watch.filter fun w => w.of i (querySubject f) && w.heard); frameGood s f 0x70 i ∧ queryOk f 2 [0]
      = true ∧ f.len = 8 ∧ heard = [w] ∧ (queryHseq f = 0xFFFFFFFF ∨ hseqNewer w.hseq (queryHseq f) = true)) ∧
    (∃ (s : State) (f : Rx) (i : Fin 64) (w : Watch),
      let heard := (s.watch.filter fun w => w.of i (querySubject f) && w.heard); frameGood s f 0x70 i ∧ queryOk f 2 [0]
      = true ∧ f.len = 8 ∧ heard = [w] ∧ queryHseq f ≠ 0xFFFFFFFF ∧ hseqNewer w.hseq (queryHseq f) = false) ∧
    (∃ (s : State) (f : Rx) (i : Fin 64), frameGood s f 0x70 i ∧ queryOk f 3 [1, 2] = true ∧ f.len = 8) ∧
    (∃ (s : State) (f : Rx) (i : Fin 64) (j : Nat) (w : Watch) (r : Round), s.watch[j]? = some w ∧ w.round = some r ∧
      w.of i (querySubject f) = true ∧ w.status = .suspect ∧ f.src ∈ r.asked ∧ tField f 12 4 = 1) ∧
    (∃ (s : State) (f : Rx) (i : Fin 64) (j : Nat) (w : Watch) (r : Round), ((∀ a ∈ r.asked, a = f.src ∨ a ∈
      r.missing)) ∧ s.watch[j]? = some w ∧ w.round = some r ∧ w.of i (querySubject f) = true ∧ w.status = .suspect ∧
      f.src ∈ r.asked ∧ tField f 12 4 ≠ 1) ∧
    (∃ (s : State) (f : Rx) (i : Fin 64) (j : Nat) (w : Watch) (r : Round), (∃ a ∈ r.asked, a ≠ f.src ∧ a ∉ r.missing)
      ∧ s.watch[j]? = some w ∧ w.round = some r ∧ w.of i (querySubject f) = true ∧ w.status = .suspect ∧ f.src ∈
      r.asked ∧ tField f 12 4 ≠ 1) ∧
    (∃ (s : State) (f : Rx) (i : Fin 64) (j : Nat) (w : Watch), (w.round = none ∨ w.of i (querySubject f) = false ∨
      w.status ≠ .suspect ∨ (∀ r : Round, w.round = some r → f.src ∉ r.asked)) ∧ s.watch[j]? = some w) ∧
    (∃ (s : State) (f : Rx) (i : Fin 64), let s1 := (s.at_ f.time); frameGood s f 0x70 i ∧ queryOk f 4 [1, 2, 3, 4, 5]
      = true ∧ f.len = 8 ∧ s1.leads i = false) ∧
    (∃ (s : State) (f : Rx) (i : Fin 64), let s1 := (s.at_ f.time);
      let r : Report := ({ subject := querySubject f, since := s1.time.now, imask := BitVec.ofNat 12 (tField f 16 12), cause := BitVec.ofNat 4 (tField f 12 4) });
      let named := (maskAddrs r.subject r.imask); let fox := ((s.ten i).fox); frameGood s f 0x70 i ∧ (∃ a ∈ named,
      fox.isLost a = false) ∧ queryOk f 4 [1, 2, 3, 4, 5] = true ∧ f.len = 8 ∧ s1.leads i = true ∧ (∃ q ∈ fox.queue,
      q.subject = r.subject ∧ q.imask = r.imask ∧ q.cause = r.cause)) ∧
    (∃ (s : State) (f : Rx) (i : Fin 64), let s1 := (s.at_ f.time);
      let r : Report := ({ subject := querySubject f, since := s1.time.now, imask := BitVec.ofNat 12 (tField f 16 12), cause := BitVec.ofNat 4 (tField f 12 4) });
      let named := (maskAddrs r.subject r.imask); let fox := ((s.ten i).fox); frameGood s f 0x70 i ∧ (∃ a ∈ named,
      fox.isLost a = false) ∧ queryOk f 4 [1, 2, 3, 4, 5] = true ∧ f.len = 8 ∧ s1.leads i = true ∧ (∀ q ∈ fox.queue, ¬
      (q.subject = r.subject ∧ q.imask = r.imask ∧ q.cause = r.cause))) ∧
    (∃ (s : State) (f : Rx) (i : Fin 64), let s1 := (s.at_ f.time);
      let r : Report := ({ subject := querySubject f, since := s1.time.now, imask := BitVec.ofNat 12 (tField f 16 12), cause := BitVec.ofNat 4 (tField f 12 4) });
      let named := (maskAddrs r.subject r.imask); let fox := ((s.ten i).fox); frameGood s f 0x70 i ∧ (∀ a ∈ named,
      fox.isLost a = true) ∧ queryOk f 4 [1, 2, 3, 4, 5] = true ∧ f.len = 8 ∧ s1.leads i = true ∧ r.cause = 3) ∧
    (∃ (s : State) (f : Rx) (i : Fin 64), let s1 := (s.at_ f.time);
      let r : Report := ({ subject := querySubject f, since := s1.time.now, imask := BitVec.ofNat 12 (tField f 16 12), cause := BitVec.ofNat 4 (tField f 12 4) });
      let named := (maskAddrs r.subject r.imask); let fox := ((s.ten i).fox); frameGood s f 0x70 i ∧ (∀ a ∈ named,
      fox.isLost a = true) ∧ queryOk f 4 [1, 2, 3, 4, 5] = true ∧ f.len = 8 ∧ s1.leads i = true ∧ r.cause ≠ 3) :=
  ⟨⟨demo, sealed (rx 0x21 2), 0, sealed_good (by decide +kernel), by decide +kernel⟩,
   ⟨demo, sealed (rx 0x21 1), 0, sealed_good (by decide +kernel), by decide +kernel⟩,
   ⟨demo, sealed { rx 0x70 0x103 (List.replicate 8 0) with gen := 0 }, 0, sealed_crc _, by decide +kernel⟩,
   ⟨withTenant (fun t => { t with fox := { t.fox with log := [demoUpdate 1] } }), sealed
     { rx 0x70 0x103 (List.replicate 8 0) with gen := 0 }, 0, sealed_crc _, by decide +kernel⟩,
   ⟨demo, sealed { rx 0x70 0x103 (List.replicate 8 0) with gen := 1 }, 0, sealed_crc _, by decide +kernel⟩,
   ⟨demo, sealed (rx 0x70 0x203 (3 :: List.replicate 7 0)), 0, sealed_good (by decide +kernel), by decide +kernel⟩,
   ⟨watching 3 .present false, sealed (rx 0x70 0x203 ([3, 0, 0, 0] ++ List.replicate 4 0xFF)), 0, sealed_good
     (by decide +kernel), by decide +kernel⟩,
   ⟨watching 3 .suspect, sealed (rx 0x70 0x203 ([3, 0, 0, 0] ++ List.replicate 4 0xFF)), 0, demoWatch 3 .suspect,
     sealed_good (by decide +kernel), by decide +kernel⟩,
   ⟨watching 3 .suspect, sealed (rx 0x70 0x203 (3 :: List.replicate 7 0)), 0, demoWatch 3 .suspect, sealed_good
     (by decide +kernel), by decide +kernel⟩,
   ⟨demo, sealed (rx 0x70 0x1303 (3 :: List.replicate 7 0)), 0, sealed_good (by decide +kernel), by decide +kernel⟩,
   ⟨watching 3 .suspect true (some ⟨[2], [], 0, 0⟩), sealed (rx 0x70 0x1303 (3 :: List.replicate 7 0)), 0, 0, demoWatch
     3 .suspect true (some ⟨[2], [], 0, 0⟩), ⟨[2], [], 0, 0⟩, by decide +kernel⟩,
   ⟨watching 3 .suspect true (some ⟨[2], [], 0, 0⟩), sealed (rx 0x70 0x2303 (3 :: List.replicate 7 0)), 0, 0, demoWatch
     3 .suspect true (some ⟨[2], [], 0, 0⟩), ⟨[2], [], 0, 0⟩, (fun a h => Or.inl (List.mem_singleton.mp h)),
     by decide +kernel⟩,
   ⟨watching 3 .suspect true (some ⟨[2, 4], [], 0, 0⟩), sealed (rx 0x70 0x2303 (3 :: List.replicate 7 0)), 0, 0,
     demoWatch 3 .suspect true (some ⟨[2, 4], [], 0, 0⟩), ⟨[2, 4], [], 0, 0⟩, ⟨4, by decide +kernel, by decide +kernel,
     by decide +kernel⟩, by decide +kernel⟩,
   ⟨watching 3 .suspect true none, sealed (rx 0x70 0x1303 (3 :: List.replicate 7 0)), 0, 0, demoWatch 3 .suspect true
     none, Or.inl (by decide +kernel), by decide +kernel⟩,
   ⟨demo, sealed (rx 0x70 0x1403 (3 :: List.replicate 7 0)), 0, sealed_good (by decide +kernel), by decide +kernel⟩,
   ⟨withFox (some 0) (fun f => { f with queue := [{ subject := 3, since := 0, imask := 1, cause := 1 }] }), sealed (rx
     0x70 0x11403 (3 :: List.replicate 7 0)), 0, sealed_good (by decide +kernel), ⟨3, by decide +kernel,
     by decide +kernel⟩, by decide +kernel⟩,
   ⟨withTree (some 0), sealed (rx 0x70 0x11403 (3 :: List.replicate 7 0)), 0, sealed_good (by decide +kernel), ⟨3,
     by decide +kernel, by decide +kernel⟩, by decide +kernel⟩,
   ⟨withFox (some 0) (fun f => { f with lost := [3], gone := [3] }), sealed (rx 0x70 0x13403 (3 :: List.replicate 7
     0)), 0, sealed_good (by decide +kernel), (List.all_eq_true.mp (by decide +kernel)), by decide +kernel⟩,
   ⟨withFox (some 0) (fun f => { f with lost := [3], gone := [3] }), sealed (rx 0x70 0x11403 (3 :: List.replicate 7
     0)), 0, sealed_good (by decide +kernel), (List.all_eq_true.mp (by decide +kernel)), by decide +kernel⟩⟩

/-- States that meet the hypotheses of `SuspicionRowsComplete`, a clause at a time. -/
theorem witness_SuspicionRowsComplete :
    (∃ (s : State) (n : Nat) (w : Watch), s.watch[n]? = some w ∧ w.status = .present ∧ s.beats w.tidx = true) ∧
    (∃ (s : State) (n : Nat) (w : Watch), s.watch[n]? = some w ∧ (w.status ≠ .present ∨ s.beats w.tidx = false)) ∧
    (∃ (s : State) (n : Nat) (w : Watch), s.watch[n]? = some w ∧ w.status = .unseen ∧ s.beats w.tidx = true) ∧
    (∃ (s : State) (n : Nat) (w : Watch), s.watch[n]? = some w ∧ (w.status ≠ .unseen ∨ s.beats w.tidx = false)) ∧
    (∃ (s : State) (n : Nat) (w : Watch), s.watch[n]? = some w ∧ (w.status ≠ .suspect ∨ s.beats w.tidx = false)) ∧
    (∃ (s : State) (n : Nat) (w : Watch), s.watch[n]? = some w ∧ w.status = .suspect ∧ s.beats w.tidx = true ∧ w.round
      = none) ∧
    (∃ (s : State) (n : Nat) (w : Watch) (r : Round), s.watch[n]? = some w ∧ w.status = .suspect ∧ s.beats w.tidx =
      true ∧ w.round = some r ∧ r.missing = []) ∧
    (∃ (s : State) (n : Nat) (w : Watch) (r : Round), s.watch[n]? = some w ∧ w.status = .suspect ∧ s.beats w.tidx =
      true ∧ w.round = some r ∧ r.missing ≠ []) ∧
    (∃ (s : State) (n : Nat), s.watch[n]? = none) ∧
    (∃ (s : State) (a : Acc) (addr : Addr) (chip : Bool),
      let taken : Prop := (s.windowOpen 0x2040 = true ∧ fromSystem a = true ∧ ∃ w ∈ s.watch, w.named addr chip = true);
      s.portsUp = true ∧ (¬ taken)) ∧
    (∃ (s : State) (a : Acc) (addr : Addr) (chip : Bool),
      let taken : Prop := (s.windowOpen 0x2040 = true ∧ fromSystem a = true ∧ ∃ w ∈ s.watch, w.named addr chip = true);
      s.portsUp = true ∧ taken) ∧
    (∃ (s : State) (addr : Addr) (chip : Bool) (j : Nat) (w : Watch), s.watch[j]? = some w ∧ (w.named addr chip = false
      ∨ w.status = .confirmed ∨ w.status = .lost ∨ w.status = .replacing)) ∧
    (∃ (s : State) (addr : Addr) (chip : Bool) (j : Nat) (w : Watch), s.watch[j]? = some w ∧ w.named addr chip = true ∧
      (w.status = .present ∨ w.status = .unseen) ∧ w.heard = true ∧ (s.time.now - w.beat).toNat ≤ 1000 *
      s.cfg.glob.hbPeriod) ∧
    (∃ (s : State) (addr : Addr) (chip : Bool) (j : Nat) (w : Watch), s.watch[j]? = some w ∧ w.named addr chip = true ∧
      w.status = .suspect) ∧
    (∃ (s : State) (addr : Addr) (chip : Bool) (j : Nat) (w : Watch), s.watch[j]? = some w ∧ w.named addr chip = true ∧
      (w.status = .present ∨ w.status = .unseen) ∧ (w.heard = false ∨ 1000 * s.cfg.glob.hbPeriod < (s.time.now -
      w.beat).toNat)) :=
  ⟨⟨watching 2 .present true none, 0, demoWatch 2 .present true none, by decide +kernel⟩,
   ⟨watching 2 .lost true none, 0, demoWatch 2 .lost true none, by decide +kernel⟩,
   ⟨watching 2 .unseen true none, 0, demoWatch 2 .unseen true none, by decide +kernel⟩,
   ⟨watching 2 .lost true none, 0, demoWatch 2 .lost true none, by decide +kernel⟩,
   ⟨watching 2 .lost true none, 0, demoWatch 2 .lost true none, by decide +kernel⟩,
   ⟨watching 2 .suspect true none, 0, demoWatch 2 .suspect true none, by decide +kernel⟩,
   ⟨watching 2 .suspect true (some ⟨[], [], 1, 0⟩), 0, demoWatch 2 .suspect true (some ⟨[], [], 1, 0⟩), ⟨[], [], 1, 0⟩,
     by decide +kernel⟩,
   ⟨watching 2 .suspect true (some ⟨[3], [3], 1, 0⟩), 0, demoWatch 2 .suspect true (some ⟨[3], [3], 1, 0⟩), ⟨[3], [3],
     1, 0⟩, by decide +kernel⟩,
   ⟨demo, 0, by decide +kernel⟩,
   ⟨demo, sys, 2, false, by decide +kernel⟩,
   ⟨watching 2 .suspect, sys, 2, false, by decide +kernel⟩,
   ⟨watching 2 .lost, 2, false, 0, demoWatch 2 .lost, by decide +kernel⟩,
   ⟨watching 2 .present, 2, false, 0, demoWatch 2 .present, by decide +kernel⟩,
   ⟨watching 2 .suspect, 2, false, 0, demoWatch 2 .suspect, by decide +kernel⟩,
   ⟨watching 2 .unseen false, 2, true, 0, demoWatch 2 .unseen false, by decide +kernel⟩⟩

/-- States that meet the hypotheses of `DiscoveryRowsComplete`, a clause at a time. -/
theorem witness_DiscoveryRowsComplete :
    (∃ (s : State) (slot : Fin 16) (i : Fin 64), s.slotTenant slot.val = some i ∧ (s.slot slot.val).kind = .sett ∧
      (s.slot slot.val).st = .forming ∧ s.discovered i slot.val = false) ∧
    (∃ (s : State) (slot : Fin 16), (s.slotTenant slot.val = none ∨ (s.slot slot.val).kind ≠ .sett ∨ (s.slot
      slot.val).st ≠ .forming ∨ (∀ i : Fin 64, s.slotTenant slot.val = some i → s.discovered i slot.val = true))) ∧
    (∃ (s : State) (f : Rx) (i : Fin 64) (reply : Bool),
      let at_ (k : Nat) : Prop := (((s.settSlots i).find? fun k => (s.slot k).sett.settId.toNat == tField f 8 24) = some k);
      frameGood s f 0x70 i ∧ (∀ k : Nat, ¬ at_ k) ∧ f.len = 32 ∧ f.epoch = 0 ∧ discoverOk f (if reply then 2 else 1) =
      true) ∧
    (∃ (s : State) (f : Rx) (i : Fin 64) (reply : Bool) (k : Nat),
      let at_ (k : Nat) : Prop := (((s.settSlots i).find? fun k => (s.slot k).sett.settId.toNat == tField f 8 24) = some k);
      frameGood s f 0x70 i ∧ f.len = 32 ∧ f.epoch = 0 ∧ discoverOk f (if reply then 2 else 1) = true ∧ at_ k ∧ (s.slot
      k).rankOf f.src = none) ∧
    (∃ (s : State) (f : Rx) (i : Fin 64) (reply : Bool) (k : Nat) (own : Nat),
      let at_ (k : Nat) : Prop := (((s.settSlots i).find? fun k => (s.slot k).sett.settId.toNat == tField f 8 24) = some k);
      frameGood s f 0x70 i ∧ f.len = 32 ∧ f.epoch = 0 ∧ discoverOk f (if reply then 2 else 1) = true ∧ at_ k ∧ (s.slot
      k).rankOf f.src = some own ∧ own ≠ tField f 32 6) ∧
    (∃ (s : State) (f : Rx) (i : Fin 64) (reply : Bool) (k : Nat) (own : Nat) (x : Row),
      let at_ (k : Nat) : Prop := (((s.settSlots i).find? fun k => (s.slot k).sett.settId.toNat == tField f 8 24) = some k);
      let fits (s : State) (k : Nat) (x : Row) : Prop := (leField f.payload 0 8 = fingerprint (s.slot k).sett ∧ leField f.payload 8 8 = x.place.toNat ∧ leField f.payload 16 2 = x.feed.toNat ∧ leField f.payload 18 1 = x.plane.toNat);
      frameGood s f 0x70 i ∧ f.len = 32 ∧ f.epoch = 0 ∧ discoverOk f (if reply then 2 else 1) = true ∧ at_ k ∧ (s.slot
      k).rankOf f.src = some own ∧ own = tField f 32 6 ∧ (s.slot k).rankSt own ≠ .replacing ∧ (s.slot
      k).sett.rows[own]? = some x ∧ fits s k x) ∧
    (∃ (s : State) (f : Rx) (i : Fin 64) (reply : Bool) (k : Nat) (own : Nat) (x : Row),
      let at_ (k : Nat) : Prop := (((s.settSlots i).find? fun k => (s.slot k).sett.settId.toNat == tField f 8 24) = some k);
      let fits (s : State) (k : Nat) (x : Row) : Prop := (leField f.payload 0 8 = fingerprint (s.slot k).sett ∧ leField f.payload 8 8 = x.place.toNat ∧ leField f.payload 16 2 = x.feed.toNat ∧ leField f.payload 18 1 = x.plane.toNat);
      frameGood s f 0x70 i ∧ f.len = 32 ∧ f.epoch = 0 ∧ discoverOk f (if reply then 2 else 1) = true ∧ at_ k ∧ (s.slot
      k).rankOf f.src = some own ∧ own = tField f 32 6 ∧ (s.slot k).rankSt own ≠ .replacing ∧ (s.slot
      k).sett.rows[own]? = some x ∧ (¬ fits s k x)) ∧
    (∃ (s : State) (f : Rx) (i : Fin 64) (reply : Bool) (k : Nat) (own : Nat),
      let at_ (k : Nat) : Prop := (((s.settSlots i).find? fun k => (s.slot k).sett.settId.toNat == tField f 8 24) = some k);
      frameGood s f 0x70 i ∧ f.len = 32 ∧ f.epoch = 0 ∧ discoverOk f (if reply then 2 else 1) = true ∧ at_ k ∧ (s.slot
      k).rankOf f.src = some own ∧ own = tField f 32 6 ∧ (s.slot k).rankSt own = .replacing ∧ placedRow (s.slot
      k).sett.rows own f = none) ∧
    (∃ (s : State) (f : Rx) (i : Fin 64) (reply : Bool) (k : Nat) (own : Nat) (x : Row), let s1 := (s.at_ f.time);
      let at_ (k : Nat) : Prop := (((s.settSlots i).find? fun k => (s.slot k).sett.settId.toNat == tField f 8 24) = some k);
      let fits (s : State) (k : Nat) (x : Row) : Prop := (leField f.payload 0 8 = fingerprint (s.slot k).sett ∧ leField f.payload 8 8 = x.place.toNat ∧ leField f.payload 16 2 = x.feed.toNat ∧ leField f.payload 18 1 = x.plane.toNat);
      let s2 := (s1.updSlot k fun y => { y with sett := { y.sett with rows := y.sett.rows.set own x } }); frameGood s f
      0x70 i ∧ f.len = 32 ∧ f.epoch = 0 ∧ discoverOk f (if reply then 2 else 1) = true ∧ at_ k ∧ (s.slot k).rankOf
      f.src = some own ∧ own = tField f 32 6 ∧ (s.slot k).rankSt own = .replacing ∧ placedRow (s.slot k).sett.rows own
      f = some x ∧ fits s2 k x) ∧
    (∃ (s : State) (f : Rx) (i : Fin 64) (reply : Bool) (k : Nat) (own : Nat) (x : Row), let s1 := (s.at_ f.time);
      let at_ (k : Nat) : Prop := (((s.settSlots i).find? fun k => (s.slot k).sett.settId.toNat == tField f 8 24) = some k);
      let fits (s : State) (k : Nat) (x : Row) : Prop := (leField f.payload 0 8 = fingerprint (s.slot k).sett ∧ leField f.payload 8 8 = x.place.toNat ∧ leField f.payload 16 2 = x.feed.toNat ∧ leField f.payload 18 1 = x.plane.toNat);
      let s2 := (s1.updSlot k fun y => { y with sett := { y.sett with rows := y.sett.rows.set own x } }); frameGood s f
      0x70 i ∧ f.len = 32 ∧ f.epoch = 0 ∧ discoverOk f (if reply then 2 else 1) = true ∧ at_ k ∧ (s.slot k).rankOf
      f.src = some own ∧ own = tField f 32 6 ∧ (s.slot k).rankSt own = .replacing ∧ placedRow (s.slot k).sett.rows own
      f = some x ∧ (¬ fits s2 k x)) :=
  ⟨⟨withSlot (fun x => { x with st := .forming }), 0, 0, by decide +kernel⟩,
   ⟨demo, 0, (Or.inr (Or.inr (Or.inl (by decide +kernel))))⟩,
   ⟨demo, sealed { rx 0x70 0x201 (List.replicate 32 0) with src := 9 }, 0, false, sealed_good (by decide +kernel),
     (none_ne (by decide +kernel)), by decide +kernel⟩,
   ⟨demo, sealed { rx 0x70 0x101 (List.replicate 32 0) with src := 9 }, 0, false, 0, sealed_good (by decide +kernel),
     by decide +kernel⟩,
   ⟨demo, sealed (rx 0x70 0x102 (leBytes 8 (fingerprint demoSett) ++ List.replicate 24 0)), 0, true, 0, 1, sealed_good
     (by decide +kernel), by decide +kernel⟩,
   ⟨demo, sealed (rx 0x70 0x100000102 (leBytes 8 (fingerprint demoSett) ++ List.replicate 24 0)), 0, true, 0, 1,
     { addr := 2, mslot := 0, dcap := 64, place := 0, feed := 0, plane := 0 }, sealed_good (by decide +kernel),
     by decide +kernel⟩,
   ⟨demo, sealed (rx 0x70 0x100000101 (List.replicate 32 0)), 0, false, 0, 1,
     { addr := 2, mslot := 0, dcap := 64, place := 0, feed := 0, plane := 0 }, sealed_good (by decide +kernel),
     by decide +kernel⟩,
   ⟨withSlot (fun x =>
     { x with ranks := [.present, .replacing], sett := { demoSett with rows := [{ demoRows[0]! with place := 5 }, demoRows[1]!] } }),
     sealed (rx 0x70 0x100000102 (List.replicate 8 0 ++ [5] ++ List.replicate 23 0)), 0, true, 0, 1, sealed_good
     (by decide +kernel), by decide +kernel⟩,
   ⟨withSlot (fun x => { x with ranks := [.present, .replacing] }), sealed (rx 0x70 0x100000102 (leBytes 8 (fingerprint
     { demoSett with rows := [demoRows[0]!, { addr := 2, mslot := 0, dcap := 64, place := 5, feed := 1, plane := 1 }] })
     ++ 5 :: List.replicate 7 0 ++ [1, 0, 1] ++ List.replicate 13 0)), 0, true, 0, 1,
     { addr := 2, mslot := 0, dcap := 64, place := 5, feed := 1, plane := 1 }, sealed_good (by decide +kernel),
     by decide +kernel⟩,
   ⟨withSlot (fun x => { x with ranks := [.present, .replacing] }), sealed (rx 0x70 0x100000102 (List.replicate 8 0 ++
     5 :: List.replicate 7 0 ++ [1, 0, 1] ++ List.replicate 13 0)), 0, true, 0, 1,
     { addr := 2, mslot := 0, dcap := 64, place := 5, feed := 1, plane := 1 }, sealed_good (by decide +kernel),
     by decide +kernel⟩⟩

/-- States that meet the hypotheses of `UpdateRowsComplete`, a clause at a time. -/
theorem witness_UpdateRowsComplete :
    (∃ (s : State) (a : Acc) (chip : Bool), let i : Fin 64 := (Fin.ofNat 64 s.regs.tsel.toNat);
      let taken : Prop := (s.windowOpen 0x2048 = true ∧ (s.tenantOf (s.tagOf i)).isSome = true ∧ (fromSystem a = true ∨ a.tag = s.tagOf i));
      s.portsUp = true ∧ taken ∧ chip = false) ∧
    (∃ (s : State) (a : Acc) (chip : Bool), let i : Fin 64 := (Fin.ofNat 64 s.regs.tsel.toNat);
      let taken : Prop := (s.windowOpen 0x2048 = true ∧ (s.tenantOf (s.tagOf i)).isSome = true ∧ (fromSystem a = true ∨ a.tag = s.tagOf i));
      s.portsUp = true ∧ taken ∧ chip = true) ∧
    (∃ (s : State) (a : Acc), let i : Fin 64 := (Fin.ofNat 64 s.regs.tsel.toNat);
      let taken : Prop := (s.windowOpen 0x2048 = true ∧ (s.tenantOf (s.tagOf i)).isSome = true ∧ (fromSystem a = true ∨ a.tag = s.tagOf i));
      s.portsUp = true ∧ (¬ taken)) ∧
    (∃ (s : State) (f : Rx) (i : Fin 64), frameGood s f 0x70 i ∧ updateOk f = true ∧ f.len = 16 ∧ (s.ten i).fox.gen <
      (updateOf f).newGen) ∧
    (∃ (s : State) (f : Rx) (i : Fin 64), frameGood s f 0x70 i ∧ updateOk f = true ∧ f.len = 16 ∧ (¬ (s.ten i).fox.gen
      < (updateOf f).newGen)) ∧
    (∃ (s : State), s.configured = false) ∧
    (∃ (s : State) (i : Fin 64) (now : BitVec 64), let s1 := (s.at_ now);
      let may : Prop := ((s.ten i).env ≠ none ∧ s1.leads i = true ∧ s1.mayInject = true);
      let soon : Prop := ((s.ten i).fox.issuedAny = true ∧ (s1.time.now - (s.ten i).fox.issuedAt).toNat < 5000);
      s.configured = true ∧ (¬ may ∨ soon)) ∧
    (∃ (s : State) (i : Fin 64) (now : BitVec 64), let s1 := (s.at_ now);
      let may : Prop := ((s.ten i).env ≠ none ∧ s1.leads i = true ∧ s1.mayInject = true);
      let soon : Prop := ((s.ten i).fox.issuedAny = true ∧ (s1.time.now - (s.ten i).fox.issuedAt).toNat < 5000);
      s.configured = true ∧ may ∧ (¬ soon)) :=
  ⟨⟨demo, sys, false, by decide +kernel⟩,
   ⟨demo, sys, true, by decide +kernel⟩,
   ⟨demo, { tag := 9, id := 1 }, by decide +kernel⟩,
   ⟨demo, sealed (rx 0x70 0x1104 [2, 0, 0, 0, 1, 0, 0, 0, 3, 0, 0, 0, 0, 0, 0, 0]), 0, sealed_good (by decide +kernel),
     by decide +kernel⟩,
   ⟨demo, sealed (rx 0x70 0x1104 [1, 0, 0, 0, 1, 0, 0, 0, 3, 0, 0, 0, 0, 0, 0, 0]), 0, sealed_good (by decide +kernel),
     by decide +kernel⟩,
   ⟨State.reset, by decide +kernel⟩,
   ⟨withIssuer, 0, 4999, by decide +kernel⟩,
   ⟨withIssuer, 0, 5000, by decide +kernel⟩⟩

/-- States that meet the hypotheses of `ChangeOfMembership`, a clause at a time. -/
theorem witness_ChangeOfMembership :
    (∃ (f : FoxS), f.log.length ≤ 64) ∧
    (∃ (u : Update), updLoses u = true) ∧
    (∃ (u : Update) (a : Addr), u.kind = 4 ∧ a ≠ u.subject) ∧
    (∃ (u : Update), u.kind = 6) ∧
    (∃ (u : Update), u.kind = 5) :=
  ⟨⟨{ log := List.replicate 64 (demoUpdate 1) }, by decide +kernel⟩,
   ⟨demoUpdate 1, by decide +kernel⟩,
   ⟨demoUpdate 4, 5, by decide +kernel⟩,
   ⟨demoUpdate 6, by decide +kernel⟩,
   ⟨demoUpdate 5, by decide +kernel⟩⟩

/-- States that meet the hypotheses of `IntakeLinesComplete`, a clause at a time. -/
theorem witness_IntakeLinesComplete :
    (∃ (s : State) (f : Rx) (i : Fin 64), let s' := (s.at_ f.time);
      let v := (s'.judgeArrival i (tField f 0 24) (tField f 24 4) (tField f 28 12) (f.payload.length / 64));
      frameAnyGen s f 0x30 i ∧ tField f 40 24 = 0 ∧ f.payload.length % 64 = 0 ∧ 64 ≤ f.payload.length ∧
      f.payload.length ≤ 4096 ∧ (s.ten i).intake.epoch = f.epoch.toNat ∧ f.epoch ≠ 0 ∧ f.tr = 0 ∧ (v = .manifest ∨ v =
      .chunk (tField f 0 24))) ∧
    (∃ (s : State) (f : Rx) (i : Fin 64), let s' := (s.at_ f.time);
      let v := (s'.judgeArrival i (tField f 0 24) (tField f 24 4) (tField f 28 12) (f.payload.length / 64));
      frameAnyGen s f 0x30 i ∧ tField f 40 24 = 0 ∧ f.payload.length % 64 = 0 ∧ 64 ≤ f.payload.length ∧
      f.payload.length ≤ 4096 ∧ (s.ten i).intake.epoch = f.epoch.toNat ∧ f.epoch ≠ 0 ∧ f.tr = 0 ∧ v = .outside) ∧
    (∃ (s : State) (f : Rx) (i : Fin 64), let s' := (s.at_ f.time);
      let v := (s'.judgeArrival i (tField f 0 24) (tField f 24 4) (tField f 28 12) (f.payload.length / 64));
      frameAnyGen s f 0x30 i ∧ tField f 40 24 = 0 ∧ f.payload.length % 64 = 0 ∧ 64 ≤ f.payload.length ∧
      f.payload.length ≤ 4096 ∧ (s.ten i).intake.epoch = f.epoch.toNat ∧ f.epoch ≠ 0 ∧ f.tr = 0 ∧ (v = .next ∨ v =
      .beyond)) ∧
    (∃ (s : State) (f : Rx) (i : Fin 64), let s' := (s.at_ f.time);
      let v := (s'.judgeArrival i (tField f 0 24) (tField f 24 4) (tField f 28 12) (f.payload.length / 64));
      frameAnyGen s f 0x30 i ∧ tField f 40 24 = 0 ∧ f.payload.length % 64 = 0 ∧ 64 ≤ f.payload.length ∧
      f.payload.length ≤ 4096 ∧ (s.ten i).intake.epoch = f.epoch.toNat ∧ f.epoch ≠ 0 ∧ f.tr = 0 ∧ v = .flush) ∧
    (∃ (s : State) (q : NqReq), s.portsUp = true ∧ (q.space ≠ 2 ∨ 1 < q.op.toNat)) ∧
    (∃ (s : State) (q : NqReq), s.portsUp = true ∧ q.space = 2 ∧ q.op = 0) ∧
    (∃ (s : State) (q : NqReq), s.portsUp = true ∧ q.space = 2 ∧ q.op = 1 ∧ s.tenantOf q.tag = none) ∧
    (∃ (s : State) (q : NqReq) (i : Fin 64), s.portsUp = true ∧ q.space = 2 ∧ q.op = 1 ∧ s.tenantOf q.tag = some i ∧
      ~~~q.be ≠ 0) ∧
    (∃ (s : State) (q : NqReq) (i : Fin 64), let c := ((s.ten i).intake.windowChunk (bitsOf q.addr.toNat 22 14));
      let v := (s.judgeArrival i c (bitsOf q.addr.toNat 18 4) (bitsOf q.addr.toNat 6 12) 1); s.portsUp = true ∧ q.space
      = 2 ∧ q.op = 1 ∧ s.tenantOf q.tag = some i ∧ ~~~q.be = 0 ∧ (v = .manifest ∨ v = .chunk c)) ∧
    (∃ (s : State) (q : NqReq) (i : Fin 64), let c := ((s.ten i).intake.windowChunk (bitsOf q.addr.toNat 22 14));
      let v := (s.judgeArrival i c (bitsOf q.addr.toNat 18 4) (bitsOf q.addr.toNat 6 12) 1); s.portsUp = true ∧ q.space
      = 2 ∧ q.op = 1 ∧ s.tenantOf q.tag = some i ∧ ~~~q.be = 0 ∧ v = .outside) ∧
    (∃ (s : State) (q : NqReq) (i : Fin 64), let c := ((s.ten i).intake.windowChunk (bitsOf q.addr.toNat 22 14));
      let v := (s.judgeArrival i c (bitsOf q.addr.toNat 18 4) (bitsOf q.addr.toNat 6 12) 1); s.portsUp = true ∧ q.space
      = 2 ∧ q.op = 1 ∧ s.tenantOf q.tag = some i ∧ ~~~q.be = 0 ∧ v = .beyond) ∧
    (∃ (s : State) (q : NqReq) (i : Fin 64), let c := ((s.ten i).intake.windowChunk (bitsOf q.addr.toNat 22 14));
      let v := (s.judgeArrival i c (bitsOf q.addr.toNat 18 4) (bitsOf q.addr.toNat 6 12) 1); s.portsUp = true ∧ q.space
      = 2 ∧ q.op = 1 ∧ s.tenantOf q.tag = some i ∧ ~~~q.be = 0 ∧ v = .flush) ∧
    (∃ (s : State) (q : NqReq) (i : Fin 64), let c := ((s.ten i).intake.windowChunk (bitsOf q.addr.toNat 22 14));
      let v := (s.judgeArrival i c (bitsOf q.addr.toNat 18 4) (bitsOf q.addr.toNat 6 12) 1); s.portsUp = true ∧ q.space
      = 2 ∧ q.op = 1 ∧ s.tenantOf q.tag = some i ∧ ~~~q.be = 0 ∧ v = .next) ∧
    (∃ (t : IntakeS) (d : Nat), d < 16384 ∧ d = 0 ∧ t.low = 0) ∧
    (∃ (t : IntakeS) (d : Nat), d < 16384 ∧ (d ≠ 0 ∨ t.low ≠ 0) ∧ (∀ x ∈ t.chunks, x.no % 16384 ≠ d) ∧ 8192 ≤ t.high) ∧
    (∃ (t : IntakeS) (d : Nat), d < 16384 ∧ (d ≠ 0 ∨ t.low ≠ 0) ∧ (∃ x ∈ t.chunks, x.no % 16384 = d)) ∧
    (∃ (s : State) (i : Fin 64), let t := ((s.ten i).intake); t.flush = true) ∧
    (∃ (s : State) (i : Fin 64), let t := ((s.ten i).intake); t.flush = false ∧ (s.shareBytes i = 0 ∨ t.epoch = 0)) ∧
    (∃ (s : State) (i : Fin 64) (c : Nat), let t := ((s.ten i).intake); t.flush = false ∧ s.shareBytes i ≠ 0 ∧ t.epoch
      ≠ 0 ∧ c < t.low) ∧
    (∃ (s : State) (i : Fin 64) (c sl off n : Nat), let t := ((s.ten i).intake); t.flush = false ∧ s.shareBytes i ≠ 0 ∧
      t.epoch ≠ 0 ∧ t.low = 0 ∧ c = 0 ∧ sl = 0 ∧ (off + n) * 64 ≤ s.manRoom i) ∧
    (∃ (s : State) (i : Fin 64) (c : Nat), let t := ((s.ten i).intake); t.flush = false ∧ s.shareBytes i ≠ 0 ∧ t.epoch
      ≠ 0 ∧ t.low ≤ c ∧ c ≠ 0 ∧ (∀ x ∈ t.chunks, x.no ≠ c) ∧ c = t.high + 1) ∧
    (∃ (s : State) (i : Fin 64) (c : Nat), let t := ((s.ten i).intake); t.flush = false ∧ s.shareBytes i ≠ 0 ∧ t.epoch
      ≠ 0 ∧ t.low ≤ c ∧ c ≠ 0 ∧ (∀ x ∈ t.chunks, x.no ≠ c) ∧ t.high + 1 < c) ∧
    (∃ (s : State) (i : Fin 64) (c sl off n : Nat) (x : Chunk), let t := ((s.ten i).intake); t.flush = false ∧
      s.shareBytes i ≠ 0 ∧ t.epoch ≠ 0 ∧ t.low ≤ c ∧ c ≠ 0 ∧ (t.chunks.find? fun x => x.no == c) = some x ∧ sl <
      x.mrec.ns ∧ (off + n) * 64 ≤ x.ls) ∧
    (∃ (s : State) (i : Fin 64) (c sl off n : Nat) (x : Chunk), let t := ((s.ten i).intake); t.flush = false ∧
      s.shareBytes i ≠ 0 ∧ t.epoch ≠ 0 ∧ t.low ≤ c ∧ c ≠ 0 ∧ (t.chunks.find? fun x => x.no == c) = some x ∧ (x.mrec.ns
      ≤ sl ∨ x.ls < (off + n) * 64)) :=
  ⟨⟨withIntake demoIntake, sealed { rx 0x30 1 (List.replicate 64 0) with epoch := 2 }, 0, sealed_any
      (by decide +kernel), by decide +kernel⟩,
   ⟨withIntake demoIntake, sealed { rx 0x30 0x10000001 (List.replicate 64 0) with epoch := 2 }, 0, sealed_any
     (by decide +kernel), by decide +kernel⟩,
   ⟨withIntake demoIntake, sealed { rx 0x30 2 (List.replicate 64 0) with epoch := 2 }, 0, sealed_any
     (by decide +kernel), by decide +kernel⟩,
   ⟨withIntake { demoIntake with flush := true }, sealed { rx 0x30 1 (List.replicate 64 0) with epoch := 2 }, 0,
     sealed_any (by decide +kernel), by decide +kernel⟩,
   ⟨demo, hostReq 0 1 0, by decide +kernel⟩,
   ⟨demo, hostReq 2 0 0, by decide +kernel⟩,
   ⟨demo, { hostReq 2 1 0 with tag := 9 }, by decide +kernel⟩,
   ⟨demo, { hostReq 2 1 0x400000 with be := 1 }, 0, by decide +kernel⟩,
   ⟨withIntake demoIntake, hostReq 2 1 0x400000, 0, by decide +kernel⟩,
   ⟨withIntake demoIntake, hostReq 2 1 0x400040, 0, by decide +kernel⟩,
   ⟨withIntake demoIntake, hostReq 2 1 0xC00000, 0, by decide +kernel⟩,
   ⟨withIntake { demoIntake with flush := true }, hostReq 2 1 0x400000, 0, by decide +kernel⟩,
   ⟨withIntake demoIntake, hostReq 2 1 0x800000, 0, by decide +kernel⟩,
   ⟨{}, 0, by decide +kernel⟩,
   ⟨{ high := 8192 }, 1, by decide +kernel⟩,
   ⟨demoIntake, 1, by decide +kernel⟩,
   ⟨withIntake { demoIntake with flush := true }, 0, by decide +kernel⟩,
   ⟨demo, 0, by decide +kernel⟩,
   ⟨withIntake demoIntake, 0, 0, by decide +kernel⟩,
   ⟨withIntake { demoIntake with low := 0 }, 0, 0, 0, 0, 1, by decide +kernel⟩,
   ⟨withIntake demoIntake, 0, 2, by decide +kernel⟩,
   ⟨withIntake demoIntake, 0, 3, by decide +kernel⟩,
   ⟨withIntake demoIntake, 0, 1, 0, 0, 1,
     { no := 1, mrec := demoMRec, base := 0, size := 64, ls := 64, lines := [], bad := false }, by decide +kernel⟩,
   ⟨withIntake demoIntake, 0, 1, 1, 0, 1,
     { no := 1, mrec := demoMRec, base := 0, size := 64, ls := 64, lines := [], bad := false }, by decide +kernel⟩⟩

/-- States that meet the hypotheses of `IntakeRoomComplete`, a clause at a time. -/
theorem witness_IntakeRoomComplete :
    (∃ (s : State) (i : Fin 64), (s.portsUp = false ∨ s.flt.mode ≠ .normal ∨ (s.ten i).env = none)) ∧
    (∃ (s : State) (i : Fin 64), let t := ((s.ten i).intake); s.portsUp = true ∧ s.flt.mode = .normal ∧ (s.ten i).env ≠
      none ∧ (t.manSt ≠ .ok ∨ recOfChunk t.recs (t.high + 1) = none)) ∧
    (∃ (s : State) (i : Fin 64) (r : MRec), let t := ((s.ten i).intake);
      let base := (ringBase t.recs (s.ringBytes i t.recs.length) (t.high + 1));
      let room (r : MRec) : Prop := (t.manSt = .ok ∧ t.chunks.length < 256 ∧ ∀ x ∈ t.chunks, base + r.ns * chunkLs r (t.high + 1) ≤ x.base ∨ x.base + x.size ≤ base);
      s.portsUp = true ∧ s.flt.mode = .normal ∧ (s.ten i).env ≠ none ∧ recOfChunk t.recs (t.high + 1) = some r ∧ (¬
      room r)) ∧
    (∃ (s : State) (i : Fin 64) (r : MRec), let t := ((s.ten i).intake);
      let base := (ringBase t.recs (s.ringBytes i t.recs.length) (t.high + 1));
      let room (r : MRec) : Prop := (t.manSt = .ok ∧ t.chunks.length < 256 ∧ ∀ x ∈ t.chunks, base + r.ns * chunkLs r (t.high + 1) ≤ x.base ∨ x.base + x.size ≤ base);
      s.portsUp = true ∧ s.flt.mode = .normal ∧ (s.ten i).env ≠ none ∧ recOfChunk t.recs (t.high + 1) = some r ∧ room
      r) ∧
    (∃ (s : State) (i : Fin 64), let t := ((s.ten i).intake); t.noticeDue = false) ∧
    (∃ (s : State) (i : Fin 64), let t := ((s.ten i).intake); t.noticeDue = true ∧ s.regs.notifyEn = false) ∧
    (∃ (s : State) (i : Fin 64), let t := ((s.ten i).intake);
      let soon : Prop := (t.noticed ≠ 0 ∧ (s.time.now - t.noticed).toNat < 1000); t.noticeDue = true ∧ s.regs.notifyEn
      = true ∧ soon) ∧
    (∃ (s : State) (i : Fin 64), let t := ((s.ten i).intake);
      let soon : Prop := (t.noticed ≠ 0 ∧ (s.time.now - t.noticed).toNat < 1000); t.noticeDue = true ∧ s.regs.notifyEn
      = true ∧ (¬ soon)) ∧
    (∃ (s : State) (a : Acc) (i : Fin 64),
      let taken : Prop := (s.windowOpen 0x3048 = true ∧ (a.tag = 0 ∨ s.tenantOf a.tag = some i)); s.portsUp = true ∧ i
      = s.regs.tsel.toFin ∧ (¬ taken)) ∧
    (∃ (s : State) (a : Acc) (i : Fin 64),
      let taken : Prop := (s.windowOpen 0x3048 = true ∧ (a.tag = 0 ∨ s.tenantOf a.tag = some i)); s.portsUp = true ∧ i
      = s.regs.tsel.toFin ∧ taken) :=
  ⟨⟨State.reset, 0, by decide +kernel⟩,
   ⟨demo, 0, by decide +kernel⟩,
   ⟨withIntake { demoIntake with high := 0 }, 0, demoMRec, by decide +kernel⟩,
   ⟨withIntake { demoIntake with high := 0, chunks := [] }, 0, demoMRec, by decide +kernel⟩,
   ⟨demo, 0, by decide +kernel⟩,
   ⟨withIntake { noticeDue := true }, 0, by decide +kernel⟩,
   ⟨{ withIntake { noticeDue := true, noticed := 1 } with regs := { notifyEn := true }, time := { now := 2 } }, 0,
     by decide +kernel⟩,
   ⟨{ withIntake { noticeDue := true } with regs := { notifyEn := true } }, 0, by decide +kernel⟩,
   ⟨demo, { tag := 9, id := 1 }, 0, by decide +kernel⟩,
   ⟨demo, sys, 0, by decide +kernel⟩⟩

/-- States that meet the hypotheses of `AttemptOpenCompletes`, a clause at a time. -/
theorem witness_AttemptOpenCompletes :
    (∃ (s : State) (i : Fin 64), (s.ten i).env.isSome = true ∧ s.mayOpen i = true) ∧
    (∃ (s : State) (i : Fin 64), ((s.ten i).env = none ∨ s.mayOpen i = false)) :=
  ⟨⟨withTenant (fun t => { t with commit := { t.commit with isOpen := false, openDue := true } }), 0,
      by decide +kernel⟩,
   ⟨State.reset, 0, by decide +kernel⟩⟩

/-- States that meet the hypotheses of `SweepRowsComplete`, a clause at a time. -/
theorem witness_SweepRowsComplete :
    (∃ (s : State) (i : Fin 64), s.sweepIn i .prep = false) ∧
    (∃ (s : State) (i : Fin 64), s.sweepIn i .prep = true ∧ s.bankBad i = true) ∧
    (∃ (s : State) (i : Fin 64), s.sweepIn i .prep = true ∧ s.bankBad i = false ∧ (s.ten i).sweep.prep = []) ∧
    (∃ (s : State) (i : Fin 64), s.sweepIn i .body = false) ∧
    (∃ (s : State) (i : Fin 64) (it : PrepItem) (rest : List PrepItem) (g : Nat), ((it = .pro g ∨ it = .mid g ∨ ∃ c k :
      Nat, it = .red g c k)) ∧ s.sweepIn i .prep = true ∧ s.bankBad i = false ∧ (s.ten i).sweep.prep = it :: rest ∧
      s.groupRun i g = none) ∧
    (∃ (s : State) (i : Fin 64) (flt : ReadFault) (g : Nat) (r : GroupRun) (p : Program) (rest : List PrepItem),
      s.sweepIn i .prep = true ∧ s.bankBad i = false ∧ s.groupRun i g = some (r, p) ∧ ((s.ten i).sweep.prep = .pro g ::
      rest ∨ (s.ten i).sweep.prep = .mid g :: rest) ∧ flt = .working) ∧
    (∃ (s : State) (i : Fin 64) (flt : ReadFault) (g : Nat) (r : GroupRun) (p : Program) (rest : List PrepItem),
      s.sweepIn i .prep = true ∧ s.bankBad i = false ∧ s.groupRun i g = some (r, p) ∧ ((s.ten i).sweep.prep = .pro g ::
      rest ∨ (s.ten i).sweep.prep = .mid g :: rest) ∧ flt = .microop) ∧
    (∃ (s : State) (i : Fin 64) (flt : ReadFault) (g : Nat) (r : GroupRun) (p : Program) (rest : List PrepItem),
      s.sweepIn i .prep = true ∧ s.bankBad i = false ∧ s.groupRun i g = some (r, p) ∧ (s.ten i).sweep.prep = .pro g ::
      rest ∧ flt ≠ .microop ∧ flt ≠ .working) ∧
    (∃ (s : State) (i : Fin 64) (flt : ReadFault) (g : Nat) (r : GroupRun) (p : Program) (rest : List PrepItem),
      s.sweepIn i .prep = true ∧ s.bankBad i = false ∧ s.groupRun i g = some (r, p) ∧ (s.ten i).sweep.prep = .mid g ::
      rest ∧ flt ≠ .microop ∧ flt ≠ .working) ∧
    (∃ (s : State) (i : Fin 64) (g : Nat) (r : GroupRun) (p : Program) (rest : List PrepItem) (c k : Nat), s.sweepIn i
      .prep = true ∧ s.bankBad i = false ∧ s.groupRun i g = some (r, p) ∧ (s.ten i).sweep.prep = .red g c k :: rest ∧
      (s.stripAt i g p c k = none ∨ s.groupContained i g = true)) ∧
    (∃ (s : State) (i : Fin 64) (flt : ReadFault) (g : Nat) (r : GroupRun) (p : Program) (rest : List PrepItem) (c k :
      Nat) (x : StripAt) (t : State), let qs := (s.stripPanels i g p x); s.stripFault i flt qs = some t ∧ s.sweepIn i
      .prep = true ∧ s.bankBad i = false ∧ s.groupRun i g = some (r, p) ∧ (s.ten i).sweep.prep = .red g c k :: rest ∧
      s.stripAt i g p c k = some x ∧ s.groupContained i g = false) ∧
    (∃ (s : State) (i : Fin 64) (flt : ReadFault) (g : Nat) (r : GroupRun) (p : Program) (rest : List PrepItem) (c k :
      Nat) (x : StripAt), let qs := (s.stripPanels i g p x); let ready := (s.stripReady i x qs (readsIntake p p.red));
      ready = .drop ∧ s.sweepIn i .prep = true ∧ s.bankBad i = false ∧ s.groupRun i g = some (r, p) ∧ (s.ten
      i).sweep.prep = .red g c k :: rest ∧ s.stripAt i g p c k = some x ∧ s.groupContained i g = false ∧ s.stripFault i
      flt qs = none) ∧
    (∃ (s : State) (i : Fin 64) (flt : ReadFault) (g : Nat) (r : GroupRun) (p : Program) (rest : List PrepItem) (c k :
      Nat) (x : StripAt) (t : State), let qs := (s.stripPanels i g p x);
      let ready := (s.stripReady i x qs (readsIntake p p.red)); ready = .wait t ∧ s.sweepIn i .prep = true ∧ s.bankBad
      i = false ∧ s.groupRun i g = some (r, p) ∧ (s.ten i).sweep.prep = .red g c k :: rest ∧ s.stripAt i g p c k = some
      x ∧ s.groupContained i g = false ∧ s.stripFault i flt qs = none) ∧
    (∃ (s : State) (i : Fin 64) (flt : ReadFault) (g : Nat) (r : GroupRun) (p : Program) (rest : List PrepItem) (c k :
      Nat) (x : StripAt), let qs := (s.stripPanels i g p x); let ready := (s.stripReady i x qs (readsIntake p p.red));
      ready = .go ∧ s.sweepIn i .prep = true ∧ s.bankBad i = false ∧ s.groupRun i g = some (r, p) ∧ (s.ten
      i).sweep.prep = .red g c k :: rest ∧ s.stripAt i g p c k = some x ∧ s.groupContained i g = false ∧ s.stripFault i
      flt qs = none) ∧
    (∃ (s : State) (i : Fin 64), (∀ (g c k : Nat) (skip : Bool) (rest : List SweepItem), (s.ten i).sweep.todo ≠ .strip
      g c k skip :: rest) ∧ s.sweepIn i .body = true) ∧
    (∃ (s : State) (i : Fin 64) (g c k : Nat) (skip : Bool) (rest : List SweepItem), s.sweepIn i .body = true ∧ (s.ten
      i).sweep.todo = .strip g c k skip :: rest ∧ s.groupRun i g = none) ∧
    (∃ (s : State) (i : Fin 64) (g c k : Nat) (skip : Bool) (r : GroupRun) (p : Program) (rest : List SweepItem),
      s.sweepIn i .body = true ∧ s.groupRun i g = some (r, p) ∧ (s.ten i).sweep.todo = .strip g c k skip :: rest ∧
      s.stripAt i g p c k = none) ∧
    (∃ (s : State) (i : Fin 64) (g c k : Nat) (skip : Bool) (r : GroupRun) (p : Program) (rest : List SweepItem) (x :
      StripAt), s.sweepIn i .body = true ∧ s.groupRun i g = some (r, p) ∧ (s.ten i).sweep.todo = .strip g c k skip ::
      rest ∧ s.stripAt i g p c k = some x ∧ s.groupContained i g = true) ∧
    (∃ (s : State) (i : Fin 64) (g c k : Nat) (skip : Bool) (r : GroupRun) (p : Program) (rest : List SweepItem) (x :
      StripAt), s.sweepIn i .body = true ∧ s.groupRun i g = some (r, p) ∧ (s.ten i).sweep.todo = .strip g c k skip ::
      rest ∧ s.stripAt i g p c k = some x ∧ s.groupContained i g = false ∧ skip = true) ∧
    (∃ (s : State) (i : Fin 64) (g c k : Nat) (skip : Bool) (r : GroupRun) (p : Program) (rest : List SweepItem) (x :
      StripAt), s.sweepIn i .body = true ∧ s.groupRun i g = some (r, p) ∧ (s.ten i).sweep.todo = .strip g c k skip ::
      rest ∧ s.stripAt i g p c k = some x ∧ s.groupContained i g = false ∧ skip = false ∧ s.bankBad i = true) ∧
    (∃ (s : State) (i : Fin 64) (flt : ReadFault) (g c k : Nat) (skip : Bool) (r : GroupRun) (p : Program) (rest : List
      SweepItem) (x : StripAt) (t : State), let qs := (s.stripPanels i g p x); s.stripFault i flt qs = some t ∧
      s.sweepIn i .body = true ∧ s.groupRun i g = some (r, p) ∧ (s.ten i).sweep.todo = .strip g c k skip :: rest ∧
      s.stripAt i g p c k = some x ∧ s.groupContained i g = false ∧ skip = false ∧ s.bankBad i = false) ∧
    (∃ (s : State) (i : Fin 64) (flt : ReadFault) (g c k : Nat) (skip : Bool) (r : GroupRun) (p : Program) (rest : List
      SweepItem) (x : StripAt), let qs := (s.stripPanels i g p x); let ready := (s.stripReady i x qs true); ready =
      .drop ∧ s.sweepIn i .body = true ∧ s.groupRun i g = some (r, p) ∧ (s.ten i).sweep.todo = .strip g c k skip ::
      rest ∧ s.stripAt i g p c k = some x ∧ s.groupContained i g = false ∧ skip = false ∧ s.bankBad i = false ∧
      s.stripFault i flt qs = none) ∧
    (∃ (s : State) (i : Fin 64) (flt : ReadFault) (g c k : Nat) (skip : Bool) (r : GroupRun) (p : Program) (rest : List
      SweepItem) (x : StripAt) (t : State), let qs := (s.stripPanels i g p x); let ready := (s.stripReady i x qs true);
      ready = .wait t ∧ s.sweepIn i .body = true ∧ s.groupRun i g = some (r, p) ∧ (s.ten i).sweep.todo = .strip g c k
      skip :: rest ∧ s.stripAt i g p c k = some x ∧ s.groupContained i g = false ∧ skip = false ∧ s.bankBad i = false ∧
      s.stripFault i flt qs = none) ∧
    (∃ (s : State) (i : Fin 64) (flt : ReadFault) (g c k : Nat) (skip : Bool) (r : GroupRun) (p : Program) (rest : List
      SweepItem) (x : StripAt) (s' : State), let qs := (s.stripPanels i g p x);
      let ready := (s.stripReady i x qs true); ready = .go ∧ s.sweepIn i .body = true ∧ s.groupRun i g = some (r, p) ∧
      (s.ten i).sweep.todo = .strip g c k skip :: rest ∧ s.stripAt i g p c k = some x ∧ s.groupContained i g = false ∧
      skip = false ∧ s.bankBad i = false ∧ s.stripFault i flt qs = none ∧ s.reserveAll (s.stripWrites i g p x) = some
      s') ∧
    (∃ (s : State) (i : Fin 64) (flt : ReadFault) (g c k : Nat) (skip : Bool) (r : GroupRun) (p : Program) (rest : List
      SweepItem) (x : StripAt), let qs := (s.stripPanels i g p x); let ready := (s.stripReady i x qs true); ready = .go
      ∧ s.reserveAll (s.stripWrites i g p x) = none ∧ s.sweepIn i .body = true ∧ s.groupRun i g = some (r, p) ∧ (s.ten
      i).sweep.todo = .strip g c k skip :: rest ∧ s.stripAt i g p c k = some x ∧ s.groupContained i g = false ∧ skip =
      false ∧ s.bankBad i = false ∧ s.stripFault i flt qs = none ∧ (s.ten i).sweep.waitHawk = true) ∧
    (∃ (s : State) (i : Fin 64) (flt : ReadFault) (g c k : Nat) (skip : Bool) (r : GroupRun) (p : Program) (rest : List
      SweepItem) (x : StripAt), let qs := (s.stripPanels i g p x); let ready := (s.stripReady i x qs true); ready = .go
      ∧ s.reserveAll (s.stripWrites i g p x) = none ∧ s.sweepIn i .body = true ∧ s.groupRun i g = some (r, p) ∧ (s.ten
      i).sweep.todo = .strip g c k skip :: rest ∧ s.stripAt i g p c k = some x ∧ s.groupContained i g = false ∧ skip =
      false ∧ s.bankBad i = false ∧ s.stripFault i flt qs = none ∧ (s.ten i).sweep.waitHawk = false) ∧
    (∃ (s : State) (i : Fin 64) (b : Build), s.sweepIn i .body = true ∧ (s.ten i).sweep.builds.find? (fun b =>
      !s.stillTouched i true (b.ctx, b.panel)) = some b) ∧
    (∃ (s : State) (i : Fin 64) (g : Nat) (rest : List SweepItem), s.sweepIn i .body = true ∧ (s.ten
      i).sweep.builds.find? (fun b => !s.stillTouched i true (b.ctx, b.panel)) = none ∧ (s.ten i).sweep.todo = .scalar
      g :: rest) ∧
    (∃ (s : State) (i : Fin 64), (∀ (g : Nat) (rest : List SweepItem), (s.ten i).sweep.todo ≠ .scalar g :: rest) ∧
      s.sweepIn i .body = true ∧ (s.ten i).sweep.builds.find? (fun b => !s.stillTouched i true (b.ctx, b.panel)) =
      none) ∧
    (∃ (s : State) (i : Fin 64), (∀ (c p : Nat) (rest : List SweepItem), (s.ten i).sweep.todo ≠ .zero c p :: rest) ∧
      s.sweepIn i .body = true) ∧
    (∃ (s : State) (i : Fin 64) (c p : Nat) (rest : List SweepItem), s.sweepIn i .body = true ∧ (s.ten i).sweep.todo =
      .zero c p :: rest ∧ s.anyInRepair [(c, p)] = true) ∧
    (∃ (s : State) (i : Fin 64) (c p : Nat) (rest : List SweepItem) (a : Nat),
      let coded : Prop := (∃ e : Entry, s.entry c = some e ∧ e.coded = true); coded ∧ s.badPanel [(c, p)] = some a ∧
      s.sweepIn i .body = true ∧ (s.ten i).sweep.todo = .zero c p :: rest ∧ s.anyInRepair [(c, p)] = false) ∧
    (∃ (s : State) (i : Fin 64) (c p : Nat) (rest : List SweepItem),
      let coded : Prop := (∃ e : Entry, s.entry c = some e ∧ e.coded = true); (¬ coded ∨ s.badPanel [(c, p)] = none) ∧
      s.sweepIn i .body = true ∧ (s.ten i).sweep.todo = .zero c p :: rest ∧ s.anyInRepair [(c, p)] = false) :=
  ⟨⟨demo, 0, by decide +kernel⟩,
   ⟨{ sweeping sweptEntry .prep (fun w => { w with prep := [] }) with ib := { bank0 := { st := .bad } } }, 0,
     by decide +kernel⟩,
   ⟨sweeping sweptEntry .prep (fun w => { w with prep := [] }), 0, by decide +kernel⟩,
   ⟨demo, 0, by decide +kernel⟩,
   ⟨sweeping sweptEntry .prep (fun w => { w with prep := [.pro 2] }), 0, .pro 2, [], 2, (Or.inl rfl),
     by decide +kernel⟩,
   ⟨sweeping sweptEntry .prep (fun w => { w with prep := [.pro 1] }), 0, .working, 1, demoRun, demoProgram, [],
     by decide +kernel⟩,
   ⟨sweeping sweptEntry .prep (fun w => { w with prep := [.pro 1] }), 0, .microop, 1, demoRun, demoProgram, [],
     by decide +kernel⟩,
   ⟨sweeping sweptEntry .prep (fun w => { w with prep := [.pro 1] }), 0, .none, 1, demoRun, demoProgram, [],
     by decide +kernel⟩,
   ⟨sweeping sweptEntry .prep (fun w => { w with prep := [.mid 1] }), 0, .none, 1, demoRun, demoProgram, [],
     by decide +kernel⟩,
   ⟨sweeping { sweptEntry with state := .contained } .prep (fun w => { w with prep := [.red 1 3 5] }), 0, 1, demoRun,
     demoProgram, [], 3, 5, by decide +kernel⟩,
   ⟨sweeping sweptEntry .prep (fun w => { w with prep := [.red 1 3 0] }), 0, .working, 1, demoRun, demoProgram, [], 3,
     0, demoStrip, (State.stripFault (sweeping sweptEntry .prep (fun w => { w with prep := [.red 1 3 0] })) 0 .working
     (State.stripPanels (sweeping sweptEntry .prep (fun w => { w with prep := [.red 1 3 0] })) 0 1 demoProgram
     demoStrip)).getD demo, some_getD (by decide +kernel), by decide +kernel⟩,
   ⟨badChunk .prep, 0, .none, 1, demoRun, redProgram, [], 3, 0, demoStrip, isDrop_drop (by decide +kernel),
     by decide +kernel⟩,
   ⟨inRepair .prep, 0, .none, 1, demoRun, demoProgram, [], 3, 0, demoStrip, waitOf (State.stripReady (inRepair .prep) 0
     demoStrip (State.stripPanels (inRepair .prep) 0 1 demoProgram demoStrip) false), isWait_wait (by decide +kernel),
     by decide +kernel⟩,
   ⟨sweeping sweptEntry .prep (fun w => { w with prep := [.red 1 3 0] }), 0, .none, 1, demoRun, demoProgram, [], 3, 0,
     demoStrip, isGo_go (by decide +kernel), by decide +kernel⟩,
   ⟨sweeping sweptEntry .body (fun w => { w with todo := [] }), 0, (fun _ _ _ _ _ => no_head (by decide +kernel)),
     by decide +kernel⟩,
   ⟨sweeping sweptEntry .body (fun w => { w with todo := [.strip 2 3 0 false] }), 0, 2, 3, 0, false, [],
     by decide +kernel⟩,
   ⟨sweeping sweptEntry .body (fun w => { w with todo := [.strip 1 4 0 false] }), 0, 1, 4, 0, false, demoRun,
     demoProgram, [], by decide +kernel⟩,
   ⟨{ sweeping sweptEntry .body (fun w => { w with todo := [.strip 1 3 0 false] }) with ctx := { table := [(3, sweptEntry), (4, { sweptEntry with state := .contained })] } },
     0, 1, 3, 0, false, demoRun, demoProgram, [], demoStrip, by decide +kernel⟩,
   ⟨sweeping sweptEntry .body (fun w => { w with todo := [.strip 1 3 0 true] }), 0, 1, 3, 0, true, demoRun,
     demoProgram, [], demoStrip, by decide +kernel⟩,
   ⟨{ sweeping sweptEntry .body (fun w => { w with todo := [.strip 1 3 0 false] }) with ib := { bank0 := { st := .bad, image := imageOf imageBytes } } },
     0, 1, 3, 0, false, demoRun, demoProgram, [], demoStrip, by decide +kernel⟩,
   ⟨sweeping sweptEntry .body (fun w => { w with todo := [.strip 1 3 0 false] }), 0, .working, 1, 3, 0, false, demoRun,
     demoProgram, [], demoStrip, (State.stripFault (sweeping sweptEntry .body (fun w =>
     { w with todo := [.strip 1 3 0 false] })) 0 .working (State.stripPanels (sweeping sweptEntry .body (fun w =>
     { w with todo := [.strip 1 3 0 false] })) 0 1 demoProgram demoStrip)).getD demo, some_getD (by decide +kernel),
     by decide +kernel⟩,
   ⟨badChunk .body, 0, .none, 1, 3, 0, false, demoRun, redProgram, [], demoStrip, isDrop_drop (by decide +kernel),
     by decide +kernel⟩,
   ⟨inRepair .body, 0, .none, 1, 3, 0, false, demoRun, demoProgram, [], demoStrip, waitOf (State.stripReady (inRepair
     .body) 0 demoStrip (State.stripPanels (inRepair .body) 0 1 demoProgram demoStrip) true), isWait_wait
     (by decide +kernel), by decide +kernel⟩,
   ⟨sweeping sweptEntry .body (fun w => { w with todo := [.strip 1 3 0 false] }), 0, .none, 1, 3, 0, false, demoRun,
     demoProgram, [], demoStrip, sweeping sweptEntry .body (fun w => { w with todo := [.strip 1 3 0 false] }), isGo_go
     (by decide +kernel), by decide +kernel⟩,
   ⟨{ sweeping { sweptEntry with cls := .skim } .body (fun w => { w with todo := [.strip 1 3 0 false], waitHawk := true }) with slots := State.reset.slots.set 0 { demoSlot with alloc := 0 } },
     0, .none, 1, 3, 0, false, demoRun, demoProgram, [], demoStrip, isGo_go (by decide +kernel),
     Option.isNone_iff_eq_none.mp (by decide +kernel), by decide +kernel⟩,
   ⟨{ sweeping { sweptEntry with cls := .skim } .body (fun w => { w with todo := [.strip 1 3 0 false] }) with slots := State.reset.slots.set 0 { demoSlot with alloc := 0 } },
     0, .none, 1, 3, 0, false, demoRun, demoProgram, [], demoStrip, isGo_go (by decide +kernel),
     Option.isNone_iff_eq_none.mp (by decide +kernel), by decide +kernel⟩,
   ⟨sweeping sweptEntry .body (fun w => { w with builds := [⟨3, 0, []⟩] }), 0, ⟨3, 0, []⟩, by decide +kernel⟩,
   ⟨sweeping sweptEntry .body (fun w => { w with todo := [.scalar 1] }), 0, 1, [], by decide +kernel⟩,
   ⟨sweeping sweptEntry .body (fun w => { w with todo := [] }), 0, (fun _ _ => no_head (by decide +kernel)),
     by decide +kernel⟩,
   ⟨sweeping sweptEntry .body (fun w => { w with todo := [] }), 0, (fun _ _ _ => no_head (by decide +kernel)),
     by decide +kernel⟩,
   ⟨{ sweeping sweptEntry .body (fun w => { w with todo := [.zero 3 0] }) with badger := { repairs := [.data 3 0] } },
     0, 3, 0, [], by decide +kernel⟩,
   ⟨badZero, 0, 3, 0, [], 0x40000000, ⟨{ sweptEntry with cls := .skim, sealed := true }, by decide +kernel⟩,
     badPanel_one (e := { sweptEntry with cls := .skim, sealed := true }) (by decide +kernel) rfl (by decide +kernel)
     (zero_digestBad (by decide +kernel)), by decide +kernel⟩,
   ⟨sweeping sweptEntry .body (fun w => { w with todo := [.zero 3 0] }), 0, 3, 0, [], (Or.inl (not_coded (e :=
     sweptEntry) (by decide +kernel) rfl)), by decide +kernel⟩⟩

/-- States that meet the hypotheses of `BankRowsComplete`, a clause at a time. -/
theorem witness_BankRowsComplete :
    (∃ (s : State) (a : Acc), let open_ : Prop := (s.windowOpen 0x3808 = true ∧ fromSystem a = true); s.portsUp = true
      ∧ (¬ open_ ∨ s.rangeOk 4 s.ib.src.toNat (s.ib.len.toNat + 256) = false)) ∧
    (∃ (s : State) (a : Acc) (bank : Bool), let open_ : Prop := (s.windowOpen 0x3808 = true ∧ fromSystem a = true);
      s.portsUp = true ∧ (¬ open_ ∨ (s.ib.bank bank).st ≠ .valid)) ∧
    (∃ (s : State) (a : Acc), let open_ : Prop := (s.windowOpen 0x3808 = true ∧ fromSystem a = true); s.portsUp = true
      ∧ (¬ open_)) ∧
    (∃ (s : State) (a : Acc) (bank : Bool), windowTakes s a 0x3808 ∧ s.rangeOk 4 s.ib.src.toNat (s.ib.len.toNat + 256)
      = true ∧ s.bankUsers bank ≠ 0) ∧
    (∃ (s : State) (a : Acc) (bank : Bool), windowTakes s a 0x3808 ∧ s.rangeOk 4 s.ib.src.toNat (s.ib.len.toNat + 256)
      = true ∧ s.bankUsers bank = 0 ∧ (s.ib.busy = true ∨ s.ib.armed = true)) ∧
    (∃ (s : State) (a : Acc) (bank : Bool), windowTakes s a 0x3808 ∧ s.rangeOk 4 s.ib.src.toNat (s.ib.len.toNat + 256)
      = true ∧ s.bankUsers bank = 0 ∧ s.ib.busy = false ∧ s.ib.armed = false) ∧
    (∃ (s : State), (s.ib.busy = false ∨ s.flt.mode = .resetting)) ∧
    (∃ (s : State), s.ib.busy = true ∧ s.flt.mode ≠ .resetting ∧ s.imageResult.1 ≠ 0) ∧
    (∃ (s : State), s.ib.busy = true ∧ s.flt.mode ≠ .resetting ∧ s.imageResult.1 = 0) ∧
    (∃ (s : State) (a : Acc) (bank : Bool), windowTakes s a 0x3808 ∧ (s.ib.bank bank).st = .valid ∧ (∀ i : Fin 64,
      (s.ten i).env = none)) ∧
    (∃ (s : State) (i : Fin 64), s.ib.armed = true ∧ (s.ten i).env ≠ none ∧ (s.ten i).sealed = false ∧ (s.ten i).bank ≠
      s.ib.target) ∧
    (∃ (s : State) (i : Fin 64), (s.ib.armed = false ∨ (s.ten i).env = none ∨ (s.ten i).sealed = true ∨ (s.ten i).bank
      = s.ib.target)) :=
  ⟨⟨demo, { tag := 7, id := 1 }, by decide +kernel⟩,
   ⟨demo, { tag := 7, id := 1 }, true, by decide +kernel⟩,
   ⟨demo, { tag := 7, id := 1 }, by decide +kernel⟩,
   ⟨{ demo with ib := { src := 0x1000, len := 168 } }, sys, false, takes_of (by decide +kernel), by decide +kernel⟩,
   ⟨{ demo with ib := { src := 0x1000, len := 168, busy := true } }, sys, true, takes_of (by decide +kernel),
     by decide +kernel⟩,
   ⟨{ demo with ib := { src := 0x1000, len := 168 } }, sys, true, takes_of (by decide +kernel), by decide +kernel⟩,
   ⟨demo, by decide +kernel⟩,
   ⟨{ demo with ib := { busy := true } }, by decide +kernel⟩,
   ⟨{ demo with power := { released := true, owner := imageOwner }, ib := { busy := true, staged := imageBytes ++ imageTrailer } },
     by decide +kernel⟩,
   ⟨{ demo with tenants := State.reset.tenants, ib := { bank1 := { st := .valid } } }, sys, true, takes_of
     (by decide +kernel), by decide +kernel⟩,
   ⟨{ withTenant (fun t => { t with commit := {} }) with ib := { armed := true, target := true } }, 0,
     by decide +kernel⟩,
   ⟨demo, 0, by decide +kernel⟩⟩

/-- States that meet the hypotheses of `SkimSendRowsComplete`, a clause at a time. -/
theorem witness_SkimSendRowsComplete :
    (∃ (s : State), s.injectorFree = false) ∧
    (∃ (s u : State) (now : BitVec 64) (i : Fin 64) (slot : Fin 16) (before after : List (Fin 16)), ((∀ k ∈ before,
      u.slotTenant k.val = none ∨ ∀ j : Fin 64, u.slotTenant k.val = some j → u.sendFrom j k = (u, false))) ∧
      s.injectorFree = true ∧ u = s.at_ now ∧ s.slotOrder = before ++ slot :: after ∧ u.slotTenant slot.val = some i ∧
      (u.sendFrom i slot).2 = true) ∧
    (∃ (s u : State) (now : BitVec 64), ((∀ (k : Fin 16) (j : Fin 64), u.slotTenant k.val = some j → u.sendFrom j k =
      (u, false))) ∧ s.injectorFree = true ∧ u = s.at_ now) ∧
    (∃ (s : State) (slot : Fin 16) (i : Fin 64), (s.attemptOpen i = false ∨ (s.slot slot.val).kind ≠ .sett)) ∧
    (∃ (s : State) (slot : Fin 16) (i : Fin 64) (before after : List Nat) (col : Nat) (r : HawkRec) (g : Group),
      let hs := (s.holders slot.val (rotationFor (s.slot slot.val).sett r.panel)); (∀ c ∈ before, s.stagedIn slot.val c
      = none) ∧ s.attemptOpen i = true ∧ (s.slot slot.val).kind = .sett ∧ (s.slot slot.val).columns = before ++ col ::
      after ∧ s.stagedIn slot.val col = some r ∧ s.confirmedGroup (.holders slot.val (rotationFor (s.slot
      slot.val).sett r.panel)) = some g ∧ s.spanOk slot.val hs (s.slot slot.val).next = true) ∧
    (∃ (s : State) (slot : Fin 16) (i : Fin 64) (before after : List Nat) (col : Nat) (r : HawkRec) (g : Group),
      let hs := (s.holders slot.val (rotationFor (s.slot slot.val).sett r.panel)); (∀ c ∈ before, s.stagedIn slot.val c
      = none) ∧ s.attemptOpen i = true ∧ (s.slot slot.val).kind = .sett ∧ (s.slot slot.val).columns = before ++ col ::
      after ∧ s.stagedIn slot.val col = some r ∧ s.confirmedGroup (.holders slot.val (rotationFor (s.slot
      slot.val).sett r.panel)) = some g ∧ s.spanOk slot.val hs (s.slot slot.val).next = false ∧ after = []) ∧
    (∃ (s : State) (slot : Fin 16), (s.slotTenant slot.val = none ∨ (s.hawk.recs.find? fun r => r.slot == slot &&
      r.mark && r.st == .staged) = none ∨ s.confirmedGroup (.peers slot.val) = none ∨ s.injectorFree = false ∨ (∃ x ∈
      s.hawk.recs, x.slot = slot ∧ x.mark = false))) ∧
    (∃ (s : State) (slot : Fin 16) (i : Fin 64) (r : HawkRec) (g : Group), s.slotTenant slot.val = some i ∧
      s.injectorFree = true ∧ (s.hawk.recs.find? fun r => r.slot == slot && r.mark && r.st == .staged) = some r ∧ ((∀ x
      ∈ s.hawk.recs, x.slot = slot → x.mark = true)) ∧ s.confirmedGroup (.peers slot.val) = some g) ∧
    (∃ (s : State) (slot : Fin 16) (rank : Nat),
      let due := ((s.slot slot.val).sources.find? fun e => e.rank == rank && e.ackDue); (s.slotTenant slot.val = none ∨
      due = none)) ∧
    (∃ (s : State) (slot : Fin 16) (rank : Nat) (i : Fin 64) (e : SrcEntry),
      let due := ((s.slot slot.val).sources.find? fun e => e.rank == rank && e.ackDue);
      let mslot := (match (s.slot slot.val).sett.rows[rank]? with | some r => r.mslot.toNat | none => 0);
      let f := (s.ctrlTo i e.addr 0x02 e.epoch e.tr (e.ackT mslot)); s.slotTenant slot.val = some i ∧ due = some e ∧
      s.mayForm f = false) ∧
    (∃ (s : State) (slot : Fin 16) (rank : Nat) (i : Fin 64) (e : SrcEntry),
      let due := ((s.slot slot.val).sources.find? fun e => e.rank == rank && e.ackDue);
      let mslot := (match (s.slot slot.val).sett.rows[rank]? with | some r => r.mslot.toNat | none => 0);
      let f := (s.ctrlTo i e.addr 0x02 e.epoch e.tr (e.ackT mslot)); s.slotTenant slot.val = some i ∧ due = some e ∧
      s.mayForm f = true) :=
  ⟨⟨State.reset, by decide +kernel⟩,
   ⟨sendState false (.holders 0 1), sendState false (.holders 0 1), 0, 0, 0, [], (List.finRange 16).drop 1, (fun _ h =>
     nomatch h), by decide +kernel⟩,
   ⟨{ demo with slots := State.reset.slots, tenants := State.reset.tenants },
     { demo with slots := State.reset.slots, tenants := State.reset.tenants }, 0, no_slots (by decide +kernel),
     by decide +kernel⟩,
   ⟨State.reset, 0, 0, by decide +kernel⟩,
   ⟨{ sendState false (.holders 0 1) with hawk := { recs := [stagedRec false] } }, 0, 0, [], [], 0, stagedRec false,
     { demoGroup .confirmed with key := (.holders 0 1) }, (fun _ h => nomatch h), by decide +kernel⟩,
   ⟨{ sendState false (.holders 0 1) with hawk := { recs := [stagedRec false, outRec] }, slots := State.reset.slots.set 0 { demoSlot with next := 29 } },
     0, 0, [], [], 0, stagedRec false, { demoGroup .confirmed with key := .holders 0 1 }, (fun _ h => nomatch h),
     by decide +kernel⟩,
   ⟨demo, 0, by decide +kernel⟩,
   ⟨{ sendState true (.peers 0) with hawk := { recs := [stagedRec true] } }, 0, 0, stagedRec true,
     { demoGroup .confirmed with key := (.peers 0) }, by decide +kernel⟩,
   ⟨demo, 0, 0, by decide +kernel⟩,
   ⟨{ withSlot (fun x => { x with sources := [{ demoSource with ackDue := true }] }) with flt := { mode := .dust } },
     0, 1, 0, { demoSource with ackDue := true }, by decide +kernel⟩,
   ⟨withSlot (fun x => { x with sources := [{ demoSource with ackDue := true }] }), 0, 1, 0,
     { demoSource with ackDue := true }, by decide +kernel⟩⟩

/-- States that meet the hypotheses of `BadgerRequestRowsComplete`, a clause at a time. -/
theorem witness_BadgerRequestRowsComplete :
    (∃ (s : State) (f : Rx) (i : Fin 64) (donly : Bool) (flt : ReadFault), let s' := (s.at_ f.time);
      let off : Prop := (s'.sealOver i f = true ∨ ResetUnit.badger ∈ s.flt.inReset); frameGood s f 0x40 i ∧ tField f 50
      14 = 0 ∧ f.len = 0 ∧ (s.at_ f.time).runEpochOk i f = true ∧ (s.at_ f.time).knownIn i (tField f 45 4) f.src = true
      ∧ f.t.getLsbD 49 = donly ∧ ((donly = true → flt = .none)) ∧ off) ∧
    (∃ (s : State) (f : Rx) (i : Fin 64) (donly : Bool) (flt : ReadFault), let s' := (s.at_ f.time);
      let off : Prop := (s'.sealOver i f = true ∨ ResetUnit.badger ∈ s.flt.inReset); frameGood s f 0x40 i ∧ tField f 50
      14 = 0 ∧ f.len = 0 ∧ (s.at_ f.time).runEpochOk i f = true ∧ (s.at_ f.time).knownIn i (tField f 45 4) f.src = true
      ∧ f.t.getLsbD 49 = donly ∧ ((donly = true → flt = .none)) ∧ (¬ off) ∧ 512 ≤ s'.requestsHeld) ∧
    (∃ (s : State) (f : Rx) (i : Fin 64) (donly : Bool) (flt : ReadFault), let s' := (s.at_ f.time);
      let k : Fin 16 := (Fin.ofNat 16 (tField f 45 4));
      let off : Prop := (s'.sealOver i f = true ∨ ResetUnit.badger ∈ s.flt.inReset); frameGood s f 0x40 i ∧ tField f 50
      14 = 0 ∧ f.len = 0 ∧ (s.at_ f.time).runEpochOk i f = true ∧ (s.at_ f.time).knownIn i (tField f 45 4) f.src = true
      ∧ f.t.getLsbD 49 = donly ∧ ((donly = true → flt = .none)) ∧ (¬ off) ∧ s'.requestsHeld < 512 ∧ (s.slot k.val).kind
      = .replica) ∧
    (∃ (s : State) (f : Rx) (i : Fin 64) (donly : Bool) (flt : ReadFault), let s' := (s.at_ f.time);
      let k : Fin 16 := (Fin.ofNat 16 (tField f 45 4));
      let off : Prop := (s'.sealOver i f = true ∨ ResetUnit.badger ∈ s.flt.inReset); frameGood s f 0x40 i ∧ tField f 50
      14 = 0 ∧ f.len = 0 ∧ (s.at_ f.time).runEpochOk i f = true ∧ (s.at_ f.time).knownIn i (tField f 45 4) f.src = true
      ∧ f.t.getLsbD 49 = donly ∧ ((donly = true → flt = .none)) ∧ (¬ off) ∧ s'.requestsHeld < 512 ∧ (s.slot k.val).kind
      ≠ .replica ∧ s'.helpRunOf i f k (tField f 0 23) (tField f 23 16) (tField f 39 6) = none) ∧
    (∃ (s : State) (f : Rx) (i : Fin 64) (donly : Bool) (flt : ReadFault) (h : HelpRun) (r : Nat),
      let s' := (s.at_ f.time); let k : Fin 16 := (Fin.ofNat 16 (tField f 45 4));
      let off : Prop := (s'.sealOver i f = true ∨ ResetUnit.badger ∈ s.flt.inReset);
      let rd := (s'.helperRead i flt (s'.readAddrs k.val (decide ((s'.slot k.val).sett.k ≤ h.pos)) (((s'.helperPanels h r).filter fun p => !p.2).map (·.1))));
      frameGood s f 0x40 i ∧ tField f 50 14 = 0 ∧ f.len = 0 ∧ (s.at_ f.time).runEpochOk i f = true ∧ (s.at_
      f.time).knownIn i (tField f 45 4) f.src = true ∧ f.t.getLsbD 49 = donly ∧ ((donly = true → flt = .none)) ∧ (¬
      off) ∧ s'.requestsHeld < 512 ∧ (s.slot k.val).kind ≠ .replica ∧ s'.helpRunOf i f k (tField f 0 23) (tField f 23
      16) (tField f 39 6) = some (h, r) ∧ rd.2 = true) ∧
    (∃ (s : State) (f : Rx) (i : Fin 64) (donly : Bool) (flt : ReadFault) (h : HelpRun) (r : Nat),
      let s' := (s.at_ f.time); let k : Fin 16 := (Fin.ofNat 16 (tField f 45 4));
      let off : Prop := (s'.sealOver i f = true ∨ ResetUnit.badger ∈ s.flt.inReset);
      let rd := (s'.helperRead i flt (s'.readAddrs k.val (decide ((s'.slot k.val).sett.k ≤ h.pos)) (((s'.helperPanels h r).filter fun p => !p.2).map (·.1))));
      frameGood s f 0x40 i ∧ rd.2 = false ∧ tField f 50 14 = 0 ∧ f.len = 0 ∧ (s.at_ f.time).runEpochOk i f = true ∧
      (s.at_ f.time).knownIn i (tField f 45 4) f.src = true ∧ f.t.getLsbD 49 = donly ∧ ((donly = true → flt = .none)) ∧
      (¬ off) ∧ s'.requestsHeld < 512 ∧ (s.slot k.val).kind ≠ .replica ∧ s'.helpRunOf i f k (tField f 0 23) (tField f
      23 16) (tField f 39 6) = some (h, r) ∧ donly = true) ∧
    (∃ (s : State) (f : Rx) (i : Fin 64) (donly : Bool) (flt : ReadFault) (h : HelpRun) (r : Nat),
      let s' := (s.at_ f.time); let k : Fin 16 := (Fin.ofNat 16 (tField f 45 4));
      let off : Prop := (s'.sealOver i f = true ∨ ResetUnit.badger ∈ s.flt.inReset);
      let rd := (s'.helperRead i flt (s'.readAddrs k.val (decide ((s'.slot k.val).sett.k ≤ h.pos)) (((s'.helperPanels h r).filter fun p => !p.2).map (·.1))));
      frameGood s f 0x40 i ∧ rd.2 = false ∧ tField f 50 14 = 0 ∧ f.len = 0 ∧ (s.at_ f.time).runEpochOk i f = true ∧
      (s.at_ f.time).knownIn i (tField f 45 4) f.src = true ∧ f.t.getLsbD 49 = donly ∧ ((donly = true → flt = .none)) ∧
      (¬ off) ∧ s'.requestsHeld < 512 ∧ (s.slot k.val).kind ≠ .replica ∧ s'.helpRunOf i f k (tField f 0 23) (tField f
      23 16) (tField f 39 6) = some (h, r) ∧ donly = false ∧ s'.reserved4k + tField f 23 16 ≤ Config.reservationUnits) ∧
    (∃ (s : State) (f : Rx) (i : Fin 64) (donly : Bool) (flt : ReadFault) (h : HelpRun) (r : Nat),
      let s' := (s.at_ f.time); let k : Fin 16 := (Fin.ofNat 16 (tField f 45 4));
      let off : Prop := (s'.sealOver i f = true ∨ ResetUnit.badger ∈ s.flt.inReset);
      let rd := (s'.helperRead i flt (s'.readAddrs k.val (decide ((s'.slot k.val).sett.k ≤ h.pos)) (((s'.helperPanels h r).filter fun p => !p.2).map (·.1))));
      frameGood s f 0x40 i ∧ rd.2 = false ∧ tField f 50 14 = 0 ∧ f.len = 0 ∧ (s.at_ f.time).runEpochOk i f = true ∧
      (s.at_ f.time).knownIn i (tField f 45 4) f.src = true ∧ f.t.getLsbD 49 = donly ∧ ((donly = true → flt = .none)) ∧
      (¬ off) ∧ s'.requestsHeld < 512 ∧ (s.slot k.val).kind ≠ .replica ∧ s'.helpRunOf i f k (tField f 0 23) (tField f
      23 16) (tField f 39 6) = some (h, r) ∧ donly = false ∧ Config.reservationUnits < s'.reserved4k + tField f 23 16) ∧
    (∃ (s : State) (h : HelpRun) (r : Nat),
      let s1 : State := ({ s with badger := { s.badger with helps := s.badger.helps ++ [h], peak := max s.badger.peak (s.reserved4k + h.accs.length) } });
      s1.helperReady h r = true) ∧
    (∃ (s : State) (h : HelpRun) (r : Nat),
      let s1 : State := ({ s with badger := { s.badger with helps := s.badger.helps ++ [h], peak := max s.badger.peak (s.reserved4k + h.accs.length) } });
      s1.helperReady h r = false) ∧
    (∃ (s : State) (k : Fin 16) (first count lost : Nat),
      let bad : Prop := (lost ≠ 0 ∨ (s.slot k.val).dcap < first + count ∨ count = 0); bad) ∧
    (∃ (s : State) (i : Fin 64) (k : Fin 16) (first count lost : Nat) (flt : ReadFault),
      let bad : Prop := (lost ≠ 0 ∨ (s.slot k.val).dcap < first + count ∨ count = 0);
      let ps := ((List.range count).map (first + ·)); let rd := (s.helperRead i flt (s.readAddrs k.val false ps)); (¬
      bad) ∧ rd.2 = true) ∧
    (∃ (s : State) (i : Fin 64) (k : Fin 16) (first count lost : Nat) (donly : Bool) (flt : ReadFault),
      let bad : Prop := (lost ≠ 0 ∨ (s.slot k.val).dcap < first + count ∨ count = 0);
      let ps := ((List.range count).map (first + ·)); let rd := (s.helperRead i flt (s.readAddrs k.val false ps)); rd.2
      = false ∧ (¬ bad) ∧ donly = false ∧ Config.reservationUnits < s.reserved4k + count) ∧
    (∃ (s : State) (i : Fin 64) (k : Fin 16) (first count lost : Nat) (donly : Bool) (flt : ReadFault),
      let bad : Prop := (lost ≠ 0 ∨ (s.slot k.val).dcap < first + count ∨ count = 0);
      let ps := ((List.range count).map (first + ·)); let rd := (s.helperRead i flt (s.readAddrs k.val false ps)); rd.2
      = false ∧ (¬ bad) ∧ donly = true) ∧
    (∃ (s : State) (i : Fin 64) (k : Fin 16) (first count lost : Nat) (donly : Bool) (flt : ReadFault),
      let bad : Prop := (lost ≠ 0 ∨ (s.slot k.val).dcap < first + count ∨ count = 0);
      let ps := ((List.range count).map (first + ·)); let rd := (s.helperRead i flt (s.readAddrs k.val false ps)); rd.2
      = false ∧ (¬ bad) ∧ donly = false ∧ s.reserved4k + count ≤ Config.reservationUnits) :=
  ⟨⟨withFlt (fun f => { f with inReset := [.badger] }), sealed { rx 0x40 0x2000000800000 with epoch := 1 }, 0, true,
      .none, sealed_good (by decide +kernel), by decide +kernel⟩,
   ⟨withBadger { helps := List.replicate 512 demoHelp }, sealed { rx 0x40 0x2000000800000 with epoch := 1 }, 0, true,
     .none, sealed_good (by decide +kernel), by decide +kernel⟩,
   ⟨withSlot (fun x =>
     { x with kind := .replica, rep := { setId := 1, dcap := 64, index := 0, pair := 0, rows := demoRows } }), sealed
     { rx 0x40 0x2000000800000 with epoch := 1 }, 0, true, .none, sealed_good (by decide +kernel), by decide +kernel⟩,
   ⟨demo, sealed { rx 0x40 0x2000000000000 with epoch := 1 }, 0, true, .none, sealed_good (by decide +kernel),
     by decide +kernel⟩,
   ⟨demo, sealed { rx 0x40 0x800000 with epoch := 1 }, 0, false, .stack 0x40000000, (State.helpRunOf (demo) 0 (sealed
     { rx 0x40 0x800000 with epoch := 1 }) 0 0 1 0 |>.getD (demoHelp, 0)).1, (State.helpRunOf (demo) 0 (sealed
     { rx 0x40 0x800000 with epoch := 1 }) 0 0 1 0 |>.getD (demoHelp, 0)).2, sealed_good (by decide +kernel),
     by decide +kernel⟩,
   ⟨demo, sealed { rx 0x40 0x2000000800000 with epoch := 1 }, 0, true, .none, (State.helpRunOf (demo) 0 (sealed
     { rx 0x40 0x2000000800000 with epoch := 1 }) 0 0 1 0 |>.getD (demoHelp, 0)).1, (State.helpRunOf (demo) 0 (sealed
     { rx 0x40 0x2000000800000 with epoch := 1 }) 0 0 1 0 |>.getD (demoHelp, 0)).2, sealed_good (by decide +kernel),
     zero_read (by decide +kernel), by decide +kernel⟩,
   ⟨demo, sealed { rx 0x40 0x800000 with epoch := 1 }, 0, false, .none, (State.helpRunOf (demo) 0 (sealed
     { rx 0x40 0x800000 with epoch := 1 }) 0 0 1 0 |>.getD (demoHelp, 0)).1, (State.helpRunOf (demo) 0 (sealed
     { rx 0x40 0x800000 with epoch := 1 }) 0 0 1 0 |>.getD (demoHelp, 0)).2, sealed_good (by decide +kernel), zero_read
     (by decide +kernel), by decide +kernel⟩,
   ⟨withBadger { helps := [demoHelp] }, sealed { rx 0x40 0x800000 with epoch := 1 }, 0, false, .none, (State.helpRunOf
     (withBadger { helps := [demoHelp] }) 0 (sealed { rx 0x40 0x800000 with epoch := 1 }) 0 0 1 0 |>.getD (demoHelp,
     0)).1, (State.helpRunOf (withBadger { helps := [demoHelp] }) 0 (sealed { rx 0x40 0x800000 with epoch := 1 }) 0 0 1
     0 |>.getD (demoHelp, 0)).2, sealed_good (by decide +kernel), zero_read (by decide +kernel), by decide +kernel⟩,
   ⟨demo, demoHelp, 0, by decide +kernel⟩,
   ⟨withRegion demo { demoEntry with state := .loading }, { demoHelp with render := true }, 1, by decide +kernel⟩,
   ⟨demo, 0, 0, 0, 0, by decide +kernel⟩,
   ⟨demo, 0, 0, 0, 1, 0, .stack 0x40000000, by decide +kernel⟩,
   ⟨withBadger { helps := [demoHelp] }, 0, 0, 0, 1, 0, false, .none, zero_read (by decide +kernel), by decide +kernel⟩,
   ⟨demo, 0, 0, 0, 1, 0, true, .none, zero_read (by decide +kernel), by decide +kernel⟩,
   ⟨demo, 0, 0, 0, 1, 0, false, .none, zero_read (by decide +kernel), by decide +kernel⟩⟩

/-- States that meet the hypotheses of `BadgerArrivalRowsComplete`, a clause at a time. -/
theorem witness_BadgerArrivalRowsComplete :
    (∃ (s : State) (f : Rx) (i : Fin 64) (render : Bool), let s1 := (s.at_ f.time); frameGood s f (if render then 0x62
      else 0x41) i ∧ f.t.getLsbD 63 = false ∧ f.len = 4096 ∧ f.payload.length = 4096 ∧ (s.at_ f.time).knownIn i (tField
      f 59 4) f.src = true ∧ (s.at_ f.time).runEpochOk i f = true ∧ f.tr = (if render then 127 else 0) ∧ s1.sealOver i
      f = true) ∧
    (∃ (s : State) (f : Rx) (i : Fin 64) (render : Bool) (h : HelpRun) (j pos : Nat), let s1 := (s.at_ f.time);
      let cm : BitVec 36 := (BitVec.ofNat 36 (tField f 23 36));
      let mine := (s1.partFor i f (tField f 59 4) (tField f 0 23) cm render); frameGood s f (if render then 0x62 else
      0x41) i ∧ f.t.getLsbD 63 = false ∧ f.len = 4096 ∧ f.payload.length = 4096 ∧ (s.at_ f.time).knownIn i (tField f 59
      4) f.src = true ∧ (s.at_ f.time).runEpochOk i f = true ∧ f.tr = (if render then 127 else 0) ∧ s1.sealOver i f =
      false ∧ mine = some (h, j, pos)) ∧
    (∃ (s : State) (f : Rx) (i : Fin 64) (render : Bool) (r : Run) (p : RunPanel) (before after : List Run),
      let s1 := (s.at_ f.time); let cm : BitVec 36 := (BitVec.ofNat 36 (tField f 23 36));
      let mine := (s1.partFor i f (tField f 59 4) (tField f 0 23) cm render);
      let fits (r : Run) : Prop := (r.tidx = i ∧ r.slot.val = tField f 59 4 ∧ (r.kind = .render ↔ render = true) ∧ r.epoch = f.epoch.toNat ∧ r.donly = false ∧ r.partOk f.src cm = true);
      let open_ (r : Run) (p : RunPanel) : Bool := (s1.runPanel r p.i == tField f 0 23 && p.part.isNone); frameGood s f
      (if render then 0x62 else 0x41) i ∧ ((∀ x ∈ before, ¬ fits x ∨ ∀ y ∈ x.panels, open_ x y = false)) ∧ f.t.getLsbD
      63 = false ∧ f.len = 4096 ∧ f.payload.length = 4096 ∧ (s.at_ f.time).knownIn i (tField f 59 4) f.src = true ∧
      (s.at_ f.time).runEpochOk i f = true ∧ f.tr = (if render then 127 else 0) ∧ s1.sealOver i f = false ∧ mine = none
      ∧ s1.badger.runs = before ++ r :: after ∧ fits r ∧ r.panels.find? (open_ r) = some p) ∧
    (∃ (s : State) (f : Rx) (i : Fin 64) (render : Bool), let s1 := (s.at_ f.time);
      let cm : BitVec 36 := (BitVec.ofNat 36 (tField f 23 36));
      let mine := (s1.partFor i f (tField f 59 4) (tField f 0 23) cm render);
      let fits (r : Run) : Prop := (r.tidx = i ∧ r.slot.val = tField f 59 4 ∧ (r.kind = .render ↔ render = true) ∧ r.epoch = f.epoch.toNat ∧ r.donly = false ∧ r.partOk f.src cm = true);
      let open_ (r : Run) (p : RunPanel) : Bool := (s1.runPanel r p.i == tField f 0 23 && p.part.isNone); frameGood s f
      (if render then 0x62 else 0x41) i ∧ f.t.getLsbD 63 = false ∧ f.len = 4096 ∧ f.payload.length = 4096 ∧ (s.at_
      f.time).knownIn i (tField f 59 4) f.src = true ∧ (s.at_ f.time).runEpochOk i f = true ∧ f.tr = (if render then
      127 else 0) ∧ s1.sealOver i f = false ∧ mine = none ∧ ((∀ x ∈ s1.badger.runs, ¬ fits x ∨ ∀ y ∈ x.panels, open_ x
      y = false))) ∧
    (∃ (s : State) (f : Rx) (i : Fin 64), let s1 := (s.at_ f.time); frameGood s f 0x52 i ∧ digestOk2 f = true ∧ tField
      f 33 4 = 15 ∧ tField f 0 23 ≠ 0x7FFFFF ∧ f.payload.length = 8 * tField f 23 10 ∧ (s.at_ f.time).runEpochOk i f =
      true ∧ s1.sealOver i f = true) ∧
    (∃ (s : State) (f : Rx) (i : Fin 64), let s1 := (s.at_ f.time);
      let run := (s1.runAt i (tField f 0 23) f.epoch.toNat); frameGood s f 0x52 i ∧ digestOk2 f = true ∧ tField f 33 4
      = 15 ∧ tField f 0 23 ≠ 0x7FFFFF ∧ f.payload.length = 8 * tField f 23 10 ∧ (s.at_ f.time).runEpochOk i f = true ∧
      s1.sealOver i f = false ∧ run = none) ∧
    (∃ (s : State) (f : Rx) (i : Fin 64) (r : Run), let s1 := (s.at_ f.time);
      let run := (s1.runAt i (tField f 0 23) f.epoch.toNat); frameGood s f 0x52 i ∧ digestOk2 f = true ∧ tField f 33 4
      = 15 ∧ tField f 0 23 ≠ 0x7FFFFF ∧ f.payload.length = 8 * tField f 23 10 ∧ (s.at_ f.time).runEpochOk i f = true ∧
      s1.sealOver i f = false ∧ run = some r ∧ r.helpers.find? (fun x => x.2 == f.src) = none) ∧
    (∃ (s : State) (f : Rx) (i : Fin 64) (r : Run) (h : Nat × Addr), let s1 := (s.at_ f.time);
      let run := (s1.runAt i (tField f 0 23) f.epoch.toNat);
      let has (h : Nat × Addr) (p : RunPanel) : Bool := (p.digs.any fun d => d.1 == h.1); frameGood s f 0x52 i ∧
      digestOk2 f = true ∧ tField f 33 4 = 15 ∧ tField f 0 23 ≠ 0x7FFFFF ∧ f.payload.length = 8 * tField f 23 10 ∧
      (s.at_ f.time).runEpochOk i f = true ∧ s1.sealOver i f = false ∧ run = some r ∧ r.helpers.find? (fun x => x.2 ==
      f.src) = some h ∧ (r.count ≠ tField f 23 10 ∨ r.panels.all (has h) = true)) ∧
    (∃ (s : State) (f : Rx) (i : Fin 64) (r : Run) (h : Nat × Addr), let s1 := (s.at_ f.time);
      let run := (s1.runAt i (tField f 0 23) f.epoch.toNat);
      let has (h : Nat × Addr) (p : RunPanel) : Bool := (p.digs.any fun d => d.1 == h.1); frameGood s f 0x52 i ∧
      digestOk2 f = true ∧ tField f 33 4 = 15 ∧ tField f 0 23 ≠ 0x7FFFFF ∧ f.payload.length = 8 * tField f 23 10 ∧
      (s.at_ f.time).runEpochOk i f = true ∧ s1.sealOver i f = false ∧ run = some r ∧ r.helpers.find? (fun x => x.2 ==
      f.src) = some h ∧ r.count = tField f 23 10 ∧ r.panels.all (has h) = false) ∧
    (∃ (s : State) (f : Rx) (i : Fin 64), let s1 := (s.at_ f.time); frameGood s f 0x52 i ∧ digestOk2 f = true ∧ tField
      f 33 4 = 15 ∧ tField f 0 23 = 0x7FFFFF ∧ tField f 23 10 = 4 ∧ f.len = 32 ∧ leField f.payload 28 4 < 2 ^ 25 ∧
      leField f.payload 24 4 < 2 ^ 25 ∧ f.tr = 0 ∧ (s.at_ f.time).runEpochOk i f = true ∧ s1.isJobManager i = false) ∧
    (∃ (s : State) (f : Rx) (i : Fin 64), let s1 := (s.at_ f.time);
      let target : Prop := (∃ p ∈ (s.ten i).fox.replacing, p.2 = f.src);
      let last := ((leField f.payload 24 4).testBit 24); frameGood s f 0x52 i ∧ (¬ target) ∧ digestOk2 f = true ∧
      tField f 33 4 = 15 ∧ tField f 0 23 = 0x7FFFFF ∧ tField f 23 10 = 4 ∧ f.len = 32 ∧ leField f.payload 28 4 < 2 ^ 25
      ∧ leField f.payload 24 4 < 2 ^ 25 ∧ f.tr = 0 ∧ (s.at_ f.time).runEpochOk i f = true ∧ s1.isJobManager i = true ∧
      last = true) ∧
    (∃ (s : State) (f : Rx) (i : Fin 64), let s1 := (s.at_ f.time);
      let target : Prop := (∃ p ∈ (s.ten i).fox.replacing, p.2 = f.src);
      let last := ((leField f.payload 24 4).testBit 24); frameGood s f 0x52 i ∧ target ∧ digestOk2 f = true ∧ tField f
      33 4 = 15 ∧ tField f 0 23 = 0x7FFFFF ∧ tField f 23 10 = 4 ∧ f.len = 32 ∧ leField f.payload 28 4 < 2 ^ 25 ∧
      leField f.payload 24 4 < 2 ^ 25 ∧ f.tr = 0 ∧ (s.at_ f.time).runEpochOk i f = true ∧ s1.isJobManager i = true ∧
      last = true) ∧
    (∃ (s : State) (f : Rx) (i : Fin 64), let s1 := (s.at_ f.time); let last := ((leField f.payload 24 4).testBit 24);
      frameGood s f 0x52 i ∧ digestOk2 f = true ∧ tField f 33 4 = 15 ∧ tField f 0 23 = 0x7FFFFF ∧ tField f 23 10 = 4 ∧
      f.len = 32 ∧ leField f.payload 28 4 < 2 ^ 25 ∧ leField f.payload 24 4 < 2 ^ 25 ∧ f.tr = 0 ∧ (s.at_
      f.time).runEpochOk i f = true ∧ s1.isJobManager i = true ∧ last = false) :=
  ⟨⟨withRs (fun r => { r with lastSeal := some 1 }), sealed
      { rx 0x62 0 (List.replicate 4096 0) with epoch := 1, tr := 127 }, 0, true, sealed_good (by decide +kernel),
      by decide +kernel⟩,
   ⟨withBadger { helps := [{ demoHelp with accs := [{ i := 0, bytes := [], cmask := 0, owes := [0, 1] }] }] }, sealed
     { rx 0x41 0x800000 (List.replicate 4096 0) with epoch := 1, tr := 0 }, 0, false,
     { demoHelp with accs := [{ i := 0, bytes := [], cmask := 0, owes := [0, 1] }] }, 0, 0, sealed_good
     (by decide +kernel), by decide +kernel⟩,
   ⟨withBadger { runs := [demoBadgerRun .rebuild] }, sealed
     { rx 0x41 0x1800000 (List.replicate 4096 0) with epoch := 1, tr := 0 }, 0, false, demoBadgerRun .rebuild,
     { i := 0, part := none, digs := [] }, [], [], sealed_good (by decide +kernel), (fun _ h => nomatch h),
     by decide +kernel⟩,
   ⟨demo, sealed { rx 0x41 0 (List.replicate 4096 0) with epoch := 1, tr := 0 }, 0, false, sealed_good
     (by decide +kernel), by decide +kernel⟩,
   ⟨withRs (fun r => { r with lastSeal := some 1 }), sealed
     { rx 0x52 0x1E00800000 (List.replicate 8 0) with epoch := 1, tr := 127 }, 0, sealed_good (by decide +kernel),
     by decide +kernel⟩,
   ⟨demo, sealed { rx 0x52 0x1E00800000 (List.replicate 8 0) with epoch := 1, tr := 0 }, 0, sealed_good
     (by decide +kernel), by decide +kernel⟩,
   ⟨withBadger { runs := [{ demoBadgerRun .rebuild with helpers := [(1, 3)] }] }, sealed
     { rx 0x52 0x1E00800000 (List.replicate 8 0) with epoch := 1, tr := 0 }, 0,
     { demoBadgerRun .rebuild with helpers := [(1, 3)] }, sealed_good (by decide +kernel), by decide +kernel⟩,
   ⟨withBadger { runs := [{ demoBadgerRun .rebuild with count := 2 }] }, sealed
     { rx 0x52 0x1E00800000 (List.replicate 8 0) with epoch := 1, tr := 0 }, 0,
     { demoBadgerRun .rebuild with count := 2 }, (1, 2), sealed_good (by decide +kernel), by decide +kernel⟩,
   ⟨withBadger { runs := [demoBadgerRun .rebuild] }, sealed
     { rx 0x52 0x1E00800000 (List.replicate 8 0) with epoch := 1, tr := 0 }, 0, demoBadgerRun .rebuild, (1, 2),
     sealed_good (by decide +kernel), by decide +kernel⟩,
   ⟨demo, sealed { rx 0x52 0x1E027FFFFF (List.replicate 32 0) with epoch := 1 }, 0, sealed_good (by decide +kernel),
     by decide +kernel⟩,
   ⟨withTree (some 0), sealed { rx 0x52 0x1E027FFFFF (List.replicate 27 0 ++ [1, 0, 0, 0, 0]) with epoch := 1 }, 0,
     sealed_good (by decide +kernel), none_in (by decide +kernel), by decide +kernel⟩,
   ⟨withFox (some 0) (fun f => { f with replacing := [(3, 2)] }), sealed
     { rx 0x52 0x1E027FFFFF (List.replicate 27 0 ++ [1, 0, 0, 0, 0]) with epoch := 1 }, 0, sealed_good
     (by decide +kernel), ⟨(3, 2), by decide +kernel, by decide +kernel⟩, by decide +kernel⟩,
   ⟨withTree (some 0), sealed { rx 0x52 0x1E027FFFFF (List.replicate 32 0) with epoch := 1 }, 0, sealed_good
     (by decide +kernel), by decide +kernel⟩⟩

/-- States that meet the hypotheses of `HandoverRowsComplete`, a clause at a time. -/
theorem witness_HandoverRowsComplete :
    (∃ (s : State) (f : Rx) (i : Fin 64), let s1 := (s.at_ f.time); frameGood s f 0x70 i ∧ handoverOk f 1 = true ∧
      f.len = 32 ∧ s1.offered i f = none) ∧
    (∃ (s : State) (f : Rx) (i : Fin 64) (c : Nat) (e : Entry), let s1 := (s.at_ f.time);
      let epoch := (leField f.payload 8 6); let droot : Word := (BitVec.ofNat 64 (leField f.payload 16 8));
      let again : Prop := (e.state ≠ .loading ∧ e.taken = some (epoch, droot)); frameGood s f 0x70 i ∧ handoverOk f 1 =
      true ∧ f.len = 32 ∧ s1.offered i f = some (c, e) ∧ again) ∧
    (∃ (s : State) (f : Rx) (i : Fin 64) (c : Nat) (e : Entry), let s1 := (s.at_ f.time);
      let epoch := (leField f.payload 8 6); let droot : Word := (BitVec.ofNat 64 (leField f.payload 16 8));
      let good : Prop := (e.state = .loading ∧ s1.dataComplete i c e = true ∧ epoch = (s.ten i).commit.committed ∧ s1.droot e = droot);
      frameGood s f 0x70 i ∧ handoverOk f 1 = true ∧ f.len = 32 ∧ s1.offered i f = some (c, e) ∧ good) ∧
    (∃ (s : State) (f : Rx) (i : Fin 64) (c : Nat) (e : Entry), let s1 := (s.at_ f.time);
      let epoch := (leField f.payload 8 6); let droot : Word := (BitVec.ofNat 64 (leField f.payload 16 8));
      let again : Prop := (e.state ≠ .loading ∧ e.taken = some (epoch, droot));
      let good : Prop := (e.state = .loading ∧ s1.dataComplete i c e = true ∧ epoch = (s.ten i).commit.committed ∧ s1.droot e = droot);
      frameGood s f 0x70 i ∧ handoverOk f 1 = true ∧ f.len = 32 ∧ s1.offered i f = some (c, e) ∧ (¬ again) ∧ (¬ good) ∧
      ((s.ten i).bg.subject = none ∨ e.state ≠ .loading)) ∧
    (∃ (s : State) (f : Rx) (i : Fin 64) (c : Nat) (e : Entry), let s1 := (s.at_ f.time);
      let epoch := (leField f.payload 8 6); let droot : Word := (BitVec.ofNat 64 (leField f.payload 16 8));
      let good : Prop := (e.state = .loading ∧ s1.dataComplete i c e = true ∧ epoch = (s.ten i).commit.committed ∧ s1.droot e = droot);
      frameGood s f 0x70 i ∧ handoverOk f 1 = true ∧ f.len = 32 ∧ s1.offered i f = some (c, e) ∧ (¬ good) ∧ (s.ten
      i).bg.subject ≠ none ∧ e.state = .loading) ∧
    (∃ (s : State) (f : Rx) (i : Fin 64) (e : Entry), let c := (tField f 12 16);
      let own : Prop := (∃ o ∈ s.ctx.offers, o.own = true ∧ o.tidx = i ∧ o.ctx = c ∧ o.dst = f.src);
      let names (e : Entry) : Prop := (e.state = .active ∧ e.tenant = s.tagOf i ∧ e.coord 0 = leField f.payload 0 8 ∧ e.lenp = tField f 28 24);
      frameGood s f 0x70 i ∧ handoverOk f 2 = true ∧ f.len = 32 ∧ own ∧ s.entry c = some e ∧ names e) ∧
    (∃ (s : State) (f : Rx) (i : Fin 64), let c := (tField f 12 16);
      let own : Prop := (∃ o ∈ s.ctx.offers, o.own = true ∧ o.tidx = i ∧ o.ctx = c ∧ o.dst = f.src);
      let names (e : Entry) : Prop := (e.state = .active ∧ e.tenant = s.tagOf i ∧ e.coord 0 = leField f.payload 0 8 ∧ e.lenp = tField f 28 24);
      frameGood s f 0x70 i ∧ (¬ own ∨ (∀ e : Entry, s.entry c = some e → ¬ names e)) ∧ handoverOk f 2 = true ∧ f.len =
      32) ∧
    (∃ (s : State) (f : Rx) (i : Fin 64), frameGood s f 0x70 i ∧ handoverOk f 3 = true ∧ f.len = 32) :=
  ⟨⟨demo, sealed (rx 0x70 0x20000105 (leBytes 8 (2 ^ 40) ++ leBytes 8 1 ++ leBytes 8 0 ++ leBytes 4 0 ++ leBytes 4
      0x1800000)), 0, sealed_good (by decide +kernel), by decide +kernel⟩,
   ⟨withRegion (demo) { demoEntry with taken := some (1, 0) }, sealed (rx 0x70 0x20000105 (leBytes 8 (2 ^ 40) ++
     leBytes 8 1 ++ leBytes 8 0 ++ leBytes 4 0 ++ leBytes 4 0x1800000)), 0, 3, { demoEntry with taken := some (1, 0) },
     sealed_good (by decide +kernel), by decide +kernel⟩,
   ⟨withRegion (withTenant (fun t => { t with bg := { t.bg with verified := [(3, 0, 0), (3, 1, 0)] } }))
     { demoEntry with state := .loading }, sealed (rx 0x70 0x20000105 (leBytes 8 (2 ^ 40) ++ leBytes 8 1 ++ leBytes 8
     (State.droot (withRegion (withTenant (fun t => { t with bg := { t.bg with verified := [(3, 0, 0), (3, 1, 0)] } }))
     { demoEntry with state := .loading }) { demoEntry with state := .loading }).toNat ++ leBytes 4 0 ++ leBytes 4
     0x1800000)), 0, 3, { demoEntry with state := .loading }, sealed_good (by decide +kernel), by decide +kernel⟩,
   ⟨withRegion (demo) demoEntry, sealed (rx 0x70 0x20000105 (leBytes 8 (2 ^ 40) ++ leBytes 8 1 ++ leBytes 8 0 ++
     leBytes 4 0 ++ leBytes 4 0x1800000)), 0, 3, demoEntry, sealed_good (by decide +kernel), by decide +kernel⟩,
   ⟨withRegion (withTenant (fun t => { t with bg := { t.bg with subject := some 9 } }))
     { demoEntry with state := .loading }, sealed (rx 0x70 0x20000105 (leBytes 8 (2 ^ 40) ++ leBytes 8 1 ++ leBytes 8 0
     ++ leBytes 4 0 ++ leBytes 4 0x1800000)), 0, 3, { demoEntry with state := .loading }, sealed_good
     (by decide +kernel), by decide +kernel⟩,
   ⟨{ withRegion demo demoEntry with ctx := { table := [(3, demoEntry)], offers := [demoOffer] } }, sealed (rx 0x70
     0x20003205 (leBytes 8 (2 ^ 40) ++ leBytes 8 1 ++ leBytes 8 0 ++ leBytes 4 0 ++ leBytes 4 0x1800000)), 0,
     demoEntry, sealed_good (by decide +kernel), by decide +kernel⟩,
   ⟨demo, sealed (rx 0x70 0x20003205 (leBytes 8 (2 ^ 40) ++ leBytes 8 1 ++ leBytes 8 0 ++ leBytes 4 0 ++ leBytes 4
     0x1800000)), 0, sealed_good (by decide +kernel), (Or.inl (none_in (by decide +kernel))), by decide +kernel⟩,
   ⟨demo, sealed (rx 0x70 0x20003305 (leBytes 8 (2 ^ 40) ++ leBytes 8 1 ++ leBytes 8 0 ++ leBytes 4 0 ++ leBytes 4
     0x1800000)), 0, sealed_good (by decide +kernel), by decide +kernel⟩⟩

/-- States that meet the hypotheses of `BadgerEngineRowsComplete`, a clause at a time. -/
theorem witness_BadgerEngineRowsComplete :
    (∃ (s : State) (i : Fin 64),
      let go : Prop := ((s.ten i).env ≠ none ∧ (s.ten i).bg.state = .setup ∧ (s.ten i).bg.decided = true ∧ (s.ten i).fox.self = .member ∧ s.flt.mode = .normal ∧ s.usedSlots i ≠ [] ∧ (∀ k ∈ s.settSlots i, (s.slot k).st ≠ .forming) ∧ s.regionsStand i = true);
      (¬ go)) ∧
    (∃ (s : State) (i : Fin 64),
      let go : Prop := ((s.ten i).env ≠ none ∧ (s.ten i).bg.state = .setup ∧ (s.ten i).bg.decided = true ∧ (s.ten i).fox.self = .member ∧ s.flt.mode = .normal ∧ s.usedSlots i ≠ [] ∧ (∀ k ∈ s.settSlots i, (s.slot k).st ≠ .forming) ∧ s.regionsStand i = true);
      go) ∧
    (∃ (s : State) (i : Fin 64),
      let off : Prop := ((s.ten i).env = none ∨ s.badgerFree = false ∨ (s.ten i).commit.vstate = .none ∨ (s.ten i).fox.self = .fenced);
      off) ∧
    (∃ (s : State) (i : Fin 64) (rs : List Run),
      let off : Prop := ((s.ten i).env = none ∨ s.badgerFree = false ∨ (s.ten i).commit.vstate = .none ∨ (s.ten i).fox.self = .fenced);
      let s1 := (s.dropRepairs i); let waits := (s1.badger.wait.filter fun r => r.tidx == i && !s1.heldRun r);
      let st := ((s.ten i).bg.state); let rebuilds : Prop := (st ≠ .idle ∧ st ≠ .setup ∧ st ≠ .complete); (¬ off) ∧
      (((rebuilds → rs = waits ++ (s1.nextRepair i).take 1 ++ (s1.nextRebuild i).take 1) ∧ (¬ rebuilds → rs = waits ++
      (s1.nextRepair i).take 1))) ∧ s1.firstRun (rs.filter s1.mayStart) = none) ∧
    (∃ (s : State) (i : Fin 64) (rs : List Run) (r : Run),
      let off : Prop := ((s.ten i).env = none ∨ s.badgerFree = false ∨ (s.ten i).commit.vstate = .none ∨ (s.ten i).fox.self = .fenced);
      let s1 := (s.dropRepairs i); let waits := (s1.badger.wait.filter fun r => r.tidx == i && !s1.heldRun r);
      let st := ((s.ten i).bg.state); let rebuilds : Prop := (st ≠ .idle ∧ st ≠ .setup ∧ st ≠ .complete); (¬ off) ∧
      (((rebuilds → rs = waits ++ (s1.nextRepair i).take 1 ++ (s1.nextRebuild i).take 1) ∧ (¬ rebuilds → rs = waits ++
      (s1.nextRepair i).take 1))) ∧ s1.firstRun (rs.filter s1.mayStart) = some r) ∧
    (∃ (s : State) (r : Run), s.mayStart r = true) ∧
    (∃ (s : State) (r : Run), s.mayStart r = false) ∧
    (∃ (s : State) (i : Fin 64) (p : Nat), let run := (s.badger.runs.find? fun r => r.tidx == i && r.first == p); (run
      = none ∨ s.badgerWorks = false)) ∧
    (∃ (s : State) (i : Fin 64) (p : Nat) (r : Run),
      let run := (s.badger.runs.find? fun r => r.tidx == i && r.first == p); run = some r ∧ s.badgerWorks = true) ∧
    (∃ (s : State) (n : Nat) (h : HelpRun), s.badger.helps[n]? = some h) ∧
    (∃ (s : State) (n : Nat) (h : AuHelp), s.badger.helps.length ≤ n ∧ s.audit.helps[n - s.badger.helps.length]? = some
      h) ∧
    (∃ (s : State) (n : Nat), s.badger.helps.length + s.audit.helps.length ≤ n) ∧
    (∃ (s : State) (i : Fin 64) (ctx : Option Nat), (s.ten i).bg.records.filter (fun r => r.ctx == ctx) = []) ∧
    (∃ (s : State) (i : Fin 64) (ctx : Option Nat) (r : Completion), (s.ten i).bg.records.filter (fun r => r.ctx ==
      ctx) = [r]) ∧
    (∃ (s : State) (a : Acc), let taken : Prop := (s.windowOpen 0x5820 = true ∧ fromSystem a = true); s.portsUp = true
      ∧ (¬ taken)) ∧
    (∃ (s : State) (a : Acc), let taken : Prop := (s.windowOpen 0x5820 = true ∧ fromSystem a = true); s.portsUp = true
      ∧ taken ∧ (∀ i : Fin 64, (s.ten i).bg.state = .idle)) ∧
    (∃ (s : State) (r : RunSel), (s.slotTenant r.slot = none ∨ 16 ≤ r.slot)) ∧
    (∃ (s : State) (r : RunSel) (i : Fin 64), let d := ((s.slot r.slot).sett);
      let free (p : Nat) : Bool := (decide (p < d.q) && !s.inRun r.slot true p && !(s.ten i).rs.rendered.contains (r.slot, p));
      let go : Prop := ((s.ten i).rs.sealing = true ∧ s.badgerFree = true ∧ (s.slot r.slot).kind = .sett ∧ free r.first = true ∧ s.mayBegin r.slot true r.first = true);
      s.slotTenant r.slot = some i ∧ (¬ go)) ∧
    (∃ (s : State) (r : RunSel) (i : Fin 64) (h : r.slot < 16), let d := ((s.slot r.slot).sett);
      let free (p : Nat) : Bool := (decide (p < d.q) && !s.inRun r.slot true p && !(s.ten i).rs.rendered.contains (r.slot, p));
      let go : Prop := ((s.ten i).rs.sealing = true ∧ s.badgerFree = true ∧ (s.slot r.slot).kind = .sett ∧ free r.first = true ∧ s.mayBegin r.slot true r.first = true);
      let n := (((List.range (max 1 s.cfg.glob.run)).takeWhile fun j => free (r.first + j * max 1 d.m)).length);
      let runs := (s.mkRuns i .render ⟨r.slot, h⟩ (d.k + r.first % max 1 d.m) (s.ten i).rs.boundary false n r.first n);
      s.slotTenant r.slot = some i ∧ go ∧ runs = []) ∧
    (∃ (s : State) (r : RunSel) (i : Fin 64) (h : r.slot < 16) (run : Run) (rest : List Run),
      let d := ((s.slot r.slot).sett);
      let free (p : Nat) : Bool := (decide (p < d.q) && !s.inRun r.slot true p && !(s.ten i).rs.rendered.contains (r.slot, p));
      let go : Prop := ((s.ten i).rs.sealing = true ∧ s.badgerFree = true ∧ (s.slot r.slot).kind = .sett ∧ free r.first = true ∧ s.mayBegin r.slot true r.first = true);
      let n := (((List.range (max 1 s.cfg.glob.run)).takeWhile fun j => free (r.first + j * max 1 d.m)).length);
      let runs := (s.mkRuns i .render ⟨r.slot, h⟩ (d.k + r.first % max 1 d.m) (s.ten i).rs.boundary false n r.first n);
      s.slotTenant r.slot = some i ∧ go ∧ runs = run :: rest) :=
  ⟨⟨demo, 0, by decide +kernel⟩,
   ⟨withRegion (rebuilding .setup) { demoEntry with state := .loading }, 0, by decide +kernel⟩,
   ⟨State.reset, 0, by decide +kernel⟩,
   ⟨demo, 0, [], by decide +kernel⟩,
   ⟨{ withRegion demo demoEntry with badger := { repairs := [.data 3 0] } }, 0, (State.nextRepair
     { withRegion demo demoEntry with badger := { repairs := [.data 3 0] } } 0).take 1, ((State.nextRepair
     { withRegion demo demoEntry with badger := { repairs := [.data 3 0] } } 0).take 1).headD (demoBadgerRun .rebuild),
     by decide +kernel⟩,
   ⟨demo, demoBadgerRun .rebuild, by decide +kernel⟩,
   ⟨withBadger { runs := [demoBadgerRun .rebuild] }, demoBadgerRun .rebuild, by decide +kernel⟩,
   ⟨demo, 0, 0, by decide +kernel⟩,
   ⟨withBadger { runs := [demoBadgerRun .rebuild] }, 0, 0, demoBadgerRun .rebuild, by decide +kernel⟩,
   ⟨withBadger { helps := [demoHelp] }, 0, demoHelp, by decide +kernel⟩,
   ⟨withAudit
     { helps := [{ tidx := 0, slot := 0, auditor := 2, s0 := 0, count := 1, epoch := 1, accs := [], release := none, fixed := 0 }] },
     0,
     { tidx := 0, slot := 0, auditor := 2, s0 := 0, count := 1, epoch := 1, accs := [], release := none, fixed := 0 },
     by decide +kernel⟩,
   ⟨demo, 0, by decide +kernel⟩,
   ⟨demo, 0, none, by decide +kernel⟩,
   ⟨withTenant (fun t => { t with bg := { t.bg with records := [⟨none, [], 63, 0⟩] } }), 0, none, ⟨none, [], 63, 0⟩,
     by decide +kernel⟩,
   ⟨demo, { tag := 7, id := 1 }, by decide +kernel⟩,
   ⟨demo, sys, by decide +kernel⟩,
   ⟨demo, ⟨16, 0⟩, by decide +kernel⟩,
   ⟨demo, ⟨0, 0⟩, 0, by decide +kernel⟩,
   ⟨{ rendering with slots := State.reset.slots.set 0 { demoSlot with sett := { demoSett with rows := demoRows.map fun r => { r with dcap := 0 } } } },
     ⟨0, 0⟩, 0, by decide, by decide +kernel⟩,
   ⟨rendering, ⟨0, 0⟩, 0, by decide, (rendering.mkRuns 0 .render 0 1 1 false 1 0 1).headD (demoBadgerRun .render),
     (rendering.mkRuns 0 .render 0 1 1 false 1 0 1).tail, by decide +kernel⟩⟩

/-- States that meet the hypotheses of `ContextRowsComplete`, a clause at a time. -/
theorem witness_ContextRowsComplete :
    (∃ (s : State) (a : Acc) (c : Instr), s.portsUp = true ∧ s.windowOpen 0x4008 = false ∧ c ∈ [Instr.ctxRead a,
      .install a, .modify a, .retire a, .find a, .handoverOut a]) ∧
    (∃ (r : Nat), (r = 0 ∨ r = 0x0C)) ∧
    (∃ (s : State) (r : Nat), r ≠ 0 ∧ r ≠ 0x0C ∧ s.entry s.ctx.index.toNat = none) ∧
    (∃ (s : State) (r : Nat) (e : Entry), r ≠ 0 ∧ r ≠ 0x0C ∧ s.entry s.ctx.index.toNat = some e) ∧
    (∃ (s : State), let idx := (s.ctx.index.toNat); s.portsUp = true ∧ s.windowOpen 0x4008 = true ∧ s.entry idx = none) ∧
    (∃ (s : State) (a : Acc) (e : Entry), let idx := (s.ctx.index.toNat); s.portsUp = true ∧ s.windowOpen 0x4008 = true
      ∧ s.installCheck a idx = (0, some e)) ∧
    (∃ (s : State) (a : Acc) (r : Nat), let idx := (s.ctx.index.toNat); s.portsUp = true ∧ s.windowOpen 0x4008 = true ∧
      s.installCheck a idx = (r, none)) ∧
    (∃ (s : State) (e : Entry), let idx := (s.ctx.index.toNat); s.portsUp = true ∧ s.windowOpen 0x4008 = true ∧ s.entry
      idx = some e ∧ e.admitsModify = false) ∧
    (∃ (s : State) (e : Entry), let idx := (s.ctx.index.toNat); let cls := (clsOf (bitsOf (s.ctx.word 0) 3 2));
      s.portsUp = true ∧ s.windowOpen 0x4008 = true ∧ s.entry idx = some e ∧ e.admitsModify = true ∧ cls = none) ∧
    (∃ (s : State) (a : Acc) (e : Entry), let idx := (s.ctx.index.toNat);
      let cls := (clsOf (bitsOf (s.ctx.word 0) 3 2)); s.portsUp = true ∧ s.windowOpen 0x4008 = true ∧ s.entry idx =
      some e ∧ e.admitsModify = true ∧ cls ≠ none ∧ s.tenantAllowed a e.tenant = false) ∧
    (∃ (s : State) (a : Acc) (e : Entry) (c : Cls) (i : Fin 64), let idx := (s.ctx.index.toNat);
      let cls := (clsOf (bitsOf (s.ctx.word 0) 3 2)); s.portsUp = true ∧ s.windowOpen 0x4008 = true ∧ s.entry idx =
      some e ∧ e.admitsModify = true ∧ cls = some c ∧ s.tenantOf e.tenant = some i ∧ mayAct a e.tenant = true ∧
      (s.classOk i c (bitsOf (s.ctx.word 0) 48 4) = false ∨ c.slotKind ≠ e.cls.slotKind)) ∧
    (∃ (s : State) (a : Acc) (e : Entry) (c : Cls) (i : Fin 64), let idx := (s.ctx.index.toNat);
      let cls := (clsOf (bitsOf (s.ctx.word 0) 3 2)); s.portsUp = true ∧ s.windowOpen 0x4008 = true ∧ s.entry idx =
      some e ∧ e.admitsModify = true ∧ cls = some c ∧ s.tenantOf e.tenant = some i ∧ mayAct a e.tenant = true ∧
      s.classOk i c (bitsOf (s.ctx.word 0) 48 4) = true ∧ c.slotKind = e.cls.slotKind) ∧
    (∃ (s : State) (e : Entry), let idx := (s.ctx.index.toNat);
      let admits : Prop := (e.state = .loading ∨ e.state = .active ∨ (e.state = .contained ∧ e.sealed = false));
      s.portsUp = true ∧ s.windowOpen 0x4008 = true ∧ s.entry idx = some e ∧ (¬ admits)) ∧
    (∃ (s : State) (a : Acc) (e : Entry), let idx := (s.ctx.index.toNat);
      let admits : Prop := (e.state = .loading ∨ e.state = .active ∨ (e.state = .contained ∧ e.sealed = false));
      s.portsUp = true ∧ s.windowOpen 0x4008 = true ∧ s.entry idx = some e ∧ admits ∧ s.tenantAllowed a e.tenant =
      false) ∧
    (∃ (s : State) (a : Acc) (e : Entry), let idx := (s.ctx.index.toNat); s.portsUp = true ∧ s.windowOpen 0x4008 = true
      ∧ s.entry idx = some e ∧ s.tenantAllowed a e.tenant = true ∧ e.state = .active) ∧
    (∃ (s : State) (a : Acc) (e : Entry), let idx := (s.ctx.index.toNat);
      let admits : Prop := (e.state = .loading ∨ e.state = .active ∨ (e.state = .contained ∧ e.sealed = false));
      s.portsUp = true ∧ s.windowOpen 0x4008 = true ∧ s.entry idx = some e ∧ admits ∧ s.tenantAllowed a e.tenant = true
      ∧ e.state ≠ .active) ∧
    (∃ (s : State) (a : Acc) (e : Entry), let idx := (s.ctx.index.toNat); s.portsUp = true ∧ s.windowOpen 0x4008 = true
      ∧ s.entry idx = some e ∧ e.state = .active ∧ s.tenantAllowed a e.tenant = false) ∧
    (∃ (s : State) (a : Acc) (e : Entry) (i : Fin 64), let idx := (s.ctx.index.toNat); s.portsUp = true ∧ s.windowOpen
      0x4008 = true ∧ s.entry idx = some e ∧ e.state = .active ∧ s.tenantOf e.tenant = some i ∧ mayAct a e.tenant =
      true) ∧
    (∃ (s : State) (a : Acc), let tag : Tag := (BitVec.ofNat 16 (bitsOf (s.ctx.word 0) 16 16)); s.portsUp = true ∧
      s.windowOpen 0x4008 = true ∧ s.tenantAllowed a tag = false) ∧
    (∃ (s : State) (a : Acc), let tag : Tag := (BitVec.ofNat 16 (bitsOf (s.ctx.word 0) 16 16));
      let coord := (s.ctx.word 3);
      let holds (p : Nat × Entry) : Bool := (p.2.tensor.toNat == coord / 2 ^ 40 && decide (p.2.lfirst.toNat ≤ coord % 2 ^ 40) && decide (coord % 2 ^ 40 < p.2.lfirst.toNat + p.2.lenp));
      s.portsUp = true ∧ s.windowOpen 0x4008 = true ∧ s.tenantAllowed a tag = true ∧ (s.entriesOf tag).find? holds =
      none) ∧
    (∃ (s : State) (a : Acc) (p : Nat × Entry), let tag : Tag := (BitVec.ofNat 16 (bitsOf (s.ctx.word 0) 16 16));
      let coord := (s.ctx.word 3);
      let holds (p : Nat × Entry) : Bool := (p.2.tensor.toNat == coord / 2 ^ 40 && decide (p.2.lfirst.toNat ≤ coord % 2 ^ 40) && decide (coord % 2 ^ 40 < p.2.lfirst.toNat + p.2.lenp));
      s.portsUp = true ∧ s.windowOpen 0x4008 = true ∧ s.tenantAllowed a tag = true ∧ (s.entriesOf tag).find? holds =
      some p) ∧
    (∃ (s : State) (idx : Nat), s.entry idx ≠ none) ∧
    (∃ (s : State) (idx : Nat), let c := (s.ctx); let cl := (clsOf (bitsOf (c.word 0) 3 2)); s.entry idx = none ∧ (cl =
      none ∨ c.reservedOk = false)) ∧
    (∃ (s : State) (a : Acc) (idx : Nat) (cls : Cls), let c := (s.ctx); let e (cls : Cls) : Entry := (c.image cls 0);
      let cl := (clsOf (bitsOf (c.word 0) 3 2)); s.entry idx = none ∧ cl = some cls ∧ c.reservedOk = true ∧
      s.tenantAllowed a (e cls).tenant = false) ∧
    (∃ (s : State) (a : Acc) (idx : Nat) (cls : Cls) (i : Fin 64), let c := (s.ctx);
      let e (cls : Cls) : Entry := (c.image cls 0); let cl := (clsOf (bitsOf (c.word 0) 3 2)); let x := (e cls);
      let inside : Prop := (1 ≤ x.lenp ∧ x.lenp ≤ Config.liveLimit ∧ s.spanBase ≤ 4096 * x.basep ∧ 4096 * (x.basep + 2 * x.lenp) ≤ s.spanBase + s.spanLen);
      s.entry idx = none ∧ cl = some cls ∧ c.reservedOk = true ∧ s.tenantOf (e cls).tenant = some i ∧ mayAct a (e
      cls).tenant = true ∧ (¬ inside)) ∧
    (∃ (s : State) (a : Acc) (idx : Nat) (cls : Cls) (i : Fin 64), let c := (s.ctx);
      let e (cls : Cls) : Entry := (c.image cls 0); let cl := (clsOf (bitsOf (c.word 0) 3 2)); let x := (e cls);
      let inside : Prop := (1 ≤ x.lenp ∧ x.lenp ≤ Config.liveLimit ∧ s.spanBase ≤ 4096 * x.basep ∧ 4096 * (x.basep + 2 * x.lenp) ≤ s.spanBase + s.spanLen);
      let clash := (s.extentClash x.basep x.lenp); s.entry idx = none ∧ cl = some cls ∧ c.reservedOk = true ∧
      s.tenantOf (e cls).tenant = some i ∧ mayAct a (e cls).tenant = true ∧ inside ∧ clash = true) ∧
    (∃ (s : State) (a : Acc) (idx : Nat) (cls : Cls) (i : Fin 64), let c := (s.ctx);
      let e (cls : Cls) : Entry := (c.image cls 0); let cl := (clsOf (bitsOf (c.word 0) 3 2)); let x := (e cls);
      let inside : Prop := (1 ≤ x.lenp ∧ x.lenp ≤ Config.liveLimit ∧ s.spanBase ≤ 4096 * x.basep ∧ 4096 * (x.basep + 2 * x.lenp) ≤ s.spanBase + s.spanLen);
      let clash := (s.extentClash x.basep x.lenp); let fits := (s.slotFits i cls x.slot x.spanel x.lenp); s.entry idx =
      none ∧ cl = some cls ∧ c.reservedOk = true ∧ s.tenantOf (e cls).tenant = some i ∧ mayAct a (e cls).tenant = true
      ∧ inside ∧ clash = false ∧ fits = false) ∧
    (∃ (s : State) (a : Acc) (idx : Nat) (cls : Cls) (i : Fin 64), let c := (s.ctx);
      let e (cls : Cls) : Entry := (c.image cls 0); let cl := (clsOf (bitsOf (c.word 0) 3 2)); let x := (e cls);
      let inside : Prop := (1 ≤ x.lenp ∧ x.lenp ≤ Config.liveLimit ∧ s.spanBase ≤ 4096 * x.basep ∧ 4096 * (x.basep + 2 * x.lenp) ≤ s.spanBase + s.spanLen);
      let clash := (s.extentClash x.basep x.lenp); let fits := (s.slotFits i cls x.slot x.spanel x.lenp);
      let coord := (s.coordClash x.tenant x.tensor x.lfirst.toNat x.lenp); s.entry idx = none ∧ cl = some cls ∧
      c.reservedOk = true ∧ s.tenantOf (e cls).tenant = some i ∧ mayAct a (e cls).tenant = true ∧ inside ∧ clash =
      false ∧ fits = true ∧ coord = true) ∧
    (∃ (s : State) (a : Acc) (idx : Nat) (cls : Cls) (i : Fin 64), let c := (s.ctx);
      let e (cls : Cls) : Entry := (c.image cls 0); let cl := (clsOf (bitsOf (c.word 0) 3 2)); let x := (e cls);
      let inside : Prop := (1 ≤ x.lenp ∧ x.lenp ≤ Config.liveLimit ∧ s.spanBase ≤ 4096 * x.basep ∧ 4096 * (x.basep + 2 * x.lenp) ≤ s.spanBase + s.spanLen);
      let clash := (s.extentClash x.basep x.lenp); let fits := (s.slotFits i cls x.slot x.spanel x.lenp);
      let coord := (s.coordClash x.tenant x.tensor x.lfirst.toNat x.lenp); let okCls := (s.classOk i cls x.sgrp.toNat);
      s.entry idx = none ∧ cl = some cls ∧ c.reservedOk = true ∧ s.tenantOf (e cls).tenant = some i ∧ mayAct a (e
      cls).tenant = true ∧ inside ∧ clash = false ∧ fits = true ∧ coord = false ∧ okCls = false) ∧
    (∃ (s : State) (a : Acc) (idx : Nat) (cls : Cls) (i : Fin 64), let c := (s.ctx);
      let e (cls : Cls) : Entry := (c.image cls 0); let cl := (clsOf (bitsOf (c.word 0) 3 2)); let x := (e cls);
      let inside : Prop := (1 ≤ x.lenp ∧ x.lenp ≤ Config.liveLimit ∧ s.spanBase ≤ 4096 * x.basep ∧ 4096 * (x.basep + 2 * x.lenp) ≤ s.spanBase + s.spanLen);
      let clash := (s.extentClash x.basep x.lenp); let fits := (s.slotFits i cls x.slot x.spanel x.lenp);
      let coord := (s.coordClash x.tenant x.tensor x.lfirst.toNat x.lenp); let okCls := (s.classOk i cls x.sgrp.toNat);
      s.entry idx = none ∧ cl = some cls ∧ c.reservedOk = true ∧ s.tenantOf (e cls).tenant = some i ∧ mayAct a (e
      cls).tenant = true ∧ inside ∧ clash = false ∧ fits = true ∧ coord = false ∧ okCls = true ∧ s.quotaOk i x.tenant
      x.lenp = false) ∧
    (∃ (s : State) (a : Acc) (idx : Nat) (cls : Cls) (i : Fin 64), let c := (s.ctx);
      let e (cls : Cls) : Entry := (c.image cls 0); let cl := (clsOf (bitsOf (c.word 0) 3 2)); let x := (e cls);
      let inside : Prop := (1 ≤ x.lenp ∧ x.lenp ≤ Config.liveLimit ∧ s.spanBase ≤ 4096 * x.basep ∧ 4096 * (x.basep + 2 * x.lenp) ≤ s.spanBase + s.spanLen);
      let clash := (s.extentClash x.basep x.lenp); let fits := (s.slotFits i cls x.slot x.spanel x.lenp);
      let coord := (s.coordClash x.tenant x.tensor x.lfirst.toNat x.lenp); let okCls := (s.classOk i cls x.sgrp.toNat);
      s.entry idx = none ∧ cl = some cls ∧ c.reservedOk = true ∧ s.tenantOf (e cls).tenant = some i ∧ mayAct a (e
      cls).tenant = true ∧ inside ∧ clash = false ∧ fits = true ∧ coord = false ∧ okCls = true ∧ s.quotaOk i x.tenant
      x.lenp = true) ∧
    (∃ (s : State) (o : Offer), s.ctx.offers.filter (fun x => x.ctx == o.ctx) = [o] ∧ o.sent < 64) ∧
    (∃ (s : State) (o : Offer), s.ctx.offers.filter (fun x => x.ctx == o.ctx) = [o] ∧ 64 ≤ o.sent) ∧
    (∃ (s : State) (c : Nat), (∀ o ∈ s.ctx.offers, o.ctx ≠ c)) :=
  ⟨⟨withFlt (fun f => { f with mode := .resetting }), sys, .ctxRead sys, by decide +kernel⟩,
   ⟨0, by decide +kernel⟩,
   ⟨ctxState [] demoEntry, 5, by decide +kernel⟩,
   ⟨ctxState [(3, demoEntry)] demoEntry, 5, demoEntry, by decide +kernel⟩,
   ⟨ctxState [] demoEntry, by decide +kernel⟩,
   ⟨ctxState [] demoEntry, sys, ((ctxState [] demoEntry).installCheck sys 3).2.getD demoEntry, by decide +kernel⟩,
   ⟨ctxState [(3, demoEntry)] demoEntry, sys, ((ctxState [(3, demoEntry)] demoEntry).installCheck sys 3).1,
     by decide +kernel⟩,
   ⟨ctxState [(3, { demoEntry with state := .retiring })] demoEntry, { demoEntry with state := .retiring },
     by decide +kernel⟩,
   ⟨{ demo with ctx := { index := 3, table := [(3, demoEntry)] } }, demoEntry, by decide +kernel⟩,
   ⟨ctxState [(3, demoEntry)] demoEntry, { tag := 9, id := 1 }, demoEntry, by decide +kernel⟩,
   ⟨ctxState [(3, demoEntry)] { demoEntry with cls := .replica }, sys, demoEntry, .replica, 0, by decide +kernel⟩,
   ⟨ctxState [(3, demoEntry)] demoEntry, sys, demoEntry, .direct, 0, by decide +kernel⟩,
   ⟨ctxState [(3, { demoEntry with state := .retiring })] demoEntry, { demoEntry with state := .retiring },
     by decide +kernel⟩,
   ⟨ctxState [(3, demoEntry)] demoEntry, { tag := 9, id := 1 }, demoEntry, by decide +kernel⟩,
   ⟨ctxState [(3, demoEntry)] demoEntry, sys, demoEntry, by decide +kernel⟩,
   ⟨ctxState [(3, { demoEntry with state := .loading })] demoEntry, sys, { demoEntry with state := .loading },
     by decide +kernel⟩,
   ⟨ctxState [(3, demoEntry)] demoEntry, { tag := 9, id := 1 }, demoEntry, by decide +kernel⟩,
   ⟨ctxState [(3, demoEntry)] demoEntry, sys, demoEntry, 0, by decide +kernel⟩,
   ⟨ctxState [] demoEntry, { tag := 9, id := 1 }, by decide +kernel⟩,
   ⟨ctxState [] demoEntry, sys, by decide +kernel⟩,
   ⟨ctxState [(3, demoEntry)] { demoEntry with lfirst := 1 }, sys, (3, demoEntry), by decide +kernel⟩,
   ⟨ctxState [(3, demoEntry)] demoEntry, 3, by decide +kernel⟩,
   ⟨{ demo with ctx := {} }, 3, by decide +kernel⟩,
   ⟨ctxState [] demoEntry, { tag := 9, id := 1 }, 3, .direct, by decide +kernel⟩,
   ⟨ctxState [] { demoEntry with lenp := 0 }, sys, 3, .direct, 0, by decide +kernel⟩,
   ⟨{ ctxState [(4, demoEntry)] demoEntry with loader := demo.loader }, sys, 3, .direct, 0, by decide +kernel⟩,
   ⟨ctxState [] { demoEntry with slot := 1 }, sys, 3, .direct, 0, by decide +kernel⟩,
   ⟨{ ctxState [(4, { demoEntry with basep := 0x40100, spanel := 32 })] demoEntry with loader := demo.loader }, sys, 3,
     .direct, 0, by decide +kernel⟩,
   ⟨ctxState [] { demoEntry with sgrp := 1 }, sys, 3, .direct, 0, by decide +kernel⟩,
   ⟨{ ctxState [] demoEntry with tenants := State.reset.tenants.set 0 { demoTenant with env := some { tag := 7, tidx := 0, classMask := 7, slotMask := 1, ishare := 4, quota := 1, elimit := 16 } } },
     sys, 3, .direct, 0, by decide +kernel⟩,
   ⟨ctxState [] demoEntry, sys, 3, .direct, 0, by decide +kernel⟩,
   ⟨{ demo with ctx := { offers := [demoOffer] } }, demoOffer, by decide +kernel⟩,
   ⟨{ demo with ctx := { offers := [{ demoOffer with sent := 64 }] } }, { demoOffer with sent := 64 },
     by decide +kernel⟩,
   ⟨demo, 3, by decide +kernel⟩⟩

/-- States that meet the hypotheses of `ResliceFrameRowsComplete`, a clause at a time. -/
theorem witness_ResliceFrameRowsComplete :
    (∃ (s : State) (f : Rx) (i : Fin 64), let s' := (s.at_ f.time); let r := ((s.ten i).rs);
      let taken : Prop := (s'.boundaryOk i f = true ∨ s'.armedFor i f = true); frameGood s f 0x60 i ∧ tField f 32 32 =
      0 ∧ f.len = 0 ∧ f.tr = 0 ∧ taken ∧ (r.state ≠ .armed ∨ r.joiner = false)) ∧
    (∃ (s : State) (f : Rx) (i : Fin 64), let s' := (s.at_ f.time); let r := ((s.ten i).rs);
      let taken : Prop := (s'.boundaryOk i f = true ∨ s'.armedFor i f = true); frameGood s f 0x60 i ∧ tField f 32 32 =
      0 ∧ f.len = 0 ∧ f.tr = 0 ∧ taken ∧ r.state = .armed ∧ r.joiner = true) ∧
    (∃ (s : State) (f : Rx) (i : Fin 64), let s' := (s.at_ f.time); let r := ((s.ten i).rs);
      let taken : Prop := (s'.boundaryOk i f = true ∨ s'.armedFor i f = true); frameGood s f 0x60 i ∧ tField f 32 32 =
      0 ∧ f.len = 0 ∧ f.tr = 0 ∧ (¬ taken) ∧ r.lastSeal = some f.epoch.toNat) ∧
    (∃ (s : State) (f : Rx) (i : Fin 64), let s' := (s.at_ f.time); let r := ((s.ten i).rs);
      let taken : Prop := (s'.boundaryOk i f = true ∨ s'.armedFor i f = true); frameGood s f 0x60 i ∧ tField f 32 32 =
      0 ∧ f.len = 0 ∧ f.tr = 0 ∧ (¬ taken) ∧ r.lastSeal ≠ some f.epoch.toNat ∧ r.cancelled = true ∧ f.epoch.toNat =
      r.boundary) ∧
    (∃ (s : State) (f : Rx) (i : Fin 64), let s' := (s.at_ f.time); frameGood s f 0x60 i ∧ tField f 32 32 = 0 ∧ f.len =
      0 ∧ f.tr = 1 ∧ s'.boundaryOk i f = true) ∧
    (∃ (s : State) (f : Rx) (i : Fin 64), let s' := (s.at_ f.time); let r := ((s.ten i).rs); frameGood s f 0x60 i ∧
      tField f 32 32 = 0 ∧ f.len = 0 ∧ f.tr = 2 ∧ s'.boundaryOk i f = true ∧ (∃ d ∈ r.dests, d.addr = f.src)) ∧
    (∃ (s : State) (f : Rx) (i : Fin 64), let s' := (s.at_ f.time); let r := ((s.ten i).rs); frameGood s f 0x60 i ∧
      tField f 32 32 = 0 ∧ f.len = 0 ∧ f.tr = 2 ∧ s'.boundaryOk i f = true ∧ (∀ d ∈ r.dests, d.addr ≠ f.src)) ∧
    (∃ (s : State) (f : Rx) (i : Fin 64), let s' := (s.at_ f.time); let r := ((s.ten i).rs); frameGood s f 0x60 i ∧
      tField f 32 32 = 0 ∧ f.len = 0 ∧ f.tr = 3 ∧ s'.boundaryOk i f = true ∧ r.new_ = false) ∧
    (∃ (s : State) (f : Rx) (i : Fin 64), let s' := (s.at_ f.time); let r := ((s.ten i).rs); frameGood s f 0x60 i ∧
      tField f 32 32 = 0 ∧ f.len = 0 ∧ f.tr = 3 ∧ s'.boundaryOk i f = true ∧ r.new_ = true) ∧
    (∃ (s : State) (f : Rx) (i : Fin 64), let s' := (s.at_ f.time); frameGood s f 0x60 i ∧ tField f 32 32 = 0 ∧ f.len =
      0 ∧ f.tr = 4 ∧ s'.boundaryOk i f = true) ∧
    (∃ (s : State) (f : Rx) (i : Fin 64), frameGood s f 0x61 i ∧ f.len = 4096 ∧ f.tr = 0 ∧ ((s.at_ f.time).boundaryOk i
      f = true ∨ (s.at_ f.time).armedFor i f = true)) ∧
    (∃ (s : State) (i : Fin 64) (coord : Nat),
      let place := ((s.loadingOf i).find? fun p => p.2.tensor.toNat == coord / 2 ^ 40 && decide (p.2.lfirst.toNat ≤ coord % 2 ^ 40) && decide (coord % 2 ^ 40 < p.2.lfirst.toNat + p.2.lenp));
      place = none) ∧
    (∃ (s : State) (i : Fin 64) (coord : Nat) (c : Nat) (e : Entry),
      let place := ((s.loadingOf i).find? fun p => p.2.tensor.toNat == coord / 2 ^ 40 && decide (p.2.lfirst.toNat ≤ coord % 2 ^ 40) && decide (coord % 2 ^ 40 < p.2.lfirst.toNat + p.2.lenp));
      let p := (coord % 2 ^ 40 - e.lfirst.toNat); let r := (s.dirRec (e.panelAddr p false)); place = some (c, e) ∧ r.d
      = true) ∧
    (∃ (s : State) (i : Fin 64) (coord : Nat) (c : Nat) (e : Entry),
      let place := ((s.loadingOf i).find? fun p => p.2.tensor.toNat == coord / 2 ^ 40 && decide (p.2.lfirst.toNat ≤ coord % 2 ^ 40) && decide (coord % 2 ^ 40 < p.2.lfirst.toNat + p.2.lenp));
      let p := (coord % 2 ^ 40 - e.lfirst.toNat); let r := (s.dirRec (e.panelAddr p false)); place = some (c, e) ∧ r.d
      = false) :=
  ⟨⟨moving false, sealed (rsFrame 0 5), 0, sealed_good (by decide +kernel), by decide +kernel⟩,
   ⟨withTenant (fun t => { t with commit := {}, rs := { t.rs with state := .armed, at_ := 1, joiner := true } }),
     sealed (rsFrame 0 5), 0, sealed_good (by decide +kernel), by decide +kernel⟩,
   ⟨withRs (fun r => { r with lastSeal := some 1 }), sealed (rsFrame 0 5), 0, sealed_good (by decide +kernel),
     by decide +kernel⟩,
   ⟨withRs (fun r => { r with cancelled := true, boundary := 1 }), sealed (rsFrame 0 5), 0, sealed_good
     (by decide +kernel), by decide +kernel⟩,
   ⟨moving false, sealed (rsFrame 1 5), 0, sealed_good (by decide +kernel), by decide +kernel⟩,
   ⟨moving false, sealed (rsFrame 2 0), 0, sealed_good (by decide +kernel), by decide +kernel⟩,
   ⟨withRs (fun r => { r with state := .moving, boundary := 1 }), sealed (rsFrame 2 0), 0, sealed_good
     (by decide +kernel), by decide +kernel⟩,
   ⟨moving false, sealed (rsFrame 3 0), 0, sealed_good (by decide +kernel), by decide +kernel⟩,
   ⟨moving true, sealed (rsFrame 3 0), 0, sealed_good (by decide +kernel), by decide +kernel⟩,
   ⟨moving false, sealed (rsFrame 4 0), 0, sealed_good (by decide +kernel), by decide +kernel⟩,
   ⟨moving false, sealed { rx 0x61 0 (List.replicate 4096 0) with epoch := 1 }, 0, sealed_good (by decide +kernel),
     by decide +kernel⟩,
   ⟨demo, 0, 0, by decide +kernel⟩,
   ⟨(withRegion demo { demoEntry with state := .loading }).setDir 0x40000000
     { ctx := 3, v := true, priv := false, c := false, n := false, d := true, att := 0 }, 0, 2 ^ 40, 3,
     { demoEntry with state := .loading }, by decide +kernel⟩,
   ⟨withRegion demo { demoEntry with state := .loading }, 0, 2 ^ 40, 3, { demoEntry with state := .loading },
     by decide +kernel⟩⟩

/-- States that meet the hypotheses of `ResliceTimerRowsComplete`, a clause at a time. -/
theorem witness_ResliceTimerRowsComplete :
    (∃ (s : State) (i : Fin 64) (a : Addr), let r := ((s.ten i).rs); let dest := (r.dests.find? fun d => d.addr == a);
      dest = none) ∧
    (∃ (s : State) (i : Fin 64) (a : Addr) (d : RsDest), let r := ((s.ten i).rs);
      let dest := (r.dests.find? fun d => d.addr == a);
      let polls (d : RsDest) : Prop := (r.sealing = true ∧ d.done = true ∧ a ≠ s.self ∧ (r.new_ = true ∨ ∀ x ∈ r.dests, ¬ x.addr < a));
      dest = some d ∧ (¬ polls d)) ∧
    (∃ (s : State) (i : Fin 64) (a : Addr) (d : RsDest), let r := ((s.ten i).rs);
      let dest := (r.dests.find? fun d => d.addr == a);
      let polls (d : RsDest) : Prop := (r.sealing = true ∧ d.done = true ∧ a ≠ s.self ∧ (r.new_ = true ∨ ∀ x ∈ r.dests, ¬ x.addr < a));
      dest = some d ∧ polls d) ∧
    (∃ (s : State) (i : Fin 64) (a : Addr), let r := ((s.ten i).rs); let src := (r.sources.find? fun x => x.addr == a);
      src = none) ∧
    (∃ (s : State) (i : Fin 64) (a : Addr) (x : RsSource), let r := ((s.ten i).rs);
      let src := (r.sources.find? fun x => x.addr == a); src = some x ∧ (r.sealing = false ∨ x.count ≤ x.got)) ∧
    (∃ (s : State) (i : Fin 64) (a : Addr) (x : RsSource), let r := ((s.ten i).rs);
      let src := (r.sources.find? fun x => x.addr == a); src = some x ∧ r.sealing = true ∧ x.got < x.count ∧ x.got =
      x.gotAt ∧ 4 ≤ x.resends) ∧
    (∃ (s : State) (i : Fin 64) (a : Addr) (x : RsSource), let r := ((s.ten i).rs);
      let src := (r.sources.find? fun x => x.addr == a); src = some x ∧ r.sealing = true ∧ x.got < x.count ∧ x.got =
      x.gotAt ∧ x.resends < 4) ∧
    (∃ (s : State) (i : Fin 64) (a : Addr) (x : RsSource), let r := ((s.ten i).rs);
      let src := (r.sources.find? fun x => x.addr == a); src = some x ∧ r.sealing = true ∧ x.got < x.count ∧ x.got ≠
      x.gotAt) ∧
    (∃ (s : State), (s.configured = false ∨ s.flt.mode ≠ .normal)) ∧
    (∃ (s : State) (c : Nat), (s.entry c = none ∨ (∃ e : Entry, s.entry c = some e ∧ e.state ≠ .priming)) ∧
      s.configured = true ∧ s.flt.mode = .normal) ∧
    (∃ (s : State) (c : Nat) (e : Entry) (i : Fin 64), s.configured = true ∧ s.flt.mode = .normal ∧ s.entry c = some e
      ∧ e.state = .priming ∧ s.tearing (fun r => r.tearEntries.contains c) = some i) ∧
    (∃ (s : State) (c : Nat) (e : Entry), s.configured = true ∧ s.flt.mode = .normal ∧ s.entry c = some e ∧ e.state =
      .priming ∧ s.tearing (fun r => r.tearEntries.contains c) = none ∧ (s.primeEntry c e).tenantOf e.tenant = none) ∧
    (∃ (s : State) (c : Nat) (e : Entry) (i : Fin 64), s.configured = true ∧ s.flt.mode = .normal ∧ s.entry c = some e
      ∧ e.state = .priming ∧ s.tearing (fun r => r.tearEntries.contains c) = none ∧ (s.primeEntry c e).tenantOf
      e.tenant = some i) ∧
    (∃ (s : State) (k : Nat) (i : Fin 64), let torn := (s.tearing fun r => r.tearSlots.contains k); s.configured = true
      ∧ s.flt.mode = .normal ∧ torn = some i) ∧
    (∃ (s : State) (k : Nat) (i : Fin 64) (kind : SlotKind) (d : SettDesc) (rep : RepDesc), let sl := (s.slot k);
      let torn := (s.tearing fun r => r.tearSlots.contains k);
      let forms : Prop := (sl.kind = .sett ∧ sl.primed = false); s.configured = true ∧ s.flt.mode = .normal ∧ torn =
      none ∧ s.slotTenant k = some i ∧ sl.shadow = some (kind, d, rep) ∧ (s.ten i).rs.sealing = true ∧ forms) ∧
    (∃ (s : State) (k : Nat) (i : Fin 64) (kind : SlotKind) (d : SettDesc) (rep : RepDesc), let sl := (s.slot k);
      let torn := (s.tearing fun r => r.tearSlots.contains k);
      let forms : Prop := (sl.kind = .sett ∧ sl.primed = false); s.configured = true ∧ s.flt.mode = .normal ∧ torn =
      none ∧ s.slotTenant k = some i ∧ sl.shadow = some (kind, d, rep) ∧ (s.ten i).rs.sealing = true ∧ (¬ forms)) ∧
    (∃ (s : State) (k : Nat) (i : Fin 64) (kind : SlotKind) (d : SettDesc) (rep : RepDesc), let sl := (s.slot k);
      let torn := (s.tearing fun r => r.tearSlots.contains k); s.configured = true ∧ s.flt.mode = .normal ∧ torn = none
      ∧ s.slotTenant k = some i ∧ sl.shadow = some (kind, d, rep) ∧ (s.ten i).rs.sealing = false ∧ kind = .sett) ∧
    (∃ (s : State) (k : Nat) (i : Fin 64) (kind : SlotKind) (d : SettDesc) (rep : RepDesc), let sl := (s.slot k);
      let torn := (s.tearing fun r => r.tearSlots.contains k); s.configured = true ∧ s.flt.mode = .normal ∧ torn = none
      ∧ s.slotTenant k = some i ∧ sl.shadow = some (kind, d, rep) ∧ (s.ten i).rs.sealing = false ∧ kind ≠ .sett) ∧
    (∃ (s : State) (k : Nat) (i : Fin 64), let sl := (s.slot k);
      let torn := (s.tearing fun r => r.tearSlots.contains k);
      let forms : Prop := (sl.kind = .sett ∧ sl.primed = false); s.configured = true ∧ s.flt.mode = .normal ∧ torn =
      none ∧ s.slotTenant k = some i ∧ sl.shadow = none ∧ forms ∧ sl.st = .forming) ∧
    (∃ (s : State) (k : Nat) (i : Fin 64), let sl := (s.slot k);
      let torn := (s.tearing fun r => r.tearSlots.contains k);
      let forms : Prop := (sl.kind = .sett ∧ sl.primed = false); s.configured = true ∧ s.flt.mode = .normal ∧ torn =
      none ∧ s.slotTenant k = some i ∧ sl.shadow = none ∧ (¬ forms ∨ sl.st ≠ .forming)) ∧
    (∃ (s : State) (k : Nat), let sl := (s.slot k); let torn := (s.tearing fun r => r.tearSlots.contains k);
      let forms : Prop := (sl.kind = .sett ∧ sl.primed = false); s.configured = true ∧ s.flt.mode = .normal ∧ torn =
      none ∧ s.slotTenant k = none ∧ forms ∧ sl.st = .forming) ∧
    (∃ (s : State) (k : Nat), let sl := (s.slot k); let torn := (s.tearing fun r => r.tearSlots.contains k);
      let forms : Prop := (sl.kind = .sett ∧ sl.primed = false); s.configured = true ∧ s.flt.mode = .normal ∧ torn =
      none ∧ s.slotTenant k = none ∧ (¬ forms ∨ sl.st ≠ .forming)) ∧
    (∃ (s : State) (i : Fin 64),
      let done : Prop := ((s.ten i).rs.state = .teardown ∧ (s.ten i).rs.tearEntries = [] ∧ (s.ten i).rs.tearSlots = []);
      (¬ done)) ∧
    (∃ (s : State) (i : Fin 64),
      let done : Prop := ((s.ten i).rs.state = .teardown ∧ (s.ten i).rs.tearEntries = [] ∧ (s.ten i).rs.tearSlots = []);
      done) ∧
    (∃ (s : State) (i : Fin 64), (s.ten i).rs.state ≠ .quiet) ∧
    (∃ (s : State) (i : Fin 64), (s.ten i).rs.state = .quiet) :=
  ⟨⟨demo, 0, 9, by decide +kernel⟩,
   ⟨withRs (fun r => { r with dests := [⟨2, 5, false, 0⟩] }), 0, 2, ⟨2, 5, false, 0⟩, by decide +kernel⟩,
   ⟨moving true, 0, 2, ⟨2, 5, true, 0⟩, by decide +kernel⟩,
   ⟨demo, 0, 9, by decide +kernel⟩,
   ⟨withRs (fun r => { r with sources := [demoRsSource 0] }), 0, 2, demoRsSource 0, by decide +kernel⟩,
   ⟨withRs (fun r => { r with state := .moving, sources := [demoRsSource 4] }), 0, 2, demoRsSource 4,
     by decide +kernel⟩,
   ⟨withRs (fun r => { r with state := .moving, sources := [demoRsSource 3] }), 0, 2, demoRsSource 3,
     by decide +kernel⟩,
   ⟨withRs (fun r => { r with state := .moving, sources := [⟨2, 5, 4, 0, 3, 0⟩] }), 0, 2, ⟨2, 5, 4, 0, 3, 0⟩,
     by decide +kernel⟩,
   ⟨State.reset, by decide +kernel⟩,
   ⟨demo, 9, (Or.inl (by decide +kernel)), by decide +kernel⟩,
   ⟨{ withRs (fun r => { r with tearEntries := [3] }) with ctx := { table := [(3, { demoEntry with state := .priming, lenp := 1 })] } },
     3, { demoEntry with state := .priming, lenp := 1 }, 0, by decide +kernel⟩,
   ⟨{ demo with ctx := { table := [(3, { demoEntry with state := .priming, lenp := 1, tenant := 9 })] } }, 3,
     { demoEntry with state := .priming, lenp := 1, tenant := 9 }, by decide +kernel⟩,
   ⟨{ demo with ctx := { table := [(3, { demoEntry with state := .priming, lenp := 1 })] } }, 3,
     { demoEntry with state := .priming, lenp := 1 }, 0, by decide +kernel⟩,
   ⟨withRs (fun r => { r with tearSlots := [0] }), 0, 0, by decide +kernel⟩,
   ⟨movingSlot { demoSlot with shadow := some (.sett, demoSett, {}), primed := false }, 0, 0, .sett, demoSett, {},
     by decide +kernel⟩,
   ⟨movingSlot { demoSlot with shadow := some (.sett, demoSett, {}), primed := true }, 0, 0, .sett, demoSett, {},
     by decide +kernel⟩,
   ⟨withSlot (fun x => { x with shadow := some (.sett, demoSett, {}), primed := true }), 0, 0, .sett, demoSett, {},
     by decide +kernel⟩,
   ⟨withSlot (fun x => { x with shadow := some (.replica, demoSett, {}), primed := true }), 0, 0, .replica, demoSett,
     {}, by decide +kernel⟩,
   ⟨withSlot (fun x => { x with primed := false, st := .forming }), 0, 0, by decide +kernel⟩,
   ⟨demo, 0, 0, by decide +kernel⟩,
   ⟨{ demo with slots := demo.slots.set 1 { demoSlot with primed := false, st := .forming } }, 1, by decide +kernel⟩,
   ⟨demo, 1, by decide +kernel⟩,
   ⟨demo, 0, by decide +kernel⟩,
   ⟨withRs (fun r => { r with state := .teardown }), 0, by decide +kernel⟩,
   ⟨demo, 0, by decide +kernel⟩,
   ⟨withRs (fun r => { r with state := .quiet }), 0, by decide +kernel⟩⟩

/-- States that meet the hypotheses of `ResliceCommandRowsComplete`, a clause at a time. -/
theorem witness_ResliceCommandRowsComplete :
    (∃ (s : State) (a : Acc) (c : Instr), s.portsUp = true ∧ s.windowOpen 0x5A08 = false ∧ c ∈ [Instr.rsSeal a, .rsArm
      a, .teardown a, .export_ a, .rsDisarm a]) ∧
    (∃ (s : State) (a : Acc) (i : Fin 64) (c : Instr),
      let tagOk : Prop := ((fromSystem a = true ∨ a.tag = s.tagOf i) ∧ (s.ten i).env ≠ none); s.portsUp = true ∧
      s.windowOpen 0x5A08 = true ∧ i = Fin.ofNat 64 s.regs.tsel.toNat ∧ (¬ tagOk) ∧ c ∈ [Instr.rsSeal a, .rsArm a,
      .teardown a, .export_ a, .rsDisarm a]) ∧
    (∃ (s : State) (a : Acc) (i : Fin 64),
      let tagOk : Prop := ((fromSystem a = true ∨ a.tag = s.tagOf i) ∧ (s.ten i).env ≠ none); let r := ((s.ten i).rs);
      let seals : Prop := (r.state = .idle ∧ (s.ten i).commit.vstate = .none ∧ s.usedSlots i ≠ []); s.portsUp = true ∧
      s.windowOpen 0x5A08 = true ∧ i = Fin.ofNat 64 s.regs.tsel.toNat ∧ tagOk ∧ seals) ∧
    (∃ (s : State) (a : Acc) (i : Fin 64),
      let tagOk : Prop := ((fromSystem a = true ∨ a.tag = s.tagOf i) ∧ (s.ten i).env ≠ none); let r := ((s.ten i).rs);
      let seals : Prop := (r.state = .idle ∧ (s.ten i).commit.vstate = .none ∧ s.usedSlots i ≠ []); s.portsUp = true ∧
      s.windowOpen 0x5A08 = true ∧ i = Fin.ofNat 64 s.regs.tsel.toNat ∧ tagOk ∧ (¬ seals)) ∧
    (∃ (s : State) (a : Acc) (i : Fin 64),
      let tagOk : Prop := ((fromSystem a = true ∨ a.tag = s.tagOf i) ∧ (s.ten i).env ≠ none); s.portsUp = true ∧
      s.windowOpen 0x5A08 = true ∧ i = Fin.ofNat 64 s.regs.tsel.toNat ∧ tagOk ∧ s.cap 7 = false) ∧
    (∃ (s : State) (a : Acc) (i : Fin 64),
      let tagOk : Prop := ((fromSystem a = true ∨ a.tag = s.tagOf i) ∧ (s.ten i).env ≠ none); let r := ((s.ten i).rs);
      let mine (m : Move) : Prop := (∃ e : Entry, s.entry m.ctx.toNat = some e ∧ e.tenant = s.tagOf i ∧ e.state = .active);
      let arms : Prop := (r.state = .idle ∧ s.loader.shadowState ≠ .armed ∧ ∀ m ∈ s.rs.moves.toList, m.valid = true → mine m);
      (¬ arms) ∧ s.portsUp = true ∧ s.windowOpen 0x5A08 = true ∧ i = Fin.ofNat 64 s.regs.tsel.toNat ∧ tagOk ∧ s.cap 7 =
      true) ∧
    (∃ (s : State) (a : Acc) (i : Fin 64),
      let tagOk : Prop := ((fromSystem a = true ∨ a.tag = s.tagOf i) ∧ (s.ten i).env ≠ none); let r := ((s.ten i).rs);
      let mine (m : Move) : Prop := (∃ e : Entry, s.entry m.ctx.toNat = some e ∧ e.tenant = s.tagOf i ∧ e.state = .active);
      let arms : Prop := (r.state = .idle ∧ s.loader.shadowState ≠ .armed ∧ ∀ m ∈ s.rs.moves.toList, m.valid = true → mine m);
      let joins : Prop := (r.new_ = true ∧ (s.ten i).commit.vstate = .none ∧ ∀ p ∈ s.entriesOf (s.tagOf i), p.2.state ≠ .active);
      arms ∧ s.portsUp = true ∧ s.windowOpen 0x5A08 = true ∧ i = Fin.ofNat 64 s.regs.tsel.toNat ∧ tagOk ∧ s.cap 7 =
      true ∧ (¬ joins)) ∧
    (∃ (s : State) (a : Acc) (i : Fin 64),
      let tagOk : Prop := ((fromSystem a = true ∨ a.tag = s.tagOf i) ∧ (s.ten i).env ≠ none); let r := ((s.ten i).rs);
      let mine (m : Move) : Prop := (∃ e : Entry, s.entry m.ctx.toNat = some e ∧ e.tenant = s.tagOf i ∧ e.state = .active);
      let arms : Prop := (r.state = .idle ∧ s.loader.shadowState ≠ .armed ∧ ∀ m ∈ s.rs.moves.toList, m.valid = true → mine m);
      let joins : Prop := (r.new_ = true ∧ (s.ten i).commit.vstate = .none ∧ ∀ p ∈ s.entriesOf (s.tagOf i), p.2.state ≠ .active);
      arms ∧ s.portsUp = true ∧ s.windowOpen 0x5A08 = true ∧ i = Fin.ofNat 64 s.regs.tsel.toNat ∧ tagOk ∧ s.cap 7 =
      true ∧ joins) ∧
    (∃ (s : State) (a : Acc) (i : Fin 64),
      let tagOk : Prop := ((fromSystem a = true ∨ a.tag = s.tagOf i) ∧ (s.ten i).env ≠ none); let r := ((s.ten i).rs);
      s.portsUp = true ∧ s.windowOpen 0x5A08 = true ∧ i = Fin.ofNat 64 s.regs.tsel.toNat ∧ tagOk ∧ r.state = .armed) ∧
    (∃ (s : State) (a : Acc) (i : Fin 64),
      let tagOk : Prop := ((fromSystem a = true ∨ a.tag = s.tagOf i) ∧ (s.ten i).env ≠ none); let r := ((s.ten i).rs);
      s.portsUp = true ∧ s.windowOpen 0x5A08 = true ∧ i = Fin.ofNat 64 s.regs.tsel.toNat ∧ tagOk ∧ r.state ≠ .armed) ∧
    (∃ (s : State) (a : Acc) (i : Fin 64),
      let tagOk : Prop := ((fromSystem a = true ∨ a.tag = s.tagOf i) ∧ (s.ten i).env ≠ none); let r := ((s.ten i).rs);
      s.portsUp = true ∧ s.windowOpen 0x5A08 = true ∧ i = Fin.ofNat 64 s.regs.tsel.toNat ∧ tagOk ∧ r.state ≠ .teardown
      ∧ r.state ≠ .quiet) ∧
    (∃ (s : State) (a : Acc) (i : Fin 64),
      let tagOk : Prop := ((fromSystem a = true ∨ a.tag = s.tagOf i) ∧ (s.ten i).env ≠ none); let r := ((s.ten i).rs);
      s.portsUp = true ∧ s.windowOpen 0x5A08 = true ∧ i = Fin.ofNat 64 s.regs.tsel.toNat ∧ tagOk ∧ (r.state = .teardown
      ∨ r.state = .quiet)) ∧
    (∃ (s : State) (a : Acc) (i : Fin 64),
      let tagOk : Prop := ((fromSystem a = true ∨ a.tag = s.tagOf i) ∧ (s.ten i).env ≠ none); s.portsUp = true ∧
      s.windowOpen 0x5A08 = true ∧ i = Fin.ofNat 64 s.regs.tsel.toNat ∧ tagOk ∧ s.cap 7 = true ∧ s.entry
      s.rs.xctx.toNat = none) ∧
    (∃ (s : State) (a : Acc) (i : Fin 64) (e : Entry),
      let tagOk : Prop := ((fromSystem a = true ∨ a.tag = s.tagOf i) ∧ (s.ten i).env ≠ none);
      let mine (e : Entry) : Prop := (e.state = .active ∧ e.tenant = s.tagOf i ∧ s.rs.running = none); s.portsUp = true
      ∧ s.windowOpen 0x5A08 = true ∧ i = Fin.ofNat 64 s.regs.tsel.toNat ∧ tagOk ∧ s.cap 7 = true ∧ s.entry
      s.rs.xctx.toNat = some e ∧ (¬ mine e)) ∧
    (∃ (s : State) (a : Acc) (i : Fin 64) (e : Entry),
      let tagOk : Prop := ((fromSystem a = true ∨ a.tag = s.tagOf i) ∧ (s.ten i).env ≠ none);
      let mine (e : Entry) : Prop := (e.state = .active ∧ e.tenant = s.tagOf i ∧ s.rs.running = none);
      let range (e : Entry) : Prop := (s.rs.xcount.toNat ≠ 0 ∧ s.rs.xfirst.toNat + s.rs.xcount.toNat ≤ e.lenp ∧ s.rangeOk 5 s.rs.xdst.toNat (64 + 4104 * s.rs.xcount.toNat) = true);
      s.portsUp = true ∧ s.windowOpen 0x5A08 = true ∧ i = Fin.ofNat 64 s.regs.tsel.toNat ∧ tagOk ∧ s.cap 7 = true ∧
      s.entry s.rs.xctx.toNat = some e ∧ mine e ∧ (¬ range e)) ∧
    (∃ (s : State) (a : Acc) (i : Fin 64) (e : Entry),
      let tagOk : Prop := ((fromSystem a = true ∨ a.tag = s.tagOf i) ∧ (s.ten i).env ≠ none);
      let mine (e : Entry) : Prop := (e.state = .active ∧ e.tenant = s.tagOf i ∧ s.rs.running = none);
      let range (e : Entry) : Prop := (s.rs.xcount.toNat ≠ 0 ∧ s.rs.xfirst.toNat + s.rs.xcount.toNat ≤ e.lenp ∧ s.rangeOk 5 s.rs.xdst.toNat (64 + 4104 * s.rs.xcount.toNat) = true);
      s.portsUp = true ∧ s.windowOpen 0x5A08 = true ∧ i = Fin.ofNat 64 s.regs.tsel.toNat ∧ tagOk ∧ s.cap 7 = true ∧
      s.entry s.rs.xctx.toNat = some e ∧ mine e ∧ range e) :=
  ⟨⟨withFlt (fun f => { f with mode := .resetting }), sys, .rsSeal sys, by decide +kernel⟩,
   ⟨demo, { tag := 9, id := 1 }, 0, .rsArm { tag := 9, id := 1 }, by decide +kernel⟩,
   ⟨withTenant (fun t => { t with commit := {} }), sys, 0, by decide +kernel⟩,
   ⟨demo, sys, 0, by decide +kernel⟩,
   ⟨withLoader (fun l => { l with active := { demoRecord with glob := {} } }), sys, 0, by decide +kernel⟩,
   ⟨moving false, sys, 0, (fun h => absurd h.1 (by decide +kernel)), by decide +kernel⟩,
   ⟨demo, sys, 0, ⟨by decide +kernel, by decide +kernel, no_moves (by decide +kernel)⟩, by decide +kernel⟩,
   ⟨withTenant (fun t => { t with commit := {}, rs := { t.rs with new_ := true } }), sys, 0, ⟨by decide +kernel,
     by decide +kernel, no_moves (by decide +kernel)⟩, by decide +kernel⟩,
   ⟨withRs (fun r => { r with state := .armed }), sys, 0, by decide +kernel⟩,
   ⟨demo, sys, 0, by decide +kernel⟩,
   ⟨demo, sys, 0, by decide +kernel⟩,
   ⟨withRs (fun r => { r with state := .quiet }), sys, 0, by decide +kernel⟩,
   ⟨demo, sys, 0, by decide +kernel⟩,
   ⟨{ demo with ctx := { table := [(3, { demoEntry with state := .loading })] }, rs := { xctx := 3, xfirst := 1, xcount := 1, xdst := 0x1000 } },
     sys, 0, { demoEntry with state := .loading }, by decide +kernel⟩,
   ⟨{ demo with ctx := { table := [(3, demoEntry)] }, rs := { xctx := 3, xfirst := 1, xcount := 0, xdst := 0x1000 } },
     sys, 0, demoEntry, by decide +kernel⟩,
   ⟨{ demo with ctx := { table := [(3, demoEntry)] }, rs := { xctx := 3, xfirst := 1, xcount := 1, xdst := 0x1000 } },
     sys, 0, demoEntry, by decide +kernel⟩⟩

/-- States that meet the hypotheses of `ExportCompletes`, a clause at a time. -/
theorem witness_ExportCompletes :
    (∃ (s : State), s.rs.running = none) ∧
    (∃ (s : State) (x : Export) (e : Entry) (flt : ReadFault), s.exportBad x e = none ∧ (∀ a : BitVec 36, flt ≠ .stack
      a) ∧ s.rs.running = some x ∧ s.entry x.ctx = some e ∧ e.state = .active ∧ s.memWf = true ∧ x.dst + (64 + 4104 *
      x.count) ≤ Config.stackBytes ∧ flt ≠ .digestWord) ∧
    (∃ (s : State) (x : Export), ((∀ e : Entry, s.entry x.ctx = some e → e.state ≠ .active)) ∧ s.rs.running = some x) ∧
    (∃ (s : State) (x : Export) (e : Entry) (a : Nat) (flt : ReadFault), s.exportBad x e = some a ∧ (∀ b : BitVec 36,
      flt ≠ .stack b) ∧ s.rs.running = some x ∧ s.entry x.ctx = some e ∧ e.state = .active ∧ flt ≠ .digestWord) :=
  ⟨⟨demo, by decide +kernel⟩,
   ⟨exporting [], demoExport, demoEntry, .none, exporting_good, (fun _ => nofun), by decide +kernel⟩,
   ⟨{ demo with rs := { running := some demoExport } }, demoExport, (no_entry (by decide +kernel)), by decide +kernel⟩,
   ⟨exporting badDigest, demoExport, demoEntry, 0x40000000, .none, exporting_bad, (fun _ => nofun), by decide +kernel⟩⟩

/-- States that meet the hypotheses of `AuditFrameRowsComplete`, a clause at a time. -/
theorem witness_AuditFrameRowsComplete :
    (∃ (s : State) (f : Rx) (i : Fin 64), frameGood s f 0x50 i ∧ tField f 43 21 = 0 ∧ f.len = 0 ∧ (s.at_
      f.time).knownIn i (tField f 39 4) f.src = true ∧ (s.at_ f.time).auditOk i f.epoch.toNat f.tr = false) ∧
    (∃ (s : State) (f : Rx) (i : Fin 64), frameGood s f 0x50 i ∧ tField f 43 21 = 0 ∧ f.len = 0 ∧ (s.at_
      f.time).knownIn i (tField f 39 4) f.src = true ∧ (s.at_ f.time).auditOk i f.epoch.toNat f.tr = true) ∧
    (∃ (s : State) (i : Fin 64) (k : Fin 16) (a : Addr) (epoch s0 : Nat) (s1 : State),
      let old := (s.helpFor i k.val a epoch fun h => h.s0 == s0); ((∀ h : AuHelp, old = some h → s1 = s.closeHelp h)) ∧
      ((old = none → s1 = s)) ∧ ResetUnit.badger ∈ s.flt.inReset) ∧
    (∃ (s : State) (i : Fin 64) (k : Fin 16) (a : Addr) (epoch s0 : Nat) (s1 : State),
      let old := (s.helpFor i k.val a epoch fun h => h.s0 == s0); ((∀ h : AuHelp, old = some h → s1 = s.closeHelp h)) ∧
      ((old = none → s1 = s)) ∧ ResetUnit.badger ∉ s.flt.inReset ∧ 512 ≤ s1.requestsHeld) ∧
    (∃ (s : State) (i : Fin 64) (k : Fin 16) (a : Addr) (epoch s0 count : Nat) (s1 : State),
      let d := ((s.slot k.val).sett); let old := (s.helpFor i k.val a epoch fun h => h.s0 == s0);
      let bad : Prop := ((s.slot k.val).kind ≠ .sett ∨ count = 0 ∨ settStripes d < s0 + (count - 1) * settN d + 1); ((∀
      h : AuHelp, old = some h → s1 = s.closeHelp h)) ∧ ((old = none → s1 = s)) ∧ ResetUnit.badger ∉ s.flt.inReset ∧
      s1.requestsHeld < 512 ∧ bad) ∧
    (∃ (s : State) (i : Fin 64) (k : Fin 16) (a : Addr) (epoch s0 count : Nat) (flt : ReadFault) (s1 : State),
      let d := ((s.slot k.val).sett); let old := (s.helpFor i k.val a epoch fun h => h.s0 == s0);
      let sts := ((List.range count).map fun j => s0 + j * settN d);
      let bad : Prop := ((s.slot k.val).kind ≠ .sett ∨ count = 0 ∨ settStripes d < s0 + (count - 1) * settN d + 1);
      let par := (decide (d.k ≤ ownPos d s0));
      let real := (sts.filter fun st => par || !virtualCol d st (ownPos d st));
      let rd := (s1.helperRead i flt (s1.readAddrs k.val par (real.map fun st => panelAt d st (ownPos d st)))); ((∀ h :
      AuHelp, old = some h → s1 = s.closeHelp h)) ∧ ((old = none → s1 = s)) ∧ ResetUnit.badger ∉ s.flt.inReset ∧
      s1.requestsHeld < 512 ∧ (¬ bad) ∧ rd.2 = true) ∧
    (∃ (s : State) (i : Fin 64) (k : Fin 16) (a : Addr) (epoch s0 count : Nat) (flt : ReadFault) (s1 : State),
      let d := ((s.slot k.val).sett); let old := (s.helpFor i k.val a epoch fun h => h.s0 == s0);
      let sts := ((List.range count).map fun j => s0 + j * settN d);
      let bad : Prop := ((s.slot k.val).kind ≠ .sett ∨ count = 0 ∨ settStripes d < s0 + (count - 1) * settN d + 1);
      let par := (decide (d.k ≤ ownPos d s0));
      let real := (sts.filter fun st => par || !virtualCol d st (ownPos d st));
      let pairs := (sts.flatMap fun st => (ownTrees d st).map fun j => (st, j));
      let rd := (s1.helperRead i flt (s1.readAddrs k.val par (real.map fun st => panelAt d st (ownPos d st)))); ((∀ h :
      AuHelp, old = some h → s1 = s.closeHelp h)) ∧ ((old = none → s1 = s)) ∧ rd.2 = false ∧ ResetUnit.badger ∉
      s.flt.inReset ∧ s1.requestsHeld < 512 ∧ (¬ bad) ∧ Config.reservationUnits < s1.reserved4k + pairs.length) ∧
    (∃ (s : State) (i : Fin 64) (k : Fin 16) (a : Addr) (epoch s0 count : Nat) (flt : ReadFault) (s1 : State),
      let d := ((s.slot k.val).sett); let old := (s.helpFor i k.val a epoch fun h => h.s0 == s0);
      let sts := ((List.range count).map fun j => s0 + j * settN d);
      let bad : Prop := ((s.slot k.val).kind ≠ .sett ∨ count = 0 ∨ settStripes d < s0 + (count - 1) * settN d + 1);
      let par := (decide (d.k ≤ ownPos d s0));
      let real := (sts.filter fun st => par || !virtualCol d st (ownPos d st));
      let pairs := (sts.flatMap fun st => (ownTrees d st).map fun j => (st, j));
      let rd := (s1.helperRead i flt (s1.readAddrs k.val par (real.map fun st => panelAt d st (ownPos d st)))); ((∀ h :
      AuHelp, old = some h → s1 = s.closeHelp h)) ∧ ((old = none → s1 = s)) ∧ rd.2 = false ∧ ResetUnit.badger ∉
      s.flt.inReset ∧ s1.requestsHeld < 512 ∧ (¬ bad) ∧ s1.reserved4k + pairs.length ≤ Config.reservationUnits) ∧
    (∃ (s : State) (f : Rx) (i : Fin 64), frameGood s f 0x51 i ∧ f.t.getLsbD 63 = false ∧ f.len = 4096 ∧
      f.payload.length = 4096 ∧ (s.at_ f.time).knownIn i (tField f 59 4) f.src = true ∧ auditMask f ≠ 0 ∧ (s.at_
      f.time).auditOk i f.epoch.toNat f.tr = true) ∧
    (∃ (s : State) (f : Rx) (i : Fin 64), frameGood s f 0x51 i ∧ f.t.getLsbD 63 = false ∧ f.len = 4096 ∧
      f.payload.length = 4096 ∧ (s.at_ f.time).knownIn i (tField f 59 4) f.src = true ∧ ((List.range 36).filter fun b
      => (auditMask f).getLsbD b).length = 1) ∧
    (∃ (s : State) (f : Rx) (i : Fin 64), frameGood s f 0x51 i ∧ (∀ b ∈ f.payload.drop 4, b = 0) ∧ f.t.getLsbD 63 =
      false ∧ f.len = 4096 ∧ f.payload.length = 4096 ∧ (s.at_ f.time).knownIn i (tField f 59 4) f.src = true ∧
      auditMask f = 0 ∧ (s.at_ f.time).auditOk i f.epoch.toNat f.tr = true) ∧
    (∃ (s : State) (i : Fin 64) (k : Nat) (f : Rx) (h : AuHelp) (a : AuAcc) (pos : Nat), let st := (tField f 0 23);
      let waits (h : AuHelp) (a : AuAcc) (pos : Nat) : Prop := (h.tidx = i ∧ h.slot.val = k ∧ h.epoch = f.epoch.toNat ∧ (s.slot k).posOfAddr f.src st = some pos ∧ treeOf (s.slot k).sett (auditMask f) = some a.row ∧ a.stripe = st ∧ pos ∈ a.owes);
      let a' : AuAcc := ({ a with bytes := xorBytes a.bytes f.payload, cmask := a.cmask ||| auditMask f, owes := a.owes.filter (· != pos) });
      let h' : AuHelp := ({ h with accs := h.accs.map fun x => if x = a then a' else x }); ((∀ h' ∈ s.audit.helps, ∀ a'
      ∈ h'.accs, ∀ p : Nat, waits h' a' p → h' = h ∧ a' = a)) ∧ h ∈ s.audit.helps ∧ a ∈ h.accs ∧ waits h a pos) ∧
    (∃ (s : State) (i : Fin 64) (k : Nat) (f : Rx), let st := (tField f 0 23);
      let waits (h : AuHelp) (a : AuAcc) (pos : Nat) : Prop := (h.tidx = i ∧ h.slot.val = k ∧ h.epoch = f.epoch.toNat ∧ (s.slot k).posOfAddr f.src st = some pos ∧ treeOf (s.slot k).sett (auditMask f) = some a.row ∧ a.stripe = st ∧ pos ∈ a.owes);
      (∀ h ∈ s.audit.helps, ∀ a ∈ h.accs, ∀ p : Nat, ¬ waits h a p) ∧ k = s.auSlot) ∧
    (∃ (s : State) (i : Fin 64) (k : Nat) (f : Rx), let st := (tField f 0 23);
      let waits (h : AuHelp) (a : AuAcc) (pos : Nat) : Prop := (h.tidx = i ∧ h.slot.val = k ∧ h.epoch = f.epoch.toNat ∧ (s.slot k).posOfAddr f.src st = some pos ∧ treeOf (s.slot k).sett (auditMask f) = some a.row ∧ a.stripe = st ∧ pos ∈ a.owes);
      (∀ h ∈ s.audit.helps, ∀ a ∈ h.accs, ∀ p : Nat, ¬ waits h a p) ∧ k ≠ s.auSlot) ∧
    (∃ (s : State) (i : Fin 64) (k : Nat) (a : Addr) (epoch : Nat) (tr : BitVec 7) (st : Nat) (m : BitVec 36) (x : List
      Byte), let run := (s.helpFor i k a epoch fun h => h.holds (s.slot k).sett st);
      let good : Prop := (s.auditOk i epoch tr = true ∧ m = 1 <<< ownPos (s.slot k).sett st); (¬ good ∨ run = none ∨
      s.fixPanel i k st x = none)) ∧
    (∃ (s : State) (i : Fin 64) (k : Nat) (a : Addr) (epoch : Nat) (tr : BitVec 7) (st : Nat) (m : BitVec 36) (x : List
      Byte) (h : AuHelp) (t : State), let run := (s.helpFor i k a epoch fun h => h.holds (s.slot k).sett st);
      let good : Prop := (s.auditOk i epoch tr = true ∧ m = 1 <<< ownPos (s.slot k).sett st); s.fixPanel i k st x =
      some t ∧ good ∧ run = some h) ∧
    (∃ (s : State) (i : Fin 64) (k : Nat) (a : Addr) (epoch : Nat) (st : Nat) (h : AuHelp), (s.helpFor i k a epoch fun
      h => h.s0 == st) = some h) ∧
    (∃ (s : State) (i : Fin 64) (k : Nat) (a : Addr) (epoch : Nat) (st : Nat), (s.helpFor i k a epoch fun h => h.s0 ==
      st) = none) :=
  ⟨⟨demo, sealed { rx 0x50 0x800000 with epoch := 2 }, 0, sealed_good (by decide +kernel), by decide +kernel⟩,
   ⟨demo, sealed { rx 0x50 0x800000 with epoch := 1 }, 0, sealed_good (by decide +kernel), by decide +kernel⟩,
   ⟨withFlt (fun f => { f with inReset := [.badger] }), 0, 0, 2, 0, 0, withFlt (fun f =>
     { f with inReset := [.badger] }), (fun _ h => nomatch h), (fun _ => rfl), by decide +kernel⟩,
   ⟨withBadger { helps := List.replicate 512 demoHelp }, 0, 0, 2, 0, 0, withBadger
     { helps := List.replicate 512 demoHelp }, (fun _ h => nomatch h), (fun _ => rfl), by decide +kernel⟩,
   ⟨demo, 0, 0, 2, 0, 0, 0, demo, (fun _ h => nomatch h), (fun _ => rfl), by decide +kernel⟩,
   ⟨demo, 0, 0, 2, 0, 0, 1, .stack 0x40000000, demo, (fun _ h => nomatch h), (fun _ => rfl), by decide +kernel⟩,
   ⟨withBadger { helps := [demoHelp] }, 0, 0, 2, 0, 0, 1, .none, withBadger { helps := [demoHelp] }, (fun _ h =>
     nomatch h), (fun _ => rfl), zero_read (by decide +kernel), by decide +kernel⟩,
   ⟨demo, 0, 0, 2, 0, 0, 1, .none, demo, (fun _ h => nomatch h), (fun _ => rfl), zero_read (by decide +kernel),
     by decide +kernel⟩,
   ⟨demo, sealed { rx 0x51 0x1800000 (List.replicate 4096 0) with epoch := 1 }, 0, sealed_good (by decide +kernel),
     by decide +kernel⟩,
   ⟨demo, sealed { rx 0x51 0x800000 (List.replicate 4096 0) with epoch := 1 }, 0, sealed_good (by decide +kernel),
     by decide +kernel⟩,
   ⟨demo, sealed { rx 0x51 0 (List.replicate 4096 0) with epoch := 1 }, 0, sealed_good (by decide +kernel), (fun b h =>
     List.eq_of_mem_replicate (List.mem_of_mem_drop h)), by decide +kernel⟩,
   ⟨withAudit { helps := [demoAuHelp] }, 0, 0, { rx 0x51 0x1000000 with epoch := 1 }, demoAuHelp, demoAcc, 0, (only_one
     rfl rfl), by decide +kernel⟩,
   ⟨demo, 0, 0, rx 0x51 0, (fun _ h => nomatch h), by decide +kernel⟩,
   ⟨demo, 0, 1, rx 0x51 0, (fun _ h => nomatch h), by decide +kernel⟩,
   ⟨demo, 0, 0, 2, 0, 0, 0, 0, [], by decide +kernel⟩,
   ⟨withAudit { helps := [demoAuHelp] }, 0, 0, 2, 1, 0, 0, 2, List.replicate 4096 0, demoAuHelp, (State.fixPanel
     (withAudit { helps := [demoAuHelp] }) 0 0 0 (List.replicate 4096 0)).getD demo, some_getD (by decide +kernel),
     by decide +kernel⟩,
   ⟨withAudit { helps := [demoAuHelp] }, 0, 0, 2, 1, 0, demoAuHelp, by decide +kernel⟩,
   ⟨demo, 0, 0, 2, 0, 0, by decide +kernel⟩⟩

/-- States that meet the hypotheses of `AuditEngineRowsComplete`, a clause at a time. -/
theorem witness_AuditEngineRowsComplete :
    (∃ (s : State) (a : Acc), let taken : Prop := (s.windowOpen 0x6100 = true ∧ fromSystem a = true); s.portsUp = true
      ∧ (¬ taken)) ∧
    (∃ (s : State) (a : Acc), let taken : Prop := (s.windowOpen 0x6100 = true ∧ fromSystem a = true); s.portsUp = true
      ∧ taken ∧ s.audit.busy = true) ∧
    (∃ (s : State) (a : Acc) (slot : BitVec 4), let taken : Prop := (s.windowOpen 0x6100 = true ∧ fromSystem a = true);
      let auditable : Prop := ((s.slot slot.toNat).kind = .sett ∧ s.cap 5 = true); s.portsUp = true ∧ taken ∧
      s.audit.busy = false ∧ (¬ auditable)) ∧
    (∃ (s : State) (a : Acc) (slot : BitVec 4), let taken : Prop := (s.windowOpen 0x6100 = true ∧ fromSystem a = true);
      let d := ((s.slot slot.toNat).sett); let n := (s.audit.count.toNat);
      let auditable : Prop := ((s.slot slot.toNat).kind = .sett ∧ s.cap 5 = true);
      let range : Prop := (n ≠ 0 ∧ s.audit.first.toNat + n ≤ settStripes d ∧ settStripes d ≤ 8388608); s.portsUp = true
      ∧ taken ∧ s.audit.busy = false ∧ auditable ∧ (¬ range)) ∧
    (∃ (s : State) (a : Acc) (slot : BitVec 4), let taken : Prop := (s.windowOpen 0x6100 = true ∧ fromSystem a = true);
      let d := ((s.slot slot.toNat).sett); let n := (s.audit.count.toNat);
      let auditable : Prop := ((s.slot slot.toNat).kind = .sett ∧ s.cap 5 = true);
      let range : Prop := (n ≠ 0 ∧ s.audit.first.toNat + n ≤ settStripes d ∧ settStripes d ≤ 8388608); s.portsUp = true
      ∧ taken ∧ s.audit.busy = false ∧ auditable ∧ range) ∧
    (∃ (s : State), s.audit.busy = true ∧ s.audit.todo = [] ∧ s.audit.runs = []) ∧
    (∃ (s : State), (s.audit.busy = false ∨ s.audit.todo ≠ [] ∨ s.audit.runs ≠ [])) ∧
    (∃ (s : State), (s.slotTenant s.auSlot = none ∨ nextRun (settN (s.slot s.auSlot).sett) (max 1 s.cfg.glob.run)
      s.audit.todo = [])) ∧
    (∃ (s : State) (i : Fin 64) (s0 : Nat) (rest : List Nat),
      let go : Prop := (s.audit.busy = true ∧ s.flt.mode = .normal ∧ ResetUnit.badger ∉ s.flt.inReset ∧ (s.audit.runs.length + 1) * settN (s.slot s.auSlot).sett ≤ 512);
      s.slotTenant s.auSlot = some i ∧ nextRun (settN (s.slot s.auSlot).sett) (max 1 s.cfg.glob.run) s.audit.todo = s0
      :: rest ∧ (¬ go)) ∧
    (∃ (s : State) (i : Fin 64) (s0 : Nat) (rest : List Nat),
      let go : Prop := (s.audit.busy = true ∧ s.flt.mode = .normal ∧ ResetUnit.badger ∉ s.flt.inReset ∧ (s.audit.runs.length + 1) * settN (s.slot s.auSlot).sett ≤ 512);
      s.slotTenant s.auSlot = some i ∧ nextRun (settN (s.slot s.auSlot).sett) (max 1 s.cfg.glob.run) s.audit.todo = s0
      :: rest ∧ go ∧ (s.slot s.auSlot).audits = false) ∧
    (∃ (s : State) (i : Fin 64) (s0 : Nat) (rest : List Nat),
      let go : Prop := (s.audit.busy = true ∧ s.flt.mode = .normal ∧ ResetUnit.badger ∉ s.flt.inReset ∧ (s.audit.runs.length + 1) * settN (s.slot s.auSlot).sett ≤ 512);
      s.slotTenant s.auSlot = some i ∧ nextRun (settN (s.slot s.auSlot).sett) (max 1 s.cfg.glob.run) s.audit.todo = s0
      :: rest ∧ go ∧ (s.slot s.auSlot).audits = true) ∧
    (∃ (s : State) (s0 : Nat), (s.slotTenant s.auSlot = none ∨ (∀ r ∈ s.audit.runs, r.s0 ≠ s0) ∨ s.flt.mode ≠ .normal)) ∧
    (∃ (s : State) (i : Fin 64) (r : AuRun) (s0 : Nat), s.slotTenant s.auSlot = some i ∧ s.audit.runs.find? (fun r =>
      r.s0 == s0) = some r ∧ s.flt.mode = .normal ∧ (s.slot s.auSlot).audits = false) ∧
    (∃ (s : State) (i : Fin 64) (r : AuRun) (s0 : Nat), s.slotTenant s.auSlot = some i ∧ s.audit.runs.find? (fun r =>
      r.s0 == s0) = some r ∧ s.flt.mode = .normal ∧ (s.slot s.auSlot).audits = true) :=
  ⟨⟨demo, { tag := 7, id := 1 }, by decide +kernel⟩,
   ⟨withAudit { busy := true }, sys, by decide +kernel⟩,
   ⟨demo, sys, 1, by decide +kernel⟩,
   ⟨demo, sys, 0, by decide +kernel⟩,
   ⟨{ withAudit { count := 1 } with slots := State.reset.slots.set 0 { demoSlot with sett := { demoSett with q := 64 } } },
     sys, 0, by decide +kernel⟩,
   ⟨withAudit { busy := true }, by decide +kernel⟩,
   ⟨demo, by decide +kernel⟩,
   ⟨demo, by decide +kernel⟩,
   ⟨withAudit { todo := [0] }, 0, 0, [], by decide +kernel⟩,
   ⟨{ withAudit { busy := true, todo := [0] } with slots := State.reset.slots.set 0 { demoSlot with ranks := [.present, .lost] } },
     0, 0, [], by decide +kernel⟩,
   ⟨withAudit { busy := true, todo := [0] }, 0, 0, [], by decide +kernel⟩,
   ⟨demo, 0, by decide +kernel⟩,
   ⟨{ withAudit { runs := [demoAuRun] } with slots := State.reset.slots.set 0 { demoSlot with ranks := [.present, .lost] } },
     0, demoAuRun, 0, by decide +kernel⟩,
   ⟨withAudit { runs := [demoAuRun] }, 0, demoAuRun, 0, by decide +kernel⟩⟩

/-- States that meet the hypotheses of `LockstepRowsComplete`, a clause at a time. -/
theorem witness_LockstepRowsComplete :
    (∃ (s : State) (i : Fin 64), ((s.ten i).steprec.busy = none ∨ s.flt.mode ≠ .normal)) ∧
    (∃ (s : State) (i : Fin 64) (p : PendingRec), (s.ten i).steprec.busy = some p ∧ s.flt.mode = .normal) ∧
    (∃ (s : State) (n : Fin 15), let p := (s.audit.pairs.get n); (p.sendDue = none ∨ s.flt.mode ≠ .normal)) ∧
    (∃ (s : State) (n : Fin 15) (e : Nat), let p := (s.audit.pairs.get n); p.sendDue = some e ∧ s.flt.mode = .normal ∧
      e ≠ (s.ten p.tidx).commit.committed) ∧
    (∃ (s : State) (n : Fin 15) (e : Nat), let p := (s.audit.pairs.get n); p.sendDue = some e ∧ s.flt.mode = .normal ∧
      e = (s.ten p.tidx).commit.committed) ∧
    (∃ (s : State) (f : Rx) (i : Fin 64) (n : Fin 15), frameGood s f 0x52 i ∧ digestOk2 f = true ∧ tField f 33 4 =
      n.val ∧ f.payload.length = 8 * tField f 23 10 ∧ f.tr = 0 ∧ f.epoch.toNat = (s.ten i).commit.committed ∧ (s.ten
      i).commit.vstate ≠ .none ∧ ((s.audit.pairs.get n).role = .compare ∨ (s.audit.pairs.get n).role = .ring) ∧
      (s.audit.pairs.get n).tidx = i ∧ (s.at_ f.time).pairSource (s.audit.pairs.get n) = f.src) ∧
    (∃ (s : State) (f : Rx) (i : Fin 64), frameGood s f 0x52 i ∧ tField f 33 4 = 15) ∧
    (∃ (s : State) (x : Entry × Nat) (theirs : Word), let mine := (s.keptC x.1 x.2); mine = theirs) ∧
    (∃ (s : State) (n : Fin 15) (x : Entry × Nat) (theirs : Word), let p := (s.audit.pairs.get n);
      let mine := (s.keptC x.1 x.2); mine ≠ theirs ∧ p.missed = true ∧ p.mismatch = none) ∧
    (∃ (s : State) (n : Fin 15) (epoch idx : Nat) (x : Entry × Nat) (theirs : Word) (c : Word) (e : Nat) (a b : Word)
      (j : Nat), let p := (s.audit.pairs.get n); let mine := (s.keptC x.1 x.2); mine ≠ theirs ∧ p.missed = true ∧
      p.mismatch = some (c, e, a, b, j) ∧ e = epoch ∧ idx < j) ∧
    (∃ (s : State) (n : Fin 15) (epoch idx : Nat) (x : Entry × Nat) (theirs : Word) (c : Word) (e : Nat) (a b : Word)
      (j : Nat), let p := (s.audit.pairs.get n); let mine := (s.keptC x.1 x.2); mine ≠ theirs ∧ p.missed = true ∧
      p.mismatch = some (c, e, a, b, j) ∧ (e ≠ epoch ∨ j ≤ idx)) ∧
    (∃ (s : State) (n : Fin 15) (x : Entry × Nat) (theirs : Word), let p := (s.audit.pairs.get n);
      let mine := (s.keptC x.1 x.2); mine ≠ theirs ∧ p.missed = false) :=
  ⟨⟨demo, 0, by decide +kernel⟩,
   ⟨withTenant (fun t => { t with steprec := { busy := some demoPending } }), 0, demoPending, by decide +kernel⟩,
   ⟨demo, 0, by decide +kernel⟩,
   ⟨demoPair .compare (some 0), 0, 0, by decide +kernel⟩,
   ⟨demoPair .compare (some 1), 0, 1, by decide +kernel⟩,
   ⟨demoPair .compare none, sealed { rx 0x52 0x800000 (List.replicate 8 0) with epoch := 1 }, 0, 0, sealed_good
     (by decide +kernel), by decide +kernel⟩,
   ⟨demo, sealed { rx 0x52 0x1E00800000 (List.replicate 8 0) with epoch := 1 }, 0, sealed_good (by decide +kernel),
     by decide +kernel⟩,
   ⟨demo, (demoEntry, 0), 0, by decide +kernel⟩,
   ⟨withAudit { pairs := (Vector.replicate 15 {}).set 0 { missed := true, mismatch := none } }, 0, (demoEntry, 0), 1,
     by decide +kernel⟩,
   ⟨withAudit { pairs := (Vector.replicate 15 {}).set 0 { missed := true, mismatch := some (0, 1, 0, 0, 5) } }, 0, 1,
     0, (demoEntry, 0), 1, 0, 1, 0, 0, 5, by decide +kernel⟩,
   ⟨withAudit { pairs := (Vector.replicate 15 {}).set 0 { missed := true, mismatch := some (0, 0, 0, 0, 5) } }, 0, 1,
     0, (demoEntry, 0), 1, 0, 0, 0, 0, 5, by decide +kernel⟩,
   ⟨demo, 0, (demoEntry, 0), 1, by decide +kernel⟩⟩

/-- States that meet the hypotheses of `DustRowsComplete`, a clause at a time. -/
theorem witness_DustRowsComplete :
    (∃ (s : State) (a : Acc), s.portsUp = true ∧ fromSystem a = false) ∧
    (∃ (s : State) (a : Acc), windowTakes s a 0x1818 ∧ s.flt.mode = .normal) ∧
    (∃ (s : State) (a : Acc), windowTakes s a 0x1818 ∧ (s.flt.mode = .dust ∨ s.flt.mode = .outOfService)) ∧
    (∃ (s : State) (a : Acc), windowTakes s a 0x1818 ∧ s.flt.mode = .resetting ∧ s.flt.resetDust = true) ∧
    (∃ (s : State) (a : Acc), windowTakes s a 0x1818 ∧ s.flt.mode = .resetting ∧ s.flt.resetDust = false) ∧
    (∃ (s : State), s.flt.phase ≠ .drain) ∧
    (∃ (s : State) (drained torn : List (Nat × Nat × Byte)),
      let s1 : State := (State.recordTorn { s with flt := { s.flt with phase := .capture, drained := drained } } torn);
      s.flt.phase = .drain ∧ s1.flt.mode = .resetting) ∧
    (∃ (s : State) (drained torn : List (Nat × Nat × Byte)),
      let s1 : State := (State.recordTorn { s with flt := { s.flt with phase := .capture, drained := drained } } torn);
      s.flt.phase = .drain ∧ s1.flt.mode ≠ .resetting) ∧
    (∃ (s : State), s.crash.capturing = none) ∧
    (∃ (s : State) (slot1 : Bool) (code : Byte), let s1 := (s.endCapture slot1 code); s.crash.capturing = some (slot1,
      code) ∧ s1.flt.phase ≠ .capture) ∧
    (∃ (s : State) (slot1 : Bool) (code : Byte) (t : State), let s1 := (s.endCapture slot1 code);
      let held : State := ({ s1 with flt := { s1.flt with phase := .held } }); ((s1.flt.mode = .resetting → t = held))
      ∧ ((s1.flt.mode ≠ .resetting → t = held.raise { code := 0x13, core := true })) ∧ s.crash.capturing = some (slot1,
      code) ∧ s1.flt.phase = .capture ∧ t.flt.resetWanted = false) ∧
    (∃ (s : State) (slot1 : Bool) (code : Byte) (t : State), let s1 := (s.endCapture slot1 code);
      let held : State := ({ s1 with flt := { s1.flt with phase := .held } }); ((s1.flt.mode = .resetting → t = held))
      ∧ ((s1.flt.mode ≠ .resetting → t = held.raise { code := 0x13, core := true })) ∧ s.crash.capturing = some (slot1,
      code) ∧ s1.flt.phase = .capture ∧ t.flt.resetWanted = true) ∧
    (∃ (slot1 : Bool), slot1 = false) ∧
    (∃ (slot1 : Bool), slot1 = true) ∧
    (∃ (s : State) (a : Acc),
      let lasts : Prop := (s.flt.phase ≠ .held ∨ s.flt.resetWanted = true ∨ s.causes.getLsbD 0 = true); windowTakes s a
      0x1818 ∧ s.flt.mode = .dust ∧ lasts) ∧
    (∃ (s : State) (a : Acc), windowTakes s a 0x1818 ∧ (s.flt.mode = .outOfService ∨ s.flt.mode = .resetting)) ∧
    (∃ (s : State) (a : Acc) (t : State),
      let lasts : Prop := (s.flt.phase ≠ .held ∨ s.flt.resetWanted = true ∨ s.causes.getLsbD 0 = true); windowTakes s a
      0x1818 ∧ t = (s.ok a.id).raise { code := 0x14, core := true } ∧ s.flt.mode = .dust ∧ (¬ lasts) ∧ t.flt.dcause ≠
      0x02) ∧
    (∃ (s : State) (a : Acc) (t : State),
      let lasts : Prop := (s.flt.phase ≠ .held ∨ s.flt.resetWanted = true ∨ s.causes.getLsbD 0 = true); windowTakes s a
      0x1818 ∧ t = (s.ok a.id).raise { code := 0x14, core := true } ∧ s.flt.mode = .dust ∧ (¬ lasts) ∧ t.flt.dcause =
      0x02) :=
  ⟨⟨demo, { tag := 7, id := 1 }, by decide +kernel⟩,
   ⟨demo, sys, takes_of (by decide +kernel), by decide +kernel⟩,
   ⟨withFlt (fun f => { f with mode := .dust }), sys, takes_of (by decide +kernel), by decide +kernel⟩,
   ⟨withFlt (fun f => { f with mode := .resetting, resetDust := true }), sys, takes_of (by decide +kernel),
     by decide +kernel⟩,
   ⟨withFlt (fun f => { f with mode := .resetting }), sys, takes_of (by decide +kernel), by decide +kernel⟩,
   ⟨demo, by decide +kernel⟩,
   ⟨withFlt (fun f => { f with mode := .resetting, phase := .drain }), [], [], by decide +kernel⟩,
   ⟨withFlt (fun f => { f with mode := .dust, phase := .drain }), [], [], by decide +kernel⟩,
   ⟨demo, by decide +kernel⟩,
   ⟨{ withFlt (fun f => { f with mode := .normal }) with crash := { capturing := some (false, 2) } }, false, 2,
     by decide +kernel⟩,
   ⟨{ withFlt (fun f => { f with mode := .dust, phase := .capture }) with crash := { capturing := some (false, 2) } },
     false, 2, State.raise
     { State.endCapture ({ withFlt (fun f => { f with mode := .dust, phase := .capture }) with crash := { capturing := some (false, 2) } }) false 2 with flt := { (State.endCapture ({ withFlt (fun f => { f with mode := .dust, phase := .capture }) with crash := { capturing := some (false, 2) } }) false 2).flt with phase := .held } }
     { code := 0x13, core := true }, (fun h => absurd h (by decide +kernel)), (fun _ => rfl), by decide +kernel⟩,
   ⟨{ withFlt (fun f => { f with mode := .resetting, phase := .capture, resetWanted := true }) with crash := { capturing := some (false, 2) } },
     false, 2,
     { State.endCapture ({ withFlt (fun f => { f with mode := .resetting, phase := .capture, resetWanted := true }) with crash := { capturing := some (false, 2) } }) false 2 with flt := { (State.endCapture ({ withFlt (fun f => { f with mode := .resetting, phase := .capture, resetWanted := true }) with crash := { capturing := some (false, 2) } }) false 2).flt with phase := .held } },
     (fun _ => rfl), (fun h => absurd (by decide +kernel) h), by decide +kernel⟩,
   ⟨false, by decide +kernel⟩,
   ⟨true, by decide +kernel⟩,
   ⟨withFlt (fun f => { f with mode := .dust, phase := .drain }), sys, takes_of (by decide +kernel), by decide +kernel⟩,
   ⟨withFlt (fun f => { f with mode := .outOfService }), sys, takes_of (by decide +kernel), by decide +kernel⟩,
   ⟨bare { mode := .dust, phase := .held }, sys, State.raise (State.ok (bare { mode := .dust, phase := .held }) 1)
     { code := 0x14, core := true }, takes_of (by decide +kernel), rfl, by decide +kernel⟩,
   ⟨bare { mode := .dust, phase := .held, dcause := 2 }, sys, State.raise (State.ok (bare
     { mode := .dust, phase := .held, dcause := 2 }) 1) { code := 0x14, core := true }, takes_of (by decide +kernel),
     rfl, by decide +kernel⟩⟩

/-- States that meet the hypotheses of `ResetRowsComplete`, a clause at a time. -/
theorem witness_ResetRowsComplete :
    (∃ (s : State) (a : Acc) (g : Fin 4) (h : Fin 2) (busy : Option (Fin 16)) (c : Instr), s.portsUp = true ∧
      fromSystem a = false ∧ c ∈ [Instr.resetLaneGroup a g, .resetGfEngine a h busy, .resetEndpoint a, .resetBadger a,
      .resetInstance a]) ∧
    (∃ (s : State) (a : Acc) (g : Fin 4), windowTakes s a 0x1820 ∧ s.flt.mode ≠ .resetting ∧ ResetUnit.lane g ∉
      s.flt.inReset) ∧
    (∃ (s : State) (a : Acc), windowTakes s a 0x1820 ∧ s.flt.mode ≠ .resetting ∧ ResetUnit.badger ∉ s.flt.inReset) ∧
    (∃ (s : State) (a : Acc), windowTakes s a 0x1820 ∧ s.flt.mode = .resetting) ∧
    (∃ (s : State) (a : Acc), windowTakes s a 0x1818) ∧
    (∃ (s : State), s.flt.mode = .normal) ∧
    (∃ (s : State), (s.flt.mode = .dust ∨ s.flt.mode = .outOfService) ∧ s.flt.phase ≠ .held) ∧
    (∃ (s : State), (s.flt.mode = .dust ∨ s.flt.mode = .outOfService) ∧ s.flt.phase = .held) ∧
    (∃ (s : State), s.portsUp = false) ∧
    (∃ (s : State) (now : BitVec 64) (w : Watchdog) (u : ResetUnit) (code : Nat) (busy : Option (Fin 16)),
      let s1 := (s.at_ now); s.portsUp = true ∧ ((∃ g : Fin 4, w = .lane g ∧ u = .lane g ∧ code = 0x09 ∧ busy = none) ∨
      (∃ g : Fin 2, w = .gf g busy ∧ u = .gf g ∧ code = 0x0A) ∨ (w = .endpoint ∧ u = .endpoint ∧ code = 0x0B ∧ busy =
      none) ∨ (w = .badger ∧ u = .badger ∧ code = 0x0C ∧ busy = none)) ∧ s1.unitLimited u = false) ∧
    (∃ (s : State) (now : BitVec 64) (w : Watchdog) (u : ResetUnit) (code : Nat) (busy : Option (Fin 16)),
      let s1 := (s.at_ now); s.portsUp = true ∧ ((∃ g : Fin 4, w = .lane g ∧ u = .lane g ∧ code = 0x09 ∧ busy = none) ∨
      (∃ g : Fin 2, w = .gf g busy ∧ u = .gf g ∧ code = 0x0A) ∨ (w = .endpoint ∧ u = .endpoint ∧ code = 0x0B ∧ busy =
      none) ∨ (w = .badger ∧ u = .badger ∧ code = 0x0C ∧ busy = none)) ∧ s1.unitLimited u = true) ∧
    (∃ (s : State) (id : BitVec 12), s.portsUp = true ∧ (s.gate.mq.find? fun m => m.id == id && m.got.isNone) = none) ∧
    (∃ (s : State) (id : BitVec 12) (m : MqReq), s.portsUp = true ∧ (s.gate.mq.find? fun m => m.id == id &&
      m.got.isNone) = some m) ∧
    (∃ (s : State) (u : ResetUnit), u ∉ s.flt.inReset) ∧
    (∃ (s : State) (u : ResetUnit) (code : Nat), u ∈ s.flt.inReset ∧ (((∃ g : Fin 4, u = .lane g) → code = 0x7A)) ∧
      (((∀ g : Fin 4, u ≠ .lane g) → code = 0x11)) ∧ u ≠ .endpoint) ∧
    (∃ (s : State) (u : ResetUnit) (code : Nat), u ∈ s.flt.inReset ∧ (((∃ g : Fin 4, u = .lane g) → code = 0x7A)) ∧
      (((∀ g : Fin 4, u ≠ .lane g) → code = 0x11)) ∧ u = .endpoint) ∧
    (∃ (s : State), (s.flt.mode ≠ .resetting ∨ s.flt.phase ≠ .held)) ∧
    (∃ (s : State) (now : BitVec 64), let s1 := ((s.at_ now).raise { code := 0x12, core := true });
      let back : Prop := (s1.flt.resetReturn = true); s.flt.mode = .resetting ∧ s.flt.phase = .held ∧ back) ∧
    (∃ (s : State) (now : BitVec 64), let s1 := ((s.at_ now).raise { code := 0x12, core := true });
      let limit : Prop := (s1.flt.resetCounted = true ∧ s.cfg.glob.escLimit ≤ s1.resetsInWindow);
      let back : Prop := (s1.flt.resetReturn = true); s.flt.mode = .resetting ∧ s.flt.phase = .held ∧ (¬ back) ∧ limit) ∧
    (∃ (s : State) (now : BitVec 64), let s1 := ((s.at_ now).raise { code := 0x12, core := true });
      let limit : Prop := (s1.flt.resetCounted = true ∧ s.cfg.glob.escLimit ≤ s1.resetsInWindow);
      let back : Prop := (s1.flt.resetReturn = true); s.flt.mode = .resetting ∧ s.flt.phase = .held ∧ (¬ back) ∧ (¬
      limit) ∧ s1.flt.resetOut = true) ∧
    (∃ (s : State) (now : BitVec 64), let s1 := ((s.at_ now).raise { code := 0x12, core := true });
      let limit : Prop := (s1.flt.resetCounted = true ∧ s.cfg.glob.escLimit ≤ s1.resetsInWindow);
      let back : Prop := (s1.flt.resetReturn = true); s.flt.mode = .resetting ∧ s.flt.phase = .held ∧ (¬ back) ∧ (¬
      limit) ∧ s1.flt.resetOut = false ∧ s1.flt.resetDust = true) ∧
    (∃ (s : State) (now : BitVec 64), let s1 := ((s.at_ now).raise { code := 0x12, core := true });
      let limit : Prop := (s1.flt.resetCounted = true ∧ s.cfg.glob.escLimit ≤ s1.resetsInWindow);
      let back : Prop := (s1.flt.resetReturn = true); s.flt.mode = .resetting ∧ s.flt.phase = .held ∧ (¬ back) ∧ (¬
      limit) ∧ s1.flt.resetOut = false ∧ s1.flt.resetDust = false) :=
  ⟨⟨demo, { tag := 7, id := 1 }, 0, 0, none, .resetBadger { tag := 7, id := 1 }, by decide +kernel⟩,
   ⟨demo, sys, 3, takes_of (by decide +kernel), by decide +kernel⟩,
   ⟨demo, sys, takes_of (by decide +kernel), by decide +kernel⟩,
   ⟨withFlt (fun f => { f with mode := .resetting }), sys, takes_of (by decide +kernel), by decide +kernel⟩,
   ⟨demo, sys, takes_of (by decide +kernel)⟩,
   ⟨demo, by decide +kernel⟩,
   ⟨withFlt (fun f => { f with mode := .dust, phase := .drain }), by decide +kernel⟩,
   ⟨withFlt (fun f => { f with mode := .dust, phase := .held }), by decide +kernel⟩,
   ⟨State.reset, by decide +kernel⟩,
   ⟨demo, 0, .badger, .badger, 0x0C, none, by decide +kernel⟩,
   ⟨withFlt (fun f => { f with unitResets := List.replicate 8 (.lane 3, 0) }), 0, .lane 3, .lane 3, 9, none,
     by decide +kernel⟩,
   ⟨demo, 4095, by decide +kernel⟩,
   ⟨{ demo with gate := { ready := true, mq := [mqReq .read] } }, 0, mqReq .read, by decide +kernel⟩,
   ⟨demo, .badger, by decide +kernel⟩,
   ⟨withFlt (fun f => { f with inReset := [.lane 3] }), .lane 3, 0x7A, by decide +kernel⟩,
   ⟨withFlt (fun f => { f with inReset := [.endpoint] }), .endpoint, 0x11, by decide +kernel⟩,
   ⟨demo, by decide +kernel⟩,
   ⟨withFlt (fun f => { f with mode := .resetting, phase := .held, resetReturn := true }), 0, by decide +kernel⟩,
   ⟨withFlt (fun f =>
     { f with mode := .resetting, phase := .held, resetCounted := true, resets := List.replicate 8 0 }), 0,
     by decide +kernel⟩,
   ⟨withFlt (fun f => { f with mode := .resetting, phase := .held, resetOut := true }), 0, by decide +kernel⟩,
   ⟨withFlt (fun f => { f with mode := .resetting, phase := .held, resetDust := true }), 0, by decide +kernel⟩,
   ⟨withFlt (fun f => { f with mode := .resetting, phase := .held }), 0, by decide +kernel⟩⟩

/-- States that meet the hypotheses of `CrashAndStatusRowsComplete`, a clause at a time. -/
theorem witness_CrashAndStatusRowsComplete :
    (∃ (s : State) (a : Acc) (fmt : Bool), let taken : Prop := (fromSystem a = true ∧ (fmt = false ∨ s.cap 10 = true));
      s.portsUp = true ∧ (¬ taken)) ∧
    (∃ (s : State) (a : Acc) (fmt : Bool), let taken : Prop := (fromSystem a = true ∧ (fmt = false ∨ s.cap 10 = true));
      s.portsUp = true ∧ taken ∧ s.crash.capturing = none ∧ s.crash.slot0 = false) ∧
    (∃ (s : State) (a : Acc) (fmt : Bool), let taken : Prop := (fromSystem a = true ∧ (fmt = false ∨ s.cap 10 = true));
      s.portsUp = true ∧ taken ∧ s.crash.capturing = none ∧ s.crash.slot0 = true) ∧
    (∃ (s : State) (a : Acc) (fmt : Bool), let taken : Prop := (fromSystem a = true ∧ (fmt = false ∨ s.cap 10 = true));
      s.portsUp = true ∧ taken ∧ s.crash.capturing ≠ none) ∧
    (∃ (s : State) (a : Acc), s.portsUp = true ∧ fromSystem a = false) ∧
    (∃ (s : State) (a : Acc), s.portsUp = true ∧ fromSystem a = true) ∧
    (∃ (s : State) (f : Rx) (i : Fin 64), frameAnyGen s f 0x70 i ∧ f.t = 6 ∧ f.len = 0) ∧
    (∃ (s : State) (f : Rx) (i : Fin 64), frameGood s f 0x70 i ∧ f.t = 7 ∧ f.len = 32 ∧ replyOk f.payload = true) ∧
    (∃ (s : State) (f : Rx) (i : Fin 64), frameGood s f 0x70 i ∧ f.t = 7 ∧ f.len = 32 ∧ replyOk f.payload = false) ∧
    (∃ (s : State), s.power.released = false) ∧
    (∃ (s : State), s.power.released = true ∧ (∀ i : Fin 64, (s.ten i).env = none)) ∧
    (∃ (s : State), (s.portsUp = false ∨ s.flt.mirrorEn = false ∨ s.flt.mode = .resetting)) ∧
    (∃ (s : State) (now : BitVec 64), s.portsUp = true ∧ s.flt.mirrorEn = true ∧ s.flt.mode ≠ .resetting ∧ s.memWf =
      true ∧ s.flt.mirrorBase.toNat + ((s.at_ now).mirrorPage (s.flt.mirrorSeq + 1)).length ≤ Config.stackBytes) :=
  ⟨⟨demo, { tag := 7, id := 1 }, true, by decide +kernel⟩,
   ⟨demo, sys, false, by decide +kernel⟩,
   ⟨{ demo with crash := { slot0 := true } }, sys, false, by decide +kernel⟩,
   ⟨{ demo with crash := { capturing := some (false, 0) } }, sys, false, by decide +kernel⟩,
   ⟨demo, { tag := 7, id := 1 }, by decide +kernel⟩,
   ⟨demo, sys, by decide +kernel⟩,
   ⟨demo, sealed { rx 0x70 6 with gen := 0 }, 0, sealed_any (by decide +kernel), by decide +kernel⟩,
   ⟨demo, sealed (rx 0x70 7 (List.replicate 32 0)), 0, sealed_good (by decide +kernel), by decide +kernel⟩,
   ⟨demo, sealed (rx 0x70 7 (List.replicate 31 0 ++ [1])), 0, sealed_good (by decide +kernel), by decide +kernel⟩,
   ⟨State.reset, by decide +kernel⟩,
   ⟨bare {}, by decide +kernel⟩,
   ⟨State.reset, by decide +kernel⟩,
   ⟨withFlt (fun f => { f with mirrorEn := true, mirrorBase := 0x1000 }), 0, by decide +kernel⟩⟩

/-- States that meet the hypotheses of `RegisterRowsComplete`, a clause at a time. -/
theorem witness_RegisterRowsComplete :
    (∃ (s : State), s.portsUp = false) ∧
    (∃ (s : State) (q : NqReq), s.portsUp = true ∧ winFormed q 0 = false) ∧
    (∃ (s : State) (q : NqReq), s.portsUp = true ∧ winFormed q 1 = false) ∧
    (∃ (s : State) (q : NqReq),
      let good (p : Nat × Nat) : Prop := ((s.regWord p.2).isSome = true ∧ s.mayRead q.tag p.2 = true); s.portsUp = true
      ∧ winFormed q 0 = true ∧ (∃ p ∈ winWords q, ¬ good p)) ∧
    (∃ (s : State) (q : NqReq),
      let good (p : Nat × Nat) : Prop := ((s.regWord p.2).isSome = true ∧ s.mayRead q.tag p.2 = true); s.portsUp = true
      ∧ winFormed q 0 = true ∧ (∀ p ∈ winWords q, good p)) ∧
    (∃ (s : State) (q : NqReq) (j off w : Nat), s.portsUp = true ∧ winFormed q 0 = true ∧ winWords q = [(j, off)] ∧
      s.regWord off = some w ∧ s.mayRead q.tag off = true) ∧
    (∃ (s : State) (q : NqReq) (j off : Nat), let w : Word := (q.data.extractLsb' (64 * j) 64); s.portsUp = true ∧
      winFormed q 1 = true ∧ winWords q = [(j, off)] ∧ (s.writeOpen off w = false ∨ s.regWord off = none)) ∧
    (∃ (s : State) (q : NqReq) (j off : Nat), let w : Word := (q.data.extractLsb' (64 * j) 64); s.portsUp = true ∧
      winFormed q 1 = true ∧ winWords q = [(j, off)] ∧ s.writeOpen off w = true ∧ (s.regWord off).isSome = true ∧ off <
      0x1000) ∧
    (∃ (s : State) (q : NqReq) (j off : Nat), let w : Word := (q.data.extractLsb' (64 * j) 64); s.portsUp = true ∧
      winFormed q 1 = true ∧ winWords q = [(j, off)] ∧ s.writeOpen off w = true ∧ (s.regWord off).isSome = true ∧ off =
      0x6810) ∧
    (∃ (s : State) (q : NqReq) (j off : Nat), let w : Word := (q.data.extractLsb' (64 * j) 64); s.portsUp = true ∧
      winFormed q 1 = true ∧ winWords q = [(j, off)] ∧ s.writeOpen off w = true ∧ (s.regWord off).isSome = true ∧
      0x6800 ≤ off ∧ off < 0x7000 ∧ off ≠ 0x6810) ∧
    (∃ (s : State) (q : NqReq) (j off : Nat), let w : Word := (q.data.extractLsb' (64 * j) 64); s.portsUp = true ∧
      winFormed q 1 = true ∧ winWords q = [(j, off)] ∧ s.writeOpen off w = true ∧ (s.regWord off).isSome = true ∧
      0x7800 ≤ off) ∧
    (∃ (s : State) (q : NqReq) (j off : Nat), let w : Word := (q.data.extractLsb' (64 * j) 64); s.portsUp = true ∧
      winFormed q 1 = true ∧ winWords q = [(j, off)] ∧ off = 0x7008 ∧ s.writeOpen off w = true ∧ w.toNat % 16 = 2) ∧
    (∃ (s : State) (q : NqReq) (j off : Nat), let w : Word := (q.data.extractLsb' (64 * j) 64); s.portsUp = true ∧
      winFormed q 1 = true ∧ winWords q = [(j, off)] ∧ off = 0x7008 ∧ s.writeOpen off w = true ∧ w.toNat % 16 = 3) ∧
    (∃ (s : State) (q : NqReq) (j off : Nat), let w : Word := (q.data.extractLsb' (64 * j) 64); s.portsUp = true ∧
      winFormed q 1 = true ∧ winWords q = [(j, off)] ∧ off = 0x7008 ∧ s.writeOpen off w = true ∧ w.toNat % 16 = 4) ∧
    (∃ (s : State) (q : NqReq) (j : Nat), s.portsUp = true ∧ winFormed q 1 = true ∧ winWords q = [(j, 0x3010)] ∧
      s.configured = true ∧ s.flt.mode ≠ .resetting) ∧
    (∃ (s : State) (q : NqReq),
      let t : State := ((winWords q).foldl (fun t p => t.writeWord { tag := q.tag, id := q.id } p.2 (q.data.extractLsb' (64 * p.1) 64)) s);
      let old : Nat := (s.gate.ns.length);
      let mine : List NsResp := ((t.gate.ns.drop old).filter fun r => r.id == q.id); s.portsUp = true ∧ winFormed q 1 =
      true ∧ 2 ≤ (winWords q).length ∧ (∃ r ∈ mine, r.status ≠ .ok)) ∧
    (∃ (s : State) (q : NqReq),
      let t : State := ((winWords q).foldl (fun t p => t.writeWord { tag := q.tag, id := q.id } p.2 (q.data.extractLsb' (64 * p.1) 64)) s);
      let old : Nat := (s.gate.ns.length);
      let mine : List NsResp := ((t.gate.ns.drop old).filter fun r => r.id == q.id); s.portsUp = true ∧ winFormed q 1 =
      true ∧ 2 ≤ (winWords q).length ∧ (∀ r ∈ mine, r.status = .ok)) :=
  ⟨⟨State.reset, by decide +kernel⟩,
   ⟨demo, winReq 2 0, by decide +kernel⟩,
   ⟨demo, winReq 2 0, by decide +kernel⟩,
   ⟨demo, { winReq 0 0xC20 with be := 0xFF00000000 }, by decide +kernel⟩,
   ⟨demo, { winReq 0 0 with be := ~~~0 }, by decide +kernel⟩,
   ⟨demo, { winReq 0 0x400 with tag := 0 }, 0, 0x400, 0, by decide +kernel⟩,
   ⟨demo, { winReq 1 0xC20 with be := 0xFF <<< 32 }, 4, 0xC20, by decide +kernel⟩,
   ⟨demo, { winReq 1 0x400 with be := 0xFF <<< 0 }, 0, 0x400, by decide +kernel⟩,
   ⟨demo, { winReq 1 0x6810 with be := 0xFF <<< 16 }, 2, 0x6810, by decide +kernel⟩,
   ⟨demo, { winReq 1 0x6800 with be := 0xFF <<< 0 }, 0, 0x6800, by decide +kernel⟩,
   ⟨demo, { winReq 1 0x7800 with be := 0xFF <<< 0 }, 0, 0x7800, by decide +kernel⟩,
   ⟨demo, { winReq 1 0x7008 with be := 0xFF <<< 8, data := 2 <<< 64 }, 1, 0x7008, by decide +kernel⟩,
   ⟨demo, { winReq 1 0x7008 with be := 0xFF <<< 8, data := 3 <<< 64 }, 1, 0x7008, by decide +kernel⟩,
   ⟨demo, { winReq 1 0x7008 with be := 0xFF <<< 8, data := 4 <<< 64 }, 1, 0x7008, by decide +kernel⟩,
   ⟨demo, { winReq 1 0x3010 with be := 0xFF0000 }, 2, by decide +kernel⟩,
   ⟨demo, { winReq 1 0xC20 with be := 0xFFFF00000000 }, by decide +kernel⟩,
   ⟨demo, { winReq 1 0x400 with be := 0xFFFF }, by decide +kernel⟩⟩

/-- States that meet the hypotheses of `LathRowsComplete`, a clause at a time. -/
theorem witness_LathRowsComplete :
    (∃ (s : State), s.portsUp = false) ∧
    (∃ (s : State) (x : LathXfer), let first : Prop := (x.payload1.length = 64 ∧ crc32c x.payload1 = x.crc1); s.portsUp
      = true ∧ first) ∧
    (∃ (s : State) (x : LathXfer), let first : Prop := (x.payload1.length = 64 ∧ crc32c x.payload1 = x.crc1);
      let second : Prop := (x.payload2.length = 64 ∧ crc32c x.payload2 = x.crc2); s.portsUp = true ∧ (¬ first) ∧
      second) ∧
    (∃ (s : State) (x : LathXfer), let first : Prop := (x.payload1.length = 64 ∧ crc32c x.payload1 = x.crc1);
      let second : Prop := (x.payload2.length = 64 ∧ crc32c x.payload2 = x.crc2); s.portsUp = true ∧ (¬ first) ∧ (¬
      second)) ∧
    (∃ (s : State) (i : Fin 64), let known : Prop := ((s.ten i).env.isSome = true); s.lathActive = true ∧ (¬ known)) ∧
    (∃ (s : State), s.lathActive = false) ∧
    (∃ (s : State) (i : Fin 64), let known : Prop := ((s.ten i).env.isSome = true); s.lathActive = true ∧ known) ∧
    (∃ (s : State), s.flt.mode = .resetting) ∧
    (∃ (s : State) (i : Fin 64) (u : Update), let known : Prop := ((s.ten i).env.isSome = true);
      let g : Gen := ((s.ten i).fox.gen); s.flt.mode ≠ .resetting ∧ known ∧ u.prevGen = g ∧ g < u.newGen) ∧
    (∃ (s : State) (i : Fin 64) (u : Update), let known : Prop := ((s.ten i).env.isSome = true);
      let g : Gen := ((s.ten i).fox.gen); s.flt.mode ≠ .resetting ∧ known ∧ g < u.prevGen) ∧
    (∃ (s : State) (i : Fin 64) (u : Update), let known : Prop := ((s.ten i).env.isSome = true);
      let g : Gen := ((s.ten i).fox.gen); s.flt.mode ≠ .resetting ∧ known ∧ u.prevGen < g) ∧
    (∃ (s : State), s.power.flash = false ∧ s.configured = true) ∧
    (∃ (s : State), (s.loader.candidate = none ∨ s.loader.applied = true ∨ s.power.flash = false)) ∧
    (∃ (s : State) (o : ObjRead), s.power.flash = false ∧ s.loader.applied = false ∧ s.contentFault o true = none) ∧
    (∃ (s : State) (i : Fin 64) (inst : BitVec 4) (epoch : Nat) (tr : BitVec 7), s.lathActive = true ∧ s.isJobManager i
      = true ∧ s.commits i = true ∧ (s.ten i).env.isSome = true ∧ (s.ten i).commit.openEpoch = epoch ∧ (s.ten
      i).commit.openTry = tr ∧ (s.ten i).childOf true (s.mateAddr inst) = none) ∧
    (∃ (s : State) (i : Fin 64) (inst : BitVec 4) (ready epoch : Nat) (tr : BitVec 7) (g : Nat), s.lathActive = true ∧
      s.isJobManager i = true ∧ s.commits i = true ∧ (s.ten i).env.isSome = true ∧ (s.ten i).commit.openEpoch = epoch ∧
      (s.ten i).commit.openTry = tr ∧ (s.ten i).childOf true (s.mateAddr inst) = some g ∧ (s.ten i).expect true g <
      ready) ∧
    (∃ (s : State), s.portsUp = true ∧ (s.loader.candidate = none ∨ s.configured = true)) ∧
    (∃ (s : State) (w : WalkResult) (o : ObjRead),
      let t : State := ({ s with lath := { s.lath with rtt := w.rtt, cwUp := w.cwUp, ccwUp := w.ccwUp, closed := w.closed, ninst := BitVec.ofNat 4 w.straps.length, inOrder := ringOrder s.power.inst w.straps } });
      s.portsUp = true ∧ s.loader.candidate = some o ∧ s.configured = false ∧ t.contentFault o true = none) ∧
    (∃ (s : State) (w : WalkResult) (o : ObjRead) (code detail : Nat),
      let t : State := ({ s with lath := { s.lath with rtt := w.rtt, cwUp := w.cwUp, ccwUp := w.ccwUp, closed := w.closed, ninst := BitVec.ofNat 4 w.straps.length, inOrder := ringOrder s.power.inst w.straps } });
      s.portsUp = true ∧ s.loader.candidate = some o ∧ s.configured = false ∧ t.contentFault o true = some (code,
      detail) ∧ s.power.flash = true) ∧
    (∃ (s : State) (w : WalkResult) (o : ObjRead) (code detail : Nat),
      let t : State := ({ s with lath := { s.lath with rtt := w.rtt, cwUp := w.cwUp, ccwUp := w.ccwUp, closed := w.closed, ninst := BitVec.ofNat 4 w.straps.length, inOrder := ringOrder s.power.inst w.straps } });
      s.portsUp = true ∧ s.loader.candidate = some o ∧ s.configured = false ∧ t.contentFault o true = some (code,
      detail) ∧ s.power.flash = false) :=
  ⟨⟨State.reset, by decide +kernel⟩,
   ⟨demo, demoXfer zeroCrc 0, by decide +kernel⟩,
   ⟨demo, demoXfer 0 zeroCrc, by decide +kernel⟩,
   ⟨demo, demoXfer 0 0, by decide +kernel⟩,
   ⟨demo, 1, by decide +kernel⟩,
   ⟨State.reset, by decide +kernel⟩,
   ⟨demo, 0, by decide +kernel⟩,
   ⟨withFlt (fun f => { f with mode := .resetting }), by decide +kernel⟩,
   ⟨demo, 0, { demoUpdate 1 with prevGen := 1, newGen := 2 }, by decide +kernel⟩,
   ⟨demo, 0, { demoUpdate 1 with prevGen := 2, newGen := 3 }, by decide +kernel⟩,
   ⟨demo, 0, demoUpdate 1, by decide +kernel⟩,
   ⟨demo, by decide +kernel⟩,
   ⟨demo, by decide +kernel⟩,
   ⟨{ State.reset with power := { released := true, owner := chipOwner } }, otherObject, by decide +kernel⟩,
   ⟨withTree (some 0), 0, 0, 2, 0, by decide +kernel⟩,
   ⟨withTenant (fun t =>
     { t with commit := { t.commit with tree := { demoTree (some 0) with children := [{ idx := 0, job := true, addr := 0x200001, expect := 1, group := 1 }] } } }),
     0, 1, 2, 2, 0, 1, by decide +kernel⟩,
   ⟨demo, by decide +kernel⟩,
   ⟨inHand {}, { straps := [0], rtt := 1, closed := true, cwUp := true, ccwUp := true }, chipObject, by decide +kernel⟩,
   ⟨inHand {}, { straps := [1, 0], rtt := 1, closed := true, cwUp := true, ccwUp := true }, chipObject,
     (State.contentFault { (inHand {}) with lath := { (inHand {}).lath with inOrder := false, ninst := 2 } } chipObject
     true |>.getD (0, 0)).1, (State.contentFault
     { (inHand {}) with lath := { (inHand {}).lath with inOrder := false, ninst := 2 } } chipObject true |>.getD (0,
     0)).2, by decide +kernel⟩,
   ⟨{ inHand {} with power := { released := true, owner := chipOwner } },
     { straps := [1, 0], rtt := 1, closed := true, cwUp := true, ccwUp := true }, chipObject, (State.contentFault
     { ({ inHand {} with power := { released := true, owner := chipOwner } }) with lath := { ({ inHand {} with power := { released := true, owner := chipOwner } }).lath with inOrder := false, ninst := 2 } }
     chipObject true |>.getD (0, 0)).1, (State.contentFault
     { ({ inHand {} with power := { released := true, owner := chipOwner } }) with lath := { ({ inHand {} with power := { released := true, owner := chipOwner } }).lath with inOrder := false, ninst := 2 } }
     chipObject true |>.getD (0, 0)).2, by decide +kernel⟩⟩

/-- States that meet the hypotheses of `StepKeepsForm`, a clause at a time. -/
theorem witness_StepKeepsForm :
    ∃ (s s' : State), step s = .next s' ∧ s.memWf = true ∧ s.historyOk = true :=
  ⟨State.reset, State.reset, rfl, by decide +kernel⟩

/-- States that meet the hypotheses of `ElisionRoundTrip`, a clause at a time. -/
theorem witness_ElisionRoundTrip :
    ∃ (raw : List Byte), (raw.length = 256 ∨ raw.length = 4096) :=
  ⟨List.replicate 4096 0, by decide +kernel⟩

/-- States that meet the hypotheses of `FieldInverseAndGenerator`, a clause at a time. -/
theorem witness_FieldInverseAndGenerator :
    (∃ (a : Byte), a ≠ 0) ∧
    (∃ (m j t : Nat), j < m ∧ m + t < 256) ∧
    (∃ (n : Nat), 0 < n ∧ n < 255) :=
  ⟨⟨1, by decide +kernel⟩,
   ⟨252, 3, 3, by decide +kernel⟩,
   ⟨254, by decide +kernel⟩⟩

/-- States that meet the hypotheses of `RolesOfRotation`, a clause at a time. -/
theorem witness_RolesOfRotation :
    (∃ (k m u : Nat) (r : Nat), 0 < k + m ∧ u < k + m ∧ r < k + m ∧ (r + (k + m) - u) % (k + m) < m) ∧
    (∃ (k m u : Nat) (r : Nat), 0 < k + m ∧ u < k + m ∧ r < k + m ∧ m ≤ (r + (k + m) - u) % (k + m)) ∧
    (∃ (k m u : Nat) (j : Nat), 0 < k + m ∧ u < k + m ∧ j < m) ∧
    (∃ (k m u : Nat) (t : Nat), 0 < k + m ∧ u < k + m ∧ t < k) :=
  ⟨⟨32, 4, 35, 0, by decide +kernel⟩,
   ⟨32, 4, 35, 4, by decide +kernel⟩,
   ⟨32, 4, 35, 3, by decide +kernel⟩,
   ⟨32, 4, 35, 31, by decide +kernel⟩⟩

/-- States that meet the hypotheses of `FrameChecksComeFirst`, a clause at a time. -/
theorem witness_FrameChecksComeFirst :
    (∃ (s : State) (f : Rx) (flt : ReadFault) (c : Instr), c ∈ [.heartbeat f, .fence f, .discover f, .discoverReply f,
      .membershipQuerySync f, .membershipQueryWitness f, .membershipQueryAnswer f, .membershipQueryReport f,
      .membershipUpdate f, .skimDelta f flt, .skimAck f, .epochMark f, .commitPrep f, .commitVote f, .commitDecide f,
      .stepAbortRequest f, .stepAbortDecision f, .intake f, .badgerReq f flt, .badgerReqDigestOnly f, .badgerPart f,
      .render f, .digestXRebuild f, .completionRecord f, .handoverOffer f, .handoverTaken f, .handoverRefused f,
      .auditReq f flt, .auditPart f, .auditCorrection f, .auditRelease f, .digestXLockstep f, .resliceCount f,
      .resliceDone f, .resliceResend f, .resliceSealed f, .resliceCancel f, .resliceMove f, .statusQuery f,
      .statusReply f] ∧ s.portsUp = false) ∧
    (∃ (s : State) (f : Rx) (flt : ReadFault) (c : Instr), c ∈ [.heartbeat f, .fence f, .discover f, .discoverReply f,
      .membershipQuerySync f, .membershipQueryWitness f, .membershipQueryAnswer f, .membershipQueryReport f,
      .membershipUpdate f, .skimDelta f flt, .skimAck f, .epochMark f, .commitPrep f, .commitVote f, .commitDecide f,
      .stepAbortRequest f, .stepAbortDecision f, .intake f, .badgerReq f flt, .badgerReqDigestOnly f, .badgerPart f,
      .render f, .digestXRebuild f, .completionRecord f, .handoverOffer f, .handoverTaken f, .handoverRefused f,
      .auditReq f flt, .auditPart f, .auditCorrection f, .auditRelease f, .digestXLockstep f, .resliceCount f,
      .resliceDone f, .resliceResend f, .resliceSealed f, .resliceCancel f, .resliceMove f, .statusQuery f,
      .statusReply f] ∧ s.portsUp = true ∧ (s.at_ f.time).takesFrame f = false) ∧
    (∃ (s : State) (f : Rx) (flt : ReadFault) (c : Instr), c ∈ [.heartbeat f, .fence f, .discover f, .discoverReply f,
      .membershipQuerySync f, .membershipQueryWitness f, .membershipQueryAnswer f, .membershipQueryReport f,
      .membershipUpdate f, .skimDelta f flt, .skimAck f, .epochMark f, .commitPrep f, .commitVote f, .commitDecide f,
      .stepAbortRequest f, .stepAbortDecision f, .intake f, .badgerReq f flt, .badgerReqDigestOnly f, .badgerPart f,
      .render f, .digestXRebuild f, .completionRecord f, .handoverOffer f, .handoverTaken f, .handoverRefused f,
      .auditReq f flt, .auditPart f, .auditCorrection f, .auditRelease f, .digestXLockstep f, .resliceCount f,
      .resliceDone f, .resliceResend f, .resliceSealed f, .resliceCancel f, .resliceMove f, .statusQuery f,
      .statusReply f] ∧ s.portsUp = true ∧ (s.at_ f.time).takesFrame f = true ∧ (f.eiErr = true ∨ f.crc ≠ frameCrc f)) ∧
    (∃ (s : State) (f : Rx) (flt : ReadFault) (c : Instr), c ∈ [.heartbeat f, .fence f, .discover f, .discoverReply f,
      .membershipQuerySync f, .membershipQueryWitness f, .membershipQueryAnswer f, .membershipQueryReport f,
      .membershipUpdate f, .skimDelta f flt, .skimAck f, .epochMark f, .commitPrep f, .commitVote f, .commitDecide f,
      .stepAbortRequest f, .stepAbortDecision f, .intake f, .badgerReq f flt, .badgerReqDigestOnly f, .badgerPart f,
      .render f, .digestXRebuild f, .completionRecord f, .handoverOffer f, .handoverTaken f, .handoverRefused f,
      .auditReq f flt, .auditPart f, .auditCorrection f, .auditRelease f, .digestXLockstep f, .resliceCount f,
      .resliceDone f, .resliceResend f, .resliceSealed f, .resliceCancel f, .resliceMove f, .statusQuery f,
      .statusReply f] ∧ f.crc = frameCrc f ∧ s.portsUp = true ∧ (s.at_ f.time).takesFrame f = true ∧ f.eiErr = false ∧
      f.ver ≠ 3) :=
  ⟨⟨State.reset, rx 0x20 0, .none, .heartbeat (rx 0x20 0), List.mem_cons_self, by decide +kernel⟩,
   ⟨withFlt (fun f => { f with inReset := [.endpoint] }), rx 0x20 0, .none, .heartbeat (rx 0x20 0), List.mem_cons_self,
     by decide +kernel⟩,
   ⟨demo, { rx 0x20 0 with eiErr := true }, .none, .heartbeat ({ rx 0x20 0 with eiErr := true }), List.mem_cons_self,
     by decide +kernel⟩,
   ⟨demo, sealed { rx 0x20 0 with ver := 2 }, .none, .heartbeat (sealed { rx 0x20 0 with ver := 2 }),
     List.mem_cons_self, sealed_crc _, by decide +kernel⟩⟩

/-- States that meet the hypotheses of `EventIsRecorded`, a clause at a time. -/
theorem witness_EventIsRecorded :
    ∃ (s : State) (e : Ev), s.levelFor e = 1 ∧ e.ru = none ∧ e.core = false ∧ e.code ≠ 0x18 ∧ s.historyOk = true :=
  ⟨demo, { code := 0x41 }, by decide +kernel⟩

/-- States that meet the hypotheses of `ProductIsAccumulated`, a clause at a time. -/
theorem witness_ProductIsAccumulated :
    (∃ (s : State) (k e o : Nat) (bytes : List Byte) (x : Nat), let d := ((s.slot k).sett); let r := (s.parityRec d e);
      let a := (s.parityAddr d e (!r.c)); let w := (s.dirAddr (s.parityAddr d e false)); s.memWf = true ∧ o +
      bytes.length ≤ 4096 ∧ a + 4096 ≤ Config.stackBytes ∧ s.dgAddr a + 8 ≤ Config.stackBytes ∧ w + 4 ≤
      Config.stackBytes ∧ (s.dgAddr a + 8 ≤ a ∨ a + 4096 ≤ s.dgAddr a) ∧ (w + 4 ≤ a ∨ a + 4096 ≤ w) ∧ (w + 4 ≤ s.dgAddr
      a ∨ s.dgAddr a + 8 ≤ w) ∧ r.n = true ∧ s.recCurrent r = true ∧ (x < a + o ∨ a + o + bytes.length ≤ x) ∧ (x <
      s.dgAddr a ∨ s.dgAddr a + 8 ≤ x)) ∧
    (∃ (s : State) (k e o : Nat) (bytes : List Byte) (x : Nat), let d := ((s.slot k).sett); let r := (s.parityRec d e);
      let a := (s.parityAddr d e (!r.c)); let b := (s.parityAddr d e r.c);
      let w := (s.dirAddr (s.parityAddr d e false)); s.digestOk b = true ∧ s.memWf = true ∧ o + bytes.length ≤ 4096 ∧ a
      + 4096 ≤ Config.stackBytes ∧ s.dgAddr a + 8 ≤ Config.stackBytes ∧ w + 4 ≤ Config.stackBytes ∧ (s.dgAddr a + 8 ≤ a
      ∨ a + 4096 ≤ s.dgAddr a) ∧ (w + 4 ≤ a ∨ a + 4096 ≤ w) ∧ (w + 4 ≤ s.dgAddr a ∨ s.dgAddr a + 8 ≤ w) ∧ r.n = false ∧
      e ∉ (s.slot k).missing ∧ (x < a ∨ a + 4096 ≤ x) ∧ (x < s.dgAddr a ∨ s.dgAddr a + 8 ≤ x) ∧ (x < w ∨ w + 4 ≤ x)) :=
  ⟨⟨withParity { ctx := 0, v := false, priv := true, c := false, n := true, d := false, att := 1 }, 0, 0, 8, [1, 2],
      0, by decide +kernel⟩,
   ⟨withParity { ctx := 0, v := false, priv := true, c := false, n := false, d := false, att := 1 }, 0, 0, 8, [1, 2],
     0, zero_digestOk (by decide +kernel), by decide +kernel⟩⟩
end

/-! # Every command goes on

What each command's meaning keeps (`Kept`, Laws/Kept.lean) read through the dispatch: the command answers a next state, and
the queue behind it stays. -/

namespace Sys2Proof.Machine

/-- An outcome that keeps is a next state. -/
theorem KeptO.exists_next {s : State} {o : Out} (h : KeptO s o) : ∃ t, o = .next t ∧ Kept s t := by
  cases o with
  | next t => exact ⟨t, rfl, h⟩
  | fault _ => exact h.elim
  | refused _ => exact h.elim

/-- The outcome of a command that keeps is the state it settles to. -/
theorem KeptO.next_settled {s0 s : State} {o : Out} (h : KeptO s0 o) : .next (settled o s) = o := by
  obtain ⟨t, rfl, -⟩ := h.exists_next
  rfl

/-- Whatever the command, its outcome is a next state that keeps the queue, the canonical form of the memories and the
bound of the history: an arm of the dispatch at a time. -/
theorem exec_kept (c : Instr) (s : State) : KeptO s (exec c s) :=
  match c with
  | .mlResetAssert => execMlResetAssert_kept (.refl s)
  | .mlResetRelease _ _ _ _ _ => execMlResetRelease_kept (.refl s)
  | .powerRailLoss r => execPowerRailLoss_kept (_r := r) (.refl s)
  | .testAccessOpen => execTestAccessOpen_kept (.refl s)
  | .testEnIgnored => execTestEnIgnored_kept (.refl s)
  | .flashCopyLoaded _ => execFlashCopyLoaded_kept (.refl s)
  | .distributionAnswer _ _ => execDistributionAnswer_kept (.refl s)
  | .distributionTimeout _ => execDistributionTimeout_kept (.refl s)
  | .lathConfigTimeout => execLathConfigTimeout_kept (.refl s)
  | .feedBegin _ => execFeedBegin_kept (.refl s)
  | .cfFeed _ _ => execCfFeed_kept (.refl s)
  | .feedEnd _ _ => execFeedEnd_kept (.refl s)
  | .cfStage _ _ _ => execCfStage_kept (.refl s)
  | .cfArm _ => execCfArm_kept (.refl s)
  | .cfDisarm _ => execCfDisarm_kept (.refl s)
  | .cfDiscard _ => execCfDiscard_kept (.refl s)
  | .configSwitch => execConfigSwitch_kept (.refl s)
  | .switchWaitExpiry => execSwitchWaitExpiry_kept (.refl s)
  | .timeCounterStall => execTimeCounterStall_kept (.refl s)
  | .timeSampleInvalid _ => execTimeSampleInvalid_kept (.refl s)
  | .timeAdvanceHold _ => execTimeAdvanceHold_kept (.refl s)
  | .marginClassChange _ _ => execMarginClassChange_kept (.refl s)
  | .monitorNormalHold _ => execMonitorNormalHold_kept (.refl s)
  | .hostMemoryRead _ _ => execHostMemoryRead_kept (.refl s)
  | .hostMemoryWrite _ _ => execHostMemoryWrite_kept (.refl s)
  | .hostMemoryAtomic _ _ => execHostMemoryAtomic_kept (.refl s)
  | .memoryResponse _ => execMemoryResponse_kept (.refl s)
  | .directWriteComplete _ => execDirectWriteComplete_kept (.refl s)
  | .foldWalkerPass => execFoldWalkerPass_kept (.refl s)
  | .frameInject _ => execFrameInject_kept (.refl s)
  | .htLevelChange _ _ => execHtLevelChange_kept (.refl s)
  | .groupSetupWrite _ => execGroupSetupWrite_kept (.refl s)
  | .groupSetupResend _ => execGroupSetupResend_kept (.refl s)
  | .groupSetupRetry _ => execGroupSetupRetry_kept (.refl s)
  | .groupConfirm _ => execGroupConfirm_kept (.refl s)
  | .skimRetransmitTimeout _ _ _ => execSkimRetransmitTimeout_kept (.refl s)
  | .routeReq _ => execRouteReq_kept (.refl s)
  | .routeResume _ => execRouteResume_kept (.refl s)
  | .routeDrained => execRouteDrained_kept (.refl s)
  | .routeDrainTimeout => execRouteDrainTimeout_kept (.refl s)
  | .resumeWaitExpiry => execResumeWaitExpiry_kept (.refl s)
  | .skimDelta _ _ => execSkimDelta_kept (.refl s)
  | .skimAck _ => execSkimAck_kept (.refl s)
  | .epochMark _ => execEpochMark_kept (.refl s)
  | .commitPrep _ => execCommitPrep_kept (.refl s)
  | .commitVote _ => execCommitVote_kept (.refl s)
  | .commitDecide _ => execCommitDecide_kept (.refl s)
  | .stepAbortDecision _ => execStepAbortDecision_kept (.refl s)
  | .stepAbortRequest _ => execStepAbortRequest_kept (.refl s)
  | .heartbeat _ => execHeartbeat_kept (.refl s)
  | .fence _ => execFence_kept (.refl s)
  | .intake _ => execIntake_kept (.refl s)
  | .badgerReq _ _ => execBadgerReq_kept (.refl s)
  | .badgerReqDigestOnly _ => execBadgerReqDigestOnly_kept (.refl s)
  | .badgerPart _ => execBadgerPart_kept (.refl s)
  | .auditReq _ _ => execAuditReq_kept (.refl s)
  | .auditPart _ => execAuditPart_kept (.refl s)
  | .auditCorrection _ => execAuditCorrection_kept (.refl s)
  | .auditRelease _ => execAuditRelease_kept (.refl s)
  | .digestXLockstep _ => execDigestXLockstep_kept (.refl s)
  | .digestXRebuild _ => execDigestXRebuild_kept (.refl s)
  | .completionRecord _ => execCompletionRecord_kept (.refl s)
  | .resliceCount _ => execResliceCount_kept (.refl s)
  | .resliceDone _ => execResliceDone_kept (.refl s)
  | .resliceResend _ => execResliceResend_kept (.refl s)
  | .resliceSealed _ => execResliceSealed_kept (.refl s)
  | .resliceCancel _ => execResliceCancel_kept (.refl s)
  | .resliceMove _ => execResliceMove_kept (.refl s)
  | .render _ => execRender_kept (.refl s)
  | .renderRequest _ => execRenderRequest_kept (.refl s)
  | .discover _ => execDiscover_kept (.refl s)
  | .discoverReply _ => execDiscoverReply_kept (.refl s)
  | .membershipQuerySync _ => execMembershipQuerySync_kept (.refl s)
  | .membershipQueryWitness _ => execMembershipQueryWitness_kept (.refl s)
  | .membershipQueryAnswer _ => execMembershipQueryAnswer_kept (.refl s)
  | .membershipQueryReport _ => execMembershipQueryReport_kept (.refl s)
  | .membershipUpdate _ => execMembershipUpdate_kept (.refl s)
  | .handoverOffer _ => execHandoverOffer_kept (.refl s)
  | .handoverTaken _ => execHandoverTaken_kept (.refl s)
  | .handoverRefused _ => execHandoverRefused_kept (.refl s)
  | .statusQuery _ => execStatusQuery_kept (.refl s)
  | .statusReply _ => execStatusReply_kept (.refl s)
  | .ctxRead _ => execCtxRead_kept (.refl s)
  | .install _ => execInstall_kept (.refl s)
  | .modify _ => execModify_kept (.refl s)
  | .retire _ => execRetire_kept (.refl s)
  | .find _ => execFind_kept (.refl s)
  | .handoverOut _ => execHandoverOut_kept (.refl s)
  | .handoverOfferRepeat _ => execHandoverOfferRepeat_kept (.refl s)
  | .primerComplete _ => execPrimerComplete_kept (.refl s)
  | .intakeWindowWrite _ => execIntakeWindowWrite_kept (.refl s)
  | .chunkAllocate _ _ => execChunkAllocate_kept (.refl s)
  | .intakeReopen _ => execIntakeReopen_kept (.refl s)
  | .attemptOpen _ => execAttemptOpen_kept (.refl s)
  | .sweepSectionRun _ _ => execSweepSectionRun_kept (.refl s)
  | .sweepStrip _ _ => execSweepStrip_kept (.refl s)
  | .sweepPanelWritten _ => execSweepPanelWritten_kept (.refl s)
  | .retiringPanelZero _ => execRetiringPanelZero_kept (.refl s)
  | .ibLoad _ _ _ => execIbLoad_kept (.refl s)
  | .ibLoadComplete => execIbLoadComplete_kept (.refl s)
  | .ibArm _ _ => execIbArm_kept (.refl s)
  | .ibDisarm _ => execIbDisarm_kept (.refl s)
  | .skimDeltaSend _ => execSkimDeltaSend_kept (.refl s)
  | .epochMarkSend _ => execEpochMarkSend_kept (.refl s)
  | .skimAckSend _ _ => execSkimAckSend_kept (.refl s)
  | .voteReady _ _ => execVoteReady_kept (.refl s)
  | .voteRepeatExpiry _ _ => execVoteRepeatExpiry_kept (.refl s)
  | .abortWaitExpiry _ => execAbortWaitExpiry_kept (.refl s)
  | .ecAbort _ _ => execEcAbort_kept (.refl s)
  | .heartbeatSend _ _ => execHeartbeatSend_kept (.refl s)
  | .suspicionDeadline _ => execSuspicionDeadline_kept (.refl s)
  | .confirmWaitExpiry _ => execConfirmWaitExpiry_kept (.refl s)
  | .discoverSend _ => execDiscoverSend_kept (.refl s)
  | .discWaitExpiry _ => execDiscWaitExpiry_kept (.refl s)
  | .fabricManagerReport _ _ _ _ => execFabricManagerReport_kept (.refl s)
  | .evict _ _ _ => execEvict_kept (.refl s)
  | .membershipUpdateIssue _ _ => execMembershipUpdateIssue_kept (.refl s)
  | .badgerStart _ => execBadgerStart_kept (.refl s)
  | .badgerRunRequest _ => execBadgerRunRequest_kept (.refl s)
  | .badgerRtoTarget _ _ => execBadgerRtoTarget_kept (.refl s)
  | .badgerRtoHelper _ => execBadgerRtoHelper_kept (.refl s)
  | .completionRecordRepeat _ _ => execCompletionRecordRepeat_kept (.refl s)
  | .bgRetry _ _ => execBgRetry_kept (.refl s)
  | .rsSeal _ => execRsSeal_kept (.refl s)
  | .rsArm _ => execRsArm_kept (.refl s)
  | .rsDisarm _ => execRsDisarm_kept (.refl s)
  | .teardown _ => execTeardown_kept (.refl s)
  | .teardownComplete _ => execTeardownComplete_kept (.refl s)
  | .export_ _ => execExport_kept (.refl s)
  | .exportComplete _ => execExportComplete_kept (.refl s)
  | .moveRtoExpiry _ _ => execMoveRtoExpiry_kept (.refl s)
  | .tagQuietExpiry _ => execTagQuietExpiry_kept (.refl s)
  | .auditStart _ _ => execAuditStart_kept (.refl s)
  | .auditStop _ => execAuditStop_kept (.refl s)
  | .auditRunRequest => execAuditRunRequest_kept (.refl s)
  | .lockstepSend _ => execLockstepSend_kept (.refl s)
  | .stateRootComplete _ => execStateRootComplete_kept (.refl s)
  | .fltDust _ => execFltDust_kept (.refl s)
  | .dustDrainComplete _ _ => execDustDrainComplete_kept (.refl s)
  | .crashCaptureComplete => execCrashCaptureComplete_kept (.refl s)
  | .fltLift _ => execFltLift_kept (.refl s)
  | .fltReturn _ => execFltReturn_kept (.refl s)
  | .resetLaneGroup _ _ => execResetLaneGroup_kept (.refl s)
  | .resetGfEngine _ _ _ => execResetGfEngine_kept (.refl s)
  | .resetEndpoint _ => execResetEndpoint_kept (.refl s)
  | .resetBadger _ => execResetBadger_kept (.refl s)
  | .resetInstance _ => execResetInstance_kept (.refl s)
  | .watchdogExpiry _ => execWatchdogExpiry_kept (.refl s)
  | .unitResetComplete _ => execUnitResetComplete_kept (.refl s)
  | .instanceResetComplete _ => execInstanceResetComplete_kept (.refl s)
  | .fltSummaryClear _ _ => execFltSummaryClear_kept (.refl s)
  | .cdCapture _ _ _ => execCdCapture_kept (.refl s)
  | .cdRelease _ _ _ => execCdRelease_kept (.refl s)
  | .fltQuery _ _ _ => execFltQuery_kept (.refl s)
  | .scrubPass _ => execScrubPass_kept (.refl s)
  | .statusMirrorWrite _ => execStatusMirrorWrite_kept (.refl s)
  | .lathTransfer _ => execLathTransfer_kept (.refl s)
  | .lathRingWalk _ => execLathRingWalk_kept (.refl s)
  | .registerWrite _ => execRegisterWrite_kept (.refl s)
  | .rcRead _ => execRcRead_kept (.refl s)
  | .railRestore => execRailRestore_kept (.refl s)
  | .testEnFall => execTestEnFall_kept (.refl s)
  | .activityRampAdmit => execActivityRampAdmit_kept (.refl s)
  | .resliceCountPoll _ _ => execResliceCountPoll_kept (.refl s)
  | .auditRunTimeout _ => execAuditRunTimeout_kept (.refl s)

/-- Settles O54: the next state that `exec_kept` gives has the queue it began with. -/
theorem everyCommandGoesOn : Obligations.EveryCommandGoesOn := by
  intro c s
  obtain ⟨t, ht, hkept⟩ := (exec_kept c s).exists_next
  exact ⟨t, ht, hkept.queue⟩

end Sys2Proof.Machine

/-! # The register window

What RC_READ and REGISTER_WRITE do (Machine/RegWrite.lean), a lemma per form of the access and per block of the window. -/

namespace Sys2Proof.Machine

/-! ## RC_READ -/

theorem exec_rcRead (q : NqReq) (s : State) : exec (.rcRead q) s = execRcRead q s := rfl

theorem exec_rcRead_portsDown {s : State} {q : NqReq} (h : s.portsUp = false) : exec (.rcRead q) s = .next s := by
  simp [exec_rcRead, execRcRead, h]

theorem exec_rcRead_malformed {s : State} {q : NqReq} (hp : s.portsUp = true) (hf : winFormed q 0 = false) :
    exec (.rcRead q) s = .next (s.refuse q.id (winOffset q)) := by
  simp [exec_rcRead, execRcRead, hp, hf]

theorem exec_rcRead_refuses {s : State} {q : NqReq} (hp : s.portsUp = true) {p : Nat × Nat} (hmem : p ∈ winWords q)
    (hbad : ¬ ((s.regWord p.2).isSome = true ∧ s.mayRead q.tag p.2 = true)) :
    exec (.rcRead q) s = .next (s.refuse q.id (winOffset q)) := by
  have hany : (winWords q).any (fun p => (s.regWord p.2).isNone || !s.mayRead q.tag p.2) = true := by
    refine List.any_eq_true.2 ⟨p, hmem, ?_⟩
    simpa [imp_iff_not_or] using hbad
  simp [exec_rcRead, execRcRead, hp, hany]

theorem exec_rcRead_answers {s : State} {q : NqReq} (hp : s.portsUp = true) (hf : winFormed q 0 = true)
    (hgood : ∀ p ∈ winWords q, (s.regWord p.2).isSome = true ∧ s.mayRead q.tag p.2 = true) :
    exec (.rcRead q) s = .next ((winWords q).foldl (fun s p => s.readClears p.2) (s.respond q.id .ok 0 (BitVec.ofNat 512
      ((winWords q).map fun p => ((s.regWord p.2).getD 0) % 2 ^ 64 * 2 ^ (64 * p.1)).sum))) := by
  have hany : (winWords q).any (fun p => (s.regWord p.2).isNone || !s.mayRead q.tag p.2) = false := by
    refine List.any_eq_false.2 fun p hmem => ?_
    obtain ⟨hreg, hopen⟩ := hgood p hmem
    simp [hopen, Option.isSome_iff_ne_none.1 hreg]
  simp [exec_rcRead, execRcRead, hp, hf, hany]

/-- A read of one register open to its tag. -/
theorem exec_rcRead_single {s : State} {q : NqReq} {j off w : Nat} (hp : s.portsUp = true) (hf : winFormed q 0 = true)
    (hw : winWords q = [(j, off)]) (hreg : s.regWord off = some w) (hopen : s.mayRead q.tag off = true) :
    exec (.rcRead q) s =
      .next ((s.respond q.id .ok 0 (BitVec.ofNat 512 (w % 2 ^ 64 * 2 ^ (64 * j)))).readClears off) := by
  have hgood : ∀ p ∈ winWords q, (s.regWord p.2).isSome = true ∧ s.mayRead q.tag p.2 = true := by simp [hw, hreg, hopen]
  rw [exec_rcRead_answers hp hf hgood]
  simp [hw, hreg]

/-! ## What a read leaves -/

theorem State.unvoted_respond (s : State) (id : BitVec 10) (st : NsStatus) (c : BitVec 4) (d : Line) (off : Nat) :
    (s.respond id st c d).unvoted off = s.unvoted off := rfl

theorem State.readClears_mirror {s : State} {off : Nat} (h1 : 0x400 ≤ off) (h2 : off < 0x1000) :
    s.readClears off = if s.unvoted off then s.raise { code := 0x08, core := true, detail := off } else s := by
  simp [State.readClears, h1, h2]

/-- The registers of the window outside the mirror, the history entry shown and the crash area whose reading has an effect:
the maxima and the counts that clear on read. -/
def clearOnRead : List Nat := [0x1108, 0x1828, 0x2050, 0x5418, 0x5440, 0x5840, 0x6810, 0x78F8]

theorem State.readClears_plain {s : State} {off : Nat} (hmirror : ¬ (0x400 ≤ off ∧ off < 0x1000)) (hcrash : off < 0x8000)
    (hentry : ¬ (0x1840 ≤ off ∧ off < 0x1860)) (hclear : off ∉ clearOnRead) : s.readClears off = s := by
  have hcrash' : ¬ 0x8000 ≤ off := by omega
  unfold State.readClears
  rw [if_neg hmirror, if_neg hcrash', if_neg hentry]
  split
  case h_9 => rfl
  all_goals exact absurd (by decide) hclear

theorem State.readClears_identity {s : State} {off : Nat} (h : off < 0x400) : s.readClears off = s := by
  refine s.readClears_plain (by omega) (by omega) (by omega) fun hmem => ?_
  have hlow : ∀ o ∈ clearOnRead, 0x400 ≤ o := by decide
  exact absurd h (Nat.not_lt.2 (hlow off hmem))

/-! ## REGISTER_WRITE -/

theorem exec_registerWrite (q : NqReq) (s : State) : exec (.registerWrite q) s = execRegisterWrite q s := rfl

theorem exec_registerWrite_portsDown {s : State} {q : NqReq} (h : s.portsUp = false) : exec (.registerWrite q) s = .next s := by
  simp [exec_registerWrite, execRegisterWrite, h]

theorem exec_registerWrite_malformed {s : State} {q : NqReq} (hp : s.portsUp = true) (hf : winFormed q 1 = false) :
    exec (.registerWrite q) s = .next (s.refuse q.id (winOffset q)) := by
  simp [exec_registerWrite, execRegisterWrite, hp, hf]

theorem exec_registerWrite_formed {s : State} {q : NqReq} (hp : s.portsUp = true) (hf : winFormed q 1 = true) :
    exec (.registerWrite q) s = .next (s.writeWords q { tag := q.tag, id := q.id } (winWords q)) := by
  simp [exec_registerWrite, execRegisterWrite, hp, hf]

/-- A write of one register is that register's write. -/
theorem exec_registerWrite_single {s : State} {q : NqReq} {j off : Nat} (hp : s.portsUp = true) (hf : winFormed q 1 = true)
    (hw : winWords q = [(j, off)]) :
    exec (.registerWrite q) s =
      .next (s.writeWord { tag := q.tag, id := q.id } off (q.data.extractLsb' (64 * j) 64)) := by
  rw [exec_registerWrite_formed hp hf, hw]
  rfl

/-- The words a write writes, one after the other, each answered on its own. -/
def State.writeEach (s : State) (q : NqReq) (a : Acc) (ws : List (Nat × Nat)) : State :=
  ws.foldl (fun t p => t.writeWord a p.2 (q.data.extractLsb' (64 * p.1) 64)) s

/-- The answers under an identifier that `t` holds behind those of `s`. -/
def State.ownAnswers (s t : State) (id : BitVec 10) : List NsResp :=
  (t.gate.ns.drop s.gate.ns.length).filter fun r => r.id == id

/-- `t` with its answers under an identifier behind those of `s` given as one. -/
def State.answeredOnce (s t : State) (id : BitVec 10) : State :=
  { t with gate := { t.gate with ns := t.gate.ns.take s.gate.ns.length ++ (s.ownAnswers t id).take 1 ++
    (t.gate.ns.drop s.gate.ns.length).filter fun r => r.id != id } }

/-- Several words are refused together where one of them is, and else answered once. -/
theorem State.writeWords_several {s : State} {q : NqReq} {a : Acc} {ws : List (Nat × Nat)} (h : 2 ≤ ws.length) :
    s.writeWords q a ws =
      if (s.ownAnswers (s.writeEach q a ws) q.id).any fun r => r.status != .ok then s.refuse q.id (winOffset q)
      else s.answeredOnce (s.writeEach q a ws) q.id := by
  match ws, h with
  | _ :: _ :: _, _ => rfl

theorem exec_registerWrite_severalRefused {s : State} {q : NqReq} (hp : s.portsUp = true) (hf : winFormed q 1 = true)
    (hlen : 2 ≤ (winWords q).length)
    (hbad : ∃ r ∈ s.ownAnswers (s.writeEach q { tag := q.tag, id := q.id } (winWords q)) q.id, r.status ≠ .ok) :
    exec (.registerWrite q) s = .next (s.refuse q.id (winOffset q)) := by
  rw [exec_registerWrite_formed hp hf, State.writeWords_several hlen, if_pos (by simpa using hbad)]

theorem exec_registerWrite_severalTaken {s : State} {q : NqReq} (hp : s.portsUp = true) (hf : winFormed q 1 = true)
    (hlen : 2 ≤ (winWords q).length)
    (hok : ∀ r ∈ s.ownAnswers (s.writeEach q { tag := q.tag, id := q.id } (winWords q)) q.id, r.status = .ok) :
    exec (.registerWrite q) s =
      .next (s.answeredOnce (s.writeEach q { tag := q.tag, id := q.id } (winWords q)) q.id) := by
  rw [exec_registerWrite_formed hp hf, State.writeWords_several hlen, if_neg (by simpa using hok)]

/-! ## A write of one word -/

section
variable {s : State} {a : Acc} {off : Nat} {w : Word}

theorem State.writeWord_shut (h : s.writeOpen off w = false ∨ s.regWord off = none) :
    s.writeWord a off w = s.refuse a.id off := by
  rcases h with h | h
  · simp [State.writeWord, h]
  · simp [State.writeWord, h]

variable (hopen : s.writeOpen off w = true) (hreg : (s.regWord off).isSome = true)
include hopen hreg

/-- A write that the state lets through at a register reaches the block its offset lies in. -/
theorem State.writeWord_reaches : s.writeWord a off w =
    if off < 0x1000 then s.ignored a off
    else if off < 0x1800 then s.writeControl a off w
    else if off < 0x2000 then s.writeFault a off w
    else if off < 0x2800 then s.writeFox a off w
    else if off < 0x3000 then s.writeCommit a off w
    else if off < 0x3800 then s.writeEngine a off w
    else if off < 0x4000 then s.writeBanks a off w
    else if off < 0x5000 then s.writeWindow a off w
    else if off < 0x5400 then s.writeEndpoint a off w
    else if off < 0x5800 then s.writeSkim a off w
    else if off < 0x5A00 then s.writeBadger a off w
    else if off < 0x6000 then s.writeReslice a off w
    else if off < 0x6800 then s.writeAudit a off w
    else if off = 0x6810 then s.ok a.id
    else if off < 0x7000 then s.ignored a off
    else if off < 0x7800 then s.writeLoader a off w
    else s.ignored a off := by
  have hsome : (s.regWord off).isNone = false := by simpa using hreg
  simp only [State.writeWord, hopen, hsome, Bool.not_true, Bool.false_eq_true, if_false]

/-- The record and the mirror, the lath block and the counters with the crash area hold nothing a write changes. -/
theorem State.writeWord_readOnly (h : off < 0x1000 ∨ 0x6800 ≤ off ∧ off < 0x7000 ∧ off ≠ 0x6810 ∨ 0x7800 ≤ off) :
    s.writeWord a off w = s.ignored a off := by
  rw [State.writeWord_reaches hopen hreg]
  rcases h with h | ⟨h1, h2, h3⟩ | h
  · rw [if_pos h]
  · simp (disch := omega) only [if_neg, if_pos]
  · simp (disch := omega) only [if_neg]

end

/-- The count of the lath's repeats clears as it is read: a write of it changes nothing and raises no event. -/
theorem State.writeWord_lathRetry {s : State} {a : Acc} {w : Word} (hopen : s.writeOpen 0x6810 w = true)
    (hreg : (s.regWord 0x6810).isSome = true) : s.writeWord a 0x6810 w = s.ok a.id := by
  rw [State.writeWord_reaches hopen hreg]
  rfl

/-! ## The loader's commands -/

theorem State.regWord_command (s : State) : (s.regWord 0x7008).isSome = true := by
  simp [State.regWord, State.loaderWords, wordAt]

theorem State.writeWord_command {s : State} {a : Acc} {w : Word} (hopen : s.writeOpen 0x7008 w = true) :
    s.writeWord a 0x7008 w = s.writeLoader a 0x7008 w :=
  State.writeWord_reaches hopen s.regWord_command

theorem fld_low (w : Word) (n : Nat) : fld w 0 n = w.toNat % 2 ^ n := by
  simp [fld, bitsOf]

/-- ARM, DISARM and DISCARD written as a register are the commands. -/
theorem State.writeLoader_command {s : State} {a : Acc} {w : Word} :
    (w.toNat % 16 = 2 → .next (s.writeLoader a 0x7008 w) = execCfArm a s) ∧
    (w.toNat % 16 = 3 → .next (s.writeLoader a 0x7008 w) = execCfDisarm a s) ∧
    (w.toNat % 16 = 4 → .next (s.writeLoader a 0x7008 w) = execCfDiscard a s) := by
  have hop : fld w 0 4 = w.toNat % 16 := fld_low w 4
  refine ⟨fun h => ?_, fun h => ?_, fun h => ?_⟩
  · rw [← (execCfArm_kept (.refl s)).next_settled (s := s)]
    simp [State.writeLoader, hop, h]
  · rw [← (execCfDisarm_kept (.refl s)).next_settled (s := s)]
    simp [State.writeLoader, hop, h]
  · rw [← (execCfDiscard_kept (.refl s)).next_settled (s := s)]
    simp [State.writeLoader, hop, h]

/-! ## The tenant selector -/

theorem State.regWord_selector (s : State) : (s.regWord 0x3010).isSome = true := by
  simp [State.regWord, State.engineWords, wordAt]

theorem State.writeWord_selector {s : State} {a : Acc} {w : Word} (hopen : s.writeOpen 0x3010 w = true) :
    s.writeWord a 0x3010 w = { s.ok a.id with regs := { s.regs with tsel := BitVec.ofNat 6 (fld w 0 6) } } :=
  State.writeWord_reaches hopen s.regWord_selector

theorem State.writeOpen_configured {s : State} {off : Nat} {w : Word} (hc : s.configured = true)
    (hm : s.flt.mode ≠ .resetting) : s.writeOpen off w = true := by
  simp [State.writeOpen, State.windowOpen, hc, hm]

/-- The low field of a lane is that field of the line. -/
theorem fld_lane (d : Line) (j n : Nat) (h : n ≤ 64) :
    BitVec.ofNat n (fld (d.extractLsb' (64 * j) 64) 0 n) = d.extractLsb' (64 * j) n := by
  apply BitVec.eq_of_toNat_eq
  have hdvd : 2 ^ n ∣ 2 ^ 64 := Nat.pow_dvd_pow 2 h
  simp only [fld_low, BitVec.toNat_ofNat, BitVec.extractLsb'_toNat, Nat.mod_mod, Nat.mod_mod_of_dvd _ hdvd]

theorem exec_registerWrite_selector {s : State} {q : NqReq} {j : Nat} (hp : s.portsUp = true) (hf : winFormed q 1 = true)
    (hw : winWords q = [(j, 0x3010)]) (hc : s.configured = true) (hm : s.flt.mode ≠ .resetting) :
    exec (.registerWrite q) s =
      .next { s.ok q.id with regs := { s.regs with tsel := q.data.extractLsb' (64 * j) 6 } } := by
  rw [exec_registerWrite_single hp hf hw, State.writeWord_selector (State.writeOpen_configured hc hm),
    fld_lane q.data j 6 (by decide)]

/-! ## The statement -/

/-- Settles O50: a clause of the statement at a time, each by the lemma on that form of the access. -/
theorem registerRowsComplete : Obligations.RegisterRowsComplete := by
  refine ⟨fun s q hp => ⟨exec_rcRead_portsDown hp, exec_registerWrite_portsDown hp⟩,
    fun s q hp => ⟨exec_rcRead_malformed hp, exec_registerWrite_malformed hp⟩,
    fun s q hp hf => ⟨fun ⟨p, hmem, hbad⟩ => exec_rcRead_refuses hp hmem hbad, exec_rcRead_answers hp hf⟩, ?_, ?_,
    fun s q j => exec_registerWrite_selector,
    fun s q hp hf hlen => ⟨exec_registerWrite_severalRefused hp hf hlen, exec_registerWrite_severalTaken hp hf hlen⟩⟩
  · intro s q j off w hp hf hw hreg hopen
    refine ⟨_, exec_rcRead_single hp hf hw hreg hopen, rfl, rfl, State.readClears_identity, ?_, ?_,
      fun h1 h2 hentry hclear => State.readClears_plain (by omega) h2 hentry hclear, ?_, ?_, ?_, ?_, ?_⟩
    · intro h1 h2 hvote
      rw [State.readClears_mirror h1 h2, State.unvoted_respond, hvote, if_neg Bool.false_ne_true]
    · intro h1 h2 hvote
      rw [State.readClears_mirror h1 h2, State.unvoted_respond, hvote, if_pos rfl]
    all_goals
      rintro rfl
      rfl
  · intro s q j off hp hf hw
    have hwrite := exec_registerWrite_single hp hf hw
    refine ⟨hwrite, State.writeWord_shut, fun hopen hreg => ⟨?_, ?_, ?_, ?_⟩, ?_⟩
    · exact fun h => State.writeWord_readOnly hopen hreg (.inl h)
    · rintro rfl
      exact State.writeWord_lathRetry hopen hreg
    · exact fun h1 h2 h3 => State.writeWord_readOnly hopen hreg (.inr (.inl ⟨h1, h2, h3⟩))
    · exact fun h => State.writeWord_readOnly hopen hreg (.inr (.inr h))
    · rintro rfl hopen
      rw [hwrite, State.writeWord_command hopen]
      exact State.writeLoader_command

end Sys2Proof.Machine

/-! # The queue

What a step does by the state of the queue (Machine/Step.lean), and the block's own work right after reset. -/

namespace Sys2Proof.Machine

theorem step_cons {s : State} {c : Instr} {rest : List Instr} (h : s.pending = c :: rest) :
    step s = exec c { s with pending := rest } := by
  simp only [step, h]

theorem step_nil {s : State} (h : s.pending = []) : step s = .next s.settle := by
  simp only [step, h]

theorem State.settle_unconfigured {s : State} (h : s.configured = false) : s.settle = s := by
  simp [State.settle, h]

/-- Settles O1: the queue is not empty, so the step is its front command's. -/
theorem stepRunsFrontCommand : Obligations.StepRunsFrontCommand :=
  fun _ _ _ hq => step_cons hq

/-- Settles O2: a block that is not configured, as it is right after reset, has no work of its own. -/
theorem emptyQueueSettles : Obligations.EmptyQueueSettles := by
  have hconf : State.reset.configured = false := rfl
  have hstep : step State.reset = .next State.reset.settle := step_nil rfl
  rw [State.settle_unconfigured hconf] at hstep
  exact ⟨fun _ => step_nil, rfl, hstep⟩

end Sys2Proof.Machine

/-! # The time source and the margin monitors

What the rows of the sampled time (R28, R30) and of the replicas (R33, R379) do (Machine/Power.lean), a lemma per outcome. -/

namespace Sys2Proof.Machine

/-! ## Samples -/

/-- Above the last sample the distance of the two words is that of their values. -/
theorem State.sampleBad_iff {s : State} {x : BitVec 64} : s.sampleBad x = true ↔
    s.time.sampled = true ∧ (x < s.time.now ∨ 1000000 < x.toNat - s.time.now.toNat) := by
  by_cases hlt : x < s.time.now
  · simp [State.sampleBad, hlt]
  · have hle : s.time.now ≤ x := BitVec.not_lt.1 hlt
    simp [State.sampleBad, hlt, BitVec.toNat_sub_of_le hle]

/-- The sampled time with a sample taken; the first one begins the run of good samples. -/
def TimeS.take (t : TimeS) (x : BitVec 64) : TimeS :=
  { t with now := x, sampled := true, since := if t.sampled then t.since else x }

theorem State.takeSample_good {s : State} {x : BitVec 64} (h : ¬ s.sampleBad x = true) :
    s.takeSample x = { s with time := s.time.take x } := by
  rw [State.takeSample, if_neg h]
  rfl

theorem State.takeSample_bad {s : State} {x : BitVec 64} (h : s.sampleBad x = true) :
    s.takeSample x = State.timeFault { s with time := s.time.take x } := by
  rw [State.takeSample, if_pos h]
  rfl

/-! ## The rows of the time source -/

theorem exec_timeCounterStall_released {s : State} (h : s.power.released = true) :
    exec .timeCounterStall s = .next s.timeFault :=
  congrArg Host.Outcome.next (if_pos h)

theorem exec_timeSampleInvalid_released {s : State} {x : BitVec 64} (h : s.power.released = true) :
    exec (.timeSampleInvalid x) s = .next (s.takeSample x) :=
  congrArg Host.Outcome.next (if_pos h)

theorem exec_timeAdvanceHold (x : BitVec 64) (s : State) : exec (.timeAdvanceHold x) s = execTimeAdvanceHold x s := rfl

section
variable {s : State} {x : BitVec 64} (hr : s.power.released = true)
include hr

theorem exec_timeAdvanceHold_bad (h : s.sampleBad x = true) : exec (.timeAdvanceHold x) s = .next (s.takeSample x) := by
  simp [exec_timeAdvanceHold, execTimeAdvanceHold, hr, h]

theorem exec_timeAdvanceHold_early (h : ¬ s.sampleBad x = true) (hx : (x - (s.time.take x).since).toNat < 1000000) :
    exec (.timeAdvanceHold x) s = .next { s with time := s.time.take x } := by
  simp [exec_timeAdvanceHold, execTimeAdvanceHold, hr, State.takeSample_good h, hx, -BitVec.toNat_sub]

theorem exec_timeAdvanceHold_held (h : ¬ s.sampleBad x = true) (hx : 1000000 ≤ (x - (s.time.take x).since).toNat) :
    exec (.timeAdvanceHold x) s =
      .next { s with time := { s.time.take x with advancing := true, fault := false } } := by
  simp [exec_timeAdvanceHold, execTimeAdvanceHold, hr, State.takeSample_good h, h, Nat.not_lt.2 hx, -BitVec.toNat_sub]

end

/-! ## The replicas -/

/-- The state with one monitor's registers written. -/
def State.setMonitor (s : State) (k : Fin 15) (m : Monitor) : State := { s with monitors := s.monitors.set k m }

@[simp] theorem State.setMonitor_self (s : State) (k : Fin 15) (m : Monitor) : (s.setMonitor k m).monitors.get k = m := by
  simp [State.setMonitor, Vector.get_eq_getElem]

@[simp] theorem State.setMonitor_other (s : State) {j k : Fin 15} (m : Monitor) (h : j ≠ k) :
    (s.setMonitor k m).monitors.get j = s.monitors.get j := by
  simp only [State.setMonitor, Vector.get_eq_getElem]
  exact Vector.getElem_set_ne _ _ (Fin.val_ne_of_ne h.symm)

/-- A monitor that has read a slack (R33, R380). -/
def Monitor.read (m : Monitor) (slack : Byte) : Monitor :=
  { m with
    cls := classOfSlack slack, slack := slack, worst := if slack < m.worst then slack else m.worst
    warns := if classOfSlack slack = .warning ∧ m.cls ≠ .warning then m.warns + 1 else m.warns
    settled := if classOfSlack slack = .alarm then false else m.settled }

/-- The state once a replica's monitor has read a slack. -/
def State.readSlack (s : State) (k : Fin 15) (slack : Byte) : State := s.setMonitor k ((s.monitors.get k).read slack)

theorem exec_marginClassChange (k : Fin 15) (slack : Byte) (s : State) :
    exec (.marginClassChange k slack) s = execMarginClassChange k slack s := rfl

section
variable {s : State} {k : Fin 15} {slack : Byte} (hr : s.power.released = true)
include hr

theorem exec_marginClassChange_quiet (h : classOfSlack slack = (s.monitors.get k).cls ∨ classOfSlack slack = .normal) :
    exec (.marginClassChange k slack) s = .next (s.readSlack k slack) := by
  rcases h with h | h <;>
    simp [exec_marginClassChange, execMarginClassChange, hr, h, State.readSlack, State.setMonitor, Monitor.read]

theorem exec_marginClassChange_warning (hnew : classOfSlack slack ≠ (s.monitors.get k).cls)
    (h : classOfSlack slack = .warning) : exec (.marginClassChange k slack) s =
      .next ((s.readSlack k slack).raise { code := 0x01, core := true, unit := k.val }) := by
  rw [h] at hnew
  simp [exec_marginClassChange, execMarginClassChange, hr, h, hnew, State.readSlack, State.setMonitor, Monitor.read]

theorem exec_marginClassChange_alarm (hnew : classOfSlack slack ≠ (s.monitors.get k).cls)
    (h : classOfSlack slack = .alarm) : exec (.marginClassChange k slack) s =
      .next ((s.readSlack k slack).raise { code := 0x02, core := true, unit := k.val }) := by
  rw [h] at hnew
  simp [exec_marginClassChange, execMarginClassChange, hr, h, hnew, State.readSlack, State.setMonitor, Monitor.read]

end

theorem exec_monitorNormalHold_normal {s : State} {k : Fin 15} (h : (s.monitors.get k).cls = .normal) :
    exec (.monitorNormalHold k) s = .next (s.setMonitor k { s.monitors.get k with settled := true }) :=
  congrArg Host.Outcome.next (if_pos h)

theorem exec_monitorNormalHold_slack {s : State} {k : Fin 15} (h : (s.monitors.get k).cls ≠ .normal) :
    exec (.monitorNormalHold k) s = .next s :=
  congrArg Host.Outcome.next (if_neg h)

/-! ## Before the release of the reset -/

section
variable {s : State} (h : s.power.released = false)
include h

theorem exec_timeCounterStall_low : exec .timeCounterStall s = .next s :=
  congrArg Host.Outcome.next (if_neg (by simp [h]))

theorem exec_timeSampleInvalid_low (x : BitVec 64) : exec (.timeSampleInvalid x) s = .next s :=
  congrArg Host.Outcome.next (if_neg (by simp [h]))

theorem exec_timeAdvanceHold_low (x : BitVec 64) : exec (.timeAdvanceHold x) s = .next s :=
  if_pos (by simp [h])

theorem exec_marginClassChange_low (k : Fin 15) (slack : Byte) : exec (.marginClassChange k slack) s = .next s :=
  if_pos (by simp [h])

end

/-! ## The statement -/

/-- Settles O7: before the release no row applies; after it a clause at a time, each by the lemma on that outcome of its
row. -/
theorem timeAndMonitorRowsComplete : Obligations.TimeAndMonitorRowsComplete := by
  refine ⟨fun s x m slack hr => ⟨exec_timeCounterStall_low hr, exec_timeSampleInvalid_low hr x,
    exec_timeAdvanceHold_low hr x, exec_marginClassChange_low hr m slack⟩, ?_, ?_, ?_⟩
  · intro s x hr
    have hbad := s.sampleBad_iff (x := x)
    have hsample := exec_timeSampleInvalid_released (x := x) hr
    refine ⟨exec_timeCounterStall_released hr, fun h => ?_, fun h => ?_,
      fun h => exec_timeAdvanceHold_early hr (mt hbad.1 h), fun h => exec_timeAdvanceHold_held hr (mt hbad.1 h)⟩
    · have htake := State.takeSample_bad (hbad.2 h)
      exact ⟨hsample.trans (congrArg _ htake), (exec_timeAdvanceHold_bad hr (hbad.2 h)).trans (congrArg _ htake)⟩
    · exact hsample.trans (congrArg _ (State.takeSample_good (mt hbad.1 h)))
  · intro s m slack hr
    exact ⟨s.readSlack m slack, rfl, s.setMonitor_self m _, fun k => s.setMonitor_other _,
      exec_marginClassChange_quiet hr, exec_marginClassChange_warning hr, exec_marginClassChange_alarm hr⟩
  · intro s m
    exact ⟨fun h => ⟨_, exec_monitorNormalHold_normal h, rfl, s.setMonitor_self m _, fun k => s.setMonitor_other _⟩,
      exec_monitorNormalHold_slack⟩

end Sys2Proof.Machine

/-! # The form of the state

Canonical memories and a bounded history (`memWf`, `historyOk`): they hold at reset, every command keeps them
(`exec_kept`), and so does the block's own work on an empty queue (`State.settle_kept`). -/

namespace Sys2Proof.Machine

/-- A step keeps the form: the queue, off which the front command is taken, is no part of it. -/
theorem step_keeps_form {s s' : State} (h : step s = .next s') :
    (s.memWf = true → s'.memWf = true) ∧ (s.historyOk = true → s'.historyOk = true) := by
  cases hq : s.pending with
  | nil =>
    obtain rfl : s.settle = s' := Host.Outcome.next.inj ((step_nil hq).symm.trans h)
    have hkept : Kept s s.settle := State.settle_kept (.refl s)
    exact ⟨hkept.mem, hkept.history⟩
  | cons c rest =>
    obtain ⟨t, ht, hkept⟩ := (exec_kept c { s with pending := rest }).exists_next
    obtain rfl : t = s' := Host.Outcome.next.inj (ht.symm.trans ((step_cons hq).symm.trans h))
    exact ⟨hkept.mem, hkept.history⟩

/-- Settles O53: by the state of the queue, the front command or the block's own work keeps the form. -/
theorem stepKeepsForm : Obligations.StepKeepsForm := by
  intro s s' h hmem hhist
  obtain ⟨keepsMem, keepsHistory⟩ := step_keeps_form h
  exact ⟨keepsMem hmem, keepsHistory hhist⟩

/-- Settles O52: at reset the memories and the history are empty, and so is the queue. -/
theorem resetIsInForm : Obligations.ResetIsInForm := by
  have hmem : State.reset.mem = [] ∧ State.reset.crash.area = [] ∧ State.reset.work = [] := ⟨rfl, rfl, rfl⟩
  have hhist : State.reset.flt.history = [] := rfl
  refine ⟨?_, ?_, rfl⟩
  · simp [State.memWf, hmem, Mem.wf_nil]
  · simp [State.historyOk, hhist]

end Sys2Proof.Machine

/-! # What an event leaves of a state

An event's reaction can reach far (R320 to R325): holds, containment, resets, votes withheld. What it never touches is
said once, as the equation of the `steady` parts of the states before and after. -/

namespace Sys2Proof.Machine

/-- What of a tenant no event's reaction and no withheld vote changes. -/
structure SteadyTen where
  env : Option Envelope
  fox : FoxS
  isOpen : Bool
  att : Byte
  openEpoch : Nat
  openTry : BitVec 7
  written : Nat
  builds : List Build

/-- What of a state no event's reaction and no withheld vote changes. -/
structure Steady where
  mem : NMap Byte
  slots : Vector SlotS 16
  tenants : Vector SteadyTen 64

def TenantS.steady (t : TenantS) : SteadyTen :=
  { env := t.env, fox := t.fox, isOpen := t.commit.isOpen, att := t.commit.att, openEpoch := t.commit.openEpoch
    openTry := t.commit.openTry, written := t.sweep.written, builds := t.sweep.builds }

def State.steady (s : State) : Steady := { mem := s.mem, slots := s.slots, tenants := s.tenants.map TenantS.steady }

theorem State.mem_of_steady {s t : State} (h : t.steady = s.steady) : t.mem = s.mem := congrArg Steady.mem h

theorem State.slots_of_steady {s t : State} (h : t.steady = s.steady) : t.slots = s.slots := congrArg Steady.slots h

theorem State.ten_of_steady {s t : State} (h : t.steady = s.steady) (i : Fin 64) : (t.ten i).steady = (s.ten i).steady := by
  have hget (u : State) : u.steady.tenants.get i = (u.ten i).steady := by
    simp [State.steady, State.ten, Vector.get_eq_getElem]
  rw [← hget, ← hget, h]

/-! ## Updates -/

theorem State.foldl_steady {α : Type} {f : State → α → State} (hf : ∀ s a, (f s a).steady = s.steady) (l : List α)
    (s : State) : (l.foldl f s).steady = s.steady := by
  induction l generalizing s with
  | nil => rfl
  | cons a l ih => exact (ih (f s a)).trans (hf s a)

theorem State.updTen_steady {s : State} {i : Fin 64} {f : TenantS → TenantS} (hf : ∀ t, (f t).steady = t.steady) :
    (s.updTen i f).steady = s.steady := by
  have hmap : (s.tenants.set i (f (s.tenants.get i))).map TenantS.steady = s.tenants.map TenantS.steady := by
    rw [Vector.map_set, hf, Vector.get_eq_getElem, ← Vector.getElem_map TenantS.steady, Vector.set_getElem_self]
  rw [State.steady, State.updTen, hmap]
  rfl

@[simp] theorem State.withhold_steady (s : State) (i : Fin 64) (reason : Nat) : (s.withhold i reason).steady = s.steady := by
  refine State.updTen_steady fun t => ?_
  cases h : t.commit.vstate <;> simp only [TenantS.steady, h]

@[simp] theorem State.holdSweep_steady (s : State) (i : Fin 64) (cause : Nat) :
    (s.holdSweep i cause).steady = s.steady := by
  refine State.updTen_steady fun t => ?_
  by_cases h : t.sweep.state = .idle <;> simp only [TenantS.steady, h, if_true, if_false]

/-! ## Events -/

@[simp] theorem State.updFlt_steady (s : State) (f : FaultS → FaultS) : (s.updFlt f).steady = s.steady := rfl

@[simp] theorem State.count_steady (s : State) (k : Nat) : (s.count k).steady = s.steady := rfl

@[simp] theorem State.pushHistory_steady (s : State) (h : HistEntry) : (s.pushHistory h).steady = s.steady := by
  simp [State.pushHistory, apply_ite State.steady]

/-- Recording an event writes the fault logic alone, whether it is merged or not. -/
@[simp] theorem State.enter_steady (s : State) (e : Ev) : (s.enter e).1.steady = s.steady := by
  simp only [State.enter, apply_ite State.steady, State.updFlt_steady, State.pushHistory_steady, ite_self]
  split <;> simp

@[simp] theorem State.raiseHeld_steady (s : State) (e : Ev) : (s.raiseHeld e).steady = s.steady := by
  unfold State.raiseHeld
  simp only
  split
  · exact s.enter_steady e
  · exact s.enter_steady e

theorem State.releaseParked_steady {raise : State → Ev → State} (hr : ∀ s e, (raise s e).steady = s.steady) (s : State)
    (p : Parked → Bool) (cause : BitVec 4) (code : Nat) : (s.releaseParked p cause raise code).steady = s.steady := by
  unfold State.releaseParked
  refine (State.foldl_steady ?_ _ _).trans rfl
  exact fun s x => hr _ _

theorem State.dropSwitch_steady {raise : State → Ev → State} (hr : ∀ s e, (raise s e).steady = s.steady) (s : State) :
    (s.dropSwitch raise).steady = s.steady := by
  unfold State.dropSwitch
  split
  · rfl
  · refine (hr _ _).trans ?_
    simp [State.steady, TenantS.steady]

@[simp] theorem State.hold_steady (s : State) (code : Nat) : (s.hold code).steady = s.steady := by
  unfold State.hold
  split
  · refine (State.releaseParked_steady State.raiseHeld_steady _ _ _ _).trans ?_
    refine (State.dropSwitch_steady State.raiseHeld_steady _).trans ?_
    exact State.foldl_steady (fun s i => s.holdSweep_steady i code) _ _
  all_goals rfl

@[simp] theorem State.raise0_steady (s : State) (e : Ev) : (s.raise0 e).steady = s.steady := by
  have hhold : ((s.enter e).1.hold e.code).steady = s.steady := by simp
  unfold State.raise0
  simp only
  split
  · exact s.enter_steady e
  · split <;> exact hhold

@[simp] theorem State.contain_steady (s : State) (c : Nat) : (s.contain c).steady = s.steady := by
  unfold State.contain
  split
  · rfl
  · split
    · rfl
    · next e _ _ =>
      have hreleased := State.releaseParked_steady State.raise0_steady (s.setEntry c { e with state := .contained, staged := none })
        (fun x => x.ctx == some c) 0x5 0x35
      simp only
      split
      · exact (State.withhold_steady _ _ _).trans hreleased
      · exact hreleased

@[simp] theorem State.beginUnit_steady (s : State) (u : ResetUnit) (busy : Option (Fin 16)) :
    (s.beginUnit u busy).steady = s.steady := by
  unfold State.beginUnit
  split
  · rfl
  · cases u with
    | gf k =>
      cases busy with
      | none => rfl
      | some k =>
        simp only
        split
        · exact (State.withhold_steady _ _ _).trans (State.raise0_steady _ _)
        · exact State.raise0_steady _ _
    | lane k => rfl
    | endpoint => rfl
    | badger => rfl
    | instance_ => rfl

/-- An event's reaction, whichever its level: the reset of a unit, the containment of a region, or the hold. -/
@[simp] theorem State.raise_steady (s : State) (e : Ev) (busy : Option (Fin 16)) : (s.raise e busy).steady = s.steady := by
  simp only [State.raise, apply_ite State.steady, State.updFlt_steady, State.hold_steady, ite_self]
  have hunit : (match e.ru with | some u => (s.enter e).1.beginUnit u busy | none => (s.enter e).1).steady = s.steady := by
    split <;> simp
  split
  · exact s.enter_steady e
  · split
    · exact hunit
    · split
      · split
        · exact (State.contain_steady _ _).trans hunit
        · exact hunit
      · exact hunit

@[simp] theorem State.raiseT_steady (s : State) (i : Fin 64) (code detail : Nat) :
    (s.raiseT i code detail).steady = s.steady := State.raise_steady _ _ _

end Sys2Proof.Machine

/-! # The opening of an attempt

An opening has three stages (R43, R183, R199): the commit state with what moves at an opening, the sett slots, and the
sweep with what withholds the vote from the start. -/

namespace Sys2Proof.Machine

/-! ## The stages -/

/-- The commit state opened, and the staged changes of the tenant's entries taken. -/
def State.openCommit (s : State) (i : Fin 64) : State :=
  let t := s.updCommit i fun c => { c with
    isOpen := true, openDue := false, window := false, att := c.att + 1, vstate := .open_, wcause := 0, causes := []
    openedAt := s.time.now, advanced := false, roles := Vector.replicate 3 {} }
  t.mapEntries (t.tagOf i) fun e => if e.state = .active then e.applyStaged else e

/-- The same once the program's move is made. -/
def State.openMoved (s : State) (i : Fin 64) : State :=
  ((s.openCommit i).moveBank i (s.ten i).commit.afterCommit).checkArmed

/-- The same with the ranks that have joined noted. -/
def State.openJoined (s : State) (i : Fin 64) : State :=
  (s.openMoved i).updFox i fun f => { f with joined := f.replacing.map (·.2) }

/-- A sett slot at the opening of an attempt. -/
def SlotS.opened (x : SlotS) (c : CommitS) : SlotS :=
  { x with next := 0, markCount := none, done := false, runSent := 0
           sources := x.sources.map fun e => e.reset c.openEpoch c.openTry }

/-- The slots of a list opened. -/
def State.openSlots (s : State) (c : CommitS) (ks : List Nat) : State :=
  ks.foldl (fun s k => s.updSlot k fun x => x.opened c) s

/-- A sweep at the opening of an attempt; one that is held stays so. -/
def SweepS.opened (w : SweepS) (bases : Vector (BitVec 36) 16) : SweepS :=
  { w with
    state := if w.state = .held then .held else .intake, cause := if w.state = .held then w.cause else 0
    prep := [], todo := [], groups := [], recs := [], builds := [], missed := [], written := 0, dropped := 0
    waitIntake := false, waitHawk := false, flags := 0, bases := bases }

/-- The sweep started, the parked writes due, and the vote withheld where a cause stands. -/
def State.openSweep (s : State) (i : Fin 64) : State :=
  let s := (s.updSweep i fun w => w.opened (s.ten i).dbase).parkDue i |>.standingCauses i
  if (s.ten i).sweep.state = .held then s.withhold i 0x10 else s

theorem State.openAttempt_eq (s : State) (i : Fin 64) : s.openAttempt i =
    (((s.openJoined i).openSlots (s.ten i).commit ((s.openJoined i).settSlots i)).openSweep i) := rfl

/-! ## The commit state -/

@[simp] theorem State.moveBank_steady (s : State) (i : Fin 64) (b : Bool) : (s.moveBank i b).steady = s.steady := by
  have hmoved : ((s.updTen i fun t => { t with bank := !t.bank }).raiseT i 0x94).steady = s.steady :=
    (State.raiseT_steady _ _ _ _).trans (State.updTen_steady fun _ => rfl)
  simp only [State.moveBank, apply_ite State.steady, hmoved, ite_self]

@[simp] theorem State.checkArmed_steady (s : State) : s.checkArmed.steady = s.steady := by
  unfold State.checkArmed
  split <;> rfl

theorem State.openCommit_mem (s : State) (i : Fin 64) : (s.openCommit i).mem = s.mem := rfl

theorem State.openCommit_slots (s : State) (i : Fin 64) : (s.openCommit i).slots = s.slots := rfl

theorem State.openCommit_ten (s : State) (i : Fin 64) : ((s.openCommit i).ten i).steady =
    { (s.ten i).steady with isOpen := true, att := (s.ten i).commit.att + 1 } := by
  have hupd (f : TenantS → TenantS) (tag : Tag) (g : Entry → Entry) :
      ((s.updTen i f).mapEntries tag g).ten i = f (s.ten i) := s.updTen_self i f
  rw [State.openCommit, State.updCommit, hupd]
  rfl

theorem State.openMoved_steady (s : State) (i : Fin 64) : (s.openMoved i).steady = (s.openCommit i).steady :=
  (State.checkArmed_steady _).trans (State.moveBank_steady _ _ _)

theorem State.openJoined_mem (s : State) (i : Fin 64) : (s.openJoined i).mem = s.mem :=
  (State.mem_of_steady (s.openMoved_steady i)).trans (s.openCommit_mem i)

theorem State.openJoined_slots (s : State) (i : Fin 64) : (s.openJoined i).slots = s.slots :=
  (State.slots_of_steady (s.openMoved_steady i)).trans (s.openCommit_slots i)

theorem State.openJoined_ten (s : State) (i : Fin 64) : ((s.openJoined i).ten i).steady = { (s.ten i).steady with
    isOpen := true, att := (s.ten i).commit.att + 1
    fox := { (s.ten i).fox with joined := (s.ten i).fox.replacing.map (·.2) } } := by
  have hjoin (t : TenantS) : ({ t with fox := { t.fox with joined := t.fox.replacing.map (·.2) } } : TenantS).steady =
      { t.steady with fox := { t.steady.fox with joined := t.steady.fox.replacing.map (·.2) } } := rfl
  rw [State.openJoined, State.updFox, State.updTen_self, hjoin, State.ten_of_steady (s.openMoved_steady i),
    State.openCommit_ten]
  rfl

theorem State.slot_congr {s t : State} (h : t.slots = s.slots) (k : Nat) : t.slot k = s.slot k := by
  unfold State.slot
  rw [h]

theorem State.settSlots_congr {s t : State} {i : Fin 64} (henv : (t.ten i).env = (s.ten i).env) (hslots : t.slots = s.slots) :
    t.settSlots i = s.settSlots i := by
  simp only [State.settSlots, State.ownsSlot, State.slot_congr hslots, henv]

theorem State.openJoined_settSlots (s : State) (i : Fin 64) : (s.openJoined i).settSlots i = s.settSlots i :=
  State.settSlots_congr (congrArg SteadyTen.env (s.openJoined_ten i)) (s.openJoined_slots i)

/-! ## The slots -/

theorem State.openSlots_mem (s : State) (c : CommitS) (ks : List Nat) : (s.openSlots c ks).mem = s.mem := by
  induction ks generalizing s with
  | nil => rfl
  | cons k ks ih => exact (ih _).trans (State.updSlot_mem _ _ _)

theorem State.openSlots_tenants (s : State) (c : CommitS) (ks : List Nat) : (s.openSlots c ks).tenants = s.tenants := by
  induction ks generalizing s with
  | nil => rfl
  | cons k ks ih => exact (ih _).trans (State.updSlot_tenants _ _ _)

/-- A slot of the list is opened, and one that was open already stays so. -/
theorem State.openSlots_slot {s : State} {c : CommitS} {ks : List Nat} {k : Nat} (hk : k < 16)
    (h : k ∈ ks ∨ ∃ x : SlotS, s.slot k = x.opened c) : ∃ x : SlotS, (s.openSlots c ks).slot k = x.opened c := by
  induction ks generalizing s with
  | nil => exact h.resolve_left List.not_mem_nil
  | cons j ks ih =>
    refine ih ?_
    by_cases hj : k = j
    · subst hj
      exact .inr ⟨s.slot k, State.updSlot_self s k hk _⟩
    · rw [State.updSlot_other s j k hj]
      exact h.imp_left fun hmem => (List.mem_cons.1 hmem).resolve_left hj

/-! ## The sweep -/

@[simp] theorem State.standingCauses_steady (s : State) (i : Fin 64) : (s.standingCauses i).steady = s.steady := by
  unfold State.standingCauses
  simp only [apply_ite State.steady, State.withhold_steady, ite_self]

theorem State.openSweep_steady (s : State) (i : Fin 64) :
    (s.openSweep i).steady = (s.updSweep i fun w => w.opened (s.ten i).dbase).steady := by
  unfold State.openSweep
  simp only [apply_ite State.steady, State.withhold_steady, ite_self, State.standingCauses_steady]
  rfl

theorem State.openSweep_mem (s : State) (i : Fin 64) : (s.openSweep i).mem = s.mem :=
  (State.mem_of_steady (s.openSweep_steady i)).trans rfl

theorem State.openSweep_slots (s : State) (i : Fin 64) : (s.openSweep i).slots = s.slots :=
  (State.slots_of_steady (s.openSweep_steady i)).trans rfl

theorem State.openSweep_ten (s : State) (i : Fin 64) :
    ((s.openSweep i).ten i).steady = { (s.ten i).steady with written := 0, builds := [] } := by
  rw [State.ten_of_steady (s.openSweep_steady i) i, State.updSweep, State.updTen_self]
  rfl

/-! ## The whole opening -/

theorem State.openAttempt_mem (s : State) (i : Fin 64) : (s.openAttempt i).mem = s.mem := by
  rw [State.openAttempt_eq, State.openSweep_mem, State.openSlots_mem, State.openJoined_mem]

theorem State.openAttempt_ten (s : State) (i : Fin 64) : ((s.openAttempt i).ten i).steady = { (s.ten i).steady with
    isOpen := true, att := (s.ten i).commit.att + 1, written := 0, builds := []
    fox := { (s.ten i).fox with joined := (s.ten i).fox.replacing.map (·.2) } } := by
  rw [State.openAttempt_eq, State.openSweep_ten, State.ten, State.openSlots_tenants]
  exact congrArg (fun t : SteadyTen => { t with written := 0, builds := [] }) (s.openJoined_ten i)

theorem State.openAttempt_slot {s : State} {i : Fin 64} {k : Nat} (h : k ∈ s.settSlots i) :
    ∃ x : SlotS, (s.openAttempt i).slot k = x.opened (s.ten i).commit := by
  have hk : k < 16 := List.mem_range.1 (List.mem_filter.1 h).1
  rw [State.openAttempt_eq, State.openJoined_settSlots, State.slot_congr (State.openSweep_slots _ i)]
  exact State.openSlots_slot hk (.inl h)

/-- A source of an opened slot starts from 0. -/
theorem SlotS.opened_source {x : SlotS} {c : CommitS} {e : SrcEntry} (h : e ∈ (x.opened c).sources) :
    e.cum = 0 ∧ e.closed = false ∧ e.broken = false ∧ e.ackDue = false := by
  obtain ⟨y, -, rfl⟩ := List.mem_map.1 h
  exact ⟨rfl, rfl, rfl, rfl⟩

/-! ## The statement -/

theorem exec_attemptOpen (i : Fin 64) (s : State) : exec (.attemptOpen i) s =
    .next (if (s.ten i).env.isSome && s.mayOpen i then (s.openAttempt i).follow i else s) := rfl

/-- Settles O31: the opening's three stages, each by what it leaves. -/
theorem attemptOpenCompletes : Obligations.AttemptOpenCompletes := by
  refine ⟨fun s i henv hmay => ?_, fun s i h => ?_⟩
  · have hten := s.openAttempt_ten i
    simp only [TenantS.steady, SteadyTen.mk.injEq] at hten
    obtain ⟨-, hfox, hopen, hatt, hepoch, htry, hwritten, hbuilds⟩ := hten
    refine ⟨by simp [exec_attemptOpen, henv, hmay], hopen, hatt, hepoch, htry, s.openAttempt_mem i, hwritten, hbuilds,
      by rw [hfox], fun k hk => ?_⟩
    obtain ⟨x, hx⟩ := State.openAttempt_slot hk
    rw [hx]
    exact ⟨rfl, rfl, fun _ => SlotS.opened_source⟩
  · rcases h with h | h <;> simp [exec_attemptOpen, h]

end Sys2Proof.Machine

/-! # Accesses at the gate

How a host access comes to the gate, is judged and is answered, parked or sent (R41 to R51, R89): an equation per case
of the gate's own functions. -/

namespace Sys2Proof.Machine

/-! ## Arrival -/

/-- The state once a request has been counted and its directory line looked up. -/
def State.asked (s : State) (q : NqReq) : State :=
  { s with gate := { (s.touchLookaside q.addr.toNat).gate with arrivals := s.gate.arrivals + 1 } }

/-- A request as it comes to be judged. -/
def State.arriving (s : State) (q : NqReq) : Parked := { q := q, n := s.gate.arrivals, why := .line, ctx := none }

/-- A lookup of a directory line moves the lookaside alone (R42). -/
theorem State.touchLookaside_frame (s : State) (a : Nat) : s.touchLookaside a =
    { s with gate := { s.gate with lookaside := (s.touchLookaside a).gate.lookaside } } := by
  unfold State.touchLookaside
  split <;> rfl

theorem State.asked_frame (s : State) (q : NqReq) : s.asked q = { s with gate := { s.gate with
    lookaside := (s.touchLookaside q.addr.toNat).gate.lookaside, arrivals := s.gate.arrivals + 1 } } := by
  rw [State.asked, State.touchLookaside_frame]

@[simp] theorem State.asked_park (s : State) (q : NqReq) : (s.asked q).gate.park = s.gate.park := by
  rw [State.asked_frame]

@[simp] theorem State.asked_mq (s : State) (q : NqReq) : (s.asked q).gate.mq = s.gate.mq := by
  rw [State.asked_frame]

@[simp] theorem State.asked_ready (s : State) (q : NqReq) : (s.asked q).gate.ready = s.gate.ready := by
  rw [State.asked_frame]

@[simp] theorem State.asked_lineBusy (s : State) (q : NqReq) (line : Nat) (isRead : Bool) :
    (s.asked q).lineBusy line isRead = s.lineBusy line isRead := by
  simp only [State.lineBusy, State.asked_mq]

@[simp] theorem State.asked_lineOut (s : State) (q : NqReq) (line : Nat) : (s.asked q).lineOut line = s.lineOut line := by
  simp only [State.lineOut, State.asked_mq]

@[simp] theorem State.asked_freeMqId (s : State) (q : NqReq) : (s.asked q).freeMqId = s.freeMqId := by
  simp only [State.freeMqId, State.asked_mq]
  rfl

theorem State.hostMemory_asked {s : State} {q : NqReq} {op : BitVec 3} (bad : Bool) (hp : s.portsUp = true)
    (hspace : q.space = 0) (hop : q.op = op) : s.hostMemory q op bad = (s.asked q).access (s.arriving q) bad := by
  have harrivals : (s.touchLookaside q.addr.toNat).gate.arrivals = s.gate.arrivals := by rw [State.touchLookaside_frame]
  have hasked : s.asked q = { s.touchLookaside q.addr.toNat with
      gate := { (s.touchLookaside q.addr.toNat).gate with
        arrivals := (s.touchLookaside q.addr.toNat).gate.arrivals + 1 } } := by
    rw [State.asked, State.touchLookaside_frame]
  rw [hasked, State.arriving, ← harrivals]
  simp [State.hostMemory, hp, hspace, hop]

/-! ## Judgement -/

section
variable {s : State} {x : Parked} {c : Nat} {e : Entry} {i : Fin 64} (htag : x.q.tag = e.tenant)
include htag

/-- Bank `b` of the panel of an entry that a request addresses. -/
def Entry.bankAddr (e : Entry) (a : Nat) (b : Bool) : Nat := e.panelAddr (a / 4096 - e.basep) b + a % 4096

/-- A read or a write of a LOADING region goes to bank C (R89). -/
theorem State.judgeRegion_loadingRead (hst : e.state = .loading) (hop : x.q.op = 0) : s.judgeRegion x c e =
    .send .read (e.bankAddr x.q.addr.toNat (s.panelRec e (x.q.addr.toNat / 4096 - e.basep)).c) := by
  simp [State.judgeRegion, htag, hst, hop, Entry.bankAddr]

theorem State.judgeRegion_loadingWrite (hst : e.state = .loading) (hop : x.q.op = 1) : s.judgeRegion x c e =
    .send .write (e.bankAddr x.q.addr.toNat (s.panelRec e (x.q.addr.toNat / 4096 - e.basep)).c) := by
  simp [State.judgeRegion, htag, hst, hop, Entry.bankAddr]

/-- An atomic to a protected region fails (R45). -/
theorem State.judgeRegion_atomic (hst : e.state = .active ∨ e.state = .loading) (hop : x.q.op = 2) :
    s.judgeRegion x c e = .fail 0x4 := by
  rcases hst with h | h <;> simp [State.judgeRegion, htag, hop, h]

variable (hst : e.state = .active) (hten : s.tenantOf e.tenant = some i)
include hst hten

/-- A read of an ACTIVE region: kept back by a repair, held by the sweep, or steered (R43, R46, R89). -/
theorem State.judgeRegion_read (hop : x.q.op = 0) : s.judgeRegion x c e =
    if s.badger.repairs.contains (.data c (x.q.addr.toNat / 4096 - e.basep)) then .fail 0x9
    else if s.holdsRead i e (x.q.addr.toNat / 4096 - e.basep) then .park .sweep
    else .send .read (e.bankAddr x.q.addr.toNat (s.steer e (x.q.addr.toNat / 4096 - e.basep))) := by
  simp [State.judgeRegion, htag, hst, hten, hop, Entry.bankAddr]

theorem State.judgeRegion_write (hop : x.q.op = 1) : s.judgeRegion x c e =
    if e.cls = .skim then .fail 0x1
    else s.judgeWrite x i e (e.bankAddr x.q.addr.toNat (s.steer e (x.q.addr.toNat / 4096 - e.basep))) := by
  simp [State.judgeRegion, htag, hst, hten, hop, Entry.bankAddr]

end

/-- A write to a panel of an entry takes the read-old path: there is room for its delta, or no sweep holds it (R47, R48,
R192). -/
def State.takesReadOld (s : State) (i : Fin 64) (e : Entry) (due : Bool) : Prop :=
  (e.cls = .direct ∧ s.hawkRoom e.slot.val 1 1 = true) ∨
    (e.cls = .replica ∧ (e.sgrp = 0 ∨ (s.ten i).sweep.state = .idle ∨ (s.ten i).sweep.state = .held ∨ due = true))

theorem State.judgeWrite_readOld {s : State} {x : Parked} {i : Fin 64} {e : Entry} {phys : Nat} (hwhy : x.why = .line)
    (hopen : (s.ten i).commit.isOpen = true) (hwindow : (s.ten i).commit.window = false)
    (h : s.takesReadOld i e x.due) : s.judgeWrite x i e phys = .send .readOld phys := by
  rcases h with ⟨hcls, hroom⟩ | ⟨hcls, hfree⟩
  · simp [State.judgeWrite, Parked.waits, hwhy, hopen, hwindow, hcls, hroom]
  · have hheld : ¬ (e.sgrp ≠ 0 ∧ (s.ten i).sweep.state ≠ .idle ∧ (s.ten i).sweep.state ≠ .held ∧ x.due = false) := by
      rintro ⟨hgroup, hidle, hheld, hdue⟩
      rcases hfree with h | h | h | h
      · exact hgroup h
      · exact hidle h
      · exact hheld h
      · exact Bool.false_ne_true (hdue.symm.trans h)
    simp only [State.judgeWrite, Parked.waits, hwhy, hopen, hwindow, hcls, if_neg hheld]
    simp

/-! ## Where an access goes -/

/-- The state with a request given to the controller (R36). -/
def State.sendMq (s : State) (x : Parked) (id : BitVec 12) (kind : MqKind) (phys : BitVec 36) (panel : Option (Nat × Nat)) :
    State :=
  { s with gate := { s.gate with mq := s.gate.mq ++ [{
      id := id, nqId := x.q.id, kind := kind, aop := x.q.aop, n := x.n, line := lineNo x.q.addr, tag := x.q.tag
      addr := phys, be := x.q.be, data := x.q.data, panel := panel, due := x.due }] } }

theorem State.toController_sends {s : State} {x : Parked} {id : BitVec 12} {kind : MqKind} (phys : BitVec 36)
    (panel : Option (Nat × Nat)) (hfree : s.lineBusy (lineNo x.q.addr) (kind == .read) = false) (hid : s.freeMqId = some id) :
    s.toController x kind phys panel = s.sendMq x id kind phys panel := by
  simp [State.toController, hfree, hid, State.sendMq]

/-- No parked request is to the line a request addresses (R51). -/
def State.noneBefore (s : State) (q : NqReq) : Prop := ∀ y ∈ s.gate.park, lineNo y.q.addr ≠ lineNo q.addr

theorem State.noneBefore_any {s : State} {q : NqReq} (h : s.noneBefore q) :
    (s.gate.park.any fun y => lineNo y.q.addr == lineNo q.addr) = false := by
  simpa [State.noneBefore] using h

section
variable {s : State} {x : Parked} (hnone : s.noneBefore x.q)
include hnone

/-- Outside the span and the directory an access passes (R39, R45). -/
theorem State.access_outside (bad : Bool) (hready : s.gate.ready = true) (hspan : s.inSpan x.q.addr.toNat = false)
    (hdir : s.inDir x.q.addr.toNat = false) : s.access x bad = s.toController { x with ctx := none }
      (if x.q.op = 0 then .read else if x.q.op = 1 then .write else .atomic) x.q.addr none := by
  simp [State.access, hready, hspan, hdir, State.noneBefore_any hnone]

variable {c : Nat} {e : Entry}

theorem State.accessRegion_fails {cause : BitVec 4} (hjudge : s.judgeRegion x c e = .fail cause)
    (hout : s.lineOut (lineNo x.q.addr) = false) : s.accessRegion x c e = s.busError x.q cause := by
  simp [State.accessRegion, hjudge, hout, State.noneBefore_any hnone]

theorem State.accessRegion_parks {why : ParkWhy} (hjudge : s.judgeRegion x c e = .park why)
    (hroom : s.gate.park.length < Config.parkSize) : s.accessRegion x c e =
      { s with gate := { s.gate with park := parkInsert { x with why := why, ctx := some c } s.gate.park } } := by
  simp [State.accessRegion, hjudge, State.parkIt, Nat.not_le.2 hroom, State.noneBefore_any hnone]

theorem State.accessRegion_sends {id : BitVec 12} {kind : MqKind} {phys : Nat}
    (hjudge : s.judgeRegion x c e = .send kind phys) (hfree : s.lineBusy (lineNo x.q.addr) (kind == .read) = false)
    (hid : s.freeMqId = some id) : s.accessRegion x c e =
      s.sendMq x id kind (BitVec.ofNat 36 phys) (some (c, x.q.addr.toNat / 4096 - e.basep)) := by
  simp only [State.accessRegion, hjudge, State.noneBefore_any hnone, Bool.false_eq_true, if_false]
  exact State.toController_sends (x := { x with ctx := some c }) _ _ hfree hid

end

/-- An access to a region's host view, once its entry has been read, or with the entry gone (R26, R45). -/
theorem State.access_inside {s : State} {x : Parked} {c : Nat} {e : Entry} (bad : Bool) (hready : s.gate.ready = true)
    (hmode : s.flt.mode = .normal) (hspan : s.inSpan x.q.addr.toNat = true) (hdir : s.inDir x.q.addr.toNat = false)
    (hview : s.hostView x.q.addr.toNat = some (c, e)) :
    s.access x bad = if bad then (s.contain c).busError x.q 0xA else s.accessRegion x c e := by
  simp [State.access, hready, hmode, hspan, hdir, hview]

end Sys2Proof.Machine

/-! # The rows of a host access

HOST_MEMORY_READ, HOST_MEMORY_WRITE and HOST_MEMORY_ATOMIC by what they address (R41 to R51, R89). -/

namespace Sys2Proof.Machine

theorem exec_hostMemoryRead (q : NqReq) (bad : Bool) (s : State) :
    exec (.hostMemoryRead q bad) s = .next (s.hostMemory q 0 bad) := rfl

theorem exec_hostMemoryWrite (q : NqReq) (bad : Bool) (s : State) :
    exec (.hostMemoryWrite q bad) s = .next (s.hostMemory q 1 bad) := rfl

theorem exec_hostMemoryAtomic (q : NqReq) (bad : Bool) (s : State) :
    exec (.hostMemoryAtomic q bad) s = .next (s.hostMemory q 2 bad) := rfl

/-- The state once an arriving request has been counted and given to the controller. -/
def State.askedSent (s : State) (q : NqReq) (id : BitVec 12) (kind : MqKind) (phys : BitVec 36)
    (panel : Option (Nat × Nat)) : State :=
  { s.asked q with gate := { (s.asked q).gate with mq := s.gate.mq ++ [{
      id := id, nqId := q.id, kind := kind, aop := q.aop, n := s.gate.arrivals, line := lineNo q.addr, tag := q.tag
      addr := phys, be := q.be, data := q.data, panel := panel }] } }

theorem State.asked_sendMq (s : State) (q : NqReq) (id : BitVec 12) (kind : MqKind) (phys : BitVec 36)
    (panel : Option (Nat × Nat)) :
    (s.asked q).sendMq (s.arriving q) id kind phys panel = s.askedSent q id kind phys panel := by
  simp only [State.sendMq, State.askedSent, State.asked_mq]
  rfl

theorem State.asked_noneBefore {s : State} {q : NqReq} (h : s.noneBefore q) : (s.asked q).noneBefore q := by
  simpa only [State.noneBefore, State.asked_park] using h

section
variable {s : State} {q : NqReq} {op : BitVec 3} (hp : s.portsUp = true) (hspace : q.space = 0) (hop : q.op = op)
  (hready : s.gate.ready = true)
include hp hspace hop hready

theorem State.hostMemory_outside {id : BitVec 12} {kind : MqKind} (bad : Bool) (hnone : s.noneBefore q)
    (hspan : s.inSpan q.addr.toNat = false) (hdir : s.inDir q.addr.toNat = false) (hid : s.freeMqId = some id)
    (hkind : (if q.op = 0 then .read else if q.op = 1 then .write else .atomic) = kind)
    (hfree : s.lineBusy (lineNo q.addr) (kind == .read) = false) :
    s.hostMemory q op bad = s.askedSent q id kind q.addr none := by
  subst hkind
  rw [State.hostMemory_asked bad hp hspace hop, ← State.asked_sendMq]
  exact (State.access_outside (s := s.asked q) (x := s.arriving q) (State.asked_noneBefore hnone) bad
    ((s.asked_ready q).trans hready) hspan hdir).trans
    (State.toController_sends _ _ ((s.asked_lineBusy q _ _).trans hfree) ((s.asked_freeMqId q).trans hid))

variable {c : Nat} {e : Entry} (hmode : s.flt.mode = .normal) (hspan : s.inSpan q.addr.toNat = true)
  (hdir : s.inDir q.addr.toNat = false) (hview : s.hostView q.addr.toNat = some (c, e))
include hmode hspan hdir hview

theorem State.hostMemory_inside (bad : Bool) : s.hostMemory q op bad =
    if bad then ((s.asked q).contain c).busError q 0xA else (s.asked q).accessRegion (s.arriving q) c e := by
  rw [State.hostMemory_asked bad hp hspace hop]
  exact State.access_inside bad ((s.asked_ready q).trans hready) hmode hspan hdir hview

/-- An access whose entry cannot be read (R26). -/
theorem State.hostMemory_entryBad : s.hostMemory q op true = ((s.asked q).contain c).busError q 0xA :=
  State.hostMemory_inside hp hspace hop hready hmode hspan hdir hview true

variable (hnone : s.noneBefore q)
include hnone

theorem State.hostMemory_fails {cause : BitVec 4} (hjudge : s.judgeRegion (s.arriving q) c e = .fail cause)
    (hout : s.lineOut (lineNo q.addr) = false) : s.hostMemory q op false = (s.asked q).busError q cause :=
  (State.hostMemory_inside hp hspace hop hready hmode hspan hdir hview false).trans
    (State.accessRegion_fails (State.asked_noneBefore hnone) hjudge ((s.asked_lineOut q _).trans hout))

theorem State.hostMemory_parks {why : ParkWhy} (hjudge : s.judgeRegion (s.arriving q) c e = .park why)
    (hroom : s.gate.park.length < Config.parkSize) : s.hostMemory q op false = { s.asked q with gate := { (s.asked q).gate with
      park := parkInsert { q := q, n := s.gate.arrivals, why := why, ctx := some c } s.gate.park } } := by
  rw [State.hostMemory_inside hp hspace hop hready hmode hspan hdir hview false]
  refine (State.accessRegion_parks (State.asked_noneBefore hnone) hjudge (by rwa [State.asked_park])).trans ?_
  rw [State.asked_park]
  rfl

theorem State.hostMemory_sends {id : BitVec 12} {kind : MqKind} {phys : Nat}
    (hid : s.freeMqId = some id) (hjudge : s.judgeRegion (s.arriving q) c e = .send kind phys)
    (hfree : s.lineBusy (lineNo q.addr) (kind == .read) = false) : s.hostMemory q op false =
      s.askedSent q id kind (BitVec.ofNat 36 phys) (some (c, q.addr.toNat / 4096 - e.basep)) := by
  rw [State.hostMemory_inside hp hspace hop hready hmode hspan hdir hview false, ← State.asked_sendMq]
  exact State.accessRegion_sends (State.asked_noneBefore hnone) hjudge ((s.asked_lineBusy q _ _).trans hfree)
    ((s.asked_freeMqId q).trans hid)

end

/-! ## The statement -/

/-- Settles O11: a clause of the statement at a time, by how the access is judged and what the verdict leads to. -/
theorem hostAccessRowsComplete : Obligations.HostAccessRowsComplete := by
  intro s q id hp hspace hready hid hnone a asked sent freeRd freeWr
  refine ⟨fun hspan hdir => ?_, fun c e i hmode hspan hdir hview htag hten => ?_⟩
  · have hsends {op : BitVec 3} {kind : MqKind} (hop : q.op = op) :=
      State.hostMemory_outside (kind := kind) hp hspace hop hready false hnone hspan hdir hid
    exact ⟨fun hop hfree => congrArg _ (hsends (kind := .read) hop (by simp [hop]) hfree),
      fun hop hfree => congrArg _ (hsends (kind := .write) hop (by simp [hop]) hfree),
      fun hop hfree => congrArg _ (hsends (kind := .atomic) hop (by simp [hop]) hfree)⟩
  intro p bank open_
  have htag : (s.arriving q).q.tag = e.tenant := htag
  have hfails {op : BitVec 3} {cause : BitVec 4} (hop : q.op = op) :=
    State.hostMemory_fails (cause := cause) hp hspace hop hready hmode hspan hdir hview hnone
  have hsends {op : BitVec 3} {kind : MqKind} {phys : Nat} (hop : q.op = op) :=
    State.hostMemory_sends (kind := kind) (phys := phys) hp hspace hop hready hmode hspan hdir hview hnone hid
  refine ⟨fun hop => ?_, fun hop => ?_, fun hop hst hout => ?_⟩
  · have hread (hst : e.state = .active) := State.judgeRegion_read (x := s.arriving q) (c := c) htag hst hten hop
    refine ⟨fun hst hfree => ?_, fun hst hrep hout => ?_, fun hst hrep hheld hfree => ?_, fun hst hrep hheld hroom => ?_, ?_⟩
    · exact congrArg _ (hsends hop (State.judgeRegion_loadingRead htag hst hop) hfree)
    · exact congrArg _ (hfails hop ((hread hst).trans (if_pos (List.contains_iff_mem.2 hrep))) hout)
    · have hsteered :=
        (hread hst).trans ((if_neg (mt List.contains_iff_mem.1 hrep)).trans (if_neg (ne_true_of_eq_false hheld)))
      exact congrArg _ (hsends hop hsteered hfree)
    · have hparked := (hread hst).trans ((if_neg (mt List.contains_iff_mem.1 hrep)).trans (if_pos hheld))
      exact congrArg _ (State.hostMemory_parks hp hspace hop hready hmode hspan hdir hview hnone hparked hroom)
    · exact congrArg _ (State.hostMemory_entryBad hp hspace hop hready hmode hspan hdir hview)
  · have hwrite (hst : e.state = .active) := State.judgeRegion_write (x := s.arriving q) (c := c) htag hst hten hop
    have hreadOld (hst : e.state = .active) (hopen : open_) (hcls : e.cls ≠ .skim) (h : s.takesReadOld i e false) :=
      (hwrite hst).trans ((if_neg hcls).trans
        (State.judgeWrite_readOld (x := s.arriving q) rfl hopen.1 hopen.2 h))
    refine ⟨fun hst hfree => ?_, fun hst hopen hcls hroom hfree => ?_, fun hst hopen hcls hsweep hfree => ?_,
      fun hst hcls hout => ?_⟩
    · exact congrArg _ (hsends hop (State.judgeRegion_loadingWrite htag hst hop) hfree)
    · exact congrArg _ (hsends hop (hreadOld hst hopen (by simp [hcls]) (.inl ⟨hcls, hroom⟩)) hfree)
    · have hdue := hsweep.imp_right (Or.imp_right (Or.inl (b := false = true)))
      exact congrArg _ (hsends hop (hreadOld hst hopen (by simp [hcls]) (.inr ⟨hcls, hdue⟩)) hfree)
    · exact congrArg _ (hfails hop ((hwrite hst).trans (if_pos hcls)) hout)
  · exact congrArg _ (hfails hop (State.judgeRegion_atomic htag hst hop) hout)

end Sys2Proof.Machine

/-! # The rows of the gate's completions

MEMORY_RESPONSE, DIRECT_WRITE_COMPLETE and FOLD_WALKER_PASS (R36, R43, R44, R47, R48, R51, R55, R330). -/

namespace Sys2Proof.Machine

/-! ## A line in the stack -/

theorem length_leBytes (n v : Nat) : (leBytes n v).length = n := by
  induction n generalizing v with
  | zero => rfl
  | succ n ih => simp [leBytes, ih]

theorem length_lineBytes (l : Line) : (lineBytes l).length = 64 := length_leBytes 64 _

/-- A line lies in the stack. -/
theorem lineNo_bound (a : BitVec 36) : 64 * lineNo a + 64 ≤ Config.stackBytes := by
  have ha : a.toNat < 2 ^ 36 := a.isLt
  simp only [lineNo, Config.stackBytes]
  omega

theorem State.mem_rising {s : State} (h : s.memWf = true) : NMap.rising s.mem = true := by
  simp only [State.memWf, Bool.and_eq_true] at h
  exact Mem.wf_rising h.1.1

/-- A line written reads back, and no byte outside it moves. -/
theorem State.putBytes_line {s : State} (a : BitVec 36) (l : Line) (h : s.memWf = true) :
    (s.putBytes (64 * lineNo a) (lineBytes l)).bytesAt (64 * lineNo a) 64 = lineBytes l ∧
      ∀ x : Nat, ¬ (64 * lineNo a ≤ x ∧ x < 64 * lineNo a + 64) →
        Mem.read (s.putBytes (64 * lineNo a) (lineBytes l)).mem x = Mem.read s.mem x := by
  have hlen := length_lineBytes l
  have hbound := lineNo_bound a
  rw [← hlen] at hbound
  refine ⟨?_, fun x hx => ?_⟩
  · have hread := Mem.readN_writeN_self (lineBytes l) (State.mem_rising h) hbound
    rwa [hlen] at hread
  · exact Mem.read_writeN_other (lineBytes l) (State.mem_rising h) hbound (by rwa [hlen])

/-! ## A request answered -/

/-- The state with a request taken off the controller's. -/
def State.dropMq (s : State) (id : BitVec 12) : State :=
  { s with gate := { s.gate with mq := s.gate.mq.filter fun x => x.id != id } }

section
variable {s : State} {m : MqReq} {r : MsResp}

theorem State.answerMq_read (hk : m.kind = .read) (he : r.err.toNat < 2) :
    s.answerMq m r = (s.dropMq m.id).respond m.nqId .ok 0 r.data := by
  simp [State.answerMq, hk, Nat.not_le.2 he, State.dropMq]

theorem State.answerMq_readBad (hk : m.kind = .read) (he : 2 ≤ r.err.toNat) (hdir : s.inDir r.addr.toNat = false) :
    s.answerMq m r = ((s.dropMq m.id).lineBad m).queueRepairAt m.addr.toNat := by
  simp [State.answerMq, hk, he, hdir, State.dropMq]

theorem State.answerMq_write (hk : m.kind = .write) (he : r.err.toNat < 2) :
    s.answerMq m r = ((s.dropMq m.id).putBytes (64 * lineNo m.addr)
      (lineBytes (mergeLine m.be (lineOf (s.bytesAt (64 * lineNo m.addr) 64)) m.data))).ok m.nqId := by
  have hgood : decide (2 ≤ r.err.toNat) = false := decide_eq_false (Nat.not_le.2 he)
  simp only [State.answerMq, hk, hgood]
  rfl

theorem State.answerMq_atomic (hk : m.kind = .atomic) (he : r.err.toNat < 2) :
    s.answerMq m r = (State.putBytes { s.dropMq m.id with free := s.free + 1 } (64 * lineNo m.addr)
      (lineBytes (Config.atomicLine s.free))).respond m.nqId .ok 0 r.data := by
  simp [State.answerMq, hk, Nat.not_le.2 he, State.dropMq]

end

/-- A corrected error is counted (R55). -/
def GateS.corrects (g : GateS) (err : BitVec 2) : BitVec 64 := if err = 1 then g.corrected + 1 else g.corrected

theorem GateS.corrects_uncorrectable (g : GateS) {err : BitVec 2} (h : 2 ≤ err.toNat) : g.corrects err = g.corrected := by
  have hne : err ≠ 1 := by
    rintro rfl
    exact absurd h (by decide)
  exact if_neg hne

theorem State.noteCorrected_eq (s : State) (err : BitVec 2) :
    s.noteCorrected err = { s with gate := { s.gate with corrected := s.gate.corrects err } } := by
  unfold State.noteCorrected GateS.corrects
  split <;> rfl

/-- A request marked with the response that has come for it. -/
def MqReq.answered (r : MsResp) (m : MqReq) : MqReq := if m.id = r.id then { m with got := some r } else m

@[simp] theorem MqReq.answered_id (r : MsResp) (m : MqReq) : (m.answered r).id = m.id := by
  unfold MqReq.answered
  split <;> rfl

@[simp] theorem MqReq.answered_line (r : MsResp) (m : MqReq) : (m.answered r).line = m.line := by
  unfold MqReq.answered
  split <;> rfl

/-- Marking requests and then selecting by what the mark leaves is selecting and then marking. -/
theorem filter_answered (r : MsResp) (p : MqReq → Bool) (hp : ∀ m, p (m.answered r) = p m) (l : List MqReq) :
    (l.map (MqReq.answered r)).filter p = (l.filter p).map (MqReq.answered r) := by
  rw [List.filter_map]
  congr 2
  exact funext hp

/-- With the answered request gone no mark is left. -/
theorem filter_answered_ne (r : MsResp) (l : List MqReq) :
    (l.map (MqReq.answered r)).filter (fun x => x.id != r.id) = l.filter fun x => x.id != r.id := by
  rw [filter_answered r _ fun m => by rw [MqReq.answered_id]]
  refine (List.map_congr_left fun m hm => ?_).trans (List.map_id _)
  have hne : m.id ≠ r.id := by simpa using (List.mem_filter.1 hm).2
  exact if_neg hne

/-! ## A response -/

/-- The state once a response has come for a request that answers at once: the request gone, a corrected error counted. -/
def State.taken (s : State) (r : MsResp) : State :=
  { s with gate := { s.gate with mq := s.gate.mq.filter (fun x => x.id != r.id), corrected := s.gate.corrects r.err } }

/-- The state with every request a response is for marked with it, a corrected error counted. -/
def State.marked (s : State) (r : MsResp) : State :=
  { s with gate := { s.gate with mq := s.gate.mq.map (MqReq.answered r), corrected := s.gate.corrects r.err } }

theorem State.marked_dropMq (s : State) (r : MsResp) : (s.marked r).dropMq r.id = s.taken r := by
  simp only [State.dropMq, State.marked, State.taken, filter_answered_ne]

section
variable {s : State} {r : MsResp} {m : MqReq} (hover : r.id ∉ s.flt.overdue) (hid : m.id = r.id)
  (hfind : s.gate.mq.find? (fun x => x.id == r.id) = some m)
  (hline : s.gate.mq.filter (fun x => x.line == m.line) = [m])
include hover hid hfind hline

/-- A response for the one request to its line answers it at once (R51). -/
theorem State.memResponse_oldest (hk : m.kind ≠ .readOld) :
    s.memResponse r = (s.marked r).answerMq m r := by
  have hmarked : m.answered r = { m with got := some r } := if_pos hid
  have hwaiting : (s.marked r).gate.mq.filter (fun x => x.line == m.line) = [{ m with got := some r }] := by
    rw [State.marked, filter_answered r _ fun x => by rw [MqReq.answered_line], hline, List.map_singleton, hmarked]
  have hanswered : s.memResponse r = (s.marked r).answerLine m.line := by
    simp only [State.memResponse, State.noteCorrected_eq, List.contains_eq_mem, hover, hfind, hk]
    rfl
  rw [hanswered, State.answerLine, hwaiting]
  rfl

theorem State.memResponse_read (hk : m.kind = .read) (he : r.err.toNat < 2) :
    s.memResponse r = (s.taken r).respond m.nqId .ok 0 r.data := by
  rw [State.memResponse_oldest hover hid hfind hline (by simp [hk]), State.answerMq_read hk he, ← State.marked_dropMq, hid]

theorem State.memResponse_readBad (hk : m.kind = .read) (he : 2 ≤ r.err.toNat) (hdir : s.inDir r.addr.toNat = false) :
    s.memResponse r = ((s.taken r).lineBad m).queueRepairAt m.addr.toNat := by
  rw [State.memResponse_oldest hover hid hfind hline (by simp [hk]), State.answerMq_readBad (s := s.marked r) hk he hdir,
    ← State.marked_dropMq, hid]

theorem State.memResponse_write (hk : m.kind = .write) (he : r.err.toNat < 2) :
    s.memResponse r = ((s.taken r).putBytes (64 * lineNo m.addr)
      (lineBytes (mergeLine m.be (lineOf (s.bytesAt (64 * lineNo m.addr) 64)) m.data))).ok m.nqId := by
  rw [State.memResponse_oldest hover hid hfind hline (by simp [hk]), State.answerMq_write hk he, ← State.marked_dropMq, hid]
  rfl

theorem State.memResponse_atomic (hk : m.kind = .atomic) (he : r.err.toNat < 2) :
    s.memResponse r = (State.putBytes { s.taken r with free := s.free + 1 } (64 * lineNo m.addr)
      (lineBytes (Config.atomicLine s.free))).respond m.nqId .ok 0 r.data := by
  rw [State.memResponse_oldest hover hid hfind hline (by simp [hk]), State.answerMq_atomic hk he, ← State.marked_dropMq, hid]
  rfl

end

/-- An overdue response only frees its MQ_ID (R330). -/
theorem State.memResponse_overdue {s : State} {r : MsResp} (h : r.id ∈ s.flt.overdue) : s.memResponse r = { s with
    flt := { s.flt with overdue := s.flt.overdue.filter (· != r.id) }
    gate := { s.gate with corrected := s.gate.corrects r.err } } := by
  simp only [State.memResponse, State.noteCorrected_eq, List.contains_eq_mem, h]
  rfl

theorem exec_memoryResponse {s : State} (r : MsResp) (hp : s.portsUp = true) :
    exec (.memoryResponse r) s = .next (s.memResponse r).unpark := congrArg Host.Outcome.next (if_pos hp)

/-! ## A read-old write -/

theorem exec_directWriteComplete {s : State} {m : MqReq} (hp : s.portsUp = true)
    (hfind : s.gate.mq.find? (fun x => x.kind == .readOld && x.nqId == m.nqId) = some m) :
    exec (.directWriteComplete m.nqId) s = .next (s.completeWrite m).unpark := by
  have hexec : exec (.directWriteComplete m.nqId) s = execDirectWriteComplete m.nqId s := rfl
  simp only [hexec, execDirectWriteComplete, hp, hfind]
  rfl

/-- A read-old write as it is judged once more, its old line having come (R49). -/
def MqReq.again (m : MqReq) (c : Nat) : Parked :=
  { q := { space := 0, op := 1, aop := m.aop, addr := BitVec.ofNat 36 (64 * m.line), tag := m.tag, id := m.nqId
           be := m.be, data := m.data }
    n := m.n, why := .line, ctx := some c, due := m.due }

/-- A read-old write that still may be made is merged (R47, R49). -/
theorem State.completeWrite_merges {s : State} {m : MqReq} {e : Entry} {i : Fin 64} {c p : Nat}
    (hpanel : m.panel = some (c, p)) (hentry : s.entry c = some e) (hten : s.tenantOf e.tenant = some i)
    (htag : m.tag = e.tenant) (hmode : s.flt.mode = .normal) (hst : e.state = .active)
    (hopen : (s.ten i).commit.isOpen = true) (hwindow : (s.ten i).commit.window = false) (h : s.takesReadOld i e m.due) :
    s.completeWrite m = (s.dropMq m.id).mergeWrite m.nqId (m.line % 64) m.be m.data c p e i := by
  have hskim : e.cls ≠ .skim := by
    rcases h with ⟨hcls, -⟩ | ⟨hcls, -⟩ <;> simp [hcls]
  have hjudge := (State.judgeRegion_write (s := s.dropMq m.id) (x := m.again c) (c := c) htag hst hten rfl).trans
    ((if_neg hskim).trans (State.judgeWrite_readOld rfl hopen hwindow h))
  have hentry : (s.dropMq m.id).entry c = some e := hentry
  have hten : (s.dropMq m.id).tenantOf e.tenant = some i := hten
  have hdrop : s.dropMq m.id = { s with gate := { s.gate with mq := s.gate.mq.filter fun x => x.id != m.id } } := rfl
  rw [MqReq.again] at hjudge
  simp only [State.completeWrite, hpanel, ← hdrop, hentry, hten, hmode, hjudge, reduceCtorEq, ne_eq, not_true, if_false]

/-! ## The fold walker -/

theorem State.foldWord_frame (s : State) (w : Nat) : ∃ mem : NMap Byte, s.foldWord w = { s with mem := mem } := ⟨_, rfl⟩

/-- Folding records writes the stack alone. -/
theorem State.foldWords_frame (l : List Nat) (s : State) :
    ∃ mem : NMap Byte, l.foldl (fun s w => s.foldWord w) s = { s with mem := mem } := by
  induction l generalizing s with
  | nil => exact ⟨s.mem, rfl⟩
  | cons w l ih =>
    obtain ⟨_, hword⟩ := s.foldWord_frame w
    obtain ⟨mem, hrest⟩ := ih (s.foldWord w)
    rw [hword] at hrest
    exact ⟨mem, by rw [List.foldl_cons, hword]; exact hrest⟩

/-- A tenant with every attempt number free again (R44). -/
def TenantS.freed (t : TenantS) : TenantS := { t with commit := { t.commit with unfolded := 0 } }

/-- The tenants of a list with every attempt number free again. -/
def State.freeAttempts (s : State) (l : List (Fin 64)) : State := l.foldl (fun s i => s.updTen i TenantS.freed) s

theorem State.freeAttempts_frame (s : State) (l : List (Fin 64)) :
    s.freeAttempts l = { s with tenants := (s.freeAttempts l).tenants } := by
  induction l generalizing s with
  | nil => rfl
  | cons i l ih => exact ih (s.updTen i TenantS.freed)

theorem State.freeAttempts_ten (s : State) (l : List (Fin 64)) (j : Fin 64) :
    (s.freeAttempts l).ten j = if j ∈ l then (s.ten j).freed else s.ten j := by
  induction l generalizing s with
  | nil => rfl
  | cons i l ih =>
    refine (ih (s.updTen i TenantS.freed)).trans ?_
    by_cases hj : j = i
    · subst hj
      simp [TenantS.freed]
    · simp [State.updTen_other, hj]

theorem mem_tenantIdxs (i : Fin 64) : i ∈ tenantIdxs := List.mem_finRange i

theorem exec_foldWalkerPass_idle {s : State} (h : s.gate.ready = false ∨ s.flt.mode ≠ .normal) :
    exec .foldWalkerPass s = .next s := by
  have hexec : exec .foldWalkerPass s = execFoldWalkerPass s := rfl
  rcases h with h | h <;> simp [hexec, execFoldWalkerPass, h]

/-- A pass of the fold walker, then the openings that waited for it (R44). -/
theorem exec_foldWalkerPass_pass {s : State} (hready : s.gate.ready = true) (hmode : s.flt.mode = .normal) :
    exec .foldWalkerPass s = .next (tenantIdxs.foldl
      (fun s i => if (s.ten i).commit.openDue then (s.tryOpen i).follow i else s)
      ((s.liveRecords.foldl (fun s w => s.foldWord w) s).freeAttempts tenantIdxs)) := by
  have hexec : exec .foldWalkerPass s = execFoldWalkerPass s := rfl
  simp only [hexec, execFoldWalkerPass, hready, hmode]
  rfl

/-! ## The statement -/

/-- Settles O12: the answers by the kind of request, then the merge and the pass, each by the lemma on its row. -/
theorem gateCompletionRowsComplete : Obligations.GateCompletionRowsComplete := by
  refine ⟨fun s r m hp hover hid hfind hline => ?_, fun s r hp hover => ?_,
    fun s m e i c p hp hfind hpanel hentry hten htag hmode hst hopen hwindow h => ?_, fun s => ⟨exec_foldWalkerPass_idle, ?_⟩⟩
  · rw [exec_memoryResponse r hp, hid]
    intro mq ns corrected
    refine ⟨fun hk he => ?_, fun hk he hdir => ?_, fun hk he hwf => ?_, fun hk he hwf => ?_⟩
    · rw [State.memResponse_read hover hid hfind hline hk he]
      rfl
    · rw [State.memResponse_readBad hover hid hfind hline hk he hdir, State.taken, GateS.corrects_uncorrectable _ he]
      rfl
    · obtain ⟨hwritten, hother⟩ := State.putBytes_line (s := s.taken r) m.addr
        (mergeLine m.be (lineOf (s.bytesAt (64 * lineNo m.addr) 64)) m.data) hwf
      exact ⟨_, congrArg (fun t : State => Host.Outcome.next t.unpark) (State.memResponse_write hover hid hfind hline hk he),
        rfl, hwritten, hother⟩
    · obtain ⟨hwritten, hother⟩ := State.putBytes_line (s := { s.taken r with free := s.free + 1 }) m.addr
        (Config.atomicLine s.free) hwf
      exact ⟨_, congrArg (fun t : State => Host.Outcome.next t.unpark) (State.memResponse_atomic hover hid hfind hline hk he),
        rfl, hwritten, hother⟩
  · rw [exec_memoryResponse r hp, State.memResponse_overdue hover]
    rfl
  · rw [exec_directWriteComplete hp hfind,
      State.completeWrite_merges hpanel hentry hten htag hmode hst hopen hwindow h]
    rfl
  · intro hready hmode
    obtain ⟨mem, hfolded⟩ := State.foldWords_frame s.liveRecords s
    refine ⟨_, exec_foldWalkerPass_pass hready hmode, ?_, fun i => ?_⟩
    · rw [hfolded]
      exact State.freeAttempts_frame _ _
    · rw [hfolded, State.freeAttempts_ten, if_pos (mem_tenantIdxs i)]
      rfl

end Sys2Proof.Machine

/-! # Zero-word elision

The elided form and its expansion over the words of a raw extent (R79): the mask bits say which words live, and the live
words follow in order. -/

namespace Sys2Proof.Machine

/-! ## Pieces of a list -/

section
variable {α : Type} {k : Nat}

theorem flatten_chunksOf (n : Nat) {l : List α} (h : l.length ≤ k * n) : (chunksOf k n l).flatten = l := by
  induction n generalizing l with
  | zero => simpa [chunksOf] using h
  | succ n ih =>
    cases l with
    | nil => rfl
    | cons a l =>
      have hrest : ((a :: l).drop k).length ≤ k * n := by
        rw [List.length_drop]
        rw [Nat.mul_succ] at h
        omega
      simp only [chunksOf, List.isEmpty_cons, Bool.false_eq_true, if_false, List.flatten_cons, ih hrest,
        List.take_append_drop]

theorem length_drop_chunk {n : Nat} {l : List α} (h : l.length = k * (n + 1)) : (l.drop k).length = k * n := by
  rw [List.length_drop, h, Nat.mul_succ, Nat.add_sub_cancel]

variable (hk : 0 < k)
include hk

/-- A list of whole pieces begins with its first piece. -/
theorem chunksOf_succ (n : Nat) {l : List α} (h : l.length = k * (n + 1)) :
    chunksOf k (n + 1) l = l.take k :: chunksOf k n (l.drop k) := by
  have hne : l.isEmpty = false := by
    rw [List.isEmpty_eq_false_iff, ← List.length_pos_iff, h]
    exact Nat.mul_pos hk n.succ_pos
  simp [chunksOf, hne]

theorem length_chunksOf (n : Nat) {l : List α} (h : l.length = k * n) : (chunksOf k n l).length = n := by
  induction n generalizing l with
  | zero => rfl
  | succ n ih => rw [chunksOf_succ hk n h, List.length_cons, ih (length_drop_chunk h)]

theorem length_of_mem_chunksOf (n : Nat) {l : List α} (h : l.length = k * n) : ∀ c ∈ chunksOf k n l, c.length = k := by
  induction n generalizing l with
  | zero => simp [chunksOf]
  | succ n ih =>
    have hhead : (l.take k).length = k := by
      rw [List.length_take, h]
      exact Nat.min_eq_left (Nat.le_mul_of_pos_right k n.succ_pos)
    rw [chunksOf_succ hk n h]
    exact List.forall_mem_cons.2 ⟨hhead, ih (length_drop_chunk h)⟩

/-- The first pieces of a list, and then those of the rest. -/
theorem chunksOf_add (a m : Nat) {l : List α} (h : l.length = k * (a + m)) :
    chunksOf k (a + m) l = chunksOf k a (l.take (k * a)) ++ chunksOf k m (l.drop (k * a)) := by
  induction a generalizing l with
  | zero => simp [chunksOf]
  | succ a ih =>
    have hsum : a + 1 + m = a + m + 1 := by omega
    rw [hsum] at h ⊢
    have hfirst : (l.take (k * (a + 1))).length = k * (a + 1) := by
      rw [List.length_take, h]
      exact Nat.min_eq_left (Nat.mul_le_mul_left k (by omega))
    have htake : (l.take (k * (a + 1))).take k = l.take k := by
      rw [List.take_take, Nat.min_eq_left (Nat.le_mul_of_pos_right k a.succ_pos)]
    have hdrop : (l.take (k * (a + 1))).drop k = (l.drop k).take (k * a) := by
      rw [List.drop_take, Nat.mul_succ, Nat.add_sub_cancel]
    have hrest : l.drop (k * (a + 1)) = (l.drop k).drop (k * a) := by
      rw [List.drop_drop, Nat.mul_succ, Nat.add_comm]
    rw [chunksOf_succ hk _ h, chunksOf_succ hk a hfirst, htake, hdrop, hrest, ih (length_drop_chunk h), List.cons_append]

/-- Cutting into pieces of pieces. -/
theorem chunksOf_flatMap (a : Nat) (ha : 0 < a) (n : Nat) {l : List α} (h : l.length = k * a * n) :
    (chunksOf (k * a) n l).flatMap (chunksOf k a) = chunksOf k (a * n) l := by
  induction n generalizing l with
  | zero => rfl
  | succ n ih =>
    have hka : 0 < k * a := Nat.mul_pos hk ha
    have hsum : a * (n + 1) = a + a * n := by rw [Nat.mul_succ, Nat.add_comm]
    rw [chunksOf_succ hka n h, List.flatMap_cons, ih (length_drop_chunk h), hsum,
      chunksOf_add hk a (a * n) (by rw [h, ← hsum, Nat.mul_assoc])]

end

/-! ## Masks -/

theorem testBit_add_bit {m k : Nat} (hm : m < 2 ^ k) (b : Bool) (j : Nat) :
    (m + bit b k).testBit j = if j = k then b else m.testBit j := by
  cases b with
  | false =>
    have htop : m.testBit k = false := Nat.testBit_lt_two_pow hm
    by_cases h : j = k <;> simp [bit, h, htop]
  | true =>
    have hor : m + bit true k = 2 ^ k ||| m := by
      rw [bit, if_pos rfl, Nat.add_comm]
      simpa using Nat.two_pow_add_eq_or_of_lt hm 1
    have htop : m.testBit k = false := Nat.testBit_lt_two_pow hm
    rw [hor, Nat.testBit_or, Nat.testBit_two_pow]
    by_cases h : j = k
    · simp [h]
    · simp [h, Ne.symm h]

theorem add_bit_lt {m k : Nat} (hm : m < 2 ^ k) (b : Bool) : m + bit b k < 2 ^ (k + 1) := by
  rw [Nat.pow_succ]
  cases b <;> simp only [bit] <;> simp <;> omega

/-- A mask set bit by bit from bit `k` on: its bits below `k` stay, and those from `k` on are the words'. -/
theorem foldl_bit (ws : List (List Byte)) (k m : Nat) (hm : m < 2 ^ k) :
    (ws.zipIdx k).foldl (fun m p => m + bit (wordLive p.1) p.2) m < 2 ^ (k + ws.length) ∧
      ∀ j, ((ws.zipIdx k).foldl (fun m p => m + bit (wordLive p.1) p.2) m).testBit j =
        if j < k then m.testBit j else (ws.map wordLive).getD (j - k) false := by
  induction ws generalizing k m with
  | nil =>
    refine ⟨hm, fun j => ?_⟩
    split
    · rfl
    · next h => exact Nat.testBit_lt_two_pow (Nat.lt_of_lt_of_le hm (Nat.pow_le_pow_right (by decide) (Nat.not_lt.1 h)))
  | cons w ws ih =>
    obtain ⟨hlt, hbits⟩ := ih (k + 1) (m + bit (wordLive w) k) (add_bit_lt hm _)
    refine ⟨by rwa [List.length_cons, ← Nat.add_assoc, Nat.add_right_comm], fun j => ?_⟩
    rw [List.zipIdx_cons, List.foldl_cons, hbits, testBit_add_bit hm]
    rcases Nat.lt_trichotomy j k with h | h | h
    · simp [h, Nat.lt_succ_of_lt h, Nat.ne_of_lt h]
    · simp [h]
    · have hnext : j - k = j - (k + 1) + 1 := by omega
      rw [if_neg (by omega), if_neg (by omega), hnext, List.map_cons, List.getD_cons_succ]

section
variable {g : List Byte} (hg : g.length = 64)
include hg

theorem elideMask_lt : elideMask g < 65536 := by
  have h := (foldl_bit (chunksOf 4 16 g) 0 0 (by decide)).1
  rwa [length_chunksOf (by decide) 16 hg] at h

/-- The sixteen mask bits of a group say which of its words live. -/
theorem elideMask_bits : (List.range 16).map (fun j => (elideMask g).testBit j) = (chunksOf 4 16 g).map wordLive := by
  have hlen : (chunksOf 4 16 g).length = 16 := length_chunksOf (by decide) 16 hg
  refine List.ext_getElem (by simp [hlen]) fun j hj hj' => ?_
  have hbit := (foldl_bit (chunksOf 4 16 g) 0 0 (by decide)).2 j
  rw [if_neg (Nat.not_lt_zero j), Nat.sub_zero, List.getD_eq_getElem _ _ hj'] at hbit
  rw [List.getElem_map, List.getElem_range]
  exact hbit

end

/-! ## The masks in a payload -/

theorem leNat_leBytes_two {v : Nat} (h : v < 65536) : leNat (leBytes 2 v) = v := by
  simp only [leBytes, leNat, BitVec.toNat_ofNat]
  omega

theorem slice_append_right (a b : List Byte) (o n : Nat) : slice (a ++ b) (a.length + o) n = slice b o n := by
  simp only [slice, ← List.drop_drop, List.drop_left]

theorem slice_append_left (a b : List Byte) : slice (a ++ b) 0 a.length = a := by
  simp [slice]

/-- The mask of a group stands where the group's number says. -/
theorem leField_masks (ms : List Nat) (rest : List Byte) (hms : ∀ m ∈ ms, m < 65536) (g : Nat) (hg : g < ms.length) :
    leField (ms.flatMap (leBytes 2) ++ rest) (2 * g) 2 = ms[g] := by
  induction ms generalizing g with
  | nil => exact absurd hg (Nat.not_lt_zero g)
  | cons m ms ih =>
    obtain ⟨hm, hms⟩ := List.forall_mem_cons.1 hms
    have hlen : (leBytes 2 m).length = 2 := length_leBytes 2 m
    rw [List.flatMap_cons, List.append_assoc]
    cases g with
    | zero =>
      have hslice := slice_append_left (leBytes 2 m) (ms.flatMap (leBytes 2) ++ rest)
      rw [hlen] at hslice
      rw [leField, hslice, leNat_leBytes_two hm]
      rfl
    | succ g =>
      have hoff : 2 * (g + 1) = (leBytes 2 m).length + 2 * g := by rw [hlen]; omega
      rw [leField, hoff, slice_append_right]
      exact ih hms g (Nat.lt_of_succ_lt_succ hg)

/-! ## The live words -/

/-- A word as the elided form carries it: not at all where it is zero. -/
def keptWord (w : List Byte) : List Byte := if wordLive w then w else []

theorem eq_zeros_of_not_wordLive {w : List Byte} (hlen : w.length = 4) (h : wordLive w = false) : w = [0, 0, 0, 0] := by
  have hzero : w = List.replicate 4 0 := List.eq_replicate_iff.2 ⟨hlen, by simpa [wordLive] using h⟩
  exact hzero

theorem length_flatMap_keptWord {ws : List (List Byte)} (h : ∀ w ∈ ws, w.length = 4) :
    (ws.flatMap keptWord).length = 4 * (ws.filter wordLive).length := by
  induction ws with
  | nil => rfl
  | cons w ws ih =>
    obtain ⟨hw, hws⟩ := List.forall_mem_cons.1 h
    rw [List.flatMap_cons, List.length_append, ih hws, keptWord]
    cases hlive : wordLive w with
    | true => rw [List.filter_cons_of_pos hlive, if_pos rfl, hw, List.length_cons, Nat.mul_succ, Nat.add_comm]
    | false => rw [List.filter_cons_of_neg (by simp [hlive]), if_neg Bool.false_ne_true, List.length_nil, Nat.zero_add]

/-- The words whose mask bits and kept forms are given come back. -/
theorem expandWords_keptWord {ws : List (List Byte)} (h : ∀ w ∈ ws, w.length = 4) :
    expandWords (ws.map wordLive) (ws.flatMap keptWord) = ws.flatten := by
  induction ws with
  | nil => rfl
  | cons w ws ih =>
    obtain ⟨hw, hws⟩ := List.forall_mem_cons.1 h
    rw [List.map_cons, List.flatMap_cons, List.flatten_cons, ← ih hws, keptWord]
    cases hlive : wordLive w with
    | true => rw [if_pos rfl, expandWords, List.take_left' hw, List.drop_left' hw]
    | false => rw [if_neg Bool.false_ne_true, List.nil_append, expandWords, ← eq_zeros_of_not_wordLive hw hlive]

/-! ## The elided form of whole groups -/

section
variable {raw : List Byte} {n : Nat} (h : raw.length = 64 * n)
include h

/-- The masks, then the words that live. -/
theorem elide_eq : elide raw =
    ((chunksOf 64 n raw).map elideMask).flatMap (leBytes 2) ++ (chunksOf 4 (16 * n) raw).flatMap keptWord := by
  have hgroups : raw.length / 64 = n := by omega
  have hwords : raw.length / 4 = 16 * n := by omega
  rw [List.flatMap_map, elide, hgroups, hwords]
  rfl

theorem length_masks : (((chunksOf 64 n raw).map elideMask).flatMap (leBytes 2)).length = 2 * n := by
  rw [List.length_flatMap, List.map_congr_left (g := fun _ => 2) fun m _ => length_leBytes 2 m]
  simp [Function.comp_def, length_chunksOf (by decide : 0 < 64) n h, Nat.mul_comm]

theorem length_of_mem_words : ∀ w ∈ chunksOf 4 (16 * n) raw, w.length = 4 :=
  length_of_mem_chunksOf (by decide) _ (by omega)

/-- The mask bits of the elided form say which words of the raw extent live. -/
theorem elidedBits_elide : elidedBits raw.length (elide raw) = (chunksOf 4 (16 * n) raw).map wordLive := by
  have hgroups : raw.length / 64 = n := by omega
  have hlen : (chunksOf 64 n raw).length = n := length_chunksOf (by decide) n h
  have hgroup := length_of_mem_chunksOf (by decide : 0 < 64) n h
  have hmasks : ∀ m ∈ (chunksOf 64 n raw).map elideMask, m < 65536 := by
    simpa using fun g hg => elideMask_lt (hgroup g hg)
  have hfields : (List.range n).map (fun g => leField (elide raw) (2 * g) 2) = (chunksOf 64 n raw).map elideMask := by
    refine List.ext_getElem (by simp [hlen]) fun g hg hg' => ?_
    rw [List.getElem_map, List.getElem_range, elide_eq h]
    exact leField_masks _ _ hmasks g hg'
  calc elidedBits raw.length (elide raw)
      = ((List.range n).map fun g => leField (elide raw) (2 * g) 2).flatMap
          fun m => (List.range 16).map fun j => m.testBit j := by rw [elidedBits, hgroups, List.flatMap_map]
    _ = (chunksOf 64 n raw).flatMap fun g => (chunksOf 4 16 g).map wordLive := by
          rw [hfields, List.flatMap_map]
          exact List.flatMap_congr fun g hg => elideMask_bits (hgroup g hg)
    _ = (chunksOf 4 (16 * n) raw).map wordLive := by
          rw [← chunksOf_flatMap (by decide) 16 (by decide) n h, List.map_flatMap]

theorem expand_elide : expand raw.length (elide raw) = raw := by
  have hgroups : raw.length / 64 = n := by omega
  rw [expand, elidedBits_elide h, hgroups, elide_eq h, List.drop_left' (length_masks h),
    expandWords_keptWord (length_of_mem_words h), flatten_chunksOf _ (by omega)]

theorem length_elide : (elide raw).length = 2 * n + 4 * ((chunksOf 4 (16 * n) raw).filter wordLive).length := by
  rw [elide_eq h, List.length_append, length_masks h, length_flatMap_keptWord (length_of_mem_words h)]

theorem elidedLen_elide : elidedLen raw.length (elide raw) = (elide raw).length := by
  have hgroups : raw.length / 64 = n := by omega
  rw [elidedLen, elidedBits_elide h, hgroups, length_elide h, List.filter_map, List.length_map]
  rfl

end

/-- Settles O55: both lengths are whole groups, for which the mask bits of the elided form are the words' own. -/
theorem elisionRoundTrip : Obligations.ElisionRoundTrip := by
  intro raw hraw
  obtain ⟨n, h⟩ : ∃ n, raw.length = 64 * n := by
    rcases hraw with h | h
    · exact ⟨4, h⟩
    · exact ⟨64, h⟩
  have hgroups : raw.length / 64 = n := by omega
  have hwords : raw.length / 4 = 16 * n := by omega
  exact ⟨expand_elide h, (elidedLen_elide h).symm, by rw [hgroups, hwords]; exact length_elide h⟩

end Sys2Proof.Machine

/-! # The first checks of a received frame

What `State.receive` does with a frame that the ports, the block's own state or the first two checks of R75 keep out, and
that every frame row is a `State.receive` of its frame (R62, R75). -/

namespace Sys2Proof.Machine

section
variable {s : State} {f : Rx} (c : Check) (k : State → Fin 64 → State)

theorem State.receive_portsDown (hp : s.portsUp = false) : s.receive f c k = s := by
  simp [State.receive, hp]

variable (hp : s.portsUp = true)
include hp

theorem State.receive_keptOut (htakes : (s.at_ f.time).takesFrame f = false) :
    s.receive f c k = (s.at_ f.time).discard := by
  simp [State.receive, hp, htakes]

variable (htakes : (s.at_ f.time).takesFrame f = true)
include htakes

/-- Check 1 of R75. -/
theorem State.receive_damaged (h : f.eiErr = true ∨ f.crc ≠ frameCrc f) :
    s.receive f c k = (s.at_ f.time).frameEvent f 0x41 := by
  simp [State.receive, hp, htakes, h]

/-- The version, of check 2 of R75. -/
theorem State.receive_otherVersion (herr : f.eiErr = false) (hcrc : f.crc = frameCrc f) (hver : f.ver ≠ 3) :
    s.receive f c k = (s.at_ f.time).frameEvent f 0x42 := by
  simpa [State.receive, hp, htakes, herr, hcrc] using fun h => absurd h hver

end

/-- A command takes its frame by the checks of R75. -/
def Receives (s : State) (f : Rx) (c : Instr) : Prop :=
  ∃ (r : Check) (k : State → Fin 64 → State), exec c s = .next (s.receive f r k)

/-- The commands of the received frames that are judged by every check of R75. -/
def frameRows (f : Rx) (flt : ReadFault) : List Instr :=
  [.heartbeat f, .fence f, .discover f, .discoverReply f, .membershipQuerySync f, .membershipQueryWitness f,
    .membershipQueryAnswer f, .membershipQueryReport f, .membershipUpdate f, .skimDelta f flt, .skimAck f, .epochMark f,
    .commitPrep f, .commitVote f, .commitDecide f, .stepAbortRequest f, .stepAbortDecision f, .intake f,
    .badgerReq f flt, .badgerReqDigestOnly f, .badgerPart f, .render f, .digestXRebuild f, .completionRecord f,
    .handoverOffer f, .handoverTaken f, .handoverRefused f, .auditReq f flt, .auditPart f, .auditCorrection f,
    .auditRelease f, .digestXLockstep f, .resliceCount f, .resliceDone f, .resliceResend f, .resliceSealed f,
    .resliceCancel f, .resliceMove f, .statusQuery f, .statusReply f]

/-- A lockstep digest is checked for the pair it names, or, where there is none, as a frame of no defined form. -/
theorem receives_digestXLockstep (s : State) (f : Rx) : Receives s f (.digestXLockstep f) := by
  have hexec : exec (.digestXLockstep f) s = execDigestXLockstep f s := rfl
  rw [Receives, hexec, execDigestXLockstep]
  split
  · exact ⟨_, _, rfl⟩
  · exact ⟨_, _, rfl⟩

theorem receives_of_mem_frameRows (s : State) {f : Rx} {flt : ReadFault} {c : Instr} (hc : c ∈ frameRows f flt) :
    Receives s f c := by
  by_cases hlockstep : c = .digestXLockstep f
  · exact hlockstep ▸ receives_digestXLockstep s f
  · simp only [frameRows, List.mem_cons, List.not_mem_nil, or_false, hlockstep, false_or] at hc
    rcases hc with rfl | rfl | rfl | rfl | rfl | rfl | rfl | rfl | rfl | rfl | rfl | rfl | rfl | rfl | rfl |
      rfl | rfl | rfl | rfl | rfl | rfl | rfl | rfl | rfl | rfl | rfl | rfl |
      rfl | rfl | rfl | rfl | rfl | rfl | rfl | rfl | rfl | rfl | rfl | rfl
    all_goals exact ⟨_, _, rfl⟩

/-- Settles O58: every row receives its frame, and the checks that come first do not depend on the row. -/
theorem frameChecksComeFirst : Obligations.FrameChecksComeFirst := by
  intro s f flt c hc
  obtain ⟨r, k, hexec⟩ := receives_of_mem_frameRows s (f := f) (flt := flt) hc
  rw [hexec]
  refine ⟨fun hp => congrArg _ (State.receive_portsDown r k hp), fun hp =>
    ⟨fun hout => congrArg _ (State.receive_keptOut r k hp hout), fun htakes => ⟨fun h => ?_, fun herr hcrc hver => ?_⟩⟩⟩
  · exact congrArg _ (State.receive_damaged r k hp htakes h)
  · exact congrArg _ (State.receive_otherVersion r k hp htakes herr hcrc hver)

end Sys2Proof.Machine

/-! # Time, counters and copies of the endpoint's rows

What the rows of the endpoint share: the host time brought up, an occurrence counted, and a copy formed for an addressee
(R28, R29, R80, R398). -/

namespace Sys2Proof.Machine

/-! ## Time and counters -/

/-- The host time brought up moves the time alone. -/
theorem State.at_frame (s : State) (t : BitVec 64) : s.at_ t = { s with time := (s.at_ t).time } := by
  unfold State.at_
  split <;> rfl

theorem State.reach_frame (s : State) (since : BitVec 64) (ns : Nat) :
    s.reach since ns = { s with time := (s.reach since ns).time } := by
  unfold State.reach
  split
  · exact s.at_frame _
  · rfl

theorem State.count_counter_self (s : State) (k : Nat) : (s.count k).counter k = s.counter k + 1 := by
  simp [State.counter, State.count, State.countN]

theorem State.count_counter_other (s : State) {j k : Nat} (h : j ≠ k) : (s.count k).counter j = s.counter j := by
  simp only [State.counter, State.count, State.countN, State.updFlt_flt, NMap.get?_insert_other _ _ h]

/-! ## A copy for an addressee -/

/-- A record with one more retransmission to an address that owed it as `o` says. -/
def HawkRec.retried (r : HawkRec) (a : Addr) (o : Owed) : HawkRec :=
  { r with owed := r.owed.map fun x => if x.addr = a then { o with tries := o.tries + 1 } else x }

/-- A copy goes to the addressee, and the one that has left sixteen unacknowledged is reported (R80). -/
theorem State.retransmit_owed {s : State} {i : Fin 64} {r : HawkRec} {a : Addr} {o : Owed}
    (h : r.owed.find? (fun x => x.addr == a) = some o) : s.retransmit i r a =
      if o.tries = 16 then
        (((s.replaceRec r (r.retried a o)).sendCopy i r a).raiseT i 0x4A a.toNat).unreachable i a
      else (s.replaceRec r (r.retried a o)).sendCopy i r a := by
  simp only [State.retransmit, h]
  rfl

/-- A frame of the Hawk buffer that may be formed waits on the SKIM channel. -/
theorem State.sendCopy_forms {s : State} {i : Fin 64} {r : HawkRec} {a : Addr}
    (h : s.mayForm (s.hawkFrame i r (.member a) true) = true) : s.sendCopy i r a =
      { s with ep := { s.ep with skimQ := s.ep.skimQ ++ [s.hawkFrame i r (.member a) true] } } := by
  rw [State.sendCopy, State.send, h]
  rfl

end Sys2Proof.Machine

/-! # The retransmission deadline

SKIM_RETRANSMIT_TIMEOUT and the wait it restarts (R80, R81). -/

namespace Sys2Proof.Machine

/-- A record in OUT of a slot under a number that an address still owes. -/
def HawkRec.owedIn (slot : Nat) (seq : BitVec 32) (peer : Addr) (r : HawkRec) : Bool :=
  r.slot.val == slot && r.st == .out && r.seq == some seq.toNat && r.owed.any fun o => o.addr == peer

section
variable {s : State} {slot : Nat} {seq : BitVec 32} {peer : Addr}

theorem exec_skimRetransmitTimeout_idle
    (h : s.slotTenant slot = none ∨ s.hawk.recs.find? (HawkRec.owedIn slot seq peer) = none ∨ s.endpointUp = false ∨
      s.mayInject = false) : exec (.skimRetransmitTimeout slot seq peer) s = .next s := by
  have hexec : exec (.skimRetransmitTimeout slot seq peer) s = execSkimRetransmitTimeout slot seq peer s := rfl
  rw [hexec, execSkimRetransmitTimeout]
  split
  · next i r hten hfind =>
    have hshut : s.endpointUp = false ∨ s.mayInject = false := by
      rcases h with h | h | h
      · exact absurd (h.symm.trans hten) (by simp)
      · exact absurd (h.symm.trans hfind) (by simp)
      · exact h
    rcases hshut with h | h <;> simp [h]
  · rfl

variable {r : HawkRec} (hfind : s.hawk.recs.find? (HawkRec.owedIn slot seq peer) = some r)
include hfind

/-- No deadline runs while a copy waits. -/
theorem exec_skimRetransmitTimeout_waiting (h : s.copyWaits r peer = true) :
    exec (.skimRetransmitTimeout slot seq peer) s = .next s := by
  have hexec : exec (.skimRetransmitTimeout slot seq peer) s = execSkimRetransmitTimeout slot seq peer s := rfl
  rw [hexec, execSkimRetransmitTimeout]
  split
  · next i r' _ hfind' =>
    obtain rfl : r = r' := Option.some.inj (hfind.symm.trans hfind')
    simp [h]
  · rfl

theorem exec_skimRetransmitTimeout_passed {i : Fin 64} {o : Owed} (hten : s.slotTenant slot = some i)
    (howed : r.owed.find? (fun o => o.addr == peer) = some o) (hup : s.endpointUp = true) (hinject : s.mayInject = true)
    (hwaits : s.copyWaits r peer = false) :
    exec (.skimRetransmitTimeout slot seq peer) s = .next ((s.at_ o.due).retransmit i r peer) := by
  have hexec : exec (.skimRetransmitTimeout slot seq peer) s = execSkimRetransmitTimeout slot seq peer s := rfl
  rw [hexec, execSkimRetransmitTimeout]
  split
  · next i' r' hten' hfind' =>
    obtain rfl : r = r' := Option.some.inj (hfind.symm.trans hfind')
    obtain rfl : i = i' := Option.some.inj (hten.symm.trans hten')
    simp [hup, hinject, hwaits, howed]
  · next hnone => exact absurd hfind (hnone i r hten)

end

/-- The wait after a copy is twice the wait before it, and no more than eight times the first. -/
theorem State.waitNs_succ (s : State) (n : Nat) : s.waitNs (n + 1) = min (2 * s.waitNs n) (8 * s.waitNs 0) := by
  have hstep : min 8 (2 ^ min 3 (n + 1)) = min (2 * min 8 (2 ^ min 3 n)) 8 := by
    match n with
    | 0 | 1 | 2 => rfl
    | n + 3 =>
      have h : min 3 (n + 3) = 3 ∧ min 3 (n + 3 + 1) = 3 := by omega
      rw [h.1, h.2]
      rfl
  have hfirst : s.waitNs 0 = s.rtoNs := Nat.mul_one _
  rw [hfirst, State.waitNs, State.waitNs, hstep, ← Nat.mul_min_mul_left]
  congr 1
  · exact Nat.mul_left_comm _ _ _
  · exact Nat.mul_comm _ _

/-- Settles O16: where the deadline runs it is one retransmission, and the wait doubles by the factors of `waitNs`. -/
theorem retransmissionRowCompletes : Obligations.RetransmissionRowCompletes := by
  refine ⟨fun s slot seq peer => ⟨fun i r o hten hfind howed hup hinject hwaits => ?_, exec_skimRetransmitTimeout_idle,
    fun r => exec_skimRetransmitTimeout_waiting⟩, fun s => ⟨Nat.mul_one _, s.waitNs_succ⟩⟩
  rw [exec_skimRetransmitTimeout_passed hfind hten howed hup hinject hwaits, State.retransmit_owed howed,
    State.replaceRec, State.at_hawk]
  exact ⟨fun h => congrArg _ (if_neg h), fun h => congrArg _ (if_pos h)⟩

end Sys2Proof.Machine

/-! # The route control

ROUTE_REQ, ROUTE_RESUME, the drain's ends and the wait's end (R83, R395). -/

namespace Sys2Proof.Machine

/-! ## The commands -/

theorem exec_routeReq (a : Acc) (s : State) : exec (.routeReq a) s = execRouteReq a s := rfl

theorem exec_routeResume (a : Acc) (s : State) : exec (.routeResume a) s = execRouteResume a s := rfl

section
variable {s : State} {a : Acc}

section
variable (hp : s.portsUp = true) (h : ¬ (s.windowOpen 0x5028 = true ∧ fromSystem a = true))
include hp h

theorem exec_routeReq_refused : exec (.routeReq a) s = .next (s.refuse a.id 0x5028) := by
  rw [exec_routeReq, execRouteReq, State.window_refuses _ hp (by simpa [imp_iff_not_or] using h)]

theorem exec_routeResume_refused : exec (.routeResume a) s = .next (s.refuse a.id 0x5028) := by
  rw [exec_routeResume, execRouteResume, State.window_refuses _ hp (by simpa [imp_iff_not_or] using h), ite_self]

end

section
variable (h : windowTakes s a 0x5028)
include h

theorem exec_routeReq_idle (hroute : s.ep.route = .idle) : exec (.routeReq a) s =
    .next ((s.ok a.id).updEp fun e => { e with route := .draining, auto := false, drainFrom := s.time.now }) := by
  rw [exec_routeReq, execRouteReq, State.window_takes _ _ h]
  simp only [State.ok_ep, hroute]
  rfl

theorem exec_routeReq_draining (hroute : s.ep.route = .draining) : exec (.routeReq a) s = .next (s.ok a.id) := by
  rw [exec_routeReq, execRouteReq, State.window_takes _ _ h]
  simp only [State.ok_ep, hroute]

theorem exec_routeReq_drained (hroute : s.ep.route = .drained) : exec (.routeReq a) s =
    .next ((s.ok a.id).updEp fun e => { e with resumeFrom := s.time.now }) := by
  rw [exec_routeReq, execRouteReq, State.window_takes _ _ h]
  simp only [State.ok_ep, hroute]
  rfl

theorem exec_routeResume_draining (hroute : s.ep.route = .draining) :
    exec (.routeResume a) s = .next (s.refuse a.id 0x5028) := by
  rw [exec_routeResume, execRouteResume, if_pos ⟨hroute, h⟩]

theorem exec_routeResume_taken (hroute : s.ep.route ≠ .draining) : exec (.routeResume a) s =
    .next (if s.ep.route = .drained then (s.ok a.id).routeIdle false else s.ok a.id) := by
  rw [exec_routeResume, execRouteResume, if_neg fun hdrain => hroute hdrain.1, State.window_takes _ _ h]
  rfl

end
end

/-! ## The drain -/

/-- The state with the drain at its end: the frames still outstanding are the marked ones (R83). -/
def State.drainedEp (s : State) : EpS :=
  { s.ep with
    route := .drained, resumeFrom := s.time.now, marked := BitVec.ofNat 16 s.skimOutstanding.length
    markedList := s.skimOutstanding.flatMap fun r => r.owed.map fun o => (r.slot.val, r.seq.getD 0, o.addr) }

/-- The drain's end writes the endpoint and counts. -/
theorem State.routeDrain_frame (s : State) :
    s.routeDrain = { s with flt := { s.flt with counters := s.routeDrain.flt.counters }, ep := s.drainedEp } := rfl

theorem State.routeDrain_counter_self (s : State) : s.routeDrain.counter 0x4F = s.counter 0x4F + 1 :=
  State.count_counter_self { s with ep := s.drainedEp } 0x4F

theorem State.routeDrain_counter_other (s : State) {k : Nat} (h : k ≠ 0x4F) : s.routeDrain.counter k = s.counter k :=
  State.count_counter_other { s with ep := s.drainedEp } h

/-- An addressee is marked where a frame still outstanding is owed to it. -/
theorem State.mem_drainedEp_markedList (s : State) (m : Nat × Nat × Addr) : m ∈ s.drainedEp.markedList ↔
    ∃ r ∈ s.skimOutstanding, ∃ o ∈ r.owed, m = (r.slot.val, r.seq.getD 0, o.addr) := by
  simp only [State.drainedEp, List.mem_flatMap, List.mem_map, eq_comm (a := m)]

/-- With nothing outstanding nothing is marked. -/
theorem State.drainedEp_nil {s : State} (h : s.skimOutstanding = []) :
    s.drainedEp = { s.ep with route := .drained, resumeFrom := s.time.now, marked := 0, markedList := [] } := by
  rw [State.drainedEp, h]
  rfl

theorem exec_routeDrained_ends {s : State} (hroute : s.ep.route = .draining) (hskim : s.skimOutstanding = [])
    (hbadger : s.badgerOutstanding = false) : exec .routeDrained s = .next s.routeDrain :=
  congrArg Host.Outcome.next (if_pos ⟨hroute, by rw [hskim]; rfl, by rw [hbadger]; rfl⟩)

theorem exec_routeDrained_waits {s : State}
    (h : s.ep.route ≠ .draining ∨ s.skimOutstanding ≠ [] ∨ s.badgerOutstanding = true) :
    exec .routeDrained s = .next s := by
  refine congrArg Host.Outcome.next (if_neg ?_)
  rintro ⟨hroute, hskim, hbadger⟩
  rcases h with h | h | h
  · exact h hroute
  · exact h (List.isEmpty_iff.1 hskim)
  · simp [h] at hbadger

theorem exec_routeDrainTimeout_draining {s : State} (h : s.ep.route = .draining) : exec .routeDrainTimeout s =
    .next (s.reach s.ep.drainFrom (s.cfg.glob.drainTimeout * 1000)).routeDrain :=
  congrArg Host.Outcome.next (if_pos h)

theorem exec_routeDrainTimeout_idle {s : State} (h : s.ep.route ≠ .draining) : exec .routeDrainTimeout s = .next s :=
  congrArg Host.Outcome.next (if_neg h)

theorem exec_resumeWaitExpiry_drained {s : State} (h : s.ep.route = .drained) : exec .resumeWaitExpiry s =
    .next (((s.reach s.ep.resumeFrom (s.cfg.glob.resumeWait * 1000000)).routeIdle true).raise { code := 0x4B }) :=
  congrArg Host.Outcome.next (if_pos h)

theorem exec_resumeWaitExpiry_idle {s : State} (h : s.ep.route ≠ .drained) : exec .resumeWaitExpiry s = .next s :=
  congrArg Host.Outcome.next (if_neg h)

/-! ## IDLE again -/

theorem State.routeIdle_unmarked {s : State} (auto : Bool) (h : s.ep.markedList = []) :
    s.routeIdle auto = { s with ep := { s.ep with route := .idle, auto := auto } } := by
  simp [State.routeIdle, State.updEp, h]

/-- The state back in IDLE, its SKIM channel put aside while the copies are formed. -/
def State.resumed (s : State) (auto : Bool) : State :=
  { s with ep := { s.ep with route := .idle, auto := auto, markedList := [], skimQ := [] } }

/-- The one marked frame goes out again, put before the frames that waited. -/
theorem State.routeIdle_one {s : State} (auto : Bool) {k n : Nat} {a : Addr} {i : Fin 64} {r : HawkRec}
    (hlist : s.ep.markedList = [(k, n, a)]) (hten : s.slotTenant k = some i)
    (hfind : s.hawk.recs.find? (fun r => r.slot.val == k && r.st == .out && r.seq == some n) = some r) :
    s.routeIdle auto = ((s.resumed auto).retransmit i r a).updEp fun e =>
      { e with resumeQ := e.resumeQ ++ e.skimQ, skimQ := s.ep.skimQ } := by
  rw [State.routeIdle, hlist]
  simp only [List.foldl_cons, List.foldl_nil]
  split
  · next i' r' hten' hfind' =>
    obtain rfl : i = i' := Option.some.inj (hten.symm.trans hten')
    obtain rfl : r = r' := Option.some.inj (hfind.symm.trans hfind')
    rfl
  · next hnone => exact absurd hfind (hnone i r hten)

/-- A marked frame that still owes its acknowledgement and may be formed waits before the others (R83). -/
theorem State.routeIdle_marked {s : State} (auto : Bool) {k n : Nat} {i : Fin 64} {r : HawkRec} {o : Owed}
    (hlist : s.ep.markedList = [(k, n, o.addr)]) (hten : s.slotTenant k = some i)
    (hfind : s.hawk.recs.find? (fun r => r.slot.val == k && r.st == .out && r.seq == some n) = some r)
    (howed : r.owed.find? (fun x => x.addr == o.addr) = some o) (htries : o.tries < 16)
    (hform : s.mayForm (s.hawkFrame i r (.member o.addr) true) = true) : s.routeIdle auto =
      { s.replaceRec r (r.retried o.addr o) with ep := { s.ep with
          route := .idle, auto := auto, markedList := []
          resumeQ := s.ep.resumeQ ++ [s.hawkFrame i r (.member o.addr) true] } } := by
  have hforms := State.sendCopy_forms (s := (s.resumed auto).replaceRec r (r.retried o.addr o)) (i := i) (r := r)
    (a := o.addr) hform
  rw [State.routeIdle_one auto hlist hten hfind, State.retransmit_owed howed, if_neg (Nat.ne_of_lt htries), hforms]
  rfl

/-! ## The statement -/

/-- Settles O15: the commands by the state of the sequence, the drain's ends by what they mark and count, and IDLE by
what is marked. -/
theorem routeRowsComplete : Obligations.RouteRowsComplete := by
  refine ⟨fun s a hp => ⟨fun h => ⟨exec_routeReq_refused hp h, exec_routeResume_refused hp h⟩, fun h hroute => ?_,
      fun h hroute => ?_, fun h hroute => ?_⟩,
    fun s => ⟨fun hroute hskim hbadger => ?_, exec_routeDrained_waits, fun hroute => ?_, exec_routeDrainTimeout_idle,
      exec_resumeWaitExpiry_drained, exec_resumeWaitExpiry_idle⟩,
    fun s auto => ⟨State.routeIdle_unmarked auto, fun k n i r o => State.routeIdle_marked auto⟩⟩
  · have hresume := exec_routeResume_taken (a := a) ⟨hp, h⟩ (by simp [hroute])
    exact ⟨exec_routeReq_idle ⟨hp, h⟩ hroute, hresume.trans (congrArg _ (if_neg (by simp [hroute])))⟩
  · exact ⟨exec_routeReq_draining ⟨hp, h⟩ hroute, exec_routeResume_draining ⟨hp, h⟩ hroute⟩
  · have hresume := exec_routeResume_taken (a := a) ⟨hp, h⟩ (by simp [hroute])
    exact ⟨exec_routeReq_drained ⟨hp, h⟩ hroute, hresume.trans (congrArg _ (if_pos hroute))⟩
  · refine ⟨_, exec_routeDrained_ends hroute hskim hbadger, ?_, s.routeDrain_counter_self,
      fun k => s.routeDrain_counter_other⟩
    rw [← State.drainedEp_nil hskim]
    rfl
  · obtain ⟨time, hreach⟩ : ∃ time, s.reach s.ep.drainFrom (s.cfg.glob.drainTimeout * 1000) = { s with time := time } :=
      ⟨_, s.reach_frame _ _⟩
    refine ⟨_, exec_routeDrainTimeout_draining hroute, ?_⟩
    rw [hreach]
    exact ⟨State.routeDrain_frame _, State.mem_drainedEp_markedList _, State.routeDrain_counter_self _,
      fun k => State.routeDrain_counter_other _⟩

end Sys2Proof.Machine

/-! # Group setup

GROUP_SETUP_WRITE, GROUP_SETUP_RESEND, GROUP_SETUP_RETRY and GROUP_CONFIRM (R61, R69, R70, R72). -/

namespace Sys2Proof.Machine

/-! ## The setup frame -/

/-- The groups once a setup frame for `g` has been written: its own await the confirmation of the frame's number. -/
def State.setupGroups (s : State) (g : Group) : List Group :=
  s.ep.groups.map fun x => if x.handle = g.handle then
    { x with setup := .outstanding s.ep.setupSeq, since := s.time.now } else x

theorem State.setupFrame_eq (s : State) (g : Group) : s.setupFrame g = { s with ep := { s.ep with
    setupSeq := s.ep.setupSeq + 1, groups := s.setupGroups g
    setupOut := s.ep.setupOut ++ beatsOf .setup false 0 false (g.setupBytes s.ep.setupSeq) } } := rfl

theorem State.length_setupGroups (s : State) (g : Group) : (s.setupGroups g).length = s.ep.groups.length :=
  List.length_map _

theorem State.setupGroups_own {s : State} {g x : Group} (hx : x ∈ s.setupGroups g) (h : x.handle = g.handle) :
    x.setup = .outstanding s.ep.setupSeq ∧ x.since = s.time.now := by
  obtain ⟨y, -, rfl⟩ := List.mem_map.1 hx
  by_cases hy : y.handle = g.handle
  · simp [hy]
  · exact absurd ((congrArg Group.handle (if_neg hy)).symm.trans h) hy

theorem State.setupGroups_other {s : State} {g x : Group} (hx : x ∈ s.ep.groups) (h : x.handle ≠ g.handle) :
    x ∈ s.setupGroups g := List.mem_map.2 ⟨x, hx, if_neg h⟩

/-! ## The rows of a setup -/

section
variable {s : State} {h : BitVec 10} {ready : Bool}

theorem State.setupGo_iff : s.setupGo ready = true ↔ ready = true ∧ s.endpointUp = true ∧ s.mayInject = true := by
  simp [State.setupGo, and_assoc]

theorem exec_groupSetupWrite_found {g : Group} (hin : s.groupIn h.toNat (fun x => x == .wanted) = some g) :
    exec (.groupSetupWrite ⟨h, ready⟩) s = .next (if s.setupGo ready && s.groupDrained g then s.setupFrame g else s) := by
  have hexec : exec (.groupSetupWrite ⟨h, ready⟩) s = execGroupSetupWrite ⟨h, ready⟩ s := rfl
  rw [hexec, execGroupSetupWrite, hin]

theorem exec_groupSetupResend_found {g : Group} (hin : s.groupIn h.toNat GroupSetup.waits = some g) :
    exec (.groupSetupResend ⟨h, ready⟩) s =
      .next (if s.setupGo ready then (s.reach g.since 100000).setupFrame g else s) := by
  have hexec : exec (.groupSetupResend ⟨h, ready⟩) s = execGroupSetupResend ⟨h, ready⟩ s := rfl
  rw [hexec, execGroupSetupResend, hin]

theorem exec_groupSetupRetry_found {g : Group} (hin : s.groupIn h.toNat (fun x => x == .failed) = some g) :
    exec (.groupSetupRetry ⟨h, ready⟩) s =
      .next (if s.setupGo ready then (s.reach g.since 1000000).setupFrame g else s) := by
  have hexec : exec (.groupSetupRetry ⟨h, ready⟩) s = execGroupSetupRetry ⟨h, ready⟩ s := rfl
  rw [hexec, execGroupSetupRetry, hin]

theorem exec_groupSetupWrite_none (hin : s.groupIn h.toNat (fun x => x == .wanted) = none) :
    exec (.groupSetupWrite ⟨h, ready⟩) s = .next s := by
  have hexec : exec (.groupSetupWrite ⟨h, ready⟩) s = execGroupSetupWrite ⟨h, ready⟩ s := rfl
  rw [hexec, execGroupSetupWrite, hin]

theorem exec_groupSetupResend_none (hin : s.groupIn h.toNat GroupSetup.waits = none) :
    exec (.groupSetupResend ⟨h, ready⟩) s = .next s := by
  have hexec : exec (.groupSetupResend ⟨h, ready⟩) s = execGroupSetupResend ⟨h, ready⟩ s := rfl
  rw [hexec, execGroupSetupResend, hin]

theorem exec_groupSetupRetry_none (hin : s.groupIn h.toNat (fun x => x == .failed) = none) :
    exec (.groupSetupRetry ⟨h, ready⟩) s = .next s := by
  have hexec : exec (.groupSetupRetry ⟨h, ready⟩) s = execGroupSetupRetry ⟨h, ready⟩ s := rfl
  rw [hexec, execGroupSetupRetry, hin]

end

/-! ## The confirmation -/

/-- A confirmation whose header and fields are as R70 gives them. -/
def confirmGood (f : Rx) : Prop :=
  f.ver = 3 ∧ f.typ = 0x70 ∧ tField f 0 8 = 8 ∧ f.mark = false ∧ f.elided = false ∧ f.rsv1 = false ∧ f.rsv2 = 0 ∧
    tField f 18 2 ≠ 3 ∧ tField f 52 12 = 0

/-- The group whose setup under its number a confirmation answers. -/
def State.confirms (s : State) (f : Rx) : Option Group :=
  s.groupIn (tField f 8 10) fun x => x == .outstanding (BitVec.ofNat 32 (tField f 20 32))

/-- What the confirmation of a group's setup does (R70). -/
def State.setupAnswered (s : State) (f : Rx) (g : Group) : State :=
  if f.src ≠ s.self then s.discard
  else if tField f 18 2 = 0 then s.groupConfirmed g
  else
    (s.updGroup g.handle fun x => { x with setup := .failed, since := s.time.now }).raise
      { code := 0x4C, detail := g.handle }

theorem exec_groupConfirm (f : Rx) (s : State) : exec (.groupConfirm f) s = execGroupConfirm f s := rfl

section
variable {s : State} {f : Rx} (hp : s.portsUp = true)
include hp

theorem exec_groupConfirm_keptOut (htakes : (s.at_ f.time).takesFrame f = false) :
    exec (.groupConfirm f) s = .next (s.at_ f.time).discard := by
  simp [exec_groupConfirm, execGroupConfirm, hp, htakes]

variable (htakes : (s.at_ f.time).takesFrame f = true)
include htakes

theorem exec_groupConfirm_damaged (h : f.eiErr = true ∨ f.crc ≠ frameCrc f) :
    exec (.groupConfirm f) s = .next ((s.at_ f.time).frameEvent f 0x41) := by
  simp [exec_groupConfirm, execGroupConfirm, hp, htakes, h]

variable (herr : f.eiErr = false) (hcrc : f.crc = frameCrc f)
include herr hcrc

theorem exec_groupConfirm_malformed (h : ¬ confirmGood f) :
    exec (.groupConfirm f) s = .next ((s.at_ f.time).frameEvent f 0x42) := by
  have hbad : (f.ver ≠ 3 || f.typ ≠ 0x70 || tField f 0 8 ≠ 8 || f.mark || f.elided || f.rsv1 || f.rsv2 ≠ 0 ||
      tField f 18 2 == 3 || tField f 52 12 ≠ 0) = true := by
    simpa [confirmGood, imp_iff_not_or, or_assoc] using h
  rw [exec_groupConfirm, execGroupConfirm, if_neg (by simp [hp])]
  dsimp only
  rw [if_neg (by simp [htakes]), if_neg (by simp [herr, hcrc]), if_pos hbad]

variable (hgood : confirmGood f)
include hgood

theorem exec_groupConfirm_unmatched (h : (s.at_ f.time).confirms f = none) :
    exec (.groupConfirm f) s = .next (s.at_ f.time).discard := by
  obtain ⟨hver, htyp, hsub, hmark, helided, hrsv1, hrsv2, hstatus, hzero⟩ := hgood
  rw [State.confirms] at h
  simp [exec_groupConfirm, execGroupConfirm, hp, htakes, herr, hcrc, hver, htyp, hsub, hmark, helided, hrsv1, hrsv2,
    hstatus, hzero, h]

theorem exec_groupConfirm_matched {g : Group} (h : (s.at_ f.time).confirms f = some g) :
    exec (.groupConfirm f) s = .next ((s.at_ f.time).setupAnswered f g) := by
  obtain ⟨hver, htyp, hsub, hmark, helided, hrsv1, hrsv2, hstatus, hzero⟩ := hgood
  rw [State.confirms] at h
  simp [exec_groupConfirm, execGroupConfirm, hp, htakes, herr, hcrc, hver, htyp, hsub, hmark, helided, hrsv1, hrsv2,
    hstatus, hzero, h, State.setupAnswered, apply_ite Host.Outcome.next]

/-- A confirmation that answers no setup, or is not for this block, is discarded. -/
theorem exec_groupConfirm_discarded
    (h : (∀ g, (s.at_ f.time).confirms f ≠ some g) ∨ f.src ≠ (s.at_ f.time).self) :
    exec (.groupConfirm f) s = .next (s.at_ f.time).discard := by
  cases hfind : (s.at_ f.time).confirms f with
  | none => exact exec_groupConfirm_unmatched hp htakes herr hcrc hgood hfind
  | some g =>
    have hsrc : f.src ≠ (s.at_ f.time).self := h.resolve_left fun hnone => hnone g hfind
    rw [exec_groupConfirm_matched hp htakes herr hcrc hgood hfind, State.setupAnswered, if_pos hsrc]

end

section
variable {s : State} {f : Rx} {g : Group} (hsrc : f.src = s.self)
include hsrc

theorem State.setupAnswered_done (hstatus : tField f 18 2 = 0) : s.setupAnswered f g = s.groupConfirmed g := by
  rw [State.setupAnswered, if_neg (not_not.2 hsrc), if_pos hstatus]

theorem State.setupAnswered_failed (hstatus : tField f 18 2 ≠ 0) : s.setupAnswered f g =
    (s.updGroup g.handle fun x => { x with setup := .failed, since := s.time.now }).raise
      { code := 0x4C, detail := g.handle } := by
  rw [State.setupAnswered, if_neg (not_not.2 hsrc), if_neg hstatus]

end

/-- A confirmed setup writes the groups alone. -/
theorem State.groupConfirmed_frame (s : State) (g : Group) : s.groupConfirmed g =
    { s with ep := { s.ep with groups := (s.groupConfirmed g).ep.groups } } := by
  unfold State.groupConfirmed
  split <;> rfl

theorem State.groupConfirmed_deleted (s : State) {g : Group} (h : g.deleting = true) :
    (s.groupConfirmed g).ep.groups = s.ep.groups.filter fun x => x.handle != g.handle := by
  rw [State.groupConfirmed, if_pos h]
  rfl

theorem State.groupConfirmed_usable (s : State) {g : Group} (h : g.deleting = false) : (s.groupConfirmed g).ep.groups =
    s.ep.groups.map fun x => if x.handle = g.handle then { x with setup := .confirmed } else x := by
  rw [State.groupConfirmed, if_neg (by simp [h])]
  rfl

/-! ## The statement -/

/-- Settles O14: the rows by the group they find, the setup frame by what it writes, and the confirmation check by
check. -/
theorem groupSetupRowsComplete : Obligations.GroupSetupRowsComplete := by
  refine ⟨fun s h ready g => ⟨fun hin => ?_, fun hin => ?_, fun hin => ?_, exec_groupSetupWrite_none,
      exec_groupSetupResend_none, exec_groupSetupRetry_none⟩,
    fun s g => ⟨_, s.setupFrame_eq g, rfl, rfl, s.length_setupGroups g, fun x => State.setupGroups_own,
      fun x => State.setupGroups_other⟩,
    fun s f hp => ⟨exec_groupConfirm_keptOut hp, exec_groupConfirm_damaged hp, fun htakes herr hcrc =>
      ⟨exec_groupConfirm_malformed hp htakes herr hcrc, exec_groupConfirm_discarded hp htakes herr hcrc,
        fun g hgood hmine hsrc => ?_⟩⟩⟩
  · rw [exec_groupSetupWrite_found hin]
    refine ⟨fun hgo hdrained => ?_, fun hstop => ?_⟩
    · rw [if_pos (by simp [State.setupGo_iff.2 hgo, hdrained])]
    · rw [if_neg]
      rw [Bool.and_eq_true, State.setupGo_iff]
      rintro ⟨hgo, hdrained⟩
      exact hstop.elim (fun h => h hgo) fun h => Bool.false_ne_true (h.symm.trans hdrained)
  · rw [exec_groupSetupResend_found hin]
    exact ⟨fun hgo => congrArg _ (if_pos (State.setupGo_iff.2 hgo)),
      fun hgo => congrArg _ (if_neg (mt State.setupGo_iff.1 hgo))⟩
  · rw [exec_groupSetupRetry_found hin]
    exact ⟨fun hgo => congrArg _ (if_pos (State.setupGo_iff.2 hgo)),
      fun hgo => congrArg _ (if_neg (mt State.setupGo_iff.1 hgo))⟩
  · have hmatched := exec_groupConfirm_matched hp htakes herr hcrc hgood hmine
    have hgroups : (s.at_ f.time).ep.groups = s.ep.groups := by rw [State.at_ep]
    rw [← hgroups]
    refine ⟨fun hstatus => ?_, fun hstatus => ?_⟩
    · rw [hmatched, State.setupAnswered_done hsrc hstatus]
      exact ⟨_, rfl, State.groupConfirmed_frame _ g, State.groupConfirmed_deleted _, State.groupConfirmed_usable _⟩
    · rw [hmatched, State.setupAnswered_failed hsrc hstatus]
      rfl

end Sys2Proof.Machine

/-! # Injection and throttle

FRAME_INJECT and HT_LEVEL_CHANGE: which frame leaves, what its leaving writes, and from when a level governs (R61, R62,
R64, R65, R83). -/

namespace Sys2Proof.Machine

/-! ## A bulk frame injected -/

section
variable (s : State) (f : OutFrame)

theorem State.injectBulk_eo (skim : Bool) : (s.injectBulk skim f).ep.eo = s.ep.eo ++ f.beats s.self := by
  cases skim <;> rfl

theorem State.injectBulk_badgerQ : (s.injectBulk false f).ep.badgerQ = s.ep.badgerQ.erase f := rfl

theorem State.injectBulk_resumeQ : (s.injectBulk true f).ep.resumeQ = s.ep.resumeQ.erase f := rfl

theorem State.injectBulk_skimQ : (s.injectBulk true f).ep.skimQ =
    if s.ep.resumeQ.contains f then s.ep.skimQ else s.ep.skimQ.erase f := rfl

/-- The round robin sends one of the two frames. -/
theorem State.roundRobin_eo (g : OutFrame) : (s.roundRobin f g).ep.eo = s.ep.eo ++ f.beats s.self ∨
    (s.roundRobin f g).ep.eo = s.ep.eo ++ g.beats s.self := by
  unfold State.roundRobin
  dsimp only
  split
  · exact .inl (State.injectBulk_eo _ f true)
  · exact .inr (State.injectBulk_eo _ g false)

end

/-! ## The choice of the frame -/

/-- The channels' deficits, which an empty channel loses (R64). -/
def State.deficitsKept (s : State) : State :=
  { s with ep := { s.ep with
      defSkim := if s.ep.skimQ.isEmpty then 0 else s.ep.defSkim
      defBadger := if s.ep.badgerQ.isEmpty then 0 else s.ep.defBadger } }

/-- No route change is under way and the ceiling lets a frame begin. -/
def State.bulkGo (s : State) : Prop := s.ep.route = .idle ∧ s.ep.bulkFree ≤ s.fineNow

/-- A frame of the SKIM channel may begin. -/
def State.skimGo (s : State) (ready : BitVec 4) : Prop :=
  s.bulkGo ∧ ready.getLsbD 0 = true ∧ s.ep.skimFree ≤ s.fineNow

/-- A frame of the BADGER channel may begin. -/
def State.badgerGo (s : State) (ready : BitVec 4) : Prop :=
  s.bulkGo ∧ ready.getLsbD 1 = true ∧ s.ep.badgerFree ≤ s.fineNow

/-- A CONTROL frame may begin within the budget. -/
def State.ctrlGo (s : State) (ready : BitVec 4) : Prop :=
  ready.getLsbD 2 = true ∧ s.ctrlRecent < s.cfg.glob.ctrlRate * 1000

/-- The SKIM frame that would leave: a marked copy while there is one, and nothing where none may begin. -/
def State.skimPick (s : State) (ready : BitVec 4) : Option OutFrame :=
  if (s.ep.route == .idle && decide (s.ep.bulkFree ≤ s.fineNow)) && ready.getLsbD 0 &&
      decide (s.ep.skimFree ≤ s.fineNow) then
    s.headOf (if s.resuming then s.ep.resumeQ else s.ep.skimQ)
  else none

/-- The BADGER frame that would leave: none before the marked copies are out. -/
def State.badgerPick (s : State) (ready : BitVec 4) : Option OutFrame :=
  if (s.ep.route == .idle && decide (s.ep.bulkFree ≤ s.fineNow)) && ready.getLsbD 1 && !s.resuming &&
      decide (s.ep.badgerFree ≤ s.fineNow) then s.headOf s.ep.badgerQ
  else none

/-- What leaves of the two channels' frames. -/
def State.injectPick (s : State) : Option OutFrame → Option OutFrame → State
  | some f, some g => s.roundRobin f g
  | some f, none => s.injectBulk true f
  | none, some g => s.injectBulk false g
  | none, none => s

section
variable {s : State} {ready : BitVec 4}

theorem State.skimPick_go (h : s.skimGo ready) :
    s.skimPick ready = s.headOf (if s.resuming then s.ep.resumeQ else s.ep.skimQ) := by
  obtain ⟨⟨hroute, hbulk⟩, hready, hfree⟩ := h
  rw [State.skimPick, if_pos (by simp [hroute, hbulk, hready, hfree])]

theorem State.skimPick_stop (h : ¬ s.skimGo ready) : s.skimPick ready = none := by
  refine if_neg fun hgo => h ?_
  simpa [State.skimGo, State.bulkGo, and_assoc] using hgo

theorem State.badgerPick_go (hresuming : s.resuming = false) (h : s.badgerGo ready) :
    s.badgerPick ready = s.headOf s.ep.badgerQ := by
  obtain ⟨⟨hroute, hbulk⟩, hready, hfree⟩ := h
  rw [State.badgerPick, if_pos (by simp [hroute, hbulk, hready, hfree, hresuming])]

theorem State.badgerPick_stop (h : s.resuming = true ∨ ¬ s.badgerGo ready) : s.badgerPick ready = none := by
  refine if_neg fun hgo => ?_
  simp only [Bool.and_eq_true, Bool.not_eq_true', decide_eq_true_eq, beq_iff_eq] at hgo
  obtain ⟨⟨⟨⟨hroute, hbulk⟩, hready⟩, hresuming⟩, hfree⟩ := hgo
  rcases h with h | h
  · exact Bool.false_ne_true (hresuming.symm.trans h)
  · exact h ⟨⟨hroute, hbulk⟩, hready, hfree⟩

/-- Marked copies go first: no other SKIM or BADGER frame leaves while one may. -/
theorem State.picks_resuming {f : OutFrame} (hmarked : s.headOf s.ep.resumeQ = some f) :
    (s.skimGo ready → s.skimPick ready = some f) ∧ s.badgerPick ready = none := by
  have hresuming : s.resuming = true := by rw [State.resuming, hmarked]; rfl
  refine ⟨fun hgo => ?_, State.badgerPick_stop (.inl hresuming)⟩
  rw [State.skimPick_go hgo, if_pos hresuming, hmarked]

section
variable (hmarked : s.headOf s.ep.resumeQ = none)
include hmarked

theorem State.resuming_none : s.resuming = false := by rw [State.resuming, hmarked]; rfl

theorem State.skimPick_some {f : OutFrame} (hhead : s.headOf s.ep.skimQ = some f) (hgo : s.skimGo ready) :
    s.skimPick ready = some f := by
  rw [State.skimPick_go hgo, State.resuming_none hmarked, if_neg Bool.false_ne_true, hhead]

theorem State.badgerPick_some {f : OutFrame} (hhead : s.headOf s.ep.badgerQ = some f) (hgo : s.badgerGo ready) :
    s.badgerPick ready = some f := by
  rw [State.badgerPick_go (State.resuming_none hmarked) hgo, hhead]

theorem State.skimPick_none (h : s.headOf s.ep.skimQ = none ∨ ¬ s.skimGo ready) : s.skimPick ready = none := by
  by_cases hgo : s.skimGo ready
  · rw [State.skimPick_go hgo, State.resuming_none hmarked, if_neg Bool.false_ne_true]
    exact h.resolve_right (not_not.2 hgo)
  · exact State.skimPick_stop hgo

theorem State.badgerPick_none (h : s.headOf s.ep.badgerQ = none ∨ ¬ s.badgerGo ready) : s.badgerPick ready = none := by
  by_cases hgo : s.badgerGo ready
  · rw [State.badgerPick_go (State.resuming_none hmarked) hgo]
    exact h.resolve_right (not_not.2 hgo)
  · exact State.badgerPick_stop (.inr hgo)

end
end

/-! ## FRAME_INJECT -/

theorem exec_frameInject (x : InjectAt) (s : State) : exec (.frameInject x) s = execFrameInject x s := rfl

section
variable {s : State} {ready : BitVec 4} {now : BitVec 64}

theorem State.endpointUp_released (h : s.endpointUp = true) : s.power.released = true := by
  simp only [State.endpointUp, State.portsUp, Bool.and_eq_true] at h
  obtain ⟨⟨⟨⟨hreleased, -⟩, -⟩, -⟩, -⟩ := h
  exact hreleased

theorem exec_frameInject_unreleased (h : s.power.released = false) : exec (.frameInject ⟨ready, now⟩) s = .next s := by
  have hdown : s.endpointUp = false := by simp [State.endpointUp, State.portsUp, h]
  simp [exec_frameInject, execFrameInject, h, hdown]

theorem exec_frameInject_down (hreleased : s.power.released = true) (h : (s.at_ now).endpointUp = false) :
    exec (.frameInject ⟨ready, now⟩) s = .next (s.at_ now) := by
  simp [exec_frameInject, execFrameInject, hreleased, h]

variable (hup : (s.at_ now).endpointUp = true)
include hup

theorem exec_frameInject_ctrl {f : OutFrame} (hhead : (s.at_ now).headOf (s.at_ now).ep.ctrlQ = some f)
    (hgo : (s.at_ now).ctrlGo ready) : exec (.frameInject ⟨ready, now⟩) s = .next ((s.at_ now).injectCtrl f) := by
  obtain ⟨hready, hbudget⟩ := hgo
  have hreleased : s.power.released = true := (s.at_power now) ▸ State.endpointUp_released hup
  simp only [exec_frameInject, execFrameInject, hreleased, if_true, hup, hhead, hready, hbudget]
  rfl

/-- Without a CONTROL frame that may leave, the bulk channels are served. -/
theorem exec_frameInject_bulk
    (h : (s.at_ now).headOf (s.at_ now).ep.ctrlQ = none ∨ ¬ (s.at_ now).ctrlGo ready) :
    exec (.frameInject ⟨ready, now⟩) s = .next ((s.at_ now).deficitsKept.injectPick ((s.at_ now).skimPick ready)
      ((s.at_ now).badgerPick ready)) := by
  have hreleased : s.power.released = true := (s.at_power now) ▸ State.endpointUp_released hup
  rw [exec_frameInject, execFrameInject, if_pos hreleased]
  dsimp only
  rw [if_neg (by simp [hup])]
  split
  · next f hhead hgo =>
    have hgo : (s.at_ now).ctrlGo ready := by simpa [State.ctrlGo] using hgo
    rcases h with h | h
    · exact absurd (h.symm.trans hhead) (by simp)
    · exact absurd hgo h
  · change (match (s.at_ now).skimPick ready, (s.at_ now).badgerPick ready with
      | some f, some g => Host.Outcome.next ((s.at_ now).deficitsKept.roundRobin f g)
      | some f, none => .next ((s.at_ now).deficitsKept.injectBulk true f)
      | none, some g => .next ((s.at_ now).deficitsKept.injectBulk false g)
      | none, none => .next (s.at_ now).deficitsKept) = _
    cases (s.at_ now).skimPick ready <;> cases (s.at_ now).badgerPick ready <;> rfl

end

/-! ## HT_LEVEL_CHANGE -/

theorem exec_htLevelChange (level : BitVec 4) (now : BitVec 64) (s : State) :
    exec (.htLevelChange level now) s = execHtLevelChange level now s := rfl

/-- The level changes that do not govern yet. -/
def State.htWaiting (s : State) : List (BitVec 4 × BitVec 64) := s.ep.htNext.filter fun p => decide (s.time.now < p.2)

/-- The state once a level has been sampled: it governs from 100 ns on (R65). -/
def State.htSampled (s : State) (level : BitVec 4) : State :=
  { s with ep := { s.ep with
      ht := level, htOld := BitVec.ofNat 4 s.throttle, htNext := s.htWaiting ++ [(level, s.time.now + 100)] } }

theorem exec_htLevelChange_down {s : State} {level : BitVec 4} {now : BitVec 64} (hp : s.portsUp = false) :
    exec (.htLevelChange level now) s = .next s := by
  simp [exec_htLevelChange, execHtLevelChange, hp]

theorem exec_htLevelChange_sampled {s : State} {level : BitVec 4} {now : BitVec 64} (hp : s.portsUp = true) :
    exec (.htLevelChange level now) s = .next ((s.at_ now).htSampled level) := by
  simp only [exec_htLevelChange, execHtLevelChange, hp]
  rfl

/-- Level changes that lie ahead leave the level as it is. -/
theorem foldl_levels_ahead {now : BitVec 64} {l : List (BitVec 4 × BitVec 64)} (h : ∀ p ∈ l, ¬ p.2 ≤ now)
    (level : BitVec 4) : l.foldl (fun l p => if p.2 ≤ now then p.1 else l) level = level := by
  induction l with
  | nil => rfl
  | cons p l ih =>
    obtain ⟨hp, hl⟩ := List.forall_mem_cons.1 h
    rw [List.foldl_cons, if_neg hp, ih hl]

theorem State.htWaiting_ahead {s : State} {p : BitVec 4 × BitVec 64} (hp : p ∈ s.htWaiting) : ¬ p.2 ≤ s.time.now := by
  have hlt : s.time.now < p.2 := by simpa using (List.mem_filter.1 hp).2
  exact BitVec.not_le.2 hlt

/-- Within the 100 ns the level in force stays. -/
theorem State.htSampled_throttle {s : State} {level : BitVec 4} (h : s.time.now.toNat + 100 < 2 ^ 64) :
    (s.htSampled level).throttle = s.throttle := by
  have hnew : ¬ s.time.now + 100 ≤ s.time.now := by bv_omega
  have hahead : ∀ p ∈ s.htWaiting ++ [(level, s.time.now + 100)], ¬ p.2 ≤ s.time.now := by
    intro p hp
    rcases List.mem_append.1 hp with hp | hp
    · exact State.htWaiting_ahead hp
    · obtain rfl := List.mem_singleton.1 hp
      exact hnew
  have hfold := congrArg BitVec.toNat (foldl_levels_ahead hahead (BitVec.ofNat 4 s.throttle))
  refine hfold.trans ?_
  simp [State.throttle]

/-! ## The statement -/

/-- Settles O13: the frame that leaves by the channels that may send, what its leaving writes, and the level in force. -/
theorem injectionRowsComplete : Obligations.InjectionRowsComplete := by
  refine ⟨fun s ready now => ⟨exec_frameInject_unreleased, exec_frameInject_down, fun hup =>
      ⟨fun f hhead hgo => ⟨_, exec_frameInject_ctrl hup hhead hgo, rfl, rfl⟩, fun hctrl => ?_⟩⟩,
    fun s f g => ⟨s.injectBulk_eo f true, s.injectBulk_eo f false, s.injectBulk_badgerQ f,
      fun hmem => ⟨s.injectBulk_resumeQ f, ?_⟩, fun hmem => ⟨?_, ?_⟩, s.roundRobin_eo f g⟩,
    fun s level now => ⟨exec_htLevelChange_down, fun hp =>
      ⟨_, exec_htLevelChange_sampled hp, ?_, ?_, State.htSampled_throttle⟩⟩⟩
  · have hbulk := exec_frameInject_bulk hup hctrl
    refine ⟨fun f hmarked => ?_, fun hmarked => ⟨fun f hskim hgo hbadger => ?_, fun f hbadger hgo hskim => ?_,
      fun f g hskim hgo hbadger hgo' => ?_, fun hskim hbadger => ?_⟩⟩
    · obtain ⟨hskim, hbadger⟩ := State.picks_resuming (ready := ready) hmarked
      exact ⟨fun hgo => by rw [hbulk, hskim hgo, hbadger]; rfl,
        fun hgo => by rw [hbulk, State.skimPick_stop hgo, hbadger]; rfl⟩
    · rw [hbulk, State.skimPick_some hmarked hskim hgo, State.badgerPick_none hmarked hbadger]
      rfl
    · rw [hbulk, State.skimPick_none hmarked hskim, State.badgerPick_some hmarked hbadger hgo]
      rfl
    · rw [hbulk, State.skimPick_some hmarked hskim hgo, State.badgerPick_some hmarked hbadger hgo']
      rfl
    · rw [hbulk, State.skimPick_none hmarked hskim, State.badgerPick_none hmarked hbadger]
      rfl
  · rw [State.injectBulk_skimQ, if_pos (by simpa using hmem)]
  · rw [State.injectBulk_resumeQ, List.erase_of_not_mem hmem]
  · rw [State.injectBulk_skimQ, if_neg (by simpa using hmem)]
  · rw [State.htSampled, State.at_ep]
  · rw [State.htSampled, State.htWaiting, State.at_ep]

end Sys2Proof.Machine

/-! # Handover offers and their answers

What HANDOVER_OFFER does by the region it describes, and how TAKEN and REFUSED end an offer (R88, R99, R269). -/

namespace Sys2Proof.Machine

/-! ## What the host time leaves -/

@[simp] theorem State.at_ten (s : State) (t : BitVec 64) (i : Fin 64) : (s.at_ t).ten i = s.ten i := by
  simp [State.ten]

@[simp] theorem State.at_tagOf (s : State) (t : BitVec 64) (i : Fin 64) : (s.at_ t).tagOf i = s.tagOf i := by
  simp [State.tagOf]

@[simp] theorem State.at_entry (s : State) (t : BitVec 64) (c : Nat) : (s.at_ t).entry c = s.entry c := by
  simp [State.entry]

/-! ## An offer -/

theorem exec_handoverOffer (f : Rx) (s : State) : exec (.handoverOffer f) s = execHandoverOffer f s := rfl

/-- Whether a region that an OFFER describes was taken over before, by an OFFER of the same epoch and DROOT. -/
def Entry.tookOffer (e : Entry) (f : Rx) : Prop :=
  e.state ≠ .loading ∧ e.taken = some (leField f.payload 8 6, BitVec.ofNat 64 (leField f.payload 16 8))

/-- Whether a LOADING region stands as an OFFER names it: complete, at the committed epoch, with its DROOT. -/
def State.standsAsOffered (s : State) (i : Fin 64) (f : Rx) (c : Nat) (e : Entry) : Prop :=
  e.state = .loading ∧ s.dataComplete i c e = true ∧ leField f.payload 8 6 = (s.ten i).commit.committed ∧
    s.droot e = BitVec.ofNat 64 (leField f.payload 16 8)

/-- A region that is filled again: what Badger has of it is dropped, with event 0xDC. -/
def State.refillRegion (s : State) (i : Fin 64) (c : Nat) : State :=
  (s.updBg i fun b => { b with
    records := b.records.filter fun r => r.ctx != some c, verified := b.verified.filter fun x => x.1 != c
    pending := b.pending.filter fun x => x.1 != c }).raiseT i 0xDC c

section
variable {s : State} {f : Rx} {i : Fin 64} {phase : Nat} (hgood : frameGood s f 0x70 i)
  (hok : handoverOk f phase = true) (hlen : f.len = 32)
include hgood hok hlen

/-- A HANDOVER frame of a phase that passes the checks of R75 is handled. -/
theorem State.receive_handover (k : State → Fin 64 → State) :
    s.receive f { typ := 0x70, ok2 := handoverOk f phase, ok3 := f.len == 32 } k = k (s.at_ f.time) i :=
  State.receive_good k hgood hok (beq_iff_eq.2 hlen) rfl rfl

end

section
variable {s : State} {f : Rx} {i : Fin 64} (hgood : frameGood s f 0x70 i) (hok : handoverOk f 1 = true)
  (hlen : f.len = 32)
include hgood hok hlen

theorem exec_handoverOffer_unknown (h : (s.at_ f.time).offered i f = none) :
    exec (.handoverOffer f) s = .next ((s.at_ f.time).answerOffer i f 3) := by
  rw [exec_handoverOffer, execHandoverOffer, State.receive_handover hgood hok hlen]
  simp only [h]

variable {c : Nat} {e : Entry} (hknown : (s.at_ f.time).offered i f = some (c, e))
include hknown

theorem exec_handoverOffer_repeated (h : e.tookOffer f) :
    exec (.handoverOffer f) s = .next ((s.at_ f.time).answerOffer i f 2) := by
  rw [exec_handoverOffer, execHandoverOffer, State.receive_handover hgood hok hlen]
  simp only [hknown]
  rw [Entry.tookOffer] at h
  rw [if_pos h]

theorem exec_handoverOffer_taken (h : (s.at_ f.time).standsAsOffered i f c e) :
    exec (.handoverOffer f) s = .next ((((s.at_ f.time).takeOver i c e (leField f.payload 8 6)
      (BitVec.ofNat 64 (leField f.payload 16 8))).answerOffer i f 2).follow i) := by
  obtain ⟨hloading, hcomplete, hepoch, hdroot⟩ := h
  rw [exec_handoverOffer, execHandoverOffer, State.receive_handover hgood hok hlen]
  simp only [hknown]
  rw [if_neg fun hagain => hagain.1 hloading,
    if_pos (by simp only [hloading, hcomplete, hepoch, hdroot, beq_self_eq_true, Bool.and_self])]

/-- A region that is neither taken before nor as the OFFER names it is refused; a target fills one it still loads again. -/
theorem exec_handoverOffer_refused (htook : ¬ e.tookOffer f) (hstands : ¬ (s.at_ f.time).standsAsOffered i f c e) :
    exec (.handoverOffer f) s = .next (State.answerOffer
      (if (s.ten i).bg.subject ≠ none ∧ e.state = .loading then (s.at_ f.time).refillRegion i c
      else s.at_ f.time) i f 3) := by
  rw [exec_handoverOffer, execHandoverOffer, State.receive_handover hgood hok hlen]
  simp only [hknown]
  rw [Entry.tookOffer] at htook
  rw [if_neg htook, if_neg (by simpa [State.standsAsOffered, and_assoc] using hstands)]
  simp [Option.isSome_iff_ne_none, State.refillRegion]

end

/-! ## The answers -/

theorem State.mem_endOffer (s : State) (i : Fin 64) (c : Nat) (a : Addr) (o : Offer) :
    o ∈ (s.endOffer i c a).ctx.offers ↔ o ∈ s.ctx.offers ∧ ¬ (o.tidx = i ∧ o.ctx = c ∧ o.dst = a) := by
  simp [State.endOffer, or_assoc, imp_iff_not_or]

/-- The end of an offer writes the offers alone. -/
theorem State.endOffer_frame (s : State) (i : Fin 64) (c : Nat) (a : Addr) : s.endOffer i c a =
    { s with ctx := { s.ctx with offers := (s.endOffer i c a).ctx.offers } } := rfl

@[simp] theorem State.endOffer_entry (s : State) (i : Fin 64) (c : Nat) (a : Addr) (x : Nat) :
    (s.endOffer i c a).entry x = s.entry x := rfl

@[simp] theorem State.endOffer_tagOf (s : State) (i : Fin 64) (c : Nat) (a : Addr) (j : Fin 64) :
    (s.endOffer i c a).tagOf j = s.tagOf j := rfl

theorem exec_handoverTaken (f : Rx) (s : State) : exec (.handoverTaken f) s = execHandoverTaken f s := rfl

/-- Whether an own offer to the sender of a TAKEN or REFUSED is outstanding for the entry it names. -/
def State.ownOffer (s : State) (i : Fin 64) (f : Rx) : Prop :=
  ∃ o ∈ s.ctx.offers, o.own = true ∧ o.tidx = i ∧ o.ctx = tField f 12 16 ∧ o.dst = f.src

/-- Whether a TAKEN names an ACTIVE region of its tenant. -/
def State.takenNames (s : State) (i : Fin 64) (f : Rx) (e : Entry) : Prop :=
  e.state = .active ∧ e.tenant = s.tagOf i ∧ e.coord 0 = leField f.payload 0 8 ∧ e.lenp = tField f 28 24

section
variable {s : State} {f : Rx} {i : Fin 64} (hgood : frameGood s f 0x70 i) (hlen : f.len = 32)
include hgood hlen

theorem exec_handoverTaken_frees {e : Entry} (hok : handoverOk f 2 = true) (hown : s.ownOffer i f)
    (hentry : s.entry (tField f 12 16) = some e) (hnames : s.takenNames i f e) : exec (.handoverTaken f) s =
      .next ((((s.at_ f.time).endOffer i (tField f 12 16) f.src).freeRegion (tField f 12 16)).follow i) := by
  obtain ⟨hactive, htenant, hcoord, hlenp⟩ := hnames
  have hown' : (s.ctx.offers.any fun o => o.own && o.tidx == i && o.ctx == tField f 12 16 && o.dst == f.src) = true := by
    simpa [State.ownOffer, and_assoc] using hown
  rw [exec_handoverTaken, execHandoverTaken, State.receive_handover hgood hok hlen]
  simp [hown', hentry, hactive, htenant, hcoord, hlenp]

theorem exec_handoverTaken_ends (hok : handoverOk f 2 = true)
    (h : ¬ s.ownOffer i f ∨ ∀ e, s.entry (tField f 12 16) = some e → ¬ s.takenNames i f e) :
    exec (.handoverTaken f) s = .next ((s.at_ f.time).endOffer i (tField f 12 16) f.src) := by
  rw [exec_handoverTaken, execHandoverTaken, State.receive_handover hgood hok hlen]
  cases hentry : s.entry (tField f 12 16) with
  | none => simp [hentry]
  | some e =>
    have hstay : ¬ (s.ownOffer i f ∧ s.takenNames i f e) := fun ⟨hown, hnames⟩ =>
      h.elim (fun hnot => hnot hown) fun hnot => hnot e hentry hnames
    simp only [State.endOffer_entry, State.at_entry, hentry]
    rw [if_neg (by simpa [State.ownOffer, State.takenNames, and_assoc] using hstay)]

theorem exec_handoverRefused (hok : handoverOk f 3 = true) : exec (.handoverRefused f) s =
    .next ((s.at_ f.time).endOffer i (tField f 12 16) f.src) :=
  congrArg _ (State.receive_handover hgood hok hlen _)

end

/-! ## The statement -/

/-- Settles O37: an OFFER by the region it describes, a TAKEN by the offer and the region it names, a REFUSED by the
offers it leaves. -/
theorem handoverRowsComplete : Obligations.HandoverRowsComplete := by
  refine ⟨fun s f i hgood hok hlen => ⟨exec_handoverOffer_unknown hgood hok hlen, fun c e hknown => ?_⟩,
    fun s f i hgood hok hlen => ⟨fun e hown hentry hnames => exec_handoverTaken_frees hgood hlen hok hown hentry hnames,
      exec_handoverTaken_ends hgood hlen hok⟩,
    fun s f i hgood hok hlen => ⟨_, exec_handoverRefused hgood hlen hok, rfl, ?_, fun o => ?_⟩⟩
  · have hstands : (s.at_ f.time).standsAsOffered i f c e ↔ e.state = .loading ∧
        (s.at_ f.time).dataComplete i c e = true ∧ leField f.payload 8 6 = (s.ten i).commit.committed ∧
        (s.at_ f.time).droot e = BitVec.ofNat 64 (leField f.payload 16 8) := by
      rw [State.standsAsOffered, State.at_ten]
    have hrefused := exec_handoverOffer_refused hgood hok hlen hknown
    rw [hstands] at hrefused
    refine ⟨exec_handoverOffer_repeated hgood hok hlen hknown,
      fun h => exec_handoverOffer_taken hgood hok hlen hknown (hstands.2 h), fun hnew hnot hplain => ?_,
      fun hnot hsubject hloading => ?_⟩
    · rw [hrefused hnew hnot, if_neg fun h => hplain.elim h.1 fun hother => hother h.2]
    · rw [hrefused (fun h => h.1 hloading) hnot, if_pos ⟨hsubject, hloading⟩]
      rfl
  · rw [State.endOffer_frame, State.at_ctx]
  · rw [State.mem_endOffer, State.at_ctx]

end Sys2Proof.Machine

/-! # The context commands

What a write of MNL_CTX_CMD does, an operation and an outcome at a time, and the repeat of an offer (R88, R90, R91, R93,
R94, R99). -/

namespace Sys2Proof.Machine

/-! ## RESULT -/

theorem State.ctxResult_quiet (s : State) {r : Nat} (h : r = 0 ∨ r = 0x0C) :
    s.ctxResult r = s.updCtx fun c => { c with result := BitVec.ofNat 8 r } := if_pos h

theorem State.ctxResult_free {s : State} {r : Nat} (h : ¬ (r = 0 ∨ r = 0x0C))
    (hentry : s.entry s.ctx.index.toNat = none) :
    s.ctxResult r = (s.updCtx fun c => { c with result := BitVec.ofNat 8 r }).raise
      { code := 0x50 + r, detail := s.ctx.index.toNat } := by
  have hentry' : (s.updCtx fun c => { c with result := BitVec.ofNat 8 r }).entry s.ctx.index.toNat = none := hentry
  rw [State.ctxResult]
  simp only [if_neg h, hentry']

theorem State.ctxResult_region {s : State} {r : Nat} {e : Entry} (h : ¬ (r = 0 ∨ r = 0x0C))
    (hentry : s.entry s.ctx.index.toNat = some e) :
    s.ctxResult r = (s.updCtx fun c => { c with result := BitVec.ofNat 8 r }).raise
      { code := 0x50 + r, tenant := e.tenant, detail := s.ctx.index.toNat } := by
  have hentry' : (s.updCtx fun c => { c with result := BitVec.ofNat 8 r }).entry s.ctx.index.toNat = some e := hentry
  rw [State.ctxResult]
  simp only [if_neg h, hentry']

/-! ## A write of MNL_CTX_CMD -/

/-- The state in which a context command runs: answered OK, its operation kept. -/
def State.ctxBegun (s : State) (a : Acc) (op : BitVec 4) : State := (s.ok a.id).updCtx fun c => { c with op := op }

theorem State.ctxCmd_taken {s : State} {a : Acc} {op : BitVec 4} {f : State → Nat → State} (hp : s.portsUp = true)
    (hopen : s.windowOpen 0x4008 = true) : s.ctxCmd a op f = .next (f (s.ctxBegun a op) s.ctx.index.toNat) := by
  rw [State.ctxCmd, State.window, if_neg (by simp [hp]), if_neg (by simp [hopen])]
  rfl

theorem State.window_shut {s : State} {a : Acc} {offset : Nat} (sys : Bool) (f : State → State) (hp : s.portsUp = true)
    (hshut : s.windowOpen offset = false) : s.window a offset sys f = s.refuse a.id offset := by
  simp [State.window, hp, hshut]

section
variable (s : State) (a : Acc) (op : BitVec 4)

@[simp] theorem State.ctxBegun_entry (c : Nat) : (s.ctxBegun a op).entry c = s.entry c := rfl
@[simp] theorem State.ctxBegun_word (w : Nat) : (s.ctxBegun a op).ctx.word w = s.ctx.word w := rfl
@[simp] theorem State.ctxBegun_arg : (s.ctxBegun a op).ctx.arg = s.ctx.arg := rfl
@[simp] theorem State.ctxBegun_modified (c : Cls) (e : Entry) :
    (s.ctxBegun a op).ctx.modified c e = s.ctx.modified c e := rfl
@[simp] theorem State.ctxBegun_tenantOf (t : Tag) : (s.ctxBegun a op).tenantOf t = s.tenantOf t := rfl
@[simp] theorem State.ctxBegun_tenantAllowed (b : Acc) (t : Tag) :
    (s.ctxBegun a op).tenantAllowed b t = s.tenantAllowed b t := rfl
@[simp] theorem State.ctxBegun_classOk (i : Fin 64) (c : Cls) (g : Nat) :
    (s.ctxBegun a op).classOk i c g = s.classOk i c g := rfl
@[simp] theorem State.ctxBegun_installCheck (b : Acc) (c : Nat) :
    (s.ctxBegun a op).installCheck b c = s.installCheck b c := rfl

theorem exec_ctxRead : exec (.ctxRead a) s = execCtxRead a s := rfl
theorem exec_install : exec (.install a) s = execInstall a s := rfl
theorem exec_modify : exec (.modify a) s = execModify a s := rfl
theorem exec_retire : exec (.retire a) s = execRetire a s := rfl
theorem exec_find : exec (.find a) s = execFind a s := rfl
theorem exec_handoverOut : exec (.handoverOut a) s = execHandoverOut a s := rfl

end

/-- Every context command is a write of MNL_CTX_CMD. -/
theorem exec_ctxCommand (s : State) {a : Acc} {c : Instr}
    (hc : c ∈ [Instr.ctxRead a, .install a, .modify a, .retire a, .find a, .handoverOut a]) :
    ∃ f : State → State, exec c s = .next (s.window a 0x4008 false f) := by
  simp only [List.mem_cons, List.not_mem_nil, or_false] at hc
  rcases hc with rfl | rfl | rfl | rfl | rfl | rfl
  all_goals exact ⟨_, rfl⟩

theorem State.tenantAllowed_some {s : State} {a : Acc} {t : Tag} {i : Fin 64} (h : s.tenantOf t = some i) :
    s.tenantAllowed a t = mayAct a t := by
  simp [State.tenantAllowed, h]

section
variable {s : State} {a : Acc} (hp : s.portsUp = true) (hopen : s.windowOpen 0x4008 = true)
include hp hopen

/-! ## READ and FIND -/

theorem exec_ctxRead_free (hentry : s.entry s.ctx.index.toNat = none) : exec (.ctxRead a) s =
    .next (((s.ctxBegun a 1).updCtx fun x => { x with data := Vector.replicate 8 0 }).ctxResult 0) := by
  rw [exec_ctxRead, execCtxRead, State.ctxCmd_taken hp hopen]
  simp only [State.ctxBegun_entry, hentry]

section
variable {e : Entry} (hentry : s.entry s.ctx.index.toNat = some e)
include hentry

theorem exec_ctxRead_barred (hbar : s.tenantAllowed a e.tenant = false) :
    exec (.ctxRead a) s = .next ((s.ctxBegun a 1).ctxResult 0x03) := by
  rw [exec_ctxRead, execCtxRead, State.ctxCmd_taken hp hopen]
  simp [hentry, hbar]

theorem exec_ctxRead_reads (hallow : s.tenantAllowed a e.tenant = true) : exec (.ctxRead a) s =
    .next (((s.ctxBegun a 1).updCtx fun x => { x with
      data := Vector.ofFn fun w => BitVec.ofNat 64 (e.words.getD w.val 0) }).ctxResult 0) := by
  rw [exec_ctxRead, execCtxRead, State.ctxCmd_taken hp hopen]
  simp [hentry, hallow]

end

/-- The tag that FIND names. -/
def CtxS.findTag (c : CtxS) : Tag := BitVec.ofNat 16 (bitsOf (c.word 0) 16 16)

/-- Whether an entry holds the coordinate that FIND names. -/
def CtxS.holds (c : CtxS) (p : Nat × Entry) : Bool :=
  p.2.tensor.toNat == c.word 3 / 2 ^ 40 && decide (p.2.lfirst.toNat ≤ c.word 3 % 2 ^ 40) &&
    decide (c.word 3 % 2 ^ 40 < p.2.lfirst.toNat + p.2.lenp)

/-- The outcome of a search: the index of the entry found, or NOT_FOUND. -/
def State.found (s : State) : Option (Nat × Entry) → State
  | some p => (s.updCtx fun x => { x with index := BitVec.ofNat 16 p.1 }).ctxResult 0
  | none => s.ctxResult 0x0C

theorem exec_find_barred (hbar : s.tenantAllowed a s.ctx.findTag = false) :
    exec (.find a) s = .next ((s.ctxBegun a 5).ctxResult 0x03) := by
  rw [exec_find, execFind, State.ctxCmd_taken hp hopen]
  exact congrArg _ (if_pos (by simpa [CtxS.findTag] using hbar))

theorem exec_find_searches (hallow : s.tenantAllowed a s.ctx.findTag = true) :
    exec (.find a) s = .next ((s.ctxBegun a 5).found ((s.entriesOf s.ctx.findTag).find? s.ctx.holds)) := by
  rw [exec_find, execFind, State.ctxCmd_taken hp hopen]
  exact congrArg _ (if_neg (by simpa [CtxS.findTag] using hallow))

section
variable (hallow : s.tenantAllowed a s.ctx.findTag = true)
include hallow

theorem exec_find_none (hfind : (s.entriesOf s.ctx.findTag).find? s.ctx.holds = none) :
    exec (.find a) s = .next ((s.ctxBegun a 5).ctxResult 0x0C) := by
  rw [exec_find_searches hp hopen hallow, hfind]
  rfl

theorem exec_find_some (p : Nat × Entry) (hfind : (s.entriesOf s.ctx.findTag).find? s.ctx.holds = some p) :
    exec (.find a) s = .next (((s.ctxBegun a 5).updCtx fun x => { x with index := BitVec.ofNat 16 p.1 }).ctxResult 0) := by
  rw [exec_find_searches hp hopen hallow, hfind]
  rfl

end

/-! ## INSTALL -/

theorem exec_install_puts {e : Entry} (hcheck : s.installCheck a s.ctx.index.toNat = (0, some e)) : exec (.install a) s =
    .next (((s.ctxBegun a 2).setEntry s.ctx.index.toNat e).ctxResult 0) := by
  rw [exec_install, execInstall, State.ctxCmd_taken hp hopen]
  simp only [State.ctxBegun_installCheck, hcheck]

theorem exec_install_refused {r : Nat} (hcheck : s.installCheck a s.ctx.index.toNat = (r, none)) :
    exec (.install a) s = .next ((s.ctxBegun a 2).ctxResult r) := by
  rw [exec_install, execInstall, State.ctxCmd_taken hp hopen]
  simp only [State.ctxBegun_installCheck, hcheck]

/-! ## MODIFY -/

theorem exec_modify_free (hentry : s.entry s.ctx.index.toNat = none) :
    exec (.modify a) s = .next ((s.ctxBegun a 3).ctxResult 0x0B) := by
  rw [exec_modify, execModify, State.ctxCmd_taken hp hopen]
  simp only [State.ctxBegun_entry, hentry]

section
variable {e : Entry} (hentry : s.entry s.ctx.index.toNat = some e)
include hentry

theorem exec_modify_notAdmitted (hadmits : e.admitsModify = false) :
    exec (.modify a) s = .next ((s.ctxBegun a 3).ctxResult 0x0B) := by
  rw [exec_modify, execModify, State.ctxCmd_taken hp hopen]
  simp [hentry, hadmits]

variable (hadmits : e.admitsModify = true)
include hadmits

theorem exec_modify_noClass (hcls : clsOf (bitsOf (s.ctx.word 0) 3 2) = none) :
    exec (.modify a) s = .next ((s.ctxBegun a 3).ctxResult 0x04) := by
  rw [exec_modify, execModify, State.ctxCmd_taken hp hopen]
  simp [hentry, hadmits, hcls]

variable {c : Cls} (hcls : clsOf (bitsOf (s.ctx.word 0) 3 2) = some c)
include hcls

theorem exec_modify_barred (hbar : s.tenantAllowed a e.tenant = false) :
    exec (.modify a) s = .next ((s.ctxBegun a 3).ctxResult 0x03) := by
  rw [exec_modify, execModify, State.ctxCmd_taken hp hopen]
  cases htenant : s.tenantOf e.tenant with
  | none => simp [hentry, hadmits, hcls, htenant]
  | some i =>
    rw [State.tenantAllowed_some htenant] at hbar
    simp [hentry, hadmits, hcls, htenant, hbar]

variable {i : Fin 64} (htenant : s.tenantOf e.tenant = some i) (hact : mayAct a e.tenant = true)
include htenant hact

theorem exec_modify_badClass
    (hbad : s.classOk i c (bitsOf (s.ctx.word 0) 48 4) = false ∨ c.slotKind ≠ e.cls.slotKind) :
    exec (.modify a) s = .next ((s.ctxBegun a 3).ctxResult 0x0A) := by
  rw [exec_modify, execModify, State.ctxCmd_taken hp hopen]
  rcases hbad with hclass | hkind
  · simp [hentry, hadmits, hcls, htenant, hact, hclass]
  · simp [hentry, hadmits, hcls, htenant, hact, hkind]

theorem exec_modify_modifies (hok : s.classOk i c (bitsOf (s.ctx.word 0) 48 4) = true)
    (hkind : c.slotKind = e.cls.slotKind) : exec (.modify a) s =
      .next (((s.ctxBegun a 3).setEntry s.ctx.index.toNat (s.ctx.modified c e)).ctxResult 0) := by
  rw [exec_modify, execModify, State.ctxCmd_taken hp hopen]
  simp [hentry, hadmits, hcls, htenant, hact, hok, hkind]

end

/-! ## RETIRE -/

/-- Whether RETIRE is admitted: LOADING, ACTIVE, or CONTAINED before its seal. -/
def Entry.admitsRetire (e : Entry) : Prop :=
  e.state = .loading ∨ e.state = .active ∨ (e.state = .contained ∧ e.sealed = false)

theorem exec_retire_free (hentry : s.entry s.ctx.index.toNat = none) :
    exec (.retire a) s = .next ((s.ctxBegun a 4).ctxResult 0x0B) := by
  rw [exec_retire, execRetire, State.ctxCmd_taken hp hopen]
  simp only [State.ctxBegun_entry, hentry]

section
variable {e : Entry} (hentry : s.entry s.ctx.index.toNat = some e)
include hentry

theorem exec_retire_notAdmitted (hadmits : ¬ e.admitsRetire) :
    exec (.retire a) s = .next ((s.ctxBegun a 4).ctxResult 0x0B) := by
  rw [exec_retire, execRetire, State.ctxCmd_taken hp hopen]
  simp only [State.ctxBegun_entry, hentry]
  rw [if_pos (by simpa [Entry.admitsRetire, and_assoc, imp_iff_not_or] using hadmits)]

variable (hadmits : e.admitsRetire)
include hadmits

theorem exec_retire_admitted : exec (.retire a) s = .next (
    if s.tenantAllowed a e.tenant = false then (s.ctxBegun a 4).ctxResult 0x03
    else if e.state = .active then
      ((s.ctxBegun a 4).setEntry s.ctx.index.toNat { e with staged := some .retire }).ctxResult 0
    else ((s.ctxBegun a 4).freeRegion s.ctx.index.toNat).ctxResult 0) := by
  rw [exec_retire, execRetire, State.ctxCmd_taken hp hopen]
  simp only [State.ctxBegun_entry, hentry]
  rw [if_neg (by simpa [Entry.admitsRetire, or_iff_not_imp_left] using hadmits)]
  simp

theorem exec_retire_barred (hbar : s.tenantAllowed a e.tenant = false) :
    exec (.retire a) s = .next ((s.ctxBegun a 4).ctxResult 0x03) := by
  rw [exec_retire_admitted hp hopen hentry hadmits, if_pos hbar]

theorem exec_retire_frees (hallow : s.tenantAllowed a e.tenant = true) (hstate : e.state ≠ .active) :
    exec (.retire a) s = .next (((s.ctxBegun a 4).freeRegion s.ctx.index.toNat).ctxResult 0) := by
  rw [exec_retire_admitted hp hopen hentry hadmits, if_neg (by simp [hallow]), if_neg hstate]

omit hadmits in
theorem exec_retire_active (hallow : s.tenantAllowed a e.tenant = true) (hstate : e.state = .active) :
    exec (.retire a) s = .next
      (((s.ctxBegun a 4).setEntry s.ctx.index.toNat { e with staged := some .retire }).ctxResult 0) := by
  rw [exec_retire_admitted hp hopen hentry (.inr (.inl hstate)), if_neg (by simp [hallow]), if_pos hstate]

end

/-! ## HANDOVER_OUT -/

theorem exec_handoverOut_free (hentry : s.entry s.ctx.index.toNat = none) :
    exec (.handoverOut a) s = .next ((s.ctxBegun a 6).ctxResult 0x0B) := by
  rw [exec_handoverOut, execHandoverOut, State.ctxCmd_taken hp hopen]
  simp only [State.ctxBegun_entry, hentry]

/-- The offer that HANDOVER_OUT begins for an entry. -/
def State.outOffer (s : State) (e : Entry) (i : Fin 64) : Offer :=
  { ctx := s.ctx.index.toNat, own := true, tidx := i, dst := s.ctx.arg, epoch := e.epoch
    t := BitVec.ofNat 64 (handoverT 1 s.ctx.index.toNat e.lenp)
    payload := handoverPayload (e.coord 0) e.epoch e.droot s.ctx.arg e.spanel e.cls.code, sent := 0 }

section
variable {e : Entry} (hentry : s.entry s.ctx.index.toNat = some e)
include hentry

theorem exec_handoverOut_notActive (hstate : e.state ≠ .active) :
    exec (.handoverOut a) s = .next ((s.ctxBegun a 6).ctxResult 0x0B) := by
  rw [exec_handoverOut, execHandoverOut, State.ctxCmd_taken hp hopen]
  simp [hentry, hstate]

variable (hstate : e.state = .active)
include hstate

theorem exec_handoverOut_barred (hbar : s.tenantAllowed a e.tenant = false) :
    exec (.handoverOut a) s = .next ((s.ctxBegun a 6).ctxResult 0x03) := by
  rw [exec_handoverOut, execHandoverOut, State.ctxCmd_taken hp hopen]
  cases htenant : s.tenantOf e.tenant with
  | none => simp [hentry, hstate, htenant]
  | some i =>
    rw [State.tenantAllowed_some htenant] at hbar
    simp [hentry, hstate, htenant, hbar]

theorem exec_handoverOut_offers {i : Fin 64} (htenant : s.tenantOf e.tenant = some i) (hact : mayAct a e.tenant = true) :
    exec (.handoverOut a) s = .next (((s.ctxBegun a 6).beginOffer (s.outOffer e i)).ctxResult 0) := by
  rw [exec_handoverOut, execHandoverOut, State.ctxCmd_taken hp hopen]
  simp [hentry, hstate, htenant, hact, State.outOffer]

end
end

/-! ## The checks of INSTALL -/

/-- Whether an entry's extent has a length that is admitted and lies in the span (R91, check 4). -/
def State.extentInside (s : State) (e : Entry) : Bool :=
  between 1 e.lenp Config.liveLimit && decide (s.spanBase ≤ 4096 * e.basep) &&
    decide (4096 * (e.basep + 2 * e.lenp) ≤ s.spanBase + s.spanLen)

theorem State.extentInside_iff (s : State) (e : Entry) : s.extentInside e = true ↔
    1 ≤ e.lenp ∧ e.lenp ≤ Config.liveLimit ∧ s.spanBase ≤ 4096 * e.basep ∧
      4096 * (e.basep + 2 * e.lenp) ≤ s.spanBase + s.spanLen := by
  simp [State.extentInside, between, and_assoc]

/-- Checks 4 to 9 of R91, on an entry whose tenant and class INSTALL admits. -/
def State.regionCheck (s : State) (i : Fin 64) (cls : Cls) (e : Entry) : Nat × Option Entry :=
  if !s.extentInside e then (0x05, none)
  else if s.extentClash e.basep e.lenp then (0x06, none)
  else if !s.slotFits i cls e.slot e.spanel e.lenp then (0x07, none)
  else if s.coordClash e.tenant e.tensor e.lfirst.toNat e.lenp then (0x08, none)
  else if !s.classOk i cls e.sgrp.toNat then (0x0A, none)
  else if !s.quotaOk i e.tenant e.lenp then (0x09, none)
  else (0, some { e with gen := (s.ten i).fox.gen })

section
variable {s : State} {a : Acc} {idx : Nat}

theorem State.installCheck_used (h : s.entry idx ≠ none) : s.installCheck a idx = (0x0B, none) :=
  if_pos (Option.isSome_iff_ne_none.2 h)

variable (hfree : s.entry idx = none)
include hfree

theorem State.installCheck_malformed (h : clsOf (bitsOf (s.ctx.word 0) 3 2) = none ∨ s.ctx.reservedOk = false) :
    s.installCheck a idx = (0x04, none) := by
  cases hcls : clsOf (bitsOf (s.ctx.word 0) 3 2) with
  | none => simp [State.installCheck, hfree, hcls]
  | some cls =>
    have hres : s.ctx.reservedOk = false := h.resolve_left (by simp [hcls])
    simp [State.installCheck, hfree, hcls, hres]

variable {cls : Cls} (hcls : clsOf (bitsOf (s.ctx.word 0) 3 2) = some cls) (hres : s.ctx.reservedOk = true)
include hcls hres

theorem State.installCheck_barred (h : s.tenantAllowed a (s.ctx.image cls 0).tenant = false) :
    s.installCheck a idx = (0x03, none) := by
  cases htenant : s.tenantOf (s.ctx.image cls 0).tenant with
  | none =>
    simp only [State.installCheck, hfree, hcls, hres, htenant]
    rfl
  | some i =>
    rw [State.tenantAllowed_some htenant] at h
    simp only [State.installCheck, hfree, hcls, hres, htenant, h]
    rfl

theorem State.installCheck_region {i : Fin 64} (htenant : s.tenantOf (s.ctx.image cls 0).tenant = some i)
    (hact : mayAct a (s.ctx.image cls 0).tenant = true) :
    s.installCheck a idx = s.regionCheck i cls (s.ctx.image cls 0) := by
  rw [State.installCheck, State.regionCheck, State.extentInside]
  simp only [hfree, hcls, hres, htenant, hact]
  rfl

end

section
variable {s : State} {i : Fin 64} {cls : Cls} {e : Entry}

theorem State.regionCheck_outside (h : s.extentInside e = false) : s.regionCheck i cls e = (0x05, none) := by
  simp [State.regionCheck, h]

variable (hinside : s.extentInside e = true)
include hinside

theorem State.regionCheck_clash (h : s.extentClash e.basep e.lenp = true) : s.regionCheck i cls e = (0x06, none) := by
  simp [State.regionCheck, hinside, h]

variable (hclash : s.extentClash e.basep e.lenp = false)
include hclash

theorem State.regionCheck_slot (h : s.slotFits i cls e.slot e.spanel e.lenp = false) :
    s.regionCheck i cls e = (0x07, none) := by
  simp [State.regionCheck, hinside, hclash, h]

variable (hfits : s.slotFits i cls e.slot e.spanel e.lenp = true)
include hfits

theorem State.regionCheck_coord (h : s.coordClash e.tenant e.tensor e.lfirst.toNat e.lenp = true) :
    s.regionCheck i cls e = (0x08, none) := by
  simp [State.regionCheck, hinside, hclash, hfits, h]

variable (hcoord : s.coordClash e.tenant e.tensor e.lfirst.toNat e.lenp = false)
include hcoord

theorem State.regionCheck_class (h : s.classOk i cls e.sgrp.toNat = false) : s.regionCheck i cls e = (0x0A, none) := by
  simp [State.regionCheck, hinside, hclash, hfits, hcoord, h]

variable (hclass : s.classOk i cls e.sgrp.toNat = true)
include hclass

theorem State.regionCheck_quota (h : s.quotaOk i e.tenant e.lenp = false) : s.regionCheck i cls e = (0x09, none) := by
  simp [State.regionCheck, hinside, hclash, hfits, hcoord, hclass, h]

theorem State.regionCheck_passes (h : s.quotaOk i e.tenant e.lenp = true) :
    s.regionCheck i cls e = (0, some { e with gen := (s.ten i).fox.gen }) := by
  simp [State.regionCheck, hinside, hclash, hfits, hcoord, hclass, h]

end

/-! ## The repeat of an offer -/

/-- An offer that has gone unanswered for 100 µs goes out again; after 64 times it is given up with event 0x5E (R99). -/
def State.offerAgain (s : State) (o : Offer) : State :=
  let s1 := s.reach o.since 100000
  if o.sent < 64 then
    State.sendOffer { s1 with ctx := { s.ctx with offers := s.ctx.offers.map fun x =>
      if x = o then { o with sent := o.sent + 1, since := s1.time.now } else x } } o
  else
    State.raise { s1 with ctx := { s.ctx with offers := s.ctx.offers.filter fun x => x != o } }
      { code := 0x5E, tenant := s.tagOf o.tidx, detail := o.ctx }

theorem exec_handoverOfferRepeat (c : Nat) (s : State) : exec (.handoverOfferRepeat c) s =
    .next ((s.ctx.offers.filter fun o => o.ctx == c).foldl State.offerAgain s) := by
  have hctx (s : State) (o : Offer) : (s.reach o.since 100000).ctx = s.ctx := by rw [State.reach_frame]
  have htag (s : State) (o : Offer) : (s.reach o.since 100000).tagOf o.tidx = s.tagOf o.tidx := by
    rw [State.reach_frame]
    rfl
  have hexec : exec (.handoverOfferRepeat c) s = execHandoverOfferRepeat c s := rfl
  rw [hexec, execHandoverOfferRepeat]
  simp only [State.updCtx, hctx, htag]
  rfl

theorem exec_handoverOfferRepeat_one {s : State} {o : Offer}
    (h : s.ctx.offers.filter (fun x => x.ctx == o.ctx) = [o]) :
    exec (.handoverOfferRepeat o.ctx) s = .next (s.offerAgain o) := by
  rw [exec_handoverOfferRepeat, h]
  rfl

theorem exec_handoverOfferRepeat_none {s : State} {c : Nat} (h : ∀ o ∈ s.ctx.offers, o.ctx ≠ c) :
    exec (.handoverOfferRepeat c) s = .next s := by
  rw [exec_handoverOfferRepeat, List.filter_eq_nil_iff.2 fun o ho => by simpa using h o ho]
  rfl

/-! ## The statement -/

/-- Settles O39: the refusals and RESULT, each command by the entry it names and what it may do there, INSTALL by the
checks of R91 in their order, and the repeat of an offer. -/
theorem contextRowsComplete : Obligations.ContextRowsComplete := by
  refine ⟨fun s a hp hshut c hc => ?_,
    fun s r => ⟨s.ctxResult_quiet, fun h0 h12 hentry => State.ctxResult_free (not_or.2 ⟨h0, h12⟩) hentry,
      fun e h0 h12 hentry => State.ctxResult_region (not_or.2 ⟨h0, h12⟩) hentry⟩,
    fun s a hp hopen => ⟨exec_ctxRead_free hp hopen,
      fun e hentry => ⟨exec_ctxRead_barred hp hopen hentry, exec_ctxRead_reads hp hopen hentry⟩,
      fun e => exec_install_puts hp hopen, fun r => exec_install_refused hp hopen,
      fun hentry => ⟨exec_modify_free hp hopen hentry, exec_retire_free hp hopen hentry,
        exec_handoverOut_free hp hopen hentry⟩,
      fun e hentry => ⟨exec_modify_notAdmitted hp hopen hentry, exec_modify_noClass hp hopen hentry,
        fun hadmits hcls hbar => ?_, fun c i hadmits hcls htenant hact =>
          ⟨exec_modify_badClass hp hopen hentry hadmits hcls htenant hact,
            exec_modify_modifies hp hopen hentry hadmits hcls htenant hact⟩⟩,
      fun e hentry => ⟨exec_retire_notAdmitted hp hopen hentry, exec_retire_barred hp hopen hentry,
        exec_retire_active hp hopen hentry, exec_retire_frees hp hopen hentry⟩,
      fun e hentry => ⟨exec_handoverOut_notActive hp hopen hentry, exec_handoverOut_barred hp hopen hentry,
        fun i hactive htenant hact => ⟨s.outOffer e i, exec_handoverOut_offers hp hopen hentry hactive htenant hact,
          rfl, rfl, rfl, rfl, rfl, rfl, rfl⟩⟩,
      exec_find_barred hp hopen, exec_find_none hp hopen, fun p hallow => exec_find_some hp hopen hallow p⟩,
    fun s a idx => ⟨State.installCheck_used, State.installCheck_malformed, fun cls hfree hcls hres =>
      ⟨State.installCheck_barred hfree hcls hres, fun i htenant hact => ?_⟩⟩,
    fun s o hone => ⟨fun hmore => ?_, fun hlast => ?_⟩,
    fun s c => ⟨exec_handoverOfferRepeat c s, exec_handoverOfferRepeat_none⟩⟩
  · obtain ⟨f, hexec⟩ := exec_ctxCommand s hc
    rw [hexec, State.window_shut false f hp hshut]
  · obtain ⟨c, hc⟩ := Option.ne_none_iff_exists'.1 hcls
    exact exec_modify_barred hp hopen hentry hadmits hc hbar
  · rw [State.installCheck_region hfree hcls hres htenant hact]
    simp only [← State.extentInside_iff]
    exact ⟨fun h => State.regionCheck_outside (Bool.eq_false_iff.2 h), State.regionCheck_clash, State.regionCheck_slot,
      State.regionCheck_coord, State.regionCheck_class, State.regionCheck_quota, State.regionCheck_passes⟩
  · rw [exec_handoverOfferRepeat_one hone, State.offerAgain]
    exact congrArg _ (if_pos hmore)
  · rw [exec_handoverOfferRepeat_one hone, State.offerAgain]
    exact congrArg _ (if_neg (not_lt.2 hlast))

end Sys2Proof.Machine

/-! # The roles of a stripe

A rank and its role determine each other (R110). -/

namespace Sys2Proof.Machine

theorem subMod_of_lt {a b n : Nat} (hb : b < n) : subMod a b n = (a + n - b) % n := by
  rw [subMod, Nat.mod_eq_of_lt hb, Nat.add_sub_assoc (Nat.le_of_lt hb)]

/-- What lies `w` past a rotation is `w` from it. -/
theorem subMod_add_mod {u w n : Nat} (hu : u < n) (hw : w < n) : subMod ((u + w) % n) u n = w := by
  rw [subMod_of_lt hu]
  by_cases h : u + w < n
  · rw [Nat.mod_eq_of_lt h, show u + w + n - u = w + n by omega, Nat.add_mod_right, Nat.mod_eq_of_lt hw]
  · have hwrap : (u + w) % n = u + w - n := by
      rw [Nat.mod_eq_sub_mod (Nat.not_lt.1 h), Nat.mod_eq_of_lt (by omega)]
    rw [hwrap, show u + w - n + n - u = w by omega, Nat.mod_eq_of_lt hw]

section
variable {k m r u : Nat}

theorem roleOf_parity (h : subMod r u (k + m) < m) : roleOf k m r u = .parity (subMod r u (k + m)) := if_pos h

theorem roleOf_data (h : m ≤ subMod r u (k + m)) : roleOf k m r u = .data (subMod r u (k + m) - m) :=
  if_neg (Nat.not_lt.2 h)

theorem rankAt_parity (j : Nat) : rankAt k m u (k + j) = (u + j) % (k + m) := by
  rw [rankAt, if_neg (Nat.not_lt.2 (Nat.le_add_right k j)), Nat.add_sub_cancel_left]

theorem rankAt_data {t : Nat} (ht : t < k) : rankAt k m u t = (u + m + t) % (k + m) := if_pos ht

variable (hu : u < k + m)
include hu

theorem roleOf_parityRank {j : Nat} (hj : j < m) : roleOf k m ((u + j) % (k + m)) u = .parity j := by
  have hw : subMod ((u + j) % (k + m)) u (k + m) = j := subMod_add_mod hu (by omega)
  rw [roleOf_parity (by rwa [hw]), hw]

theorem roleOf_dataRank {t : Nat} (ht : t < k) : roleOf k m ((u + m + t) % (k + m)) u = .data t := by
  have hw : subMod ((u + m + t) % (k + m)) u (k + m) = m + t := by
    rw [Nat.add_assoc, subMod_add_mod hu (by omega)]
  rw [roleOf_data (by omega), hw, Nat.add_sub_cancel_left]

end

/-- Settles O57: the role by the distance of the rank from the rotation, and the converse by the rank at that
distance. -/
theorem rolesOfRotation : Obligations.RolesOfRotation := by
  intro k m u _ hu
  refine ⟨fun s => (Nat.div_add_mod' s (k + m)).symm, fun r _ => ?_,
    fun j hj => ⟨roleOf_parityRank hu hj, rankAt_parity j⟩, fun t ht => ⟨roleOf_dataRank hu ht, rankAt_data ht⟩⟩
  rw [← subMod_of_lt hu]
  exact ⟨roleOf_parity, roleOf_data⟩

end Sys2Proof.Machine

/-! # The code's field

Multiplication in GF(2^8) is that of a commutative monoid, and 0x02 generates the non-zero elements: its order is 255
(R106, R107). -/

namespace Sys2Proof.Machine

/-! ## Multiplication -/

theorem gfDouble_xor (a b : Byte) : gfDouble (a ^^^ b) = gfDouble a ^^^ gfDouble b := by
  simp only [gfDouble, BitVec.getLsbD_xor, BitVec.shiftLeft_xor_distrib]
  have hcancel (x y c : Byte) : x ^^^ c ^^^ (y ^^^ c) = x ^^^ y := by
    rw [BitVec.xor_comm y, BitVec.xor_assoc, ← BitVec.xor_assoc c, BitVec.xor_self, BitVec.zero_xor]
  cases a.getLsbD 7 <;> cases b.getLsbD 7
  · rfl
  · exact BitVec.xor_assoc _ _ _
  · exact (BitVec.xor_assoc _ _ _).trans ((congrArg _ (BitVec.xor_comm _ _)).trans (BitVec.xor_assoc _ _ _).symm)
  · exact (hcancel _ _ _).symm

theorem gfDouble_zero : gfDouble 0 = 0 := by decide

theorem gfMulLoop_zero_left (n : Nat) (b : Byte) : gfMulLoop n 0 b = 0 := by
  induction n generalizing b with
  | zero => rfl
  | succ n ih =>
    rw [gfMulLoop, gfDouble_zero, ih, ite_self]
    exact BitVec.xor_self

theorem gfMulLoop_zero_right (n : Nat) (a : Byte) : gfMulLoop n a 0 = 0 := by
  induction n generalizing a with
  | zero => rfl
  | succ n ih => simpa [gfMulLoop] using ih (gfDouble a)

theorem gfMulLoop_xor_left (n : Nat) (a a' b : Byte) :
    gfMulLoop n (a ^^^ a') b = gfMulLoop n a b ^^^ gfMulLoop n a' b := by
  induction n generalizing a a' b with
  | zero => exact (BitVec.xor_self (x := (0 : Byte))).symm
  | succ n ih =>
    simp only [gfMulLoop, gfDouble_xor, ih]
    split
    · ac_rfl
    · simp

theorem gfMulLoop_double (n : Nat) (a b : Byte) : gfMulLoop n (gfDouble a) b = gfDouble (gfMulLoop n a b) := by
  induction n generalizing a b with
  | zero => exact gfDouble_zero.symm
  | succ n ih =>
    simp only [gfMulLoop, gfDouble_xor, ih]
    split
    · rfl
    · rw [gfDouble_zero]

/-- Two multipliers may be taken in either order. -/
theorem gfMulLoop_right_comm (n m : Nat) (a b c : Byte) :
    gfMulLoop n (gfMulLoop m a b) c = gfMulLoop m (gfMulLoop n a c) b := by
  induction n generalizing a c with
  | zero => exact (gfMulLoop_zero_left m b).symm
  | succ n ih =>
    have htail : gfMulLoop n (gfDouble (gfMulLoop m a b)) (c >>> 1) =
        gfMulLoop m (gfMulLoop n (gfDouble a) (c >>> 1)) b := by
      rw [← gfMulLoop_double, ih]
    simp only [gfMulLoop, gfMulLoop_xor_left, htail]
    split
    · rfl
    · rw [gfMulLoop_zero_left]

theorem gfMul_zero_left (a : Byte) : gfMul 0 a = 0 := gfMulLoop_zero_left 8 a

theorem gfMul_zero_right (a : Byte) : gfMul a 0 = 0 := gfMulLoop_zero_right 8 a

theorem gfMul_one_left : ∀ b : Byte, gfMul 1 b = b := by decide +kernel

theorem gfMul_comm (a b : Byte) : gfMul a b = gfMul b a :=
  calc gfMul a b = gfMul (gfMul 1 a) b := by rw [gfMul_one_left]
    _ = gfMul (gfMul 1 b) a := gfMulLoop_right_comm 8 8 1 a b
    _ = gfMul b a := by rw [gfMul_one_left]

theorem gfMul_one_right (a : Byte) : gfMul a 1 = a := by rw [gfMul_comm, gfMul_one_left]

theorem gfMul_assoc (a b c : Byte) : gfMul (gfMul a b) c = gfMul a (gfMul b c) :=
  calc gfMul (gfMul a b) c = gfMul (gfMul b a) c := by rw [gfMul_comm a b]
    _ = gfMul (gfMul b c) a := gfMulLoop_right_comm 8 8 b a c
    _ = gfMul a (gfMul b c) := gfMul_comm _ _

/-! ## Powers -/

/-- The product of `n` factors `a`. -/
def gfPower (a : Byte) (n : Nat) : Byte := (List.replicate n a).foldl gfMul 1

theorem gfPower_succ (a : Byte) (n : Nat) : gfPower a (n + 1) = gfMul (gfPower a n) a := by
  rw [gfPower, List.replicate_succ', List.foldl_append]
  rfl

theorem gfPower_one (a : Byte) : gfPower a 1 = a := gfMul_one_left a

theorem one_gfPower (n : Nat) : gfPower 1 n = 1 := by
  induction n with
  | zero => rfl
  | succ n ih => rw [gfPower_succ, ih, gfMul_one_left]

theorem gfPower_add (a : Byte) (m n : Nat) : gfPower a (m + n) = gfMul (gfPower a m) (gfPower a n) := by
  induction n with
  | zero => exact (gfMul_one_right _).symm
  | succ n ih => rw [← Nat.add_assoc, gfPower_succ, ih, gfPower_succ, gfMul_assoc]

theorem gfPower_mul (a : Byte) (m n : Nat) : gfPower a (m * n) = gfPower (gfPower a m) n := by
  induction n with
  | zero => rfl
  | succ n ih => rw [Nat.mul_succ, gfPower_add, ih, gfPower_succ]

theorem gfPow2_eq_gfPower (a : Byte) (n : Nat) : gfPow2 a n = gfPower a (2 ^ n) := by
  induction n with
  | zero => exact (gfPower_one a).symm
  | succ n ih => rw [gfPow2, ih, ← gfPower_add, Nat.pow_succ, Nat.mul_two]

/-- The squarings of a^2 to a^128 multiply to a^254. -/
theorem gfInv_eq_gfPower (a : Byte) : gfInv a = gfPower a 254 := by
  simp only [gfInv, List.foldl_cons, List.foldl_nil, gfPow2_eq_gfPower, gfMul_one_left, ← gfPower_add]
  norm_num

/-! ## The generator -/

theorem gfPower_two_255 : gfPower 2 255 = 1 := by decide +kernel

theorem gfPower_two_ne_zero {n : Nat} (h : n ≤ 255) : gfPower 2 n ≠ 0 := fun hzero => by
  have hall := gfPower_two_255
  rw [← Nat.add_sub_of_le h, gfPower_add, hzero, gfMul_zero_left] at hall
  exact absurd hall (by decide)

theorem iterate_gfMul (a : Byte) (n : Nat) : (gfMul · a)^[n] 1 = gfPower a n := by
  induction n with
  | zero => rfl
  | succ n ih => rw [Function.iterate_succ_apply', ih, gfPower_succ]

theorem isPeriodicPt_gfMul (a : Byte) (n : Nat) : Function.IsPeriodicPt (gfMul · a) n 1 ↔ gfPower a n = 1 := by
  rw [Function.IsPeriodicPt, Function.IsFixedPt, iterate_gfMul]

/-- The order of 0x02 divides 255, and no proper divisor of 255 will do. -/
theorem minimalPeriod_gfMul_two : Function.minimalPeriod (gfMul · 2) 1 = 255 := by
  have hdvd := ((isPeriodicPt_gfMul 2 255).2 gfPower_two_255).minimalPeriod_dvd
  have hpower := (isPeriodicPt_gfMul 2 _).1 (Function.isPeriodicPt_minimalPeriod (gfMul · 2) 1)
  have hproper : ∀ d ∈ Nat.divisors 255, gfPower 2 d = 1 → d = 255 := by decide +kernel
  exact hproper _ (Nat.mem_divisors.2 ⟨hdvd, by decide⟩) hpower

theorem gfPower_two_ne_one {n : Nat} (hpos : 0 < n) (h : n < 255) : gfPower 2 n ≠ 1 := fun hone =>
  Function.not_isPeriodicPt_of_pos_of_lt_minimalPeriod (Nat.ne_of_gt hpos) (by rwa [minimalPeriod_gfMul_two])
    ((isPeriodicPt_gfMul 2 n).2 hone)

theorem gfPower_two_injOn : Set.InjOn (gfPower 2) (Set.Iio 255) := by
  have hinj := Function.iterate_injOn_Iio_minimalPeriod (f := (gfMul · 2)) (x := (1 : Byte))
  simpa only [minimalPeriod_gfMul_two, iterate_gfMul] using hinj

/-- The first 255 powers of 0x02 differ and none is 0, so they are all of the 255 other elements. -/
theorem exists_gfPower_two {a : Byte} (ha : a ≠ 0) : ∃ n < 255, gfPower 2 n = a := by
  have hmaps : ∀ n ∈ Finset.range 255, (gfPower 2 n).toNat ∈ Finset.Ico 1 256 := fun n hn => by
    have hne := gfPower_two_ne_zero (Nat.le_of_lt (Finset.mem_range.1 hn))
    exact Finset.mem_Ico.2 ⟨Nat.pos_of_ne_zero fun h => hne (BitVec.eq_of_toNat_eq h), (gfPower 2 n).isLt⟩
  have hinj : Set.InjOn (fun n => (gfPower 2 n).toNat) (Finset.range 255) := fun m hm n hn h =>
    gfPower_two_injOn (Finset.mem_range.1 hm) (Finset.mem_range.1 hn) (BitVec.eq_of_toNat_eq h)
  have ha' : a.toNat ∈ Finset.Ico 1 256 :=
    Finset.mem_Ico.2 ⟨Nat.pos_of_ne_zero fun h => ha (BitVec.eq_of_toNat_eq h), a.isLt⟩
  obtain ⟨n, hn, h⟩ := Finset.surjOn_of_injOn_of_card_le _ hmaps hinj (by simp) ha'
  exact ⟨n, Finset.mem_range.1 hn, BitVec.eq_of_toNat_eq h⟩

theorem gfMul_gfInv {a : Byte} (ha : a ≠ 0) : gfMul a (gfInv a) = 1 := by
  obtain ⟨n, -, rfl⟩ := exists_gfPower_two ha
  rw [gfInv_eq_gfPower, gfMul_comm, ← gfPower_succ, ← gfPower_mul, Nat.mul_comm, gfPower_mul, gfPower_two_255,
    one_gfPower]

/-- Row and column numbers of the code differ, so a coefficient's argument is not 0 (R108). -/
theorem cauchy_arg_ne_zero {m j t : Nat} (hj : j < m) (ht : m + t < 256) :
    BitVec.ofNat 8 j ^^^ BitVec.ofNat 8 (m + t) ≠ (0 : Byte) := fun h => by
  have heq := congrArg BitVec.toNat (BitVec.xor_eq_zero_iff.1 h)
  simp only [BitVec.toNat_ofNat] at heq
  omega

/-- Settles O56: the order of 0x02 is 255, so every non-zero element is one of its powers and has 255th power 1. -/
theorem fieldInverseAndGenerator : Obligations.FieldInverseAndGenerator :=
  ⟨fun a ha => ⟨gfInv_eq_gfPower a, gfMul_gfInv ha⟩, fun a => ⟨gfMul_zero_left a, gfMul_zero_right a⟩,
    fun _ _ _ => cauchy_arg_ne_zero, fun _ => exists_gfPower_two, gfPower_two_255, fun _ => gfPower_two_ne_one⟩

end Sys2Proof.Machine

/-! # A product accumulated

What a byte range of the stack reads after another was written, and the two ways of `State.accumulate`: into a copy
already touched, and at first touch (R114, R115, R302). -/

namespace Sys2Proof.Machine

/-! ## Ranges of the stack -/

theorem length_readN (size : Nat) (m : NMap Byte) (a n : Nat) : (Mem.readN size m a n).length = n := by
  induction n generalizing a with
  | zero => rfl
  | succ n ih => rw [Mem.readN, List.length_cons, ih]

theorem readN_congr {size : Nat} {m m' : NMap Byte} {a n : Nat} (hfit : a + n ≤ size)
    (h : ∀ x, a ≤ x → x < a + n → Mem.read m' x = Mem.read m x) : Mem.readN size m' a n = Mem.readN size m a n := by
  induction n generalizing a with
  | zero => rfl
  | succ n ih =>
    rw [Mem.readN, Mem.readN, Nat.mod_eq_of_lt (by omega), h a (Nat.le_refl a) (by omega),
      ih (by omega) fun x hlow hhigh => h x (by omega) (by omega)]

theorem leNat_leBytes (n v : Nat) : leNat (leBytes n v) = v % 256 ^ n := by
  induction n generalizing v with
  | zero => simp [leBytes, leNat, Nat.mod_one]
  | succ n ih =>
    rw [leBytes, leNat, ih, BitVec.toNat_ofNat]
    exact Nat.mod_mul.symm.trans (congrArg (v % ·) Nat.pow_succ'.symm)

theorem State.putBytes_dgAddr (s : State) (p : Nat) (bs : List Byte) (a : Nat) :
    (s.putBytes p bs).dgAddr a = s.dgAddr a := rfl

section
variable {s : State} {p : Nat} {bs : List Byte} (hmem : NMap.rising s.mem = true)
  (hfit : p + bs.length ≤ Config.stackBytes)
include hmem

theorem State.putBytes_rising : NMap.rising (s.putBytes p bs).mem = true := Mem.rising_writeN p bs hmem

include hfit

theorem State.bytesAt_putBytes_self : (s.putBytes p bs).bytesAt p bs.length = bs := Mem.readN_writeN_self bs hmem hfit

theorem State.read_putBytes_other {x : Nat} (h : x < p ∨ p + bs.length ≤ x) :
    Mem.read (s.putBytes p bs).mem x = Mem.read s.mem x :=
  Mem.read_writeN_other bs hmem hfit (by omega)

theorem State.bytesAt_putBytes_other {a n : Nat} (ha : a + n ≤ Config.stackBytes) (h : p + bs.length ≤ a ∨ a + n ≤ p) :
    (s.putBytes p bs).bytesAt a n = s.bytesAt a n :=
  readN_congr ha fun _ _ _ => State.read_putBytes_other hmem hfit (by omega)

end

/-! ## Bytes of a panel with its kept digest -/

theorem State.kept_setKept {s : State} {a : Nat} {d : Word} (hmem : NMap.rising s.mem = true)
    (hdg : s.dgAddr a + 8 ≤ Config.stackBytes) : (s.setKept a d).kept a = d := by
  have haddr : (s.setKept a d).dgAddr a = s.dgAddr a := State.putBytes_dgAddr s _ _ a
  have hread := State.bytesAt_putBytes_self (bs := leBytes 8 d.toNat) hmem (by rwa [length_leBytes])
  rw [length_leBytes] at hread
  rw [State.kept, haddr, State.setKept, hread, leNat_leBytes, Nat.mod_eq_of_lt (show d.toNat < 256 ^ 8 from d.isLt),
    BitVec.ofNat_toNat, BitVec.setWidth_eq]

/-- Bytes written at `p`, in the panel at `a`, and the panel's kept digest. -/
def State.putPanel (s : State) (a p : Nat) (bs : List Byte) (d : Word) : State := (s.putBytes p bs).setKept a d

theorem State.putPanel_dgAddr (s : State) (a p : Nat) (bs : List Byte) (d : Word) (q : Nat) :
    (s.putPanel a p bs d).dgAddr q = s.dgAddr q := rfl

theorem State.putPanel_dirAddr (s : State) (a p : Nat) (bs : List Byte) (d : Word) (q : Nat) :
    (s.putPanel a p bs d).dirAddr q = s.dirAddr q := rfl

section
variable {s : State} {a p : Nat} {bs : List Byte} {d : Word} (hmem : NMap.rising s.mem = true)
include hmem

theorem State.putPanel_rising : NMap.rising (s.putPanel a p bs d).mem = true :=
  State.putBytes_rising (State.putBytes_rising hmem)

variable (hdg : s.dgAddr a + 8 ≤ Config.stackBytes)
include hdg

theorem State.putPanel_kept : (s.putPanel a p bs d).kept a = d := State.kept_setKept (State.putBytes_rising hmem) hdg

variable {n : Nat} (hlen : bs.length = n) (hfit : p + n ≤ Config.stackBytes)
include hlen hfit

theorem State.putPanel_read {x : Nat} (hpanel : x < p ∨ p + n ≤ x) (hdigest : x < s.dgAddr a ∨ s.dgAddr a + 8 ≤ x) :
    Mem.read (s.putPanel a p bs d).mem x = Mem.read s.mem x := by
  subst hlen
  exact (State.read_putBytes_other (p := s.dgAddr a) (bs := leBytes 8 d.toNat) (State.putBytes_rising hmem)
    (by rwa [length_leBytes]) (by rwa [length_leBytes])).trans (State.read_putBytes_other hmem hfit hpanel)

theorem State.putPanel_bytesAt (h : s.dgAddr a + 8 ≤ p ∨ p + n ≤ s.dgAddr a) :
    (s.putPanel a p bs d).bytesAt p n = bs := by
  subst hlen
  exact (State.bytesAt_putBytes_other (p := s.dgAddr a) (bs := leBytes 8 d.toNat) (State.putBytes_rising hmem)
    (by rwa [length_leBytes]) hfit (by rwa [length_leBytes])).trans (State.bytesAt_putBytes_self hmem hfit)

end

/-! ## A record of the directory -/

theorem bit_le (b : Bool) (i : Nat) : bit b i ≤ 2 ^ i := by
  cases b <;> simp [bit]

theorem DirRec.word_lt (r : DirRec) : r.word < 2 ^ 32 := by
  have hatt := r.att.isLt
  have hctx := Nat.mod_lt r.ctx (by decide : 0 < 65536)
  have hv := bit_le r.v 16
  have hpriv := bit_le r.priv 17
  have hc := bit_le r.c 18
  have hn := bit_le r.n 19
  have hd := bit_le r.d 20
  rw [DirRec.word]
  omega

section
variable {s : State} {p w : Nat} {r : DirRec} (hmem : NMap.rising s.mem = true) (haddr : s.dirAddr p = w)
  (hfit : w + 4 ≤ Config.stackBytes)
include hmem haddr hfit

theorem State.leNat_setDir : leNat ((s.setDir p r).bytesAt w 4) = r.word := by
  have hread := State.bytesAt_putBytes_self (p := w) (bs := leBytes 4 r.word) hmem (by rwa [length_leBytes])
  rw [length_leBytes] at hread
  rw [State.setDir, haddr, hread, leNat_leBytes, Nat.mod_eq_of_lt (show r.word < 256 ^ 4 from r.word_lt)]

theorem State.setDir_read {x : Nat} (h : x < w ∨ w + 4 ≤ x) : Mem.read (s.setDir p r).mem x = Mem.read s.mem x := by
  rw [State.setDir, haddr]
  exact State.read_putBytes_other hmem (by rwa [length_leBytes]) (by rwa [length_leBytes])

theorem State.setDir_bytesAt {a n : Nat} (ha : a + n ≤ Config.stackBytes) (h : w + 4 ≤ a ∨ a + n ≤ w) :
    (s.setDir p r).bytesAt a n = s.bytesAt a n := by
  rw [State.setDir, haddr]
  exact State.bytesAt_putBytes_other hmem (by rwa [length_leBytes]) ha (by rwa [length_leBytes])

theorem State.kept_setDir {a g : Nat} (hdgAddr : s.dgAddr a = g) (hdg : g + 8 ≤ Config.stackBytes)
    (h : w + 4 ≤ g ∨ g + 8 ≤ w) : (s.setDir p r).kept a = s.kept a := by
  have hsame : (s.setDir p r).dgAddr a = g := (State.putBytes_dgAddr s _ _ a).trans hdgAddr
  rw [State.kept, State.kept, hsame, hdgAddr, State.setDir_bytesAt hmem haddr hfit hdg h]

end

/-! ## A copy written whole with its record -/

/-- A panel written whole at `a` with its kept digest, and the record of the panel at `p`. -/
def State.touchPanel (s : State) (a p : Nat) (bs : List Byte) (d : Word) (r : DirRec) : State :=
  (s.putPanel a a bs d).setDir p r

section
variable {s : State} {a p : Nat} {bs : List Byte} {d : Word} {r : DirRec} (hmem : NMap.rising s.mem = true)
  (hw : s.dirAddr p + 4 ≤ Config.stackBytes)
include hmem hw

theorem State.leNat_touchPanel : leNat ((s.touchPanel a p bs d r).bytesAt (s.dirAddr p) 4) = r.word :=
  State.leNat_setDir (State.putPanel_rising hmem) (s.putPanel_dirAddr ..) hw

variable (hdg : s.dgAddr a + 8 ≤ Config.stackBytes)
include hdg

theorem State.touchPanel_kept (h : s.dirAddr p + 4 ≤ s.dgAddr a ∨ s.dgAddr a + 8 ≤ s.dirAddr p) :
    (s.touchPanel a p bs d r).kept a = d :=
  (State.kept_setDir (State.putPanel_rising hmem) (s.putPanel_dirAddr ..) hw (s.putPanel_dgAddr ..) hdg h).trans
    (State.putPanel_kept hmem hdg)

variable {n : Nat} (hlen : bs.length = n) (hfit : a + n ≤ Config.stackBytes)
include hlen hfit

theorem State.touchPanel_bytesAt (hdgApart : s.dgAddr a + 8 ≤ a ∨ a + n ≤ s.dgAddr a)
    (hwApart : s.dirAddr p + 4 ≤ a ∨ a + n ≤ s.dirAddr p) : (s.touchPanel a p bs d r).bytesAt a n = bs :=
  (State.setDir_bytesAt (State.putPanel_rising hmem) (s.putPanel_dirAddr ..) hw hfit hwApart).trans
    (State.putPanel_bytesAt hmem hdg hlen hfit hdgApart)

theorem State.touchPanel_read {x : Nat} (hpanel : x < a ∨ a + n ≤ x)
    (hdigest : x < s.dgAddr a ∨ s.dgAddr a + 8 ≤ x) (hrecord : x < s.dirAddr p ∨ s.dirAddr p + 4 ≤ x) :
    Mem.read (s.touchPanel a p bs d r).mem x = Mem.read s.mem x :=
  (State.setDir_read (State.putPanel_rising hmem) (s.putPanel_dirAddr ..) hw hrecord).trans
    (State.putPanel_read hmem hdg hlen hfit hpanel hdigest)

end

/-! ## The two ways of an accumulate step -/

theorem length_xorBytes {x y : List Byte} (h : x.length = y.length) : (xorBytes x y).length = y.length := by
  induction x generalizing y with
  | nil => rfl
  | cons b x ih =>
    cases y with
    | nil => exact h
    | cons c y => exact congrArg (· + 1) (ih (Nat.succ.inj h))

theorem length_slice (bs : List Byte) (o n : Nat) : (slice bs o n).length = n := by
  simp only [slice, List.length_append, List.length_replicate, List.length_take]
  omega

theorem length_splice {bs new : List Byte} {o : Nat} (h : o + new.length ≤ bs.length) :
    (splice bs o new).length = bs.length := by
  simp only [splice, List.length_append, List.length_take, List.length_drop]
  omega

/-- A panel with a product exclusive-ored into its bytes from offset `o` on. -/
def withProduct (base : List Byte) (o : Nat) (bytes : List Byte) : List Byte :=
  splice base o (xorBytes (slice base o bytes.length) bytes)

theorem length_withProduct {base bytes : List Byte} {o : Nat} (h : o + bytes.length ≤ base.length) :
    (withProduct base o bytes).length = base.length :=
  length_splice (by rwa [length_xorBytes (length_slice _ _ _)])

section
variable {s : State} {i : Fin 64} {k e o : Nat} {bytes : List Byte} {d : SettDesc} (hd : (s.slot k).sett = d)
include hd

theorem State.accumulate_touched {flt : ReadFault} (hn : (s.parityRec d e).n = true)
    (hcurrent : s.recCurrent (s.parityRec d e) = true) : s.accumulate i k e o bytes flt =
      s.putPanel (s.parityAddr d e (!(s.parityRec d e).c)) (s.parityAddr d e (!(s.parityRec d e).c) + o)
        (xorBytes (s.bytesAt (s.parityAddr d e (!(s.parityRec d e).c) + o) bytes.length) bytes)
        (s.kept (s.parityAddr d e (!(s.parityRec d e).c)) ^^^ pdAt o bytes) := by
  unfold State.accumulate
  rw [hd]
  exact if_pos (by simp [hn, hcurrent])

theorem State.accumulate_firstTouch (hn : (s.parityRec d e).n = false) (hmissing : e ∉ (s.slot k).missing)
    (hdigest : s.digestOk (s.parityAddr d e (s.parityRec d e).c) = true) : s.accumulate i k e o bytes .none =
      s.touchPanel (s.parityAddr d e (!(s.parityRec d e).c)) (s.parityAddr d e false)
        (withProduct (s.bytesAt (s.parityAddr d e (s.parityRec d e).c) 4096) o bytes)
        (s.kept (s.parityAddr d e (s.parityRec d e).c) ^^^ pdAt o bytes)
        { s.parityRec d e with n := true, d := false, att := (s.ten i).commit.att } := by
  have hpresent : (s.slot k).missing.contains e = false := by simpa using hmissing
  unfold State.accumulate
  rw [hd]
  dsimp only
  rw [if_neg (by simp [hn]), if_pos (by simp [hdigest]), hpresent]
  rfl

end

/-! ## The statement -/

/-- Settles O60: the step is `State.putPanel` into a copy already touched and `State.touchPanel` at first touch; what
either leaves follows range by range. -/
theorem productIsAccumulated : Obligations.ProductIsAccumulated := by
  intro s i k e o bytes hwf hlen d r a b w t ha hdg hw hdgApart hwApart hwdg
  have hmem := State.mem_rising hwf
  refine ⟨fun hn hcurrent => ?_, fun hn hmissing hdigest => ?_⟩
  · have ht : t = s.putPanel a (a + o) (xorBytes (s.bytesAt (a + o) bytes.length) bytes) (s.kept a ^^^ pdAt o bytes) :=
      State.accumulate_touched rfl hn hcurrent
    have hnew : (xorBytes (s.bytesAt (a + o) bytes.length) bytes).length = bytes.length :=
      length_xorBytes (length_readN _ _ _ _)
    rw [ht]
    exact ⟨rfl, State.putPanel_bytesAt hmem hdg hnew (by omega) (by omega), State.putPanel_kept hmem hdg,
      fun x => State.putPanel_read hmem hdg hnew (by omega)⟩
  · have ht : t = s.touchPanel a (s.parityAddr d e false) (withProduct (s.bytesAt b 4096) o bytes)
        (s.kept b ^^^ pdAt o bytes) { r with n := true, d := false, att := (s.ten i).commit.att } :=
      State.accumulate_firstTouch rfl hn hmissing hdigest
    have hnew : (withProduct (s.bytesAt b 4096) o bytes).length = 4096 :=
      (length_withProduct (by rwa [State.bytesAt, length_readN])).trans (length_readN _ _ _ _)
    rw [ht]
    exact ⟨rfl, State.touchPanel_bytesAt hmem hw hdg hnew ha hdgApart hwApart, State.touchPanel_kept hmem hw hdg hwdg,
      State.leNat_touchPanel hmem hw, fun x => State.touchPanel_read hmem hw hdg hnew ha⟩

end Sys2Proof.Machine

/-! # The frames of the skim path

SKIM_DELTA, SKIM_ACK and EPOCH_MARK at their receivers, once they pass the checks of R75 (R115, R197, R199 to R201). -/

namespace Sys2Proof.Machine

@[simp] theorem State.at_slot (s : State) (t : BitVec 64) (k : Nat) : (s.at_ t).slot k = s.slot k :=
  State.slot_congr (s.at_slots t) k

/-- Whether a source entry has not seen number `n`: it is not below CUM and its ring bit is clear. -/
def SrcEntry.isNew (e : SrcEntry) (n : Nat) : Prop := e.cum ≤ n ∧ e.ring.getLsbD (n % 2048) = false

theorem SrcEntry.not_isNew_iff {e : SrcEntry} {n : Nat} :
    ¬ e.isNew n ↔ n < e.cum ∨ e.ring.getLsbD (n % 2048) = true := by
  rw [SrcEntry.isNew, not_and_or, Nat.not_le, Bool.not_eq_false]

/-- A source that has not closed below `n`. -/
theorem not_closedBelow {e : SrcEntry} {n : Nat} (h : e.closed = false ∨ n ≤ e.count) :
    ¬ (e.closed = true ∧ e.count < n) := by
  rintro ⟨hclosed, hcount⟩
  exact h.elim (fun hopen => Bool.false_ne_true (hopen.symm.trans hclosed)) (Nat.not_le.2 hcount)

/-! ## A delta -/

/-- A source entry with the delta of number `n` applied and its acknowledgement owed. -/
def SrcEntry.withDelta (e : SrcEntry) (n : Nat) : SrcEntry :=
  { ({ e with ring := e.ring ||| ringBit n, applied := e.applied + 1
              high := some (max n (e.high.getD 0)) } : SrcEntry).advance 2048 with ackDue := true }

/-- The extent a delta frame carries, expanded where it is elided (R79). -/
def deltaRaw (f : Rx) : List Byte :=
  if f.elided then expand (if f.t.getLsbD 59 then 4096 else 256) f.payload else f.payload

/-- The product of a delta frame at its holder. -/
def State.deltaProduct (s : State) (f : Rx) (h : HoldAt) : Nat × List Byte :=
  h.product (s.slot h.slot).sett (tField f 55 4) (f.t.getLsbD 59) (deltaRaw f)

/-- What a holder does with a delta of a source: nothing where it is broken, an event where it is closed below, a count
where the number came before, else the accumulation (R115, R200). -/
def State.takeDelta (s : State) (i : Fin 64) (f : Rx) (flt : ReadFault) (h : HoldAt) (e : SrcEntry) : State :=
  let n := tField f 0 32
  let e' := e.settle (n - 28)
  let q := s.deltaProduct f h
  if e.broken then s
  else if e.closed ∧ e.count < n then s.frameEvent f 0xA2
  else if n < e'.cum ∨ e'.ring.getLsbD (n % 2048) then
    (s.count 0xAC).updSource h.slot h.rank fun _ => { e' with ackDue := true }
  else
    ((((s.accumulate i h.slot h.e q.1 q.2 flt).updSource h.slot h.rank fun _ => e'.withDelta n).countN 0x1D
      (q.2.length / 256)).follow i)

theorem exec_skimDelta {s : State} {f : Rx} {flt : ReadFault} {i : Fin 64} {h : HoldAt} {e : SrcEntry}
    (hgood : frameGood s f 0x01 i) (hblk : f.t.getLsbD 59 = true → tField f 55 4 = 0) (hlen : deltaLenOk f = true)
    (hopen : (s.at_ f.time).inOpenAttempt i f = true)
    (hhold : (s.at_ f.time).holdAt i f.src (tField f 60 4) (tField f 32 23) = some h)
    (hsource : (s.at_ f.time).source h.slot h.rank = some e) :
    exec (.skimDelta f flt) s = .next ((s.at_ f.time).takeDelta i f flt h e) := by
  have hok : (!f.t.getLsbD 59 || tField f 55 4 == 0) = true := by
    simpa [imp_iff_not_or] using hblk
  have hexec : exec (.skimDelta f flt) s = execSkimDelta f flt s := rfl
  rw [hexec, execSkimDelta, State.receive_good _ hgood hok hlen hopen (Option.isSome_iff_exists.2 ⟨h, hhold⟩)]
  simp only [hhold, hsource]
  rfl

section
variable {s : State} {i : Fin 64} {f : Rx} {flt : ReadFault} {h : HoldAt} {e : SrcEntry}

theorem State.takeDelta_broken (hbroken : e.broken = true) : s.takeDelta i f flt h e = s := if_pos hbroken

variable (hwhole : e.broken = false)
include hwhole

theorem State.takeDelta_closed (hclosed : e.closed = true) (hcount : e.count < tField f 0 32) :
    s.takeDelta i f flt h e = s.frameEvent f 0xA2 := by
  rw [State.takeDelta, if_neg (by simp [hwhole]), if_pos ⟨hclosed, hcount⟩]

variable (hbelow : e.closed = false ∨ tField f 0 32 ≤ e.count)
include hbelow

theorem State.takeDelta_repeated (hold : ¬ (e.settle (tField f 0 32 - 28)).isNew (tField f 0 32)) :
    s.takeDelta i f flt h e = (s.count 0xAC).updSource h.slot h.rank fun _ =>
      { e.settle (tField f 0 32 - 28) with ackDue := true } := by
  rw [State.takeDelta, if_neg (by simp [hwhole]), if_neg (not_closedBelow hbelow),
    if_pos (SrcEntry.not_isNew_iff.1 hold)]

theorem State.takeDelta_new (hnew : (e.settle (tField f 0 32 - 28)).isNew (tField f 0 32)) :
    s.takeDelta i f flt h e =
      (((s.accumulate i h.slot h.e (s.deltaProduct f h).1 (s.deltaProduct f h).2 flt).updSource h.slot h.rank fun _ =>
        (e.settle (tField f 0 32 - 28)).withDelta (tField f 0 32)).countN 0x1D
          ((s.deltaProduct f h).2.length / 256)).follow i := by
  rw [State.takeDelta, if_neg (by simp [hwhole]), if_neg (not_closedBelow hbelow),
    if_neg fun hold => SrcEntry.not_isNew_iff.2 hold hnew]

end

/-! ## An acknowledgement -/

/-- A frame in OUT of a slot that an acknowledgement of CUM and a mask of later numbers covers (R197). -/
def HawkRec.coveredBy (slot cum sack : Nat) (r : HawkRec) : Bool :=
  r.slot.val == slot && r.st == .out &&
    match r.seq with
    | some n => decide (n < cum) || (decide (cum < n) && sack.testBit (n - cum - 1))
    | none => false

theorem exec_skimAck {s : State} {f : Rx} {i : Fin 64} (hgood : frameGood s f 0x02 i) (hlen : f.len = 0)
    (hopen : (s.at_ f.time).inOpenAttempt i f = true) (hkind : (s.slot (tField f 60 4)).kind = .sett)
    (hknown : (s.at_ f.time).knownIn i (tField f 60 4) f.src = true) :
    exec (.skimAck f) s = .next (
      if ackBeyond (s.slot (tField f 60 4)).next (tField f 0 32) (tField f 32 28) then (s.at_ f.time).frameEvent f 0xA2
      else ((s.at_ f.time).releaseFor f.src
        (HawkRec.coveredBy (tField f 60 4) (tField f 0 32) (tField f 32 28))).follow i) := by
  have hexec : exec (.skimAck f) s = execSkimAck f s := rfl
  rw [hexec, execSkimAck, State.receive_good _ hgood rfl (beq_iff_eq.2 hlen) hopen (by simp [hkind, hknown]),
    State.at_slot]
  rfl

/-! ## A marker -/

/-- Whether a number above `n` has come from a source. -/
def SrcEntry.passed (e : SrcEntry) (n : Nat) : Bool :=
  match e.high with
  | some x => decide (n < x)
  | none => false

theorem SrcEntry.passed_iff {e : SrcEntry} {n : Nat} : e.passed n = true ↔ ∃ x : Nat, e.high = some x ∧ n < x := by
  unfold SrcEntry.passed
  cases e.high <;> simp

/-- A source entry closed by a marker at count `n`, with its acknowledgement owed. -/
def SrcEntry.closedAt (e : SrcEntry) (n : Nat) : SrcEntry :=
  { ({ e with ring := e.ring ||| ringBit n } : SrcEntry).advance 2048 with ackDue := true, count := n, closed := true }

/-- What a holder does with a marker of a source (R200). -/
def State.takeMark (s : State) (i : Fin 64) (f : Rx) (k r : Nat) (e : SrcEntry) : State :=
  let n := tField f 0 32
  let e' := e.settle n
  if e.broken then s
  else if e.closed ∧ e.count < n then s.frameEvent f 0xA2
  else if e.passed n then ((s.frameEvent f 0xA2).withhold i 0x0D).follow i
  else if n < e'.cum ∨ e'.ring.getLsbD (n % 2048) then (s.count 0xAC).updSource k r fun _ => { e' with ackDue := true }
  else (s.updSource k r fun _ => e'.closedAt n).follow i

theorem exec_epochMark {s : State} {f : Rx} {i : Fin 64} {k r : Nat} {e : SrcEntry} (hgood : frameGood s f 0x03 i)
    (hlen : f.len = 0) (hzero : tField f 32 28 = 0) (hopen : (s.at_ f.time).inOpenAttempt i f = true)
    (hslot : (s.at_ f.time).slotBySender i f.src (tField f 60 4) = some k) (hrank : (s.slot k).rankOf f.src = some r)
    (hsource : (s.at_ f.time).source k r = some e) :
    exec (.epochMark f) s = .next ((s.at_ f.time).takeMark i f k r e) := by
  have hexec : exec (.epochMark f) s = execEpochMark f s := rfl
  rw [hexec, execEpochMark, State.receive_good _ hgood (beq_iff_eq.2 hzero) (beq_iff_eq.2 hlen) hopen
    (Option.isSome_iff_exists.2 ⟨k, hslot⟩)]
  simp only [hslot, State.at_slot, hrank, hsource]
  rfl

section
variable {s : State} {i : Fin 64} {f : Rx} {k r : Nat} {e : SrcEntry}

theorem State.takeMark_broken (hbroken : e.broken = true) : s.takeMark i f k r e = s := if_pos hbroken

variable (hwhole : e.broken = false)
include hwhole

theorem State.takeMark_closed (hclosed : e.closed = true) (hcount : e.count < tField f 0 32) :
    s.takeMark i f k r e = s.frameEvent f 0xA2 := by
  rw [State.takeMark, if_neg (by simp [hwhole]), if_pos ⟨hclosed, hcount⟩]

variable (hbelow : e.closed = false ∨ tField f 0 32 ≤ e.count)
include hbelow

theorem State.takeMark_late (hlate : e.passed (tField f 0 32) = true) :
    s.takeMark i f k r e = ((s.frameEvent f 0xA2).withhold i 0x0D).follow i := by
  rw [State.takeMark, if_neg (by simp [hwhole]), if_neg (not_closedBelow hbelow), if_pos hlate]

variable (htimely : ¬ e.passed (tField f 0 32) = true)
include htimely

theorem State.takeMark_repeated (hold : ¬ (e.settle (tField f 0 32)).isNew (tField f 0 32)) :
    s.takeMark i f k r e =
      (s.count 0xAC).updSource k r fun _ => { e.settle (tField f 0 32) with ackDue := true } := by
  rw [State.takeMark, if_neg (by simp [hwhole]), if_neg (not_closedBelow hbelow), if_neg htimely,
    if_pos (SrcEntry.not_isNew_iff.1 hold)]

theorem State.takeMark_closes (hnew : (e.settle (tField f 0 32)).isNew (tField f 0 32)) :
    s.takeMark i f k r e =
      (s.updSource k r fun _ => (e.settle (tField f 0 32)).closedAt (tField f 0 32)).follow i := by
  rw [State.takeMark, if_neg (by simp [hwhole]), if_neg (not_closedBelow hbelow), if_neg htimely,
    if_neg fun hold => SrcEntry.not_isNew_iff.2 hold hnew]

end

/-! ## The statement -/

/-- Settles O17: a delta and a marker by the source entry they meet, an acknowledgement by whether it names a number not
sent. -/
theorem skimFrameRowsComplete : Obligations.SkimFrameRowsComplete := by
  refine ⟨fun s f flt i h e hgood hblk hlen hopen hhold hsource => ?_, fun s f i hgood hlen hopen hkind hknown => ?_,
    fun s f i k r e hgood hlen hzero hopen hslot hrank hsource => ?_⟩
  · rw [exec_skimDelta hgood hblk hlen hopen hhold hsource]
    exact ⟨fun hbroken => congrArg _ (State.takeDelta_broken hbroken),
      fun hwhole hclosed hcount => congrArg _ (State.takeDelta_closed hwhole hclosed hcount),
      fun hwhole hbelow => ⟨fun hold => congrArg _ (State.takeDelta_repeated hwhole hbelow hold),
        fun hnew => congrArg _ (State.takeDelta_new hwhole hbelow hnew)⟩⟩
  · rw [exec_skimAck hgood hlen hopen hkind hknown]
    exact ⟨fun hbeyond => congrArg _ (if_pos hbeyond), fun hsent => congrArg _ (if_neg (by simp [hsent]))⟩
  · rw [exec_epochMark hgood hlen hzero hopen hslot hrank hsource]
    simp only [← SrcEntry.passed_iff]
    exact ⟨fun hbroken => congrArg _ (State.takeMark_broken hbroken),
      fun hwhole hclosed hcount => congrArg _ (State.takeMark_closed hwhole hclosed hcount),
      fun hwhole hbelow => ⟨fun hpast => congrArg _ (State.takeMark_late hwhole hbelow hpast),
        fun htimely hold => congrArg _ (State.takeMark_repeated hwhole hbelow htimely hold),
        fun htimely hnew => congrArg _ (State.takeMark_closes hwhole hbelow htimely hnew)⟩⟩

end Sys2Proof.Machine

/-! # Gradient lines

INTAKE and INTAKE_WINDOW_WRITE: the chunk a window address names, how an arrival is judged, and what each judgement does
(R53, R76, R137, R138, R141, R143). -/

namespace Sys2Proof.Machine

/-! ## A frame taken under any generation -/

/-- A frame of a type that skips checks 5 and 6, and that passes the others of R75, is handled. -/
theorem State.receive_anyGen {s : State} {f : Rx} {c : Check} {i : Fin 64} (k : State → Fin 64 → State)
    (hskip : c.skipGen = true) (hgood : frameAnyGen s f c.typ i) (hok2 : c.ok2 = true) (hok3 : c.ok3 = true)
    (hok7 : c.ok7 (s.at_ f.time) i = true) (hok8 : c.ok8 (s.at_ f.time) i = true) :
    s.receive f c k = k (s.at_ f.time) i := by
  obtain ⟨hp, htakes, herr, hcrc, hver, htyp, hmark, helided, hrsv1, hrsv2, hlen, hten, hlost⟩ := hgood
  have hwhole : (f.elided && f.typ != 0x01) = false := by
    rcases helided with h | h
    · simp [h]
    · simp [htyp, h]
  have hfirst : (f.eiErr || decide (f.crc ≠ frameCrc f)) = false := by simp [herr, hcrc]
  have hsecond : (decide (f.ver ≠ 3) || decide (f.typ ≠ c.typ) || f.mark != (f.typ == 0x03) ||
      (f.elided && f.typ != 0x01) || f.rsv1 || decide (f.rsv2 ≠ 0) || !c.ok2) = false := by
    rw [hwhole]
    simp [hver, htyp, hmark, hrsv1, hrsv2, hok2]
  have hthird : (decide (f.len.toNat ≠ f.payload.length) || !c.ok3) = false := by simp [hlen, hok3]
  simp only [State.receive, hp, htakes, hfirst, hsecond, hthird, hten, hskip, hok7, hok8, hlost]
  rfl

/-! ## The judgement of an arrival -/

section
variable {s : State} {i : Fin 64} {c sl off n : Nat}

theorem State.judgeArrival_flush (hflush : (s.ten i).intake.flush = true) : s.judgeArrival i c sl off n = .flush :=
  if_pos hflush

variable (hopen : (s.ten i).intake.flush = false)
include hopen

theorem State.judgeArrival_closed (h : s.shareBytes i = 0 ∨ (s.ten i).intake.epoch = 0) :
    s.judgeArrival i c sl off n = .beyond := by
  rw [State.judgeArrival, if_neg (by simp [hopen]), if_pos h]

variable (hshare : s.shareBytes i ≠ 0) (hepoch : (s.ten i).intake.epoch ≠ 0)
include hshare hepoch

theorem State.judgeArrival_below (hbelow : c < (s.ten i).intake.low) : s.judgeArrival i c sl off n = .outside := by
  rw [State.judgeArrival, if_neg (by simp [hopen]), if_neg (not_or.2 ⟨hshare, hepoch⟩), if_pos hbelow]

variable (hlow : (s.ten i).intake.low ≤ c)
include hlow

theorem State.judgeArrival_manifest (hzero : c = 0) (hslot : sl = 0) (hroom : (off + n) * 64 ≤ s.manRoom i) :
    s.judgeArrival i c sl off n = .manifest := by
  rw [State.judgeArrival, if_neg (by simp [hopen]), if_neg (not_or.2 ⟨hshare, hepoch⟩), if_neg (Nat.not_lt.2 hlow),
    if_pos hzero, if_pos ⟨hslot, hroom⟩]

variable (hc : c ≠ 0)
include hc

theorem State.judgeArrival_unallocated (hnone : ∀ x ∈ (s.ten i).intake.chunks, x.no ≠ c) :
    s.judgeArrival i c sl off n = if c = (s.ten i).intake.high + 1 then .next
      else if (s.ten i).intake.high < c then .beyond else .outside := by
  have hfind : (s.ten i).intake.chunks.find? (fun x => x.no == c) = none :=
    List.find?_eq_none.2 fun x hx => by simpa using hnone x hx
  simp only [State.judgeArrival, hopen, hfind]
  rw [if_neg Bool.false_ne_true, if_neg (not_or.2 ⟨hshare, hepoch⟩), if_neg (Nat.not_lt.2 hlow), if_neg hc]

theorem State.judgeArrival_allocated {x : Chunk} (hfind : ((s.ten i).intake.chunks.find? fun x => x.no == c) = some x) :
    s.judgeArrival i c sl off n = if sl < x.mrec.ns ∧ (off + n) * 64 ≤ x.ls then .chunk c else .outside := by
  simp only [State.judgeArrival, hopen, hfind]
  rw [if_neg Bool.false_ne_true, if_neg (not_or.2 ⟨hshare, hepoch⟩), if_neg (Nat.not_lt.2 hlow), if_neg hc]

end

/-! ## The chunk a window address names -/

/-- The number nearest above or below HIGH whose residue modulo 16384 is `d`, never a negative one (R137). -/
def nearHigh (high d : Nat) : Nat :=
  let e := (d + 16384 - high % 16384) % 16384
  if e < 8192 ∨ high + e < 16384 then high + e else high + e - 16384

theorem nearHigh_mod {high d : Nat} (hd : d < 16384) : nearHigh high d % 16384 = d := by
  unfold nearHigh
  dsimp only
  split <;> omega

/-- Once HIGH has reached half a turn of the residues, the number lies within half a turn of it. -/
theorem nearHigh_within {high : Nat} (d : Nat) (hhigh : 8192 ≤ high) :
    nearHigh high d < high + 8192 ∧ high ≤ nearHigh high d + 8192 := by
  unfold nearHigh
  dsimp only
  split <;> omega

section
variable {t : IntakeS} {d : Nat}

theorem IntakeS.windowChunk_manifest (hzero : d = 0) (hlow : t.low = 0) : t.windowChunk d = 0 :=
  if_pos ⟨hzero, hlow⟩

variable (hnot : d ≠ 0 ∨ t.low ≠ 0)
include hnot

theorem IntakeS.windowChunk_unallocated (hnone : ∀ x ∈ t.chunks, x.no % 16384 ≠ d) :
    t.windowChunk d = nearHigh t.high d := by
  have hfind : t.chunks.find? (fun x => x.no % 16384 == d) = none :=
    List.find?_eq_none.2 fun x hx => by simpa using hnone x hx
  rw [IntakeS.windowChunk, if_neg (not_and_or.2 hnot), hfind]
  rfl

theorem IntakeS.windowChunk_allocated (hsome : ∃ x ∈ t.chunks, x.no % 16384 = d) :
    ∃ x ∈ t.chunks, t.windowChunk d = x.no ∧ x.no % 16384 = d := by
  have hfound : (t.chunks.find? fun x => x.no % 16384 == d).isSome = true := by simpa using hsome
  obtain ⟨x, hx⟩ := Option.isSome_iff_exists.1 hfound
  refine ⟨x, List.mem_of_find?_eq_some hx, ?_, by simpa using List.find?_some hx⟩
  rw [IntakeS.windowChunk, if_neg (not_and_or.2 hnot), hx]

theorem IntakeS.windowChunk_mod (hd : d < 16384) : t.windowChunk d % 16384 = d := by
  by_cases hsome : ∃ x ∈ t.chunks, x.no % 16384 = d
  · obtain ⟨x, -, hchunk, hmod⟩ := IntakeS.windowChunk_allocated hnot hsome
    rw [hchunk, hmod]
  · have hnone : ∀ x ∈ t.chunks, x.no % 16384 ≠ d := fun x hx hmod => hsome ⟨x, hx, hmod⟩
    rw [IntakeS.windowChunk_unallocated hnot hnone, nearHigh_mod hd]

end

/-! ## Lines that arrive -/

theorem State.arriveLines_writes {s : State} {i : Fin 64} {c sl off no : Nat} {ls : List Line} {v : Arrival}
    (h : v = .manifest ∨ v = .chunk no) : s.arriveLines i c sl off ls v = s.writeLines i c sl off ls := by
  rcases h with rfl | rfl <;> rfl

theorem State.arriveLines_notAllocated {s : State} {i : Fin 64} {c sl off : Nat} {ls : List Line} {v : Arrival}
    (h : v = .next ∨ v = .beyond) : s.arriveLines i c sl off ls v = s.raiseT i 0x72 c := by
  rcases h with rfl | rfl <;> rfl

/-- The judgement of the lines an INTAKE frame carries. -/
def State.judgeFrame (s : State) (i : Fin 64) (f : Rx) : Arrival :=
  s.judgeArrival i (tField f 0 24) (tField f 24 4) (tField f 28 12) (f.payload.length / 64)

theorem exec_intake {s : State} {f : Rx} {i : Fin 64} (hgood : frameAnyGen s f 0x30 i) (hzero : tField f 40 24 = 0)
    (hlines : f.payload.length % 64 = 0) (hmin : 64 ≤ f.payload.length) (hmax : f.payload.length ≤ 4096)
    (hepoch : (s.ten i).intake.epoch = f.epoch.toNat) (hsealed : f.epoch ≠ 0) (htry : f.tr = 0) :
    exec (.intake f) s = .next ((s.at_ f.time).arriveLines i (tField f 0 24) (tField f 24 4) (tField f 28 12)
      ((chunksOf 64 (f.payload.length / 64) f.payload).map lineOf) ((s.at_ f.time).judgeFrame i f)) := by
  have hexec : exec (.intake f) s = execIntake f s := rfl
  rw [hexec, execIntake, State.receive_anyGen _ rfl hgood (by simp [hzero]) (by simp [hlines, hmin, hmax])
    (by simpa [hepoch, htry] using hsealed) rfl]
  rfl

/-! ## A write through the window -/

/-- The chunk a window write names. -/
def State.windowNamed (s : State) (i : Fin 64) (q : NqReq) : Nat :=
  (s.ten i).intake.windowChunk (bitsOf q.addr.toNat 22 14)

/-- The judgement of the line of a window write. -/
def State.judgeWindow (s : State) (i : Fin 64) (q : NqReq) : Arrival :=
  s.judgeArrival i (s.windowNamed i q) (bitsOf q.addr.toNat 18 4) (bitsOf q.addr.toNat 6 12) 1

/-- The line of a window write, arrived with the judgement `v`. -/
def State.windowArrives (s : State) (i : Fin 64) (q : NqReq) (v : Arrival) : State :=
  (s.ok q.id).arriveLines i (s.windowNamed i q) (bitsOf q.addr.toNat 18 4) (bitsOf q.addr.toNat 6 12) [q.data] v

/-- What a window write of a tenant does: a partial line is an event, a line of the next chunk is answered RETRY and
counted, any other line arrives. -/
def State.takeWindowLine (s : State) (i : Fin 64) (q : NqReq) : State :=
  if ~~~q.be ≠ 0 then (s.ok q.id).raiseT i 0x74 (s.windowNamed i q)
  else if s.judgeWindow i q = .next then (s.respond q.id .retry 0 0).count 0x3C
  else s.windowArrives i q (s.judgeWindow i q)

theorem exec_intakeWindowWrite (q : NqReq) (s : State) : exec (.intakeWindowWrite q) s = execIntakeWindowWrite q s :=
  rfl

section
variable {s : State} {q : NqReq} (hp : s.portsUp = true)
include hp

theorem exec_intakeWindowWrite_malformed (hform : q.space ≠ 2 ∨ 1 < q.op.toNat) :
    exec (.intakeWindowWrite q) s = .next (s.busError q 0xC) := by
  rw [exec_intakeWindowWrite, execIntakeWindowWrite, if_neg (by simp [hp]), if_pos hform]

variable (hspace : q.space = 2)
include hspace

theorem exec_intakeWindowWrite_read (hop : q.op = 0) : exec (.intakeWindowWrite q) s = .next (s.ok q.id) := by
  rw [exec_intakeWindowWrite, execIntakeWindowWrite, if_neg (by simp [hp]), if_neg (by simp [hspace, hop]), if_pos hop]

variable (hop : q.op = 1)
include hop

theorem exec_intakeWindowWrite_written : exec (.intakeWindowWrite q) s =
    .next ((s.tenantOf q.tag).elim (s.busError q 0x2) fun i => s.takeWindowLine i q) := by
  rw [exec_intakeWindowWrite, execIntakeWindowWrite, if_neg (by simp [hp]), if_neg (by simp [hspace, hop]),
    if_neg (by simp [hop])]
  cases s.tenantOf q.tag with
  | none => rfl
  | some i =>
    rw [Option.elim_some, State.takeWindowLine]
    dsimp only
    split
    next => rfl
    next =>
      split
      next hjudge => exact congrArg _ (if_pos hjudge).symm
      next hjudge => exact congrArg _ (if_neg hjudge).symm

theorem exec_intakeWindowWrite_noTenant (hten : s.tenantOf q.tag = none) :
    exec (.intakeWindowWrite q) s = .next (s.busError q 0x2) := by
  rw [exec_intakeWindowWrite_written hp hspace hop, hten, Option.elim_none]

variable {i : Fin 64} (hten : s.tenantOf q.tag = some i)
include hten

theorem exec_intakeWindowWrite_partial (hbe : ~~~q.be ≠ 0) :
    exec (.intakeWindowWrite q) s = .next ((s.ok q.id).raiseT i 0x74 (s.windowNamed i q)) := by
  rw [exec_intakeWindowWrite_written hp hspace hop, hten, Option.elim_some, State.takeWindowLine, if_pos hbe]

variable (hbe : ~~~q.be = 0)
include hbe

theorem exec_intakeWindowWrite_retried (hjudge : s.judgeWindow i q = .next) :
    exec (.intakeWindowWrite q) s = .next ((s.respond q.id .retry 0 0).count 0x3C) := by
  rw [exec_intakeWindowWrite_written hp hspace hop, hten, Option.elim_some, State.takeWindowLine,
    if_neg (not_not.2 hbe), if_pos hjudge]

theorem exec_intakeWindowWrite_arrives {v : Arrival} (hjudge : s.judgeWindow i q = v) (hv : v ≠ .next) :
    exec (.intakeWindowWrite q) s = .next (s.windowArrives i q v) := by
  rw [exec_intakeWindowWrite_written hp hspace hop, hten, Option.elim_some, State.takeWindowLine,
    if_neg (not_not.2 hbe), hjudge, if_neg hv]

end

/-! ## The statement -/

/-- Settles O29: an arrival by its judgement, through a frame and through the window, and the judgement and the number of
the chunk by the case of their definitions. -/
theorem intakeLinesComplete : Obligations.IntakeLinesComplete := by
  refine ⟨fun s f i hgood hzero hlines hmin hmax hepoch hsealed htry => ?_, fun s q hp => ?_,
    fun s q i hp hspace hop hten => ?_, fun t d hd => ?_, fun s i c sl off n => ?_⟩
  · rw [exec_intake hgood hzero hlines hmin hmax hepoch hsealed htry]
    refine ⟨fun hv => congrArg _ (State.arriveLines_writes hv), fun hv => ?_,
      fun hv => congrArg _ (State.arriveLines_notAllocated hv), fun hv => ?_⟩
    · rw [State.judgeFrame, hv]
      rfl
    · rw [State.judgeFrame, hv]
      rfl
  · exact ⟨exec_intakeWindowWrite_malformed hp, exec_intakeWindowWrite_read hp,
      exec_intakeWindowWrite_noTenant hp⟩
  · have harrives {v : Arrival} := exec_intakeWindowWrite_arrives (v := v) hp hspace hop hten
    refine ⟨exec_intakeWindowWrite_partial hp hspace hop hten, fun hbe hv => ?_, fun hbe hv => harrives hbe hv nofun,
      fun hbe hv => harrives hbe hv nofun, fun hbe hv => harrives hbe hv nofun, fun hbe hv => ?_⟩
    · rcases hv with hv | hv <;> exact harrives hbe hv nofun
    · exact ⟨_, exec_intakeWindowWrite_retried hp hspace hop hten hbe hv, rfl, rfl,
        State.count_counter_self (s.respond q.id .retry 0 0) 0x3C⟩
  · refine ⟨IntakeS.windowChunk_manifest, fun hnot => IntakeS.windowChunk_mod hnot hd, fun hnot hnone hhigh => ?_,
      fun hnot hsome => ?_⟩
    · rw [IntakeS.windowChunk_unallocated hnot hnone]
      exact nearHigh_within d hhigh
    · obtain ⟨x, hx, hchunk, -⟩ := IntakeS.windowChunk_allocated hnot hsome
      exact ⟨x, hx, hchunk⟩
  · refine ⟨State.judgeArrival_flush, State.judgeArrival_closed, fun hopen hshare hepoch =>
      ⟨State.judgeArrival_below hopen hshare hepoch, fun hlow hzero => ?_, fun hlow hc hnone hnext => ?_,
        fun hlow hc hnone hbeyond => ?_, fun x hlow hc hfind => ?_⟩⟩
    · exact State.judgeArrival_manifest hopen hshare hepoch (hlow ▸ Nat.zero_le c) hzero
    · rw [State.judgeArrival_unallocated hopen hshare hepoch hlow hc hnone, if_pos hnext]
    · rw [State.judgeArrival_unallocated hopen hshare hepoch hlow hc hnone, if_neg (Nat.ne_of_gt hbeyond),
        if_pos (Nat.lt_of_succ_lt hbeyond)]
    · rw [State.judgeArrival_allocated hopen hshare hepoch hlow hc hfind]
      refine ⟨fun hslot hroom => if_pos ⟨hslot, hroom⟩, fun hout => if_neg ?_⟩
      rintro ⟨hslot, hroom⟩
      exact hout.elim (Nat.not_le.2 hslot) (Nat.not_lt.2 hroom)

end Sys2Proof.Machine

/-! # Room in the intake

CHUNK_ALLOCATE, the notice line it writes, and INTAKE_REOPEN (R140, R143, R150). -/

namespace Sys2Proof.Machine

/-! ## The next chunk -/

/-- Where the chunk after the last allocated one lies in the ring. -/
def State.nextBase (s : State) (i : Fin 64) : Nat :=
  let t := (s.ten i).intake
  ringBase t.recs (s.ringBytes i t.recs.length) (t.high + 1)

/-- The intake with the chunk after the last allocated one, of record `r`, placed at `base`, and its notice owed. -/
def IntakeS.allocated (t : IntakeS) (r : MRec) (base : Nat) : IntakeS :=
  { t with
    high := t.high + 1, noticeDue := true
    chunks := t.chunks ++ [{
      no := t.high + 1, mrec := r, base := base, size := r.ns * chunkLs r (t.high + 1), ls := chunkLs r (t.high + 1)
      lines := [], bad := false }] }

/-- Whether the next chunk, of record `r`, finds room: a valid manifest, fewer than 256 chunks, and its range of the ring
apart from every chunk's (R140). -/
def State.hasRoom (s : State) (i : Fin 64) (r : MRec) : Prop :=
  let t := (s.ten i).intake
  t.manSt = .ok ∧ t.chunks.length < 256 ∧
    ∀ x ∈ t.chunks, s.nextBase i + r.ns * chunkLs r (t.high + 1) ≤ x.base ∨ x.base + x.size ≤ s.nextBase i

section
variable {s : State} {i : Fin 64}

theorem State.allocChunk_none (h : (s.ten i).intake.manSt ≠ .ok ∨
    recOfChunk (s.ten i).intake.recs ((s.ten i).intake.high + 1) = none) : s.allocChunk i = none := by
  unfold State.allocChunk
  dsimp only
  split
  next r hman hrec =>
    rcases h with hbad | hnone
    · exact absurd hman hbad
    · exact absurd (hrec.symm.trans hnone) (Option.some_ne_none r)
  next => rfl

variable {r : MRec} (hrec : recOfChunk (s.ten i).intake.recs ((s.ten i).intake.high + 1) = some r)
include hrec

theorem State.allocChunk_full (h : ¬ s.hasRoom i r) : s.allocChunk i = none := by
  unfold State.allocChunk
  dsimp only
  split
  next r' hman hrec' =>
    obtain rfl : r = r' := Option.some.inj (hrec.symm.trans hrec')
    refine if_neg fun hfree => h ⟨hman, ?_⟩
    simpa [and_comm, State.nextBase] using hfree
  next => rfl

theorem State.allocChunk_room (h : s.hasRoom i r) :
    s.allocChunk i = some (s.updIntake i fun t => t.allocated r (s.nextBase i)) := by
  obtain ⟨hman, hfew, hfree⟩ := h
  simp only [State.allocChunk, hman, hrec]
  refine (if_pos ?_).trans rfl
  simpa [hfew, State.nextBase] using hfree

end

theorem State.at_nextBase (s : State) (now : BitVec 64) (i : Fin 64) : (s.at_ now).nextBase i = s.nextBase i := by
  simp only [State.nextBase, State.ringBytes, State.shareBytes, State.at_ten]

theorem State.at_hasRoom (s : State) (now : BitVec 64) (i : Fin 64) (r : MRec) :
    (s.at_ now).hasRoom i r ↔ s.hasRoom i r := by
  simp only [State.hasRoom, State.at_nextBase, State.at_ten]

/-! ## CHUNK_ALLOCATE -/

theorem exec_chunkAllocate (i : Fin 64) (now : BitVec 64) (s : State) :
    exec (.chunkAllocate i now) s = execChunkAllocate i now s := rfl

theorem exec_chunkAllocate_idle {s : State} {i : Fin 64} {now : BitVec 64}
    (h : s.portsUp = false ∨ s.flt.mode ≠ .normal ∨ (s.ten i).env = none) :
    exec (.chunkAllocate i now) s = .next s := by
  rw [exec_chunkAllocate, execChunkAllocate, if_pos]
  rcases h with h | h | h <;> simp [h]

theorem exec_chunkAllocate_acts {s : State} {i : Fin 64} {now : BitVec 64} (hp : s.portsUp = true)
    (hmode : s.flt.mode = .normal) (henv : (s.ten i).env ≠ none) :
    exec (.chunkAllocate i now) s = .next ((((s.at_ now).allocChunk i).getD (s.at_ now)).writeNotice i) := by
  rw [exec_chunkAllocate, execChunkAllocate, if_neg]
  simpa [hp, hmode] using henv

/-! ## The notice -/

section
variable {s : State} {i : Fin 64}

theorem State.writeNotice_notDue (hdue : (s.ten i).intake.noticeDue = false) : s.writeNotice i = s := by
  rw [State.writeNotice, if_pos (by simp [hdue])]

variable (hdue : (s.ten i).intake.noticeDue = true)
include hdue

theorem State.writeNotice_disabled (hoff : s.regs.notifyEn = false) :
    s.writeNotice i = s.updIntake i fun t => { t with noticeDue := false } := by
  rw [State.writeNotice, if_neg (by simp [hdue]), if_pos (by simp [hoff])]

variable (hon : s.regs.notifyEn = true)
include hon

theorem State.writeNotice_enabled : s.writeNotice i =
    if (s.ten i).intake.noticed ≠ 0 ∧ (s.time.now - (s.ten i).intake.noticed).toNat < 1000 then s
    else (s.putBytes (s.regs.notifyBase.toNat + 64 * i.val) (s.noticeLine i)).updIntake i fun t =>
      { t with noticeDue := false, noticed := s.time.now } := by
  rw [State.writeNotice, if_neg (by simp [hdue]), if_neg (by simp [hon])]
  simp only [passed, Bool.not_eq_true', decide_eq_false_iff_not, Nat.not_le, one_mul]

end

/-! ## INTAKE_REOPEN -/

theorem exec_intakeReopen (a : Acc) (s : State) : exec (.intakeReopen a) s = execIntakeReopen a s := rfl

/-- Whether a write of INTAKE_REOPEN is taken: the window is open, and it comes under the selected tenant's tag or from
system software. -/
def State.reopenTaken (s : State) (a : Acc) : Prop :=
  s.windowOpen 0x3048 = true ∧ (a.tag = 0 ∨ s.tenantOf a.tag = some s.regs.tsel.toFin)

section
variable {s : State} {a : Acc} (hp : s.portsUp = true)
include hp

theorem exec_intakeReopen_refused (h : ¬ s.reopenTaken a) : exec (.intakeReopen a) s = .next (s.refuse a.id 0x3048) := by
  rw [exec_intakeReopen, execIntakeReopen, if_neg (by simp [hp]), if_pos]
  simpa [State.reopenTaken, imp_iff_not_or] using h

theorem exec_intakeReopen_taken (h : s.reopenTaken a) : exec (.intakeReopen a) s =
    .next (((s.ok a.id).updIntake s.regs.tsel.toFin fun t => { t with flush := false }).follow s.regs.tsel.toFin) := by
  rw [exec_intakeReopen, execIntakeReopen, if_neg (by simp [hp]), if_neg]
  simpa [State.reopenTaken, or_iff_not_imp_left] using h

end

/-! ## The statement -/

/-- Settles O30: the next chunk by whether it finds room, the notice by whether it is owed and enabled, and the reopening
by whether its write is taken. -/
theorem intakeRoomComplete : Obligations.IntakeRoomComplete := by
  refine ⟨fun s i now => exec_chunkAllocate_idle, fun s i now hp hmode henv => ?_, fun s i => ?_, fun s a i hp hi => ?_⟩
  · rw [exec_chunkAllocate_acts hp hmode henv]
    refine ⟨fun h => ?_, fun r hrec => ⟨fun h => ?_, fun h => ?_⟩⟩
    · rw [State.allocChunk_none (by rwa [State.at_ten])]
      rfl
    · rw [State.allocChunk_full (by rwa [State.at_ten]) (mt (s.at_hasRoom now i r).1 h)]
      rfl
    · rw [State.allocChunk_room (by rwa [State.at_ten]) ((s.at_hasRoom now i r).2 h), State.at_nextBase]
      refine ⟨(s.at_ now).updIntake i fun t => t.allocated r (s.nextBase i), rfl, rfl, ?_, fun j hj => ?_⟩
      · rw [State.updIntake, State.updTen_self, State.at_ten]
        rfl
      · rw [State.updIntake, State.updTen_other _ _ _ _ hj, State.at_ten]
  · refine ⟨State.writeNotice_notDue, State.writeNotice_disabled, fun hdue hon hsoon => ?_, fun hdue hon hsoon => ?_⟩
    · rw [State.writeNotice_enabled hdue hon, if_pos hsoon]
    · rw [State.writeNotice_enabled hdue hon, if_neg hsoon]
      rfl
  · subst hi
    refine ⟨exec_intakeReopen_refused hp, fun h => ⟨_, exec_intakeReopen_taken hp h, rfl, ?_, fun j hj => ?_, rfl⟩⟩
    · rw [State.updIntake, State.updTen_self]
      rfl
    · exact State.updTen_other _ _ _ _ hj

end Sys2Proof.Machine

/-! # The rows of the sweep

SWEEP_SECTION_RUN, SWEEP_STRIP, SWEEP_PANEL_WRITTEN and RETIRING_PANEL_ZERO by what stands next in the sweep (R153 to
R156, R179, R183 to R186, R192). -/

namespace Sys2Proof.Machine

/-! ## A strip that is staged -/

/-- What becomes of a strip once its panels are staged: a read fault decides, else it is passed over, waits or runs by
its readiness (R148, R179, R269, R304). RED and BODY share it. -/
def State.tryStrip (s : State) (i : Fin 64) (flt : ReadFault) (x : StripAt) (qs : List (Nat × Nat)) (grads : Bool)
    (passed run : Out) : Out :=
  match s.stripFault i flt qs with
  | some t => .next (t.follow i)
  | none =>
    match s.stripReady i x qs grads with
    | .drop => passed
    | .wait t => .next t
    | .go => run

section
variable {s t : State} {i : Fin 64} {flt : ReadFault} {x : StripAt} {qs : List (Nat × Nat)} {grads : Bool}
  {passed run : Out}

theorem State.tryStrip_fault (h : s.stripFault i flt qs = some t) :
    s.tryStrip i flt x qs grads passed run = .next (t.follow i) := by
  rw [State.tryStrip, h]

variable (hflt : s.stripFault i flt qs = none)
include hflt

theorem State.tryStrip_drop (h : s.stripReady i x qs grads = .drop) :
    s.tryStrip i flt x qs grads passed run = passed := by
  rw [State.tryStrip, hflt, h]

theorem State.tryStrip_wait (h : s.stripReady i x qs grads = .wait t) :
    s.tryStrip i flt x qs grads passed run = .next t := by
  rw [State.tryStrip, hflt, h]

theorem State.tryStrip_go (h : s.stripReady i x qs grads = .go) :
    s.tryStrip i flt x qs grads passed run = run := by
  rw [State.tryStrip, hflt, h]

end

/-! ## A read fault -/

/-- The state with the bank the tenant selects gone BAD (R179). -/
def State.selectedBad (s : State) (i : Fin 64) : State :=
  if (s.ten i).bank then { s with ib := { s.ib with bank1 := { s.ib.bank1 with st := .bad } } }
  else { s with ib := { s.ib with bank0 := { s.ib.bank0 with st := .bad } } }

theorem State.selectedBad_frame (s : State) (i : Fin 64) :
    s.selectedBad i = { s with ib := (s.selectedBad i).ib } := by
  unfold State.selectedBad
  split <;> rfl

theorem State.selectedBad_bankOf (s : State) (i : Fin 64) : ((s.selectedBad i).bankOf i).st = .bad := by
  have hten : (s.selectedBad i).ten i = s.ten i := by
    rw [State.selectedBad_frame]
    rfl
  rw [State.bankOf, hten, State.selectedBad]
  cases (s.ten i).bank <;> rfl

theorem State.stripFault_microop (s : State) (i : Fin 64) (qs : List (Nat × Nat)) : s.stripFault i .microop qs =
    some (((s.selectedBad i).raiseT i 0x90).stopSweep i 0x90 0x05) := rfl

/-! ## Section runs -/

/-- PRO or MID of a group, as the fault met while it is fetched or read lets it run (R156, R179). -/
def State.tryScalarSection (s : State) (i : Fin 64) (flt : ReadFault) (r : GroupRun) (p : Program)
    (is : List (BitVec 64)) : Out :=
  match flt with
  | .microop => .next (((s.stripFault i .microop []).getD s).follow i)
  | .working => .next s
  | _ => .next ((s.runScalarSection i r p is).follow i)

theorem State.tryScalarSection_runs {s : State} {i : Fin 64} {flt : ReadFault} {r : GroupRun} {p : Program}
    {is : List (BitVec 64)} (hmicro : flt ≠ .microop) (hwork : flt ≠ .working) :
    s.tryScalarSection i flt r p is = .next ((s.runScalarSection i r p is).follow i) := by
  cases flt with
  | microop => exact absurd rfl hmicro
  | working => exact absurd rfl hwork
  | _ => rfl

/-- The group whose section run an item of the prologue pass is. -/
def PrepItem.group : PrepItem → Nat
  | .pro g => g
  | .mid g => g
  | .red g _ _ => g

theorem exec_sweepSectionRun (i : Fin 64) (flt : ReadFault) (s : State) :
    exec (.sweepSectionRun i flt) s = execSweepSectionRun i flt s := rfl

section
variable {s : State} {i : Fin 64} {flt : ReadFault}

theorem exec_sweepSectionRun_idle (h : s.sweepIn i .prep = false) : exec (.sweepSectionRun i flt) s = .next s := by
  rw [exec_sweepSectionRun, execSweepSectionRun, if_pos (by simp [h])]

variable (hin : s.sweepIn i .prep = true)
include hin

theorem exec_sweepSectionRun_bankBad (h : s.bankBad i = true) :
    exec (.sweepSectionRun i flt) s = .next ((s.stopSweep i 0x90 0x05).follow i) := by
  rw [exec_sweepSectionRun, execSweepSectionRun, if_neg (by simp [hin]), if_pos h]

variable (hbank : s.bankBad i = false)
include hbank

theorem exec_sweepSectionRun_done (h : (s.ten i).sweep.prep = []) : exec (.sweepSectionRun i flt) s = .next s := by
  simp only [exec_sweepSectionRun, execSweepSectionRun, hin, hbank, h]
  rfl

theorem exec_sweepSectionRun_noGroup {it : PrepItem} {rest : List PrepItem} (h : (s.ten i).sweep.prep = it :: rest)
    (hrun : s.groupRun i it.group = none) : exec (.sweepSectionRun i flt) s = .next s := by
  simp only [exec_sweepSectionRun, execSweepSectionRun, hin, hbank, h]
  cases it
  all_goals
    simp only [PrepItem.group] at hrun
    simp only [hrun]
    rfl

variable {g : Nat} {r : GroupRun} {p : Program} {rest : List PrepItem} (hrun : s.groupRun i g = some (r, p))
include hrun

theorem exec_sweepSectionRun_pro (h : (s.ten i).sweep.prep = .pro g :: rest) :
    exec (.sweepSectionRun i flt) s = s.tryScalarSection i flt r p p.pro := by
  simp only [exec_sweepSectionRun, execSweepSectionRun, hin, hbank, h, hrun]
  cases flt <;> rfl

theorem exec_sweepSectionRun_mid (h : (s.ten i).sweep.prep = .mid g :: rest) :
    exec (.sweepSectionRun i flt) s = s.tryScalarSection i flt r p p.mid := by
  simp only [exec_sweepSectionRun, execSweepSectionRun, hin, hbank, h, hrun]
  cases flt <;> rfl

variable {c k : Nat} (hprep : (s.ten i).sweep.prep = .red g c k :: rest)
include hprep

theorem exec_sweepSectionRun_red_passed (h : s.stripAt i g p c k = none ∨ s.groupContained i g = true) :
    exec (.sweepSectionRun i flt) s = .next (((s.popPrep i).afterRed i g p).follow i) := by
  simp only [exec_sweepSectionRun, execSweepSectionRun, hin, hbank, hprep, hrun]
  cases hx : s.stripAt i g p c k with
  | none => rfl
  | some x => exact if_pos (h.resolve_left (by simp [hx]))

theorem exec_sweepSectionRun_red {x : StripAt} (hx : s.stripAt i g p c k = some x)
    (hcont : s.groupContained i g = false) : exec (.sweepSectionRun i flt) s =
      s.tryStrip i flt x (s.stripPanels i g p x) (readsIntake p p.red)
        (.next (((s.popPrep i).afterRed i g p).follow i))
        (.next ((((s.setWait i false false).setSweepWait i false).runRed i r p x).follow i)) := by
  simp only [exec_sweepSectionRun, execSweepSectionRun, hin, hbank, hprep, hrun, hx, hcont]
  rfl

end

/-! ## Strips -/

/-- A strip that is ready runs once its parity storage is reserved, and else waits for the Hawk buffer (R192). -/
def State.reserveAndRun (s : State) (i : Fin 64) (g : Nat) (r : GroupRun) (p : Program) (x : StripAt) : Out :=
  match s.reserveAll (s.stripWrites i g p x) with
  | none => .next (s.setWait i false true)
  | some t => .next ((((t.setWait i false false).setSweepWait i false).runBody i r p x).follow i)

/-- What becomes of a strip of the body pass: one of a CONTAINED group is passed over and one to be skipped is noted, a
bank gone BAD stops the sweep, and any other strip is staged (R98, R153, R179). -/
def State.bodyStrip (s : State) (i : Fin 64) (flt : ReadFault) (g c k : Nat) (skip : Bool) (r : GroupRun) (p : Program)
    (x : StripAt) : Out :=
  if s.groupContained i g then .next ((s.missStrip i g c k).follow i)
  else if skip then .next ((s.skipStrip i g p x).follow i)
  else if s.bankBad i then .next ((s.stopSweep i 0x90 0x05).follow i)
  else s.tryStrip i flt x (s.stripPanels i g p x) true (.next ((s.missStrip i g c k).follow i))
    (s.reserveAndRun i g r p x)

theorem exec_sweepStrip (i : Fin 64) (flt : ReadFault) (s : State) :
    exec (.sweepStrip i flt) s = execSweepStrip i flt s := rfl

section
variable {s : State} {i : Fin 64} {flt : ReadFault}

theorem exec_sweepStrip_idle (h : s.sweepIn i .body = false) : exec (.sweepStrip i flt) s = .next s := by
  rw [exec_sweepStrip, execSweepStrip, if_pos (by simp [h])]

theorem exec_sweepStrip_noStrip
    (h : ∀ (g c k : Nat) (skip : Bool) (rest : List SweepItem), (s.ten i).sweep.todo ≠ .strip g c k skip :: rest) :
    exec (.sweepStrip i flt) s = .next s := by
  rw [exec_sweepStrip, execSweepStrip]
  dsimp only
  split
  · rfl
  · split
    · next htodo => exact absurd htodo (h _ _ _ _ _)
    · rfl

variable (hin : s.sweepIn i .body = true) {g c k : Nat} {skip : Bool} {rest : List SweepItem}
  (htodo : (s.ten i).sweep.todo = .strip g c k skip :: rest)
include hin htodo

theorem exec_sweepStrip_noGroup (hrun : s.groupRun i g = none) : exec (.sweepStrip i flt) s = .next s := by
  simp only [exec_sweepStrip, execSweepStrip, hin, htodo, hrun]
  rfl

variable {r : GroupRun} {p : Program} (hrun : s.groupRun i g = some (r, p))
include hrun

theorem exec_sweepStrip_absent (h : s.stripAt i g p c k = none) :
    exec (.sweepStrip i flt) s = .next ((s.popItem i).follow i) := by
  simp only [exec_sweepStrip, execSweepStrip, hin, htodo, hrun, h]
  rfl

theorem exec_sweepStrip_present {x : StripAt} (h : s.stripAt i g p c k = some x) :
    exec (.sweepStrip i flt) s = s.bodyStrip i flt g c k skip r p x := by
  simp only [exec_sweepStrip, execSweepStrip, hin, htodo, hrun, h]
  rfl

end

section
variable {s : State} {i : Fin 64} {flt : ReadFault} {g c k : Nat} {skip : Bool} {r : GroupRun} {p : Program}
  {x : StripAt}

theorem State.bodyStrip_contained (h : s.groupContained i g = true) :
    s.bodyStrip i flt g c k skip r p x = .next ((s.missStrip i g c k).follow i) := if_pos h

variable (hcont : s.groupContained i g = false)
include hcont

theorem State.bodyStrip_skipped (h : skip = true) :
    s.bodyStrip i flt g c k skip r p x = .next ((s.skipStrip i g p x).follow i) := by
  rw [State.bodyStrip, if_neg (by simp [hcont]), if_pos h]

variable (hskip : skip = false)
include hskip

theorem State.bodyStrip_bankBad (h : s.bankBad i = true) :
    s.bodyStrip i flt g c k skip r p x = .next ((s.stopSweep i 0x90 0x05).follow i) := by
  rw [State.bodyStrip, if_neg (by simp [hcont]), if_neg (by simp [hskip]), if_pos h]

theorem State.bodyStrip_staged (h : s.bankBad i = false) : s.bodyStrip i flt g c k skip r p x =
    s.tryStrip i flt x (s.stripPanels i g p x) true (.next ((s.missStrip i g c k).follow i))
      (s.reserveAndRun i g r p x) := by
  rw [State.bodyStrip, if_neg (by simp [hcont]), if_neg (by simp [hskip]), if_neg (by simp [h])]

end

section
variable {s : State} {i : Fin 64} {g : Nat} {r : GroupRun} {p : Program} {x : StripAt}

theorem State.reserveAndRun_room {t : State} (h : s.reserveAll (s.stripWrites i g p x) = some t) :
    s.reserveAndRun i g r p x =
      .next ((((t.setWait i false false).setSweepWait i false).runBody i r p x).follow i) := by
  rw [State.reserveAndRun, h]

theorem State.reserveAndRun_noRoom (h : s.reserveAll (s.stripWrites i g p x) = none) :
    s.reserveAndRun i g r p x = .next (s.setWait i false true) := by
  rw [State.reserveAndRun, h]

/-- A sweep that begins to wait for the Hawk buffer notes it, counts it, and changes nothing else (R192). -/
theorem State.setWait_hawk (h : (s.ten i).sweep.waitHawk = false) :
    let t := s.setWait i false true
    t = { s with tenants := t.tenants, flt := t.flt } ∧
      (t.ten i).sweep = { (s.ten i).sweep with waitIntake := false, waitHawk := true } ∧
      t.counter 0xA8 = s.counter 0xA8 + 1 := by
  have hset : s.setWait i false true =
      (s.count 0xA8).updSweep i fun w => { w with waitIntake := false, waitHawk := true } := by
    simp only [State.setWait, h]
    rfl
  rw [hset]
  refine ⟨rfl, ?_, s.count_counter_self 0xA8⟩
  rw [State.updSweep, State.updTen_self]
  rfl

end

/-! ## Panels written and zeroed -/

theorem exec_sweepPanelWritten (i : Fin 64) (s : State) :
    exec (.sweepPanelWritten i) s = execSweepPanelWritten i s := rfl

theorem exec_retiringPanelZero (i : Fin 64) (s : State) :
    exec (.retiringPanelZero i) s = execRetiringPanelZero i s := rfl

section
variable {s : State} {i : Fin 64}

theorem exec_sweepPanelWritten_idle (h : s.sweepIn i .body = false) : exec (.sweepPanelWritten i) s = .next s := by
  rw [exec_sweepPanelWritten, execSweepPanelWritten, if_pos (by simp [h])]

theorem exec_retiringPanelZero_idle (h : s.sweepIn i .body = false) : exec (.retiringPanelZero i) s = .next s := by
  rw [exec_retiringPanelZero, execRetiringPanelZero, if_pos (by simp [h])]

theorem exec_retiringPanelZero_noZero
    (h : ∀ (c p : Nat) (rest : List SweepItem), (s.ten i).sweep.todo ≠ .zero c p :: rest) :
    exec (.retiringPanelZero i) s = .next s := by
  rw [exec_retiringPanelZero, execRetiringPanelZero]
  dsimp only
  split
  · rfl
  · split
    · next htodo => exact absurd htodo (h _ _ _)
    · rfl

/-- The first build that no strip still to run touches. -/
def State.finishedBuild (s : State) (i : Fin 64) : Option Build :=
  (s.ten i).sweep.builds.find? fun b => !s.stillTouched i true (b.ctx, b.panel)

variable (hin : s.sweepIn i .body = true)
include hin

theorem exec_sweepPanelWritten_build {b : Build} (h : s.finishedBuild i = some b) :
    exec (.sweepPanelWritten i) s = .next ((s.finishBuild i b).follow i) := by
  rw [State.finishedBuild] at h
  simp only [exec_sweepPanelWritten, execSweepPanelWritten, hin, h]
  rfl

section
variable (hnone : s.finishedBuild i = none)
include hnone

theorem exec_sweepPanelWritten_scalar {g : Nat} {rest : List SweepItem}
    (h : (s.ten i).sweep.todo = .scalar g :: rest) :
    exec (.sweepPanelWritten i) s = .next ((s.writeScalar i g).follow i) := by
  rw [State.finishedBuild] at hnone
  simp only [exec_sweepPanelWritten, execSweepPanelWritten, hin, hnone, h]
  rfl

theorem exec_sweepPanelWritten_noScalar
    (h : ∀ (g : Nat) (rest : List SweepItem), (s.ten i).sweep.todo ≠ .scalar g :: rest) :
    exec (.sweepPanelWritten i) s = .next s := by
  rw [State.finishedBuild] at hnone
  rw [exec_sweepPanelWritten, execSweepPanelWritten, if_neg (by simp [hin]), hnone]
  dsimp only
  split
  · next htodo => exact absurd htodo (h _ _)
  · rfl

end

variable {c p : Nat} {rest : List SweepItem} (htodo : (s.ten i).sweep.todo = .zero c p :: rest)
include htodo

theorem exec_retiringPanelZero_inRepair (h : s.anyInRepair [(c, p)] = true) :
    exec (.retiringPanelZero i) s = .next s := by
  simp only [exec_retiringPanelZero, execRetiringPanelZero, hin, htodo, h]
  rfl

variable (hrep : s.anyInRepair [(c, p)] = false)
include hrep

theorem exec_retiringPanelZero_false {a : Nat} (hcoded : ∃ e : Entry, s.entry c = some e ∧ e.coded = true)
    (h : s.badPanel [(c, p)] = some a) : exec (.retiringPanelZero i) s = .next (s.digestFail a) := by
  obtain ⟨e, hentry, hcoded⟩ := hcoded
  simp only [exec_retiringPanelZero, execRetiringPanelZero, hin, htodo, hrep, hentry, hcoded, h]
  rfl

theorem exec_retiringPanelZero_zeroes
    (h : (¬ ∃ e : Entry, s.entry c = some e ∧ e.coded = true) ∨ s.badPanel [(c, p)] = none) :
    exec (.retiringPanelZero i) s = .next ((s.zeroPanel i c p).follow i) := by
  cases hentry : s.entry c with
  | none =>
    simp only [exec_retiringPanelZero, execRetiringPanelZero, hin, htodo, hrep, hentry]
    rfl
  | some e =>
    have htrue : (if e.coded then s.badPanel [(c, p)] else none) = none := by
      rcases h with h | h
      · exact if_neg fun hcoded => h ⟨e, hentry, hcoded⟩
      · rw [h, ite_self]
    simp only [exec_retiringPanelZero, execRetiringPanelZero, hin, htodo, hrep, hentry, htrue]
    rfl

end

/-! ## The statement -/

/-- Settles O32: each row by what stands next in the sweep; a strip, once staged, by its fault, its readiness and its
reservation. -/
theorem sweepRowsComplete : Obligations.SweepRowsComplete := by
  refine ⟨fun s i flt => ⟨exec_sweepSectionRun_idle, exec_sweepSectionRun_bankBad, exec_sweepSectionRun_done,
      fun h => ⟨exec_sweepStrip_idle h, exec_sweepPanelWritten_idle h, exec_retiringPanelZero_idle h⟩,
      fun it rest g hit hin hbank hprep hrun => exec_sweepSectionRun_noGroup hin hbank hprep ?_⟩,
    fun s i flt g r p rest hin hbank hrun => ⟨?_, ?_, fun hprep hmicro hwork => ?_, fun hprep hmicro hwork => ?_,
      fun c k hprep => ⟨exec_sweepSectionRun_red_passed hin hbank hrun hprep, fun x hx hcont => ?_⟩⟩,
    fun s i flt hin => ⟨exec_sweepStrip_noStrip, fun g c k skip rest => exec_sweepStrip_noGroup hin⟩,
    fun s i flt g c k skip r p rest hin hrun htodo => ⟨exec_sweepStrip_absent hin htodo hrun, fun x hx => ?_⟩,
    fun s i qs => ⟨rfl, rfl, rfl, fun c => ⟨_, rfl, rfl⟩,
      s.selectedBad i, s.stripFault_microop i qs, s.selectedBad_frame i, s.selectedBad_bankOf i⟩,
    fun s i hin => ⟨fun b => exec_sweepPanelWritten_build hin,
      fun hnone => ⟨fun g rest => exec_sweepPanelWritten_scalar hin hnone, exec_sweepPanelWritten_noScalar hin hnone⟩,
      exec_retiringPanelZero_noZero, fun c p rest htodo => ⟨exec_retiringPanelZero_inRepair hin htodo,
        fun a hrep => exec_retiringPanelZero_false hin htodo hrep, exec_retiringPanelZero_zeroes hin htodo⟩⟩⟩
  · obtain rfl | rfl | ⟨c, k, rfl⟩ := hit
    all_goals exact hrun
  · rintro (hprep | hprep) rfl
    · exact exec_sweepSectionRun_pro hin hbank hrun hprep
    · exact exec_sweepSectionRun_mid hin hbank hrun hprep
  · rintro (hprep | hprep) rfl
    · exact ⟨_, rfl, exec_sweepSectionRun_pro hin hbank hrun hprep⟩
    · exact ⟨_, rfl, exec_sweepSectionRun_mid hin hbank hrun hprep⟩
  · exact (exec_sweepSectionRun_pro hin hbank hrun hprep).trans (State.tryScalarSection_runs hmicro hwork)
  · exact (exec_sweepSectionRun_mid hin hbank hrun hprep).trans (State.tryScalarSection_runs hmicro hwork)
  · dsimp only
    rw [exec_sweepSectionRun_red hin hbank hrun hprep hx hcont]
    exact ⟨fun t => State.tryStrip_fault, fun hflt => ⟨State.tryStrip_drop hflt, fun t => State.tryStrip_wait hflt,
      State.tryStrip_go hflt⟩⟩
  · dsimp only
    rw [exec_sweepStrip_present hin htodo hrun hx]
    refine ⟨State.bodyStrip_contained, State.bodyStrip_skipped, State.bodyStrip_bankBad, fun hcont hskip hbank => ?_⟩
    rw [State.bodyStrip_staged hcont hskip hbank]
    refine ⟨fun t => State.tryStrip_fault, fun hflt => ⟨State.tryStrip_drop hflt, fun t => State.tryStrip_wait hflt,
      fun t hready hroom => ?_, fun hready hroom _ => ?_, fun hready hroom hwait => ⟨_, ?_, State.setWait_hawk hwait⟩⟩⟩
    · rw [State.tryStrip_go hflt hready, State.reserveAndRun_room hroom]
    · rw [State.tryStrip_go hflt hready, State.reserveAndRun_noRoom hroom]
    · rw [State.tryStrip_go hflt hready, State.reserveAndRun_noRoom hroom]

end Sys2Proof.Machine

/-! # The instruction image's commands

IB_LOAD and its end, IB_ARM and IB_DISARM (R171, R175 to R178, R343). -/

namespace Sys2Proof.Machine

/-! ## The banks -/

@[simp] theorem IbS.setBank_bank_self (b : IbS) (n : Bool) (x : Bank) : (b.setBank n x).bank n = x := by
  cases n <;> rfl

@[simp] theorem IbS.setBank_bank_other (b : IbS) (n : Bool) (x : Bank) : (b.setBank n x).bank (!n) = b.bank (!n) := by
  cases n <;> rfl

theorem State.ibResult_zero (s : State) (detail : Nat) :
    s.ibResult 0 detail = s.updIb fun b => { b with result := 0 } := rfl

/-! ## A write of MNL_IB_CMD -/

/-- The state in which a command of the instruction image runs: answered OK, its operation and bank kept. -/
def State.ibBegun (s : State) (a : Acc) (op : BitVec 4) (bank : Bool) : State :=
  (s.ok a.id).updIb fun b => { b with op := op, opBank := bank }

theorem exec_ibLoad (a : Acc) (bank readOk : Bool) (s : State) :
    exec (.ibLoad a bank readOk) s = execIbLoad a bank readOk s := rfl

theorem exec_ibArm (a : Acc) (bank : Bool) (s : State) : exec (.ibArm a bank) s = execIbArm a bank s := rfl

theorem exec_ibDisarm (w : DisarmW) (s : State) : exec (.ibDisarm w) s = execIbDisarm w s := rfl

section
variable {s : State} {a : Acc} {op : BitVec 4} {bank ok : Bool} {f : State → State}

theorem State.ibCmd_refused (hp : s.portsUp = true)
    (h : ¬ (s.windowOpen 0x3808 = true ∧ fromSystem a = true) ∨ ok = false) :
    s.ibCmd a op bank ok f = .next (s.refuse a.id 0x3808) := by
  rw [State.ibCmd, if_neg (by simp [hp]), if_pos]
  rw [not_and_or, Bool.not_eq_true, Bool.not_eq_true] at h
  rcases h with (h | h) | h <;> simp [h]

theorem State.ibCmd_taken (h : windowTakes s a 0x3808) (hok : ok = true) :
    s.ibCmd a op bank ok f = .next (f (s.ibBegun a op bank)) := by
  obtain ⟨hp, hopen, hsys⟩ := h
  rw [State.ibCmd, if_neg (by simp [hp]), if_neg (by simp [hopen, hsys, hok])]
  rfl

end

section
variable {s : State} {a : Acc} {bank : Bool} (hp : s.portsUp = true)
include hp

theorem exec_ibLoad_refused {readOk : Bool} (h : ¬ (s.windowOpen 0x3808 = true ∧ fromSystem a = true) ∨
    s.rangeOk 4 s.ib.src.toNat (s.ib.len.toNat + 256) = false) :
    exec (.ibLoad a bank readOk) s = .next (s.refuse a.id 0x3808) := by
  rw [exec_ibLoad, execIbLoad, State.ibCmd_refused hp h]

theorem exec_ibArm_refused
    (h : ¬ (s.windowOpen 0x3808 = true ∧ fromSystem a = true) ∨ (s.ib.bank bank).st ≠ .valid) :
    exec (.ibArm a bank) s = .next (s.refuse a.id 0x3808) := by
  rw [exec_ibArm, execIbArm, State.ibCmd_refused hp (h.imp_right fun hst => by simp [hst])]

theorem exec_ibDisarm_refused (h : ¬ (s.windowOpen 0x3808 = true ∧ fromSystem a = true)) :
    exec (.ibDisarm ⟨a, bank⟩) s = .next (s.refuse a.id 0x3808) := by
  rw [exec_ibDisarm, execIbDisarm, State.ibCmd_refused hp (.inl h)]

end

/-! ## LOAD -/

/-- The banks' block while a LOAD reads: its bank EMPTY, the image and its trailer read (R176, R303). -/
def State.loadingIb (s : State) (bank readOk : Bool) : IbS :=
  { s.ib.setBank bank {} with
    op := 1, opBank := bank, busy := true, loading := bank
    staged := s.bytesAt s.ib.src.toNat (s.ib.len.toNat + 256), stagedOk := readOk }

theorem State.loadingIb_bank_self (s : State) (bank readOk : Bool) : (s.loadingIb bank readOk).bank bank = {} :=
  s.ib.setBank_bank_self bank {}

theorem State.loadingIb_bank_other (s : State) (bank readOk : Bool) :
    (s.loadingIb bank readOk).bank (!bank) = s.ib.bank (!bank) := s.ib.setBank_bank_other bank {}

section
variable {s : State} {a : Acc} {bank readOk : Bool} (h : windowTakes s a 0x3808)
  (hrange : s.rangeOk 4 s.ib.src.toNat (s.ib.len.toNat + 256) = true)
include h hrange

theorem exec_ibLoad_inUse (huse : s.bankUsers bank ≠ 0) :
    exec (.ibLoad a bank readOk) s = .next ((s.ibBegun a 1 bank).ibResult 0x0D 0) := by
  rw [exec_ibLoad, execIbLoad, State.ibCmd_taken h hrange]
  exact congrArg _ (if_pos huse)

theorem exec_ibLoad_underWay (huse : s.bankUsers bank = 0) (hbusy : s.ib.busy = true ∨ s.ib.armed = true) :
    exec (.ibLoad a bank readOk) s = .next ((s.ibBegun a 1 bank).ibResult 0x0E 0) := by
  have hstate : ((s.ibBegun a 1 bank).ib.busy || (s.ibBegun a 1 bank).ib.armed) = true := by
    rw [Bool.or_eq_true]
    exact hbusy
  rw [exec_ibLoad, execIbLoad, State.ibCmd_taken h hrange]
  exact congrArg _ ((if_neg (not_not.2 huse)).trans (if_pos hstate))

theorem exec_ibLoad_reads (huse : s.bankUsers bank = 0) (hbusy : s.ib.busy = false) (harmed : s.ib.armed = false) :
    exec (.ibLoad a bank readOk) s = .next ((s.ok a.id).updIb fun _ => s.loadingIb bank readOk) := by
  have hstate : ¬ ((s.ibBegun a 1 bank).ib.busy || (s.ibBegun a 1 bank).ib.armed) = true := by
    simp [State.ibBegun, hbusy, harmed]
  rw [exec_ibLoad, execIbLoad, State.ibCmd_taken h hrange]
  refine congrArg _ ((if_neg (not_not.2 huse)).trans ((if_neg hstate).trans ?_))
  cases bank <;> rfl

end

/-! ## The end of a LOAD -/

/-- The image a LOAD has read, without its trailer. -/
def State.stagedImage (s : State) : List Byte := s.ib.staged.take (s.ib.staged.length - 256)

/-- The banks' block at the end of a LOAD, its reading done with. -/
def IbS.read (b : IbS) : IbS := { b with busy := false, staged := [], stagedOk := true }

/-- The same with the bank the LOAD was for filled. -/
def IbS.filled (b : IbS) (x : Bank) : IbS := b.read.setBank b.loading x

/-- The bank a LOAD leaves VALID (R175, R176). -/
def State.loadedBank (s : State) : Bank :=
  { st := .valid, image := imageOf s.stagedImage, digest := sha256 s.stagedImage
    used := imageEntries (imageOf s.stagedImage) }

/-- The SVN of the image a LOAD has read (R344). -/
def State.stagedSvn (s : State) : BitVec 32 :=
  BitVec.ofNat 32 (trailerSvn (s.ib.staged.drop (s.ib.staged.length - 256)))

/-- The state with a bank loaded: its pools placed in the working area, the SVN kept, RESULT 0 (R175, R176). -/
def State.placed (s : State) (x : Bank) (svn : BitVec 32) : State :=
  { s with
    ib := { s.ib.filled x with result := 0 }, work := placePool s.work (s.ib.filled x).loading x.image
    loader := { s.loader with svn := svn } }

section
variable (s : State) (x : Bank) (svn : BitVec 32)

/-- The steps in which the end of a LOAD places its image. -/
theorem State.placed_eq : s.placed x svn =
    let u := (s.updIb IbS.read).updIb fun b => b.setBank b.loading x
    ((u.putPool u.ib.loading x.image).updLoader fun l => { l with svn := svn }).ibResult 0 0 := by
  simp only [State.ibResult_zero, State.updIb, State.putPool, State.updLoader]
  rfl

theorem State.placed_frame : let t := s.placed x svn
    t = { s with ib := t.ib, loader := t.loader, work := t.work } := rfl

theorem State.placed_busy : (s.placed x svn).ib.busy = false := by
  have hfilled : (s.ib.filled x).busy = false := by
    rw [IbS.filled, IbS.setBank]
    split <;> rfl
  exact hfilled

theorem State.placed_bank_self : (s.placed x svn).ib.bank s.ib.loading = x :=
  s.ib.read.setBank_bank_self s.ib.loading x

theorem State.placed_bank_other : (s.placed x svn).ib.bank (!s.ib.loading) = s.ib.bank (!s.ib.loading) :=
  s.ib.read.setBank_bank_other s.ib.loading x

end

theorem exec_ibLoadComplete (s : State) : exec .ibLoadComplete s = execIbLoadComplete s := rfl

section
variable {s : State}

theorem exec_ibLoadComplete_idle (h : s.ib.busy = false ∨ s.flt.mode = .resetting) :
    exec .ibLoadComplete s = .next s := by
  rw [exec_ibLoadComplete, execIbLoadComplete, if_pos]
  rcases h with h | h <;> simp [h]

variable (hbusy : s.ib.busy = true) (hmode : s.flt.mode ≠ .resetting)
include hbusy hmode

theorem exec_ibLoadComplete_fails (h : s.imageResult.1 ≠ 0) : exec .ibLoadComplete s =
    .next ((s.updIb IbS.read).ibResult s.imageResult.1 s.imageResult.2) := by
  rw [exec_ibLoadComplete, execIbLoadComplete, if_neg (by simp [hbusy, hmode])]
  exact if_pos h

theorem exec_ibLoadComplete_places (h : s.imageResult.1 = 0) : exec .ibLoadComplete s =
    .next (if (imageOf s.stagedImage).progs.any saltRepeats then
      (s.placed s.loadedBank s.stagedSvn).raise { code := 0x7E } else s.placed s.loadedBank s.stagedSvn) := by
  rw [exec_ibLoadComplete, execIbLoadComplete, if_neg (by simp [hbusy, hmode]), State.placed_eq]
  exact if_neg (not_not.2 h)

end

/-! ## ARM and DISARM -/

/-- The state in which an arming begins: ARMED for the bank, and nothing moved yet. -/
def State.armBegun (s : State) (a : Acc) (bank : Bool) : State :=
  (s.ok a.id).updIb fun b => { b with
    op := 2, opBank := bank, result := 0, armed := true, target := bank, armedAt := b.at_ }

theorem exec_ibArm_taken {s : State} {a : Acc} {bank : Bool} (h : windowTakes s a 0x3808)
    (hvalid : (s.ib.bank bank).st = .valid) : exec (.ibArm a bank) s =
      .next (tenantIdxs.foldl (fun s i => s.moveNow i) (s.armBegun a bank)).checkArmed := by
  rw [exec_ibArm, execIbArm, State.ibCmd_taken h (by simp [hvalid])]
  rfl

theorem exec_ibDisarm_taken {s : State} {a : Acc} {bank : Bool} (h : windowTakes s a 0x3808) :
    exec (.ibDisarm ⟨a, bank⟩) s = .next ((s.ok a.id).updIb fun b => { b with
      op := 3, opBank := bank, result := 0, armed := false }) := by
  rw [exec_ibDisarm, execIbDisarm, State.ibCmd_taken h rfl]
  rfl

section
variable {s : State} {i : Fin 64}

theorem State.moveNow_moves (harmed : s.ib.armed = true) (henv : (s.ten i).env ≠ none)
    (hseal : (s.ten i).sealed = false) (hbank : (s.ten i).bank ≠ s.ib.target) :
    s.moveNow i = (s.updTen i fun t => { t with bank := s.ib.target }).raiseT i 0x94 := by
  rw [State.moveNow, if_pos]
  simp [harmed, Option.isSome_iff_ne_none.2 henv, hseal, hbank]

theorem State.moveNow_stays (h : s.ib.armed = false ∨ (s.ten i).env = none ∨ (s.ten i).sealed = true ∨
    (s.ten i).bank = s.ib.target) : s.moveNow i = s := by
  rw [State.moveNow, if_neg]
  rcases h with h | h | h | h <;> simp [h]

/-- With no tenant active nothing moves. -/
theorem State.foldl_moveNow_inactive (h : ∀ i : Fin 64, (s.ten i).env = none) (l : List (Fin 64)) :
    l.foldl (fun s i => s.moveNow i) s = s := by
  induction l with
  | nil => rfl
  | cons i l ih => rw [List.foldl_cons, State.moveNow_stays (.inr (.inl (h i))), ih]

/-- With no tenant active an arming ends at once. -/
theorem State.checkArmed_inactive (harmed : s.ib.armed = true) (h : ∀ i : Fin 64, (s.ten i).env = none) :
    s.checkArmed = { s with ib := { s.ib with armed := false, current := s.ib.target } } := by
  rw [State.checkArmed, if_pos]
  simp [harmed, h]

end

/-! ## The statement -/

/-- Settles O33: the refusals, LOAD by what is under way, its end by the result of the image, ARM by the move of each
tenant, and DISARM. -/
theorem bankRowsComplete : Obligations.BankRowsComplete := by
  refine ⟨fun s a bank b hp => ⟨exec_ibLoad_refused hp, exec_ibArm_refused hp, exec_ibDisarm_refused hp⟩,
    fun s a bank b h hrange => ⟨exec_ibLoad_inUse h hrange, exec_ibLoad_underWay h hrange, fun huse hbusy harmed =>
      ⟨_, exec_ibLoad_reads h hrange huse hbusy harmed, rfl, rfl, rfl, s.loadingIb_bank_self bank b,
        s.loadingIb_bank_other bank b, rfl, rfl, rfl⟩⟩,
    fun s => exec_ibLoadComplete_idle,
    fun s hbusy hmode => ⟨exec_ibLoadComplete_fails hbusy hmode, fun hgood => ?_⟩,
    fun s a bank h hvalid => ⟨exec_ibArm_taken h hvalid, fun hnone => ?_⟩,
    fun s i => ⟨fun harmed henv hseal hbank =>
        ⟨_, State.moveNow_moves harmed henv hseal hbank, rfl, ?_, fun j hj => ?_⟩,
      State.moveNow_stays⟩,
    fun s a bank h => ⟨_, exec_ibDisarm_taken h, rfl, rfl, rfl⟩⟩
  · have hplaces := exec_ibLoadComplete_places hbusy hmode hgood
    refine ⟨s.placed s.loadedBank s.stagedSvn,
      fun hrep => hplaces.trans (congrArg _ (if_neg (Bool.eq_false_iff.1 hrep))),
      fun hrep => hplaces.trans (congrArg _ (if_pos hrep)), s.placed_frame _ _, s.placed_busy _ _, rfl, ?_, ?_, ?_,
      s.placed_bank_other _ _, rfl⟩
    all_goals simp only [State.placed_bank_self, State.loadedBank, State.stagedImage]
  · have hten (i : Fin 64) : ((s.armBegun a bank).ten i).env = none := hnone i
    refine ⟨_, exec_ibArm_taken h hvalid, ?_⟩
    rw [State.foldl_moveNow_inactive hten, State.checkArmed_inactive rfl hten]
    exact ⟨rfl, rfl, rfl, rfl⟩
  · rw [State.updTen_self]
  · exact State.updTen_other _ _ _ _ hj

end Sys2Proof.Machine

/-! # What the skim path sends

SKIM_DELTA_SEND by the slot and the column served, EPOCH_MARK_SEND and SKIM_ACK_SEND (R193 to R196, R198, R201). -/

namespace Sys2Proof.Machine

/-! ## The change of a slot -/

theorem State.updSlot_frame (s : State) (k : Nat) (f : SlotS → SlotS) :
    s.updSlot k f = { s with slots := (s.updSlot k f).slots } := by
  unfold State.updSlot
  split <;> rfl

/-! ## The first that is served

The injector's folds over slots and over columns pass what holds nothing and stop at the first served. -/

theorem foldl_passed {α β : Type} {f : β → α → β} {b : β} {l : List α} (h : ∀ a ∈ l, f b a = b) : l.foldl f b = b := by
  induction l with
  | nil => rfl
  | cons a l ih =>
    rw [List.foldl_cons, h a List.mem_cons_self]
    exact ih fun x hx => h x (List.mem_cons_of_mem a hx)

theorem foldl_first {α β : Type} {f : β → α → β} {b c : β} {before after : List α} {a : α}
    (hbefore : ∀ x ∈ before, f b x = b) (hserved : f b a = c) (hafter : ∀ x ∈ after, f c x = c) :
    (before ++ a :: after).foldl f b = c := by
  rw [List.foldl_append, foldl_passed hbefore, List.foldl_cons, hserved, foldl_passed hafter]

/-! ## A slot served (R193 to R195) -/

section
variable {s : State} {slot : Fin 16} {i : Fin 64}

theorem State.sendFrom_closed (h : s.attemptOpen i = false ∨ (s.slot slot.val).kind ≠ .sett) :
    s.sendFrom i slot = (s, false) := by
  rw [State.sendFrom, if_pos]
  simpa using h

variable {before after : List Nat} {col : Nat} {r : HawkRec} {g : Group} (hopen : s.attemptOpen i = true)
  (hkind : (s.slot slot.val).kind = .sett) (hcols : (s.slot slot.val).columns = before ++ col :: after)
  (hbefore : ∀ c ∈ before, s.stagedIn slot.val c = none) (hstaged : s.stagedIn slot.val col = some r)
  (hgroup : s.confirmedGroup (.holders slot.val (rotationFor (s.slot slot.val).sett r.panel)) = some g)
include hopen hkind hcols hbefore hstaged hgroup

/-- The first column with a staged delta is the one served. -/
theorem State.sendFrom_serves
    (hspan : s.spanOk slot.val (s.holders slot.val (rotationFor (s.slot slot.val).sett r.panel))
      (s.slot slot.val).next = true) :
    s.sendFrom i slot =
      (let t := s.firstSend i slot.val col r g.handle
         (s.holders slot.val (rotationFor (s.slot slot.val).sett r.panel))
       ({ t with hawk := { t.hawk with lastSlot := slot } }, true)) := by
  rw [State.sendFrom, if_neg (by simp [hopen, hkind]), hcols]
  refine foldl_first (fun c hc => ?_) ?_ fun c _ => if_pos rfl
  · simp [hbefore c hc]
  · simp [hstaged, hgroup, hspan]

/-- A column the span rule holds is counted and passed over; it is the last here. -/
theorem State.sendFrom_held
    (hspan : s.spanOk slot.val (s.holders slot.val (rotationFor (s.slot slot.val).sett r.panel))
      (s.slot slot.val).next = false) (hlast : after = []) : s.sendFrom i slot = (s.count 0xAD, false) := by
  subst hlast
  rw [State.sendFrom, if_neg (by simp [hopen, hkind]), hcols]
  refine foldl_first (fun c hc => ?_) ?_ fun _ h => nomatch h
  · simp [hbefore c hc]
  · simp [hstaged, hgroup, hspan]

end

/-! ## The injector's next delta (R195, R198) -/

theorem exec_skimDeltaSend (now : BitVec 64) (s : State) : exec (.skimDeltaSend now) s = execSkimDeltaSend now s := rfl

/-- One slot of the injector's round, once a slot was served no other. -/
def serveSlot (acc : State × Bool) (slot : Fin 16) : State × Bool :=
  if acc.2 then acc
  else
    match acc.1.slotTenant slot.val with
    | none => acc
    | some i =>
      let go := acc.1.sendFrom i slot
      if go.2 then (go.1.follow i, true) else (go.1, false)

/-- A slot the injector passes over: no tenant has it, or it sends nothing and counts nothing. -/
def State.passesSlot (u : State) (k : Fin 16) : Prop :=
  u.slotTenant k.val = none ∨ ∀ j : Fin 64, u.slotTenant k.val = some j → u.sendFrom j k = (u, false)

theorem serveSlot_passed {u : State} {k : Fin 16} (h : u.passesSlot k) : serveSlot (u, false) k = (u, false) := by
  cases hten : u.slotTenant k.val with
  | none => simp [serveSlot, hten]
  | some j => simp [serveSlot, hten, (h.resolve_left (by simp [hten])) j hten]

theorem serveSlot_sent {u : State} {i : Fin 64} {slot : Fin 16} (hten : u.slotTenant slot.val = some i)
    (hsent : (u.sendFrom i slot).2 = true) : serveSlot (u, false) slot = ((u.sendFrom i slot).1.follow i, true) := by
  simp [serveSlot, hten, hsent]

section
variable {s : State} {now : BitVec 64}

theorem exec_skimDeltaSend_shut (h : s.injectorFree = false) : exec (.skimDeltaSend now) s = .next s := by
  rw [exec_skimDeltaSend, execSkimDeltaSend, if_pos (by simp [h])]

variable (hfree : s.injectorFree = true)
include hfree

/-- Where it may send, the injector goes once round the slots. -/
theorem exec_skimDeltaSend_round :
    exec (.skimDeltaSend now) s = .next (s.slotOrder.foldl serveSlot (s.at_ now, false)).1 := by
  rw [exec_skimDeltaSend, execSkimDeltaSend, if_neg (by simp [hfree])]
  rfl

theorem exec_skimDeltaSend_none (hpass : ∀ k : Fin 16, (s.at_ now).passesSlot k) :
    exec (.skimDeltaSend now) s = .next (s.at_ now) := by
  rw [exec_skimDeltaSend_round hfree, foldl_passed fun k _ => serveSlot_passed (hpass k)]

theorem exec_skimDeltaSend_serves {i : Fin 64} {slot : Fin 16} {before after : List (Fin 16)}
    (horder : s.slotOrder = before ++ slot :: after) (hpass : ∀ k ∈ before, (s.at_ now).passesSlot k)
    (hten : (s.at_ now).slotTenant slot.val = some i) (hsent : ((s.at_ now).sendFrom i slot).2 = true) :
    exec (.skimDeltaSend now) s = .next (((s.at_ now).sendFrom i slot).1.follow i) := by
  rw [exec_skimDeltaSend_round hfree, horder, foldl_first (fun k hk => serveSlot_passed (hpass k hk))
    (serveSlot_sent hten hsent) fun _ _ => rfl]

end

/-! ## The epoch's mark (R71, R196) -/

/-- The formed marker of a slot, where one waits. -/
def State.stagedMark (s : State) (slot : Fin 16) : Option HawkRec :=
  s.hawk.recs.find? fun r => r.slot == slot && r.mark && r.st == .staged

/-- A marker as first sent: under the slot's next number, owed by its peers. -/
def State.sentMark (s : State) (slot : Fin 16) (r : HawkRec) : HawkRec :=
  { r with seq := some (s.slot slot.val).next, st := .out, owed := s.owedBy (s.peers slot.val) }

/-- The state with a marker out and the slot's number moved on. -/
def State.markOut (s : State) (slot : Fin 16) (r : HawkRec) : State :=
  (s.replaceRec r (s.sentMark slot r)).updSlot slot.val fun x => { x with next := (s.slot slot.val).next + 1 }

theorem exec_epochMarkSend (slot : Fin 16) (s : State) : exec (.epochMarkSend slot) s = execEpochMarkSend slot s := rfl

section
variable {s : State} {slot : Fin 16}

theorem exec_epochMarkSend_idle (h : s.slotTenant slot.val = none ∨ s.stagedMark slot = none ∨
    s.confirmedGroup (.peers slot.val) = none ∨ s.injectorFree = false ∨
    ∃ x ∈ s.hawk.recs, x.slot = slot ∧ x.mark = false) : exec (.epochMarkSend slot) s = .next s := by
  rw [exec_epochMarkSend, execEpochMarkSend]
  split
  · next i r g hten hmark hgroup =>
    refine if_pos ?_
    rcases h with h | h | h | h | ⟨x, hx, hslot, hdelta⟩
    · exact absurd (h.symm.trans hten) (by simp)
    · exact absurd (h.symm.trans hmark) (by simp)
    · exact absurd (h.symm.trans hgroup) (by simp)
    · simp [h]
    · have hleft : (s.hawk.recs.any fun x => x.slot == slot && !x.mark) = true :=
        List.any_eq_true.2 ⟨x, hx, by simp [hslot, hdelta]⟩
      simp [hleft]
  · rfl

theorem exec_epochMarkSend_sends {i : Fin 64} {r : HawkRec} {g : Group} (hten : s.slotTenant slot.val = some i)
    (hfree : s.injectorFree = true) (hmark : s.stagedMark slot = some r)
    (hlast : ∀ x ∈ s.hawk.recs, x.slot = slot → x.mark = true)
    (hgroup : s.confirmedGroup (.peers slot.val) = some g) :
    exec (.epochMarkSend slot) s =
      (let s' := s.markOut slot r
       .next ((s'.send (s'.hawkFrame i (s.sentMark slot r) (.group g.handle) false)).freeReleased.follow i)) := by
  have hnone : (s.hawk.recs.any fun x => x.slot == slot && !x.mark) = false := by
    simpa using hlast
  rw [exec_epochMarkSend, execEpochMarkSend]
  split
  · next i' r' g' hten' hmark' hgroup' =>
    obtain rfl : i = i' := Option.some.inj (hten.symm.trans hten')
    obtain rfl : r = r' := Option.some.inj (hmark.symm.trans hmark')
    obtain rfl : g = g' := Option.some.inj (hgroup.symm.trans hgroup')
    rw [if_neg (by simp [hfree, hnone])]
    rfl
  · next hno => exact absurd hgroup (hno i r g hten hmark)

end

theorem State.markOut_frame (s : State) (slot : Fin 16) (r : HawkRec) : s.markOut slot r =
    { s with hawk := { s.hawk with recs := s.hawk.recs.map fun x => if x = r then s.sentMark slot r else x }
             slots := (s.markOut slot r).slots } :=
  State.updSlot_frame _ _ _

/-! ## An acknowledgement (R66, R201) -/

/-- The source entry of a rank that is owed an acknowledgement. -/
def State.ackOwed (s : State) (slot : Fin 16) (rank : Nat) : Option SrcEntry :=
  (s.slot slot.val).sources.find? fun e => e.rank == rank && e.ackDue

/-- The acknowledgement of a source entry, with the slot's number at that member. -/
def State.ackFrame (s : State) (slot : Fin 16) (rank : Nat) (i : Fin 64) (e : SrcEntry) : OutFrame :=
  s.ctrlTo i e.addr 0x02 e.epoch e.tr
    (e.ackT (match (s.slot slot.val).sett.rows[rank]? with | some r => r.mslot.toNat | none => 0))

/-- The state with no acknowledgement due to a rank. -/
def State.ackNotDue (s : State) (slot : Fin 16) (rank : Nat) : State :=
  s.updSlot slot.val fun x => { x with
    sources := x.sources.map fun y => if y.rank = rank then { y with ackDue := false } else y }

theorem State.ackNotDue_frame (s : State) (slot : Fin 16) (rank : Nat) :
    s.ackNotDue slot rank = { s with slots := (s.ackNotDue slot rank).slots } := State.updSlot_frame _ _ _

/-- The state with a reply in its place on the CONTROL channel and no acknowledgement due to a rank. -/
def State.ackSent (s : State) (slot : Fin 16) (rank : Nat) (f : OutFrame) : State :=
  { s with ep := { s.ep with ctrlQ := (s.ep.ctrlQ.filter fun g => replyKey g != replyKey f) ++ [f] }
           slots := (s.ackNotDue slot rank).slots }

theorem State.sendReply_ackNotDue {s : State} {f : OutFrame} (slot : Fin 16) (rank : Nat) (h : s.mayForm f = true) :
    (s.ackNotDue slot rank).sendReply f = s.ackSent slot rank f := by
  have hmay : (s.ackNotDue slot rank).mayForm f = true := by
    rw [State.ackNotDue_frame]
    exact h
  rw [State.sendReply, if_neg (by simp [hmay]), State.ackNotDue_frame]
  rfl

theorem exec_skimAckSend (slot : Fin 16) (rank : Nat) (s : State) :
    exec (.skimAckSend slot rank) s = execSkimAckSend slot rank s := rfl

section
variable {s : State} {slot : Fin 16} {rank : Nat}

theorem exec_skimAckSend_idle (h : s.slotTenant slot.val = none ∨ s.ackOwed slot rank = none) :
    exec (.skimAckSend slot rank) s = .next s := by
  rw [exec_skimAckSend, execSkimAckSend]
  split
  · next i e hten hdue =>
    rcases h with h | h
    · exact absurd (h.symm.trans hten) (by simp)
    · exact absurd (h.symm.trans hdue) (by simp)
  · rfl

theorem exec_skimAckSend_due {i : Fin 64} {e : SrcEntry} (hten : s.slotTenant slot.val = some i)
    (hdue : s.ackOwed slot rank = some e) :
    exec (.skimAckSend slot rank) s =
      (let f := s.ackFrame slot rank i e
       .next (if s.mayForm f then (s.ackNotDue slot rank).sendReply f else s)) := by
  rw [exec_skimAckSend, execSkimAckSend]
  split
  · next i' e' hten' hdue' =>
    obtain rfl : i = i' := Option.some.inj (hten.symm.trans hten')
    obtain rfl : e = e' := Option.some.inj (hdue.symm.trans hdue')
    rfl
  · next hno => exact absurd hdue (hno i e hten)

theorem exec_skimAckSend_unformed {i : Fin 64} {e : SrcEntry} (hten : s.slotTenant slot.val = some i)
    (hdue : s.ackOwed slot rank = some e) (hmay : s.mayForm (s.ackFrame slot rank i e) = false) :
    exec (.skimAckSend slot rank) s = .next s :=
  (exec_skimAckSend_due hten hdue).trans (congrArg _ (if_neg (Bool.eq_false_iff.1 hmay)))

theorem exec_skimAckSend_sends {i : Fin 64} {e : SrcEntry} (hten : s.slotTenant slot.val = some i)
    (hdue : s.ackOwed slot rank = some e) (hmay : s.mayForm (s.ackFrame slot rank i e) = true) :
    exec (.skimAckSend slot rank) s = .next (s.ackSent slot rank (s.ackFrame slot rank i e)) := by
  rw [exec_skimAckSend_due hten hdue, ← State.sendReply_ackNotDue slot rank hmay]
  exact congrArg _ (if_pos hmay)

end

/-! ## The statement -/

/-- Settles O34: the delta sent by the slot and the column served first, the mark and the acknowledgement by whether one
is due and may be formed. -/
theorem skimSendRowsComplete : Obligations.SkimSendRowsComplete := by
  refine ⟨fun s now => exec_skimDeltaSend_shut, fun s u now i slot before after hfree hu => ?_,
    fun s u now hfree hu hpass => ?_, fun s slot i => State.sendFrom_closed,
    fun s slot i before after col r g hopen hkind hcols hbefore hstaged hgroup =>
      ⟨fun hspan => ⟨_, rfl, State.sendFrom_serves hopen hkind hcols hbefore hstaged hgroup hspan⟩,
        State.sendFrom_held hopen hkind hcols hbefore hstaged hgroup⟩,
    fun s slot => ⟨exec_epochMarkSend_idle, fun i r g hten hfree hmark hlast hgroup =>
      ⟨_, exec_epochMarkSend_sends hten hfree hmark hlast hgroup, s.markOut_frame slot r,
        State.updSlot_self _ _ slot.isLt _, fun k hk => State.updSlot_other _ _ _ (Fin.val_ne_of_ne hk) _⟩⟩,
    fun s slot rank => ⟨exec_skimAckSend_idle, fun i e hten hdue => ⟨exec_skimAckSend_unformed hten hdue, fun hmay =>
      ⟨_, exec_skimAckSend_sends hten hdue hmay, rfl, congrArg SlotS.sources (State.updSlot_self _ _ slot.isLt _),
        fun k hk => State.updSlot_other _ _ _ (Fin.val_ne_of_ne hk) _, List.mem_append_right _ List.mem_cons_self,
        rfl⟩⟩⟩⟩
  · subst hu
    exact exec_skimDeltaSend_serves hfree
  · subst hu
    exact exec_skimDeltaSend_none hfree fun k => .inr (hpass k)

end Sys2Proof.Machine

/-! # A vote once given

What a withholding cause leaves of a member's vote (R215, R216). -/

namespace Sys2Proof.Machine

theorem State.updTen_eq_self {s : State} {i : Fin 64} {f : TenantS → TenantS} (h : f (s.ten i) = s.ten i) :
    s.updTen i f = s := by
  have hset : s.tenants.set i (s.tenants.get i) = s.tenants := by simp [Vector.get_eq_getElem]
  rw [State.ten] at h
  rw [State.updTen, h, hset]

theorem State.withhold_ready {s : State} {i : Fin 64} (r : Nat) (h : (s.ten i).commit.vstate = .ready) :
    s.withhold i r = s := by
  rw [State.withhold, State.updCommit]
  exact State.updTen_eq_self (by simp only [h])

theorem State.withhold_open {s : State} {i : Fin 64} (r : Nat) (h : (s.ten i).commit.vstate = .open_) :
    ((s.withhold i r).ten i).commit.vstate = .withheld ∧
      ((s.withhold i r).ten i).commit.wcause = BitVec.ofNat 8 r := by
  simp only [State.withhold, State.updCommit, State.updTen_self, h, and_self]

theorem State.withhold_other (s : State) {i j : Fin 64} (r : Nat) (h : j ≠ i) : (s.withhold i r).ten j = s.ten j :=
  s.updTen_other i j _ h

/-- Settles O22: by the member's commit state, READY or OPEN, when the cause arises. -/
theorem voteIsNeverWithdrawn : Obligations.VoteIsNeverWithdrawn :=
  ⟨fun _ _ r => State.withhold_ready r, fun s _ r hopen =>
    have ⟨hstate, hcause⟩ := State.withhold_open r hopen
    ⟨hstate, hcause, fun _ => s.withhold_other r⟩⟩

end Sys2Proof.Machine

/-! # What an event writes in a tenant

An event's reaction writes of a tenant what holds its sweep and what withholds its vote, and it ends the park for a
switch that it abandons (R216, R320 to R325, R360). -/

namespace Sys2Proof.Machine

/-- A tenant without what an event's reaction or a withheld vote may write in it. -/
def TenantS.spared (t : TenantS) : TenantS :=
  { t with
    sweep := { t.sweep with state := .idle, cause := 0, waitIntake := false, waitHawk := false }
    commit := { t.commit with
      vstate := .none, wcause := 0, causes := [], reqDue := [], requested := [], parked := false } }

/-- The tenants of a state, each without what an event's reaction may write in it. -/
def State.spared (s : State) : Vector TenantS 64 := s.tenants.map TenantS.spared

theorem State.ten_spared {s t : State} (h : t.spared = s.spared) (i : Fin 64) :
    (t.ten i).spared = (s.ten i).spared := by
  have hget (u : State) : u.spared.get i = (u.ten i).spared := by simp [State.spared, State.ten, Vector.get_eq_getElem]
  rw [← hget, ← hget, h]

/-- What each step of a fold leaves of a state, the fold leaves. -/
theorem State.foldl_keeps {α β : Type} {v : State → β} {f : State → α → State} (hf : ∀ s a, v (f s a) = v s)
    (l : List α) (s : State) : v (l.foldl f s) = v s :=
  List.foldlRecOn l f (motive := fun t => v t = v s) rfl fun t h a _ => (hf t a).trans h

/-! ## Updates -/

theorem State.updTen_spared {s : State} {i : Fin 64} {f : TenantS → TenantS} (hf : ∀ t, (f t).spared = t.spared) :
    (s.updTen i f).spared = s.spared := by
  rw [State.spared, State.updTen, Vector.map_set, hf, Vector.get_eq_getElem, ← Vector.getElem_map TenantS.spared,
    Vector.set_getElem_self]
  rfl

@[simp] theorem State.withhold_spared (s : State) (i : Fin 64) (reason : Nat) :
    (s.withhold i reason).spared = s.spared := by
  refine State.updTen_spared fun t => ?_
  cases h : t.commit.vstate <;> simp only [TenantS.spared, h]

@[simp] theorem State.holdSweep_spared (s : State) (i : Fin 64) (cause : Nat) :
    (s.holdSweep i cause).spared = s.spared := by
  refine State.updTen_spared fun t => ?_
  by_cases h : t.sweep.state = .idle <;> simp only [TenantS.spared, h, if_true, if_false]

/-! ## Reactions -/

@[simp] theorem State.updFlt_spared (s : State) (f : FaultS → FaultS) : (s.updFlt f).spared = s.spared := rfl

@[simp] theorem State.count_spared (s : State) (k : Nat) : (s.count k).spared = s.spared := rfl

@[simp] theorem State.enter_spared (s : State) (e : Ev) : (s.enter e).1.spared = s.spared := by
  have hpush (t : State) (h : HistEntry) : (t.pushHistory h).spared = t.spared := by
    simp [State.pushHistory, apply_ite State.spared]
  simp only [State.enter, apply_ite State.spared, State.updFlt_spared, hpush, ite_self]
  split <;> simp

@[simp] theorem State.raiseHeld_spared (s : State) (e : Ev) : (s.raiseHeld e).spared = s.spared := by
  simp only [State.raiseHeld, apply_ite State.spared, State.updFlt_spared, ite_self, State.enter_spared]

theorem State.releaseParked_spared {raise : State → Ev → State} (hr : ∀ s e, (raise s e).spared = s.spared) (s : State)
    (p : Parked → Bool) (cause : BitVec 4) (code : Nat) : (s.releaseParked p cause raise code).spared = s.spared := by
  unfold State.releaseParked
  refine (State.foldl_keeps (v := State.spared) ?_ _ _).trans rfl
  exact fun s x => hr _ _

theorem State.dropSwitch_spared {raise : State → Ev → State} (hr : ∀ s e, (raise s e).spared = s.spared) (s : State) :
    (s.dropSwitch raise).spared = s.spared := by
  unfold State.dropSwitch
  split
  · rfl
  · refine (hr _ _).trans ?_
    simp only [State.spared, Vector.map_map]
    rfl

@[simp] theorem State.hold_spared (s : State) (code : Nat) : (s.hold code).spared = s.spared := by
  unfold State.hold
  split
  · exact (State.releaseParked_spared State.raiseHeld_spared _ _ _ _).trans
      ((State.dropSwitch_spared State.raiseHeld_spared _).trans
        (State.foldl_keeps (fun s i => s.holdSweep_spared i code) _ _))
  all_goals rfl

@[simp] theorem State.raise0_spared (s : State) (e : Ev) : (s.raise0 e).spared = s.spared := by
  simp only [State.raise0, apply_ite State.spared, State.updFlt_spared, State.hold_spared, State.enter_spared, ite_self]

@[simp] theorem State.contain_spared (s : State) (c : Nat) : (s.contain c).spared = s.spared := by
  have hreleased (t : State) (p : Parked → Bool) : (t.releaseParked p 0x5 State.raise0 0x35).spared = t.spared :=
    State.releaseParked_spared State.raise0_spared _ _ _ _
  unfold State.contain
  split
  · rfl
  · split
    · rfl
    · simp only
      split
      · exact (State.withhold_spared _ _ _).trans (hreleased _ _)
      · exact hreleased _ _

@[simp] theorem State.beginUnit_spared (s : State) (u : ResetUnit) (busy : Option (Fin 16)) :
    (s.beginUnit u busy).spared = s.spared := by
  unfold State.beginUnit
  split
  · rfl
  · cases u with
    | gf k =>
      cases busy with
      | none => rfl
      | some k =>
        simp only
        split
        · exact (State.withhold_spared _ _ _).trans (State.raise0_spared _ _)
        · exact State.raise0_spared _ _
    | lane k => rfl
    | endpoint => rfl
    | badger => rfl
    | instance_ => rfl

/-- An event at any of its levels: the reset of a unit, the containment of a region, or the hold. -/
@[simp] theorem State.raise_spared (s : State) (e : Ev) (busy : Option (Fin 16)) :
    (s.raise e busy).spared = s.spared := by
  have hunit : (match e.ru with
      | some u => (s.enter e).1.beginUnit u busy
      | none => (s.enter e).1).spared = s.spared := by
    split <;> simp
  have hregion (t : State) (r : Option Nat) : (match r with | some c => t.contain c | none => t).spared = t.spared := by
    split <;> simp
  simp only [State.raise, apply_ite State.spared, State.updFlt_spared, State.hold_spared, State.enter_spared, ite_self]
  split
  · rfl
  · split
    · exact hunit
    · split
      · exact (hregion _ _).trans hunit
      · exact hunit

@[simp] theorem State.raiseT_spared (s : State) (i : Fin 64) (code detail : Nat) :
    (s.raiseT i code detail).spared = s.spared := State.raise_spared _ _ _

end Sys2Proof.Machine

/-! # The commit at a member

Where a member's attempts stand once it has applied a commit: the attempt that was open is the committed one, and the
opening that follows moves neither (R213, R214, R224). -/

namespace Sys2Proof.Machine

/-- The committed and the open attempt of a tenant, each with its epoch and its try. -/
def CommitS.attempts (c : CommitS) : (Nat × BitVec 7) × (Nat × BitVec 7) :=
  ((c.committed, c.committedTry), (c.openEpoch, c.openTry))

/-- The attempts of every tenant. -/
def State.attempts (s : State) (j : Fin 64) : (Nat × BitVec 7) × (Nat × BitVec 7) := (s.ten j).commit.attempts

theorem State.attempts_of_tenants {s t : State} (h : t.tenants = s.tenants) : t.attempts = s.attempts := by
  funext j
  rw [State.attempts, State.ten, h]
  rfl

theorem State.attempts_of_spared {s t : State} (h : t.spared = s.spared) : t.attempts = s.attempts := by
  funext j
  have hten : (t.ten j).spared.commit.attempts = (s.ten j).spared.commit.attempts := by rw [State.ten_spared h]
  exact hten

theorem State.updTen_attempts {s : State} {i : Fin 64} {f : TenantS → TenantS}
    (hf : ∀ t, (f t).commit.attempts = t.commit.attempts) : (s.updTen i f).attempts = s.attempts := by
  funext j
  by_cases hj : j = i
  · subst hj
    rw [State.attempts, State.updTen_self, hf]
    rfl
  · rw [State.attempts, State.updTen_other s i j f hj]
    rfl

/-! ## The opening -/

theorem State.moveBank_attempts (s : State) (i : Fin 64) (b : Bool) : (s.moveBank i b).attempts = s.attempts := by
  have hmoved : ((s.updTen i fun t => { t with bank := !t.bank }).raiseT i 0x94).attempts = s.attempts :=
    (State.attempts_of_spared (State.raiseT_spared _ _ _ _)).trans (State.updTen_attempts fun _ => rfl)
  simp only [State.moveBank, apply_ite State.attempts, hmoved, ite_self]

theorem State.checkArmed_tenants (s : State) : s.checkArmed.tenants = s.tenants := by
  unfold State.checkArmed
  split <;> rfl

theorem State.mapEntries_attempts (s : State) (tag : Tag) (f : Entry → Entry) :
    (s.mapEntries tag f).attempts = s.attempts := rfl

theorem State.openCommit_attempts (s : State) (i : Fin 64) : (s.openCommit i).attempts = s.attempts :=
  (State.mapEntries_attempts _ _ _).trans (State.updTen_attempts fun _ => rfl)

theorem State.openJoined_attempts (s : State) (i : Fin 64) : (s.openJoined i).attempts = s.attempts :=
  calc (s.openJoined i).attempts
      = ((s.openCommit i).moveBank i (s.ten i).commit.afterCommit).checkArmed.attempts :=
        State.updTen_attempts fun _ => rfl
    _ = ((s.openCommit i).moveBank i (s.ten i).commit.afterCommit).attempts :=
        State.attempts_of_tenants (State.checkArmed_tenants _)
    _ = (s.openCommit i).attempts := State.moveBank_attempts _ _ _
    _ = s.attempts := s.openCommit_attempts i

theorem State.withhold_attempts (s : State) (i : Fin 64) (r : Nat) : (s.withhold i r).attempts = s.attempts :=
  State.attempts_of_spared (State.withhold_spared _ _ _)

theorem State.standingCauses_attempts (s : State) (i : Fin 64) : (s.standingCauses i).attempts = s.attempts := by
  unfold State.standingCauses
  simp only [apply_ite State.attempts, State.withhold_attempts, ite_self]

theorem State.openSweep_attempts (s : State) (i : Fin 64) : (s.openSweep i).attempts = s.attempts := by
  have hsweep : (s.updSweep i fun w => w.opened (s.ten i).dbase).attempts = s.attempts :=
    State.updTen_attempts (f := fun t => { t with sweep := t.sweep.opened (s.ten i).dbase }) fun _ => rfl
  unfold State.openSweep
  simp only [apply_ite State.attempts, State.withhold_attempts, ite_self, State.standingCauses_attempts]
  exact hsweep

theorem State.openAttempt_attempts (s : State) (i : Fin 64) : (s.openAttempt i).attempts = s.attempts := by
  rw [State.openAttempt_eq, State.openSweep_attempts, State.attempts_of_tenants (State.openSlots_tenants _ _ _),
    State.openJoined_attempts]

theorem State.dueOpen_attempts (s : State) (i : Fin 64) (b : Bool) : (s.dueOpen i b).attempts = s.attempts := by
  have hdue : (s.updCommit i fun c => { c with openDue := true, afterCommit := b }).attempts = s.attempts :=
    State.updTen_attempts fun _ => rfl
  have hcount (t : State) (k : Nat) : (t.count k).attempts = t.attempts := rfl
  simp only [State.dueOpen, State.tryOpen, apply_ite State.attempts, hcount, State.openAttempt_attempts, hdue, ite_self]

/-! ## The commit -/

/-- The commit state of a member whose open attempt is committed (R224). -/
def CommitS.advance (c : CommitS) (now : BitVec 64) (parked : Bool) : CommitS :=
  { c.close true with
    committed := c.openEpoch, committedTry := c.openTry, openEpoch := c.openEpoch + 1, openTry := 0, vstate := .open_
    wcause := 0, requested := [], reasons := [], lat := c.latAt now, atLimit := decide (c.openEpoch + 1 = 2 ^ 48 - 1)
    parked := parked }

theorem State.commitRegions_tenants (s : State) (i : Fin 64) (e : Nat) : (s.commitRegions i e).tenants = s.tenants := by
  have hfree (t : State) (p : Nat × Entry) : (t.freeRegion p.1).tenants = t.tenants := by
    unfold State.freeRegion
    split <;> rfl
  have hentry (t : State) (p : Nat × Entry) (f : Entry → Entry) : (t.updEntry p.1 f).tenants = t.tenants := by
    unfold State.updEntry
    split <;> rfl
  exact (State.foldl_keeps (fun t p => hentry t p _) _ _).trans (State.foldl_keeps hfree _ _)

theorem State.dropSkim_tenants (s : State) (i : Fin 64) : (s.dropSkim i).tenants = s.tenants :=
  State.foldl_keeps (v := State.tenants) (fun _ _ => State.updSlot_tenants _ _ _) _ _

theorem State.lockstepDue_tenants (s : State) (i : Fin 64) (e : Nat) : (s.lockstepDue i e).tenants = s.tenants := by
  unfold State.lockstepDue
  simp only
  split <;> rfl

/-- All of a commit but the advance of the commit state leaves the attempts where they are. -/
theorem State.applyCommit_attempts (s : State) (i : Fin 64) : (s.applyCommit i).attempts =
    (s.updCommit i fun c => c.advance s.time.now
      (s.loader.shadowState == .armed && s.loader.affected.contains i)).attempts := by
  have hrecord (t : State) (e : Nat) (tr : BitVec 7) (fl : BitVec 7) (d : List Byte) :
      (t.beginRecord i e tr fl d).attempts = t.attempts := State.updTen_attempts fun _ => rfl
  have hsweep (t : State) (f : SweepS → SweepS) : (t.updSweep i f).attempts = t.attempts :=
    State.updTen_attempts fun _ => rfl
  have hboundary (t : State) (e : Nat) : (t.updTen i fun t => { t with rs := { t.rs with
      state := .moving, boundary := e } }).attempts = t.attempts := State.updTen_attempts fun _ => rfl
  have hcount (t : State) (k : Nat) : (t.count k).attempts = t.attempts := rfl
  have hregions (t : State) (e : Nat) := State.attempts_of_tenants (t.commitRegions_tenants i e)
  have hskim (t : State) := State.attempts_of_tenants (t.dropSkim_tenants i)
  have hlockstep (t : State) (e : Nat) := State.attempts_of_tenants (t.lockstepDue_tenants i e)
  unfold State.applyCommit
  simp only [State.dueOpen_attempts, apply_ite State.attempts, hboundary, ite_self, hlockstep, hcount, hsweep, hskim,
    hrecord, hregions]
  rfl

theorem State.applyCommit_self (s : State) (i : Fin 64) : (s.applyCommit i).attempts i =
    (((s.ten i).commit.openEpoch, (s.ten i).commit.openTry), ((s.ten i).commit.openEpoch + 1, 0)) := by
  rw [State.applyCommit_attempts, State.attempts, State.updCommit, State.updTen_self]
  rfl

theorem State.applyCommit_other (s : State) {i j : Fin 64} (h : j ≠ i) :
    (s.applyCommit i).attempts j = s.attempts j := by
  rw [State.applyCommit_attempts, State.attempts, State.updCommit, State.updTen_other s i j _ h]
  rfl

/-- Settles O21: the commit state's advance moves the member's attempts, and nothing else of the commit moves any. -/
theorem commitAdvancesEpochByOne : Obligations.CommitAdvancesEpochByOne := by
  intro s i j
  have hself := s.applyCommit_self i
  simp only [State.attempts, CommitS.attempts, Prod.mk.injEq] at hself
  obtain ⟨⟨hcommitted, hcommittedTry⟩, hepoch, htry⟩ := hself
  refine ⟨hcommitted, hcommittedTry, hepoch, htry, fun hj => ?_⟩
  have hother := s.applyCommit_other hj
  simp only [State.attempts, CommitS.attempts, Prod.mk.injEq] at hother
  obtain ⟨⟨hcommitted, hcommittedTry⟩, hepoch, htry⟩ := hother
  exact ⟨hcommitted, hcommittedTry, hepoch, htry⟩

end Sys2Proof.Machine

/-! # The commit frames at a receiver

COMMIT_VOTE, COMMIT_PREP, COMMIT_DECIDE and STEP_ABORT once they pass the checks of R75 (R219 to R223, R258, R259): what
each row does with its frame, and the credit and the answers the rows share. -/

namespace Sys2Proof.Machine

/-! ## Credits -/

/-- What a manager counts for a child of its pod or its job table. -/
def State.creditValue (s : State) (i : Fin 64) (job : Bool) (g : Nat) : Nat :=
  if job then s.jobCredit i g else s.podCredit i g

theorem State.setCredit_expect (s : State) (i : Fin 64) (c : Credit) (job : Bool) (g : Nat) :
    ((s.setCredit i c).ten i).expect job g = (s.ten i).expect job g := by
  rw [State.setCredit, State.updCommit, State.updTen_self]
  rfl

section
variable {s : State} {i : Fin 64} {f : Rx} {job : Bool} {g : Nat} {c : Credit}

theorem State.credit_above (h : (s.ten i).expect job g < (s.setCredit i c).creditValue i job g) :
    s.credit i f job g c = s.frameEvent f 0xB1 := if_pos h

/-- A child below EXPECT is not complete. -/
theorem State.credit_below (h : (s.setCredit i c).creditValue i job g < (s.ten i).expect job g) :
    s.credit i f job g c = s.setCredit i c := by
  have hpart := (beq_eq_false_iff_ne).2 (Nat.ne_of_lt h)
  cases job with
  | true =>
    simp only [State.creditValue, if_true] at h hpart
    simp [State.credit, State.setCredit_expect, Nat.not_lt_of_gt h, hpart]
  | false =>
    simp only [State.creditValue, Bool.false_eq_true, if_false] at h hpart
    simp [State.credit, State.setCredit_expect, Nat.not_lt_of_gt h, hpart]

end

/-! ## COMMIT_VOTE -/

/-- What a receiver does with a COMMIT_VOTE. -/
def State.takeCommitVote (s : State) (i : Fin 64) (f : Rx) : State :=
  if (s.ten i).fox.self = .fenced then s
  else if s.attemptOf i f = .opened then (s.takeVote i f).follow i
  else (s.answerDecided i f (if tField f 24 4 = 2 then 3 else 2)).count 0xBA

theorem exec_commitVote {s : State} {f : Rx} {i : Fin 64} (hgood : frameGood s f 0x11 i) (hlen : f.len = 0)
    (hlevel : tField f 24 4 ≤ 3) (hzero : tField f 28 36 = 0) (hok : (s.at_ f.time).voteOk i f = true) :
    exec (.commitVote f) s = .next ((s.at_ f.time).takeCommitVote i f) :=
  congrArg _ (State.receive_good _ hgood (by simp [hlevel, hzero]) (beq_iff_eq.2 hlen) hok rfl)

section
variable {s : State} {i : Fin 64} {f : Rx} {g : Nat}

theorem State.takeVote_chip (hlevel : tField f 24 4 = 1) (hchild : (s.ten i).childOf false f.src = some g)
    (hrole : s.isPodManager i = true) : s.takeVote i f =
      s.credit i f false g { (s.ten i).creditOf false g with ready := tField f 0 24, answered := true } := by
  simp [State.takeVote, hlevel, hchild, hrole]

theorem State.takeVote_pod (hlevel : tField f 24 4 = 2) (hchild : (s.ten i).childOf true f.src = some g)
    (hrole : s.isJobManager i = true) : s.takeVote i f =
      s.credit i f true g { (s.ten i).creditOf true g with ready := tField f 0 24, answered := true } := by
  simp [State.takeVote, hlevel, hchild, hrole]

theorem State.takeVote_target (hlevel : tField f 24 4 = 0) (htarget : (s.ten i).targetChild f.src = some g)
    (hrole : s.isPodManager i = true) (hone : tField f 0 24 = 1) : s.takeVote i f =
      s.credit i f false g { (s.ten i).creditOf false g with
        targets := addOnce f.src ((s.ten i).creditOf false g).targets
        heard := addOnce f.src ((s.ten i).creditOf false g).heard } := by
  simp [State.takeVote, hlevel, htarget, hrole, hone]

/-- A vote at the level of no manager, or from no child of its level. -/
theorem State.takeVote_stray (h : tField f 24 4 = 3 ∨ (tField f 24 4 = 1 ∧ (s.ten i).childOf false f.src = none) ∨
    (tField f 24 4 = 2 ∧ (s.ten i).childOf true f.src = none) ∨
    (tField f 24 4 = 0 ∧ (s.ten i).targetChild f.src = none)) : s.takeVote i f = s.frameEvent f 0xB1 := by
  rcases h with h | ⟨h, hnone⟩ | ⟨h, hnone⟩ | ⟨h, hnone⟩
  · simp [State.takeVote, h, State.badVote]
  all_goals simp [State.takeVote, h, hnone, State.badVote]

theorem State.takeCommitVote_fenced (h : (s.ten i).fox.self = .fenced) : s.takeCommitVote i f = s := if_pos h

variable (hfree : (s.ten i).fox.self ≠ .fenced)
include hfree

theorem State.takeCommitVote_opened (h : s.attemptOf i f = .opened) :
    s.takeCommitVote i f = (s.takeVote i f).follow i := by
  rw [State.takeCommitVote, if_neg hfree, if_pos h]

theorem State.takeCommitVote_decided (h : s.attemptOf i f ≠ .opened) : s.takeCommitVote i f =
    (s.answerDecided i f (if tField f 24 4 = 2 then 3 else 2)).count 0xBA := by
  rw [State.takeCommitVote, if_neg hfree, if_neg h]

end

/-! ## COMMIT_PREP -/

theorem State.at_self (s : State) (t : BitVec 64) : (s.at_ t).self = s.self := by
  unfold State.at_
  split <;> rfl

section
variable {s : State} {i : Fin 64} {f : Rx} {level n : Nat}

theorem State.answerCountVote_away (h : f.src.chip ≠ s.self.chip) : s.answerCountVote i f level n =
    s.sendReply (s.ctrlTo i f.src 0x11 f.epoch.toNat f.tr (n % 2 ^ 24 + level * 2 ^ 24)) := if_neg h

theorem State.answerCountVote_pod (h : f.src.chip = s.self.chip) : s.answerCountVote i f 2 n =
    s.lathSend (.podVote s.power.inst i.val n f.epoch.toNat f.tr) := by
  rw [State.answerCountVote, if_pos h, if_pos rfl]

theorem State.answerCountVote_near (h : f.src.chip = s.self.chip) (hlevel : level ≠ 2) :
    s.answerCountVote i f level n = s := by
  rw [State.answerCountVote, if_pos h, if_neg hlevel]

/-- A target's own answer waits on the CONTROL channel, or is on the lath already: the chip's ranks are as they were. -/
theorem State.answerCountVote_chipKids (hlevel : level ≠ 2) :
    (s.answerCountVote i f level n).chipKids i = s.chipKids i := by
  by_cases h : f.src.chip = s.self.chip
  · rw [State.answerCountVote_near h hlevel]
  · rw [State.answerCountVote_away h, State.sendReply]
    split <;> rfl

theorem State.answerPrep_pod (hlevel : tField f 0 4 = 3) (hrole : s.isPodManager i = true) :
    s.answerPrep i f = s.answerCountVote i f 2 (s.podSum i) := by
  simp [State.answerPrep, hlevel, hrole]

theorem State.answerPrep_noPod (hlevel : tField f 0 4 = 3) (hrole : s.isPodManager i = false) :
    s.answerPrep i f = s := by
  simp [State.answerPrep, hlevel, hrole]

theorem State.answerPrep_chip (hlevel : tField f 0 4 = 2) (htarget : (s.ten i).fox.isTarget s.self = false) :
    s.answerPrep i f = s.answerCountVote i f 1 (s.chipCount i) := by
  simp [State.answerPrep, hlevel, htarget]

theorem State.answerPrep_target (hlevel : tField f 0 4 = 2) (htarget : (s.ten i).fox.isTarget s.self = true)
    (hkids : s.chipKids i = []) : s.answerPrep i f =
      s.answerCountVote i f 0 (if (s.ten i).commit.vstate = .ready then 1 else 0) := by
  simp [State.answerPrep, hlevel, htarget, State.answerCountVote_chipKids, hkids]

theorem State.answerDecided_committed (h : s.attemptOf i f = .committed) : s.answerDecided i f level =
    s.sendReply (s.ctrlTo i f.src 0x12 f.epoch.toNat f.tr
      ((s.ten i).commit.tree.members % 2 ^ 24 + level * 2 ^ 24)) := by
  simp only [State.answerDecided, h]

theorem State.answerDecided_aborted {r : Byte} (h : s.attemptOf i f = .aborted r) : s.answerDecided i f level =
    s.sendReply (s.ctrlTo i f.src 0x13 f.epoch.toNat f.tr (r.toNat + level * 256 + 4096)) := by
  simp only [State.answerDecided, h]

end

/-- What a receiver does with a COMMIT_PREP. -/
def State.takePrep (s : State) (i : Fin 64) (f : Rx) : State :=
  if (s.ten i).fox.self = .fenced then s
  else if (s.ten i).awaits then s.answerCountVote i f 0 0
  else if s.attemptOf i f = .opened then s.answerPrep i f
  else s.answerDecided i f (tField f 0 4 - 1)

theorem exec_commitPrep {s : State} {f : Rx} {i : Fin 64} (hgood : frameGood s f 0x10 i) (hlen : f.len = 0)
    (hlow : 2 ≤ tField f 0 4) (hhigh : tField f 0 4 ≤ 3) (hzero : tField f 4 60 = 0)
    (hok : ((s.at_ f.time).ten i).awaits = true ∨ (s.at_ f.time).voteOk i f = true) :
    exec (.commitPrep f) s = .next ((s.at_ f.time).takePrep i f) :=
  congrArg _ (State.receive_good _ hgood (by simp [hhigh, hzero]) (beq_iff_eq.2 hlen)
    (by simpa only [Bool.and_eq_true, Bool.or_eq_true, decide_eq_true_eq] using ⟨hok, hlow⟩) rfl)

section
variable {s : State} {i : Fin 64} {f : Rx}

theorem State.takePrep_fenced (h : (s.ten i).fox.self = .fenced) : s.takePrep i f = s := if_pos h

variable (hfree : (s.ten i).fox.self ≠ .fenced)
include hfree

theorem State.takePrep_awaits (h : (s.ten i).awaits = true) : s.takePrep i f = s.answerCountVote i f 0 0 := by
  rw [State.takePrep, if_neg hfree, if_pos h]

variable (hjoined : (s.ten i).awaits = false)
include hjoined

theorem State.takePrep_opened (h : s.attemptOf i f = .opened) : s.takePrep i f = s.answerPrep i f := by
  rw [State.takePrep, if_neg hfree, if_neg (by simp [hjoined]), if_pos h]

theorem State.takePrep_decided (h : s.attemptOf i f ≠ .opened) :
    s.takePrep i f = s.answerDecided i f (tField f 0 4 - 1) := by
  rw [State.takePrep, if_neg hfree, if_neg (by simp [hjoined]), if_neg h]

end

/-! ## COMMIT_DECIDE and STEP_ABORT -/

/-- A commit decision judged and followed. -/
def State.judgeCommit (s : State) (i : Fin 64) (f : Rx) : State :=
  (s.decision i (.commit f.epoch.toNat f.tr) (s.fromChild i f (tField f 24 4))).follow i

theorem exec_commitDecide {s : State} {f : Rx} {i : Fin 64} (hgood : frameGood s f 0x12 i) (hlen : f.len = 0)
    (hlevel : tField f 24 4 ≤ 3) (hzero : tField f 28 36 = 0) (hok : (s.at_ f.time).decideOk i f = true) :
    exec (.commitDecide f) s = .next (State.judgeCommit
      (if (((s.at_ f.time).ten i).awaits = true ∨ (s.at_ f.time).attemptOf i f = .opened) ∧
        tField f 0 24 ≠ ((s.at_ f.time).ten i).commit.tree.members then (s.at_ f.time).frameEvent f 0xB6
        else s.at_ f.time) i f) := by
  refine congrArg _ ((State.receive_good _ hgood (by simp [hlevel, hzero]) (beq_iff_eq.2 hlen) hok rfl).trans ?_)
  simp only [Bool.and_eq_true, Bool.or_eq_true, beq_iff_eq, decide_eq_true_eq]
  rfl

/-- What a receiver does with an abort decision: an echo that meets SOLICIT answers for the children it comes from. -/
def State.takeAbort (s : State) (i : Fin 64) (f : Rx) : State :=
  let echo := s.fromChild i f (tField f 8 4)
  let s' := if echo = true ∧ (s.ten i).commit.jobM = .solicit then s.heardPods i (· == f.src) else s
  (s'.decision i (.abort f.epoch.toNat f.tr (BitVec.ofNat 8 (tField f 0 8))) echo).follow i

section
variable {s : State} {f : Rx} {i : Fin 64} (hgood : frameGood s f 0x13 i) (hlen : f.len = 0)
  (hreason : reasonOk (tField f 0 8) = true) (hlevel : tField f 8 4 ≤ 3) (hzero : tField f 13 51 = 0)
include hgood hlen hreason hlevel hzero

theorem exec_stepAbortDecision (hkind : tField f 12 1 = 1) (hok : (s.at_ f.time).abortOk i f = true) :
    exec (.stepAbortDecision f) s = .next ((s.at_ f.time).takeAbort i f) := by
  refine congrArg _ ((State.receive_good _ hgood (by simp [hreason, hlevel, hkind, hzero]) (beq_iff_eq.2 hlen)
    hok rfl).trans ?_)
  simp only [Bool.and_eq_true, beq_iff_eq]
  rfl

theorem exec_stepAbortRequest (hkind : tField f 12 1 = 0) : exec (.stepAbortRequest f) s =
    .next (if ((s.at_ f.time).ten i).fox.self = .fenced then s.at_ f.time
      else ((s.at_ f.time).takeRequest i f (BitVec.ofNat 8 (tField f 0 8))).follow i) :=
  congrArg _ (State.receive_good _ hgood (by simp [hreason, hlevel, hkind, hzero]) (beq_iff_eq.2 hlen) rfl rfl)

end

/-! ## The statement -/

/-- Settles O18: each row by the lemma on its frame, a vote by its level and its child, a solicitation by its level and
the role that answers it, a decision by its member count or its echo. -/
theorem commitFrameRowsComplete : Obligations.CommitFrameRowsComplete := by
  refine ⟨fun s f i hgood hlen hlevel hzero hok => ?_, fun s i f job g c => ⟨State.credit_above, State.credit_below⟩,
    fun s f i hgood hlen hlow hhigh hzero hok => ?_, fun s i f level n => ⟨State.answerCountVote_away, ?_,
      State.answerCountVote_near⟩, fun s f i hgood hlen hlevel hzero hok => ?_,
    fun s f i hgood hlen hreason hlevel hzero => ⟨fun hkind hok => ?_, fun hkind => ?_⟩⟩
  · simp only [exec_commitVote hgood hlen hlevel hzero hok, ← s.at_ten f.time i]
    generalize s.at_ f.time = s1
    refine ⟨fun hfenced => congrArg _ (State.takeCommitVote_fenced hfenced), fun hfree hopened => ?_,
      fun hfree hdecided => congrArg _ (State.takeCommitVote_decided hfree hdecided)⟩
    rw [State.takeCommitVote_opened hfree hopened]
    refine ⟨fun g hl hchild hrole => ?_, fun g hl hchild hrole => ?_, fun hstray => ?_, fun g hl ht hrole hone => ?_⟩
    · rw [State.takeVote_chip hl hchild hrole]
    · rw [State.takeVote_pod hl hchild hrole]
    · rw [State.takeVote_stray hstray]
      rfl
    · rw [State.takeVote_target hl ht hrole hone]
  · rw [← s.at_ten f.time i] at hok
    simp only [exec_commitPrep hgood hlen hlow hhigh hzero hok, ← s.at_ten f.time i, ← s.at_self f.time]
    generalize s.at_ f.time = s1
    refine ⟨fun hfenced => congrArg _ (State.takePrep_fenced hfenced),
      fun hfree hawaits => congrArg _ (State.takePrep_awaits hfree hawaits), fun hfree hjoined hopened => ?_,
      fun hfree hjoined => ⟨fun hdecided => ?_, fun r hdecided => ?_⟩⟩
    · rw [State.takePrep_opened hfree hjoined hopened]
      exact ⟨fun hl hrole => congrArg _ (State.answerPrep_pod hl hrole),
        fun hl hrole => congrArg _ (State.answerPrep_noPod hl hrole),
        fun hl htarget => congrArg _ (State.answerPrep_chip hl htarget),
        fun hl htarget hkids => congrArg _ (State.answerPrep_target hl htarget hkids)⟩
    · rw [State.takePrep_decided hfree hjoined (by simp [hdecided]), State.answerDecided_committed hdecided]
    · rw [State.takePrep_decided hfree hjoined (by simp [hdecided]), State.answerDecided_aborted hdecided]
  · rintro hnear rfl
    exact State.answerCountVote_pod hnear
  · simp only [exec_commitDecide hgood hlen hlevel hzero hok, ← s.at_ten f.time i]
    exact ⟨fun hsame => by rw [if_neg hsame]; rfl, fun hother => by rw [if_pos hother]; rfl⟩
  · simp only [exec_stepAbortDecision hgood hlen hreason hlevel hzero hkind hok, ← s.at_ten f.time i]
    generalize s.at_ f.time = s1
    refine ⟨fun hplain => ?_, fun hecho hsolicit => ?_⟩
    · have hno : ¬ (s1.fromChild i f (tField f 8 4) = true ∧ (s1.ten i).commit.jobM = .solicit) := by
        rintro ⟨hchild, hsolicit⟩
        exact hplain.elim (fun h => by simp [h] at hchild) fun h => h hsolicit
      simp only [State.takeAbort, if_neg hno]
    · simp only [State.takeAbort, if_pos (And.intro hecho hsolicit)]
  · simp only [exec_stepAbortRequest hgood hlen hreason hlevel hzero hkind, ← s.at_ten f.time i]
    exact ⟨fun hfenced => by rw [if_pos hfenced], fun hfree => by rw [if_neg hfree]⟩

end Sys2Proof.Machine

/-! # A decision at a plain member

What a member that is no manager of the job does with a decision: which it takes, and what taking it leads to (R214,
R220, R221, R224, R225). -/

namespace Sys2Proof.Machine

/-! ## Which decision is taken -/

section
variable {s : State} {i : Fin 64}

/-- A member that holds an attempt and no job manager's role judges a decision from above by its attempts alone. -/
def State.judgeDecision (s : State) (i : Fin 64) (d : Decision) : State :=
  let c := (s.ten i).commit
  match d with
  | .commit e tr =>
    if e = c.openEpoch ∧ tr = c.openTry then s.takeDecision i d false
    else if e = c.committed ∧ tr = c.committedTry then s
    else s.raiseT i 0x47
  | .abort e tr _ =>
    if e = c.openEpoch then if tryAtOrAfter tr c.openTry then s.takeDecision i d false else s
    else if e ≤ c.committed then s.raiseT i 0xB9
    else s.raiseT i 0x47

theorem State.decision_member (hfree : (s.ten i).fox.self ≠ .fenced) (hjoined : (s.ten i).awaits = false)
    (hvotes : (s.ten i).commit.vstate ≠ .none) (hplain : s.isJobManager i = false) (d : Decision) :
    s.decision i d false = s.judgeDecision i d := by
  unfold State.decision State.judgeDecision
  cases d with
  | commit e tr => simp [hfree, hjoined, hvotes, hplain]
  | abort e tr r => simp [hfree, hjoined, hvotes]

theorem State.judgeDecision_commit : s.judgeDecision i (.commit (s.ten i).commit.openEpoch (s.ten i).commit.openTry) =
    s.takeDecision i (.commit (s.ten i).commit.openEpoch (s.ten i).commit.openTry) false := if_pos ⟨rfl, rfl⟩

theorem State.judgeDecision_committed {e : Nat} (hepoch : e = (s.ten i).commit.committed)
    (hpast : e ≠ (s.ten i).commit.openEpoch) : s.judgeDecision i (.commit e (s.ten i).commit.committedTry) = s := by
  have hclosed : ¬ (e = (s.ten i).commit.openEpoch ∧ (s.ten i).commit.committedTry = (s.ten i).commit.openTry) :=
    fun h => hpast h.1
  exact (if_neg hclosed).trans (if_pos ⟨hepoch, rfl⟩)

theorem tryAtOrAfter_self (t : BitVec 7) : tryAtOrAfter t t = true := by simp [tryAtOrAfter]

theorem not_tryAtOrAfter_succ (t : BitVec 7) : tryAtOrAfter t (t + 1) = false := by
  have h : (t - (t + 1)).toNat = 127 := by bv_omega
  simp only [tryAtOrAfter, h]
  rfl

theorem State.judgeDecision_abort (r : Byte) :
    s.judgeDecision i (.abort (s.ten i).commit.openEpoch (s.ten i).commit.openTry r) =
      s.takeDecision i (.abort (s.ten i).commit.openEpoch (s.ten i).commit.openTry r) false := by
  simp [State.judgeDecision, tryAtOrAfter_self]

theorem State.judgeDecision_earlierTry {tr : BitVec 7} (r : Byte) (h : tr + 1 = (s.ten i).commit.openTry) :
    s.judgeDecision i (.abort (s.ten i).commit.openEpoch tr r) = s := by
  simp only [State.judgeDecision, ← h, not_tryAtOrAfter_succ, Bool.false_eq_true, if_false, if_true]

theorem State.judgeDecision_pastEpoch {e : Nat} (tr : BitVec 7) (r : Byte) (hpast : e ≠ (s.ten i).commit.openEpoch)
    (hold : e ≤ (s.ten i).commit.committed) : s.judgeDecision i (.abort e tr r) = s.raiseT i 0xB9 := by
  simp only [State.judgeDecision, if_neg hpast, if_pos hold]

end

/-! ## What it leads to -/

section
variable {s t : State} {i : Fin 64} {e : Nat} {tr : BitVec 7} (hvoter : t.follower i = false)
include hvoter

section
variable (hstays : t.leaver i = false)
  (ht : t = ((s.relay i (.commit e tr) false).noteLates i).updCommit i CommitS.cleared)
include hstays ht

theorem State.takeDecision_commit_unready
    (h : (((s.relay i (.commit e tr) false).noteLates i).ten i).commit.vstate ≠ .ready) :
    s.takeDecision i (.commit e tr) false = t.raise { code := 0xB2, level := 3, tenant := t.tagOf i } := by
  subst ht
  simp only [State.takeDecision, hstays, hvoter, h, Bool.false_eq_true, if_false]

variable (hready : (((s.relay i (.commit e tr) false).noteLates i).ten i).commit.vstate = .ready)
include hready

theorem State.takeDecision_commit_ready (hgate : (t.ten i).rs.sealing = false) : s.takeDecision i (.commit e tr) false =
    if ((((t.applyCommit i).noteLimit i).badgerCommit i).ten i).rs.state = .moving then
      (((t.applyCommit i).noteLimit i).badgerCommit i).enterBoundary i
    else ((t.applyCommit i).noteLimit i).badgerCommit i := by
  subst ht
  simp only [State.takeDecision, hstays, hvoter, hready, hgate, Bool.false_eq_true, if_false, if_true]

theorem State.takeDecision_commit_seal (hseal : (t.ten i).rs.sealing = true) : s.takeDecision i (.commit e tr) false =
    (((t.applySeal i).endRender i).badgerCommit i).targetSealed i := by
  subst ht
  simp only [State.takeDecision, hstays, hvoter, hready, hseal, Bool.false_eq_true, if_false, if_true]

end

variable {r : Byte} (ht : t = (s.relay i (.abort e tr r) false).updCommit i CommitS.cleared)
include ht

theorem State.takeDecision_abort (hgate : (t.ten i).rs.sealing = false) :
    s.takeDecision i (.abort e tr r) false = (t.applyAbort i tr r).oweAdvance i := by
  subst ht
  simp only [State.takeDecision, hvoter, hgate, Bool.false_eq_true, if_false]

theorem State.takeDecision_abort_seal (hseal : (t.ten i).rs.sealing = true) :
    s.takeDecision i (.abort e tr r) false = ((t.abortSeal i).endRender i).oweAdvance i := by
  subst ht
  simp only [State.takeDecision, hvoter, hseal, Bool.false_eq_true, if_false, if_true]

end

/-! ## The statement -/

/-- Settles O19: the decision by the attempt it names, then a commit by the member's vote and by what it seals, an abort
by what it seals. -/
theorem decisionTakenByMember : Obligations.DecisionTakenByMember := by
  intro s i e tr hfree hjoined hvotes hplain
  simp only [State.decision_member hfree hjoined hvotes hplain]
  refine ⟨?_, ?_, ?_, ?_, fun r hpast hold => State.judgeDecision_pastEpoch tr r hpast hold⟩
  · rintro rfl rfl hstays hvoter
    rw [State.judgeDecision_commit]
    refine ⟨State.takeDecision_commit_unready hvoter hstays rfl, fun hready hgate => ?_,
      State.takeDecision_commit_seal hvoter hstays rfl⟩
    rw [State.takeDecision_commit_ready hvoter hstays rfl hready hgate]
    exact ⟨fun hstill => if_neg hstill, fun hmoving => if_pos hmoving⟩
  · rintro hepoch hpast rfl
    exact State.judgeDecision_committed hepoch hpast
  · rintro r rfl rfl hvoter
    rw [State.judgeDecision_abort]
    exact ⟨State.takeDecision_abort hvoter rfl, State.takeDecision_abort_seal hvoter rfl⟩
  · rintro r rfl htry
    exact State.judgeDecision_earlierTry r htry

end Sys2Proof.Machine

/-! # The vote path

The own vote, what VOTE_REPEAT repeats, ABORT_WAIT and the software abort (R215, R221 to R223, R226, R227, R230). -/

namespace Sys2Proof.Machine

/-! ## The own vote -/

section
variable {s : State} {i : Fin 64} {now : BitVec 64}

theorem exec_voteReady_gives (h : s.portsUp = true ∧ (s.ten i).env ≠ none ∧ s.readyNow i = true ∧ s.commits i = true) :
    exec (.voteReady i now) s = .next (((s.at_ now).giveVote i).follow i) := by
  obtain ⟨hports, henv, hready, hcommits⟩ := h
  exact if_neg (by simp [hports, henv, hready, hcommits])

theorem exec_voteReady_waits
    (h : ¬ (s.portsUp = true ∧ (s.ten i).env ≠ none ∧ s.readyNow i = true ∧ s.commits i = true)) :
    exec (.voteReady i now) s = .next s :=
  if_pos (by simpa [imp_iff_not_or, or_assoc] using h)

end

theorem State.send_frame (s : State) (f : OutFrame) : s.send f = { s with ep := (s.send f).ep } := by
  unfold State.send
  split
  · rfl
  · split <;> rfl

theorem State.lathSend_ten (s : State) (m : LathMsg) (j : Fin 64) : (s.lathSend m).ten j = s.ten j := rfl

/-- The own vote in the commit state and on the lath. -/
def State.voteStated (s : State) (i : Fin 64) : State :=
  (s.updCommit i fun c => { c with vstate := .ready, readyAt := s.time.now }).lathSend
    (.vote s.power.inst i.val true (s.ten i).commit.openEpoch (s.ten i).commit.openTry)

/-- The same, noted by the chip manager as the vote of its own child. -/
def State.voteNoted (s : State) (i : Fin 64) : State :=
  let t := s.voteStated i
  if t.isChipManager && !(t.ten i).fox.isTarget t.self then t.noteChild i 0 t.self t.power.inst.toNat else t

/-- A target's vote of an attempt sent to the manager that credits its rank. -/
def State.sendTargetVote (s : State) (i : Fin 64) (c : CommitS) : State :=
  if (s.ten i).fox.isTarget s.self then
    match (s.ten i).podManager with
    | some a => if a.chip = s.self.chip then s else s.send (s.ctrlTo i a 0x11 c.openEpoch c.openTry 1)
    | none => s
  else s

theorem State.giveVote_eq (s : State) (i : Fin 64) :
    s.giveVote i = (s.voteNoted i).sendTargetVote i (s.ten i).commit := rfl

theorem State.sendTargetVote_frame (s : State) (i : Fin 64) (c : CommitS) :
    s.sendTargetVote i c = { s with ep := (s.sendTargetVote i c).ep } := by
  unfold State.sendTargetVote
  split
  · split
    · split
      · rfl
      · exact s.send_frame _
    · rfl
  · rfl

theorem State.voteStated_ten (s : State) (i : Fin 64) : (s.voteStated i).ten i =
    { s.ten i with commit := { (s.ten i).commit with vstate := .ready, readyAt := s.time.now } } := by
  rw [State.voteStated, State.lathSend_ten, State.updCommit, State.updTen_self]

/-- A child's completion noted changes the roles of the commit state alone. -/
theorem State.noteChild_self (s : State) (i : Fin 64) (role : Fin 3) (a : Addr) (child : Nat) :
    ∃ roles : Vector RoleRec 3, (s.noteChild i role a child).ten i =
      { s.ten i with commit := { (s.ten i).commit with roles := roles } } :=
  ⟨_, State.updTen_self s i _⟩

theorem State.voteNoted_ten (s : State) (i : Fin 64) : ∃ roles : Vector RoleRec 3, (s.voteNoted i).ten i =
    { s.ten i with commit :=
      { (s.ten i).commit with vstate := .ready, readyAt := s.time.now, roles := roles } } := by
  unfold State.voteNoted
  simp only
  split
  · obtain ⟨roles, hnote⟩ := (s.voteStated i).noteChild_self i 0 (s.voteStated i).self
      (s.voteStated i).power.inst.toNat
    exact ⟨roles, by rw [hnote, State.voteStated_ten]⟩
  · exact ⟨_, s.voteStated_ten i⟩

theorem State.voteNoted_other (s : State) {i j : Fin 64} (h : j ≠ i) : (s.voteNoted i).ten j = s.ten j := by
  have hstated : (s.voteStated i).ten j = s.ten j := by
    rw [State.voteStated, State.lathSend_ten, State.updCommit, State.updTen_other s i j _ h]
  unfold State.voteNoted
  simp only
  split
  · exact (State.updTen_other _ i j _ h).trans hstated
  · exact hstated

theorem State.voteNoted_frame (s : State) (i : Fin 64) : s.voteNoted i = { s with
    tenants := (s.voteNoted i).tenants
    lath := { s.lath with sent := s.lath.sent ++
      [.vote s.power.inst i.val true (s.ten i).commit.openEpoch (s.ten i).commit.openTry] } } := by
  unfold State.voteNoted
  simp only
  split <;> rfl

/-- What the own vote leaves of its tenant. -/
theorem State.giveVote_ten (s : State) (i : Fin 64) : ∃ roles : Vector RoleRec 3, (s.giveVote i).ten i =
    { s.ten i with commit :=
      { (s.ten i).commit with vstate := .ready, readyAt := s.time.now, roles := roles } } := by
  rw [State.giveVote_eq, State.sendTargetVote_frame]
  exact s.voteNoted_ten i

theorem State.giveVote_other (s : State) {i j : Fin 64} (h : j ≠ i) : (s.giveVote i).ten j = s.ten j := by
  rw [State.giveVote_eq, State.sendTargetVote_frame]
  exact s.voteNoted_other h

theorem State.giveVote_frame (s : State) (i : Fin 64) : s.giveVote i = { s with
    tenants := (s.giveVote i).tenants
    lath := { s.lath with sent := s.lath.sent ++
      [.vote s.power.inst i.val true (s.ten i).commit.openEpoch (s.ten i).commit.openTry] }
    ep := (s.giveVote i).ep } := by
  rw [State.giveVote_eq, State.sendTargetVote_frame, State.voteNoted_frame]

/-! ## Repeats -/

/-- When VOTE_REPEAT's expiry may send again: the tenant is active and not fenced, and frames may be formed. -/
def State.mayRepeat (s : State) (i : Fin 64) : Prop :=
  s.portsUp = true ∧ (s.ten i).env ≠ none ∧ (s.ten i).fox.self ≠ .fenced ∧ s.mayInject = true

/-- The state once a solicitation's repeat is due, its time noted. -/
def State.solicitNoted (s : State) (i : Fin 64) : State :=
  let t := s.reach (s.ten i).commit.solicitAt (s.cfg.glob.voteRepeat * 1000)
  t.updCommit i fun c => { c with solicitAt := t.time.now }

theorem State.updTen_congr {s : State} {i : Fin 64} {f g : TenantS → TenantS} (h : f (s.ten i) = g (s.ten i)) :
    s.updTen i f = s.updTen i g := by
  rw [State.ten] at h
  rw [State.updTen, State.updTen, h]

theorem State.reach_ten (s : State) (since : BitVec 64) (ns : Nat) (i : Fin 64) :
    (s.reach since ns).ten i = s.ten i := by
  rw [State.reach_frame]
  rfl

/-- The time noted is that of the deadline which the commit state itself holds. -/
theorem State.solicitNoted_eq (s : State) (i : Fin 64) : s.solicitNoted i =
    (s.reach (s.ten i).commit.solicitAt (s.cfg.glob.voteRepeat * 1000)).updCommit i fun c =>
      { c with solicitAt := (s.reach c.solicitAt (s.cfg.glob.voteRepeat * 1000)).time.now } := by
  simp only [State.solicitNoted, State.updCommit]
  exact State.updTen_congr (by rw [State.reach_ten])

/-- The children that have not answered solicited again, by each role that solicits. -/
def State.solicitRoles (s : State) (i : Fin 64) : State :=
  let pods := if (s.ten i).commit.podM = .solicit then (s.solicitNoted i).solicitAgain i false else s.solicitNoted i
  if (s.ten i).commit.jobM = .solicit then pods.solicitAgain i true else pods

section
variable {s : State} {i : Fin 64}

theorem exec_voteRepeat_shut (what : RepeatKind)
    (h : s.portsUp = false ∨ (s.ten i).env = none ∨ (s.ten i).fox.self = .fenced ∨ s.mayInject = false) :
    exec (.voteRepeatExpiry i what) s = .next s :=
  if_pos (by simpa [or_assoc] using h)

variable (hmay : s.mayRepeat i)
include hmay

theorem State.mayRepeat_open :
    ¬ (!s.portsUp || (s.ten i).env.isNone || (s.ten i).fox.self == .fenced || !s.mayInject) = true := by
  obtain ⟨hports, henv, hfree, hinject⟩ := hmay
  simp [hports, henv, hfree, hinject]

theorem exec_voteRepeat_podVote (hrole : s.isPodManager i = true) (hsent : (s.ten i).commit.podM = .sent) :
    exec (.voteRepeatExpiry i .podVote) s =
      .next ((s.reach (s.ten i).commit.podAt (s.cfg.glob.voteRepeat * 1000)).podVote i) :=
  (if_neg (State.mayRepeat_open hmay)).trans (congrArg _ (if_pos (by simp [hrole, hsent])))

theorem exec_voteRepeat_podVote_idle (h : s.isPodManager i = false ∨ (s.ten i).commit.podM ≠ .sent) :
    exec (.voteRepeatExpiry i .podVote) s = .next s :=
  (if_neg (State.mayRepeat_open hmay)).trans (congrArg _ (if_neg (by simpa [imp_iff_not_or] using h)))

theorem exec_voteRepeat_chipVote (hrole : s.isChipManager = true) (hsent : (s.ten i).commit.chipM = .sent) :
    exec (.voteRepeatExpiry i .chipVote) s =
      .next ((s.reach (s.ten i).commit.chipAt (s.cfg.glob.voteRepeat * 1000)).chipVote i) :=
  (if_neg (State.mayRepeat_open hmay)).trans (congrArg _ (if_pos (by simp [hrole, hsent])))

theorem exec_voteRepeat_chipVote_idle (h : s.isChipManager = false ∨ (s.ten i).commit.chipM ≠ .sent) :
    exec (.voteRepeatExpiry i .chipVote) s = .next s :=
  (if_neg (State.mayRepeat_open hmay)).trans (congrArg _ (if_neg (by simpa [imp_iff_not_or] using h)))

theorem exec_voteRepeat_solicit_idle (hpod : (s.ten i).commit.podM ≠ .solicit)
    (hjob : (s.ten i).commit.jobM ≠ .solicit) : exec (.voteRepeatExpiry i .solicit) s = .next s :=
  (if_neg (State.mayRepeat_open hmay)).trans (if_pos ⟨hpod, hjob⟩)

theorem exec_voteRepeat_solicit (h : (s.ten i).commit.podM = .solicit ∨ (s.ten i).commit.jobM = .solicit) :
    exec (.voteRepeatExpiry i .solicit) s = .next ((s.solicitRoles i).follow i) := by
  refine (if_neg (State.mayRepeat_open hmay)).trans (if_neg ?_)
  rintro ⟨hpod, hjob⟩
  exact h.elim hpod hjob

theorem exec_voteRepeat_request : exec (.voteRepeatExpiry i .request) s = .next ((s.repeatRequest i).follow i) :=
  if_neg (State.mayRepeat_open hmay)

theorem exec_voteRepeat_targetRequest {t : State}
    (ht : t = s.reach (s.ten i).bg.askedAt (s.cfg.glob.voteRepeat * 1000)) (h : (s.ten i).bg.asking = true) :
    exec (.voteRepeatExpiry i .targetRequest) s =
      .next (((t.updBg i fun b => { b with askedAt := t.time.now }).requestOwn i 0x08).follow i) := by
  subst ht
  exact (if_neg (State.mayRepeat_open hmay)).trans (congrArg _ (if_pos h))

theorem exec_voteRepeat_targetRequest_idle (h : (s.ten i).bg.asking = false) :
    exec (.voteRepeatExpiry i .targetRequest) s = .next s :=
  (if_neg (State.mayRepeat_open hmay)).trans (congrArg _ (if_neg (by simp [h])))

theorem exec_voteRepeat_report (a : Addr) : exec (.voteRepeatExpiry i (.report a)) s =
    .next (((s.ten i).fox.reports.filter fun r => r.subject == a).foldl
      (fun s r => (s.reach r.since (s.cfg.glob.voteRepeat * 1000)).sendReport i r) s) :=
  if_neg (State.mayRepeat_open hmay)

end

section
variable {s t : State} {i : Fin 64}

theorem State.solicitRoles_pods (hpod : (s.ten i).commit.podM = .solicit) (hjob : (s.ten i).commit.jobM ≠ .solicit) :
    s.solicitRoles i = (s.solicitNoted i).solicitAgain i false := by
  simp only [State.solicitRoles, if_pos hpod, if_neg hjob]

theorem State.solicitRoles_jobs (hpod : (s.ten i).commit.podM ≠ .solicit) (hjob : (s.ten i).commit.jobM = .solicit) :
    s.solicitRoles i = (s.solicitNoted i).solicitAgain i true := by
  simp only [State.solicitRoles, if_neg hpod, if_pos hjob]

theorem State.solicitRoles_both (hpod : (s.ten i).commit.podM = .solicit) (hjob : (s.ten i).commit.jobM = .solicit) :
    s.solicitRoles i = ((s.solicitNoted i).solicitAgain i false).solicitAgain i true := by
  simp only [State.solicitRoles, if_pos hpod, if_pos hjob]

theorem State.repeatRequest_due {r : Asked} (hheld : (s.ten i).commit.vstate = .withheld)
    (hdue : (s.ten i).commit.nextAsked = some r) (ht : t = s.reach r.since (s.cfg.glob.voteRepeat * 1000)) :
    s.repeatRequest i = (t.updCommit i fun c => { c with asked := c.asked.map fun x =>
      if x = r then { r with repeats := r.repeats + 1, since := t.time.now } else x }).requestOwn i r.reason := by
  subst ht
  simp only [State.repeatRequest, hheld, hdue, State.repeatNs]

theorem State.repeatRequest_idle (h : (s.ten i).commit.vstate ≠ .withheld ∨ (s.ten i).commit.nextAsked = none) :
    s.repeatRequest i = s := by
  unfold State.repeatRequest
  split
  · next r hheld hdue => exact h.elim (absurd hheld) fun hnone => by simp [hnone] at hdue
  · rfl

end

/-! ## ABORT_WAIT and the software abort -/

section
variable {s : State} {i : Fin 64} {reason : Byte} {f : State → State}

theorem State.orHold_acts (h : (s.ten i).commit.jobM ≠ .solicit) : s.orHold i reason f = f s := if_neg h

theorem State.orHold_holds (h : (s.ten i).commit.jobM = .solicit) :
    s.orHold i reason f = s.updCommit i fun c => { c with held := c.held ++ [reason] } := if_pos h

end

/-- When ABORT_WAIT of an attempt ends at the acting job manager with that attempt open. -/
def State.abortWaitEnds (s : State) (i : Fin 64) (e : BitVec 48) (tr : BitVec 7) : Prop :=
  s.isJobManager i = true ∧ s.commits i = true ∧ s.attemptStands i = true ∧ (s.ten i).commit.abortWait ≠ 0 ∧
    s.mayInject = true ∧ e.toNat = (s.ten i).commit.openEpoch ∧ tr = (s.ten i).commit.openTry

section
variable {s : State} {i : Fin 64} {e : BitVec 48} {tr : BitVec 7}

theorem exec_abortWaitExpiry_ends (h : s.abortWaitEnds i e tr) : exec (.abortWaitExpiry ⟨i, e, tr⟩) s =
    .next (((s.reach (s.ten i).commit.openedAt ((s.ten i).commit.abortWait.toNat * 1000)).orHold i 0x02 fun s =>
      (s.decideAbort i 0x02).raiseT i 0xB5).follow i) := by
  obtain ⟨hjob, hcommits, hstands, hwait, hinject, hepoch, htry⟩ := h
  have hruns : ¬ (s.ten i).commit.abortWait = 0#32 := hwait
  exact if_neg (by simp [hjob, hcommits, hstands, hruns, hinject, hepoch, htry])

theorem exec_abortWaitExpiry_idle (h : ¬ s.abortWaitEnds i e tr) : exec (.abortWaitExpiry ⟨i, e, tr⟩) s = .next s :=
  if_pos (by simpa [State.abortWaitEnds, imp_iff_not_or, or_assoc] using h)

end

/-- When the acting job manager takes a software abort. -/
def State.takesAbort (s : State) (a : Acc) : Prop :=
  s.windowOpen 0x2818 = true ∧ s.ownTag a = true ∧ s.isJobManager s.selected = true

section
variable {s : State} {a : Acc} {b : Bool} (hports : s.portsUp = true)
include hports

theorem exec_ecAbort_refused (h : ¬ s.takesAbort a) : exec (.ecAbort a b) s = .next (s.refuse a.id 0x2818) := by
  have hrefused : (!s.windowOpen 0x2818 || !s.ownTag a || !s.isJobManager s.selected) = true := by
    simpa [State.takesAbort, imp_iff_not_or, or_assoc] using h
  exact (if_neg (by simp [hports])).trans (if_pos hrefused)

theorem exec_ecAbort_taken (h : s.takesAbort a) {t : State}
    (ht : t = (s.ok a.id).updCommit s.selected fun c => { c with autoAbort := b }) : exec (.ecAbort a b) s =
      .next (if t.commits s.selected && t.attemptStands s.selected then
        (t.orHold s.selected 0x01 fun t => t.decideAbort s.selected 0x01).follow s.selected else t) := by
  obtain ⟨hopen, htag, hjob⟩ := h
  subst ht
  exact (if_neg (by simp [hports])).trans (if_neg (by simp [hopen, htag, hjob]))

end

/-! ## The statement -/

/-- Settles O20: the own vote by what it leaves of the state, each repeat by the state of its role or its request,
ABORT_WAIT and the software abort by whether they are taken and whether the job manager solicits. -/
theorem voteRowsComplete : Obligations.VoteRowsComplete := by
  refine ⟨fun s i now => ⟨exec_voteReady_gives, exec_voteReady_waits⟩, fun s i => ?_,
    fun s i what => exec_voteRepeat_shut what, fun s i hports henv hfree hinject => ?_, fun s i e tr => ?_,
    fun s a b hports => ?_⟩
  · obtain ⟨roles, hten⟩ := s.giveVote_ten i
    have hframe := s.giveVote_frame i
    have hlath := congrArg (fun t : State => t.lath.sent) hframe
    refine ⟨by rw [hten], by rw [hten], ?_, ?_, by rw [hten], by rw [hten], by rw [hten], fun j => s.giveVote_other⟩
    · rw [hlath]
      exact List.mem_append_right _ List.mem_cons_self
    · rw [hframe]
  · have hmay : s.mayRepeat i := ⟨hports, henv, hfree, hinject⟩
    refine ⟨exec_voteRepeat_podVote hmay, exec_voteRepeat_podVote_idle hmay, exec_voteRepeat_chipVote hmay,
      exec_voteRepeat_chipVote_idle hmay, exec_voteRepeat_solicit_idle hmay,
      ⟨fun hpod hjob => ?_, fun hpod hjob => ?_, fun hpod hjob => ?_⟩,
      fun r hheld hdue => ?_, fun hnot => ?_, exec_voteRepeat_targetRequest hmay rfl,
      exec_voteRepeat_targetRequest_idle hmay, exec_voteRepeat_report hmay⟩
    · rw [exec_voteRepeat_solicit hmay (.inl hpod), State.solicitRoles_pods hpod hjob, State.solicitNoted_eq]
    · rw [exec_voteRepeat_solicit hmay (.inr hjob), State.solicitRoles_jobs hpod hjob, State.solicitNoted_eq]
    · rw [exec_voteRepeat_solicit hmay (.inl hpod), State.solicitRoles_both hpod hjob, State.solicitNoted_eq]
    · rw [exec_voteRepeat_request hmay, State.repeatRequest_due hheld hdue rfl]
    · rw [exec_voteRepeat_request hmay, State.repeatRequest_idle hnot]
  · refine ⟨fun hends hjob => ?_, fun hends hjob => ?_, exec_abortWaitExpiry_idle⟩
    · rw [exec_abortWaitExpiry_ends hends, State.orHold_acts (by rwa [State.reach_ten])]
    · rw [exec_abortWaitExpiry_ends hends, State.orHold_holds (by rwa [State.reach_ten])]
  · refine ⟨exec_ecAbort_refused hports, fun htaken hcommits hstands hjob => ?_, fun htaken hcommits hstands hjob => ?_,
      fun htaken hnone => ?_⟩
    · rw [exec_ecAbort_taken hports htaken rfl, if_pos (by simp [hcommits, hstands]), State.orHold_acts hjob]
    · rw [exec_ecAbort_taken hports htaken rfl, if_pos (by simp [hcommits, hstands]), State.orHold_holds hjob]
    · rw [exec_ecAbort_taken hports htaken rfl, if_neg (by simpa [imp_iff_not_or] using hnone)]

end Sys2Proof.Machine

/-! # The membership record

What an update makes of the record a member keeps, by the kind of the change (R232, R233, R235, R252). -/

namespace Sys2Proof.Machine

/-! ## Every change -/

theorem FoxS.apply_gen (f : FoxS) (u : Update) : (f.apply u).gen = u.newGen := by
  unfold FoxS.apply
  split_ifs <;> rfl

theorem FoxS.apply_log (f : FoxS) (u : Update) : (f.apply u).log = (f.log ++ [u]).drop (f.log.length + 1 - 64) := by
  unfold FoxS.apply
  split_ifs <;> rfl

theorem updLoses_eq_false {u : Update} (h : u.kind = 4 ∨ u.kind = 5 ∨ u.kind = 6) : updLoses u = false := by
  rcases h with h | h | h <;> simp [updLoses, h]

/-! ## The kinds of change -/

section
variable {f : FoxS} {u : Update}

section
variable (h : updLoses u = true)
include h

theorem FoxS.mem_lost_apply_loss (a : Addr) : a ∈ (f.apply u).lost ↔ a ∈ f.lost ∨ a ∈ updNamed u := by
  by_cases hlost : a ∈ f.lost <;> simp [FoxS.apply, h, hlost]

theorem FoxS.mem_gone_apply_loss (a : Addr) : a ∈ (f.apply u).gone ↔ a ∈ f.gone ∨ a ∈ updNamed u := by
  by_cases hgone : a ∈ f.gone <;> simp [FoxS.apply, h, hgone]

theorem FoxS.mem_replacing_apply_loss (p : Addr × Addr) :
    p ∈ (f.apply u).replacing ↔ p ∈ f.replacing ∧ p.2 ∉ updNamed u := by
  simp [FoxS.apply, h]

end

section
variable (h : u.kind = 4)
include h

theorem FoxS.mem_lost_apply_target (a : Addr) : a ∈ (f.apply u).lost ↔ a ∈ f.lost ∧ a ≠ u.subject := by
  simp [FoxS.apply, updLoses_eq_false (.inl h), h]

theorem FoxS.mem_replacing_apply_target (p : Addr × Addr) :
    p ∈ (f.apply u).replacing ↔ (p ∈ f.replacing ∧ p.1 ≠ u.subject) ∨ p = (u.subject, u.target) := by
  simp [FoxS.apply, updLoses_eq_false (.inl h), h]

end

section
variable (h : u.kind = 5)
include h

theorem FoxS.lost_apply_rejoin : (f.apply u).lost = f.lost := by
  simp [FoxS.apply, updLoses_eq_false (.inr (.inl h)), h]

theorem FoxS.mem_replacing_apply_rejoin (p : Addr × Addr) :
    p ∈ (f.apply u).replacing ↔ p ∈ f.replacing ∧ p.2 ≠ u.subject := by
  simp [FoxS.apply, updLoses_eq_false (.inr (.inl h)), h]

end

section
variable (h : u.kind = 6)
include h

theorem FoxS.lost_apply_advance : (f.apply u).lost = f.lost := by
  simp [FoxS.apply, updLoses_eq_false (.inr (.inr h)), h]

theorem FoxS.replacing_apply_advance : (f.apply u).replacing = f.replacing := by
  simp [FoxS.apply, updLoses_eq_false (.inr (.inr h)), h]

end

end

/-! ## The statement -/

/-- Settles O28: the generation and the log, which every change sets, then who is LOST and who replaces whom by the kind of
the change. -/
theorem changeOfMembership : Obligations.ChangeOfMembership := by
  intro f u
  rw [FoxS.apply_log]
  refine ⟨f.apply_gen u, fun _ => ?_, ?_, fun hloses => ⟨fun a ha => ?_, fun a ha => ?_, fun a => ?_⟩,
    fun htarget => ⟨?_, ?_, fun a hother => ?_⟩,
    fun hadvance => ⟨FoxS.lost_apply_advance hadvance, FoxS.replacing_apply_advance hadvance⟩,
    fun hrejoin => ⟨FoxS.lost_apply_rejoin hrejoin, fun p hp => ((FoxS.mem_replacing_apply_rejoin hrejoin p).1 hp).2⟩⟩
  · simp only [List.length_drop, List.length_append, List.length_singleton]
    omega
  · rw [List.getLast?_drop, if_neg (by simp), List.getLast?_concat]
  · refine ⟨(FoxS.mem_lost_apply_loss hloses a).2 (.inr ha), (FoxS.mem_gone_apply_loss hloses a).2 (.inr ha), ?_⟩
    rintro p hp rfl
    exact ((FoxS.mem_replacing_apply_loss hloses p).1 hp).2 ha
  · exact (FoxS.mem_lost_apply_loss hloses a).2 (.inl ha)
  · exact (FoxS.mem_lost_apply_loss hloses a).1
  · exact fun hlost => ((FoxS.mem_lost_apply_target htarget _).1 hlost).2 rfl
  · exact (FoxS.mem_replacing_apply_target htarget _).2 (.inr rfl)
  · rw [FoxS.mem_lost_apply_target htarget, and_iff_left hother]

end Sys2Proof.Machine

/-! # Evictions and updates

EVICT, MEMBERSHIP_UPDATE and MEMBERSHIP_UPDATE_ISSUE (R232 to R235, R245). -/

namespace Sys2Proof.Machine

/-! ## EVICT -/

/-- The tenant MNL_TSEL names. -/
def State.tselTenant (s : State) : Fin 64 := Fin.ofNat 64 s.regs.tsel.toNat

/-- Whether a write of MNL_FX_EVICT is taken: the window is open, and it comes from system software or under the tag of the
tenant MNL_TSEL names. -/
def State.takesEvict (s : State) (a : Acc) : Prop :=
  s.windowOpen 0x2048 = true ∧ (s.tenantOf (s.tagOf s.tselTenant)).isSome = true ∧
    (fromSystem a = true ∨ a.tag = s.tagOf s.tselTenant)

section
variable {s : State} {a : Acc} (addr : Addr) (chip : Bool) (hports : s.portsUp = true)
include hports

theorem exec_evict_refused (h : ¬ s.takesEvict a) : exec (.evict a addr chip) s = .next (s.refuse a.id 0x2048) := by
  have hrefused : (!s.windowOpen 0x2048 || (s.tenantOf (s.tagOf s.tselTenant)).isNone ||
      !(fromSystem a || a.tag == s.tagOf s.tselTenant)) = true := by
    simpa [State.takesEvict, imp_iff_not_or, or_assoc] using h
  exact (if_neg (by simp [hports])).trans (if_pos hrefused)

theorem exec_evict_taken (h : s.takesEvict a) {t : State}
    (ht : t = (s.updFox s.tselTenant fun f => { f with evictAddr := addr, evictChip := chip }).ok a.id) :
    exec (.evict a addr chip) s = .next (t.report s.tselTenant addr (if chip then t.chipMask addr else 0) 3) := by
  obtain ⟨hopen, htenant, htag⟩ := h
  have htaken : ¬ (!s.windowOpen 0x2048 || (s.tenantOf (s.tagOf s.tselTenant)).isNone ||
      !(fromSystem a || a.tag == s.tagOf s.tselTenant)) = true := by
    simpa [hopen, ← Option.not_isSome, htenant, or_iff_not_imp_left] using htag
  subst ht
  exact (if_neg (by simp [hports])).trans (if_neg htaken)

end

/-! ## MEMBERSHIP_UPDATE -/

theorem exec_membershipUpdate {s : State} {f : Rx} {i : Fin 64} (hgood : frameGood s f 0x70 i) (hok : updateOk f = true)
    (hlen : f.len = 16) : exec (.membershipUpdate f) s = .next (
      if ((s.at_ f.time).ten i).fox.gen < (updateOf f).newGen then (s.at_ f.time).applyUpdate i (updateOf f) false false
      else s.at_ f.time) :=
  congrArg _ (State.receive_good _ hgood hok (beq_iff_eq.2 hlen) rfl rfl)

/-! ## MEMBERSHIP_UPDATE_ISSUE -/

/-- Whether an update may be issued here: this end leads an active tenant, and frames may be formed. -/
def State.mayIssue (s : State) (i : Fin 64) : Prop := (s.ten i).env ≠ none ∧ s.leads i = true ∧ s.mayInject = true

/-- Whether the last update was issued less than 5 µs ago. -/
def State.issuedSoon (s : State) (i : Fin 64) : Prop :=
  (s.ten i).fox.issuedAny = true ∧ (s.time.now - (s.ten i).fox.issuedAt).toNat < 5000

theorem exec_membershipUpdateIssue (i : Fin 64) (now : BitVec 64) (s : State) :
    exec (.membershipUpdateIssue i now) s = execMembershipUpdateIssue i now s := rfl

section
variable {s : State} {i : Fin 64} {now : BitVec 64}

theorem exec_membershipUpdateIssue_unconfigured (h : s.configured = false) :
    exec (.membershipUpdateIssue i now) s = .next s := by
  rw [exec_membershipUpdateIssue, execMembershipUpdateIssue]
  simp [h]

variable (h : s.configured = true)
include h

theorem exec_membershipUpdateIssue_configured {t : State} (ht : t = s.at_ now) :
    exec (.membershipUpdateIssue i now) s = .next (
      if (t.ten i).env.isNone || !t.leads i || !t.mayInject ||
        ((t.ten i).fox.issuedAny && !passed (t.ten i).fox.issuedAt t.time.now 5) then t else t.issueNext i) := by
  have hconf : t.configured = true := by
    rw [ht, State.at_frame]
    exact h
  rw [exec_membershipUpdateIssue, execMembershipUpdateIssue]
  simp only [h, if_true, ← ht, hconf, Bool.not_true, Bool.false_or]

theorem exec_membershipUpdateIssue_stays {t : State} (ht : t = s.at_ now) (hstays : ¬ t.mayIssue i ∨ t.issuedSoon i) :
    exec (.membershipUpdateIssue i now) s = .next t := by
  rw [exec_membershipUpdateIssue_configured h ht, if_pos]
  simpa [State.mayIssue, State.issuedSoon, passed, imp_iff_not_or, or_assoc] using hstays

theorem exec_membershipUpdateIssue_issues {t : State} (ht : t = s.at_ now) (hmay : t.mayIssue i)
    (hlate : ¬ t.issuedSoon i) : exec (.membershipUpdateIssue i now) s = .next (t.issueNext i) := by
  obtain ⟨henv, hleads, hinject⟩ := hmay
  rw [exec_membershipUpdateIssue_configured h ht, if_neg]
  simpa [henv, hleads, hinject, State.issuedSoon, passed] using hlate

end

/-! ## The statement -/

/-- Settles O27: an eviction by whether it is taken, an update by its generation, the leader's next by whether it may issue
and has not just done so. -/
theorem updateRowsComplete : Obligations.UpdateRowsComplete := by
  refine ⟨fun s a addr chip hports => ⟨?_, ?_, exec_evict_refused addr chip hports⟩,
    fun s f i hgood hok hlen => ?_, fun s i now => ⟨exec_membershipUpdateIssue_unconfigured, fun hconf => ?_⟩⟩
  · rintro htaken rfl
    exact exec_evict_taken addr false hports htaken rfl
  · rintro htaken rfl
    exact exec_evict_taken addr true hports htaken rfl
  · rw [exec_membershipUpdate hgood hok hlen, State.at_ten]
    exact ⟨fun hnew => congrArg _ (if_pos hnew), fun hold => congrArg _ (if_neg hold)⟩
  · rw [← s.at_ten now i]
    exact ⟨exec_membershipUpdateIssue_stays hconf rfl, exec_membershipUpdateIssue_issues hconf rfl⟩

end Sys2Proof.Machine

/-! # Frames put on the CONTROL channel

A state whose CONTROL channel has frames more behind what waited there, and what a witness round and a SUSPECT entry leave
(R66, R70, R239). -/

namespace Sys2Proof.Machine

/-- Whether a state is another with more frames waiting on the CONTROL channel, and nothing else changed. -/
def State.Queues (s t : State) : Prop :=
  t = { s with ep := { s.ep with ctrlQ := t.ep.ctrlQ } } ∧ s.ep.ctrlQ <+: t.ep.ctrlQ

theorem State.Queues.refl (s : State) : s.Queues s := ⟨rfl, List.prefix_refl _⟩

theorem State.Queues.trans {s t u : State} (hst : s.Queues t) (htu : t.Queues u) : s.Queues u := by
  obtain ⟨ht, hmore⟩ := hst
  obtain ⟨hu, hyet⟩ := htu
  exact ⟨hu.trans (by rw [ht]), hmore.trans hyet⟩

theorem State.Queues.counter {s t : State} (h : s.Queues t) (k : Nat) : t.counter k = s.counter k := by
  rw [h.1]
  rfl

theorem State.send_queues (s : State) {f : OutFrame} (h : f.vc = .control) : s.Queues (s.send f) := by
  unfold State.send
  split
  · exact .refl s
  · rw [h]
    exact ⟨rfl, List.prefix_append _ _⟩

theorem State.foldl_send_queues {α : Type} {g : State → α → OutFrame} (h : ∀ s a, (g s a).vc = .control) (l : List α)
    (s : State) : s.Queues (l.foldl (fun s a => s.send (g s a)) s) := by
  induction l generalizing s with
  | nil => exact .refl s
  | cons a l ih => exact (s.send_queues (h s a)).trans (ih _)

theorem State.toPeers_queues (s : State) (i : Fin 64) (k : Nat) (typ : Byte) (epoch t : Nat) (payload : List Byte) :
    s.Queues (s.toPeers i k typ epoch t payload) := by
  unfold State.toPeers
  split
  · exact s.send_queues rfl
  · exact State.foldl_send_queues (fun _ _ => rfl) _ s

/-! ## A SUSPECT entry -/

theorem listModify_some {α : Type} {l : List α} {n : Nat} {x : α} (f : α → α) (h : l[n]? = some x) :
    listModify l n f = l.set n (f x) := by
  simp only [listModify, h]

section
variable {s : State} {n : Nat} {w : Watch} (h : s.watch[n]? = some w)
include h

/-- A witness round sets the round of its entry and asks. -/
theorem State.startRound_queues (start : Nat) :
    ∃ r : Option Round, State.Queues { s with watch := s.watch.set n { w with round := r } } (s.startRound n start) := by
  simp only [State.startRound, h, listModify_some _ h]
  exact ⟨_, State.foldl_send_queues (fun _ _ => rfl) _ _⟩

theorem State.suspect_queues : ∃ r : Option Round,
    State.Queues { s.count 0xC0 with watch := s.watch.set n { w with status := .suspect, round := r } } (s.suspect n) := by
  have hsuspect : (State.count { s with watch := s.watch.set n { w with status := .suspect } } 0xC0).watch[n]? =
      some { w with status := .suspect } :=
    List.getElem?_set_self (List.getElem?_eq_some_iff.1 h).1
  obtain ⟨r, hround⟩ := State.startRound_queues hsuspect 0
  refine ⟨r, ?_⟩
  simp only [State.suspect, listModify_some _ h]
  have hset := List.set_set { w with status := .suspect } (b := { w with status := .suspect, round := r })
    (l := s.watch) (i := n)
  rw [← hset]
  exact hround

end

end Sys2Proof.Machine

/-! # Suspicion

The deadlines of a watch entry and the fabric manager's report (R238 to R240, R247). -/

namespace Sys2Proof.Machine

/-! ## The deadlines -/

theorem exec_suspicionDeadline (n : Nat) (s : State) : exec (.suspicionDeadline n) s = execSuspicionDeadline n s := rfl

theorem exec_discWaitExpiry (n : Nat) (s : State) : exec (.discWaitExpiry n) s = execDiscWaitExpiry n s := rfl

theorem exec_confirmWaitExpiry (n : Nat) (s : State) : exec (.confirmWaitExpiry n) s = execConfirmWaitExpiry n s := rfl

section
variable {s : State} {n : Nat}

theorem exec_suspicionDeadline_none (h : s.watch[n]? = none) : exec (.suspicionDeadline n) s = .next s := by
  simp only [exec_suspicionDeadline, execSuspicionDeadline, h]

theorem exec_discWaitExpiry_none (h : s.watch[n]? = none) : exec (.discWaitExpiry n) s = .next s := by
  simp only [exec_discWaitExpiry, execDiscWaitExpiry, h]

theorem exec_confirmWaitExpiry_none (h : s.watch[n]? = none) : exec (.confirmWaitExpiry n) s = .next s := by
  simp only [exec_confirmWaitExpiry, execConfirmWaitExpiry, h]

variable {w : Watch} (h : s.watch[n]? = some w)
include h

theorem exec_suspicionDeadline_due (hstatus : w.status = .present) (hbeats : s.beats w.tidx = true) :
    exec (.suspicionDeadline n) s = .next ((s.reach w.time (3500 * s.cfg.glob.hbPeriod)).suspect n) := by
  simp [exec_suspicionDeadline, execSuspicionDeadline, h, hstatus, hbeats]

theorem exec_suspicionDeadline_idle (hidle : w.status ≠ .present ∨ s.beats w.tidx = false) :
    exec (.suspicionDeadline n) s = .next s := by
  rw [exec_suspicionDeadline, execSuspicionDeadline, h]
  exact if_pos (by simpa using hidle)

theorem exec_discWaitExpiry_due (hstatus : w.status = .unseen) (hbeats : s.beats w.tidx = true) :
    exec (.discWaitExpiry n) s = .next ((s.reach w.made (1000000 * s.cfg.glob.discWait)).suspect n) := by
  simp [exec_discWaitExpiry, execDiscWaitExpiry, h, hstatus, hbeats]

theorem exec_discWaitExpiry_idle (hidle : w.status ≠ .unseen ∨ s.beats w.tidx = false) :
    exec (.discWaitExpiry n) s = .next s := by
  rw [exec_discWaitExpiry, execDiscWaitExpiry, h]
  exact congrArg _ (if_neg (by simpa [imp_iff_not_or] using hidle))

theorem exec_confirmWaitExpiry_idle (hidle : w.status ≠ .suspect ∨ s.beats w.tidx = false) :
    exec (.confirmWaitExpiry n) s = .next s := by
  rw [exec_confirmWaitExpiry, execConfirmWaitExpiry, h]
  exact if_pos (by simpa using hidle)

section
variable (hstatus : w.status = .suspect) (hbeats : s.beats w.tidx = true)
include hstatus hbeats

theorem exec_confirmWaitExpiry_begins (hround : w.round = none) :
    exec (.confirmWaitExpiry n) s = .next (s.startRound n 0) := by
  simp [exec_confirmWaitExpiry, execConfirmWaitExpiry, h, hstatus, hbeats, hround]

/-- A round at the end of CONFIRM_WAIT. -/
theorem exec_confirmWaitExpiry_round {r : Round} (hround : w.round = some r) {t : State}
    (ht : t = s.reach r.since (1000 * s.cfg.glob.confirmWait)) : exec (.confirmWaitExpiry n) s =
      .next (if r.missing = [] then t.startRound n r.next else (t.confirm n 0xC1 1).follow w.tidx) := by
  subst ht
  simp [exec_confirmWaitExpiry, execConfirmWaitExpiry, h, hstatus, hbeats, hround]

end

end

/-! ## The fabric manager's report -/

/-- Whether a fabric manager's report is taken: it comes from system software and names a watched peer. -/
def State.takesManagerReport (s : State) (a : Acc) (addr : Addr) (chip : Bool) : Prop :=
  s.windowOpen 0x2040 = true ∧ fromSystem a = true ∧ ∃ w ∈ s.watch, w.named addr chip = true

section
variable {s : State} {a : Acc} {addr : Addr} {chip : Bool} (now : BitVec 64) (hports : s.portsUp = true)
include hports

theorem exec_fabricManagerReport_refused (h : ¬ s.takesManagerReport a addr chip) :
    exec (.fabricManagerReport a addr chip now) s = .next (s.refuse a.id 0x2040) := by
  have hrefused : (!s.windowOpen 0x2040 || !fromSystem a || !s.watch.any (·.named addr chip)) = true := by
    simpa [State.takesManagerReport, imp_iff_not_or, or_assoc] using h
  exact (if_neg (by simp [hports])).trans (if_pos hrefused)

theorem exec_fabricManagerReport_taken (h : s.takesManagerReport a addr chip) :
    exec (.fabricManagerReport a addr chip now) s =
      .next ((List.range s.watch.length).foldl (fun s j => s.reportAt addr chip j)
        ((State.at_ { s with regs := { s.regs with fmAddr := addr, fmChip := chip } } now).ok a.id)) := by
  obtain ⟨hopen, hsystem, hnamed⟩ := h
  have htaken : ¬ (!s.windowOpen 0x2040 || !fromSystem a || !s.watch.any (·.named addr chip)) = true := by
    simpa [hopen, hsystem] using hnamed
  refine (if_neg (by simp [hports])).trans ((if_neg htaken).trans ?_)
  simp only [State.ok_watch, State.at_watch]

end

section
variable {s : State} {addr : Addr} {chip : Bool} {j : Nat} {w : Watch} (h : s.watch[j]? = some w)
include h

theorem State.reportAt_stays
    (hstays : w.named addr chip = false ∨ w.status = .confirmed ∨ w.status = .lost ∨ w.status = .replacing) :
    s.reportAt addr chip j = s := by
  simp only [State.reportAt, h]
  by_cases hnamed : w.named addr chip = true
  · rcases hstays with hother | hst | hst | hst
    · exact absurd (hnamed.symm.trans hother) (by simp)
    all_goals simp [hnamed, hst]
  · simp [hnamed]

variable (hnamed : w.named addr chip = true)
include hnamed

/-- At an entry that is not final, a heartbeat accepted within the last HB_PERIOD turns the report away unless the peer is
SUSPECT. -/
theorem State.reportAt_named (hstatus : w.status = .present ∨ w.status = .unseen ∨ w.status = .suspect) :
    s.reportAt addr chip j =
      if w.status ≠ .suspect ∧ w.heard = true ∧ (s.time.now - w.beat).toNat ≤ 1000 * s.cfg.glob.hbPeriod then
        s.raiseT w.tidx 0xC4 w.addr.toNat
      else (s.confirm j 0xC2 2).follow w.tidx := by
  simp only [State.reportAt, h]
  rcases hstatus with hst | hst | hst <;> simp [hnamed, hst]

theorem State.reportAt_beating (hstatus : w.status = .present ∨ w.status = .unseen) (hheard : w.heard = true)
    (hbeat : (s.time.now - w.beat).toNat ≤ 1000 * s.cfg.glob.hbPeriod) :
    s.reportAt addr chip j = s.raiseT w.tidx 0xC4 w.addr.toNat := by
  rw [State.reportAt_named h hnamed (hstatus.imp_right .inl)]
  exact if_pos ⟨by rcases hstatus with hst | hst <;> simp [hst], hheard, hbeat⟩

theorem State.reportAt_suspect (hstatus : w.status = .suspect) :
    s.reportAt addr chip j = (s.confirm j 0xC2 2).follow w.tidx := by
  rw [State.reportAt_named h hnamed (.inr (.inr hstatus))]
  exact if_neg fun hbeating => hbeating.1 hstatus

theorem State.reportAt_silent (hstatus : w.status = .present ∨ w.status = .unseen)
    (hsilent : w.heard = false ∨ 1000 * s.cfg.glob.hbPeriod < (s.time.now - w.beat).toNat) :
    s.reportAt addr chip j = (s.confirm j 0xC2 2).follow w.tidx := by
  rw [State.reportAt_named h hnamed (hstatus.imp_right .inl)]
  refine if_neg ?_
  rintro ⟨-, hheard, hbeat⟩
  exact hsilent.elim (fun hnever => by simp [hheard] at hnever) (Nat.not_lt.2 hbeat)

end

/-! ## The statement -/

/-- Settles O25: each deadline by the status of its entry, a SUSPECT entry by what its round queues, a report by whether it
is taken and by the entry it meets. -/
theorem suspicionRowsComplete : Obligations.SuspicionRowsComplete := by
  refine ⟨fun s n w h => ⟨exec_suspicionDeadline_due h, exec_suspicionDeadline_idle h, exec_discWaitExpiry_due h,
      exec_discWaitExpiry_idle h, exec_confirmWaitExpiry_idle h, fun hstatus hbeats =>
        ⟨exec_confirmWaitExpiry_begins h hstatus hbeats, fun r hround => ?_⟩⟩,
    fun s n h => ⟨exec_suspicionDeadline_none h, exec_discWaitExpiry_none h, exec_confirmWaitExpiry_none h⟩,
    fun s n w h => ?_, fun s a addr chip now hports =>
      ⟨exec_fabricManagerReport_refused now hports, exec_fabricManagerReport_taken now hports⟩,
    fun s addr chip j w h => ⟨State.reportAt_stays h, State.reportAt_beating h, State.reportAt_suspect h,
      State.reportAt_silent h⟩⟩
  · rw [exec_confirmWaitExpiry_round h hstatus hbeats hround rfl]
    exact ⟨fun hsilent => congrArg _ (if_pos hsilent), fun hmissing => congrArg _ (if_neg hmissing)⟩
  · obtain ⟨r, hqueues⟩ := State.suspect_queues h
    have ⟨hframe, hmore⟩ := hqueues
    refine ⟨r, congrArg State.watch hframe, (hqueues.counter 0xC0).trans (s.count_counter_self 0xC0), ?_, hmore⟩
    rw [hframe]
    rfl

end Sys2Proof.Machine

/-! # Fences and membership queries

A fence, and the SYNC, WITNESS, ANSWER and REPORT queries at their receiver (R66, R75, R234 to R236, R239, R241, R245). -/

namespace Sys2Proof.Machine

/-! ## FENCE -/

theorem exec_fence {s : State} {f : Rx} {i : Fin 64} (hgood : frameGood s f 0x21 i) (hzero : tField f 57 7 = 0)
    (hlen : f.len = 0) (hepoch : f.epoch = 0) : exec (.fence f) s = .next (
      if ((s.at_ f.time).ten i).fox.gen.toNat < tField f 0 32 then (s.at_ f.time).querySync i else s.at_ f.time) :=
  congrArg _ (State.receive_good _ hgood (beq_iff_eq.2 hzero) (beq_iff_eq.2 hlen) (beq_iff_eq.2 hepoch) rfl)

/-! ## SYNC -/

/-- A SYNC query that passes the checks of R75 it is judged by: any generation, and a LOST source too (R236). -/
def State.syncGood (s : State) (f : Rx) (i : Fin 64) : Prop :=
  s.portsUp = true ∧ (s.at_ f.time).takesFrame f = true ∧ f.eiErr = false ∧ f.crc = frameCrc f ∧ f.ver = 3 ∧ f.typ = 0x70 ∧
    f.mark = false ∧ f.elided = false ∧ f.rsv1 = false ∧ f.rsv2 = 0 ∧ f.len = 8 ∧ f.payload.length = 8 ∧
    queryOk f 1 [0] = true ∧ (s.at_ f.time).tenantOf f.tenant = some i

/-- Check 2 knows a SYNC query by the field that spares a LOST source. -/
theorem tField_of_queryOk_sync {f : Rx} {causes : List Nat} (h : queryOk f 1 causes = true) : tField f 0 12 = 0x103 := by
  simp only [queryOk, Bool.and_eq_true, beq_iff_eq] at h
  obtain ⟨⟨⟨hfield, -⟩, -⟩, -⟩ := h
  exact hfield

theorem State.receive_sync {s : State} {f : Rx} {i : Fin 64} (k : State → Fin 64 → State) (h : s.syncGood f i) :
    s.receive f { typ := 0x70, ok2 := queryOk f 1 [0], ok3 := f.len == 8, skipGen := true } k = k (s.at_ f.time) i := by
  obtain ⟨hports, htakes, herr, hcrc, hver, htyp, hmark, helided, hrsv1, hrsv2, hlen, hbytes, hok, htenant⟩ := h
  have hspared : (f.typ == 0x70 && tField f 0 12 == 0x103) = true := by
    simp [htyp, tField_of_queryOk_sync hok]
  have hfirst : (f.eiErr || decide (f.crc ≠ frameCrc f)) = false := by simp [herr, hcrc]
  have hsecond : (decide (f.ver ≠ 3) || decide (f.typ ≠ 0x70) || f.mark != (f.typ == 0x03) ||
      (f.elided && f.typ != 0x01) || f.rsv1 || decide (f.rsv2 ≠ 0) || !queryOk f 1 [0]) = false := by
    simp [hver, htyp, hmark, helided, hrsv1, hrsv2, hok]
  have hthird : (decide (f.len.toNat ≠ f.payload.length) || !(f.len == 8)) = false := by simp [hlen, hbytes]
  simp only [State.receive, hports, htakes, hfirst, hsecond, hthird, htenant, hspared]
  simp

/-- What a receiver does with a SYNC query. -/
def State.answerSync (s : State) (i : Fin 64) (asker : Addr) (gen : Gen) : State :=
  if gen < (s.ten i).fox.gen then
    if updatesAfter (s.ten i).fox.log gen = [] then (s.raiseT i 0xCC asker.toNat).report i asker 0 5
    else (updatesAfter (s.ten i).fox.log gen).foldl (fun s u => s.sendOnce (s.updateFrame i u (.member asker))) s
  else s.syncUp i asker gen

theorem exec_membershipQuerySync {s : State} {f : Rx} {i : Fin 64} (h : s.syncGood f i) :
    exec (.membershipQuerySync f) s = .next ((s.at_ f.time).answerSync i (querySubject f) f.gen) := by
  refine congrArg _ ((State.receive_sync _ h).trans ?_)
  simp only [List.isEmpty_iff]
  rfl

/-! ## WITNESS -/

/-- The newest heartbeat number among watch entries, the first of equals. -/
def freshest (ws : List Watch) : Option (BitVec 32) :=
  ws.foldl (fun b w => match b with
    | some x => if hseqNewer w.hseq x then some w.hseq else b
    | none => some w.hseq) none

/-- The entries of a tenant that have heard a peer. -/
def State.heardOf (s : State) (i : Fin 64) (a : Addr) : List Watch := s.watch.filter fun w => w.of i a && w.heard

/-- Whether a tenant holds a peer PRESENT. -/
def State.holdsPresent (s : State) (i : Fin 64) (a : Addr) : Bool := s.watch.any fun w => w.of i a && w.status == .present

/-- Whether a witness that has heard `best` of a peer knows it alive beyond the number its asker names. -/
def knownAlive (best : Option (BitVec 32)) (present : Bool) (asked : BitVec 32) : Bool :=
  match best with
  | some x => decide (asked = 0xFFFFFFFF) || hseqNewer x asked
  | none => present && decide (asked = 0xFFFFFFFF)

/-- A witness's answer. -/
def State.answerWitness (s : State) (i : Fin 64) (f : Rx) (cause hseq : Nat) : State :=
  s.sendReply (s.ctrlTo i f.src 0x70 0 0 (queryFrame 3 cause 0 (querySubject f) hseq).1
    (queryFrame 3 cause 0 (querySubject f) hseq).2)

/-- CAUSE of a witness's answer: ALIVE or MISSING. -/
def aliveCause (alive : Bool) : Nat := if alive then 1 else 2

theorem aliveCause_cases (alive : Bool) : aliveCause alive = 1 ∨ aliveCause alive = 2 := by cases alive <;> simp [aliveCause]

/-- What a witness does with a question. -/
def State.takeWitness (s : State) (i : Fin 64) (f : Rx) : State :=
  let best := freshest (s.heardOf i (querySubject f))
  s.answerWitness i f (aliveCause (knownAlive best (s.holdsPresent i (querySubject f)) (queryHseq f)))
    (match best with | some x => x.toNat | none => 0)

theorem exec_membershipQueryWitness {s : State} {f : Rx} {i : Fin 64} (hgood : frameGood s f 0x70 i)
    (hok : queryOk f 2 [0] = true) (hlen : f.len = 8) :
    exec (.membershipQueryWitness f) s = .next ((s.at_ f.time).takeWitness i f) :=
  congrArg _ (State.receive_good _ hgood hok (beq_iff_eq.2 hlen) rfl rfl)

section
variable {s : State} {i : Fin 64} {f : Rx}

section
variable (hheard : s.heardOf i (querySubject f) = [])
include hheard

theorem State.takeWitness_unheard : s.takeWitness i f = s.answerWitness i f
    (aliveCause (s.holdsPresent i (querySubject f) && decide (queryHseq f = 0xFFFFFFFF))) 0 := by
  rw [State.takeWitness, hheard]
  rfl

theorem State.takeWitness_missing (h : s.holdsPresent i (querySubject f) = false ∨ queryHseq f ≠ 0xFFFFFFFF) :
    s.takeWitness i f = s.answerWitness i f 2 0 := by
  rw [State.takeWitness_unheard hheard, (Bool.and_eq_false_iff.2 (h.imp_right decide_eq_false))]
  rfl

theorem State.takeWitness_present (hpresent : s.holdsPresent i (querySubject f) = true)
    (hasked : queryHseq f = 0xFFFFFFFF) : s.takeWitness i f = s.answerWitness i f 1 0 := by
  rw [State.takeWitness_unheard hheard, hpresent, decide_eq_true hasked]
  rfl

end

section
variable {w : Watch} (hheard : s.heardOf i (querySubject f) = [w])
include hheard

theorem State.takeWitness_heard : s.takeWitness i f = s.answerWitness i f
    (aliveCause (decide (queryHseq f = 0xFFFFFFFF) || hseqNewer w.hseq (queryHseq f))) w.hseq.toNat := by
  rw [State.takeWitness, hheard]
  rfl

theorem State.takeWitness_newer (h : queryHseq f = 0xFFFFFFFF ∨ hseqNewer w.hseq (queryHseq f) = true) :
    s.takeWitness i f = s.answerWitness i f 1 w.hseq.toNat := by
  rw [State.takeWitness_heard hheard, Bool.or_eq_true_iff.2 (h.imp_left decide_eq_true)]
  rfl

theorem State.takeWitness_older (hasked : queryHseq f ≠ 0xFFFFFFFF)
    (hold : hseqNewer w.hseq (queryHseq f) = false) : s.takeWitness i f = s.answerWitness i f 2 w.hseq.toNat := by
  rw [State.takeWitness_heard hheard, decide_eq_false hasked, hold]
  rfl

end

theorem State.holdsPresent_iff {a : Addr} :
    s.holdsPresent i a = true ↔ ∃ w ∈ s.watch, w.of i a = true ∧ w.status = .present := by
  simp [State.holdsPresent]

end

/-! ## ANSWER -/

theorem exec_membershipQueryAnswer {s : State} {f : Rx} {i : Fin 64} (hgood : frameGood s f 0x70 i)
    (hok : queryOk f 3 [1, 2] = true) (hlen : f.len = 8) : exec (.membershipQueryAnswer f) s =
      .next ((List.range (s.at_ f.time).watch.length).foldl (fun s j => s.answerAt i f j) (s.at_ f.time)) :=
  congrArg _ (State.receive_good _ hgood hok (beq_iff_eq.2 hlen) rfl rfl)

/-- Whether an answer counts at a watch entry: the entry is the suspect's, and its round asked the sender. -/
def Watch.asksOf (w : Watch) (i : Fin 64) (f : Rx) (r : Round) : Prop :=
  w.of i (querySubject f) = true ∧ w.status = .suspect ∧ f.src ∈ r.asked

section
variable {s : State} {i : Fin 64} {f : Rx} {j : Nat} {w : Watch} (h : s.watch[j]? = some w)
include h

theorem State.answerAt_uncounted
    (hnot : w.round = none ∨ w.of i (querySubject f) = false ∨ w.status ≠ .suspect ∨
      ∀ r : Round, w.round = some r → f.src ∉ r.asked) : s.answerAt i f j = s := by
  simp only [State.answerAt, h]
  cases hround : w.round with
  | none => rfl
  | some r =>
    refine if_pos ?_
    simpa [hround, or_assoc] using hnot

variable {r : Round} (hround : w.round = some r) (hasks : w.asksOf i f r)
include hround hasks

theorem State.answerAt_counted : s.answerAt i f j =
    if tField f 12 4 = 1 then
      (State.raiseT { s with watch := listModify s.watch j fun w => { w with
        status := .present, hseq := queryHseq f, heard := true, beat := s.time.now, time := s.time.now, round := none } }
        i 0xC3 (querySubject f).toNat).tryForms i
    else
      let t : State := { s with watch := listModify s.watch j fun w =>
        { w with round := some { r with missing := addOnce f.src r.missing } } }
      if r.asked.all fun a => (addOnce f.src r.missing).contains a then (t.confirm j 0xC1 1).follow i else t := by
  obtain ⟨hof, hstatus, hasked⟩ := hasks
  simp only [State.answerAt, h, hround]
  exact if_neg (by simp [hof, hstatus, hasked])

end

/-- Every witness asked is missing once this one's MISSING is counted. -/
theorem all_addOnce_iff (a : Addr) (asked missing : List Addr) :
    (asked.all fun b => (addOnce a missing).contains b) = true ↔ ∀ b ∈ asked, b = a ∨ b ∈ missing := by
  by_cases ha : a ∈ missing
  · have hmem (b : Addr) : b ∈ missing ↔ b = a ∨ b ∈ missing :=
      ⟨.inr, fun h => h.elim (fun h => h ▸ ha) id⟩
    simp [addOnce, ha, ← hmem]
  · simp [addOnce, ha, or_comm]

/-! ## REPORT -/

/-- The report a frame carries. -/
def reportOf (f : Rx) (now : BitVec 64) : Report :=
  { subject := querySubject f, since := now, imask := BitVec.ofNat 12 (tField f 16 12), cause := BitVec.ofNat 4 (tField f 12 4) }

theorem exec_membershipQueryReport {s : State} {f : Rx} {i : Fin 64} (hgood : frameGood s f 0x70 i)
    (hok : queryOk f 4 [1, 2, 3, 4, 5] = true) (hlen : f.len = 8) : exec (.membershipQueryReport f) s = .next (
      if (s.at_ f.time).leads i = true then (s.at_ f.time).takeReport i (reportOf f (s.at_ f.time).time.now)
      else s.at_ f.time) :=
  congrArg _ (State.receive_good _ hgood hok (beq_iff_eq.2 hlen) rfl rfl)

theorem FoxS.fresh_isEmpty_iff (f : FoxS) (r : Report) :
    (f.fresh r).isEmpty = true ↔ ∀ a ∈ maskAddrs r.subject r.imask, f.isLost a = true := by
  simp [FoxS.fresh]

theorem FoxS.queues_iff (f : FoxS) (r : Report) : (f.queue.any fun q => q.key == r.key) = true ↔
    ∃ q ∈ f.queue, q.subject = r.subject ∧ q.imask = r.imask ∧ q.cause = r.cause := by
  simp [Report.key]

section
variable {s : State} {i : Fin 64} {r : Report}

theorem State.takeReport_lost (h : ∀ a ∈ maskAddrs r.subject r.imask, (s.ten i).fox.isLost a = true) :
    s.takeReport i r = if r.cause = 3 then s.raiseT i 0xCB r.subject.toNat else s := by
  rw [State.takeReport, if_pos ((FoxS.fresh_isEmpty_iff _ r).2 h)]

variable (hfresh : ∃ a ∈ maskAddrs r.subject r.imask, (s.ten i).fox.isLost a = false)
include hfresh

theorem State.takeReport_fresh : s.takeReport i r =
    if (s.ten i).fox.queue.any fun q => q.key == r.key then s
    else s.updFox i fun f => { f with queue := f.queue ++ [{ r with held := false }] } := by
  obtain ⟨a, ha, hfree⟩ := hfresh
  refine if_neg fun hempty => ?_
  exact absurd ((FoxS.fresh_isEmpty_iff _ r).1 hempty a ha) (by simp [hfree])

theorem State.takeReport_queued
    (h : ∃ q ∈ (s.ten i).fox.queue, q.subject = r.subject ∧ q.imask = r.imask ∧ q.cause = r.cause) :
    s.takeReport i r = s := by
  rw [State.takeReport_fresh hfresh, if_pos ((FoxS.queues_iff _ r).2 h)]

theorem State.takeReport_new
    (h : ∀ q ∈ (s.ten i).fox.queue, ¬ (q.subject = r.subject ∧ q.imask = r.imask ∧ q.cause = r.cause)) :
    s.takeReport i r = s.updFox i fun f => { f with queue := f.queue ++ [{ r with held := false }] } := by
  rw [State.takeReport_fresh hfresh, if_neg]
  rw [FoxS.queues_iff]
  rintro ⟨q, hq, hkey⟩
  exact h q hq hkey

end

/-! ## The statement -/

/-- Settles O24: a fence by its generation, a SYNC query by its generation and the log, a question by what its witness has
heard, an answer at each entry by its round, a report by the leader's record. -/
theorem queryRowsComplete : Obligations.QueryRowsComplete := by
  refine ⟨fun s f i hgood hzero hlen hepoch => ?_,
    fun s f i hports htakes herr hcrc hver htyp hmark helided hrsv1 hrsv2 hlen hbytes hok htenant => ?_,
    fun s f i hgood hok hlen => ?_, fun s f i hgood hok hlen => ?_,
    fun s f i j w h => ⟨fun r hround hof hstatus hasked => ?_, State.answerAt_uncounted h⟩, fun s f i hgood hok hlen => ?_⟩
  · rw [exec_fence hgood hzero hlen hepoch]
    exact ⟨fun hnew => congrArg _ (if_pos hnew), fun hold => congrArg _ (if_neg (Nat.not_lt.2 hold))⟩
  · have hgood : s.syncGood f i :=
      ⟨hports, htakes, herr, hcrc, hver, htyp, hmark, helided, hrsv1, hrsv2, hlen, hbytes, hok, htenant⟩
    simp only [exec_membershipQuerySync hgood, ← s.at_ten f.time i]
    refine ⟨fun hold hnone => congrArg _ ?_, fun hold hsome => congrArg _ ?_, fun hnot => congrArg _ (if_neg hnot)⟩
    · rw [State.answerSync, if_pos hold, if_pos hnone]
    · rw [State.answerSync, if_pos hold, if_neg hsome]
  · simp only [exec_membershipQueryWitness hgood hok hlen, ← s.at_watch f.time, ← State.holdsPresent_iff]
    generalize s.at_ f.time = s1
    refine ⟨⟨_, _, aliveCause_cases _, rfl⟩, fun hheard h => congrArg _ ?_,
      fun hheard hpresent hasked => congrArg _ (State.takeWitness_present hheard hpresent hasked),
      fun w hheard => ⟨fun h => congrArg _ (State.takeWitness_newer hheard h),
        fun hasked hold => congrArg _ (State.takeWitness_older hheard hasked hold)⟩⟩
    exact State.takeWitness_missing hheard (h.imp_left (Bool.eq_false_of_not_eq_true ·))
  · rw [exec_membershipQueryAnswer hgood hok hlen, State.at_watch]
  · have hcounted := State.answerAt_counted h hround ⟨hof, hstatus, hasked⟩
    refine ⟨fun halive => hcounted.trans (if_pos halive), fun hmissing => ?_⟩
    rw [if_neg hmissing] at hcounted
    refine ⟨fun hall => hcounted.trans (if_pos ((all_addOnce_iff _ _ _).2 hall)), ?_⟩
    rintro ⟨a, ha, hother, hsilent⟩
    refine hcounted.trans (if_neg fun hall => ?_)
    exact ((all_addOnce_iff _ _ _).1 hall a ha).elim hother hsilent
  · simp only [exec_membershipQueryReport hgood hok hlen, ← s.at_ten f.time]
    generalize s.at_ f.time = s1
    refine ⟨fun hfollows => congrArg _ (if_neg (by simp [hfollows])),
      fun hleads hfresh => ⟨fun hqueued => ?_, fun hnew => ?_⟩, fun hleads hlost => ?_⟩
    · rw [if_pos hleads]
      exact congrArg _ (State.takeReport_queued hfresh hqueued)
    · refine ⟨_, congrArg _ ((if_pos hleads).trans (State.takeReport_new hfresh hnew)), rfl, ?_, fun j hj => ?_⟩
      · rw [State.updFox, State.updTen_self]
        rfl
      · exact State.updTen_other s1 i j _ hj
    · rw [if_pos hleads, State.takeReport_lost (r := reportOf f s1.time.now) hlost]
      exact ⟨fun hevict => congrArg _ (if_pos hevict), fun hother => congrArg _ (if_neg hother)⟩

end Sys2Proof.Machine

/-! # Discovery

DISCOVER_SEND, and the judgement of a DISCOVER and its reply at a slot (R103, R104, R246 to R248, R255). -/

namespace Sys2Proof.Machine

/-! ## DISCOVER_SEND -/

theorem exec_discoverSend (slot : Fin 16) (s : State) : exec (.discoverSend slot) s = execDiscoverSend slot s := rfl

section
variable {s : State} {slot : Fin 16}

theorem exec_discoverSend_sends {i : Fin 64} (hten : s.slotTenant slot.val = some i)
    (hkind : (s.slot slot.val).kind = .sett) (hst : (s.slot slot.val).st = .forming)
    (hmissing : s.discovered i slot.val = false) : exec (.discoverSend slot) s =
      .next (s.toPeers i slot.val 0x70 0 (s.discoverFrame slot.val 1).1 (s.discoverFrame slot.val 1).2) := by
  simp [exec_discoverSend, execDiscoverSend, hten, hkind, hst, hmissing]

theorem exec_discoverSend_idle
    (h : s.slotTenant slot.val = none ∨ (s.slot slot.val).kind ≠ .sett ∨ (s.slot slot.val).st ≠ .forming ∨
      ∀ i : Fin 64, s.slotTenant slot.val = some i → s.discovered i slot.val = true) :
    exec (.discoverSend slot) s = .next s := by
  rw [exec_discoverSend, execDiscoverSend]
  cases hten : s.slotTenant slot.val with
  | none => rfl
  | some i =>
    refine if_pos ?_
    simpa [hten] using h

end

/-! ## A DISCOVER judged -/

@[simp] theorem State.at_settSlots (s : State) (t : BitVec 64) (i : Fin 64) : (s.at_ t).settSlots i = s.settSlots i :=
  State.settSlots_congr (by rw [State.at_ten]) (s.at_slots t)

/-- The slot of the sett a DISCOVER names. -/
def State.discoverSlot (s : State) (i : Fin 64) (f : Rx) : Option Nat :=
  (s.settSlots i).find? fun k => (s.slot k).sett.settId.toNat == tField f 8 24

/-- Whether a DISCOVER carries the fingerprint of a slot's sett, and the place, feed and plane of a row. -/
def State.fitsRow (s : State) (k : Nat) (f : Rx) (x : Row) : Prop :=
  leField f.payload 0 8 = fingerprint (s.slot k).sett ∧ leField f.payload 8 8 = x.place.toNat ∧
    leField f.payload 16 2 = x.feed.toNat ∧ leField f.payload 18 1 = x.plane.toNat

/-- Whether a watch entry waits for a source at a slot: it is UNSEEN, SUSPECT or REPLACING there. -/
def Watch.waitsFor (w : Watch) (i : Fin 64) (a : Addr) (k : Nat) : Bool :=
  w.of i a && !w.cand && w.slot == k && (w.status == .unseen || w.status == .suspect || w.status == .replacing)

/-- A source found at a slot: the entries that wait for it are PRESENT, and a DISCOVER is answered. -/
def State.foundBy (s : State) (i : Fin 64) (k : Nat) (f : Rx) (reply : Bool) : State :=
  let t := s.mapWatch (fun w => w.waitsFor i f.src k) fun w =>
    { w with status := .present, time := s.time.now, round := none }
  ((if reply then t else t.sendReply (t.ctrlTo i f.src 0x70 0 0 (t.discoverFrame k 2).1 (t.discoverFrame k 2).2)).tryForm
    i k).follow i

/-- What a receiver does with a DISCOVER from the rank of a row. -/
def State.judgeRow (s : State) (i : Fin 64) (k : Nat) (f : Rx) (reply : Bool) (x : Row) : State :=
  if !(leField f.payload 0 8 == fingerprint (s.slot k).sett && leField f.payload 8 8 == x.place.toNat &&
    leField f.payload 16 2 == x.feed.toNat && leField f.payload 18 1 == x.plane.toNat) then s.wrongIdentity i f.src
  else s.foundBy i k f reply

/-- The rank of a row that takes the placement a discovery brings (R255). -/
def State.placeRank (s : State) (k own : Nat) (x : Row) : State :=
  s.updSlot k fun y => { y with sett := { y.sett with rows := y.sett.rows.set own x } }

/-- What a receiver does with a DISCOVER from a rank that its source holds. -/
def State.judgeRank (s : State) (i : Fin 64) (k : Nat) (f : Rx) (reply : Bool) (own : Nat) : State :=
  if (s.slot k).rankSt own = .replacing then
    match placedRow (s.slot k).sett.rows own f with
    | none => s.wrongIdentity i f.src
    | some x => (s.placeRank k own x).judgeRow i k f reply x
  else
    match (s.slot k).sett.rows[own]? with
    | none => s.wrongIdentity i f.src
    | some x => s.judgeRow i k f reply x

section
variable {s : State} {i : Fin 64} {f : Rx} {k : Nat} {reply : Bool} {x : Row}

theorem State.judgeRow_fits (h : s.fitsRow k f x) : s.judgeRow i k f reply x = s.foundBy i k f reply := by
  obtain ⟨hprint, hplace, hfeed, hplane⟩ := h
  exact if_neg (by simp only [hprint, hplace, hfeed, hplane, beq_self_eq_true, Bool.and_self, Bool.not_true,
    Bool.false_eq_true, not_false_eq_true])

theorem State.judgeRow_strange (h : ¬ s.fitsRow k f x) : s.judgeRow i k f reply x = s.wrongIdentity i f.src := by
  refine if_pos ?_
  rw [Bool.not_eq_true', ← Bool.not_eq_true]
  simpa only [State.fitsRow, Bool.and_eq_true, beq_iff_eq, and_assoc] using h

theorem State.judgeDiscover_noSlot (h : s.discoverSlot i f = none) : s.judgeDiscover i f reply = s := by
  rw [State.discoverSlot] at h
  simp only [State.judgeDiscover, h]

variable (hslot : s.discoverSlot i f = some k)
include hslot

theorem State.judgeDiscover_stranger (h : (s.slot k).rankOf f.src = none) : s.judgeDiscover i f reply =
    State.raiseT { s with regs := { s.regs with extraAddr := f.src, extraCount := s.regs.extraCount + 1 } } i 0xC8
      f.src.toNat := by
  rw [State.discoverSlot] at hslot
  simp only [State.judgeDiscover, hslot, h]

variable {own : Nat} (hrank : (s.slot k).rankOf f.src = some own)
include hrank

theorem State.judgeDiscover_otherRank (h : own ≠ tField f 32 6) :
    s.judgeDiscover i f reply = s.wrongIdentity i f.src := by
  rw [State.discoverSlot] at hslot
  simp only [State.judgeDiscover, hslot, hrank, if_pos h]

variable (hown : own = tField f 32 6)
include hown

/-- The rank that sends is judged by its row: the one it is given where it is REPLACING, else its own. -/
theorem State.judgeDiscover_ownRank : s.judgeDiscover i f reply = s.judgeRank i k f reply own := by
  rw [State.discoverSlot] at hslot
  subst hown
  simp only [State.judgeDiscover, hslot, hrank, ne_eq, not_true_eq_false, if_false, State.judgeRank]
  by_cases hst : (s.slot k).rankSt (tField f 32 6) = .replacing
  · simp only [beq_iff_eq.2 hst, if_pos hst, if_true]
    rfl
  · simp only [beq_eq_false_iff_ne.2 hst, if_neg hst, Bool.false_eq_true, if_false]
    rfl

theorem State.judgeDiscover_known (hst : (s.slot k).rankSt own ≠ .replacing)
    (hrow : (s.slot k).sett.rows[own]? = some x) : s.judgeDiscover i f reply = s.judgeRow i k f reply x := by
  rw [State.judgeDiscover_ownRank hslot hrank hown, State.judgeRank, if_neg hst]
  simp only [hrow]

theorem State.judgeDiscover_unplaced (hst : (s.slot k).rankSt own = .replacing)
    (hrow : placedRow (s.slot k).sett.rows own f = none) : s.judgeDiscover i f reply = s.wrongIdentity i f.src := by
  rw [State.judgeDiscover_ownRank hslot hrank hown, State.judgeRank, if_pos hst]
  simp only [hrow]

theorem State.judgeDiscover_placed (hst : (s.slot k).rankSt own = .replacing)
    (hrow : placedRow (s.slot k).sett.rows own f = some x) :
    s.judgeDiscover i f reply = (s.placeRank k own x).judgeRow i k f reply x := by
  rw [State.judgeDiscover_ownRank hslot hrank hown, State.judgeRank, if_pos hst]
  simp only [hrow]

end

/-- A DISCOVER and a DISCOVER_REPLY go to one judgement. -/
theorem exec_discoverRow {s : State} {f : Rx} {i : Fin 64} {reply : Bool} (hgood : frameGood s f 0x70 i)
    (hlen : f.len = 32) (hepoch : f.epoch = 0) (hok : discoverOk f (if reply then 2 else 1) = true) :
    exec (if reply then .discoverReply f else .discover f) s = .next ((s.at_ f.time).judgeDiscover i f reply) := by
  cases reply <;> exact congrArg _ (State.receive_good _ hgood hok (beq_iff_eq.2 hlen) (beq_iff_eq.2 hepoch) rfl)

/-! ## The statement -/

/-- Settles O26: DISCOVER_SEND by its slot, a DISCOVER and its reply by the slot, the rank and the row they meet. -/
theorem discoveryRowsComplete : Obligations.DiscoveryRowsComplete := by
  refine ⟨fun s slot => ⟨fun i hten hkind hst hmissing => ?_, exec_discoverSend_idle⟩,
    fun s f i reply hgood hlen hepoch hok => ?_⟩
  · exact ⟨_, exec_discoverSend_sends hten hkind hst hmissing, rfl, s.toPeers_queues i slot.val 0x70 0 _ _⟩
  · simp only [exec_discoverRow hgood hlen hepoch hok, ← s.at_slot f.time, ← s.at_settSlots f.time, ← s.at_regs f.time]
    generalize s.at_ f.time = s1
    refine ⟨fun hnone => congrArg _ (State.judgeDiscover_noSlot (Option.eq_none_iff_forall_ne_some.2 hnone)),
      fun k hslot => ⟨fun hstranger => congrArg _ (State.judgeDiscover_stranger hslot hstranger), fun own hrank =>
        ⟨fun hother => congrArg _ (State.judgeDiscover_otherRank hslot hrank hother), fun x hown hst hrow => ?_,
          fun hown hst hrow => congrArg _ (State.judgeDiscover_unplaced hslot hrank hown hst hrow),
          fun x hown hst hrow => ?_⟩⟩⟩
    · rw [State.judgeDiscover_known hslot hrank hown hst hrow]
      exact ⟨fun hfits => congrArg _ (State.judgeRow_fits hfits),
        fun hstrange => congrArg _ (State.judgeRow_strange hstrange)⟩
    · rw [State.judgeDiscover_placed hslot hrank hown hst hrow]
      exact ⟨fun hfits => congrArg _ (State.judgeRow_fits hfits),
        fun hstrange => congrArg _ (State.judgeRow_strange hstrange)⟩

end Sys2Proof.Machine

/-! # Rails, the reset and the test access

What the rows of the rails, of the memory-and-links reset and of the test access leave (R333, R366 to R378), and what reset
itself leaves of the registers. -/

namespace Sys2Proof.Machine

/-! ## The state right after reset -/

theorem State.reset_ten (i : Fin 64) : State.reset.ten i = TenantS.reset := by
  simp [State.reset, State.ten, Vector.get_eq_getElem]

theorem State.reset_monitor (m : Fin 15) : State.reset.monitors.get m = {} := by
  simp [State.reset, Vector.get_eq_getElem]

/-- Settles O3: each register by its reset value, the tenants and the monitors each by the one value all of them hold. -/
theorem resetLeavesManualValues : Obligations.ResetLeavesManualValues := by
  refine ⟨rfl, rfl, rfl, rfl, rfl, rfl, rfl, rfl, rfl, fun m => ?_, fun i => ?_⟩
  · rw [State.reset_monitor]
  · rw [State.reset_ten]
    exact ⟨rfl, rfl, rfl, rfl, rfl⟩

/-! ## What a loss of state leaves of the stack -/

theorem State.rising_of_memWf {s : State} (h : s.memWf = true) : NMap.rising s.mem = true := by
  simp only [State.memWf, Bool.and_eq_true] at h
  exact Mem.wf_rising h.1.1

section
variable {s : State} {x : Nat} (hmem : s.memWf = true)
include hmem

/-- Beside the directory of the span in force the stack stays. -/
theorem State.read_clearDirectory_outside (h : ¬ (s.dirBase ≤ x ∧ x < s.dirBase + s.dirLen)) :
    Mem.read s.clearDirectory x = Mem.read s.mem x := by
  rw [State.clearDirectory, Mem.read_zero _ _ _ (State.rising_of_memWf hmem), if_neg h]

theorem State.read_clearDirectory_inside (hlo : s.dirBase ≤ x) (hhi : x < s.dirBase + s.dirLen) :
    Mem.read s.clearDirectory x = 0 := by
  rw [State.clearDirectory, Mem.read_zero _ _ _ (State.rising_of_memWf hmem), if_pos ⟨hlo, hhi⟩]

end

/-! ## The assertion of the reset -/

theorem exec_mlResetAssert_low {s : State} (h : s.power.released = false) : exec .mlResetAssert s = .next s :=
  congrArg _ (if_neg (by simp [h]))

theorem exec_mlResetAssert_released {s : State} (h : s.power.released = true) :
    exec .mlResetAssert s = .next s.domainReset := congrArg _ (if_pos h)

/-- Settles O4: the domain reset is what it keeps over the reset state, and its stack has the directory cleared. -/
theorem memoryAndLinksResetKeepsHistory : Obligations.MemoryAndLinksResetKeepsHistory := fun _ =>
  ⟨exec_mlResetAssert_low, fun hreleased hmem => ⟨_, exec_mlResetAssert_released hreleased, rfl,
    fun _ => State.read_clearDirectory_outside hmem, fun _ => State.read_clearDirectory_inside hmem⟩⟩

/-! ## Rails, test access and ramp -/

section
variable {s : State}

theorem exec_railRestore_low (h : s.power.released = false) :
    exec .railRestore s = .next { s with power := { s.power with rails := true } } := congrArg _ (if_neg (by simp [h]))

theorem exec_railRestore_released (h : s.power.released = true) : exec .railRestore s = .next s := congrArg _ (if_pos h)

theorem exec_testAccessOpen_released (h : s.power.released = true) : exec .testAccessOpen s = .next s := if_pos h

theorem exec_testAccessOpen_low (h : s.power.released = false) : exec .testAccessOpen s =
    .next { s.lost with power := { s.lost.power with testEn := true, testOpen := true } } := if_neg (by simp [h])

theorem exec_testEnIgnored_released (h : s.power.released = true) : exec .testEnIgnored s =
    .next (State.raise { s with power := { s.power with testEn := true } } { code := 0x1B, core := true }) :=
  if_neg (by simp [h])

theorem exec_testEnIgnored_low (h : s.power.released = false) : exec .testEnIgnored s = .next s := if_pos (by simp [h])

theorem exec_activityRampAdmit_idle (h : s.power.ramp = false) : exec .activityRampAdmit s = .next s :=
  if_pos (by simp [h])

theorem exec_activityRampAdmit_admits (h : s.power.ramp = true) : exec .activityRampAdmit s =
    .next { s with power := { s.power with
      rampGroups := min 4 (s.power.rampGroups + 1), rampGf := min 2 (s.power.rampGf + 1)
      ramp := decide (s.power.rampGroups + 1 < 4) } } := by
  have hlast : min 4 (s.power.rampGroups + 1) < 4 ↔ s.power.rampGroups + 1 < 4 := by omega
  simp only [← hlast]
  exact if_neg (by simp [h])

end

/-- Settles O5: a loss of state by what it leaves, each other row by the state of the reset or of the ramp. -/
theorem railAndTestRowsComplete : Obligations.RailAndTestRowsComplete :=
  ⟨fun _ _ hmem => ⟨_, rfl, rfl, fun _ => State.read_clearDirectory_outside hmem,
      fun _ => State.read_clearDirectory_inside hmem⟩,
    fun _ => exec_railRestore_low, fun _ h => ⟨exec_railRestore_released h, exec_testAccessOpen_released h⟩,
    fun _ hlow hmem => ⟨_, exec_testAccessOpen_low hlow, rfl, fun _ => State.read_clearDirectory_outside hmem,
      fun _ => State.read_clearDirectory_inside hmem⟩,
    fun _ => exec_testEnIgnored_released, fun _ => exec_testEnIgnored_low, fun _ => rfl,
    fun _ => exec_activityRampAdmit_idle, fun _ => exec_activityRampAdmit_admits⟩

/-! ## The release of the reset -/

/-- The straps sampled and the isolation cells opened at the release. -/
def State.strapped (s : State) (owner : BitVec 384) (flash : Bool) (inst : BitVec 4) (testEn : Bool) : State :=
  { s with power := { s.power with
      released := true, releasedAt := s.time.now, isolated := false, testEn := testEn
      testOpen := s.power.testOpen && testEn, owner := owner, flash := flash, inst := inst, xspiOwn := flash } }

/-- The owner strap is no digest: all zeros or all ones (R345). -/
def strapBad (owner : BitVec 384) : Bool := decide (owner = 0 ∨ owner = ~~~(0 : BitVec 384))

/-- SFDP discovery found the flash: its signature and both tables (R345). -/
def sfdpFound (x : Sfdp) : Bool := x.signature && x.basicTable && x.xspiTable

/-- The loader started with what SFDP discovery found, a bad owner strap marked with event 0x2F. -/
def State.loaderStarted (s : State) (bad ok : Bool) (mhz : Byte) (density : BitVec 32) : State :=
  let t := s.updLoader fun l => { l with
    ownerBad := bad, state := .loading, sfdpOk := ok, mhz := mhz, density := density }
  if bad then t.raise { code := 0x2F } else t

section
variable {s : State} {owner : BitVec 384} {flash : Bool} {inst : BitVec 4} {testEn : Bool} {sfdp : Sfdp}

theorem exec_mlResetRelease_stays (h : s.power.released = true ∨ s.power.rails = false) :
    exec (.mlResetRelease owner flash inst testEn sfdp) s = .next s := by
  refine if_pos ?_
  rcases h with h | h <;> simp [h]

variable (hlow : s.power.released = false) (hrails : s.power.rails = true)
include hlow hrails

theorem exec_mlResetRelease_test (hopen : s.power.testOpen = true ∧ testEn = true) :
    exec (.mlResetRelease owner flash inst testEn sfdp) s = .next (s.strapped owner flash inst testEn) := by
  obtain ⟨hopen, rfl⟩ := hopen
  refine (if_neg (by simp [hlow, hrails])).trans (if_pos ?_)
  simp [hopen]

theorem exec_mlResetRelease_starts (hshut : s.power.testOpen = false ∨ testEn = false) :
    exec (.mlResetRelease owner flash inst testEn sfdp) s =
      let t := (s.strapped owner flash inst testEn).loaderStarted (strapBad owner) (flash && sfdpFound sfdp)
        (if flash ∧ sfdpFound sfdp then BitVec.ofNat 8 (min 200 sfdp.maxMHz) else 0)
        (if flash ∧ sfdp.basicTable then BitVec.ofNat 32 (sfdp.density / 65536) else 0)
      .next (if flash && !sfdpFound sfdp then (t.raise { code := 0x20 }).unconfigured else t) := by
  have htest : (s.strapped owner flash inst testEn).power.testOpen = false := by
    rcases hshut with h | h <;> simp [State.strapped, h]
  refine (if_neg (by simp [hlow, hrails])).trans ((if_neg (by rw [← State.strapped, htest]; simp)).trans ?_)
  simp only [strapBad, Bool.decide_or]
  rfl

end

/-- Settles O6: by the state of the reset, the test access, and what the flash answers. -/
theorem resetReleaseSamplesStraps : Obligations.ResetReleaseSamplesStraps := by
  refine fun s owner flash inst testEn sfdp => ⟨exec_mlResetRelease_stays, fun hlow hrails =>
    ⟨exec_mlResetRelease_test hlow hrails, fun hshut => ⟨fun hflash => ?_, fun hflash hfound => ?_,
      fun hflash hfound => ?_⟩⟩⟩
  all_goals rw [exec_mlResetRelease_starts hlow hrails hshut]
  all_goals subst hflash
  · rfl
  · have hsfdp : sfdpFound sfdp = true := by simp [sfdpFound, hfound]
    simp only [hsfdp]
    rfl
  · have hsfdp : sfdpFound sfdp = false := by
      rw [Bool.eq_false_iff]
      simpa [sfdpFound, and_assoc] using hfound
    simp only [hsfdp]
    rfl

end Sys2Proof.Machine

/-! # An event recorded

An event that no open handling covers and that is to be logged alone (R319, R321): what recording it writes, part by
part. -/

namespace Sys2Proof.Machine

/-! ## The history -/

theorem State.pushHistory_room {s : State} {h : HistEntry} (hroom : s.flt.history.length < 32) :
    s.pushHistory h = s.updFlt fun f => { f with history := f.history ++ [h], seq := h.seq } := by
  refine if_neg ?_
  simp [Config.historySize]
  omega

theorem State.pushHistory_full {s : State} {h : HistEntry} (hfull : s.flt.history.length = 32) :
    s.pushHistory h = (s.updFlt fun f => { f with
      history := f.history.drop 1 ++ [h], seq := h.seq, lost := f.lost + 1 }).count 0x18 := by
  have hlong : Config.historySize < (s.flt.history ++ [h]).length := by
    simp [Config.historySize]
    omega
  refine (if_pos hlong).trans ?_
  simp only [State.updFlt, List.drop_append_of_le_length (show 1 ≤ s.flt.history.length by omega)]

/-! ## The event -/

/-- An event that is to be logged alone. -/
def State.logsAlone (s : State) (e : Ev) : Prop := s.levelFor e = 1 ∧ e.ru = none ∧ e.core = false

/-- The event counted, its source's summary bit set and its code noted as seen. -/
def State.tallied (s : State) (e : Ev) : State :=
  (s.count e.code).updFlt fun f => { f with summary := f.summary ||| (1 <<< e.source), seen := addOnce e.code f.seen }

/-- The history entry of an event logged alone, under the next number. -/
def State.entryFor (s : State) (e : Ev) : HistEntry :=
  { time := s.time.now, seq := s.flt.seq + 1, code := BitVec.ofNat 8 e.code, source := BitVec.ofNat 4 e.source
    level := 1, tenant := e.tenant, link := 0, mcount := 0, unit := BitVec.ofNat 8 e.unit, merged := false
    detail := BitVec.ofNat 64 e.detail }

/-- Logged alone, an event leads to nothing but its record. -/
theorem State.raise_logged {s : State} {e : Ev} (h : s.logsAlone e) :
    s.raise e = if e.code ∈ s.flt.seen then s.tallied e else (s.tallied e).pushHistory (s.entryFor e) := by
  obtain ⟨hlevel, hunit, hcore⟩ := h
  have hcounter : e.counter = e.code := by simp [Ev.counter, hcore]
  by_cases hseen : e.code ∈ s.flt.seen
  · simp [State.raise, State.enter, hlevel, hunit, hcore, hcounter, hseen, State.tallied]
  · simp [State.raise, State.enter, hlevel, hunit, hcore, hcounter, hseen, State.tallied, State.entryFor]
    rfl

section
variable (s : State) (e : Ev)

theorem State.tallied_counter_self : (s.tallied e).counter e.code = s.counter e.code + 1 := s.count_counter_self e.code

theorem State.tallied_counter_other {k : Nat} (h : k ≠ e.code) : (s.tallied e).counter k = s.counter k :=
  s.count_counter_other h

end

/-- Settles O59: by whether the code was seen since the bit was cleared, and whether the history has room. -/
theorem eventIsRecorded : Obligations.EventIsRecorded := by
  intro s e hlevel hunit hcore hcode hhist
  have hcode' : 0x18 ≠ e.code := Ne.symm hcode
  have hself := s.tallied_counter_self e
  have hother := fun (k : Nat) (h : k ≠ e.code) => s.tallied_counter_other e h
  refine ⟨_, rfl, ?_⟩
  rw [State.raise_logged ⟨hlevel, hunit, hcore⟩]
  by_cases hseen : e.code ∈ s.flt.seen
  · rw [if_pos hseen]
    exact ⟨rfl, hself, fun k hk _ => hother k hk, rfl, rfl, rfl, rfl, fun _ => ⟨rfl, rfl, hother _ hcode'⟩,
      fun h => absurd hseen h, fun h => absurd hseen h⟩
  · rw [if_neg hseen]
    by_cases hroom : s.flt.history.length < 32
    · rw [State.pushHistory_room (s := s.tallied e) hroom]
      exact ⟨rfl, hself, fun k hk _ => hother k hk, rfl, rfl, rfl, rfl, fun h => absurd h hseen,
        fun _ _ => ⟨rfl, rfl, hother _ hcode'⟩, fun _ h => absurd hroom (by omega)⟩
    · have hfull : s.flt.history.length = 32 := by
        have hbound := of_decide_eq_true hhist
        simp only [Config.historySize] at hbound
        omega
      rw [State.pushHistory_full (s := s.tallied e) hfull]
      refine ⟨rfl, (State.count_counter_other _ hcode).trans hself,
        fun k hk hk18 => (State.count_counter_other _ hk18).trans (hother k hk), rfl, rfl, rfl, rfl,
        fun h => absurd h hseen, fun _ h => absurd hfull (by omega), fun _ _ => ⟨rfl, ?_⟩⟩
      exact (State.count_counter_self _ _).trans (congrArg (· + 1) (hother _ hcode'))

end Sys2Proof.Machine

/-! # The image at reset

The rows of the copies at an instance that has applied none: the copy read, the answers over the lath, silence and the
lath's timeout (R347, R348). -/

namespace Sys2Proof.Machine

/-! ## A copy judged -/

/-- What the object's checks answer of a copy read from the flash (R343). -/
def State.copyResult (s : State) (o : ObjRead) : Nat :=
  s.objectResult o 1 (min (2 ^ 24) (if s.loader.density = 0 then 2 ^ 24 else s.loader.density.toNat * 32768))

section
variable {s : State} {o : ObjRead}

theorem State.judgeCopy_fails (h : s.copyResult o ≠ 0) : s.judgeCopy o = (s.raise {
    code := resultEvent (s.copyResult o)
    detail := if s.copyResult o = 0x0C then o.addr.toNat + bit s.loader.reading 32 else 0 }).nextCopy (s.copyResult o) :=
  if_pos h

theorem State.judgeCopy_contentFault (h : s.copyResult o = 0) {code detail : Nat}
    (hfault : s.contentFault o true = some (code, detail)) :
    s.judgeCopy o = (s.raise { code := code, detail := detail }).nextCopy 0x07 := by
  refine (if_neg (not_not_intro h)).trans ?_
  simp only [hfault]

theorem State.judgeCopy_candidate (h : s.copyResult o = 0) (hgood : s.contentFault o true = none) :
    s.judgeCopy o = State.concludeCopy { s with
      loader := { s.loader with candidate := some o, answers := [], silent := [], distAt := s.time.now }
      lath := { s.lath with sent := s.lath.sent ++ [.distribute o] } } := by
  refine (if_neg (not_not_intro h)).trans ?_
  simp only [hgood]
  rfl

/-- A flash attached at a released instance that loads and has no candidate yet: it judges the copies read. -/
def State.judgesCopies (s : State) : Prop :=
  s.power.released = true ∧ s.power.flash = true ∧ s.loader.state = .loading ∧ s.loader.candidate = none ∧
    s.loader.applied = false

theorem exec_flashCopyLoaded_judges (h : s.judgesCopies) : exec (.flashCopyLoaded o) s = .next (s.judgeCopy o) := by
  obtain ⟨hreleased, hflash, hstate, hcand, happlied⟩ := h
  exact congrArg _ (if_pos (by simp [hreleased, hflash, hstate, hcand, happlied]))

theorem exec_flashCopyLoaded_idle (h : s.power.released = false ∨ s.power.flash = false ∨ s.loader.state ≠ .loading ∨
    s.loader.candidate ≠ none ∨ s.loader.applied = true) : exec (.flashCopyLoaded o) s = .next s := by
  refine congrArg _ (if_neg ?_)
  rcases h with h | h | h | h | h <;> simp [h]

end

/-- Copy A given up, copy B is read. -/
theorem State.nextCopy_second {s : State} (r : Nat) (hfed : s.loader.fed = false) (hfirst : s.loader.reading = false) :
    s.nextCopy r = { s with loader := { s.loader with
      candidate := none, answers := [], silent := [], result := BitVec.ofNat 8 r, reading := true } } :=
  if_neg (by simp [hfed, hfirst])

/-! ## Answers and silence -/

/-- A candidate is out over the lath: the answers of the other instances count. -/
def State.awaitsAnswers (s : State) : Prop :=
  s.loader.candidate ≠ none ∧ s.loader.applied = false ∧ s.power.flash = true

section
variable {s : State} {k : BitVec 4} {accept : Bool}

theorem State.awaitsAnswers_guard (h : s.awaitsAnswers) :
    (s.loader.candidate.isNone || s.loader.applied || !s.power.flash) = false := by
  obtain ⟨hcand, happlied, hflash⟩ := h
  simp [Option.isSome_iff_ne_none.2 hcand, happlied, hflash]

theorem exec_distributionAnswer_taken (h : s.awaitsAnswers) : exec (.distributionAnswer k accept) s =
    .next (State.concludeCopy { s with loader := { s.loader with
      answers := s.loader.answers.filter (fun p => p.1 != k) ++ [(k, accept)] } }) :=
  congrArg _ (if_neg (by simp [State.awaitsAnswers_guard h]))

theorem exec_distributionTimeout_silent (h : s.awaitsAnswers) (hnone : ∀ p ∈ s.loader.answers, p.1 ≠ k) :
    exec (.distributionTimeout k) s =
      .next ((State.raise ((s.reach s.loader.distAt 100000000).updLoader fun l => { l with silent := addOnce k l.silent })
        { code := 0x2A, unit := k.toNat }).concludeCopy) := by
  refine congrArg _ (if_neg ?_)
  have hany : (s.loader.answers.any fun p => p.1 == k) = false := by
    simpa only [List.any_eq_false, beq_iff_eq] using hnone
  simp [State.awaitsAnswers_guard h, hany]

theorem exec_distributionTimeout_answered (h : ∃ p ∈ s.loader.answers, p.1 = k) :
    exec (.distributionTimeout k) s = .next s := by
  obtain ⟨p, hp, hpk⟩ := h
  have hany : (s.loader.answers.any fun p => p.1 == k) = true := List.any_eq_true.2 ⟨p, hp, beq_iff_eq.2 hpk⟩
  exact congrArg _ (if_pos (by simp [hany]))

theorem exec_distribution_idle (h : s.loader.candidate = none ∨ s.loader.applied = true ∨ s.power.flash = false) :
    exec (.distributionAnswer k accept) s = .next s ∧ exec (.distributionTimeout k) s = .next s := by
  constructor <;> refine congrArg _ (if_pos ?_)
  all_goals rcases h with h | h | h <;> simp [h]

end

/-! ## The lath's timeout -/

theorem exec_lathConfigTimeout_unconfigured {s : State} (hreleased : s.power.released = true)
    (hflash : s.power.flash = false) (hstate : s.loader.state = .loading) (hcand : s.loader.candidate = none) :
    exec .lathConfigTimeout s = .next (s.reach s.power.releasedAt 2000000000).unconfigured :=
  congrArg _ (if_pos (by simp [hreleased, hflash, hstate, hcand]))

theorem exec_lathConfigTimeout_idle {s : State} (h : s.power.released = false ∨ s.power.flash = true ∨
    s.loader.state ≠ .loading ∨ s.loader.candidate ≠ none) : exec .lathConfigTimeout s = .next s := by
  refine congrArg _ (if_neg ?_)
  rcases h with h | h | h | h <;> simp [h]

/-- Settles O8: a copy by its checks, an answer and a silence by what is awaited, the timeout by what has come. -/
theorem imageRowsComplete : Obligations.ImageRowsComplete := by
  refine ⟨fun s o => ⟨fun h => ?_, exec_flashCopyLoaded_idle⟩, fun s r => State.nextCopy_second r, fun s k accept =>
    ⟨fun hcand happlied hflash => ?_, exec_distribution_idle⟩, fun s =>
      ⟨fun hreleased hflash hstate hcand => ?_, exec_lathConfigTimeout_idle⟩⟩
  · rw [exec_flashCopyLoaded_judges h]
    exact ⟨fun hr => congrArg _ (State.judgeCopy_fails hr),
      fun hr _ _ hfault => congrArg _ (State.judgeCopy_contentFault hr hfault),
      fun hr hgood => congrArg _ (State.judgeCopy_candidate hr hgood)⟩
  · have hawaits : s.awaitsAnswers := ⟨hcand, happlied, hflash⟩
    exact ⟨exec_distributionAnswer_taken hawaits, exec_distributionTimeout_silent hawaits,
      exec_distributionTimeout_answered⟩
  · refine ⟨_, exec_lathConfigTimeout_unconfigured hreleased hflash hstate hcand, ?_⟩
    rw [s.reach_frame]
    rfl

end Sys2Proof.Machine

/-! # Objects brought in by software

The feed at an unconfigured chip manager and the bundle in service (R349, R357, R359, R360). -/

namespace Sys2Proof.Machine

/-! ## The feed -/

/-- The feed is open to an access: from system software, at an unconfigured chip manager out of an instance reset. -/
def State.feedOpen (s : State) (a : Acc) : Prop :=
  fromSystem a = true ∧ s.configured = false ∧ s.flt.mode ≠ .resetting ∧ s.power.flash = true

/-- A command of the loader answered with OK, the loader as it leaves it. -/
def State.cfAnswered (s : State) (a : Acc) (l : LoaderS) : State :=
  { s with loader := l
           gate := { s.gate with ns := s.gate.ns ++ [{ id := a.id, status := .ok, cause := 0, data := 0 : NsResp }] } }

/-- The object fed: the bytes of its length, with its trailer behind them (R343). -/
def LoaderS.fedObject (l : LoaderS) (x : Content) : ObjRead :=
  { readOk := true
    bytes := if l.feed.length < leField l.feed 8 4 + 264 then l.feed.take (leField l.feed 8 4) else l.feed
    trailer := slice l.feed (leField l.feed 8 4) 256, content := x }

section
variable {s : State} {a : Acc} {w : Word} {x : Content}

theorem State.feed_guard (h : s.feedOpen a) :
    (!fromSystem a || s.configured || s.flt.mode == .resetting || !s.power.flash) = false := by
  obtain ⟨hsys, hconf, hmode, hflash⟩ := h
  simp [hsys, hconf, hmode, hflash]

theorem State.feed_guard_shut (h : ¬ s.feedOpen a) :
    (!fromSystem a || s.configured || s.flt.mode == .resetting || !s.power.flash) = true := by
  by_contra hguard
  simp only [Bool.or_eq_true, Bool.not_eq_true', beq_iff_eq, not_or, Bool.not_eq_false, Bool.not_eq_true] at hguard
  obtain ⟨⟨⟨hsys, hconf⟩, hmode⟩, hflash⟩ := hguard
  exact h ⟨hsys, hconf, hmode, hflash⟩

variable (hp : s.portsUp = true)
include hp

theorem exec_feed_shut (h : ¬ s.feedOpen a) : exec (.cfFeed a w) s = .next (s.refuse a.id 0x7020) ∧
    exec (.feedEnd a x) s = .next (s.refuse a.id 0x7008) ∧ exec (.feedBegin a) s = .next (s.refuse a.id 0x7008) := by
  have hguard := State.feed_guard_shut h
  have hport : ¬ (!s.portsUp) = true := by simp [hp]
  exact ⟨(if_neg hport).trans (if_pos hguard), (if_neg hport).trans (if_pos hguard),
    (if_neg hport).trans (if_pos (by simp [hguard]))⟩

theorem exec_feedBegin_loading (hstate : s.loader.state = .loading) :
    exec (.feedBegin a) s = .next (s.refuse a.id 0x7008) :=
  (if_neg (by simp [hp])).trans (if_pos (by simp [hstate]))

variable (h : s.feedOpen a)
include h

theorem exec_feedBegin_begins (hstate : s.loader.state ≠ .loading) : exec (.feedBegin a) s =
    .next (s.cfAnswered a { s.loader with op := 5, state := .feeding, feed := [], fed := true, result := 0 }) :=
  (if_neg (by simp [hp])).trans (if_neg (by simp [State.feed_guard h, hstate]))

theorem exec_feed_notFeeding (hstate : s.loader.state ≠ .feeding) :
    exec (.cfFeed a w) s = .next (s.cfAnswered a { s.loader with result := 0x0B }) ∧
      exec (.feedEnd a x) s = .next (s.cfAnswered a { s.loader with op := 6, result := 0x0B }) := by
  have hport : ¬ (!s.portsUp) = true := by simp [hp]
  have hopen := Bool.eq_false_iff.1 (State.feed_guard h)
  exact ⟨(if_neg hport).trans ((if_neg hopen).trans (if_pos hstate)),
    (if_neg hport).trans ((if_neg hopen).trans (if_pos hstate))⟩

variable (hstate : s.loader.state = .feeding)
include hstate

theorem exec_cfFeed_feeding : exec (.cfFeed a w) s =
    .next (let t := s.cfAnswered a { s.loader with feed := s.loader.feed ++ leBytes 8 w.toNat }
      if 2 ^ 24 + 256 < t.loader.feed.length then t.failFeed 0x02 else t) :=
  (if_neg (by simp [hp])).trans ((if_neg (Bool.eq_false_iff.1 (State.feed_guard h))).trans (if_neg (by simp [hstate])))

theorem exec_feedEnd_judges : exec (.feedEnd a x) s =
    .next ((s.cfAnswered a { s.loader with op := 6, state := .loading }).judgeCopy (s.loader.fedObject x)) :=
  (if_neg (by simp [hp])).trans ((if_neg (Bool.eq_false_iff.1 (State.feed_guard h))).trans (if_neg (by simp [hstate])))

end

/-! ## Bundles -/

theorem exec_bundle_shut {s : State} {a : Acc} {readOk : Bool} {x : Content} (hp : s.portsUp = true)
    (h : s.windowOpen 0x7008 = false ∨ fromSystem a = false) :
    exec (.cfStage a readOk x) s = .next (s.refuse a.id 0x7008) ∧ exec (.cfArm a) s = .next (s.refuse a.id 0x7008) ∧
      exec (.cfDisarm a) s = .next (s.refuse a.id 0x7008) ∧ exec (.cfDiscard a) s = .next (s.refuse a.id 0x7008) := by
  have hport : ¬ (!s.portsUp) = true := by simp [hp]
  have hguard : (!fromSystem a || !s.windowOpen 0x7008) = true := by rcases h with h | h <;> simp [h]
  exact ⟨(if_neg hport).trans (if_pos (by simp [hguard])), (if_neg hport).trans (if_pos hguard),
    (if_neg hport).trans (if_pos hguard), (if_neg hport).trans (if_pos hguard)⟩

/-- The bundle that MNL_CF_SRC names, read once (R357). -/
def State.bundleRead (s : State) (readOk : Bool) (x : Content) : ObjRead :=
  { readOk := readOk, bytes := s.bytesAt s.loader.src.toNat s.loader.len.toNat
    trailer := s.bytesAt (s.loader.src.toNat + s.loader.len.toNat) 256, content := x }

section
variable {s : State} {a : Acc} {readOk : Bool} {x : Content} (h : windowTakes s a 0x7008)
include h

theorem exec_cfStage_outOfRange (hrange : s.rangeOk 6 s.loader.src.toNat (s.loader.len.toNat + 256) = false) :
    exec (.cfStage a readOk x) s = .next (s.refuse a.id 0x7008) := by
  obtain ⟨hp, hopen, hsys⟩ := h
  exact (if_neg (by simp [hp])).trans (if_pos (by simp [hrange]))

theorem exec_cfStage_outOfPlace (hrange : s.rangeOk 6 s.loader.src.toNat (s.loader.len.toNat + 256) = true)
    (hplace : s.loader.shadowState = .armed ∨ s.loader.takenBy ≠ none) :
    exec (.cfStage a readOk x) s = .next (s.cfAnswered a { s.loader with op := 1, result := 0x0B }) := by
  obtain ⟨hp, hopen, hsys⟩ := h
  refine (if_neg (by simp [hp])).trans ((if_neg (by simp [hsys, hopen, hrange])).trans (if_pos ?_))
  simpa [Option.isSome_iff_ne_none] using hplace

/-- A bundle in range and in place is judged and, where it passes, fills the shadow. -/
theorem exec_cfStage_judges (hrange : s.rangeOk 6 s.loader.src.toNat (s.loader.len.toNat + 256) = true)
    (harmed : s.loader.shadowState ≠ .armed) (htaken : s.loader.takenBy = none) : exec (.cfStage a readOk x) s =
      let o := s.bundleRead readOk x
      let r := s.stageResult o
      let t := s.cfAnswered a { s.loader with op := 1, result := BitVec.ofNat 8 r.1 }
      if r.1 ≠ 0 then .next (t.raise { code := r.2.1, detail := r.2.2 })
      else .next (t.updLoader fun l => { l with
        shadow := some { recordOf o s.power.inst with ninst := s.cfg.ninst, program := s.cfg.program }
        shadowState := .staged, svn := BitVec.ofNat 32 (trailerSvn o.trailer) }) := by
  obtain ⟨hp, hopen, hsys⟩ := h
  exact (if_neg (by simp [hp])).trans ((if_neg (by simp [hsys, hopen, hrange])).trans (if_neg (by simp [harmed, htaken])))

theorem exec_cfArm_staged {r : Record} (hshadow : s.loader.shadow = some r) (hstaged : s.loader.shadowState = .staged) :
    exec (.cfArm a) s =
      if tenantIdxs.any fun i => (s.ten i).rs.state == .armed || (s.ten i).rs.state == .moving || (s.ten i).rs.state == .sealing
      then .next (s.cfAnswered a { s.loader with op := 2, result := 0x0B })
      else .next (s.cfAnswered a { s.loader with
        op := 2, result := 0, shadowState := .armed, affected := s.affectedBy r, armedAt := s.time.now }) := by
  obtain ⟨hp, hopen, hsys⟩ := h
  refine (if_neg (by simp [hp])).trans ((if_neg (by simp [hsys, hopen])).trans ?_)
  split
  case h_1 => obtain rfl := Option.some.inj (hshadow.symm.trans ‹_›); rfl
  case h_2 hnot => exact (hnot r hshadow hstaged).elim

theorem exec_cfArm_outOfPlace (hstaged : s.loader.shadowState ≠ .staged) :
    exec (.cfArm a) s = .next (s.cfAnswered a { s.loader with op := 2, result := 0x0B }) := by
  obtain ⟨hp, hopen, hsys⟩ := h
  refine (if_neg (by simp [hp])).trans ((if_neg (by simp [hsys, hopen])).trans ?_)
  split
  · exact absurd ‹_› hstaged
  · rfl

theorem exec_cfDiscard_outOfPlace (hplace : s.loader.shadowState ≠ .staged) :
    exec (.cfDiscard a) s = .next (s.cfAnswered a { s.loader with op := 4, result := 0x0B }) := by
  obtain ⟨hp, hopen, hsys⟩ := h
  exact (if_neg (by simp [hp])).trans ((if_neg (by simp [hsys, hopen])).trans (if_pos (.inl hplace)))

theorem exec_cfDiscard_empties (hstaged : s.loader.shadowState = .staged) (htaken : s.loader.takenBy = none) :
    exec (.cfDiscard a) s =
      .next (s.cfAnswered a { s.loader with op := 4, result := 0, shadow := none, shadowState := .empty }) := by
  obtain ⟨hp, hopen, hsys⟩ := h
  exact (if_neg (by simp [hp])).trans ((if_neg (by simp [hsys, hopen])).trans (if_neg (by simp [hstaged, htaken])))

theorem exec_cfDisarm_outOfPlace (harmed : s.loader.shadowState ≠ .armed) :
    exec (.cfDisarm a) s = .next (s.cfAnswered a { s.loader with op := 3, result := 0x0B }) := by
  obtain ⟨hp, hopen, hsys⟩ := h
  exact (if_neg (by simp [hp])).trans ((if_neg (by simp [hsys, hopen])).trans (if_pos harmed))

theorem exec_cfDisarm_abandons (harmed : s.loader.shadowState = .armed) : exec (.cfDisarm a) s =
    .next ((State.raise (s.cfAnswered a { s.loader with op := 3, result := 0, shadowState := .staged, affected := [] })
      { code := 0x2D }).unparkTenants) := by
  obtain ⟨hp, hopen, hsys⟩ := h
  exact (if_neg (by simp [hp])).trans ((if_neg (by simp [hsys, hopen])).trans (if_neg (not_not_intro harmed)))

end

/-- A tenant whose reslice is between ARM and its end bars the ARM of a bundle (R359). -/
theorem State.boundary_iff (s : State) : (tenantIdxs.any fun i => (s.ten i).rs.state == .armed ||
    (s.ten i).rs.state == .moving || (s.ten i).rs.state == .sealing) = true ↔
      ∃ i : Fin 64, (s.ten i).rs.state = .armed ∨ (s.ten i).rs.state = .moving ∨ (s.ten i).rs.state = .sealing := by
  simp [tenantIdxs, or_assoc]

/-- Settles O9: the feed by its openness and state, the bundle's commands by the window and the shadow. -/
theorem feedAndBundleRowsComplete : Obligations.FeedAndBundleRowsComplete := by
  refine ⟨fun s a w x hp => ⟨exec_feed_shut hp, fun _ => exec_feedBegin_loading hp, exec_feedBegin_begins hp,
    exec_feed_notFeeding hp, fun h hstate hroom => ?_, fun h hstate hlong => ?_, exec_feedEnd_judges hp⟩,
    fun s a readOk x hp => exec_bundle_shut hp, fun s a readOk x h =>
      ⟨exec_cfStage_outOfRange h, fun hrange => ⟨exec_cfStage_outOfPlace h hrange, fun harmed htaken => ?_⟩,
        fun r hshadow hstaged => ?_, fun hplace => ⟨exec_cfArm_outOfPlace h hplace, exec_cfDiscard_outOfPlace h hplace⟩,
        exec_cfDisarm_abandons h, exec_cfDisarm_outOfPlace h, exec_cfDiscard_empties h⟩⟩
  · rw [exec_cfFeed_feeding hp h hstate]
    refine congrArg _ (if_neg ?_)
    simp only [State.cfAnswered, List.length_append, length_leBytes]
    omega
  · rw [exec_cfFeed_feeding hp h hstate]
    refine congrArg _ (if_pos ?_)
    simp only [State.cfAnswered, List.length_append, length_leBytes]
    omega
  · rw [exec_cfStage_judges h hrange harmed htaken]
    refine ⟨fun hr => if_pos hr, fun hr => (if_neg (not_not_intro hr)).trans ?_⟩
    rw [show (s.stageResult (s.bundleRead readOk x)).1 = 0 from hr]
    rfl
  · rw [exec_cfArm_staged h hshadow hstaged]
    exact ⟨fun hfree => if_neg (mt s.boundary_iff.1 hfree), fun hbars => if_pos (s.boundary_iff.2 hbars)⟩

end Sys2Proof.Machine

/-! # The switch

The two ends of an armed switch: made, where the checks pass again, or abandoned (R359 to R361). -/

namespace Sys2Proof.Machine

/-- Every affected tenant with a sealed epoch is parked. -/
def State.switchParked (s : State) : Prop :=
  ∀ i ∈ s.loader.affected, (s.ten i).sealed = false ∨ (s.ten i).commit.parked = true

theorem State.switchParked_iff (s : State) :
    (s.loader.affected.all fun i => !(s.ten i).sealed || (s.ten i).commit.parked) = true ↔ s.switchParked := by
  simp [State.switchParked]

theorem exec_configSwitch_unarmed {s : State} (h : s.loader.shadowState ≠ .armed) : exec .configSwitch s = .next s := by
  show execConfigSwitch s = .next s
  unfold execConfigSwitch
  split
  · exact absurd ‹_› h
  · rfl

section
variable {s : State} {r : Record} (hshadow : s.loader.shadow = some r) (harmed : s.loader.shadowState = .armed)
include hshadow harmed

theorem exec_configSwitch_armed : exec .configSwitch s =
    if !(s.loader.affected.all fun i => !(s.ten i).sealed || (s.ten i).commit.parked) then .next s
    else if s.switchResult r ≠ 0 then .next (s.abandonSwitch (s.switchResult r))
    else .next (((((s.activate r).updLoader fun l => { l with
      shadow := some s.cfg, shadowState := .staged, affected := [], result := 0 }).raise { code := 0x2C }).unparkTenants)) := by
  show execConfigSwitch s = _
  simp only [execConfigSwitch, hshadow, harmed]

theorem exec_configSwitch_waits (h : ¬ s.switchParked) : exec .configSwitch s = .next s := by
  rw [← s.switchParked_iff] at h
  exact (exec_configSwitch_armed hshadow harmed).trans (if_pos (by simpa using h))

variable (hparked : s.switchParked)
include hparked

theorem exec_configSwitch_switches (h : s.switchResult r = 0) : exec .configSwitch s =
    .next (((((s.activate r).updLoader fun l => { l with
      shadow := some s.cfg, shadowState := .staged, affected := [], result := 0 }).raise { code := 0x2C }).unparkTenants)) := by
  rw [← s.switchParked_iff] at hparked
  exact (exec_configSwitch_armed hshadow harmed).trans
    ((if_neg (by simp [hparked])).trans (if_neg (not_not_intro h)))

theorem exec_configSwitch_abandons (h : s.switchResult r ≠ 0) :
    exec .configSwitch s = .next (s.abandonSwitch (s.switchResult r)) := by
  rw [← s.switchParked_iff] at hparked
  exact (exec_configSwitch_armed hshadow harmed).trans ((if_neg (by simp [hparked])).trans (if_pos h))

end

theorem State.reach_loader (s : State) (since : BitVec 64) (ns : Nat) : (s.reach since ns).loader = s.loader := by
  rw [s.reach_frame]

theorem exec_switchWaitExpiry (s : State) : exec .switchWaitExpiry s = .next (if s.loader.shadowState = .armed then
    (s.reach s.loader.armedAt (s.cfg.glob.switchWait * 1000000)).abandonSwitch 0x0B else s) := rfl

theorem State.abandonSwitch_of_loader {s t : State} (h : t.loader = s.loader) {r : Nat} : t.abandonSwitch r =
    (State.raise { t with loader := { s.loader with
      shadowState := .staged, affected := [], result := BitVec.ofNat 8 r } } { code := 0x2D }).unparkTenants := by
  rw [← h]
  rfl

theorem exec_switchWaitExpiry_armed {s : State} (h : s.loader.shadowState = .armed) : exec .switchWaitExpiry s =
    .next ((State.raise { s.reach s.loader.armedAt (s.cfg.glob.switchWait * 1000000) with loader := { s.loader with
      shadowState := .staged, affected := [], result := 0x0B } } { code := 0x2D }).unparkTenants) := by
  generalize hns : s.cfg.glob.switchWait * 1000000 = ns
  rw [exec_switchWaitExpiry, hns, if_pos h, State.abandonSwitch_of_loader (s.reach_loader _ _)]
  rfl

theorem exec_switchWaitExpiry_unarmed {s : State} (h : s.loader.shadowState ≠ .armed) :
    exec .switchWaitExpiry s = .next s := congrArg _ (if_neg h)

/-- Settles O10: by the shadow, the tenants that are parked, and the checks made again. -/
theorem switchRowsComplete : Obligations.SwitchRowsComplete :=
  ⟨fun _ _ hshadow harmed => ⟨exec_configSwitch_waits hshadow harmed, exec_configSwitch_switches hshadow harmed,
    exec_configSwitch_abandons hshadow harmed⟩, fun _ => exec_switchWaitExpiry_armed,
    fun _ h => ⟨exec_configSwitch_unarmed h, exec_switchWaitExpiry_unarmed h⟩⟩

end Sys2Proof.Machine

/-! # What an event leaves beside the fault logic

An event's reaction (R320 to R325) writes the fault logic and, of the rest, only what a hold, a containment or a unit's
reset takes away. With those parts blanked the state before and after an event is one. -/

namespace Sys2Proof.Machine

/-- The state with every part blanked that an event's reaction may write. -/
def State.apart (s : State) : State :=
  { s with
    flt := {}
    gate := { s.gate with park := [], ns := [] }
    loader := { s.loader with shadowState := .empty, affected := [] }
    ctx := { s.ctx with table := [] }
    tenants := Vector.replicate 64 TenantS.reset
    hawk := { s.hawk with recs := [] }
    badger := { s.badger with runs := [], helps := [], repairs := [] }
    audit := { s.audit with helps := [] } }

@[simp] theorem State.updFlt_apart (s : State) (f : FaultS → FaultS) : (s.updFlt f).apart = s.apart := rfl

@[simp] theorem State.count_apart (s : State) (k : Nat) : (s.count k).apart = s.apart := rfl

@[simp] theorem State.updTen_apart (s : State) (i : Fin 64) (f : TenantS → TenantS) : (s.updTen i f).apart = s.apart := rfl

@[simp] theorem State.withhold_apart (s : State) (i : Fin 64) (reason : Nat) : (s.withhold i reason).apart = s.apart := rfl

theorem State.holdSweep_apart (s : State) (i : Fin 64) (cause : Nat) : (s.holdSweep i cause).apart = s.apart := rfl

@[simp] theorem State.enter_apart (s : State) (e : Ev) : (s.enter e).1.apart = s.apart := by
  have hpush (t : State) (h : HistEntry) : (t.pushHistory h).apart = t.apart := by
    simp [State.pushHistory, apply_ite State.apart]
  simp only [State.enter, apply_ite State.apart, State.updFlt_apart, hpush, ite_self]
  split <;> simp

@[simp] theorem State.raiseHeld_apart (s : State) (e : Ev) : (s.raiseHeld e).apart = s.apart := by
  simp only [State.raiseHeld, apply_ite State.apart, State.updFlt_apart, ite_self, State.enter_apart]

theorem State.releaseParked_apart {raise : State → Ev → State} (hr : ∀ s e, (raise s e).apart = s.apart) (s : State)
    (p : Parked → Bool) (cause : BitVec 4) (code : Nat) : (s.releaseParked p cause raise code).apart = s.apart := by
  unfold State.releaseParked
  refine (State.foldl_keeps (v := State.apart) ?_ _ _).trans rfl
  exact fun s x => hr _ _

theorem State.dropSwitch_apart {raise : State → Ev → State} (hr : ∀ s e, (raise s e).apart = s.apart) (s : State) :
    (s.dropSwitch raise).apart = s.apart := by
  unfold State.dropSwitch
  split
  · rfl
  · exact hr _ _

@[simp] theorem State.hold_apart (s : State) (code : Nat) : (s.hold code).apart = s.apart := by
  unfold State.hold
  split
  · refine (State.releaseParked_apart State.raiseHeld_apart _ _ _ _).trans ?_
    refine (State.dropSwitch_apart State.raiseHeld_apart _).trans ?_
    exact State.foldl_keeps (fun s i => s.holdSweep_apart i code) _ _
  all_goals rfl

@[simp] theorem State.raise0_apart (s : State) (e : Ev) : (s.raise0 e).apart = s.apart := by
  simp only [State.raise0, apply_ite State.apart, State.updFlt_apart, State.hold_apart, State.enter_apart, ite_self]

@[simp] theorem State.contain_apart (s : State) (c : Nat) : (s.contain c).apart = s.apart := by
  have hreleased (t : State) (p : Parked → Bool) : (t.releaseParked p 0x5 State.raise0 0x35).apart = t.apart :=
    State.releaseParked_apart State.raise0_apart _ _ _ _
  unfold State.contain
  split
  · rfl
  · split
    · rfl
    · simp only
      split
      · exact hreleased _ _
      · exact hreleased _ _

@[simp] theorem State.beginUnit_apart (s : State) (u : ResetUnit) (busy : Option (Fin 16)) :
    (s.beginUnit u busy).apart = s.apart := by
  unfold State.beginUnit
  split
  · rfl
  · cases u with
    | gf k =>
      cases busy with
      | none => rfl
      | some k =>
        simp only
        split
        · exact State.raise0_apart _ _
        · exact State.raise0_apart _ _
    | lane k => rfl
    | endpoint => rfl
    | badger => rfl
    | instance_ => rfl

/-- An event at any of its levels: the reset of a unit, the containment of a region, or the hold. -/
@[simp] theorem State.raise_apart (s : State) (e : Ev) (busy : Option (Fin 16)) : (s.raise e busy).apart = s.apart := by
  have hunit : (match e.ru with
      | some u => (s.enter e).1.beginUnit u busy
      | none => (s.enter e).1).apart = s.apart := by
    split <;> simp
  have hregion (t : State) (r : Option Nat) : (match r with | some c => t.contain c | none => t).apart = t.apart := by
    split <;> simp
  simp only [State.raise, apply_ite State.apart, State.updFlt_apart, State.hold_apart, State.enter_apart, ite_self]
  split
  · rfl
  · split
    · exact hunit
    · split
      · exact (hregion _ _).trans hunit
      · exact hunit

@[simp] theorem State.raiseT_apart (s : State) (i : Fin 64) (code detail : Nat) :
    (s.raiseT i code detail).apart = s.apart := State.raise_apart _ _ _

@[simp] theorem State.queueRepairAt_apart (s : State) (a : Nat) : (s.queueRepairAt a).apart = s.apart := by
  unfold State.queueRepairAt
  split
  · unfold State.queueRepair
    split
    · split <;> simp
    · split
      · split <;> simp
      · rfl
  · rfl

@[simp] theorem State.digestFail_apart (s : State) (a : Nat) : (s.digestFail a).apart = s.apart := by
  simp [State.digestFail]

/-- A helper's read leaves the state as it was or reports what failed it. -/
theorem State.helperRead_cases (s : State) (i : Fin 64) (flt : ReadFault) (addrs : List (Nat × Bool)) :
    (s.helperRead i flt addrs).1 = s ∨ (∃ a : Nat, (s.helperRead i flt addrs).1 = s.digestFail a) ∨
      (∃ a : Nat, (s.helperRead i flt addrs).1 = (s.raiseT i 0xF1).digestFail a) ∨
      ∃ a : BitVec 36, (s.helperRead i flt addrs).1 =
        (s.raise { code := 0x39, tenant := s.tagOf i, detail := a.toNat }).queueRepairAt a.toNat := by
  have hquiet : (match addrs.find? fun a => a.2 && !s.digestOk a.1 with
      | some a => (s.digestFail a.1, true)
      | none => (s, false) : State × Bool).1 = s ∨
        ∃ a : Nat, (match addrs.find? fun a => a.2 && !s.digestOk a.1 with
          | some a => (s.digestFail a.1, true)
          | none => (s, false) : State × Bool).1 = s.digestFail a := by
    cases addrs.find? fun a => a.2 && !s.digestOk a.1 with
    | none => exact .inl rfl
    | some a => exact .inr ⟨a.1, rfl⟩
  have hword : (match addrs.head? with
      | some a => ((s.raiseT i 0xF1).digestFail a.1, true)
      | none => (s, true) : State × Bool).1 = s ∨
        ∃ a : Nat, (match addrs.head? with
          | some a => ((s.raiseT i 0xF1).digestFail a.1, true)
          | none => (s, true) : State × Bool).1 = (s.raiseT i 0xF1).digestFail a := by
    cases addrs.head? with
    | none => exact .inl rfl
    | some a => exact .inr ⟨a.1, rfl⟩
  cases flt with
  | stack a => exact .inr (.inr (.inr ⟨a, rfl⟩))
  | digestWord => exact hword.imp_right fun h => .inr (.inl h)
  | none => exact hquiet.imp_right .inl
  | microop => exact hquiet.imp_right .inl
  | working => exact hquiet.imp_right .inl
  | intake c => exact hquiet.imp_right .inl
  | hawk => exact hquiet.imp_right .inl

theorem State.helperRead_apart (s : State) (i : Fin 64) (flt : ReadFault) (addrs : List (Nat × Bool)) :
    (s.helperRead i flt addrs).1.apart = s.apart := by
  rcases s.helperRead_cases i flt addrs with h | ⟨a, h⟩ | ⟨a, h⟩ | ⟨a, h⟩ <;> rw [h] <;> simp

end Sys2Proof.Machine

/-! # The frames of an audit

Requests at a helper, parts, corrections and releases (R309, R310, R312). -/

namespace Sys2Proof.Machine

/-! ## Requests -/

/-- The state with a run a helper holds of the auditor's stripe given up for the new request. -/
def State.heldReplaced (s : State) (i : Fin 64) (k : Nat) (a : Addr) (epoch s0 : Nat) : State :=
  match s.helpFor i k a epoch fun h => h.s0 == s0 with
  | some h => s.closeHelp h
  | none => s

/-- A request a helper cannot serve: its stripes are not the slot's. -/
def State.auditBad (s : State) (k s0 count : Nat) : Prop :=
  (s.slot k).kind ≠ .sett ∨ count = 0 ∨
    settStripes (s.slot k).sett < s0 + (count - 1) * settN (s.slot k).sett + 1

/-- The stripes a request of an auditor asks for. -/
def State.auditStripes (s : State) (k s0 count : Nat) : List Nat :=
  (List.range count).map fun j => s0 + j * settN (s.slot k).sett

/-- The trees of the stripes asked for that this member is in. -/
def State.auditPairs (s : State) (k s0 count : Nat) : List (Nat × Nat) :=
  (s.auditStripes k s0 count).flatMap fun st => (ownTrees (s.slot k).sett st).map fun j => (st, j)

/-- Whether this member holds the parity of the stripes asked for. -/
def State.auditParity (s : State) (k s0 : Nat) : Bool := decide ((s.slot k).sett.k ≤ ownPos (s.slot k).sett s0)

/-- The read of this member's own panels of the stripes asked for. -/
def State.auditRead (s : State) (i : Fin 64) (k s0 count : Nat) (flt : ReadFault) : State × Bool :=
  let d := (s.slot k).sett
  let real := (s.auditStripes k s0 count).filter fun st => s.auditParity k s0 || !virtualCol d st (ownPos d st)
  s.helperRead i flt (s.readAddrs k (s.auditParity k s0) (real.map fun st => panelAt d st (ownPos d st)))

/-- The run a helper accepts. -/
def State.auditRun (s : State) (i : Fin 64) (k : Fin 16) (a : Addr) (epoch s0 count : Nat) : AuHelp :=
  { tidx := i, slot := k, auditor := a, s0 := s0, count := count, epoch := epoch
    accs := (s.auditPairs k.val s0 count).map fun x => s.auditAcc k.val a x.1 x.2
    release := none, fixed := 0, since := s.time.now }

/-- The run accepted, its products counted and the peak of the reservation noted. -/
def State.auditAccepted (s : State) (i : Fin 64) (k : Fin 16) (a : Addr) (epoch s0 count : Nat) : State :=
  let d := (s.slot k.val).sett
  let t := s.gfPanels (if s.auditParity k.val s0 then 0
    else ((s.auditPairs k.val s0 count).filter fun x => !virtualCol d x.1 (ownPos d x.1)).length)
  (t.updAudit fun x => { x with helps := x.helps ++ [s.auditRun i k a epoch s0 count] }).updBadger fun b => { b with
    peak := max b.peak (t.updAudit fun x => { x with helps := x.helps ++ [s.auditRun i k a epoch s0 count] }).reserved4k }

theorem State.gfPanels_frame (s : State) (n : Nat) : s.gfPanels n = { s with flt := (s.gfPanels n).flt } := by
  unfold State.gfPanels
  split <;> rfl

section
variable (s : State) (i : Fin 64) (k : Fin 16) (a : Addr) (epoch s0 count : Nat)

theorem State.heldReplaced_frame : s.heldReplaced i k a epoch s0 =
    { s with audit := (s.heldReplaced i k a epoch s0).audit } := by
  unfold State.heldReplaced
  split <;> rfl

/-- What a request reads beside the audit is as it was. -/
theorem State.heldReplaced_parts : (s.heldReplaced i k a epoch s0).slot k.val = s.slot k.val ∧
    (s.heldReplaced i k a epoch s0).flt = s.flt ∧ (s.heldReplaced i k a epoch s0).badger = s.badger ∧
    (s.heldReplaced i k a epoch s0).time.now = s.time.now := by
  rw [State.heldReplaced_frame]
  exact ⟨rfl, rfl, rfl, rfl⟩

theorem State.auditAccepted_audit : (s.auditAccepted i k a epoch s0 count).audit =
    { s.audit with helps := s.audit.helps ++ [s.auditRun i k a epoch s0 count] } := by
  rw [State.auditAccepted, State.gfPanels_frame]
  rfl

theorem State.auditAccepted_frame : s.auditAccepted i k a epoch s0 count = { s with
    audit := (s.auditAccepted i k a epoch s0 count).audit
    badger := { s.badger with peak := (s.auditAccepted i k a epoch s0 count).badger.peak }
    flt := (s.auditAccepted i k a epoch s0 count).flt } := by
  rw [State.auditAccepted, State.gfPanels_frame]
  rfl

end

/-- A request judged, the run it replaces already given up. -/
def State.serveAudit (s : State) (i : Fin 64) (k : Fin 16) (a : Addr) (epoch s0 count : Nat) (flt : ReadFault) : State :=
  if s.flt.inReset.contains .badger then s
  else if 512 ≤ s.requestsHeld then s.count 0x49
  else if (s.slot k.val).kind ≠ .sett ∨ count = 0 ∨
      settStripes (s.slot k.val).sett < s0 + (count - 1) * settN (s.slot k.val).sett + 1 then s.raiseT i 0xD6 s0
  else if (s.auditRead i k.val s0 count flt).2 then (s.auditRead i k.val s0 count flt).1
  else if Config.reservationUnits < s.reserved4k + (s.auditPairs k.val s0 count).length then s.count 0xD5
  else (s.auditAccepted i k a epoch s0 count).sendTrees i (s.auditRun i k a epoch s0 count)

section
variable {s : State} {i : Fin 64} {k : Fin 16} {a : Addr} {epoch s0 count : Nat} {flt : ReadFault}

theorem State.auditRequest_eq : s.auditRequest i k a epoch s0 count flt =
    (s.heldReplaced i k.val a epoch s0).serveAudit i k a epoch s0 count flt := by
  cases hold : s.helpFor i k.val a epoch fun h => h.s0 == s0 <;>
    simp only [State.heldReplaced, State.auditRequest, hold] <;> rfl

theorem State.serveAudit_inReset (h : ResetUnit.badger ∈ s.flt.inReset) :
    s.serveAudit i k a epoch s0 count flt = s := if_pos (List.contains_iff_mem.2 h)

variable (hworks : ResetUnit.badger ∉ s.flt.inReset)
include hworks

theorem State.serveAudit_tableFull (h : 512 ≤ s.requestsHeld) :
    s.serveAudit i k a epoch s0 count flt = s.count 0x49 :=
  (if_neg (mt List.contains_iff_mem.1 hworks)).trans (if_pos h)

variable (hroom : s.requestsHeld < 512)
include hroom

theorem State.serveAudit_notServable (h : s.auditBad k.val s0 count) :
    s.serveAudit i k a epoch s0 count flt = s.raiseT i 0xD6 s0 :=
  (if_neg (mt List.contains_iff_mem.1 hworks)).trans ((if_neg (not_le_of_gt hroom)).trans (if_pos h))

variable (hgood : ¬ s.auditBad k.val s0 count)
include hgood

theorem State.serveAudit_readFails (h : (s.auditRead i k.val s0 count flt).2 = true) :
    s.serveAudit i k a epoch s0 count flt = (s.auditRead i k.val s0 count flt).1 :=
  (if_neg (mt List.contains_iff_mem.1 hworks)).trans ((if_neg (not_le_of_gt hroom)).trans ((if_neg hgood).trans (if_pos h)))

variable (hread : (s.auditRead i k.val s0 count flt).2 = false)
include hread

theorem State.serveAudit_eq : s.serveAudit i k a epoch s0 count flt =
    if Config.reservationUnits < s.reserved4k + (s.auditPairs k.val s0 count).length then s.count 0xD5
    else (s.auditAccepted i k a epoch s0 count).sendTrees i (s.auditRun i k a epoch s0 count) :=
  (if_neg (mt List.contains_iff_mem.1 hworks)).trans ((if_neg (not_le_of_gt hroom)).trans ((if_neg hgood).trans
    (if_neg (by simp [hread]))))

end

/-! ## The rows of the frames -/

section
variable {s : State} {f : Rx} {i : Fin 64}

/-- What a request asks for, taken by a member whose auditOk does not bar it. -/
theorem exec_auditReq {flt : ReadFault} (hgood : frameGood s f 0x50 i) (hzero : tField f 43 21 = 0) (hlen : f.len = 0)
    (hknown : (s.at_ f.time).knownIn i (tField f 39 4) f.src = true) : exec (.auditReq f flt) s =
      .next (if !(s.at_ f.time).auditOk i f.epoch.toNat f.tr then (s.at_ f.time).count 0xF9
        else ((s.at_ f.time).auditRequest i (Fin.ofNat 16 (tField f 39 4)) f.src f.epoch.toNat (tField f 0 23) (tField f 23 16)
          flt).follow i) :=
  congrArg _ (State.receive_good _ hgood (beq_iff_eq.2 hzero) (beq_iff_eq.2 hlen) rfl hknown)

section
variable (hgood : frameGood s f 0x51 i) (hzero : f.t.getLsbD 63 = false) (hlen : f.len = 4096)
  (hknown : (s.at_ f.time).knownIn i (tField f 59 4) f.src = true)
include hgood hzero hlen hknown

/-- A frame of type AUDIT_PART of a form, taken by its row. -/
theorem State.receive_auditPart (form : Bool) (ok7 : State → Fin 64 → Bool) (k : State → Fin 64 → State) (hform : form = true)
    (h7 : ok7 (s.at_ f.time) i = true) : s.receive f (auditPartCheck f form ok7) k = k (s.at_ f.time) i := by
  refine State.receive_good k hgood ?_ (beq_iff_eq.2 hlen) h7 hknown
  simp only [auditPartCheck, hzero, hform]
  rfl

theorem exec_auditPart (hmask : auditMask f ≠ 0) (hok : (s.at_ f.time).auditOk i f.epoch.toNat f.tr = true) :
    exec (.auditPart f) s = .next (((s.at_ f.time).takeAuditPart i (tField f 59 4) f).follow i) :=
  congrArg _ (State.receive_auditPart hgood hzero hlen hknown _ _ _ (bne_iff_ne.2 hmask) hok)

theorem exec_auditCorrection (hone : ((List.range 36).filter fun b => (auditMask f).getLsbD b).length = 1) :
    exec (.auditCorrection f) s = .next (((s.at_ f.time).correction i (tField f 59 4) f.src f.epoch.toNat f.tr (tField f 0 23)
      (auditMask f) f.payload).follow i) :=
  congrArg _ (State.receive_auditPart hgood hzero hlen hknown _ _ _ (beq_iff_eq.2 hone) rfl)

theorem exec_auditRelease (hmask : auditMask f = 0) (hrest : ∀ b ∈ f.payload.drop 4, b = 0)
    (hok : (s.at_ f.time).auditOk i f.epoch.toNat f.tr = true) : exec (.auditRelease f) s =
      .next (((s.at_ f.time).releaseRun i (tField f 59 4) f.src f.epoch.toNat (tField f 0 23) (leField f.payload 0 4)).follow i) := by
  refine congrArg _ (State.receive_auditPart hgood hzero hlen hknown _ _ _ ?_ hok)
  rw [Bool.and_eq_true, beq_iff_eq, List.all_eq_true]
  exact ⟨hmask, fun b hb => beq_iff_eq.2 (hrest b hb)⟩

end

/-! ## A part at a helper -/

/-- A tree of a helper's run that waits for the part, from the position `pos` of its source. -/
def State.auditWaits (s : State) (i : Fin 64) (k : Nat) (f : Rx) (h : AuHelp) (a : AuAcc) (pos : Nat) : Prop :=
  h.tidx = i ∧ h.slot.val = k ∧ h.epoch = f.epoch.toNat ∧ (s.slot k).posOfAddr f.src (tField f 0 23) = some pos ∧
    treeOf (s.slot k).sett (auditMask f) = some a.row ∧ a.stripe = tField f 0 23 ∧ pos ∈ a.owes

/-- The tree of a helper's run that waits for the part, as its search finds it. -/
def State.auditTree (s : State) (i : Fin 64) (k : Nat) (f : Rx) (h : AuHelp) : Option (AuHelp × AuAcc × Nat) :=
  if h.tidx == i && h.slot.val == k && decide (h.epoch = f.epoch.toNat) then
    match (s.slot k).posOfAddr f.src (tField f 0 23), treeOf (s.slot k).sett (auditMask f) with
    | some pos, some j =>
      (h.accs.find? fun a => a.stripe == tField f 0 23 && a.row == j && a.owes.contains pos).map fun a => (h, a, pos)
    | _, _ => none
  else none

theorem State.auditTree_some {k : Nat} {h h' : AuHelp} {a : AuAcc} {pos : Nat}
    (hfound : s.auditTree i k f h = some (h', a, pos)) : h' = h ∧ a ∈ h.accs ∧ s.auditWaits i k f h a pos := by
  unfold State.auditTree at hfound
  split at hfound
  case isTrue hrun =>
    split at hfound
    case h_1 hpos htree =>
      obtain ⟨a', hfind, heq⟩ := Option.map_eq_some_iff.1 hfound
      cases heq
      simp only [Bool.and_eq_true, beq_iff_eq, decide_eq_true_eq] at hrun
      obtain ⟨⟨htidx, hslot⟩, hepoch⟩ := hrun
      have hacc := List.find?_some hfind
      simp only [Bool.and_eq_true, beq_iff_eq, List.contains_iff_mem] at hacc
      obtain ⟨⟨hstripe, hrow⟩, howes⟩ := hacc
      exact ⟨rfl, List.mem_of_find?_eq_some hfind, htidx, hslot, hepoch, hpos, hrow ▸ htree, hstripe, howes⟩
    case h_2 => cases hfound
  case isFalse => cases hfound

theorem State.auditTree_ne_none {k : Nat} {h : AuHelp} {a : AuAcc} {pos : Nat} (ha : a ∈ h.accs)
    (hwaits : s.auditWaits i k f h a pos) : s.auditTree i k f h ≠ none := by
  obtain ⟨htidx, hslot, hepoch, hpos, htree, hstripe, howes⟩ := hwaits
  have hrun : (h.tidx == i && h.slot.val == k && decide (h.epoch = f.epoch.toNat)) = true := by
    simp [htidx, hslot, hepoch]
  rw [State.auditTree, if_pos hrun, hpos, htree]
  simp only [ne_eq, Option.map_eq_none_iff, List.find?_eq_none, not_forall]
  exact ⟨a, ha, by simp [hstripe, howes]⟩

/-- The tree a part is added to. -/
def AuAcc.withPart (a : AuAcc) (f : Rx) (pos : Nat) : AuAcc :=
  { a with bytes := xorBytes a.bytes f.payload, cmask := a.cmask ||| auditMask f, owes := a.owes.filter (· != pos) }

theorem State.takeAuditPart_waited {k : Nat} {h : AuHelp} {a : AuAcc} {pos : Nat} (hh : h ∈ s.audit.helps)
    (ha : a ∈ h.accs) (hwaits : s.auditWaits i k f h a pos)
    (honly : ∀ h' ∈ s.audit.helps, ∀ a' ∈ h'.accs, ∀ p : Nat, s.auditWaits i k f h' a' p → h' = h ∧ a' = a) :
    s.takeAuditPart i k f =
      (let h' : AuHelp := { h with accs := h.accs.map fun x => if x = a then a.withPart f pos else x }
       State.sendTrees { s with audit := { s.audit with helps := s.audit.helps.map fun x => if x = h then h' else x } } i h') := by
  have hfound : s.audit.helps.findSome? (s.auditTree i k f) = some (h, a, pos) := by
    cases hfind : s.audit.helps.findSome? (s.auditTree i k f) with
    | none => exact absurd (List.findSome?_eq_none_iff.1 hfind h hh) (State.auditTree_ne_none ha hwaits)
    | some x =>
      obtain ⟨h', a', p⟩ := x
      obtain ⟨y, hy, hsome⟩ := List.exists_of_findSome?_eq_some hfind
      obtain ⟨rfl, ha', hw'⟩ := State.auditTree_some hsome
      obtain ⟨rfl, rfl⟩ := honly _ hy _ ha' _ hw'
      obtain ⟨-, -, -, hpos, -⟩ := hwaits
      obtain ⟨-, -, -, hpos', -⟩ := hw'
      rw [Option.some.inj (hpos.symm.trans hpos')]
  show (match s.audit.helps.findSome? (s.auditTree i k f) with | some (h, a, pos) => _ | none => _) = _
  rw [hfound]
  rfl

theorem State.takeAuditPart_unwaited {k : Nat}
    (hnone : ∀ h ∈ s.audit.helps, ∀ a ∈ h.accs, ∀ p : Nat, ¬ s.auditWaits i k f h a p) :
    s.takeAuditPart i k f = if k = s.auSlot
      then s.auditorPart i f.src f.epoch.toNat (tField f 0 23) (auditMask f) f.payload else s.count 0xD7 := by
  have hfound : s.audit.helps.findSome? (s.auditTree i k f) = none := by
    refine List.findSome?_eq_none_iff.2 fun h hh => Option.eq_none_iff_forall_ne_some.2 fun x hx => ?_
    obtain ⟨h', a, p⟩ := x
    obtain ⟨-, ha, hw⟩ := State.auditTree_some hx
    exact hnone h hh a ha p hw
  show (match s.audit.helps.findSome? (s.auditTree i k f) with | some (h, a, pos) => _ | none => _) = _
  rw [hfound]

end

/-! ## Corrections and releases -/

section
variable {s : State} {i : Fin 64} {k : Nat} {a : Addr} {epoch : Nat} {tr : BitVec 7} {st n : Nat} {m : BitVec 36} {x : List Byte}

/-- The run of this member that a correction of a stripe belongs to. -/
def State.correctedRun (s : State) (i : Fin 64) (k : Nat) (a : Addr) (epoch st : Nat) : Option AuHelp :=
  s.helpFor i k a epoch fun h => h.holds (s.slot k).sett st

/-- What a correction must name: an epoch that may be audited and this member's own position. -/
def State.correctionGood (s : State) (i : Fin 64) (k epoch : Nat) (tr : BitVec 7) (st : Nat) (m : BitVec 36) : Prop :=
  s.auditOk i epoch tr = true ∧ m = 1 <<< ownPos (s.slot k).sett st

theorem State.correctionGood_iff : s.correctionGood i k epoch tr st m ↔
    ¬ (!s.auditOk i epoch tr || m ≠ 1 <<< ownPos (s.slot k).sett st) = true := by
  simp [State.correctionGood]

theorem State.correction_discarded (h : ¬ s.correctionGood i k epoch tr st m ∨ s.correctedRun i k a epoch st = none ∨
    s.fixPanel i k st x = none) : s.correction i k a epoch tr st m x = s.raiseT i 0xF6 st := by
  by_cases hgood : s.correctionGood i k epoch tr st m
  · refine (if_neg (State.correctionGood_iff.1 hgood)).trans ?_
    change (match s.correctedRun i k a epoch st with | none => _ | some h => _) = _
    cases hrun : s.correctedRun i k a epoch st with
    | none => rfl
    | some y =>
      have hfix : s.fixPanel i k st x = none := by simpa [hgood, hrun] using h
      simp only [hfix]
  · exact if_pos (not_not.1 (mt State.correctionGood_iff.2 hgood))

theorem State.correction_applied {h : AuHelp} {t : State} (hgood : s.correctionGood i k epoch tr st m)
    (hrun : s.correctedRun i k a epoch st = some h) (hfix : s.fixPanel i k st x = some t) :
    s.correction i k a epoch tr st m x = t.setHelp h { h with fixed := h.fixed + 1 } := by
  refine (if_neg (State.correctionGood_iff.1 hgood)).trans ?_
  change (match s.correctedRun i k a epoch st with | none => _ | some h => _) = _
  simp only [hrun, hfix]

theorem State.releaseRun_held {h : AuHelp} (hrun : (s.helpFor i k a epoch fun h => h.s0 == st) = some h) :
    s.releaseRun i k a epoch st n = s.setHelp h { h with release := some n } := by
  simp only [State.releaseRun, hrun]

theorem State.releaseRun_none (hrun : (s.helpFor i k a epoch fun h => h.s0 == st) = none) :
    s.releaseRun i k a epoch st n = s := by
  simp only [State.releaseRun, hrun]

end

/-! ## The statement -/

theorem State.heldReplaced_unique {s t : State} {i : Fin 64} {k : Nat} {a : Addr} {epoch s0 : Nat}
    (hsome : ∀ h : AuHelp, (s.helpFor i k a epoch fun h => h.s0 == s0) = some h → t = s.closeHelp h)
    (hnone : (s.helpFor i k a epoch fun h => h.s0 == s0) = none → t = s) : t = s.heldReplaced i k a epoch s0 := by
  unfold State.heldReplaced
  split
  case h_1 h hold => exact hsome h hold
  case h_2 hold => exact hnone hold

/-- Settles O44: a request by what may fail it, a part by the tree that waits for it, a correction and a release by the run
they belong to. -/
theorem auditFrameRowsComplete : Obligations.AuditFrameRowsComplete := by
  refine ⟨fun s f i flt hgood hzero hlen hknown => ⟨fun hok => ?_, fun hok => ?_⟩,
    fun s i k a epoch s0 count flt t hsome hnone => ?_,
    fun s f i hgood hzero hlen _ hknown => ⟨exec_auditPart hgood hzero hlen hknown,
      exec_auditCorrection hgood hzero hlen hknown, exec_auditRelease hgood hzero hlen hknown⟩,
    fun s i k f => ⟨fun h a pos => State.takeAuditPart_waited, fun hnone => ?_⟩,
    fun s i k a epoch tr st n m x => ⟨State.correction_discarded, fun h t => State.correction_applied,
      fun h => State.releaseRun_held, State.releaseRun_none⟩⟩
  · refine ⟨_, (exec_auditReq hgood hzero hlen hknown).trans (congrArg _ (if_pos (by simp [hok]))), rfl, ?_, ?_, ?_⟩
    · rw [← s.at_flt f.time]
      rfl
    · rw [State.count_counter_self]
      simp only [State.counter, State.at_flt]
    · intro j hj
      rw [State.count_counter_other _ hj]
      simp only [State.counter, State.at_flt]
  · exact (exec_auditReq hgood hzero hlen hknown).trans (congrArg _ (if_neg (by simp [hok])))
  · obtain rfl := State.heldReplaced_unique hsome hnone
    rw [State.auditRequest_eq]
    obtain ⟨hslot, hflt, hbadger, hnow⟩ := s.heldReplaced_parts i k a epoch s0
    rw [← hslot, ← hflt, ← hbadger, ← hnow]
    generalize s.heldReplaced i k.val a epoch s0 = t
    refine ⟨State.serveAudit_inReset, State.serveAudit_tableFull, fun hworks hroom => ⟨State.serveAudit_notServable hworks hroom,
      State.serveAudit_readFails hworks hroom, fun hbad hread hfull => ?_, fun hbad hread hfits => ?_⟩⟩
    · exact (State.serveAudit_eq hworks hroom hbad hread).trans (if_pos hfull)
    · exact ⟨_, _, (State.serveAudit_eq hworks hroom hbad hread).trans (if_neg (not_lt_of_ge hfits)), rfl, rfl, rfl, rfl,
        rfl, rfl, rfl, rfl, rfl, List.length_map _, t.auditAccepted_audit i k a epoch s0 count,
        t.auditAccepted_frame i k a epoch s0 count⟩
  · rw [State.takeAuditPart_unwaited hnone]
    exact ⟨fun hk => if_pos hk, fun hk => if_neg hk⟩

end Sys2Proof.Machine

/-! # The slot under audit

Only the auditor's own commands select the slot that is audited (R308, R317): nothing that a run asks of its members
changes it. -/

namespace Sys2Proof.Machine

theorem State.auSlot_of_apart {s t : State} (h : t.apart = s.apart) : t.auSlot = s.auSlot :=
  (congrArg State.auSlot h : t.apart.auSlot = s.apart.auSlot)

@[simp] theorem State.raise_auSlot (s : State) (e : Ev) : (s.raise e).auSlot = s.auSlot :=
  State.auSlot_of_apart (s.raise_apart e none)

@[simp] theorem State.raiseT_auSlot (s : State) (i : Fin 64) (code detail : Nat) :
    (s.raiseT i code detail).auSlot = s.auSlot := State.auSlot_of_apart (s.raiseT_apart i code detail)

@[simp] theorem State.count_auSlot (s : State) (k : Nat) : (s.count k).auSlot = s.auSlot := rfl

@[simp] theorem State.send_auSlot (s : State) (f : OutFrame) : (s.send f).auSlot = s.auSlot := by
  unfold State.send
  split
  · rfl
  · split <;> rfl

/-! ## Corrections and releases -/

@[simp] theorem State.setHelp_auSlot (s : State) (old new : AuHelp) : (s.setHelp old new).auSlot = s.auSlot := by
  unfold State.setHelp State.tryClose
  split
  · split <;> rfl
  · rfl

theorem State.fixParity_auSlot (s : State) (k e : Nat) (x : List Byte) : (s.fixParity k e x).auSlot = s.auSlot := by
  unfold State.fixParity
  extract_lets d r put t
  split <;> rfl

theorem State.fixPanel_auSlot {s t : State} {i : Fin 64} {k st : Nat} {x : List Byte} (h : s.fixPanel i k st x = some t) :
    t.auSlot = s.auSlot := by
  unfold State.fixPanel at h
  extract_lets d pos p at h
  split at h
  · split at h
    · cases h
    · cases h
      exact s.fixParity_auSlot _ _ _
  · split at h
    · cases h
    · split at h
      · cases h
      · extract_lets a u at h
        cases h
        split <;> rfl

@[simp] theorem State.correction_auSlot (s : State) (i : Fin 64) (k : Nat) (a : Addr) (epoch : Nat) (tr : BitVec 7) (st : Nat)
    (m : BitVec 36) (x : List Byte) : (s.correction i k a epoch tr st m x).auSlot = s.auSlot := by
  by_cases h : ¬ s.correctionGood i k epoch tr st m ∨ s.correctedRun i k a epoch st = none ∨ s.fixPanel i k st x = none
  · rw [State.correction_discarded h, State.raiseT_auSlot]
  · rw [not_or, not_or, not_not] at h
    obtain ⟨hgood, hrun, hfix⟩ := h
    obtain ⟨y, hrun⟩ := Option.ne_none_iff_exists'.1 hrun
    obtain ⟨t, hfix⟩ := Option.ne_none_iff_exists'.1 hfix
    rw [State.correction_applied hgood hrun hfix, State.setHelp_auSlot, State.fixPanel_auSlot hfix]

@[simp] theorem State.releaseRun_auSlot (s : State) (i : Fin 64) (k : Nat) (a : Addr) (epoch s0 n : Nat) :
    (s.releaseRun i k a epoch s0 n).auSlot = s.auSlot := by
  unfold State.releaseRun
  split <;> simp

@[simp] theorem State.auditEnd_auSlot (s : State) : s.auditEnd.auSlot = s.auSlot := by
  unfold State.auditEnd
  split
  · exact State.raise_auSlot _ _
  · rfl

/-! ## Judging and serving -/

@[simp] theorem State.releaseHelpers_auSlot (s : State) (i : Fin 64) (r : AuRun) : (s.releaseHelpers i r).auSlot = s.auSlot := by
  simp only [State.releaseHelpers, State.auditEnd_auSlot]
  refine State.foldl_keeps (v := State.auSlot) (fun t row => ?_) _ _
  split <;> simp

@[simp] theorem State.judgeStripe_auSlot (s : State) (i : Fin 64) (r : AuRun) (st : Nat) :
    (s.judgeStripe i r st).auSlot = s.auSlot := by
  unfold State.judgeStripe
  extract_lets k d syn judged t add located
  have hlocated : located.auSlot = s.auSlot := State.raiseT_auSlot _ _ _ _
  clear_value located
  split
  rename_i u r' hverdict
  have hu : u.auSlot = s.auSlot := by
    refine (congrArg (fun x : State × AuRun => x.1.auSlot) hverdict).symm.trans ?_
    split
    · rfl
    · split
      · exact hlocated
      · dsimp only
        split <;> simp [hlocated]
    · exact State.raiseT_auSlot _ _ _ _
  clear hverdict
  extract_lets v
  have hv : v.auSlot = s.auSlot := hu
  clear_value v
  split
  · rw [State.releaseHelpers_auSlot, hv]
  · exact hv

@[simp] theorem State.auditorPart_auSlot (s : State) (i : Fin 64) (src : Addr) (epoch st : Nat) (m : BitVec 36)
    (bytes : List Byte) : (s.auditorPart i src epoch st m bytes).auSlot = s.auSlot := by
  unfold State.auditorPart
  extract_lets d
  split
  · extract_lets first r' t
    split
    · exact s.count_auSlot _
    · split
      · exact State.judgeStripe_auSlot _ _ _ _
      · rfl
  · exact s.count_auSlot _

@[simp] theorem State.sendTrees_auSlot (s : State) (i : Fin 64) (h : AuHelp) : (s.sendTrees i h).auSlot = s.auSlot := by
  simp only [State.sendTrees]
  refine (State.foldl_keeps (v := State.auSlot) (fun t a => ?_) _ _).trans rfl
  split <;> simp

@[simp] theorem State.auditRequest_auSlot (s : State) (i : Fin 64) (k : Fin 16) (a : Addr) (epoch s0 count : Nat)
    (flt : ReadFault) : (s.auditRequest i k a epoch s0 count flt).auSlot = s.auSlot := by
  have hheld : (s.heldReplaced i k.val a epoch s0).auSlot = s.auSlot := by
    unfold State.heldReplaced
    split <;> rfl
  rw [State.auditRequest_eq, ← hheld]
  generalize s.heldReplaced i k.val a epoch s0 = t
  have hread : (t.auditRead i k.val s0 count flt).1.auSlot = t.auSlot :=
    State.auSlot_of_apart (t.helperRead_apart _ _ _)
  have htaken : (t.auditAccepted i k a epoch s0 count).auSlot = t.auSlot := by
    rw [State.auSlot, t.auditAccepted_audit]
    rfl
  simp [State.serveAudit, apply_ite State.auSlot, hread, htaken]

@[simp] theorem State.sendAuditRun_auSlot (s : State) (i : Fin 64) (k : Fin 16) (s0 count epoch : Nat) :
    (s.sendAuditRun i k s0 count epoch).auSlot = s.auSlot := by
  refine State.foldl_keeps (v := State.auSlot) (fun t row => ?_) _ _
  split
  · split <;> simp
  · simp

end Sys2Proof.Machine

/-! # The auditor

START and STOP, the next run, and a run that timed out (R308, R309, R313). -/

namespace Sys2Proof.Machine

/-! ## START and STOP -/

/-- MNL_DG_AUDIT takes a write: the window is open there and it comes from system software. -/
def State.auditTakes (s : State) (a : Acc) : Prop := s.windowOpen 0x6100 = true ∧ fromSystem a = true

/-- The slot may be audited: it is a sett slot, and capability 0x05 is present. -/
def State.auditable (s : State) (k : Nat) : Prop := (s.slot k).kind = .sett ∧ s.cap 5 = true

/-- FIRST and COUNT name stripes of the slot. -/
def State.auditRange (s : State) (k : Nat) : Prop :=
  s.audit.count.toNat ≠ 0 ∧ s.audit.first.toNat + s.audit.count.toNat ≤ settStripes (s.slot k).sett ∧
    settStripes (s.slot k).sett ≤ 8388608

section
variable {s : State} {k : Nat}

theorem State.auditResult_busy (h : s.audit.busy = true) : s.auditResult k = 1 := if_pos h

theorem State.auditResult_notAuditable (hfree : s.audit.busy = false) (h : ¬ s.auditable k) : s.auditResult k = 3 := by
  refine (if_neg (by simp [hfree])).trans (if_pos ?_)
  by_cases hsett : (s.slot k).kind = .sett
  · exact .inr (by simpa [State.auditable, hsett] using h)
  · exact .inl hsett

theorem State.auditResult_outOfRange (hfree : s.audit.busy = false) (hslot : s.auditable k) (h : ¬ s.auditRange k) :
    s.auditResult k = 4 := by
  obtain ⟨hsett, hcap⟩ := hslot
  refine (if_neg (by simp [hfree])).trans ((if_neg (by simp [hsett, hcap])).trans (if_pos ?_))
  simp only [State.auditRange] at h
  omega

theorem State.auditResult_ok (hfree : s.audit.busy = false) (hslot : s.auditable k) (h : s.auditRange k) :
    s.auditResult k = 0 := by
  obtain ⟨hsett, hcap⟩ := hslot
  obtain ⟨hcount, hlast, hmost⟩ := h
  exact (if_neg (by simp [hfree])).trans ((if_neg (by simp [hsett, hcap])).trans (if_neg (by omega)))

end

section
variable {s : State} {a : Acc} {slot : BitVec 4} (hp : s.portsUp = true)
include hp

theorem exec_audit_refused (h : ¬ s.auditTakes a) : exec (.auditStart a slot) s = .next (s.refuse a.id 0x6100) ∧
    exec (.auditStop ⟨a, slot⟩) s = .next (s.refuse a.id 0x6100) := by
  have hshut : s.windowOpen 0x6100 = false ∨ fromSystem a = false := by
    simpa only [State.auditTakes, not_and_or, Bool.not_eq_true] using h
  refine ⟨(if_neg (by simp [hp])).trans (if_pos ?_), congrArg _ (State.window_refuses _ hp hshut)⟩
  rcases hshut with h | h <;> simp [h]

theorem exec_auditStop_drops (h : s.auditTakes a) : exec (.auditStop ⟨a, slot⟩) s = .next { s.ok a.id with
    audit := { s.audit with op := 2, slot := slot, result := 0, busy := false, todo := [], runs := [] } } :=
  congrArg _ (State.window_takes true _ ⟨hp, h⟩)

variable (h : s.auditTakes a)
include h

theorem exec_auditStart_taken : exec (.auditStart a slot) s =
    if s.auditResult slot.toNat ≠ 0 then
      .next (State.refuse { s with audit := { s.audit with result := BitVec.ofNat 8 (s.auditResult slot.toNat) } } a.id 0x6100)
    else .next { s.ok a.id with audit := { s.audit with
      op := 1, slot := slot, result := 0, busy := true
      todo := rotationOrder (s.slot slot.toNat).sett s.audit.first.toNat s.audit.count.toNat, runs := []
      checked := 0, clean := 0, skipped := 0, corrected := 0, detected := 0 } } := by
  obtain ⟨hopen, hsys⟩ := h
  exact (if_neg (by simp [hp])).trans (if_neg (by simp [hopen, hsys]))

theorem exec_auditStart_fails {r : Nat} (hr : s.auditResult slot.toNat = r) (hne : r ≠ 0) : exec (.auditStart a slot) s =
    .next (State.refuse { s with audit := { s.audit with result := BitVec.ofNat 8 r } } a.id 0x6100) := by
  rw [exec_auditStart_taken hp h, hr, if_pos hne]

theorem exec_auditStart_starts (hr : s.auditResult slot.toNat = 0) : exec (.auditStart a slot) s =
    .next { s.ok a.id with audit := { s.audit with
      op := 1, slot := slot, result := 0, busy := true
      todo := rotationOrder (s.slot slot.toNat).sett s.audit.first.toNat s.audit.count.toNat, runs := []
      checked := 0, clean := 0, skipped := 0, corrected := 0, detected := 0 } } := by
  rw [exec_auditStart_taken hp h, hr, if_neg (not_not_intro rfl)]

end

/-! ## The end of an audit -/

/-- The tag of the tenant whose slot is audited. -/
def State.auTag (s : State) : Tag := match s.slotTenant s.auSlot with | some i => s.tagOf i | none => 0

section
variable {s : State}

theorem State.auTag_some {i : Fin 64} (h : s.slotTenant s.auSlot = some i) : s.auTag = s.tagOf i := by
  simp only [State.auTag, h]

theorem State.auTag_none (h : s.slotTenant s.auSlot = none) : s.auTag = 0 := by
  simp only [State.auTag, h]

theorem State.auditEnd_ends (hbusy : s.audit.busy = true) (htodo : s.audit.todo = []) (hruns : s.audit.runs = []) :
    s.auditEnd = State.raise { s with audit := { s.audit with busy := false } }
      { code := 0xF3, unit := s.auSlot, tenant := s.auTag } := if_pos (by simp [hbusy, htodo, hruns])

theorem State.auditEnd_goesOn (h : s.audit.busy = false ∨ s.audit.todo ≠ [] ∨ s.audit.runs ≠ []) : s.auditEnd = s := by
  refine if_neg ?_
  rcases h with h | h | h <;> simp [h]

end

/-! ## The next run -/

/-- The stripes of the next run the auditor asks for. -/
def State.auNext (s : State) : List Nat := nextRun (settN (s.slot s.auSlot).sett) (max 1 s.cfg.glob.run) s.audit.todo

/-- The auditor may ask for a run: it works, Badger is not in reset, and its requests may stand out. -/
def State.auGo (s : State) : Prop :=
  s.audit.busy = true ∧ s.flt.mode = .normal ∧ ResetUnit.badger ∉ s.flt.inReset ∧
    (s.audit.runs.length + 1) * settN (s.slot s.auSlot).sett ≤ 512

/-- A run asked for from now on, at the committed epoch of the moment. -/
def State.newRun (s : State) (s0 epoch : Nat) (stripes : List Nat) : AuRun :=
  { s0 := s0, count := stripes.length, epoch := epoch, stripes := stripes, judged := [], parts := [], fixes := []
    since := s.time.now }

section
variable {s : State}

theorem State.auGo_iff : s.auGo ↔ ¬ (!s.audit.busy || s.flt.mode ≠ .normal || s.flt.inReset.contains .badger ||
    decide (512 < (s.audit.runs.length + 1) * settN (s.slot s.auSlot).sett)) = true := by
  simp [State.auGo, and_assoc]

theorem exec_auditRunRequest_idle (h : s.slotTenant s.auSlot = none ∨ s.auNext = []) :
    exec .auditRunRequest s = .next s := by
  show execAuditRunRequest s = .next s
  unfold execAuditRunRequest
  rcases h with h | h
  · simp only [h]
  · rw [State.auNext] at h
    simp only [h]
    split <;> rfl

variable {i : Fin 64} {s0 : Nat} {rest : List Nat} (hten : s.slotTenant s.auSlot = some i) (hnext : s.auNext = s0 :: rest)
include hten hnext

theorem exec_auditRunRequest_next : exec .auditRunRequest s =
    if !s.audit.busy || s.flt.mode ≠ .normal || s.flt.inReset.contains .badger ||
        decide (512 < (s.audit.runs.length + 1) * settN (s.slot s.auSlot).sett) then .next s
    else if !(s.slot s.auSlot).audits then .next (State.auditEnd { s with audit :=
      { s.audit with todo := s.audit.todo.drop (rest.length + 1), skipped := s.audit.skipped + (rest.length + 1) } })
    else .next ((State.sendAuditRun { s with audit := { s.audit with
        todo := s.audit.todo.drop (rest.length + 1)
        runs := s.audit.runs ++ [s.newRun s0 (s.ten i).commit.committed (s0 :: rest)] } }
      i (Fin.ofNat 16 s.auSlot) s0 (rest.length + 1) (s.ten i).commit.committed).follow i) := by
  rw [State.auNext] at hnext
  show execAuditRunRequest s = _
  simp only [execAuditRunRequest, hten, hnext]
  rfl

theorem exec_auditRunRequest_waits (h : ¬ s.auGo) : exec .auditRunRequest s = .next s :=
  (exec_auditRunRequest_next hten hnext).trans (if_pos (not_not.1 (mt (State.auGo_iff).2 h)))

variable (hgo : s.auGo)
include hgo

theorem exec_auditRunRequest_skips (h : (s.slot s.auSlot).audits = false) : exec .auditRunRequest s =
    .next (State.auditEnd { s with audit :=
      { s.audit with todo := s.audit.todo.drop (rest.length + 1), skipped := s.audit.skipped + (rest.length + 1) } }) :=
  (exec_auditRunRequest_next hten hnext).trans ((if_neg ((State.auGo_iff).1 hgo)).trans (if_pos (by simp [h])))

theorem exec_auditRunRequest_asks (h : (s.slot s.auSlot).audits = true) : exec .auditRunRequest s =
    .next ((State.sendAuditRun { s with audit := { s.audit with
        todo := s.audit.todo.drop (rest.length + 1)
        runs := s.audit.runs ++ [s.newRun s0 (s.ten i).commit.committed (s0 :: rest)] } }
      i (Fin.ofNat 16 s.auSlot) s0 (rest.length + 1) (s.ten i).commit.committed).follow i) :=
  (exec_auditRunRequest_next hten hnext).trans ((if_neg ((State.auGo_iff).1 hgo)).trans (if_neg (by simp [h])))

end

/-! ## A run that timed out -/

/-- The stripes of a run not judged yet. -/
def AuRun.left (r : AuRun) : List Nat := r.stripes.filter fun st => !r.judged.contains st

/-- The stretches in which the stripes left of a run are asked for again. -/
def AuRun.stretchesLeft (r : AuRun) (s0 n : Nat) : List (Nat × Nat) := stretches (r.left.map fun st => (st - s0) / max 1 n)

/-- A stretch of a run asked for again, of a slot's members. -/
def State.askMembers (i : Fin 64) (s0 n epoch k : Nat) (s : State) (x : Nat × Nat) : State :=
  let b := s0 + x.1 * n
  State.sendAuditRun { s with audit := { s.audit with
    runs := s.audit.runs ++ [{ s0 := b, count := x.2, epoch := epoch, stripes := (List.range x.2).map fun j => b + j * n
                               judged := [], parts := [], fixes := [], since := s.time.now }] } } i (Fin.ofNat 16 k) b x.2 epoch

/-- A stretch of a run asked for again, of the members of the slot under audit. -/
def State.askAgain (i : Fin 64) (s0 n epoch : Nat) (s : State) (x : Nat × Nat) : State :=
  State.askMembers i s0 n epoch s.auSlot s x

theorem State.askMembers_auSlot (i : Fin 64) (s0 n epoch k : Nat) (s : State) (x : Nat × Nat) :
    (State.askMembers i s0 n epoch k s x).auSlot = s.auSlot := by
  rw [State.askMembers, State.sendAuditRun_auSlot]
  rfl

/-- The slot under audit is the same from one stretch to the next. -/
theorem State.foldl_askMembers (i : Fin 64) (s0 n epoch : Nat) (l : List (Nat × Nat)) {s : State} {k : Nat} (hk : s.auSlot = k) :
    l.foldl (State.askMembers i s0 n epoch k) s = l.foldl (State.askAgain i s0 n epoch) s := by
  refine (List.foldl_rel (r := fun t u => t = u ∧ t.auSlot = k) ⟨rfl, hk⟩ fun x _ t u htu => ?_).1
  obtain ⟨rfl, ht⟩ := htu
  exact ⟨by rw [State.askAgain, ht], (State.askMembers_auSlot _ _ _ _ _ _ _).trans ht⟩

/-- The stretches that the outstanding requests have room for. -/
def State.roomFor (s : State) (s0 : Nat) : Nat :=
  512 / max 1 (settN (s.slot s.auSlot).sett) - (s.audit.runs.filter fun x => x.s0 != s0).length

/-- The stretches of a run that are asked for again at once. -/
def State.stretchesNow (s : State) (s0 : Nat) (r : AuRun) : List (Nat × Nat) :=
  (r.stretchesLeft s0 (settN (s.slot s.auSlot).sett)).take (s.roomFor s0)

/-- The run that timed out no longer outstanding, the stripes without room put before those still to be requested. -/
def State.runRetired (s : State) (s0 : Nat) (r : AuRun) : State :=
  let n := settN (s.slot s.auSlot).sett
  { s.reach r.since s.rtoBadger with audit := { s.audit with
      runs := s.audit.runs.filter fun x => x.s0 != s0
      todo := (((r.stretchesLeft s0 n).drop (s.roomFor s0)).flatMap fun x =>
        (List.range x.2).map fun j => s0 + (x.1 + j) * n) ++ s.audit.todo } }

theorem State.runRetired_auSlot (s : State) (s0 : Nat) (r : AuRun) : (s.runRetired s0 r).auSlot = s.auSlot := rfl

section
variable {s : State} {s0 : Nat}

theorem exec_auditRunTimeout_none (h : s.slotTenant s.auSlot = none ∨ (s.audit.runs.find? fun r => r.s0 == s0) = none) :
    exec (.auditRunTimeout s0) s = .next s := by
  show execAuditRunTimeout s0 s = .next s
  rcases h with h | h
  · simp only [execAuditRunTimeout, h]
  · simp only [execAuditRunTimeout, h]
    cases s.slotTenant s.auSlot <;> rfl

variable {i : Fin 64} {r : AuRun} (hten : s.slotTenant s.auSlot = some i)
  (hrun : s.audit.runs.find? (fun r => r.s0 == s0) = some r)
include hten hrun

theorem exec_auditRunTimeout_notNormal (hmode : s.flt.mode ≠ .normal) : exec (.auditRunTimeout s0) s = .next s := by
  show execAuditRunTimeout s0 s = .next s
  simp only [execAuditRunTimeout, hten, hrun, if_pos hmode]

variable (hmode : s.flt.mode = .normal)
include hmode

/-- A run that timed out is no longer outstanding; where the slot may not be audited its stripes left are skipped. -/
theorem exec_auditRunTimeout_skips (h : (s.slot s.auSlot).audits = false) : exec (.auditRunTimeout s0) s =
    .next (State.auditEnd { s.reach r.since s.rtoBadger with audit := { s.audit with
      runs := s.audit.runs.filter fun x => x.s0 != s0, skipped := s.audit.skipped + r.left.length } }) := by
  have hslot : (!((s.reach r.since s.rtoBadger).slot s.auSlot).audits) = true := by
    rw [s.reach_frame]
    exact Bool.not_eq_true' _ ▸ h
  show execAuditRunTimeout s0 s = _
  simp only [execAuditRunTimeout, hten, hrun, if_neg (not_not_intro hmode)]
  refine (if_pos hslot).trans ?_
  rw [s.reach_frame]
  rfl

/-- Else they are asked for again in stretches, as far as the outstanding requests have room. -/
theorem exec_auditRunTimeout_asks (h : (s.slot s.auSlot).audits = true) : exec (.auditRunTimeout s0) s =
    .next (((s.stretchesNow s0 r).foldl
      (State.askAgain i s0 (settN (s.slot s.auSlot).sett) (s.ten i).commit.committed) (s.runRetired s0 r)).follow i) := by
  have hslot : ¬ (!((s.reach r.since s.rtoBadger).slot s.auSlot).audits) = true := by
    rw [s.reach_frame]
    exact Bool.not_eq_true' _ ▸ Bool.not_eq_false _ ▸ h
  rw [← State.foldl_askMembers i s0 _ _ _ (s.runRetired_auSlot s0 r)]
  show execAuditRunTimeout s0 s = _
  simp only [execAuditRunTimeout, hten, hrun, if_neg (not_not_intro hmode)]
  refine (if_neg hslot).trans ?_
  rw [State.runRetired, s.reach_frame]
  rfl

end

/-! ## The statement -/

/-- Settles O45: START and STOP by the window, the auditor and the range, a run by what lets it be asked for. -/
theorem auditEngineRowsComplete : Obligations.AuditEngineRowsComplete := by
  refine ⟨fun s a slot hp => ⟨exec_audit_refused hp, fun htaken hbusy => ?_, fun htaken hfree hslot => ?_,
      fun htaken hfree hslot hrange => ?_, fun htaken hfree hslot hrange => ?_, exec_auditStop_drops hp⟩,
    fun s => ⟨fun hbusy htodo hruns => ?_, State.auditEnd_goesOn⟩,
    fun s => exec_auditRunRequest_idle,
    fun s i s0 rest hten hnext => ⟨exec_auditRunRequest_waits hten hnext, exec_auditRunRequest_skips hten hnext,
      exec_auditRunRequest_asks hten hnext⟩,
    fun s s0 h => ?_, fun s i r s0 hten hrun hmode => ?_⟩
  · exact exec_auditStart_fails hp htaken (State.auditResult_busy hbusy) (by decide)
  · exact exec_auditStart_fails hp htaken (State.auditResult_notAuditable hfree hslot) (by decide)
  · exact exec_auditStart_fails hp htaken (State.auditResult_outOfRange hfree hslot hrange) (by decide)
  · exact exec_auditStart_starts hp htaken (State.auditResult_ok hfree hslot hrange)
  · exact ⟨s.auTag, fun i => State.auTag_some, State.auTag_none, State.auditEnd_ends hbusy htodo hruns⟩
  · by_cases hten : s.slotTenant s.auSlot = none
    · exact exec_auditRunTimeout_none (.inl hten)
    cases hrun : s.audit.runs.find? fun r => r.s0 == s0 with
    | none => exact exec_auditRunTimeout_none (.inr hrun)
    | some r =>
      obtain ⟨i, hten⟩ := Option.ne_none_iff_exists'.1 hten
      refine exec_auditRunTimeout_notNormal hten hrun ?_
      have hfound : r.s0 = s0 := beq_iff_eq.1 (List.find?_some (p := fun r : AuRun => r.s0 == s0) hrun)
      rcases h with h | h | h
      · exact absurd (hten.symm.trans h) nofun
      · exact absurd hfound (h r (List.mem_of_find?_eq_some hrun))
      · exact h
  · rw [show 1000 * s.cfg.glob.rto = s.rtoBadger from Nat.mul_comm _ _]
    exact ⟨exec_auditRunTimeout_skips hten hrun hmode, fun h => ⟨_, rfl, exec_auditRunTimeout_asks hten hrun hmode h⟩⟩

end Sys2Proof.Machine

/-! # Requests at a helper

What a rebuild request meets, in the order of R262 and R264 to R266, and the copies of a replica-set slot (R261). -/

namespace Sys2Proof.Machine

/-! ## The frame -/

/-- The row of a rebuild request, by what DONLY asks. -/
def requestRow (f : Rx) (donly : Bool) (flt : ReadFault) : Instr := if donly then .badgerReqDigestOnly f else .badgerReq f flt

section
variable {s : State} {f : Rx} {i : Fin 64} {donly : Bool} {flt : ReadFault}

theorem State.receive_request (hgood : frameGood s f 0x40 i) (hzero : tField f 50 14 = 0) (hlen : f.len = 0)
    (hepoch : (s.at_ f.time).runEpochOk i f = true) (hknown : (s.at_ f.time).knownIn i (tField f 45 4) f.src = true)
    (hdonly : f.t.getLsbD 49 = donly) (k : State → Fin 64 → State) :
    s.receive f (reqCheck f donly) k = k (s.at_ f.time) i :=
  State.receive_good k hgood (Bool.and_eq_true_iff.2 ⟨beq_iff_eq.2 hzero, beq_iff_eq.2 hdonly⟩) (beq_iff_eq.2 hlen) hepoch
    hknown

theorem exec_requestRow (hgood : frameGood s f 0x40 i) (hzero : tField f 50 14 = 0) (hlen : f.len = 0)
    (hepoch : (s.at_ f.time).runEpochOk i f = true) (hknown : (s.at_ f.time).knownIn i (tField f 45 4) f.src = true)
    (hdonly : f.t.getLsbD 49 = donly) (hflt : donly = true → flt = .none) :
    exec (requestRow f donly flt) s = .next ((s.at_ f.time).badgerRequest i f donly flt) := by
  have hreceive := State.receive_request hgood hzero hlen hepoch hknown hdonly fun t j => t.badgerRequest j f donly flt
  cases donly with
  | false => exact congrArg _ hreceive
  | true =>
    obtain rfl := hflt rfl
    exact congrArg _ hreceive

end

/-! ## A request judged -/

/-- A request to which no helper answers: of a seal already applied, or while Badger is in reset. -/
def State.requestOff (s : State) (i : Fin 64) (f : Rx) : Prop := s.sealOver i f = true ∨ ResetUnit.badger ∈ s.flt.inReset

/-- The slot a request names. -/
def reqSlot (f : Rx) : Fin 16 := Fin.ofNat 16 (tField f 45 4)

/-- The run a request of a sett slot asks this helper for. -/
def State.requestedRun (s : State) (i : Fin 64) (f : Rx) : Option (HelpRun × Nat) :=
  s.helpRunOf i f (reqSlot f) (tField f 0 23) (tField f 23 16) (tField f 39 6)

/-- The helper's read of its own panels of a run, those that are not virtual. -/
def State.runRead (s : State) (i : Fin 64) (f : Rx) (flt : ReadFault) (h : HelpRun) (r : Nat) : State × Bool :=
  s.helperRead i flt (s.readAddrs (reqSlot f).val (decide ((s.slot (reqSlot f).val).sett.k ≤ h.pos))
    (((s.helperPanels h r).filter fun p => !p.2).map (·.1)))

section
variable {s : State} {f : Rx} {i : Fin 64} {donly : Bool} {flt : ReadFault}

theorem State.badgerRequest_off (h : s.requestOff i f) : s.badgerRequest i f donly flt = s := by
  refine if_pos ?_
  rcases h with h | h
  · simp [h]
  · simp [h]

variable (hon : ¬ s.requestOff i f)
include hon

theorem State.requestOn : ¬ (s.sealOver i f || s.flt.inReset.contains .badger) = true := by
  simpa [State.requestOff] using hon

theorem State.badgerRequest_tableFull (h : 512 ≤ s.requestsHeld) : s.badgerRequest i f donly flt = s.count 0x49 :=
  (if_neg (State.requestOn hon)).trans (if_pos h)

variable (hroom : s.requestsHeld < 512)
include hroom

theorem State.badgerRequest_copies (h : (s.slot (reqSlot f).val).kind = .replica) : s.badgerRequest i f donly flt =
    s.copyRequest i f (reqSlot f) (tField f 0 23) (tField f 23 16) (tField f 39 6) donly flt :=
  (if_neg (State.requestOn hon)).trans ((if_neg (not_le_of_gt hroom)).trans (if_pos h))

variable (hkind : (s.slot (reqSlot f).val).kind ≠ .replica)
include hkind

theorem State.badgerRequest_notServable (h : s.requestedRun i f = none) :
    s.badgerRequest i f donly flt = s.raise { code := 0xD6, tenant := f.tenant, detail := f.src.toNat } := by
  refine (if_neg (State.requestOn hon)).trans ((if_neg (not_le_of_gt hroom)).trans ((if_neg hkind).trans ?_))
  rw [State.requestedRun, reqSlot] at h
  simp only [h]
  rfl

variable {h : HelpRun} {r : Nat} (hrun : s.requestedRun i f = some (h, r))
include hrun

theorem State.badgerRequest_run : s.badgerRequest i f donly flt =
    if (s.runRead i f flt h r).2 then (s.runRead i f flt h r).1
    else if donly then s.sendDigests h (s.helperDigests h r)
    else if Config.reservationUnits < s.reserved4k + tField f 23 16 then s.count 0xD5
    else s.acceptRun h r := by
  refine (if_neg (State.requestOn hon)).trans ((if_neg (not_le_of_gt hroom)).trans ((if_neg hkind).trans ?_))
  rw [State.requestedRun, reqSlot] at hrun
  simp only [hrun]
  rfl

theorem State.badgerRequest_readFails (hread : (s.runRead i f flt h r).2 = true) :
    s.badgerRequest i f donly flt = (s.runRead i f flt h r).1 :=
  (State.badgerRequest_run hon hroom hkind hrun).trans (if_pos hread)

variable (hread : (s.runRead i f flt h r).2 = false)
include hread

theorem State.badgerRequest_digests (hdonly : donly = true) :
    s.badgerRequest i f donly flt = s.sendDigests h (s.helperDigests h r) :=
  (State.badgerRequest_run hon hroom hkind hrun).trans ((if_neg (Bool.eq_false_iff.1 hread)).trans (if_pos hdonly))

theorem State.badgerRequest_accepts (hdonly : donly = false)
    (hfits : s.reserved4k + tField f 23 16 ≤ Config.reservationUnits) : s.badgerRequest i f donly flt = s.acceptRun h r :=
  (State.badgerRequest_run hon hroom hkind hrun).trans
    ((if_neg (Bool.eq_false_iff.1 hread)).trans ((if_neg (Bool.eq_false_iff.1 hdonly)).trans (if_neg (not_lt_of_ge hfits))))

theorem State.badgerRequest_reserveFull (hdonly : donly = false)
    (hfull : Config.reservationUnits < s.reserved4k + tField f 23 16) : s.badgerRequest i f donly flt = s.count 0xD5 :=
  (State.badgerRequest_run hon hroom hkind hrun).trans
    ((if_neg (Bool.eq_false_iff.1 hread)).trans ((if_neg (Bool.eq_false_iff.1 hdonly)).trans (if_pos hfull)))

end

/-! ## A run accepted -/

/-- A run taken into the request table, its reservation noted (R264). -/
def State.runHeld (s : State) (h : HelpRun) : State :=
  { s with badger := { s.badger with
      helps := s.badger.helps ++ [h], peak := max s.badger.peak (s.reserved4k + h.accs.length) } }

theorem State.acceptRun_eq (s : State) (h : HelpRun) (r : Nat) :
    s.acceptRun h r = if (s.runHeld h).helperReady h r then (s.runHeld h).fillRun h r else s.runHeld h := by
  have hheld : (s.updBadger fun b => { b with helps := b.helps ++ [h] }).reserved4k = s.reserved4k + h.accs.length := by
    simp only [State.reserved4k, State.updBadger_badger, State.updBadger_audit, List.map_append, List.sum_append,
      List.map_cons, List.map_nil, List.sum_singleton]
    omega
  rw [State.acceptRun, hheld]
  rfl

/-! ## Copies -/

/-- A request of copies that the source cannot serve. -/
def State.copyBad (s : State) (k first count lost : Nat) : Prop := lost ≠ 0 ∨ (s.slot k).dcap < first + count ∨ count = 0

/-- The panels a request of copies asks for. -/
def copyPanels (first count : Nat) : List Nat := (List.range count).map (first + ·)

/-- The read of the copies asked for. -/
def State.copyRead (s : State) (i : Fin 64) (k first count : Nat) (flt : ReadFault) : State × Bool :=
  s.helperRead i flt (s.readAddrs k false (copyPanels first count))

/-- The run in whose name the source sends its copies. -/
def State.copyHelp (s : State) (i : Fin 64) (f : Rx) (k : Fin 16) (first count : Nat) : HelpRun :=
  let mslot : BitVec 4 := match (s.slot k.val).rep.rows.find? fun r => r.addr == f.src with | some r => r.mslot | none => 0
  { render := false, tidx := i, slot := k, requester := f.src, reqSlot := mslot, first := first, count := count, lost := 0
    epoch := f.epoch.toNat, parent := f.src, parentSlot := mslot, helpers := [0], pos := 0
    accs := (copyPanels first count).zipIdx.map fun p =>
      { i := p.2, bytes := s.ownPanel k.val false p.1, cmask := 1, owes := [] } }

/-- The digests of the copies sent. -/
def State.copyDigests (s : State) (i : Fin 64) (f : Rx) (k : Fin 16) (first count : Nat) : State :=
  s.sendDigests (s.copyHelp i f k first count) ((copyPanels first count).map fun p => s.ownDigest k.val false p)

theorem State.send_badger (s : State) (f : OutFrame) : (s.send f).badger = s.badger := by
  unfold State.send
  split
  · rfl
  · split <;> rfl

theorem State.copyHelp_bytes (s : State) (i : Fin 64) (f : Rx) (k : Fin 16) (first count : Nat) :
    (s.copyHelp i f k first count).accs.map (fun a => a.bytes) =
      (copyPanels first count).map fun p => s.ownPanel k.val false p := by
  rw [State.copyHelp, List.map_map]
  exact (List.map_map (f := Prod.fst) (g := fun p => s.ownPanel k.val false p)).symm.trans
    (congrArg _ (List.zipIdx_map_fst 0 _))

section
variable {s : State} {i : Fin 64} {f : Rx} {k : Fin 16} {first count lost : Nat} {donly : Bool} {flt : ReadFault}

theorem State.copyRequest_notServable (h : s.copyBad k.val first count lost) :
    s.copyRequest i f k first count lost donly flt = s.raise { code := 0xD6, tenant := f.tenant, detail := f.src.toNat } :=
  if_pos h

variable (hgood : ¬ s.copyBad k.val first count lost)
include hgood

theorem State.copyRequest_readFails (h : (s.copyRead i k.val first count flt).2 = true) :
    s.copyRequest i f k first count lost donly flt = (s.copyRead i k.val first count flt).1 := (if_neg hgood).trans (if_pos h)

variable (hread : (s.copyRead i k.val first count flt).2 = false)
include hread

theorem State.copyRequest_reserveFull (hdonly : donly = false) (h : Config.reservationUnits < s.reserved4k + count) :
    s.copyRequest i f k first count lost donly flt = s.count 0xD5 :=
  (if_neg hgood).trans ((if_neg (Bool.eq_false_iff.1 hread)).trans (if_pos (by simp [hdonly, h])))

theorem State.copyRequest_digests (hdonly : donly = true) :
    s.copyRequest i f k first count lost donly flt = s.copyDigests i f k first count := by
  subst hdonly
  exact (if_neg hgood).trans ((if_neg (Bool.eq_false_iff.1 hread)).trans (if_neg (by simp)))

theorem State.copyRequest_copies (hdonly : donly = false) (hfits : s.reserved4k + count ≤ Config.reservationUnits) :
    s.copyRequest i f k first count lost donly flt =
      (s.copyHelp i f k first count).accs.foldl (fun t a => t.send (t.partFrame (s.copyHelp i f k first count) a))
        ((s.copyDigests i f k first count).updBadger fun b => { b with
          peak := max b.peak ((s.copyDigests i f k first count).reserved4k + count) }) := by
  subst hdonly
  exact (if_neg hgood).trans ((if_neg (Bool.eq_false_iff.1 hread)).trans (if_neg (by simpa using hfits)))

end

/-! ## The statement -/

/-- Settles O35: a request by what it meets at the helper, an accepted run by its panels, copies by the source's read. -/
theorem badgerRequestRowsComplete : Obligations.BadgerRequestRowsComplete := by
  refine ⟨fun s f i donly flt hgood hzero hlen hepoch hknown hdonly hflt => ?_, fun s h r => ?_,
    fun s i f k first count lost donly flt => ⟨State.copyRequest_notServable, State.copyRequest_readFails,
      State.copyRequest_reserveFull, fun hgood hread hd => ?_, fun hgood hread hd hfits => ?_⟩⟩
  · have hrow := exec_requestRow hgood hzero hlen hepoch hknown hdonly hflt
    rw [requestRow] at hrow
    simp only [hrow, ← s.at_flt f.time, ← s.at_slot f.time]
    generalize s.at_ f.time = t
    refine ⟨fun h => congrArg _ (State.badgerRequest_off h), fun hon h => congrArg _ (State.badgerRequest_tableFull hon h),
      fun hon hroom h => congrArg _ (State.badgerRequest_copies hon hroom h),
      fun hon hroom hkind h => congrArg _ (State.badgerRequest_notServable hon hroom hkind h),
      fun h r hon hroom hkind hrun => ⟨fun hread => congrArg _ (State.badgerRequest_readFails hon hroom hkind hrun hread),
        fun hread hd => congrArg _ (State.badgerRequest_digests hon hroom hkind hrun hread hd),
        fun hread hd hfits => congrArg _ (State.badgerRequest_accepts hon hroom hkind hrun hread hd hfits),
        fun hread hd hfull => congrArg _ (State.badgerRequest_reserveFull hon hroom hkind hrun hread hd hfull)⟩⟩
  · rw [State.acceptRun_eq]
    exact ⟨fun h => if_pos h, fun h => if_neg (Bool.eq_false_iff.1 h)⟩
  · exact ⟨_, rfl, rfl, rfl, rfl, rfl, State.copyRequest_digests hgood hread hd⟩
  · refine ⟨_, _, rfl, rfl, rfl, rfl, rfl, rfl, s.copyHelp_bytes i f k first count, rfl, ?_,
      State.copyRequest_copies hgood hread hd hfits⟩
    simp only [State.updBadger_badger, State.copyDigests, State.sendDigests, State.send_badger]

end Sys2Proof.Machine

/-! # Parts, digests and completion records

A part by the accumulator or the run that takes it, a digest list by its run, a completion record at the job manager
(R264 to R267, R270). -/

namespace Sys2Proof.Machine

/-! ## A part -/

/-- The positions a part carries. -/
def partMask (f : Rx) : BitVec 36 := BitVec.ofNat 36 (tField f 23 36)

/-- The accumulator of this helper that a part belongs to. -/
def State.partHeld (s : State) (i : Fin 64) (f : Rx) (render : Bool) : Option (HelpRun × Nat × Nat) :=
  s.partFor i f (tField f 59 4) (tField f 0 23) (partMask f) render

/-- Whether a part may belong to a run of its requester. -/
def Run.takesPart (r : Run) (i : Fin 64) (f : Rx) (render : Bool) : Bool :=
  r.tidx == i && r.slot.val == tField f 59 4 && (r.kind == .render) == render && decide (r.epoch = f.epoch.toNat) && !r.donly &&
    r.partOk f.src (partMask f)

/-- Whether a panel of a run waits for a part. -/
def State.waitsPart (s : State) (f : Rx) (r : Run) (p : RunPanel) : Bool := s.runPanel r p.i == tField f 0 23 && p.part.isNone

/-- The panel of a run that a part belongs to. -/
def State.partOf (s : State) (i : Fin 64) (f : Rx) (render : Bool) (r : Run) : Option (Run × Nat) :=
  if r.takesPart i f render then (r.panels.find? (s.waitsPart f r)).map fun p => (r, p.i) else none

theorem Run.takesPart_iff (r : Run) (i : Fin 64) (f : Rx) (render : Bool) : r.takesPart i f render = true ↔
    r.tidx = i ∧ r.slot.val = tField f 59 4 ∧ (r.kind = .render ↔ render = true) ∧ r.epoch = f.epoch.toNat ∧ r.donly = false ∧
      r.partOk f.src (partMask f) = true := by
  have hkind : ((r.kind == .render) == render) = true ↔ (r.kind = .render ↔ render = true) := by
    rw [beq_iff_eq, Bool.eq_iff_iff, beq_iff_eq]
  simp only [Run.takesPart, Bool.and_eq_true, hkind, beq_iff_eq, decide_eq_true_eq, Bool.not_eq_true', and_assoc]

section
variable {s : State} {f : Rx} {i : Fin 64} {render : Bool}

theorem State.partOf_none {r : Run} (h : ¬ r.takesPart i f render = true ∨ ∀ p ∈ r.panels, s.waitsPart f r p = false) :
    s.partOf i f render r = none := by
  rcases h with h | h
  · exact if_neg h
  · have hnone : r.panels.find? (s.waitsPart f r) = none := List.find?_eq_none.2 fun p hp => Bool.eq_false_iff.1 (h p hp)
    rw [State.partOf, hnone, Option.map_none, ite_self]

theorem State.takePart_sealed (h : s.sealOver i f = true) : s.takePart i f render = s := if_pos h

variable (hopen : s.sealOver i f = false)
include hopen

theorem State.takePart_held {h : HelpRun} {j pos : Nat} (hheld : s.partHeld i f render = some (h, j, pos)) :
    let h' : HelpRun := { h with accs := h.accs.map fun a => if a.i = j then
      { a with bytes := xorBytes a.bytes f.payload, cmask := a.cmask ||| partMask f, owes := a.owes.filter (· != pos) } else a }
    s.takePart i f render =
      (s.updBadger fun b => { b with helps := b.helps.map fun x => if x = h then h' else x }).sendParts h' := by
  rw [State.partHeld, partMask] at hheld
  refine (if_neg (Bool.eq_false_iff.1 hopen)).trans ?_
  simp only [hheld]
  rfl

variable (hheld : s.partHeld i f render = none)
include hheld

theorem State.takePart_free : s.takePart i f render =
    match s.badger.runs.findSome? (s.partOf i f render) with
    | some (r, j) => s.updRunPanel r j fun p => { p with part := some f.payload }
    | none => s.count 0xD7 := by
  rw [State.partHeld, partMask] at hheld
  refine (if_neg (Bool.eq_false_iff.1 hopen)).trans ?_
  simp only [hheld]
  rfl

theorem State.takePart_run {r : Run} {p : RunPanel} {before after : List Run} (hruns : s.badger.runs = before ++ r :: after)
    (hbefore : ∀ x ∈ before, s.partOf i f render x = none) (hr : r.takesPart i f render = true)
    (hp : r.panels.find? (s.waitsPart f r) = some p) :
    s.takePart i f render = s.updRunPanel r p.i fun p => { p with part := some f.payload } := by
  have hfirst : s.partOf i f render r = some (r, p.i) := by rw [State.partOf, if_pos hr, hp]; rfl
  rw [State.takePart_free hopen hheld, hruns, List.findSome?_append, List.findSome?_eq_none_iff.2 hbefore, Option.none_or,
    List.findSome?_cons_of_isSome (by rw [hfirst]; rfl), hfirst]

theorem State.takePart_unmatched (h : ∀ x ∈ s.badger.runs, s.partOf i f render x = none) :
    s.takePart i f render = s.count 0xD7 := by
  rw [State.takePart_free hopen hheld, List.findSome?_eq_none_iff.2 h]

end

/-- The row of a part, of a rebuild or of a Render run. -/
def partRow (f : Rx) (render : Bool) : Instr := if render then .render f else .badgerPart f

theorem exec_partRow {s : State} {f : Rx} {i : Fin 64} {render : Bool} (hbit : f.t.getLsbD 63 = false) (hlen : f.len = 4096)
    (hknown : (s.at_ f.time).knownIn i (tField f 59 4) f.src = true) (hepoch : (s.at_ f.time).runEpochOk i f = true)
    (hgood : frameGood s f (if render then 0x62 else 0x41) i) (htr : f.tr = if render then 127 else 0) :
    exec (partRow f render) s = .next (((s.at_ f.time).takePart i f render).follow i) := by
  have hok2 : (!f.t.getLsbD 63) = true := by rw [hbit]; rfl
  cases render with
  | true =>
    exact congrArg _ (State.receive_good (fun s i => (s.takePart i f true).follow i) hgood hok2 (beq_iff_eq.2 hlen)
      (Bool.and_eq_true_iff.2 ⟨beq_iff_eq.2 htr, hepoch⟩) hknown)
  | false =>
    exact congrArg _ (State.receive_good (fun s i => (s.takePart i f false).follow i) hgood hok2 (beq_iff_eq.2 hlen)
      (Bool.and_eq_true_iff.2 ⟨beq_iff_eq.2 htr, hepoch⟩) hknown)

/-! ## A digest list -/

/-- Whether a panel has a digest of a helper. -/
def RunPanel.hasDigest (p : RunPanel) (h : Nat × Addr) : Bool := p.digs.any fun d => d.1 == h.1

/-- A run with a helper's digests in the panels that have none of it (R266). -/
def Run.withDigests (r : Run) (f : Rx) (h : Nat × Addr) : Run :=
  { r with panels := r.panels.map fun p => if p.hasDigest h then p else
      { p with digs := p.digs ++ [(h.1, BitVec.ofNat 64 (leField f.payload (8 * p.i) 8))] } }

/-- Each panel of a run judged, in the run as it then stands. -/
def State.judgeRun (s : State) (i : Fin 64) (f : Rx) (r : Run) : State :=
  (r.panels.map (·.i)).foldl (fun s j =>
    match s.runAt i (tField f 0 23) f.epoch.toNat with
    | some x => s.judgePanel x j
    | none => s) s

section
variable {s : State} {f : Rx} {i : Fin 64}

theorem State.takeDigests_sealed (h : s.sealOver i f = true) : s.takeDigests i f = s := if_pos h

variable (hopen : s.sealOver i f = false)
include hopen

theorem State.takeDigests_noRun (h : s.runAt i (tField f 0 23) f.epoch.toNat = none) : s.takeDigests i f = s.count 0xD7 := by
  refine (if_neg (Bool.eq_false_iff.1 hopen)).trans ?_
  simp only [h]

variable {r : Run} (hrun : s.runAt i (tField f 0 23) f.epoch.toNat = some r)
include hrun

theorem State.takeDigests_noHelper (h : r.helpers.find? (fun x => x.2 == f.src) = none) :
    s.takeDigests i f = s.count 0xD7 := by
  refine (if_neg (Bool.eq_false_iff.1 hopen)).trans ?_
  simp only [hrun, h]

variable {h : Nat × Addr} (hhelper : r.helpers.find? (fun x => x.2 == f.src) = some h)
include hhelper

theorem State.takeDigests_helper : s.takeDigests i f =
    if r.count ≠ tField f 23 10 || r.panels.all (·.hasDigest h) then s.count 0xD7
    else (s.updBadger fun b => { b with runs := b.runs.map fun x => if x = r then r.withDigests f h else x }).judgeRun i f
      (r.withDigests f h) := by
  refine (if_neg (Bool.eq_false_iff.1 hopen)).trans ?_
  simp only [hrun, hhelper]
  rfl

theorem State.takeDigests_stale (hstale : r.count ≠ tField f 23 10 ∨ r.panels.all (·.hasDigest h) = true) :
    s.takeDigests i f = s.count 0xD7 := by
  rw [State.takeDigests_helper hopen hrun hhelper]
  exact if_pos (by simpa using hstale)

theorem State.takeDigests_taken (hcount : r.count = tField f 23 10) (hnew : r.panels.all (·.hasDigest h) = false) :
    s.takeDigests i f = (s.updBadger fun b => { b with
      runs := b.runs.map fun x => if x = r then r.withDigests f h else x }).judgeRun i f (r.withDigests f h) := by
  rw [State.takeDigests_helper hopen hrun hhelper]
  exact if_neg (by simp [hcount, hnew])

end

theorem exec_digestXRebuild {s : State} {f : Rx} {i : Fin 64} (hgood : frameGood s f 0x52 i) (hform : digestOk2 f = true)
    (hseg : tField f 33 4 = 15) (hfirst : tField f 0 23 ≠ 0x7FFFFF) (hlen : f.payload.length = 8 * tField f 23 10)
    (hepoch : (s.at_ f.time).runEpochOk i f = true) :
    exec (.digestXRebuild f) s = .next (((s.at_ f.time).takeDigests i f).follow i) :=
  congrArg _ (State.receive_good _ hgood
    (Bool.and_eq_true_iff.2 ⟨Bool.and_eq_true_iff.2 ⟨hform, beq_iff_eq.2 hseg⟩, bne_iff_ne.2 hfirst⟩)
    (decide_eq_true hlen) hepoch rfl)

/-! ## A completion record -/

/-- The offer a job manager makes on behalf of a region's record (R270). -/
def recordOffer (f : Rx) (i : Fin 64) : Offer :=
  { ctx := leField f.payload 14 2, own := false, tidx := i, dst := f.src, epoch := leField f.payload 8 6
    t := BitVec.ofNat 64 (handoverT 1 (leField f.payload 14 2) (leField f.payload 24 4 % 2 ^ 24)), sent := 0
    payload := handoverPayload (leField f.payload 0 8) (leField f.payload 8 6) (BitVec.ofNat 64 (leField f.payload 16 8)) f.src
      (leField f.payload 28 4 % 2 ^ 23) (leField f.payload 28 4 / 2 ^ 23 % 4) }

/-- What a completion record does. -/
def State.takeRecord (s : State) (f : Rx) (i : Fin 64) : State :=
  if !s.isJobManager i then s
  else if (leField f.payload 24 4).testBit 24 then
    if (s.ten i).fox.replacing.any fun p => p.2 == f.src then s.updFox i fun x => { x with owed := addOnce (5, f.src, 0) x.owed }
    else s
  else s.beginOffer (recordOffer f i)

theorem State.updFox_ten_self (s : State) (i : Fin 64) (g : FoxS → FoxS) :
    (s.updFox i g).ten i = { s.ten i with fox := g (s.ten i).fox } := s.updTen_self i _

theorem State.updFox_ten_other (s : State) {i j : Fin 64} (h : j ≠ i) (g : FoxS → FoxS) : (s.updFox i g).ten j = s.ten j :=
  s.updTen_other _ _ _ h

section
variable {s : State} {f : Rx} {i : Fin 64}

theorem exec_completionRecord (hgood : frameGood s f 0x52 i) (hform : digestOk2 f = true) (hseg : tField f 33 4 = 15)
    (hfirst : tField f 0 23 = 0x7FFFFF) (hcount : tField f 23 10 = 4) (hlen : f.len = 32)
    (hpos : leField f.payload 28 4 < 2 ^ 25) (hlast : leField f.payload 24 4 < 2 ^ 25) (htr : f.tr = 0)
    (hepoch : (s.at_ f.time).runEpochOk i f = true) :
    exec (.completionRecord f) s = .next ((s.at_ f.time).takeRecord f i) := by
  refine congrArg _ (State.receive_good (fun s i => s.takeRecord f i) hgood ?_ (beq_iff_eq.2 hlen)
    (Bool.and_eq_true_iff.2 ⟨beq_iff_eq.2 htr, hepoch⟩) rfl)
  simp only [hform, hseg, hfirst, hcount, hpos, hlast, beq_self_eq_true, Bool.and_self, decide_true, Bool.or_true]

variable (hjob : s.isJobManager i = true)

theorem State.takeRecord_elsewhere (h : s.isJobManager i = false) : s.takeRecord f i = s := if_pos (by rw [h]; rfl)

include hjob

theorem State.takeRecord_region (h : (leField f.payload 24 4).testBit 24 = false) :
    s.takeRecord f i = s.beginOffer (recordOffer f i) :=
  (if_neg (by simp [hjob])).trans (if_neg (Bool.eq_false_iff.1 h))

variable (hlast : (leField f.payload 24 4).testBit 24 = true)
include hlast

theorem State.takeRecord_notTarget (h : ¬ ∃ p ∈ (s.ten i).fox.replacing, p.2 = f.src) : s.takeRecord f i = s :=
  (if_neg (by simp [hjob])).trans ((if_pos hlast).trans (if_neg (by simpa using h)))

theorem State.takeRecord_target (h : ∃ p ∈ (s.ten i).fox.replacing, p.2 = f.src) :
    s.takeRecord f i = s.updFox i fun x => { x with owed := addOnce (5, f.src, 0) x.owed } :=
  (if_neg (by simp [hjob])).trans ((if_pos hlast).trans (if_pos (by simpa using h)))

end

/-! ## The statement -/

/-- Settles O36: a part by what waits for it, a digest list by its run, a completion record by the job manager's target. -/
theorem badgerArrivalRowsComplete : Obligations.BadgerArrivalRowsComplete := by
  refine ⟨fun s f i render hbit hlen _ hknown hepoch hgood htr => ?_, fun s r j g => rfl,
    fun s f i hgood hform hseg hfirst hlen hepoch => ?_,
    fun s f i hgood hform hseg hfirst hcount hlen hpos hlast htr hepoch => ?_⟩
  · have hrow := exec_partRow hbit hlen hknown hepoch hgood htr
    rw [partRow] at hrow
    simp only [hrow]
    generalize s.at_ f.time = t
    have hother {x : Run} (h : ¬ _ ∨ _) : t.partOf i f render x = none :=
      State.partOf_none (h.imp_left (mt (x.takesPart_iff i f render).1))
    exact ⟨fun h => by rw [State.takePart_sealed h],
      fun h j pos hopen hheld => congrArg (fun u => Host.Outcome.next (State.follow u i)) (State.takePart_held hopen hheld),
      fun r p before after hopen hheld hruns hbefore hr hp => congrArg (fun u => Host.Outcome.next (State.follow u i))
        (State.takePart_run hopen hheld hruns (fun x hx => hother (hbefore x hx)) ((r.takesPart_iff i f render).2 hr) hp),
      fun hopen hheld hall => congrArg (fun u => Host.Outcome.next (State.follow u i))
        (State.takePart_unmatched hopen hheld fun x hx => hother (hall x hx))⟩
  · simp only [exec_digestXRebuild hgood hform hseg hfirst hlen hepoch]
    generalize s.at_ f.time = t
    exact ⟨fun h => by rw [State.takeDigests_sealed h], fun hopen h => by rw [State.takeDigests_noRun hopen h],
      fun r hopen hrun => ⟨fun h => by rw [State.takeDigests_noHelper hopen hrun h],
        fun h hhelper => ⟨fun hstale => by rw [State.takeDigests_stale hopen hrun hhelper hstale],
          fun hcount hnew => congrArg (fun u => Host.Outcome.next (State.follow u i))
            (State.takeDigests_taken hopen hrun hhelper hcount hnew)⟩⟩⟩
  · simp only [exec_completionRecord hgood hform hseg hfirst hcount hlen hpos hlast htr hepoch, ← s.at_ten f.time]
    generalize s.at_ f.time = t
    exact ⟨fun h => by rw [State.takeRecord_elsewhere h], fun hjob hl h => by rw [State.takeRecord_notTarget hjob hl h],
      fun hjob hl h => ⟨_, congrArg _ (State.takeRecord_target hjob hl h), rfl, t.updFox_ten_self i _,
        fun j hj => t.updFox_ten_other hj _⟩,
      fun hjob hl => ⟨recordOffer f i, congrArg _ (State.takeRecord_region hjob hl), rfl, rfl, rfl, rfl, rfl, rfl, rfl⟩⟩

end Sys2Proof.Machine

/-! # The rebuild engine

Starts, runs by DEPTH and HOLD, timeouts, repeats, RETRY and Render runs (R256, R261, R268, R270 to R272, R279). -/

namespace Sys2Proof.Machine

theorem State.updBg_ten_self (s : State) (i : Fin 64) (g : BgTenS → BgTenS) :
    (s.updBg i g).ten i = { s.ten i with bg := g (s.ten i).bg } := s.updTen_self i _

theorem State.updBg_ten_other (s : State) {i j : Fin 64} (h : j ≠ i) (g : BgTenS → BgTenS) : (s.updBg i g).ten j = s.ten j :=
  s.updTen_other _ _ _ h

/-! ## The start of a rebuild (R256) -/

/-- Whether a tenant's rebuild may start. -/
def State.badgerStarts (s : State) (i : Fin 64) : Bool :=
  (s.ten i).env.isSome && (s.ten i).bg.state == .setup && (s.ten i).bg.decided && (s.ten i).fox.self == .member &&
    decide (s.flt.mode = .normal) && !(s.usedSlots i).isEmpty && ((s.settSlots i).all fun k => (s.slot k).st != .forming) &&
    s.regionsStand i

theorem State.badgerStarts_iff (s : State) (i : Fin 64) : s.badgerStarts i = true ↔
    (s.ten i).env ≠ none ∧ (s.ten i).bg.state = .setup ∧ (s.ten i).bg.decided = true ∧ (s.ten i).fox.self = .member ∧
      s.flt.mode = .normal ∧ s.usedSlots i ≠ [] ∧ (∀ k ∈ s.settSlots i, (s.slot k).st ≠ .forming) ∧ s.regionsStand i = true := by
  simp only [State.badgerStarts, Bool.and_eq_true, Option.isSome_iff_ne_none, beq_iff_eq, decide_eq_true_eq, Bool.not_eq_true',
    List.isEmpty_eq_false_iff, List.all_eq_true, bne_iff_ne, and_assoc, ne_eq]

/-- A rebuild begun: state DEMAND, its regions to be filled. -/
def State.badgerStarted (s : State) (i : Fin 64) : State :=
  s.updBg i fun b => { b with state := .demand, filling := (s.entriesOf (s.tagOf i)).map (·.1) }

/-! ## The next run (R261, R264, R268, R272) -/

/-- A tenant for which Badger starts no run. -/
def State.runsOff (s : State) (i : Fin 64) : Bool :=
  (s.ten i).env.isNone || !s.badgerFree || (s.ten i).commit.vstate == .none || (s.ten i).fox.self == .fenced

theorem State.runsOff_iff (s : State) (i : Fin 64) : s.runsOff i = true ↔
    (s.ten i).env = none ∨ s.badgerFree = false ∨ (s.ten i).commit.vstate = .none ∨ (s.ten i).fox.self = .fenced := by
  simp only [State.runsOff, Bool.or_eq_true, Option.isNone_iff_eq_none, Bool.not_eq_true', beq_iff_eq, or_assoc]

/-- Whether a tenant's rebuild is under way. -/
def BgState.rebuilds (x : BgState) : Bool := x != .idle && x != .setup && x != .complete

/-- The runs Badger may start next for a tenant, in order. -/
def State.nextRuns (s s1 : State) (i : Fin 64) : List Run :=
  (s1.badger.wait.filter fun r => r.tidx == i && !s1.heldRun r) ++ (s1.nextRepair i).take 1 ++
    if (s.ten i).bg.state.rebuilds then (s1.nextRebuild i).take 1 else []

theorem BgState.rebuilds_iff (x : BgState) : x.rebuilds = true ↔ x ≠ .idle ∧ x ≠ .setup ∧ x ≠ .complete := by
  simp only [BgState.rebuilds, Bool.and_eq_true, bne_iff_ne, and_assoc]

section
variable {s : State} {i : Fin 64}

theorem exec_badgerRunRequest_off (h : s.runsOff i = true) : exec (.badgerRunRequest i) s = .next s := if_pos h

variable (hon : ¬ s.runsOff i = true)
include hon

theorem exec_badgerRunRequest_on : exec (.badgerRunRequest i) s = .next
    (match (s.dropRepairs i).firstRun ((s.nextRuns (s.dropRepairs i) i).filter (s.dropRepairs i).mayStart) with
      | some r => (s.dropRepairs i).startRun r
      | none => s.dropRepairs i) := if_neg hon

variable {rs : List Run} (hrs : s.nextRuns (s.dropRepairs i) i = rs)
include hrs

theorem exec_badgerRunRequest_none (h : (s.dropRepairs i).firstRun (rs.filter (s.dropRepairs i).mayStart) = none) :
    exec (.badgerRunRequest i) s = .next (s.dropRepairs i) := by
  rw [exec_badgerRunRequest_on hon, hrs, h]

theorem exec_badgerRunRequest_starts {r : Run}
    (h : (s.dropRepairs i).firstRun (rs.filter (s.dropRepairs i).mayStart) = some r) :
    exec (.badgerRunRequest i) s = .next ((s.dropRepairs i).startRun r) := by
  rw [exec_badgerRunRequest_on hon, hrs, h]

end

theorem State.nextRuns_eq {s s1 : State} {i : Fin 64} {rs : List Run}
    (hgoing : (s.ten i).bg.state.rebuilds = true →
      rs = (s1.badger.wait.filter fun r => r.tidx == i && !s1.heldRun r) ++ (s1.nextRepair i).take 1 ++ (s1.nextRebuild i).take 1)
    (hrest : ¬ (s.ten i).bg.state.rebuilds = true →
      rs = (s1.badger.wait.filter fun r => r.tidx == i && !s1.heldRun r) ++ (s1.nextRepair i).take 1) :
    s.nextRuns s1 i = rs := by
  by_cases h : (s.ten i).bg.state.rebuilds = true
  · rw [State.nextRuns, if_pos h, hgoing h]
  · rw [State.nextRuns, if_neg h, List.append_nil, hrest h]

/-! ## Timeouts (R271) -/

theorem State.rtoBadger_eq (s : State) : s.rtoBadger = 1000 * s.cfg.glob.rto := Nat.mul_comm _ _

section
variable {s : State}

theorem exec_badgerRtoTarget_none {i : Fin 64} {p : Nat}
    (h : (s.badger.runs.find? fun r => r.tidx == i && r.first == p) = none ∨ s.badgerWorks = false) :
    exec (.badgerRtoTarget i p) s = .next s := by
  simp only [exec, execBadgerRtoTarget]
  rcases h with h | h
  · rw [h]
  · cases s.badger.runs.find? fun r => r.tidx == i && r.first == p with
    | none => rfl
    | some r => exact congrArg _ (if_neg (Bool.eq_false_iff.1 h))

theorem exec_badgerRtoTarget_some {i : Fin 64} {p : Nat} {r : Run}
    (h : (s.badger.runs.find? fun r => r.tidx == i && r.first == p) = some r) (hworks : s.badgerWorks = true) :
    exec (.badgerRtoTarget i p) s =
      .next (((s.reach r.since (1000 * s.cfg.glob.rto)).rerequest r r.epoch).count 0xD8) := by
  simp only [exec, execBadgerRtoTarget, h, hworks, if_true, s.rtoBadger_eq]

theorem State.reach_badger (s : State) (since : BitVec 64) (ns : Nat) : (s.reach since ns).badger = s.badger := by
  rw [State.reach_frame]

theorem State.reach_audit (s : State) (since : BitVec 64) (ns : Nat) : (s.reach since ns).audit = s.audit := by
  rw [State.reach_frame]

theorem exec_badgerRtoHelper_run {n : Nat} {h : HelpRun} (hn : s.badger.helps[n]? = some h) :
    exec (.badgerRtoHelper n) s = .next { s.reach h.since (1000 * s.cfg.glob.rto) with
      badger := { s.badger with helps := s.badger.helps.eraseIdx n } } := by
  simp only [exec, execBadgerRtoHelper, hn, s.rtoBadger_eq, State.updBadger, State.reach_badger]

theorem exec_badgerRtoHelper_audit {n : Nat} {h : AuHelp} (hn : s.badger.helps[n]? = none)
    (haudit : s.audit.helps[n - s.badger.helps.length]? = some h) :
    exec (.badgerRtoHelper n) s = .next (State.follow { s.reach h.since (1000 * s.cfg.glob.rto) with
      audit := { s.audit with helps := s.audit.helps.eraseIdx (n - s.badger.helps.length) } } h.tidx) := by
  simp only [exec, execBadgerRtoHelper, hn, haudit, s.rtoBadger_eq, State.reach_audit]

theorem exec_badgerRtoHelper_none {n : Nat} (hn : s.badger.helps[n]? = none)
    (haudit : s.audit.helps[n - s.badger.helps.length]? = none) : exec (.badgerRtoHelper n) s = .next s := by
  simp only [exec, execBadgerRtoHelper, hn, haudit]

end

/-! ## Completion records repeated (R270) -/

/-- A completion record sent once more. -/
def State.recordAgain (s : State) (i : Fin 64) (r : Completion) : State :=
  (s.reach r.since 100000).updBg i fun b => { b with records := b.records.map fun x =>
    if x = r then { r with sent := r.sent + 1, since := (s.reach r.since 100000).time.now } else x }

/-- One record repeated, 0xDE once after 64 times. -/
def State.recordRepeated (s : State) (i : Fin 64) (r : Completion) : State :=
  (if r.sent = 64 then (s.recordAgain i r).raiseT i 0xDE else s.recordAgain i r).sendRecord i r

theorem State.recordAgain_eq (s : State) (i : Fin 64) (r : Completion) :
    ((s.reach r.since 100000).updBg i fun b => { b with records := b.records.map fun x =>
      if x = r then { x with sent := x.sent + 1, since := (s.reach r.since 100000).time.now } else x }) = s.recordAgain i r := by
  have hsame : (fun x : Completion =>
      if x = r then { x with sent := x.sent + 1, since := (s.reach r.since 100000).time.now } else x) =
      fun x => if x = r then { r with sent := r.sent + 1, since := (s.reach r.since 100000).time.now } else x := by
    funext x
    split
    case isTrue h => rw [h]
    case isFalse => rfl
  rw [hsame]
  rfl

theorem exec_completionRecordRepeat (s : State) (i : Fin 64) (ctx : Option Nat) : exec (.completionRecordRepeat i ctx) s =
    .next (((s.ten i).bg.records.filter fun r => r.ctx == ctx).foldl (fun s r => s.recordRepeated i r) s) := by
  simp only [exec, execCompletionRecordRepeat, State.recordRepeated, ← State.recordAgain_eq]

theorem State.recordAgain_tenants (s : State) (i : Fin 64) (r : Completion) :
    s.recordAgain i r = { s.reach r.since 100000 with tenants := (s.recordAgain i r).tenants } := rfl

theorem State.recordAgain_ten_self (s : State) (i : Fin 64) (r : Completion) : (s.recordAgain i r).ten i =
    { s.ten i with bg := { (s.ten i).bg with records := (s.ten i).bg.records.map fun x =>
      if x = r then { r with sent := r.sent + 1, since := (s.recordAgain i r).time.now } else x } } := by
  rw [State.recordAgain, State.updBg_ten_self, State.reach_ten]
  rfl

theorem State.recordAgain_ten_other (s : State) {i j : Fin 64} (r : Completion) (h : j ≠ i) :
    (s.recordAgain i r).ten j = s.ten j := by
  rw [State.recordAgain, State.updBg_ten_other _ h, State.reach_ten]

/-! ## RETRY (R267, R276) -/

theorem State.bgSettle_idle {s : State} {i : Fin 64} (h : (s.ten i).bg.state = .idle) : s.bgSettle i = s :=
  if_pos (by rw [h]; rfl)

theorem State.settleAll_idle {s : State} (l : List (Fin 64)) (h : ∀ i : Fin 64, (s.ten i).bg.state = .idle) :
    l.foldl (fun s i => s.bgSettle i) s = s := by
  induction l with
  | nil => rfl
  | cons i l ih => rw [List.foldl_cons, State.bgSettle_idle (h i), ih]

theorem exec_bgRetry_takes {s : State} {a : Acc} {hold : Bool} (h : windowTakes s a 0x5820) : exec (.bgRetry a hold) s =
    .next (tenantIdxs.foldl (fun s i => s.bgSettle i)
      { s.ok a.id with badger := { s.badger with hold := hold, unresolved := [] } }) := by
  simp only [exec, execBgRetry, State.window_takes _ _ h, State.updBadger, State.ok_badger]

/-! ## Render runs (R279 to R281) -/

/-- Whether a parity panel may be part of a Render run: in the slot, neither asked for nor rendered. -/
def State.renderFree (s : State) (k : Nat) (i : Fin 64) (p : Nat) : Bool :=
  decide (p < (s.slot k).sett.q) && !s.inRun k true p && !(s.ten i).rs.rendered.contains (k, p)

/-- Whether a Render run may start at the panel selected. -/
def State.renderMay (s : State) (r : RunSel) (i : Fin 64) : Prop :=
  (s.ten i).rs.sealing = true ∧ s.badgerFree = true ∧ (s.slot r.slot).kind = .sett ∧ s.renderFree r.slot i r.first = true ∧
    s.mayBegin r.slot true r.first = true

/-- The Render runs of the stretch that starts at the panel selected. -/
def State.renderRuns (s : State) (r : RunSel) (i : Fin 64) (h : r.slot < 16) : List Run :=
  let d := (s.slot r.slot).sett
  let n := ((List.range (max 1 s.cfg.glob.run)).takeWhile fun j => s.renderFree r.slot i (r.first + j * max 1 d.m)).length
  s.mkRuns i .render ⟨r.slot, h⟩ (d.k + r.first % max 1 d.m) (s.ten i).rs.boundary false n r.first n

section
variable {s : State} {r : RunSel}

theorem exec_renderRequest_noSlot (h : s.slotTenant r.slot = none ∨ 16 ≤ r.slot) : exec (.renderRequest r) s = .next s := by
  simp only [exec, execRenderRequest]
  cases hs : s.slotTenant r.slot with
  | none => rfl
  | some i => exact dif_neg (not_lt_of_ge (h.resolve_left (by simp [hs])))

variable {i : Fin 64} (h : r.slot < 16) (hs : s.slotTenant r.slot = some i)
include hs

theorem exec_renderRequest_slot : exec (.renderRequest r) s =
    if !(s.ten i).rs.sealing || !s.badgerFree || (s.slot r.slot).kind ≠ .sett || !s.renderFree r.slot i r.first ||
      !s.mayBegin r.slot true r.first then .next s
    else .next (((s.renderRuns r i h).take 1).foldl State.sendRun s) := by
  simp only [exec, execRenderRequest, hs]
  exact dif_pos h

include h

theorem exec_renderRequest_not (hnot : ¬ s.renderMay r i) : exec (.renderRequest r) s = .next s := by
  rw [exec_renderRequest_slot h hs]
  refine if_pos ?_
  simpa [State.renderMay, -not_and, not_and_or, or_assoc] using hnot

theorem exec_renderRequest_may (hmay : s.renderMay r i) :
    exec (.renderRequest r) s = .next (((s.renderRuns r i h).take 1).foldl State.sendRun s) := by
  obtain ⟨hseal, hfree, hkind, hpanel, hbegin⟩ := hmay
  rw [exec_renderRequest_slot h hs]
  exact if_neg (by simp [hseal, hfree, hkind, hpanel, hbegin])

theorem exec_renderRequest_noRun (hmay : s.renderMay r i) (hruns : s.renderRuns r i h = []) :
    exec (.renderRequest r) s = .next s := by
  rw [exec_renderRequest_may h hs hmay, hruns]
  rfl

theorem exec_renderRequest_run (hmay : s.renderMay r i) {run : Run} {rest : List Run}
    (hruns : s.renderRuns r i h = run :: rest) : exec (.renderRequest r) s = .next (s.sendRun run) := by
  rw [exec_renderRequest_may h hs hmay, hruns]
  rfl

end

/-! ## The statement -/

/-- Settles O38: each row of the engine by the condition it tests, the runs by their order, RETRY by the tenants that run. -/
theorem badgerEngineRowsComplete : Obligations.BadgerEngineRowsComplete := by
  refine ⟨fun s i => ?_, fun s i => ?_, fun s r => ⟨_, rfl, rfl, rfl⟩, fun s r => ⟨fun h => if_pos h, fun h => ?_⟩,
    fun s i p => ⟨exec_badgerRtoTarget_none, fun r => exec_badgerRtoTarget_some⟩, fun s n => ⟨fun h => ?_, fun h hn => ?_, ?_⟩,
    fun s i ctx => ⟨fun h => ?_, fun r h => ?_⟩, fun s a hold hp => ?_, fun s r => exec_renderRequest_noSlot, fun s r i h hs => ?_⟩
  · rw [← s.badgerStarts_iff i]
    exact ⟨fun h => congrArg _ (if_neg h), fun h => ⟨s.badgerStarted i, congrArg _ (if_pos h), rfl, s.updBg_ten_self i _,
      fun j hj => s.updBg_ten_other hj _⟩⟩
  · rw [← s.runsOff_iff i]
    exact ⟨exec_badgerRunRequest_off, fun rs hon ⟨hgoing, hrest⟩ =>
      have hrebuilds := BgState.rebuilds_iff (s.ten i).bg.state
      have hnext := State.nextRuns_eq (fun h => hgoing (hrebuilds.1 h)) fun h => hrest (mt hrebuilds.2 h)
      ⟨exec_badgerRunRequest_none hon hnext, fun r => exec_badgerRunRequest_starts hon hnext⟩⟩
  · exact if_neg (Bool.eq_false_iff.1 h)
  · exact exec_badgerRtoHelper_run
  · exact exec_badgerRtoHelper_audit (List.getElem?_eq_none hn)
  · exact fun hn => exec_badgerRtoHelper_none (List.getElem?_eq_none (by omega)) (List.getElem?_eq_none (by omega))
  · rw [exec_completionRecordRepeat, h, List.foldl_nil]
  · rw [exec_completionRecordRepeat, h, List.foldl_cons, List.foldl_nil]
    exact ⟨s.recordAgain i r, s.recordAgain_tenants i r, s.recordAgain_ten_self i r, fun j => s.recordAgain_ten_other r,
      fun h => congrArg (fun t => Host.Outcome.next (State.sendRecord t i r)) (if_neg h),
      fun h => congrArg (fun t => Host.Outcome.next (State.sendRecord t i r)) (if_pos h)⟩
  · refine ⟨fun h => congrArg _ (State.window_refuses _ hp ?_), fun h => ?_, fun h hidle => ?_⟩
    · rwa [not_and_or, Bool.not_eq_true, Bool.not_eq_true] at h
    · exact exec_bgRetry_takes ⟨hp, h⟩
    · rw [exec_bgRetry_takes ⟨hp, h⟩, State.settleAll_idle]
      exact hidle
  · exact ⟨exec_renderRequest_not h hs, exec_renderRequest_noRun h hs, fun run rest hmay hruns =>
      exec_renderRequest_run h hs hmay hruns⟩

end Sys2Proof.Machine

/-! # The commands of MNL_RS_CMD

Each command by the RESULT its check gives: taken with RESULT OK, or refused with it (R282, R285, R292, R295, R296). -/

namespace Sys2Proof.Machine

theorem State.updRs_ten_self (s : State) (i : Fin 64) (g : RsTenS → RsTenS) :
    (s.updRs i g).ten i = { s.ten i with rs := g (s.ten i).rs } := s.updTen_self i _

theorem State.updRs_ten_other (s : State) {i j : Fin 64} (h : j ≠ i) (g : RsTenS → RsTenS) : (s.updRs i g).ten j = s.ten j :=
  s.updTen_other _ _ _ h

/-! ## A command by its RESULT -/

/-- Whether the writer may command the tenant selected. -/
def State.rsTagOk (s : State) (a : Acc) (i : Fin 64) : Prop := (fromSystem a = true ∨ a.tag = s.tagOf i) ∧ (s.ten i).env ≠ none

/-- A command refused with a RESULT. -/
def State.rsRefused (s : State) (a : Acc) (i : Fin 64) (r : Byte) : State :=
  State.refuse (s.updRs i fun x => { x with result := r }) a.id 0x5A08

/-- A command taken: RESULT OK, its code kept. -/
def State.rsTaken (s : State) (a : Acc) (i : Fin 64) (op : BitVec 4) : State :=
  { State.ok (s.updRs i fun x => { x with result := 0 }) a.id with rs := { s.rs with op := op } }

theorem State.rsTaken_ten_self (s : State) (a : Acc) (i : Fin 64) (op : BitVec 4) :
    (s.rsTaken a i op).ten i = { s.ten i with rs := { (s.ten i).rs with result := 0 } } :=
  s.updRs_ten_self i fun x => { x with result := 0 }

theorem State.rsTaken_entriesOf (s : State) (a : Acc) (i : Fin 64) (op : BitVec 4) :
    (s.rsTaken a i op).entriesOf ((s.rsTaken a i op).tagOf i) = s.entriesOf (s.tagOf i) := by
  have htag : (s.rsTaken a i op).tagOf i = s.tagOf i := by rw [State.tagOf, State.rsTaken_ten_self]; rfl
  rw [htag]
  rfl

section
variable {s : State} {a : Acc} {op : BitVec 4} {i : Fin 64} {check : State → Fin 64 → Nat} {f : State → Fin 64 → State}
  (hp : s.portsUp = true)
include hp

theorem State.rsCmd_shut (hshut : s.windowOpen 0x5A08 = false) : s.rsCmd a op check f = .next (s.refuse a.id 0x5A08) := by
  simp [State.rsCmd, hp, hshut]

variable (hopen : s.windowOpen 0x5A08 = true) (hi : i = Fin.ofNat 64 s.regs.tsel.toNat)
include hopen hi

theorem State.rsCmd_foreign (h : ¬ s.rsTagOk a i) : s.rsCmd a op check f = .next (s.rsRefused a i 2) := by
  have hforeign : (!(fromSystem a || (a.tag == s.tagOf i && (s.ten i).env.isSome)) || (s.ten i).env.isNone) = true := by
    cases henv : (s.ten i).env with
    | none => simp
    | some e =>
      have hnot : ¬ (fromSystem a = true ∨ a.tag = s.tagOf i) := fun ht => h ⟨ht, by simp [henv]⟩
      simpa [not_or] using hnot
  simp only [State.rsCmd, hp, hopen, ← hi, hforeign]
  rfl

variable (htag : s.rsTagOk a i)
include htag

theorem State.rsCmd_own : s.rsCmd a op check f =
    if check s i = 0 then
      .next (f { State.ok (s.updRs i fun x => { x with result := BitVec.ofNat 8 (check s i) }) a.id with
        rs := { s.rs with op := op } } i)
    else .next (s.rsRefused a i (BitVec.ofNat 8 (check s i))) := by
  obtain ⟨ht, henv⟩ := htag
  have hown : (!(fromSystem a || (a.tag == s.tagOf i && (s.ten i).env.isSome)) || (s.ten i).env.isNone) = false := by
    obtain ⟨e, he⟩ := Option.ne_none_iff_exists'.1 henv
    simpa [he, or_iff_not_imp_left] using ht
  simp only [State.rsCmd, hp, hopen, ← hi, hown]
  rfl

theorem State.rsCmd_taken (h : check s i = 0) : s.rsCmd a op check f = .next (f (s.rsTaken a i op) i) := by
  rw [State.rsCmd_own hp hopen hi htag, if_pos h, h]
  rfl

theorem State.rsCmd_refused {r : Nat} (h : check s i = r) (hr : r ≠ 0) :
    s.rsCmd a op check f = .next (s.rsRefused a i (BitVec.ofNat 8 r)) := by
  rw [State.rsCmd_own hp hopen hi htag, h, if_neg hr]

end

/-! ## The commands -/

/-- The RESULT of a SEAL. -/
def State.sealResult (s : State) (i : Fin 64) : Nat :=
  if (s.ten i).rs.state = .idle ∧ (s.ten i).commit.vstate = .none ∧ !(s.usedSlots i).isEmpty then 0 else 1

theorem exec_rsSeal (a : Acc) (s : State) : exec (.rsSeal a) s = s.rsCmd a 1 State.sealResult fun s i =>
    ((s.updRs i fun r => { r with
      state := .sealing, first := true, joiner := false, boundary := 0, rendered := [] }).enterSeal i).follow i := rfl

/-- The RESULT of a DISARM. -/
def State.disarmResult (s : State) (i : Fin 64) : Nat := if (s.ten i).rs.state = .armed then 0 else 1

theorem exec_rsDisarm (a : Acc) (s : State) : exec (.rsDisarm a) s = s.rsCmd a 5 State.disarmResult fun s i =>
    (s.updRs i fun r => { r with state := .idle, joiner := false, sources := [] }).updCommit i fun c => { c with
      stagedTree := none } := rfl

/-- The RESULT of a TEARDOWN. -/
def State.teardownResult (s : State) (i : Fin 64) : Nat :=
  if (s.ten i).rs.state = .teardown ∨ (s.ten i).rs.state = .quiet then 1 else 0

theorem exec_teardown (a : Acc) (s : State) :
    exec (.teardown a) s = s.rsCmd a 3 State.teardownResult fun s i => (s.tearDown i).unpark := rfl

/-- Whether an ARM is admitted where the capability is there. -/
def State.rsArms (s : State) (i : Fin 64) : Prop :=
  (s.ten i).rs.state = .idle ∧ s.loader.shadowState ≠ .armed ∧ ∀ m ∈ s.rs.moves.toList, m.valid = true →
    ∃ e : Entry, s.entry m.ctx.toNat = some e ∧ e.tenant = s.tagOf i ∧ e.state = .active

/-- Whether an ARM makes its tenant a joiner. -/
def State.rsJoins (s : State) (i : Fin 64) : Bool :=
  (s.ten i).rs.new_ && (s.ten i).commit.vstate == .none && !(s.entriesOf (s.tagOf i)).any fun p => p.2.state == .active

/-- The move list holds a move of an entry that is not the tenant's ACTIVE one. -/
def State.movesForeign (s : State) (i : Fin 64) : Bool :=
  s.rs.moves.toList.any fun m => m.valid &&
    (match s.entry m.ctx.toNat with | some e => e.tenant != s.tagOf i || e.state != .active | none => true)

/-- A tenant armed. -/
def State.rsArmed (s : State) (i : Fin 64) (joins : Bool) : State :=
  s.updRs i fun r => { r with state := .armed, joiner := joins, first := false, sources := [], dests := [] }

/-- The RESULT of an ARM. -/
def State.armResult (s : State) (i : Fin 64) : Nat :=
  if !s.cap 7 then 3
  else if (s.ten i).rs.state ≠ .idle ∨ s.loader.shadowState = .armed ∨ s.movesForeign i then 1 else 0

theorem exec_rsArm (a : Acc) (s : State) : exec (.rsArm a) s = s.rsCmd a 2 State.armResult fun s i =>
    if s.rsJoins i then (s.rsArmed i (s.rsJoins i)).updFox i fun f => { f with
      gen := ((s.rsArmed i (s.rsJoins i)).ten i).rs.armGen, self := .member }
    else s.rsArmed i (s.rsJoins i) := rfl

/-- Whether the region of an EXPORT is one the tenant may export. -/
def State.exportMine (s : State) (i : Fin 64) (e : Entry) : Prop :=
  e.state = .active ∧ e.tenant = s.tagOf i ∧ s.rs.running = none

/-- Whether the panels and the destination of an EXPORT fit. -/
def State.exportFits (s : State) (e : Entry) : Prop :=
  s.rs.xcount.toNat ≠ 0 ∧ s.rs.xfirst.toNat + s.rs.xcount.toNat ≤ e.lenp ∧
    s.rangeOk 5 s.rs.xdst.toNat (64 + 4104 * s.rs.xcount.toNat) = true

/-- The RESULT of an EXPORT. -/
def State.exportResult (s0 s : State) (i : Fin 64) : Nat :=
  if !s.cap 7 then 3
  else
    match s.entry s0.rs.xctx.toNat with
    | none => 1
    | some e =>
      if e.state ≠ .active ∨ e.tenant ≠ s.tagOf i ∨ s.rs.running.isSome then 1
      else if s0.rs.xcount.toNat = 0 ∨ e.lenp < s0.rs.xfirst.toNat + s0.rs.xcount.toNat ∨
        !s.rangeOk 5 s0.rs.xdst.toNat (64 + 4104 * s0.rs.xcount.toNat) then 4 else 0

/-- The export under way that a command begins. -/
def State.exportBegun (s0 s : State) (i : Fin 64) : State :=
  { s with rs := { s.rs with running := some {
      tidx := i, ctx := s0.rs.xctx.toNat, first := s0.rs.xfirst.toNat, count := s0.rs.xcount.toNat, dst := s0.rs.xdst.toNat
      epoch := (s.ten i).commit.committed } } }

theorem exec_export (a : Acc) (s : State) : exec (.export_ a) s = s.rsCmd a 4 s.exportResult s.exportBegun := rfl

theorem exec_rsCommand {a : Acc} {c : Instr} (h : c ∈ [Instr.rsSeal a, .rsArm a, .teardown a, .export_ a, .rsDisarm a])
    (s : State) : ∃ (op : BitVec 4) (check : State → Fin 64 → Nat) (f : State → Fin 64 → State),
      exec c s = s.rsCmd a op check f := by
  simp only [List.mem_cons, List.not_mem_nil, or_false] at h
  rcases h with rfl | rfl | rfl | rfl | rfl
  · exact ⟨_, _, _, exec_rsSeal a s⟩
  · exact ⟨_, _, _, exec_rsArm a s⟩
  · exact ⟨_, _, _, exec_teardown a s⟩
  · exact ⟨_, _, _, exec_export a s⟩
  · exact ⟨_, _, _, exec_rsDisarm a s⟩

section
variable {s : State} {i : Fin 64}

theorem State.movesForeign_iff : s.movesForeign i = false ↔ ∀ m ∈ s.rs.moves.toList, m.valid = true →
    ∃ e : Entry, s.entry m.ctx.toNat = some e ∧ e.tenant = s.tagOf i ∧ e.state = .active := by
  rw [State.movesForeign, List.any_eq_false]
  refine forall₂_congr fun m _ => ?_
  cases m.valid with
  | false => simp
  | true => cases hentry : s.entry m.ctx.toNat <;> simp

theorem State.armResult_taken (hcap : s.cap 7 = true) (h : s.rsArms i) : s.armResult i = 0 := by
  obtain ⟨hidle, hshadow, hmoves⟩ := h
  simp [State.armResult, hcap, hidle, hshadow, State.movesForeign_iff.2 hmoves]

theorem State.armResult_refused (hcap : s.cap 7 = true) (h : ¬ s.rsArms i) : s.armResult i = 1 := by
  rw [State.armResult, hcap, if_neg (by simp)]
  refine if_pos ?_
  rw [State.rsArms, ← State.movesForeign_iff] at h
  simpa [not_and_or, -not_and] using h

theorem State.rsJoins_iff : s.rsJoins i = true ↔ (s.ten i).rs.new_ = true ∧ (s.ten i).commit.vstate = .none ∧
    ∀ p ∈ s.entriesOf (s.tagOf i), p.2.state ≠ .active := by
  simp [State.rsJoins, and_assoc]

theorem State.rsTaken_joins (a : Acc) (op : BitVec 4) : (s.rsTaken a i op).rsJoins i = s.rsJoins i := by
  rw [State.rsJoins, State.rsTaken_entriesOf, State.rsTaken_ten_self]
  rfl

theorem State.rsArmed_armGen (a : Acc) (op : BitVec 4) (joins : Bool) :
    (((s.rsTaken a i op).rsArmed i joins).ten i).rs.armGen = (s.ten i).rs.armGen := by
  rw [State.rsArmed, State.updRs_ten_self, State.rsTaken_ten_self]

theorem State.exportResult_free (hcap : s.cap 7 = true) (h : s.entry s.rs.xctx.toNat = none) : s.exportResult s i = 1 := by
  simp only [State.exportResult, hcap, h]
  rfl

variable {e : Entry} (hcap : s.cap 7 = true) (he : s.entry s.rs.xctx.toNat = some e)
include hcap he

theorem State.exportResult_foreign (h : ¬ s.exportMine i e) : s.exportResult s i = 1 := by
  simp only [State.exportResult, hcap, he]
  refine (if_neg (by simp)).trans (if_pos ?_)
  simpa [State.exportMine, not_and_or, -not_and, Option.isSome_iff_ne_none] using h

variable (hmine : s.exportMine i e)
include hmine

theorem State.exportResult_mine : s.exportResult s i =
    if s.rs.xcount.toNat = 0 ∨ e.lenp < s.rs.xfirst.toNat + s.rs.xcount.toNat ∨
      !s.rangeOk 5 s.rs.xdst.toNat (64 + 4104 * s.rs.xcount.toNat) then 4 else 0 := by
  obtain ⟨hactive, htenant, hfree⟩ := hmine
  simp only [State.exportResult, hcap, he]
  exact (if_neg (by simp)).trans (if_neg (by simp [hactive, htenant, hfree]))

theorem State.exportResult_range (h : ¬ s.exportFits e) : s.exportResult s i = 4 := by
  rw [State.exportResult_mine hcap he hmine]
  refine if_pos ?_
  rw [State.exportFits, not_and_or, not_and_or, not_le, not_ne_iff, Bool.not_eq_true] at h
  rwa [Bool.not_eq_true']

theorem State.exportResult_taken (h : s.exportFits e) : s.exportResult s i = 0 := by
  obtain ⟨hcount, hlen, hrange⟩ := h
  rw [State.exportResult_mine hcap he hmine]
  exact if_neg (by simp [hrange]; omega)

end

/-! ## The statement -/

/-- Settles O42: each command by the RESULT of its check, with what it does where that is OK. -/
theorem resliceCommandRowsComplete : Obligations.ResliceCommandRowsComplete := by
  refine ⟨fun s a hp hshut c hc => ?_, fun s a i hp hopen hi => ⟨fun htag c hc => ?_, fun htag => ?_⟩⟩
  · obtain ⟨op, check, f, hexec⟩ := exec_rsCommand hc s
    rw [hexec, State.rsCmd_shut hp hshut]
  · obtain ⟨op, check, f, hexec⟩ := exec_rsCommand hc s
    rw [hexec, State.rsCmd_foreign hp hopen hi htag]
    rfl
  · refine ⟨⟨fun h => ?_, fun h => ?_⟩, ⟨fun hcap => ?_, fun hcap h => ?_, fun hcap h hjoins => ?_, fun hcap h hjoins => ?_⟩,
      fun h => ?_, fun h => ?_, fun ht hq => ?_, fun h => ?_, fun hcap => ?_, fun hcap he => ?_,
      fun e hcap he => ⟨fun h => ?_, fun hmine h => ?_, fun hmine h => ?_⟩⟩
    · exact (exec_rsSeal a s).trans (State.rsCmd_taken hp hopen hi htag (if_pos (by simpa using h)))
    · exact (exec_rsSeal a s).trans (State.rsCmd_refused hp hopen hi htag (if_neg (by simpa using h)) one_ne_zero)
    · exact (exec_rsArm a s).trans
        (State.rsCmd_refused hp hopen hi htag (if_pos (by rw [hcap]; rfl)) three_ne_zero)
    · exact (exec_rsArm a s).trans (State.rsCmd_refused hp hopen hi htag (State.armResult_refused hcap h) one_ne_zero)
    · have hno : s.rsJoins i = false := Bool.eq_false_iff.2 (mt State.rsJoins_iff.1 hjoins)
      rw [exec_rsArm, State.rsCmd_taken hp hopen hi htag (State.armResult_taken hcap h), State.rsTaken_joins, hno]
      rfl
    · rw [exec_rsArm, State.rsCmd_taken hp hopen hi htag (State.armResult_taken hcap h), State.rsTaken_joins,
        State.rsJoins_iff.2 hjoins, if_pos rfl, State.rsArmed_armGen]
      rfl
    · exact (exec_rsDisarm a s).trans (State.rsCmd_taken hp hopen hi htag (if_pos h))
    · exact (exec_rsDisarm a s).trans (State.rsCmd_refused hp hopen hi htag (if_neg h) one_ne_zero)
    · exact (exec_teardown a s).trans (State.rsCmd_taken hp hopen hi htag (if_neg (not_or.2 ⟨ht, hq⟩)))
    · exact (exec_teardown a s).trans (State.rsCmd_refused hp hopen hi htag (if_pos h) one_ne_zero)
    · exact (exec_export a s).trans
        (State.rsCmd_refused hp hopen hi htag (if_pos (by rw [hcap]; rfl)) three_ne_zero)
    · exact (exec_export a s).trans (State.rsCmd_refused hp hopen hi htag (State.exportResult_free hcap he) one_ne_zero)
    · exact (exec_export a s).trans
        (State.rsCmd_refused hp hopen hi htag (State.exportResult_foreign hcap he h) one_ne_zero)
    · exact (exec_export a s).trans
        (State.rsCmd_refused hp hopen hi htag (State.exportResult_range hcap he hmine h) four_ne_zero)
    · rw [exec_export, State.rsCmd_taken hp hopen hi htag (State.exportResult_taken hcap he hmine h), State.exportBegun,
        State.rsTaken_ten_self]
      rfl

end Sys2Proof.Machine

/-! # The end of an export

The stream in memory where every digest agrees, RESULT READ where a read or a digest fails (R295, R304). -/

namespace Sys2Proof.Machine

/-- The state with no export under way. -/
def State.exportOver (s : State) : State := { s with rs := { s.rs with running := none } }

/-- An export that ends with RESULT READ. -/
def State.exportFails (s : State) (x : Export) : State := (s.updRs x.tidx fun r => { r with result := 5 }).follow x.tidx

/-- Bytes written to the stack, and RESULT OK of a tenant. -/
def State.exportStands (s : State) (x : Export) (bytes : List Byte) : State :=
  (s.putBytes x.dst bytes).updRs x.tidx fun r => { r with result := 0 }

/-- The end of an export by what its read finds (R295, R304). -/
def State.exportRead (s : State) (x : Export) (e : Entry) (flt : ReadFault) : State :=
  match flt with
  | .stack a =>
    ((s.raise { code := 0x39, tenant := s.tagOf x.tidx, detail := a.toNat }).queueRepairAt a.toNat).exportFails x
  | .digestWord => ((s.raiseT x.tidx 0xF1).digestFail (e.panelAddr x.first (s.panelRec e x.first).c)).exportFails x
  | _ =>
    match s.exportBad x e with
    | some a => (s.digestFail a).exportFails x
    | none => ((s.exportStands x (s.exportStream x e)).raiseT x.tidx 0xE8).follow x.tidx

/-- The end of an export of a region. -/
def State.exportEnds (s : State) (x : Export) (flt : ReadFault) : State :=
  match s.entry x.ctx with
  | none => s.exportFails x
  | some e => if e.state ≠ .active then s.exportFails x else s.exportRead x e flt

theorem State.length_exportStream (s : State) (x : Export) (e : Entry) : (s.exportStream x e).length = 64 + 4104 * x.count := by
  have hbank (p : Nat) : (s.bankC e p).length = 4096 := length_readN ..
  simp only [State.exportStream, List.length_append, List.length_flatMap, length_leBytes, hbank, List.map_const', List.sum_replicate,
    List.length_map, List.length_range, smul_eq_mul]
  omega

theorem execExportComplete_eq (flt : ReadFault) (s : State) : execExportComplete flt s =
    match s.rs.running with
    | none => .next s
    | some x => .next (s.exportOver.exportEnds x flt) := by
  unfold execExportComplete
  cases s.rs.running with
  | none => rfl
  | some x =>
    dsimp only
    unfold State.exportEnds
    show (match s.exportOver.entry x.ctx with | none => _ | some e => _) = _
    cases s.exportOver.entry x.ctx with
    | none => rfl
    | some e =>
      show (if e.state ≠ .active then _ else _) = Host.Outcome.next (if e.state ≠ .active then _ else _)
      split
      · rfl
      · unfold State.exportRead
        cases flt with
        | stack a => rfl
        | digestWord => rfl
        | _ =>
          dsimp only
          show (match s.exportOver.exportBad x e with | some a => _ | none => _) = _
          cases s.exportOver.exportBad x e with
          | none => rfl
          | some a => rfl

theorem exec_exportComplete {s : State} {x : Export} (hx : s.rs.running = some x) (flt : ReadFault) :
    exec (.exportComplete flt) s = .next (s.exportOver.exportEnds x flt) := by
  rw [exec, execExportComplete_eq, hx]

section
variable {s : State} {x : Export} {flt : ReadFault}

theorem State.exportEnds_inactive (h : ∀ e : Entry, s.entry x.ctx = some e → e.state ≠ .active) :
    s.exportEnds x flt = s.exportFails x := by
  rw [State.exportEnds]
  cases he : s.entry x.ctx with
  | none => rfl
  | some e => exact if_pos (h e he)

variable {e : Entry}

theorem State.exportEnds_active (he : s.entry x.ctx = some e) (hactive : e.state = .active) :
    s.exportEnds x flt = s.exportRead x e flt := by
  rw [State.exportEnds, he]
  exact if_neg (not_not.2 hactive)

variable (hdigest : flt ≠ .digestWord) (hstack : ∀ a : BitVec 36, flt ≠ .stack a)
include hdigest hstack

theorem State.exportRead_bad {a : Nat} (h : s.exportBad x e = some a) :
    s.exportRead x e flt = (s.digestFail a).exportFails x := by
  unfold State.exportRead
  cases flt with
  | stack a => exact absurd rfl (hstack a)
  | digestWord => exact absurd rfl hdigest
  | _ => rw [h]

theorem State.exportRead_good (h : s.exportBad x e = none) :
    s.exportRead x e flt = ((s.exportStands x (s.exportStream x e)).raiseT x.tidx 0xE8).follow x.tidx := by
  unfold State.exportRead
  cases flt with
  | stack a => exact absurd rfl (hstack a)
  | digestWord => exact absurd rfl hdigest
  | _ => rw [h]

end

/-! ## The stream in memory -/

section
variable {s : State} {x : Export} {bytes : List Byte}

theorem State.exportStands_frame : s.exportOver.exportStands x bytes = { s with
    mem := (s.exportOver.exportStands x bytes).mem, tenants := (s.exportOver.exportStands x bytes).tenants
    rs := { s.rs with running := none } } := rfl

variable (hmem : s.memWf = true) (hfit : x.dst + bytes.length ≤ Config.stackBytes)
include hmem hfit

theorem State.exportStands_bytes : (s.exportStands x bytes).bytesAt x.dst bytes.length = bytes :=
  State.bytesAt_putBytes_self (State.rising_of_memWf hmem) hfit

theorem State.exportStands_apart {b : Nat} (h : b < x.dst ∨ x.dst + bytes.length ≤ b) :
    Mem.read (s.exportStands x bytes).mem b = Mem.read s.mem b :=
  State.read_putBytes_other (State.rising_of_memWf hmem) hfit h

end

/-! ## The statement -/

/-- Settles O43: an export's end by its region, its read and its digests, the stream by what a write of bytes leaves. -/
theorem exportCompletes : Obligations.ExportCompletes := by
  refine ⟨fun s flt h => ?_, fun s x e hx he hactive hgood hmem hfit flt hdigest hstack => ?_, fun s x hx =>
    ⟨fun flt h => ?_, fun e he hactive => ⟨fun a flt hbad hdigest hstack => ?_, fun a => ?_, ?_⟩⟩⟩
  · rw [exec, execExportComplete_eq, h]
  · have hexec := exec_exportComplete hx flt
    rw [State.exportEnds_active (s := s.exportOver) he hactive, State.exportRead_good (s := s.exportOver) hdigest hstack hgood] at hexec
    rw [← s.length_exportStream x e] at hfit
    generalize hbytes : s.exportStream x e = bytes at *
    rw [show s.exportOver.exportStream x e = bytes from hbytes] at hexec
    exact ⟨s.exportOver.exportStands x bytes, hexec, State.exportStands_frame,
      State.exportStands_bytes (s := s.exportOver) hmem hfit, fun b => State.exportStands_apart (s := s.exportOver) hmem hfit,
      State.updRs_ten_self _ _ _, fun j hj => State.updRs_ten_other _ hj _⟩
  · rw [exec_exportComplete hx, State.exportEnds_inactive (s := s.exportOver) h]
    rfl
  · rw [exec_exportComplete hx, State.exportEnds_active (s := s.exportOver) he hactive,
      State.exportRead_bad (s := s.exportOver) hdigest hstack hbad]
    rfl
  · rw [exec_exportComplete hx, State.exportEnds_active (s := s.exportOver) he hactive]
    rfl
  · rw [exec_exportComplete hx, State.exportEnds_active (s := s.exportOver) he hactive]
    rfl

end Sys2Proof.Machine

/-! # The frames of a reslice boundary

Counts and their answers, DONE, RESEND, SEALED and CANCEL by their PHASE, and the panel of a MOVE (R286 to R290). -/

namespace Sys2Proof.Machine

/-! ## Frames of type 0x60 -/

section
variable {s : State} {f : Rx} {i : Fin 64} {phase : BitVec 7}

theorem State.receive_count {ok7 : State → Fin 64 → Bool} (k : State → Fin 64 → State) (hgood : frameGood s f 0x60 i)
    (hzero : tField f 32 32 = 0) (hlen : f.len = 0) (hphase : f.tr = phase) (hok : ok7 (s.at_ f.time) i = true) :
    s.receive f (countCheck f phase ok7) k = k (s.at_ f.time) i :=
  State.receive_good k hgood (Bool.and_eq_true_iff.2 ⟨beq_iff_eq.2 hphase, beq_iff_eq.2 hzero⟩) (beq_iff_eq.2 hlen) hok rfl

/-- Whether a COUNT is noted: at the boundary, or before the own one of an instance armed for it. -/
def State.countTaken (s : State) (i : Fin 64) (f : Rx) : Prop := s.boundaryOk i f = true ∨ s.armedFor i f = true

/-- A COUNT noted and answered (R287). -/
def State.countNoted (s : State) (i : Fin 64) (f : Rx) : State :=
  (((s.noteSource i f.src (tField f 0 32)).answerDone i f.src).syncBoundary i).follow i

/-- What a COUNT does. -/
def State.takeCount (s : State) (i : Fin 64) (f : Rx) : State :=
  if s.boundaryOk i f || s.armedFor i f then
    (if (s.ten i).rs.state = .armed ∧ (s.ten i).rs.joiner then
      (s.updRs i fun r => { r with boundary := f.epoch.toNat }).enterBoundary i else s).countNoted i f
  else if (s.ten i).rs.lastSeal = some f.epoch.toNat then s.answerCount i f.src f.epoch.toNat 3 0
  else s.answerCount i f.src f.epoch.toNat 4 0

/-- Whether check 7 takes a COUNT. -/
def State.countOk (s : State) (i : Fin 64) (f : Rx) : Bool :=
  s.boundaryOk i f || s.armedFor i f || (s.ten i).rs.lastSeal == some f.epoch.toNat ||
    ((s.ten i).rs.cancelled && f.epoch.toNat == (s.ten i).rs.boundary)

theorem State.countTaken_iff : (s.boundaryOk i f || s.armedFor i f) = true ↔ s.countTaken i f := Bool.or_eq_true_iff

theorem State.countOk_taken (h : s.countTaken i f) : s.countOk i f = true := by
  rw [State.countOk, State.countTaken_iff.2 h]
  rfl

theorem State.takeCount_noted (h : s.countTaken i f) (hold : (s.ten i).rs.state ≠ .armed ∨ (s.ten i).rs.joiner = false) :
    s.takeCount i f = s.countNoted i f := by
  rw [State.takeCount, if_pos (State.countTaken_iff.2 h), if_neg]
  rintro ⟨harmed, hjoiner⟩
  exact hold.elim (· harmed) fun hnot => Bool.eq_false_iff.1 hnot hjoiner

theorem State.takeCount_joins (h : s.countTaken i f) (harmed : (s.ten i).rs.state = .armed)
    (hjoiner : (s.ten i).rs.joiner = true) : s.takeCount i f =
      ((s.updRs i fun r => { r with boundary := f.epoch.toNat }).enterBoundary i).countNoted i f := by
  rw [State.takeCount, if_pos (State.countTaken_iff.2 h), if_pos ⟨harmed, hjoiner⟩]

theorem State.takeCount_sealed (h : ¬ s.countTaken i f) (hseal : (s.ten i).rs.lastSeal = some f.epoch.toNat) :
    s.takeCount i f = s.answerCount i f.src f.epoch.toNat 3 0 :=
  (if_neg (mt State.countTaken_iff.1 h)).trans (if_pos hseal)

theorem State.takeCount_cancelled (h : ¬ s.countTaken i f) (hseal : (s.ten i).rs.lastSeal ≠ some f.epoch.toNat) :
    s.takeCount i f = s.answerCount i f.src f.epoch.toNat 4 0 :=
  (if_neg (mt State.countTaken_iff.1 h)).trans (if_neg hseal)

/-- A destination's part ended by a DONE that states its count. -/
def State.destDone (s : State) (i : Fin 64) (f : Rx) : State :=
  s.updRs i fun r => { r with dests := r.dests.map fun d =>
    if d.addr = f.src ∧ d.count % 2 ^ 32 = tField f 0 32 then { d with done := true } else d }

variable (hgood : frameGood s f 0x60 i) (hzero : tField f 32 32 = 0) (hlen : f.len = 0)
include hgood hzero hlen

theorem exec_resliceCount (hphase : f.tr = 0) (hok : (s.at_ f.time).countOk i f = true) :
    exec (.resliceCount f) s = .next ((s.at_ f.time).takeCount i f) :=
  congrArg _ (State.receive_count _ hgood hzero hlen hphase hok)

variable (hok : (s.at_ f.time).boundaryOk i f = true)
include hok

theorem exec_resliceDone (hphase : f.tr = 1) :
    exec (.resliceDone f) s = .next ((((s.at_ f.time).destDone i f).syncBoundary i).follow i) :=
  congrArg _ (State.receive_count _ hgood hzero hlen hphase hok)

theorem exec_resliceResend (hphase : f.tr = 2) : exec (.resliceResend f) s =
    .next (if ((s.at_ f.time).ten i).rs.dests.any fun d => d.addr == f.src then (s.at_ f.time).sendMoves i f.src
      else s.at_ f.time) :=
  congrArg _ (State.receive_count _ hgood hzero hlen hphase hok)

theorem exec_resliceSealed (hphase : f.tr = 3) : exec (.resliceSealed f) s =
    .next (if ((s.at_ f.time).ten i).rs.new_ then s.at_ f.time else (s.at_ f.time).tearDown i) :=
  congrArg _ (State.receive_count _ hgood hzero hlen hphase hok)

theorem exec_resliceCancel (hphase : f.tr = 4) : exec (.resliceCancel f) s =
    .next (((((s.at_ f.time).updCommit i CommitS.cleared).cancelReslice i).endRender i).follow i) :=
  congrArg _ (State.receive_count _ hgood hzero hlen hphase hok)

end

/-! ## The panel of a MOVE (R287) -/

/-- The panel of a MOVE taken, its source noted where it was not known. -/
def State.moveTaken (s : State) (i : Fin 64) (f : Rx) : State :=
  (if (s.ten i).rs.sources.any fun x => x.addr == f.src then s else s.noteSource i f.src 0).arrive i f.src f.t.toNat f.payload

/-- The end of a MOVE: what was held for a sweep goes on. -/
def State.moveEnds (s : State) (i : Fin 64) : State := ((s.fillHeld i).syncBoundary i).follow i

/-- A MOVE answered where its panel was the last announced. -/
def State.moveAnswered (s : State) (i : Fin 64) (f : Rx) : State :=
  match (s.ten i).rs.sources.find? fun x => x.addr == f.src with
  | some x => if 0 < x.count then s.answerDone i f.src else s
  | none => s

section
variable {s : State} {f : Rx} {i : Fin 64}

theorem exec_resliceMove (hgood : frameGood s f 0x61 i) (hlen : f.len = 4096) (htr : f.tr = 0)
    (hok : (s.at_ f.time).boundaryOk i f = true ∨ (s.at_ f.time).armedFor i f = true) : exec (.resliceMove f) s =
      .next ((((s.at_ f.time).moveTaken i f).moveAnswered i f).moveEnds i) := by
  simp only [exec, execResliceMove]
  rw [State.receive_good _ hgood rfl (beq_iff_eq.2 hlen)
    (Bool.and_eq_true_iff.2 ⟨beq_iff_eq.2 htr, State.countTaken_iff.2 hok⟩) rfl]
  cases h : (((s.at_ f.time).moveTaken i f).ten i).rs.sources.find? fun x => x.addr == f.src with
  | none =>
    rw [State.moveTaken] at h
    simp only [State.moveEnds, State.moveAnswered, State.moveTaken, h]
  | some x =>
    rw [State.moveTaken] at h
    simp only [State.moveEnds, State.moveAnswered, State.moveTaken, h]

end

/-! ## A panel that arrives (R287) -/

/-- The LOADING entry that holds a coordinate. -/
def State.arrivalPlace (s : State) (i : Fin 64) (coord : Nat) : Option (Nat × Entry) :=
  (s.loadingOf i).find? fun p => p.2.tensor.toNat == coord / 2 ^ 40 && decide (p.2.lfirst.toNat ≤ coord % 2 ^ 40) &&
    decide (coord % 2 ^ 40 < p.2.lfirst.toNat + p.2.lenp)

section
variable {s : State} {i : Fin 64} {src : Addr} {coord : Nat} {bytes : List Byte}

theorem State.arrive_nowhere (h : s.arrivalPlace i coord = none) : s.arrive i src coord bytes = s.raiseT i 0xE2 coord := by
  rw [State.arrivalPlace] at h
  simp only [State.arrive, h]

variable {c : Nat} {e : Entry} (hplace : s.arrivalPlace i coord = some (c, e))
include hplace

theorem State.arrive_again (h : (s.dirRec (e.panelAddr (coord % 2 ^ 40 - e.lfirst.toNat) false)).d = true) :
    s.arrive i src coord bytes = s.count 0xE4 := by
  rw [State.arrivalPlace] at hplace
  simp only [State.arrive, hplace]
  exact if_pos h

theorem State.arrive_first (h : (s.dirRec (e.panelAddr (coord % 2 ^ 40 - e.lfirst.toNat) false)).d = false) :
    let p := coord % 2 ^ 40 - e.lfirst.toNat
    let r := s.dirRec (e.panelAddr p false)
    s.arrive i src coord bytes =
      (((s.putBytes (e.panelAddr p r.c) bytes).setKept (e.panelAddr p r.c) (pd bytes)).setDir (e.panelAddr p false)
        { r with d := true }).updRs i fun x => { x with sources := x.sources.map fun y =>
          if y.addr = src then { y with got := y.got + 1, since := s.time.now } else y } := by
  rw [State.arrivalPlace] at hplace
  simp only [State.arrive, hplace, h, Bool.false_eq_true, if_false, State.setDir_time, State.setKept_time, State.putBytes_time]

end

/-! ## The statement -/

/-- Settles O40: the frames by PHASE and by the boundary, a MOVE by its source and what is announced of it. -/
theorem resliceFrameRowsComplete : Obligations.ResliceFrameRowsComplete := by
  refine ⟨fun s f i hgood hzero hlen => ?_, fun s f i hgood hlen htr hok => ?_,
    fun s i src coord bytes => ⟨State.arrive_nowhere, fun c e hplace => ⟨State.arrive_again hplace, State.arrive_first hplace⟩⟩⟩
  · have hcount := exec_resliceCount hgood hzero hlen
    have hdone := exec_resliceDone hgood hzero hlen
    have hresend := exec_resliceResend hgood hzero hlen
    have hsealed := exec_resliceSealed hgood hzero hlen
    have hcancel := exec_resliceCancel hgood hzero hlen
    simp only [← s.at_ten f.time]
    generalize s.at_ f.time = t at *
    refine ⟨fun hp h hold => ?_, fun hp h harmed hjoiner => ?_, fun hp h hseal => ?_, fun hp h hseal hcancelled he => ?_,
      fun hp h => ⟨t.destDone i f, hdone h hp, rfl, t.updRs_ten_self i _, fun j hj => t.updRs_ten_other hj _⟩,
      fun hp h hd => ?_, fun hp h hd => ?_, fun hp h hn => ?_, fun hp h hn => ?_, fun hp h => hcancel h hp⟩
    · rw [hcount hp (State.countOk_taken h), State.takeCount_noted h hold]
      rfl
    · rw [hcount hp (State.countOk_taken h), State.takeCount_joins h harmed hjoiner]
      rfl
    · rw [hcount hp (by simp [State.countOk, hseal]), State.takeCount_sealed h hseal]
    · rw [hcount hp (by simp [State.countOk, hcancelled, he]), State.takeCount_cancelled h hseal]
    · exact (hresend h hp).trans (congrArg _ (if_pos (by simpa using hd)))
    · exact (hresend h hp).trans (congrArg _ (if_neg (by simpa using hd)))
    · exact (hsealed h hp).trans (congrArg _ (if_neg (Bool.eq_false_iff.1 hn)))
    · exact (hsealed h hp).trans (congrArg _ (if_pos hn))
  · rw [exec_resliceMove hgood hlen htr hok]
    simp only [← s.at_ten f.time]
    generalize s.at_ f.time = t
    refine ⟨t.moveTaken i f, fun h => ?_, fun h => ?_, fun h => ?_, fun x h => ⟨fun hx => ?_, fun hx => ?_⟩⟩
    · rw [State.moveTaken, if_pos (by simpa using h)]
    · rw [State.moveTaken, if_neg (by simpa using h)]
    · rw [State.moveAnswered, h]
      rfl
    · simp only [State.moveAnswered, h, hx]
      rfl
    · simp only [State.moveAnswered, h, if_pos hx]
      rfl

end Sys2Proof.Machine

/-! # Timers and engines of a reslice boundary

Polls and repeated requests, Primer at an entry and at a slot, the end of a teardown and of the quiet (R278, R287, R288,
R292, R293). -/

namespace Sys2Proof.Machine

/-! ## A destination polled (R287) -/

/-- Whether a destination is polled. -/
def State.polls (s : State) (i : Fin 64) (a : Addr) (d : RsDest) : Bool :=
  (s.ten i).rs.sealing && d.done && a != s.self &&
    ((s.ten i).rs.new_ || (s.ten i).rs.dests.all fun d => !decide (d.addr < a))

/-- A destination's poll noted. -/
def State.pollNoted (s : State) (i : Fin 64) (a : Addr) (d : RsDest) : State :=
  (s.reach d.since s.repeatNs).updRs i fun r => { r with dests := r.dests.map fun x =>
    if x.addr = a then { x with since := (s.reach d.since s.repeatNs).time.now } else x }

section
variable {s : State} {i : Fin 64} {a : Addr}

theorem State.polls_iff {d : RsDest} : s.polls i a d = true ↔ (s.ten i).rs.sealing = true ∧ d.done = true ∧ a ≠ s.self ∧
    ((s.ten i).rs.new_ = true ∨ ∀ x ∈ (s.ten i).rs.dests, ¬ x.addr < a) := by
  simp only [State.polls, Bool.and_eq_true, Bool.or_eq_true, bne_iff_ne, List.all_eq_true, Bool.not_eq_true', decide_eq_false_iff_not,
    and_assoc]

theorem exec_resliceCountPoll_none (h : ((s.ten i).rs.dests.find? fun d => d.addr == a) = none) :
    exec (.resliceCountPoll i a) s = .next s := by
  simp only [exec, execResliceCountPoll, h]

theorem exec_resliceCountPoll_some {d : RsDest} (h : ((s.ten i).rs.dests.find? fun d => d.addr == a) = some d) :
    exec (.resliceCountPoll i a) s =
      .next (if s.polls i a d then (s.pollNoted i a d).send ((s.pollNoted i a d).countFrame i a 0 d.count) else s) := by
  simp only [exec, execResliceCountPoll, h]
  rfl

theorem State.pollNoted_ten_self (d : RsDest) : (s.pollNoted i a d).ten i = { s.ten i with rs := { (s.ten i).rs with
    dests := (s.ten i).rs.dests.map fun x => if x.addr = a then { x with since := (s.pollNoted i a d).time.now } else x } } := by
  rw [State.pollNoted, State.updRs_ten_self, State.reach_ten]
  rfl

theorem State.pollNoted_ten_other (d : RsDest) {j : Fin 64} (h : j ≠ i) : (s.pollNoted i a d).ten j = s.ten j := by
  rw [State.pollNoted, State.updRs_ten_other _ h, State.reach_ten]

theorem State.pollNoted_frame (d : RsDest) : s.pollNoted i a d =
    { s.reach d.since (1000 * s.cfg.glob.voteRepeat) with tenants := (s.pollNoted i a d).tenants } := by
  rw [State.pollNoted, State.repeatNs, Nat.mul_comm]
  rfl

end

/-! ## A source asked again (R288) -/

/-- A source's record replaced. -/
def State.sourceSet (s : State) (i : Fin 64) (x y : RsSource) : State :=
  s.updRs i fun r => { r with sources := r.sources.map fun z => if z = x then y else z }

/-- The time at which a source is asked again. -/
def State.moveDue (s : State) (x : RsSource) : State := s.reach x.since (1000000 * s.cfg.glob.moveRto)

theorem State.moveDue_eq (s : State) (x : RsSource) : s.reach x.since (s.cfg.glob.moveRto * 1000000) = s.moveDue x := by
  rw [State.moveDue, Nat.mul_comm]

section
variable {s : State} {i : Fin 64} {a : Addr}

theorem exec_moveRtoExpiry_none (h : ((s.ten i).rs.sources.find? fun x => x.addr == a) = none) :
    exec (.moveRtoExpiry i a) s = .next s := by
  simp only [exec, execMoveRtoExpiry, h]

variable {x : RsSource} (h : ((s.ten i).rs.sources.find? fun x => x.addr == a) = some x)
include h

theorem exec_moveRtoExpiry_some : exec (.moveRtoExpiry i a) s =
    if !(s.ten i).rs.sealing ∨ x.count ≤ x.got then .next s
    else if x.got = x.gotAt ∧ 4 ≤ x.resends then
      .next ((((s.moveDue x).sourceSet i x { x with since := (s.moveDue x).time.now }).resliceFault i 0xE3 a.toNat).follow i)
    else
      .next (((s.moveDue x).sourceSet i x { x with
        gotAt := x.got, resends := if x.got = x.gotAt then x.resends + 1 else 1, since := (s.moveDue x).time.now }).answerCount
          i a (s.ten i).rs.boundary 2 x.got) := by
  simp only [exec, execMoveRtoExpiry, h, State.moveDue_eq, State.sourceSet]

theorem exec_moveRtoExpiry_full (hfull : (s.ten i).rs.sealing = false ∨ x.count ≤ x.got) :
    exec (.moveRtoExpiry i a) s = .next s := by
  rw [exec_moveRtoExpiry_some h]
  exact if_pos (by simpa using hfull)

variable (hseal : (s.ten i).rs.sealing = true) (hshort : x.got < x.count)
include hseal hshort

theorem exec_moveRtoExpiry_short : exec (.moveRtoExpiry i a) s =
    if x.got = x.gotAt ∧ 4 ≤ x.resends then
      .next ((((s.moveDue x).sourceSet i x { x with since := (s.moveDue x).time.now }).resliceFault i 0xE3 a.toNat).follow i)
    else
      .next (((s.moveDue x).sourceSet i x { x with
        gotAt := x.got, resends := if x.got = x.gotAt then x.resends + 1 else 1, since := (s.moveDue x).time.now }).answerCount
          i a (s.ten i).rs.boundary 2 x.got) := by
  rw [exec_moveRtoExpiry_some h, if_neg]
  simp [hseal, hshort]

theorem exec_moveRtoExpiry_faults (hsame : x.got = x.gotAt) (htries : 4 ≤ x.resends) : exec (.moveRtoExpiry i a) s =
    .next ((((s.moveDue x).sourceSet i x { x with since := (s.moveDue x).time.now }).resliceFault i 0xE3 a.toNat).follow i) := by
  rw [exec_moveRtoExpiry_short h hseal hshort, if_pos ⟨hsame, htries⟩]

theorem exec_moveRtoExpiry_again (hsame : x.got = x.gotAt) (htries : x.resends < 4) : exec (.moveRtoExpiry i a) s =
    .next (((s.moveDue x).sourceSet i x { x with resends := x.resends + 1, since := (s.moveDue x).time.now }).answerCount
      i a (s.ten i).rs.boundary 2 x.got) := by
  rw [exec_moveRtoExpiry_short h hseal hshort, if_neg (by omega), if_pos hsame, hsame]

theorem exec_moveRtoExpiry_progress (hmore : x.got ≠ x.gotAt) : exec (.moveRtoExpiry i a) s =
    .next (((s.moveDue x).sourceSet i x { x with
      gotAt := x.got, resends := 1, since := (s.moveDue x).time.now }).answerCount i a (s.ten i).rs.boundary 2 x.got) := by
  rw [exec_moveRtoExpiry_short h hseal hshort, if_neg (fun hsame => hmore hsame.1), if_neg hmore]

end

/-! ## Primer (R278, R292) -/

theorem exec_primerComplete_off {s : State} (p : PrimeTarget) (h : s.configured = false ∨ s.flt.mode ≠ .normal) :
    exec (.primerComplete p) s = .next s :=
  if_pos (by simpa using h)

section
variable {s : State} (hconf : s.configured = true) (hmode : s.flt.mode = .normal)
include hconf hmode

theorem exec_primerComplete_entry (c : Nat) : exec (.primerComplete (.entry c)) s = .next (s.primerEntry c) :=
  if_neg (by simp [hconf, hmode])

theorem exec_primerComplete_slot (k : Nat) : exec (.primerComplete (.slot k)) s = .next (s.primerSlot k) :=
  if_neg (by simp [hconf, hmode])

end

section
variable {s : State} {c : Nat}

theorem State.primerEntry_other (h : s.entry c = none ∨ ∃ e : Entry, s.entry c = some e ∧ e.state ≠ .priming) :
    s.primerEntry c = s := by
  rcases h with h | ⟨e, he, hstate⟩
  · simp only [State.primerEntry, h]
  · simp only [State.primerEntry, he]
    exact if_pos hstate

variable {e : Entry} (he : s.entry c = some e) (hstate : e.state = .priming)
include he hstate

theorem State.primerEntry_torn {i : Fin 64} (h : s.tearing (fun r => r.tearEntries.contains c) = some i) : s.primerEntry c =
    ((s.zeroPanels (e.panelAddr 0 false) (2 * e.lenp)).freeRegion c).updRs i fun r => { r with
      tearEntries := r.tearEntries.filter (· != c) } := by
  simp only [State.primerEntry, he, h]
  exact if_neg (not_not.2 hstate)

variable (h : s.tearing (fun r => r.tearEntries.contains c) = none)
include h

theorem State.primerEntry_primed : s.primerEntry c =
    match (s.primeEntry c e).tenantOf e.tenant with
    | some i => (((s.primeEntry c e).unfence i).bgSettle i).follow i
    | none => s.primeEntry c e := by
  simp only [State.primerEntry, he, h]
  exact if_neg (not_not.2 hstate)

end

/-- A slot's own storage primed. -/
def State.slotPrimed (s : State) (k : Nat) : State := (s.primeSlot k (s.slot k).sett).updSlot k fun x => { x with primed := true }

section
variable {s : State} {k : Nat}

theorem State.primerSlot_torn {i : Fin 64} (h : s.tearing (fun r => r.tearSlots.contains k) = some i) : s.primerSlot k =
    (s.primeSlot k (s.slot k).sett).updRs i fun r => { r with tearSlots := r.tearSlots.filter (· != k) } := by
  simp only [State.primerSlot, h]

variable (h : s.tearing (fun r => r.tearSlots.contains k) = none)
include h

theorem State.primerSlot_shadowed {i : Fin 64} {kind : SlotKind} {d : SettDesc} {rep : RepDesc}
    (hi : s.slotTenant k = some i) (hshadow : (s.slot k).shadow = some (kind, d, rep)) : s.primerSlot k =
      if (s.ten i).rs.sealing then
        if (s.slot k).kind = .sett ∧ !(s.slot k).primed then ((s.slotPrimed k).tryForm i k).follow i else s
      else (if kind = .sett then s.releaseParity d else s).updSlot k fun x => { x with shadow := none } := by
  simp only [State.primerSlot, h, hi, hshadow, State.slotPrimed]

theorem State.primerSlot_own {i : Fin 64} (hi : s.slotTenant k = some i) (hshadow : (s.slot k).shadow = none) :
    s.primerSlot k = if (s.slot k).kind = .sett ∧ (s.slot k).st = .forming ∧ !(s.slot k).primed then
      ((s.slotPrimed k).tryForm i k).follow i else s := by
  simp only [State.primerSlot, h, hi, hshadow, State.slotPrimed]

theorem State.primerSlot_free (hi : s.slotTenant k = none) : s.primerSlot k =
    if (s.slot k).kind = .sett ∧ (s.slot k).st = .forming ∧ !(s.slot k).primed then s.slotPrimed k else s := by
  simp only [State.primerSlot, h, hi, State.slotPrimed]

end

/-! ## The end of a teardown and of the quiet (R292, R293) -/

/-- A torn tenant in its quiet. -/
def State.quieted (s : State) (i : Fin 64) : State := s.updRs i fun r => { r with state := .quiet, quietAt := s.time.now }

theorem exec_teardownComplete (s : State) (i : Fin 64) : exec (.teardownComplete i) s =
    .next (if (s.ten i).rs.state = .teardown ∧ (s.ten i).rs.tearEntries.isEmpty ∧ (s.ten i).rs.tearSlots.isEmpty then
      (s.quieted i).raiseT i 0xE7 else s) := rfl

/-- A tenant whose quiet is over. -/
def State.quietOver (s : State) (i : Fin 64) : State :=
  (s.reach (s.ten i).rs.quietAt (1000000 * s.cfg.glob.tagQuiet)).updRs i fun _ => {}

/-- The slots of a tenant formed anew. -/
def State.formedAnew (s : State) (i : Fin 64) (r : Record) (ks : List Nat) : State :=
  ks.foldl (fun x k => if r.kindOf k = .unused then x
    else (x.formSlot (some i) r k).updSlot k fun y => { y with primed := y.kind == .sett }) s

section
variable {s : State} {i : Fin 64}

theorem State.quietOver_ten_self : (s.quietOver i).ten i = { s.ten i with rs := {} } := by
  rw [State.quietOver, State.updRs_ten_self, State.reach_ten]

theorem State.quietOver_ten_other {j : Fin 64} (h : j ≠ i) : (s.quietOver i).ten j = s.ten j := by
  rw [State.quietOver, State.updRs_ten_other _ h, State.reach_ten]

theorem State.quietOver_ownsSlot (k : Nat) : (s.quietOver i).ownsSlot i k = s.ownsSlot i k := by
  rw [State.ownsSlot, State.quietOver_ten_self]
  rfl

theorem exec_tagQuietExpiry (h : (s.ten i).rs.state = .quiet) : exec (.tagQuietExpiry i) s =
    .next ((s.quietOver i).formedAnew i s.cfg ((List.range 16).filter fun k => (s.quietOver i).ownsSlot i k)).syncGroups := by
  have hcfg : (s.quietOver i).cfg = s.cfg := by
    rw [State.quietOver, State.reach_frame]
    rfl
  rw [← hcfg, State.quietOver, Nat.mul_comm]
  exact if_neg (not_not.2 h)

theorem exec_tagQuietExpiry_noSlots (h : (s.ten i).rs.state = .quiet) (hnone : ∀ k < 16, s.ownsSlot i k = false) :
    exec (.tagQuietExpiry i) s = .next (s.quietOver i).syncGroups := by
  have hfilter : ((List.range 16).filter fun k => (s.quietOver i).ownsSlot i k) = [] := by
    refine List.filter_eq_nil_iff.2 fun k hk => ?_
    rw [State.quietOver_ownsSlot, hnone k (List.mem_range.1 hk)]
    exact Bool.false_ne_true
  rw [exec_tagQuietExpiry h, hfilter]
  rfl

end

/-! ## The statement -/

/-- Settles O41: polls and repeats by the record they test, Primer by who holds the storage, the quiet by its end. -/
theorem resliceTimerRowsComplete : Obligations.ResliceTimerRowsComplete := by
  refine ⟨fun s i a => ⟨exec_resliceCountPoll_none, fun d hd => ⟨fun h => ?_, fun h => ?_⟩⟩,
    fun s i a => ⟨exec_moveRtoExpiry_none, fun x hx => ⟨exec_moveRtoExpiry_full hx, exec_moveRtoExpiry_faults hx,
      exec_moveRtoExpiry_again hx, exec_moveRtoExpiry_progress hx⟩⟩,
    fun s p => exec_primerComplete_off p, fun s c hconf hmode => ?_, fun s k hconf hmode => ?_, fun s i => ?_, fun s i => ?_⟩
  · exact (exec_resliceCountPoll_some hd).trans (congrArg _ (if_neg (mt State.polls_iff.1 h)))
  · exact ⟨s.pollNoted i a d, (exec_resliceCountPoll_some hd).trans (congrArg _ (if_pos (State.polls_iff.2 h))),
      State.pollNoted_frame d, State.pollNoted_ten_self d, fun j hj => State.pollNoted_ten_other d hj⟩
  · rw [exec_primerComplete_entry hconf hmode]
    refine ⟨fun h => congrArg _ (State.primerEntry_other h), fun e i he hstate h =>
      congrArg _ (State.primerEntry_torn he hstate h), fun e he hstate h => ⟨fun hten => ?_, fun i hten => ?_⟩⟩
    · rw [State.primerEntry_primed he hstate h, hten]
    · rw [State.primerEntry_primed he hstate h, hten]
  · rw [exec_primerComplete_slot hconf hmode]
    refine ⟨fun i h => congrArg _ (State.primerSlot_torn h), fun i kind d rep h hi hshadow => ?_, fun i h hi hshadow => ?_,
      fun h hi => ?_⟩
    · rw [State.primerSlot_shadowed h hi hshadow]
      refine ⟨fun hseal hforms => ?_, fun hseal hforms => ?_, fun hseal hkind => ?_, fun hseal hkind => ?_⟩
      · rw [if_pos hseal, if_pos (by simpa using hforms)]
        rfl
      · rw [if_pos hseal, if_neg (by simpa using hforms)]
      · rw [if_neg (Bool.eq_false_iff.1 hseal), if_pos hkind]
      · rw [if_neg (Bool.eq_false_iff.1 hseal), if_neg hkind]
    · rw [State.primerSlot_own h hi hshadow]
      refine ⟨fun hforms hst => ?_, fun hnot => ?_⟩
      · rw [if_pos (by simp [hforms.1, hforms.2, hst])]
        rfl
      · rw [if_neg]
        rintro ⟨hkind, hst, hprimed⟩
        exact hnot.elim (fun hf => hf ⟨hkind, by simpa using hprimed⟩) fun hs => hs hst
    · rw [State.primerSlot_free h hi]
      refine ⟨fun hforms hst => ?_, fun hnot => ?_⟩
      · rw [if_pos (by simp [hforms.1, hforms.2, hst])]
        rfl
      · rw [if_neg]
        rintro ⟨hkind, hst, hprimed⟩
        exact hnot.elim (fun hf => hf ⟨hkind, by simpa using hprimed⟩) fun hs => hs hst
  · simp only [exec_teardownComplete, List.isEmpty_iff]
    exact ⟨fun h => congrArg _ (if_neg h), fun h => ⟨s.quieted i, congrArg _ (if_pos h), rfl, s.updRs_ten_self i _,
      fun j hj => s.updRs_ten_other hj _⟩⟩
  · exact ⟨fun h => if_pos h, fun h => ⟨s.quietOver i, rfl, State.quietOver_ten_self, fun j hj => State.quietOver_ten_other hj,
      exec_tagQuietExpiry h, exec_tagQuietExpiry_noSlots h⟩⟩

end Sys2Proof.Machine

/-! # The crash dump, the summary, the status exchange, the scrub and the mirror

Each row by the condition it tests (R322, R327, R334, R336 to R338). -/

namespace Sys2Proof.Machine

/-! ## The fault block of the window -/

theorem State.windowOpen_faults {s : State} {offset : Nat} (hblock : 0x1800 ≤ offset ∧ offset < 0x1900) :
    s.windowOpen offset = true := by
  obtain ⟨hlow, hhigh⟩ := hblock
  simp [State.windowOpen, hlow, hhigh]

section
variable {s : State} {a : Acc} {offset : Nat} {f : State → State} (hp : s.portsUp = true)
  (hblock : 0x1800 ≤ offset ∧ offset < 0x1900)

include hp hblock

theorem State.window_faults (h : fromSystem a = true) : s.window a offset true f = f (s.ok a.id) :=
  State.window_takes true f ⟨hp, State.windowOpen_faults hblock, h⟩

theorem State.window_faults_any : s.window a offset false f = f (s.ok a.id) := by
  simp [State.window, hp, State.windowOpen_faults hblock]

end

/-! ## The crash dump (R334, R336) -/

/-- The format and the page a write of MNL_CD_CTRL selects. -/
def State.crashSelected (s : State) (a : Acc) (fmt : Bool) (page : BitVec 6) : State :=
  (s.ok a.id).updCrash fun c => { c with fmt := fmt, page := page }

section
variable {s : State} {a : Acc} {fmt : Bool} {page : BitVec 6} {f : State → State} (hp : s.portsUp = true)
include hp

theorem State.crashWrite_refused (h : ¬ (fromSystem a = true ∧ (fmt = false ∨ s.cap 10 = true))) :
    s.crashWrite a fmt page f = .next (s.refuse a.id 0x18C0) := by
  cases hsys : fromSystem a with
  | true =>
    obtain ⟨hfmt, hcap⟩ := not_or.1 (not_and.1 h hsys)
    exact if_pos (by simp [hp, hsys, hcap, Bool.eq_true_of_not_eq_false hfmt])
  | false => exact (if_neg (by simp [hsys])).trans (congrArg _ (State.window_refuses _ hp (.inr hsys)))

theorem State.crashWrite_taken (h : fromSystem a = true ∧ (fmt = false ∨ s.cap 10 = true)) :
    s.crashWrite a fmt page f = .next (f (s.crashSelected a fmt page)) := by
  obtain ⟨hsys, hfmt⟩ := h
  refine (if_neg ?_).trans (congrArg _ (State.window_faults hp ⟨by decide, by decide⟩ hsys))
  rcases hfmt with h | h <;> simp [h]

end

theorem State.beginCapture_free {s : State} {code : Byte} (h : s.crash.capturing = none) : s.beginCapture code =
    { s with crash := { s.crash with
        capturing := some (s.crash.slot0, code), area := Mem.zero s.crash.area (slotBase s.crash.slot0) dumpSize
        slot1 := if s.crash.slot0 then false else s.crash.slot1 } } := by
  simp only [State.beginCapture, h]

theorem State.beginCapture_merged {s : State} (h : s.crash.capturing ≠ none) : s.beginCapture 0 = s := by
  obtain ⟨⟨slot1, old⟩, hcap⟩ := Option.ne_none_iff_exists'.1 h
  have hsame : s.beginCapture 0 = { s with crash := { s.crash with capturing := some (slot1, old) } } := by
    simp only [State.beginCapture, hcap, if_true]
  rw [hsame, ← hcap]

theorem exec_cdCapture (a : Acc) (fmt : Bool) (page : BitVec 6) (s : State) :
    exec (.cdCapture a fmt page) s = s.crashWrite a fmt page fun s => s.beginCapture 0 := rfl

theorem exec_cdRelease (a : Acc) (fmt : Bool) (page : BitVec 6) (s : State) :
    exec (.cdRelease a fmt page) s = s.crashWrite a fmt page State.releaseSlot := rfl

/-! ## The summary (R322) -/

/-- The bits a write of the summary clears. -/
def State.clearable (s : State) (mask : BitVec 14) : BitVec 14 := mask &&& ~~~s.causes

theorem State.mem_clearSummary_seen (s : State) (mask : BitVec 14) (k : Nat) : k ∈ (s.clearSummary mask).flt.seen ↔
    k ∈ s.flt.seen ∧ (s.clearable mask).getLsbD (seenSource k) = false := by
  refine List.mem_filter.trans (and_congr_right fun _ => ?_)
  rw [Bool.not_eq_true']
  rfl

theorem exec_fltSummaryClear {s : State} {a : Acc} (mask : BitVec 14) (hp : s.portsUp = true) :
    exec (.fltSummaryClear a mask) s = .next ((s.ok a.id).clearSummary mask) :=
  congrArg Host.Outcome.next (State.window_faults_any (offset := 0x1800) hp ⟨by decide, by decide⟩)

/-! ## A frame malformed (check 2 of R75) -/

theorem State.receive_malformed {s : State} {f : Rx} {c : Check} {k : State → Fin 64 → State} (hp : s.portsUp = true)
    (htakes : (s.at_ f.time).takesFrame f = true) (herr : f.eiErr = false) (hcrc : f.crc = frameCrc f) (h : c.ok2 = false) :
    s.receive f c k = (s.at_ f.time).frameEvent f 0x42 := by
  simp [State.receive, hp, htakes, herr, hcrc, h]

theorem exec_statusReply_malformed {s : State} {f : Rx} {i : Fin 64} (hgood : frameGood s f 0x70 i)
    (h : replyOk f.payload = false) : exec (.statusReply f) s = .next ((s.at_ f.time).frameEvent f 0x42) := by
  obtain ⟨hp, htakes, herr, hcrc, -⟩ := hgood
  exact congrArg _ (State.receive_malformed hp htakes herr hcrc (Bool.and_eq_false_iff.2 (.inr h)))

theorem exec_statusReply_good {s : State} {f : Rx} {i : Fin 64} (hgood : frameGood s f 0x70 i) (ht : f.t = 7)
    (hlen : f.len = 32) (h : replyOk f.payload = true) : exec (.statusReply f) s =
      .next ((s.at_ f.time).updFlt fun x => { x with qReply := f.payload, qDone := true, qAsked := false }) :=
  congrArg _ (State.receive_good _ hgood (Bool.and_eq_true_iff.2 ⟨beq_iff_eq.2 ht, h⟩) (beq_iff_eq.2 hlen) rfl rfl)

/-! ## The scrub (R327, R328) -/

/-- Every active tenant goes on. -/
def State.goOn (s : State) : State := tenantIdxs.foldl (fun s i => if (s.ten i).env.isSome then s.follow i else s) s

theorem State.goOn_idle {s : State} (h : ∀ i : Fin 64, (s.ten i).env = none) : s.goOn = s := by
  rw [State.goOn]
  generalize tenantIdxs = l
  induction l with
  | nil => rfl
  | cons i l ih => rw [List.foldl_cons, h i]; exact ih

theorem exec_scrubPass (finds : List ScrubFind) (s : State) : exec (.scrubPass finds) s =
    if !s.power.released then .next s else .next (finds.foldl (fun s f => s.scrubFind f) s).goOn := rfl

/-! ## The mirror page (R28, R337) -/

/-- The mirror page written under the next SEQ. -/
def State.mirrored (s : State) (page : List Byte) : State :=
  (s.putBytes s.flt.mirrorBase.toNat page).updFlt fun f => { f with mirrorSeq := s.flt.mirrorSeq + 1 }

theorem exec_statusMirrorWrite (now : BitVec 64) (s : State) : exec (.statusMirrorWrite now) s =
    if !s.portsUp || !s.flt.mirrorEn || s.flt.mode == .resetting then .next s
    else .next ((s.at_ now).mirrored ((s.at_ now).mirrorPage ((s.at_ now).flt.mirrorSeq + 1))) := rfl

section
variable {s : State} {page : List Byte} (hmem : s.memWf = true)
  (hfit : s.flt.mirrorBase.toNat + page.length ≤ Config.stackBytes)
include hmem hfit

theorem State.mirrored_bytes : (s.mirrored page).bytesAt s.flt.mirrorBase.toNat page.length = page :=
  State.bytesAt_putBytes_self (State.rising_of_memWf hmem) hfit

theorem State.mirrored_apart {b : Nat}
    (h : b < s.flt.mirrorBase.toNat ∨ s.flt.mirrorBase.toNat + page.length ≤ b) :
    Mem.read (s.mirrored page).mem b = Mem.read s.mem b := State.read_putBytes_other (State.rising_of_memWf hmem) hfit h

end

theorem State.at_memWf (s : State) (t : BitVec 64) : (s.at_ t).memWf = s.memWf := by
  rw [State.at_frame]
  rfl

/-! ## The statement -/

/-- Settles O49: MNL_CD_CTRL by its form and the slots, the rest by what each row tests and writes. -/
theorem crashAndStatusRowsComplete : Obligations.CrashAndStatusRowsComplete := by
  refine ⟨fun s a fmt page hp => ⟨fun h =>
        ⟨(exec_cdCapture a fmt page s).trans (State.crashWrite_refused hp h),
          (exec_cdRelease a fmt page s).trans (State.crashWrite_refused hp h)⟩,
      fun h hcap h0 => ?_, fun h hcap h0 => ?_, fun h hcap => ?_,
      fun h => (exec_cdRelease a fmt page s).trans (State.crashWrite_taken hp h)⟩,
    fun s a mask hp => ?_,
    fun s a addr tag hp => ⟨fun h => congrArg _ (State.window_refuses _ hp (.inr h)),
      fun h => congrArg _ (State.window_faults hp ⟨by decide, by decide⟩ h)⟩,
    fun s f i hgood ht hlen => congrArg _
      (State.receive_anyGen _ rfl hgood (beq_iff_eq.2 ht) (beq_iff_eq.2 hlen) rfl rfl),
    fun s f i hgood ht hlen => ⟨fun h => ?_, exec_statusReply_malformed hgood⟩,
    fun s finds => ⟨fun h => if_pos (by rw [h]; rfl), fun h => if_neg (by simp [h]), fun h henv => ?_⟩,
    fun s a word => ⟨rfl, rfl, rfl⟩, fun s now h => ?_, fun s now hp hen hmode hmem hfit => ?_⟩
  · rw [exec_cdCapture, State.crashWrite_taken hp h, State.beginCapture_free (s := s.crashSelected a fmt page) hcap,
      show (s.crashSelected a fmt page).crash.slot0 = false from h0]
    rfl
  · rw [exec_cdCapture, State.crashWrite_taken hp h, State.beginCapture_free (s := s.crashSelected a fmt page) hcap,
      show (s.crashSelected a fmt page).crash.slot0 = true from h0]
    rfl
  · rw [exec_cdCapture, State.crashWrite_taken hp h, State.beginCapture_merged (s := s.crashSelected a fmt page) hcap]
    rfl
  · exact ⟨_, exec_fltSummaryClear mask hp, rfl, rfl,
      fun k => (s.ok a.id).mem_clearSummary_seen mask k, rfl⟩
  · rw [exec_statusReply_good hgood ht hlen h, State.updFlt, State.at_flt]
  · rw [exec_scrubPass, if_neg (by simp [h]), List.foldl_nil, State.goOn_idle henv]
  · rw [exec_statusMirrorWrite, if_pos]
    simpa [or_assoc] using h
  · rw [exec_statusMirrorWrite, if_neg (by simp [hp, hen, hmode])]
    rw [← s.at_memWf now] at hmem
    simp only [← s.at_flt now, ← s.at_mem now] at hfit ⊢
    generalize s.at_ now = t at *
    generalize t.mirrorPage (t.flt.mirrorSeq + 1) = bytes at *
    exact ⟨t.mirrored bytes, rfl, rfl, rfl, State.mirrored_bytes hmem hfit, fun b => State.mirrored_apart hmem hfit⟩

end Sys2Proof.Machine

/-! # A stop of the instance

What the hold of the dust sheet and the drain before a reset leave: the mode and the phase, the accesses parked, the sweeps
held, the wish for a reset (R324, R325, R331). -/

namespace Sys2Proof.Machine

/-! ## What recording an event writes -/

/-- The state with blank in place of all that recording an event writes, and without the answers of the ports. -/
def State.unrecorded (s : State) : State :=
  { s with
    flt := { s.flt with
      counters := [], summary := 0, seen := [], history := [], seq := 0, lost := 0, handling := []
      resetWanted := false, resetCounted := false }
    gate := { s.gate with ns := [] } }

theorem State.count_unrecorded (s : State) (k : Nat) : (s.count k).unrecorded = s.unrecorded := rfl

theorem State.pushHistory_unrecorded (s : State) (h : HistEntry) : (s.pushHistory h).unrecorded = s.unrecorded := by
  unfold State.pushHistory
  simp only
  split
  · rfl
  · rfl

theorem State.enter_unrecorded (s : State) (e : Ev) : (s.enter e).1.unrecorded = s.unrecorded := by
  have hseen (t : State) (b : BitVec 14) (k : Nat) :
      (t.updFlt fun f => { f with summary := f.summary ||| b, seen := addOnce k f.seen }).unrecorded = t.unrecorded := rfl
  have hmerged (t : State) (n : BitVec 32) (g : HistEntry → HistEntry) (m : Handling → Handling) (up : Bool) :
      (t.updFlt fun f => { f with
        history := updHistory f.history n g, handling := f.handling.map m, resetWanted := f.resetWanted || up
        resetCounted := f.resetCounted || up }).unrecorded = t.unrecorded := rfl
  have hhandled (t : State) (l : List Handling) :
      (t.updFlt fun f => { f with handling := f.handling ++ l }).unrecorded = t.unrecorded := rfl
  simp only [State.enter, apply_ite State.unrecorded, State.pushHistory_unrecorded, hhandled, ite_self]
  split
  · simp only [hmerged, hseen, State.count_unrecorded]
  · simp only [hseen, State.count_unrecorded]

theorem State.raiseHeld_unrecorded (s : State) (e : Ev) : (s.raiseHeld e).unrecorded = s.unrecorded := by
  have hwanted (t : State) : (t.updFlt fun f => { f with resetWanted := true, resetCounted := true }).unrecorded = t.unrecorded :=
    rfl
  simp only [State.raiseHeld, apply_ite State.unrecorded, hwanted, ite_self, State.enter_unrecorded]

theorem State.pushHistory_wanted (s : State) (h : HistEntry) :
    (s.pushHistory h).flt.resetWanted = s.flt.resetWanted := by
  unfold State.pushHistory
  simp only
  split
  · rfl
  · rfl

theorem State.enter_wanted {s : State} (e : Ev) (h : s.flt.resetWanted = true) : (s.enter e).1.flt.resetWanted = true := by
  simp only [State.enter, apply_ite fun t : State => t.flt.resetWanted, State.pushHistory_wanted, State.updFlt_flt, ite_self]
  split
  · simp only [State.updFlt_flt, State.count, State.countN, h, Bool.true_or]
  · simp only [State.updFlt_flt, State.count, State.countN, h]

theorem State.raiseHeld_wanted {s : State} (e : Ev) (h : s.flt.resetWanted = true) :
    (s.raiseHeld e).flt.resetWanted = true := by
  simp only [State.raiseHeld, apply_ite fun t : State => t.flt.resetWanted, State.updFlt_flt, State.enter_wanted e h, ite_self]

/-! ## Where the instance stands -/

/-- Where an instance stands: its mode, its phase and its cause, the accesses parked, the sweeps. -/
structure Stance where
  mode : Mode
  phase : DustPhase
  dcause : Byte
  park : List Parked
  sweeps : Vector SweepS 64

def State.stance (s : State) : Stance :=
  { mode := s.flt.mode, phase := s.flt.phase, dcause := s.flt.dcause, park := s.gate.park
    sweeps := s.tenants.map fun t => t.sweep }

theorem State.stance_of_unrecorded {s t : State} (h : t.unrecorded = s.unrecorded) : t.stance = s.stance := by
  have hstance (u : State) : u.unrecorded.stance = u.stance := rfl
  rw [← hstance t, h, hstance]

theorem State.sweep_of_stance {s t : State} (h : t.stance.sweeps = s.stance.sweeps) (i : Fin 64) :
    (t.ten i).sweep = (s.ten i).sweep := by
  have hget (u : State) : u.stance.sweeps.get i = (u.ten i).sweep := by simp [State.stance, State.ten, Vector.get_eq_getElem]
  rw [← hget, ← hget, h]

theorem State.dropSwitch_stance (s : State) : (s.dropSwitch State.raiseHeld).stance = s.stance := by
  unfold State.dropSwitch
  split
  · rfl
  · refine (State.stance_of_unrecorded (State.raiseHeld_unrecorded _ _)).trans ?_
    simp only [State.stance, Vector.map_map]
    rfl

theorem State.releaseParked_stance (s : State) (p : Parked → Bool) (cause : BitVec 4) (code : Nat) :
    (s.releaseParked p cause State.raiseHeld code).stance = { s.stance with park := s.gate.park.filter fun x => !p x } := by
  have hanswered (t : State) (x : Parked) (e : Ev) :
      ((t.respond x.q.id .busError cause 0).raiseHeld e).unrecorded = t.unrecorded := State.raiseHeld_unrecorded _ _
  unfold State.releaseParked
  exact (State.stance_of_unrecorded (State.foldl_keeps (fun t x => hanswered t x _) _ _)).trans rfl

/-! ## Sweeps held -/

/-- Whether a sweep rests: idle, or held. -/
def SweepS.rests (w : SweepS) : Prop := w.state = .idle ∨ w.state = .held

theorem State.holdSweep_rests (s : State) (i : Fin 64) (cause : Nat) : ((s.holdSweep i cause).ten i).sweep.rests := by
  rw [State.holdSweep, State.updSweep, State.updTen_self]
  by_cases h : (s.ten i).sweep.state = .idle
  · simp only [h, if_true]
    exact .inl h
  · simp only [h, if_false]
    exact .inr rfl

theorem State.holdSweep_other (s : State) {i j : Fin 64} (h : j ≠ i) (cause : Nat) :
    (s.holdSweep i cause).ten j = s.ten j := s.updTen_other _ _ _ h

theorem State.holdSweeps_rests (s : State) (cause : Nat) (i : Fin 64) : ((s.holdSweeps cause).ten i).sweep.rests := by
  have hlist (l : List (Fin 64)) : ∀ s : State, (i ∈ l ∨ (s.ten i).sweep.rests) →
      ((l.foldl (fun s j => s.holdSweep j cause) s).ten i).sweep.rests := by
    induction l with
    | nil => exact fun s h => h.resolve_left (List.not_mem_nil)
    | cons j l ih =>
      refine fun s h => ih _ ?_
      by_cases hij : i = j
      · subst hij
        exact .inr (s.holdSweep_rests i cause)
      · rw [State.holdSweep_other s hij]
        exact h.imp_left fun h => (List.mem_cons.1 h).resolve_left hij
  exact hlist tenantIdxs s (.inl (mem_tenantIdxs i))

theorem State.holdSweeps_flt (s : State) (cause : Nat) : (s.holdSweeps cause).flt = s.flt := by
  have hflt (t : State) (i : Fin 64) : (t.holdSweep i cause).flt = t.flt := rfl
  exact State.foldl_keeps hflt _ _

theorem State.holdSweeps_gate (s : State) (cause : Nat) : (s.holdSweeps cause).gate = s.gate := by
  have hgate (t : State) (i : Fin 64) : (t.holdSweep i cause).gate = t.gate := rfl
  exact State.foldl_keeps hgate _ _

/-! ## The stop -/

/-- The instance stopped: sweeps held, an armed switch abandoned, no protected access left parked. -/
def State.halted (s : State) (cause : Nat) (answer : BitVec 4) (code : Nat) : State :=
  ((s.holdSweeps cause).dropSwitch State.raiseHeld).releaseParked (fun x => x.ctx.isSome) answer State.raiseHeld code

section
variable (s : State) (cause : Nat) (answer : BitVec 4) (code : Nat)

theorem State.halted_stance : (s.halted cause answer code).stance = { (s.holdSweeps cause).stance with
    park := s.gate.park.filter fun x => x.ctx.isNone } := by
  have hpark : ((s.holdSweeps cause).dropSwitch State.raiseHeld).gate.park = s.gate.park :=
    (congrArg Stance.park (State.dropSwitch_stance _)).trans (congrArg GateS.park (s.holdSweeps_gate cause))
  have hnone : (fun x : Parked => !x.ctx.isSome) = fun x => x.ctx.isNone := funext fun x => Option.not_isSome x.ctx
  rw [State.halted, State.releaseParked_stance, State.dropSwitch_stance, hpark, hnone]

theorem State.halted_flt : (s.halted cause answer code).flt.mode = s.flt.mode ∧
    (s.halted cause answer code).flt.phase = s.flt.phase ∧ (s.halted cause answer code).flt.dcause = s.flt.dcause := by
  have h := s.halted_stance cause answer code
  rw [← s.holdSweeps_flt cause]
  exact ⟨congrArg Stance.mode h, congrArg Stance.phase h, congrArg Stance.dcause h⟩

theorem State.halted_park : (s.halted cause answer code).gate.park = s.gate.park.filter fun x => x.ctx.isNone :=
  congrArg Stance.park (s.halted_stance cause answer code)

theorem State.halted_rests (i : Fin 64) : ((s.halted cause answer code).ten i).sweep.rests := by
  have h : (s.halted cause answer code).stance.sweeps = (s.holdSweeps cause).stance.sweeps := by rw [State.halted_stance]
  rw [State.sweep_of_stance h i]
  exact s.holdSweeps_rests cause i

theorem State.halted_mem : (s.halted cause answer code).mem = s.mem := by
  have h : (s.halted cause answer code).apart = s.apart :=
    (State.releaseParked_apart State.raiseHeld_apart _ _ _ _).trans ((State.dropSwitch_apart State.raiseHeld_apart _).trans
      (State.foldl_keeps (fun s i => s.holdSweep_apart i cause) _ _))
  exact (congrArg State.mem h : _)

theorem State.halted_wanted (h : s.flt.resetWanted = true) : (s.halted cause answer code).flt.resetWanted = true := by
  have hdrop : ((s.holdSweeps cause).dropSwitch State.raiseHeld).flt.resetWanted = true := by
    have hsweeps : (s.holdSweeps cause).flt.resetWanted = true := by rw [State.holdSweeps_flt, h]
    unfold State.dropSwitch
    split
    · exact hsweeps
    · exact State.raiseHeld_wanted _ hsweeps
  exact List.foldlRecOn _ _ (motive := fun t : State => t.flt.resetWanted = true) hdrop
    fun t ht x _ => State.raiseHeld_wanted _ ht

end

end Sys2Proof.Machine

/-! # The dust sheet

The entry, the drain and the capture, the hold and the lift (R324 to R326). -/

namespace Sys2Proof.Machine

/-! ## The entry (R324, R325, R339) -/

/-- The instance under dust sheet, its drain before it. -/
def State.dusted (s : State) (code : Nat) : State :=
  s.updFlt fun f => { f with mode := .dust, phase := .drain, dcause := BitVec.ofNat 8 code }

section
variable {s : State} (code : Nat)

theorem State.hold_normal (h : s.flt.mode = .normal) : s.hold code = (s.dusted code).halted code 0x6 0x36 := by
  simp only [State.hold, h]
  rfl

theorem State.hold_stopped (h : s.flt.mode = .dust ∨ s.flt.mode = .outOfService) : s.hold code = s := by
  rcases h with h | h <;> simp only [State.hold, h]

theorem State.hold_resetting (h : s.flt.mode = .resetting) : s.hold code =
    { s with flt := if s.flt.resetDust then s.flt else { s.flt with resetDust := true, dcause := BitVec.ofNat 8 code } } := by
  simp only [State.hold, h, State.updFlt]

theorem State.hold_committed (i : Fin 64) : ((s.hold code).ten i).commit.committed = (s.ten i).commit.committed :=
  (congrArg (fun t : TenantS => t.commit.committed) (State.ten_spared (s.hold_spared code) i) :)

end

/-! ## The drain and the capture (R324, R335) -/

/-- The drain over, the torn panels recorded. -/
def State.drained (s : State) (drained torn : List (Nat × Nat × Byte)) : State :=
  (s.updFlt fun f => { f with phase := .capture, drained := drained }).recordTorn torn

section
variable {s : State} {drained torn : List (Nat × Nat × Byte)}

theorem exec_dustDrainComplete_off (h : s.flt.phase ≠ .drain) : exec (.dustDrainComplete drained torn) s = .next s := if_pos h

theorem exec_dustDrainComplete (h : s.flt.phase = .drain) : exec (.dustDrainComplete drained torn) s =
    .next ((s.drained drained torn).beginCapture
      (if (s.drained drained torn).flt.mode = .resetting then 0 else (s.drained drained torn).flt.dcause)) :=
  if_neg (not_not.2 h)

theorem exec_dustDrainComplete_resetting (h : s.flt.phase = .drain) (hmode : (s.drained drained torn).flt.mode = .resetting) :
    exec (.dustDrainComplete drained torn) s = .next ((s.drained drained torn).beginCapture 0) := by
  rw [exec_dustDrainComplete h, if_pos hmode]

theorem exec_dustDrainComplete_dust (h : s.flt.phase = .drain) (hmode : (s.drained drained torn).flt.mode ≠ .resetting) :
    exec (.dustDrainComplete drained torn) s =
      .next ((s.drained drained torn).beginCapture (s.drained drained torn).flt.dcause) := by
  rw [exec_dustDrainComplete h, if_neg hmode]

end

/-- The hold that follows a capture. -/
def State.captureHeld (s : State) : State := s.updFlt fun f => { f with phase := .held }

/-- What follows the hold: event 0x13 where no reset is under way, and the reset that is wanted. -/
def State.heldOn (s : State) : State := if s.flt.mode = .resetting then s else s.raise { code := 0x13, core := true }

section
variable {s : State} {slot1 : Bool} {code : Byte}

theorem exec_crashCaptureComplete_none (h : s.crash.capturing = none) : exec .crashCaptureComplete s = .next s := by
  simp only [exec, execCrashCaptureComplete, h]

theorem exec_crashCaptureComplete (h : s.crash.capturing = some (slot1, code)) : exec .crashCaptureComplete s =
    if (s.endCapture slot1 code).flt.phase ≠ .capture then .next (s.endCapture slot1 code)
    else .next (if (s.endCapture slot1 code).captureHeld.heldOn.flt.resetWanted then
      (s.endCapture slot1 code).captureHeld.heldOn.beginReset else (s.endCapture slot1 code).captureHeld.heldOn) := by
  simp only [exec, execCrashCaptureComplete, h]
  rfl

end

/-! ## The lift (R326) -/

/-- What still refuses a lift under dust sheet. -/
def State.dustLasts (s : State) : Prop := s.flt.phase ≠ .held ∨ s.flt.resetWanted = true ∨ s.causes.getLsbD 0 = true

/-- Event 0x14 of a lift. -/
def State.liftRaised (s : State) : State := s.raise { code := 0x14, core := true }

section
variable {s : State} {a : Acc}

theorem State.liftRefused_normal (h : s.flt.mode = .normal) : s.liftRefused = false := by
  simp only [State.liftRefused, h]

theorem State.liftRefused_dust (h : s.flt.mode = .dust) : s.liftRefused = true ↔ s.dustLasts := by
  simp only [State.liftRefused, h, State.dustLasts, Bool.or_eq_true, bne_iff_ne, or_assoc]

theorem State.liftRefused_other (h : s.flt.mode = .outOfService ∨ s.flt.mode = .resetting) : s.liftRefused = true := by
  rcases h with h | h <;> simp only [State.liftRefused, h]

theorem exec_fltLift_refused (h : windowTakes s a 0x1818) (hrefused : s.liftRefused = true) :
    exec (.fltLift a) s = .next (s.refuse a.id 0x1818) := by
  obtain ⟨hp, -, hsys⟩ := h
  exact if_pos (by rw [hp, hsys, hrefused]; rfl)

theorem exec_fltLift_taken (h : windowTakes s a 0x1818) (htaken : s.liftRefused = false) :
    exec (.fltLift a) s = .next (s.ok a.id).lift :=
  (if_neg (by simp [htaken])).trans (congrArg _ (State.window_takes true State.lift h))

theorem exec_fltLift_foreign (hp : s.portsUp = true) (hsys : fromSystem a = false) :
    exec (.fltLift a) s = .next (s.refuse a.id 0x1818) :=
  (if_neg (by simp [hsys])).trans (congrArg _ (State.window_refuses State.lift hp (.inr hsys)))

theorem State.lift_normal (h : s.flt.mode = .normal) : s.lift = s := if_pos h

theorem State.lift_dust (h : s.flt.mode = .dust) : s.lift =
    ((if s.liftRaised.flt.dcause = 0x02 then
        s.liftRaised.flt.drained.foldl (fun s t => s.queueRepairAt (4096 * t.1)) s.liftRaised
      else s.liftRaised).updFlt fun f => { f with drained := [] }).rejoin true :=
  if_neg (by simp [h])

end

/-! ## The statement -/

/-- Settles O47: the entry by the mode it meets, its ends by the phase, the lift by what still lasts. -/
theorem dustRowsComplete : Obligations.DustRowsComplete := by
  refine ⟨fun s a hp hsys => ⟨congrArg _ (State.window_refuses _ hp (.inr hsys)), exec_fltLift_foreign hp hsys,
      congrArg _ (State.window_refuses _ hp (.inr hsys))⟩,
    fun s a h => ?_, fun s drained torn => ⟨exec_dustDrainComplete_off,
      exec_dustDrainComplete_resetting, exec_dustDrainComplete_dust⟩,
    fun s => exec_crashCaptureComplete_none, fun s slot1 code hcap => ?_, fun s slot1 code => ⟨?_, ?_⟩, fun s a h => ?_⟩
  · have hexec : exec (.fltDust a) s = .next ((s.ok a.id).hold 0) := congrArg _ (State.window_takes true _ h)
    rw [hexec]
    refine ⟨rfl, fun hn => ?_, fun hd => congrArg _ (State.hold_stopped (s := s.ok a.id) 0 hd), fun hr hd => ?_,
      fun hr hd => ?_⟩
    · obtain ⟨hmode, hphase, hcause⟩ := ((s.ok a.id).dusted 0).halted_flt 0 0x6 0x36
      have hcommitted (i : Fin 64) := State.hold_committed (s := s.ok a.id) 0 i
      rw [State.hold_normal (s := s.ok a.id) 0 hn] at hcommitted ⊢
      exact ⟨hmode, hphase, hcause, State.halted_mem .., State.halted_park .., State.halted_rests _ 0 0x6 0x36, hcommitted⟩
    · rw [State.hold_resetting (s := s.ok a.id) 0 hr]
      exact congrArg _ (congrArg (fun f => ({ s.ok a.id with flt := f } : State)) (if_pos hd))
    · rw [State.hold_resetting (s := s.ok a.id) 0 hr]
      exact congrArg _ (congrArg (fun f => ({ s.ok a.id with flt := f } : State)) (if_neg (Bool.eq_false_iff.1 hd)))
  · rw [exec_crashCaptureComplete hcap]
    refine ⟨fun hphase => if_pos hphase, fun t hphase hresetting hother => ?_⟩
    have ht : (s.endCapture slot1 code).captureHeld.heldOn = t := by
      by_cases hmode : (s.endCapture slot1 code).flt.mode = .resetting
      · exact (if_pos hmode).trans (hresetting hmode).symm
      · exact (if_neg hmode).trans (hother hmode).symm
    rw [if_neg (not_not.2 hphase), ht]
    exact ⟨fun hw => congrArg _ (if_neg (Bool.eq_false_iff.1 hw)), fun hw => congrArg _ (if_pos hw)⟩
  · rintro rfl
    rfl
  · rintro rfl
    rfl
  · refine ⟨fun hn => ?_, fun hd hlasts => exec_fltLift_refused h ((State.liftRefused_dust hd).2 hlasts),
      fun hother => exec_fltLift_refused h (State.liftRefused_other hother), fun t ht hd hfree => ?_⟩
    · rw [exec_fltLift_taken h (State.liftRefused_normal hn), State.lift_normal (s := s.ok a.id) hn]
    · have hraised : (s.ok a.id).liftRaised = t := ht.symm
      rw [exec_fltLift_taken h (Bool.eq_false_iff.2 (mt (State.liftRefused_dust hd).1 hfree)),
        State.lift_dust (s := s.ok a.id) hd, hraised]
      exact ⟨fun hc => by rw [if_neg hc]; rfl, fun hc => by rw [if_pos hc]⟩

end Sys2Proof.Machine

/-! # Resets and watchdogs

The resets software writes for, the wish for the instance's, the watchdogs, and the end of each reset (R330 to R333). -/

namespace Sys2Proof.Machine

/-! ## The writes (R331) -/

/-- A reset's unit selected by a write. -/
def State.resetSelected (s : State) (a : Acc) (u : Nat) : State :=
  (s.ok a.id).updFlt fun x => { x with resetSel := BitVec.ofNat 5 u }

section
variable {s : State} {a : Acc} {unit index : Nat} {f : State → State}

theorem State.resetWrite_refused (hp : s.portsUp = true) (hsys : fromSystem a = false) :
    s.resetWrite a unit index f = .next (s.refuse a.id 0x1820) := congrArg _ (State.window_refuses _ hp (.inr hsys))

theorem State.resetWrite_taken (h : windowTakes s a 0x1820) :
    s.resetWrite a unit index f = .next (f (s.resetSelected a (unit + index * 8))) :=
  congrArg _ (State.window_takes true _ h)

end

section
variable (a : Acc) (s : State)

theorem exec_resetLaneGroup (g : Fin 4) :
    exec (.resetLaneGroup a g) s = s.resetWrite a 0 g.val fun s => s.softReset (.lane g) := rfl

theorem exec_resetGfEngine (g : Fin 2) (busy : Option (Fin 16)) :
    exec (.resetGfEngine a g busy) s = s.resetWrite a 1 g.val fun s => s.softReset (.gf g) busy := rfl

theorem exec_resetEndpoint : exec (.resetEndpoint a) s = s.resetWrite a 2 0 fun s => s.softReset .endpoint := rfl

theorem exec_resetBadger : exec (.resetBadger a) s = s.resetWrite a 3 0 fun s => s.softReset .badger := rfl

theorem exec_resetInstance : exec (.resetInstance a) s = s.resetWrite a 4 0 fun s => s.wantReset false := rfl

theorem exec_resetCommand {g : Fin 4} {h : Fin 2} {busy : Option (Fin 16)} {c : Instr}
    (hc : c ∈ [Instr.resetLaneGroup a g, .resetGfEngine a h busy, .resetEndpoint a, .resetBadger a, .resetInstance a]) :
    ∃ (unit index : Nat) (f : State → State), exec c s = s.resetWrite a unit index f := by
  simp only [List.mem_cons, List.not_mem_nil, or_false] at hc
  rcases hc with rfl | rfl | rfl | rfl | rfl
  · exact ⟨_, _, _, exec_resetLaneGroup a s g⟩
  · exact ⟨_, _, _, exec_resetGfEngine a s h busy⟩
  · exact ⟨_, _, _, exec_resetEndpoint a s⟩
  · exact ⟨_, _, _, exec_resetBadger a s⟩
  · exact ⟨_, _, _, exec_resetInstance a s⟩

variable {a s} (h : windowTakes s a 0x1820)
include h

theorem exec_resetLaneGroup_taken (g : Fin 4) :
    exec (.resetLaneGroup a g) s = .next ((s.resetSelected a (8 * g.val)).softReset (.lane g)) := by
  rw [exec_resetLaneGroup, State.resetWrite_taken h, Nat.zero_add, Nat.mul_comm]

theorem exec_resetGfEngine_taken (g : Fin 2) (busy : Option (Fin 16)) :
    exec (.resetGfEngine a g busy) s = .next ((s.resetSelected a (1 + 8 * g.val)).softReset (.gf g) busy) := by
  rw [exec_resetGfEngine, State.resetWrite_taken h, Nat.mul_comm]

theorem exec_resetEndpoint_taken : exec (.resetEndpoint a) s = .next ((s.resetSelected a 2).softReset .endpoint) := by
  rw [exec_resetEndpoint, State.resetWrite_taken h]

theorem exec_resetBadger_taken : exec (.resetBadger a) s = .next ((s.resetSelected a 3).softReset .badger) := by
  rw [exec_resetBadger, State.resetWrite_taken h]

theorem exec_resetInstance_taken : exec (.resetInstance a) s = .next ((s.resetSelected a 4).wantReset false) := by
  rw [exec_resetInstance, State.resetWrite_taken h]

end

section
variable {s : State} {u : ResetUnit} {busy : Option (Fin 16)}

theorem State.softReset_begins (h : s.flt.mode ≠ .resetting) : s.softReset u busy = s.beginUnit u busy := if_neg h

theorem State.softReset_merged (h : s.flt.mode = .resetting) : s.softReset u busy = s := if_pos h

theorem State.beginUnit_lane {g : Fin 4} (h : ResetUnit.lane g ∉ s.flt.inReset) : s.beginUnit (.lane g) =
    s.updFlt fun f => { f with
      inReset := f.inReset ++ [.lane g], unitResets := f.unitResets ++ [(.lane g, s.time.now)] } :=
  if_neg (by simpa using h)

theorem State.beginUnit_badger (h : ResetUnit.badger ∉ s.flt.inReset) : s.beginUnit .badger =
    { s.updFlt fun f => { f with
        inReset := f.inReset ++ [.badger], unitResets := f.unitResets ++ [(.badger, s.time.now)] } with
      badger := { s.badger with runs := [], helps := [] }, audit := { s.audit with helps := [] } } :=
  if_neg (by simpa using h)

end

/-! ## The instance's reset wanted (R331, R332, R339) -/

/-- The wish for an instance reset noted. -/
def FaultS.wanting (f : FaultS) (ret : Bool) : FaultS :=
  { f with resetWanted := true, resetReturn := f.resetReturn || ret, resetCounted := f.resetCounted && !ret }

section
variable {s : State} (ret : Bool)

theorem State.wantReset_normal (h : s.flt.mode = .normal) : s.wantReset ret =
    (s.updFlt fun f => { f.wanting ret with mode := .resetting, phase := .drain, dcause := 0, resetDust := ret }).halted
      0 0x7 0x37 := by
  simp only [State.wantReset, h]
  rfl

theorem State.wantReset_resetting (h : s.flt.mode = .resetting) : s.wantReset ret = { s with flt := { s.flt with
    resetReturn := s.flt.resetReturn || ret, resetCounted := s.flt.resetCounted && !ret
    resetDust := s.flt.resetDust || ret } } := by
  simp only [State.wantReset, h, State.updFlt]

theorem State.wantReset_stopped (h : s.flt.mode = .dust ∨ s.flt.mode = .outOfService) : s.wantReset ret =
    if s.flt.phase = .held then State.beginReset { s with flt := s.flt.wanting ret }
    else { s with flt := s.flt.wanting ret } := by
  rcases h with h | h
  · simp only [State.wantReset, h]
    rfl
  · simp only [State.wantReset, h]
    rfl

end

/-! ## Watchdogs (R29, R330, R331) -/

theorem exec_watchdogExpiry_off {s : State} (h : s.portsUp = false) (x : WatchdogAt) : exec (.watchdogExpiry x) s = .next s :=
  if_pos (by rw [h]; rfl)

section
variable {s : State} (hp : s.portsUp = true) (now : BitVec 64)
include hp

theorem exec_watchdogExpiry (w : Watchdog) : exec (.watchdogExpiry ⟨w, now⟩) s =
    .next (match w with
      | .lane g => (s.at_ now).unitExpiry (.lane g) 0x09
      | .gf i busy => (s.at_ now).unitExpiry (.gf i) 0x0A busy
      | .endpoint => (s.at_ now).unitExpiry .endpoint 0x0B
      | .badger => (s.at_ now).unitExpiry .badger 0x0C
      | .sequencer => (s.at_ now).raise { code := 0x0D, core := true }
      | .memory id => (s.at_ now).overdue id) :=
  (if_neg (by simp [hp])).trans (by cases w <;> rfl)

theorem exec_watchdogExpiry_unit {w : Watchdog} {u : ResetUnit} {code : Nat} {busy : Option (Fin 16)}
    (h : (∃ g : Fin 4, w = .lane g ∧ u = .lane g ∧ code = 0x09 ∧ busy = none) ∨
      (∃ g : Fin 2, w = .gf g busy ∧ u = .gf g ∧ code = 0x0A) ∨
      (w = .endpoint ∧ u = .endpoint ∧ code = 0x0B ∧ busy = none) ∨
      (w = .badger ∧ u = .badger ∧ code = 0x0C ∧ busy = none)) :
    exec (.watchdogExpiry ⟨w, now⟩) s = .next ((s.at_ now).unitExpiry u code busy) := by
  rw [exec_watchdogExpiry hp]
  rcases h with ⟨g, rfl, rfl, rfl, rfl⟩ | ⟨g, rfl, rfl, rfl⟩ | ⟨rfl, rfl, rfl, rfl⟩ | ⟨rfl, rfl, rfl, rfl⟩
  · rfl
  · rfl
  · rfl
  · rfl

end

section
variable {s : State} {u : ResetUnit} {code : Nat} {busy : Option (Fin 16)}

theorem State.unitExpiry_resets (h : s.unitLimited u = false) : s.unitExpiry u code busy =
    s.raise { code := code, core := true, unit := unitNumber u, ru := some u } busy := if_neg (Bool.eq_false_iff.1 h)

theorem State.unitExpiry_limited (h : s.unitLimited u = true) :
    s.unitExpiry u code busy = s.raise { code := 0x1A, core := true, unit := unitNumber u } := if_pos h

variable {id : BitVec 12}

theorem State.overdue_none (h : (s.gate.mq.find? fun m => m.id == id && m.got.isNone) = none) : s.overdue id =
    State.raise { s with flt := { s.flt with overdue := addOnce id s.flt.overdue } } { code := 0x0E, core := true } := by
  simp only [State.overdue, h, State.updFlt]

theorem State.overdue_some {m : MqReq} (h : (s.gate.mq.find? fun m => m.id == id && m.got.isNone) = some m) :
    s.overdue id = State.raise (State.updFlt (State.answerLine (State.lineBad
      { s with gate := { s.gate with mq := s.gate.mq.filter fun x => x.id != id } } m) m.line)
        fun f => { f with overdue := addOnce id f.overdue }) { code := 0x0E, core := true } := by
  simp only [State.overdue, h]

end

/-! ## The end of a unit's reset (R62, R323, R331) -/

/-- The event of the end of a unit's reset. -/
def unitEndEvent (u : ResetUnit) : Nat := match u with | .lane _ => 0x7A | _ => 0x11

theorem unitEndEvent_eq {u : ResetUnit} {code : Nat} (hlane : (∃ g : Fin 4, u = .lane g) → code = 0x7A)
    (hother : (∀ g : Fin 4, u ≠ .lane g) → code = 0x11) : unitEndEvent u = code := by
  cases u with
  | lane g => exact (hlane ⟨g, rfl⟩).symm
  | gf i => exact (hother fun g => nofun).symm
  | endpoint => exact (hother fun g => nofun).symm
  | badger => exact (hother fun g => nofun).symm
  | instance_ => exact (hother fun g => nofun).symm

/-- A unit out of its reset, its event raised. -/
def State.unitOut (s : State) (u : ResetUnit) (code : Nat) : State :=
  (s.updFlt fun f => { f with
    inReset := f.inReset.filter (· != u), handling := f.handling.filter fun h => h.scope != .unit u }).raise
      { code := code, core := true, unit := unitNumber u }

section
variable {s : State} {u : ResetUnit}

theorem exec_unitResetComplete_off (h : u ∉ s.flt.inReset) : exec (.unitResetComplete u) s = .next s :=
  if_pos (by simpa using h)

theorem exec_unitResetComplete (h : u ∈ s.flt.inReset) : exec (.unitResetComplete u) s =
    .next (if u = .endpoint then (s.unitOut u (unitEndEvent u)).resendRequests else s.unitOut u (unitEndEvent u)).goOn := by
  refine (if_neg (by simpa using h)).trans ?_
  show Host.Outcome.next (State.goOn (if u = .endpoint then (s.unitOut u _).resendRequests else s.unitOut u _)) = _
  cases u with
  | lane g => rfl
  | gf i => rfl
  | endpoint => rfl
  | badger => rfl
  | instance_ => rfl

end

/-! ## The end of the instance's reset (R320, R332, R333) -/

/-- Event 0x12 of the end of an instance reset. -/
def State.resetEnds (s : State) (now : BitVec 64) : State := (s.at_ now).raise { code := 0x12, core := true }

/-- The marks of an instance reset cleared, the torn panels queued for repair. -/
def State.resetOver (s : State) : State :=
  (s.updFlt fun f => { f with resetDust := false, resetCounted := false, resetReturn := false, resetOut := false }).queueTorn

/-- Whether counted resets have used up the instance. -/
def State.resetLimit (s : State) : Bool := s.flt.resetCounted && decide (s.cfg.glob.escLimit ≤ s.resetsInWindow)

/-- Where an instance reset leaves the instance. -/
def State.resetLeaves (s : State) : State :=
  if s.flt.resetReturn then
    (s.resetOver.updFlt fun f => { f with mode := .dust, resets := [] }).raise { code := 0x16, core := true }
  else if s.resetLimit then (s.resetOver.updFlt fun f => { f with mode := .outOfService }).raise { code := 0x15, core := true }
  else if s.flt.resetOut then s.resetOver.updFlt fun f => { f with mode := .outOfService }
  else if s.flt.resetDust then s.resetOver.updFlt fun f => { f with mode := .dust }
  else s.resetOver.rejoin false

section
variable {s : State} (now : BitVec 64)

theorem exec_instanceResetComplete_off (h : s.flt.mode ≠ .resetting ∨ s.flt.phase ≠ .held) :
    exec (.instanceResetComplete now) s = .next s := if_pos h

theorem exec_instanceResetComplete (hmode : s.flt.mode = .resetting) (hphase : s.flt.phase = .held) :
    exec (.instanceResetComplete now) s = .next (s.resetEnds now).resetLeaves :=
  if_neg (not_or.2 ⟨not_not.2 hmode, not_not.2 hphase⟩)

theorem State.resetEnds_cfg : (s.resetEnds now).cfg = s.cfg := by
  have h : (s.resetEnds now).cfg = (s.at_ now).cfg :=
    (congrArg (fun t : State => t.loader.active) ((s.at_ now).raise_apart { code := 0x12, core := true } none) :)
  rw [h, State.at_frame]
  rfl

theorem State.resetLimit_iff : (s.resetEnds now).resetLimit = true ↔ (s.resetEnds now).flt.resetCounted = true ∧
    s.cfg.glob.escLimit ≤ (s.resetEnds now).resetsInWindow := by
  rw [State.resetLimit, Bool.and_eq_true, decide_eq_true_eq, State.resetEnds_cfg]

end

section
variable {s : State}

theorem State.resetLeaves_returned (h : s.flt.resetReturn = true) : s.resetLeaves =
    (s.resetOver.updFlt fun f => { f with mode := .dust, resets := [] }).raise { code := 0x16, core := true } := if_pos h

variable (hback : ¬ s.flt.resetReturn = true)
include hback

theorem State.resetLeaves_limit (h : s.resetLimit = true) : s.resetLeaves =
    (s.resetOver.updFlt fun f => { f with mode := .outOfService }).raise { code := 0x15, core := true } :=
  (if_neg hback).trans (if_pos h)

variable (hlimit : ¬ s.resetLimit = true)
include hlimit

theorem State.resetLeaves_out (h : s.flt.resetOut = true) :
    s.resetLeaves = s.resetOver.updFlt fun f => { f with mode := .outOfService } :=
  (if_neg hback).trans ((if_neg hlimit).trans (if_pos h))

variable (hout : s.flt.resetOut = false)
include hout

theorem State.resetLeaves_dust (h : s.flt.resetDust = true) :
    s.resetLeaves = s.resetOver.updFlt fun f => { f with mode := .dust } :=
  (if_neg hback).trans ((if_neg hlimit).trans ((if_neg (Bool.eq_false_iff.1 hout)).trans (if_pos h)))

theorem State.resetLeaves_service (h : s.flt.resetDust = false) : s.resetLeaves = s.resetOver.rejoin false :=
  (if_neg hback).trans ((if_neg hlimit).trans ((if_neg (Bool.eq_false_iff.1 hout)).trans (if_neg (Bool.eq_false_iff.1 h))))

end

/-! ## The statement -/

/-- Settles O48: a reset's write by the mode it meets, a watchdog by its unit, an end by the marks the reset bears. -/
theorem resetRowsComplete : Obligations.ResetRowsComplete := by
  refine ⟨fun s a g h busy c hp hsys hc => ?_, fun s a h => ?_, fun s a h => congrArg _ (State.window_takes true _ h),
    fun s ret => ⟨fun hn => ?_, fun hr => State.wantReset_resetting ret hr, fun hd => ⟨fun hphase => ?_, fun hphase => ?_⟩⟩,
    fun s w now h => exec_watchdogExpiry_off h _, fun s now hp => ⟨fun w u code busy hw => ⟨fun hl => ?_, fun hl => ?_⟩,
      exec_watchdogExpiry hp now .sequencer, fun id => ?_⟩,
    fun s u => exec_unitResetComplete_off, fun s u code hu hlane hother => ?_,
    fun s now => exec_instanceResetComplete_off now, fun s now hmode hphase => ?_⟩
  · obtain ⟨unit, index, f, hexec⟩ := exec_resetCommand a s hc
    rw [hexec, State.resetWrite_refused hp hsys]
  · simp only [exec_resetLaneGroup_taken h, exec_resetGfEngine_taken h, exec_resetEndpoint_taken h, exec_resetBadger_taken h]
    refine ⟨fun hmode => ⟨fun g => ⟨congrArg _ (State.softReset_begins hmode), fun hg => ?_⟩,
        fun g busy => congrArg _ (State.softReset_begins hmode), congrArg _ (State.softReset_begins hmode),
        congrArg _ (State.softReset_begins hmode), fun hb => ?_⟩,
      fun hmode => ⟨fun g => congrArg _ (State.softReset_merged hmode), fun g busy => congrArg _ (State.softReset_merged hmode),
        congrArg _ (State.softReset_merged hmode), congrArg _ (State.softReset_merged hmode)⟩,
      exec_resetInstance_taken h⟩
    · exact congrArg (fun t : State => t.flt.inReset) (State.beginUnit_lane (s := s.resetSelected a (8 * g.val)) hg)
    · have hbegun := State.beginUnit_badger (s := s.resetSelected a 3) hb
      exact ⟨congrArg (fun t : State => t.badger.runs) hbegun, congrArg (fun t : State => t.badger.helps) hbegun,
        (congrArg State.mem hbegun :), (congrArg State.tenants hbegun :)⟩
  · rw [State.wantReset_normal ret hn]
    obtain ⟨hmode, hphase, -⟩ := State.halted_flt (s.updFlt fun f => { f.wanting ret with
      mode := .resetting, phase := .drain, dcause := 0, resetDust := ret }) 0 0x7 0x37
    exact ⟨hmode, hphase, State.halted_wanted _ 0 0x7 0x37 rfl, State.halted_mem .., State.halted_park ..⟩
  · exact (State.wantReset_stopped ret hd).trans (if_neg hphase)
  · exact (State.wantReset_stopped ret hd).trans (if_pos hphase)
  · rw [exec_watchdogExpiry_unit hp now hw, State.unitExpiry_resets hl]
  · rw [exec_watchdogExpiry_unit hp now hw, State.unitExpiry_limited hl]
  · simp only [exec_watchdogExpiry hp now (.memory id), ← s.at_gate now, ← s.at_flt now]
    generalize s.at_ now = t
    exact ⟨fun h => congrArg _ (State.overdue_none h), fun m h => congrArg _ (State.overdue_some h)⟩
  · rw [exec_unitResetComplete hu, unitEndEvent_eq hlane hother]
    refine ⟨fun h => ?_, fun h => ?_⟩
    · rw [if_neg h, State.goOn, State.unitOut, State.updFlt]
    · rw [if_pos h, State.goOn, State.unitOut, State.updFlt]
  · rw [exec_instanceResetComplete now hmode hphase]
    have hlimit := State.resetLimit_iff (s := s) now
    exact ⟨fun h => congrArg _ (State.resetLeaves_returned h),
      fun hback h => congrArg _ (State.resetLeaves_limit hback (hlimit.2 h)),
      fun hback h hout => congrArg _ (State.resetLeaves_out hback (mt hlimit.1 h) hout),
      fun hback h hout hdust => congrArg _ (State.resetLeaves_dust hback (mt hlimit.1 h) hout hdust),
      fun hback h hout hdust => congrArg _ (State.resetLeaves_service hback (mt hlimit.1 h) hout hdust)⟩

end Sys2Proof.Machine
